-- ==== Sys2Proof/Word.lean ====
section
/-! DEFINITION. The word types of the module and the index types of its numbered parts. -/
namespace Sys2Proof

abbrev Byte := BitVec 8
abbrev W16 := BitVec 16
abbrev W32 := BitVec 32
abbrev W64 := BitVec 64

/-- Context id 0-63 (R244). -/
abbrev CtxId := Fin 64
/-- Logical engine 0-63 (R9). -/
abbrev EngineId := Fin 64
/-- Physical slice slot 0-71 (R12). -/
abbrev SlotId := Fin 72
/-- Command ring: 0-63 as R264 numbers them, 64 for the management ring (R508). -/
abbrev RingId := Fin 65
/-- Fabric link code (R331). -/
abbrev LinkId := Fin 14
/-- DMA channel (R162). -/
abbrev ChanId := Fin 32
/-- Semaphore (R320). -/
abbrev SemId := Fin 4096
/-- HBM stack (R208). -/
abbrev StackId := Fin 24
/-- Control core (R270). -/
abbrev CoreId := Fin 16
/-- Weight slot of a context (R232). -/
abbrev WSlotId := Fin 8
/-- Priority class (R272). -/
abbrev PrioClass := Fin 4

end Sys2Proof
end

