-- ==== Sys2Proof/Syntax.lean ====
section
/-! DEFINITION. The commands of the block: one constructor of `Instr` for each row of the table of operations and
events. A command packet's row carries the packet header and the parameters of its opcode; an event's row carries what
the outside world decides about it (which unit, what was measured, what the packet or frame holds). -/
namespace Sys2Proof

/-- Paths that reach a register (R527). Each control core is a path of its own (R530). -/
inductive Path where
  | host
  | mgt
  | fw (core : CoreId)
deriving DecidableEq, Repr

/-- Parameters of a command packet by opcode (R279), as the packet's bytes hold them. -/
inductive Op where
  /-- 0x0100 (R279). -/
  | nop
  /-- 0x0101 (R280). -/
  | admMode (mode : W32)
  /-- 0x0102 with ACTION START (R280, R271). -/
  | admServiceStart (svc : Byte) (va len : W64)
  /-- 0x0102 with ACTION STOP. -/
  | admServiceStop (svc : Byte)
  /-- 0x0103 (R280, R332). -/
  | admIdentity (x y z w : Byte)
  /-- 0x0200 (R248). -/
  | ctxCreate (ctx classes : Byte) (semBase semCount : W16) (tenant seed : W64)
  /-- 0x0201 (R256, R280). -/
  | ctxFence (ctx mode : Byte)
  /-- 0x0202 (R256, R280). -/
  | ctxUnfence (ctx : Byte)
  /-- 0x0203 (R257, R280). -/
  | ctxDestroy (ctx : Byte)
  /-- 0x0300 (R203). -/
  | memMap (va len : W64) (attr : W32)
  /-- 0x0301 (R203). -/
  | memUnmap (va len : W64)
  /-- 0x0302 (R203). -/
  | memHint (va len : W64) (attr : W32)
  /-- 0x0303 (R203, R196). -/
  | memQuota (ctx : Byte) (t2 t3 t4 shadow : W32)
  /-- 0x0304 with ACTION RETRY (R203, R205). -/
  | memResolveRetry (faultId : W32)
  /-- 0x0304 with ACTION FAIL. -/
  | memResolveFail (faultId : W32)
  /-- 0x0400 with OP BEGIN (R224, R226). -/
  | wgtInstallBegin (img : Byte) (va len : W64)
  /-- 0x0400 with OP CHUNKS. -/
  | wgtInstallChunks (img : Byte) (va : W64) (first count : W32)
  /-- 0x0400 with OP COMMIT. -/
  | wgtInstallCommit (img : Byte)
  /-- 0x0400 with OP ABORT. -/
  | wgtInstallAbort (img : Byte)
  /-- 0x0401 (R226). -/
  | wgtErase (img : Byte)
  /-- 0x0402 with KOP ADD (R223, R226). -/
  | wgtKeyAdd (slot : Byte) (va : W64)
  /-- 0x0402 with KOP REVOKE. -/
  | wgtKeyRevoke (slot : Byte)
  /-- 0x0403 (R226, R228). -/
  | wgtLoad (img slot : Byte) (group members : W16) (lflags : Byte) (va len smap : W64) (smapCount : W32)
  /-- 0x0404 (R233). -/
  | wgtPin (n : W32)
  /-- 0x0405 (R233). -/
  | wgtUnpin (slot : Byte) (n : W32)
  /-- 0x0406 (R233). -/
  | wgtSwitch (slot : Byte)
  /-- 0x0407 (R233). -/
  | wgtDrop (slot : Byte)
  /-- 0x0408 (R239). -/
  | keelWrite (kslot : Byte) (smap : W64) (smapCount : W32) (job : W64) (step : W32)
  /-- 0x0409 (R239). -/
  | keelRead (kslot : Byte) (smap : W64) (smapCount : W32)
  /-- 0x040A (R239). -/
  | keelDrop (kslot : Byte)
  /-- 0x0500 (R280, R295). -/
  | submitGraph (gslot gflags : Byte) (step : W32) (gaddr : W64) (glen : W32)
  /-- 0x0501. -/
  | graphRun (gslot : Byte) (step : W32)
  /-- 0x0502. -/
  | graphRelease (gslot : Byte)
  /-- 0x0510: reference to a kernel block (R283, R288). -/
  | matmul (kpb : W64) (kpbLen : W32)
  /-- 0x0511 (R289, R109). -/
  | vector (kpb : W64) (kpbLen : W32)
  /-- 0x0512 (R289, R113). -/
  | reduce (kpb : W64) (kpbLen : W32)
  /-- 0x0513 (R289, R115). -/
  | attnFwd (kpb : W64) (kpbLen : W32)
  /-- 0x0514 (R289, R118). -/
  | attnBwd (kpb : W64) (kpbLen : W32)
  /-- 0x0515 (R290, R121). -/
  | optUpdate (kpb : W64) (kpbLen : W32)
  /-- 0x0520 (R327). -/
  | stepFence (step : W32)
  /-- 0x0521 (R321). -/
  | semAcquire (sem value : W16)
  /-- 0x0522. -/
  | semRelease (sem value : W16)
  /-- 0x0600 (R164). -/
  | dmaStart (desc qaddr : W64) (count : W16) (chan pacing : Byte) (low high : W32) (rateCap holdTicks : Byte)
  /-- 0x0601 (R181). -/
  | dmaAbort (chan : Byte)
  /-- 0x0700 (R367). -/
  | collReduceScatter (kpb : W64) (kpbLen : W32)
  /-- 0x0701 (R368). -/
  | collAllGather (kpb : W64) (kpbLen : W32)
  /-- 0x0702 (R369). -/
  | collAllReduce (kpb : W64) (kpbLen : W32)
  /-- 0x0703 (R370). -/
  | collMulticast (kpb : W64) (kpbLen : W32)
  /-- 0x0704 (R371). -/
  | collPermute (kpb : W64) (kpbLen : W32)
  /-- 0x0800 (R404). -/
  | mirPair (ctx gsize gpos : Byte) (partner ward guest : W16) (gtab ptab : W64) (pcount : W16)
  /-- 0x0801 (R406). -/
  | mirSync (step : W32)
  /-- 0x0802 (R413). -/
  | mirIntercalate (failed : W16) (method source : Byte) (step : W32) (job : W64)
  /-- 0x0803 (R413). -/
  | mirRestore (ctx source : Byte) (step : W32)
  /-- 0x0804 (R398). -/
  | jobRelease (job : W64) (ident : W16)
  /-- 0x0805 (R398). -/
  | jobJoin (job : W64) (member : W16) (ctx : Byte) (plan : W64) (plen : W32)
  /-- 0x0A00 (R300). -/
  | queryProgress (ring : Byte) (tseq : W32) (va : W64) (len : W32)
  /-- 0x0A01 (R301). -/
  | queryStatus (ring : Byte) (tseq : W32) (va : W64)
  /-- 0x0F00 (R424). -/
  | diagSentinel (engine pattern cond : Byte) (va : W64) (len : W32)
  /-- 0x0900 (R490). -/
  | srvStart (svc ctx : Byte) (cfg : W64)
  /-- 0x0901 (R490); MODE 0 DRAIN, 1 NOW. -/
  | srvStop (svc mode : Byte)
  /-- 0x0902 (R483). -/
  | feQueue (queue ctx : Byte) (udp : W16) (spread index : Byte)
  /-- 0x0A02 (R520). -/
  | queryTelemetry (first count : W16) (va : W64) (len : W32)
  /-- 0x0F01 (R475). -/
  | diagBist (unit : W16) (level : Byte) (va : W64) (len : W32)
  /-- 0x0F02 (R476). -/
  | diagPrbs (link pattern : Byte) (duration : W16) (va : W64)
  /-- 0x0F03 (R449). -/
  | diagEmberRead (src : Byte) (index : W16) (offset va : W64) (len : W32)
  /-- 0x0F04 with KIND 0x1 (R450). -/
  | injectUnitHang (target count code : W16)
  /-- 0x0F04 with KIND 0x2. -/
  | injectCheckFlip (target count code : W16)
  /-- 0x0F04 with KIND 0x3. -/
  | injectEccCe (target count code : W16)
  /-- 0x0F04 with KIND 0x4. -/
  | injectEccUe (target count code : W16)
  /-- 0x0F04 with KIND 0x5. -/
  | injectDeviceReset (target count code : W16)
  /-- 0x0F04 with KIND 0x6. -/
  | injectEventFlood (target count code : W16)
  /-- A defined opcode whose selector byte (ACTION, OP, KOP, KIND) has an undefined encoding. -/
  | malformed (opcode : W16)
  /-- An opcode R279 reserves. -/
  | reserved (opcode : W16)
deriving DecidableEq, Repr

/-- Header of a command packet (R272), with the ring that carries it. -/
structure Hdr where
  ring : RingId
  prio : PrioClass := 0
  ctx : CtxId := 0
  fixed : Bool := false
  notify : Bool := false
  chain : Bool := false
  /-- Reserved FLAGS bits [7:3]. -/
  rsvFlags : BitVec 5 := 0
  seq : W32 := 0
  budget : W32 := 0
  dep : W32 := 0
  /-- Some reserved bit of PARAM is 1 (R282). -/
  rsvParam : Bool := false
deriving DecidableEq, Repr

/-- How a read of HBM ended (R209): clean, corrected, or uncorrectable, with channel and row. -/
inductive Ecc where
  | ok
  | ce (channel : Fin 32) (row : Nat)
  | ue (channel : Fin 32) (row : Nat)
deriving DecidableEq, Repr

/-- How a DMA burst landed (R179). -/
inductive BurstEnd where
  | ok
  | uncorrectable
  | hostError
deriving DecidableEq, Repr

/-- A reset domain other than the device (R435). -/
inductive Domain where
  | slice (p : SlotId)
  | octave (o : Fin 8)
  | channel (s : StackId) (c : Fin 32)
  | link (l : LinkId)
deriving DecidableEq, Repr

/-- The control slot of a flit (R339) with what the link layer measured of the flit. -/
structure Flit where
  fseq : W16 := 0
  ackseq : W16 := 0
  valid : BitVec 19 := 0
  nak : Bool := false
  credits : List Nat := []
  beat : Bool := false
  ack : Bool := false
  hbState : Fin 4 := 0
  hbReason : W16 := 0
  hbTick : W32 := 0
  incarn : W32 := 0
  tstamp : W64 := 0
  echoRx : W64 := 0
  ident : W16 := 0xFFFF
  pslot : Fin 16 := 0
  stratum : Byte := 0
  gmPrio : Byte := 255
  gmIdent : W16 := 0xFFFF
  spareReq : Bool := false
  spareGo : Bool := false
  spareLane : Fin 32 := 0
  spareNew : Fin 32 := 0
  /-- The CRC of the flit matches. -/
  crcOk : Bool := true
  /-- Corrected symbols and uncorrectable codewords of the flit. -/
  fecCe : Nat := 0
  fecUe : Nat := 0
  /-- Offset to the parent this exchange gave, in 1/16 ns (R350). -/
  offset : Int := 0
deriving DecidableEq, Repr

/-- Header of a fabric packet (R342) as it arrives on a link, with the outcome of its GCM tag check. -/
structure Pkt where
  link : LinkId
  tagOk : Bool := true
  vc : Fin 8 := 0
  cls : PrioClass := 0
  dst : W16
  src : W16
  ctx : CtxId := 0
  gen : Byte := 0
  stamp : Byte := 0
  hops : Byte := 0
  attempt : W32 := 0
  addr : W64 := 0
deriving DecidableEq, Repr

/-- Messages between service images (R399, R408, R412, R235, R230). -/
inductive SvcMsg where
  /-- A member names the step whose boundary it has not passed, for a pending change of its job. -/
  | boundary (job : W64) (step : W32)
  /-- A change of a job begins: the release or join of the replica of a sled (R399 step 1). -/
  | change (job : W64) (release : Bool) (x y z : Fin 16)
  /-- The permutes of a change have committed; the step is the first under the new plan (R399 step 4). -/
  | changed (job : W64) (step : W32)
  /-- A member answers a joining module: plan, PV and mapping epoch, SEED and tenant tag of the job, and its scale table (R130). -/
  | admitted (job : W64) (plan : List Byte) (step epoch mepoch : W32) (seed tenant : W64) (scales : List Byte)
  /-- A member or founder turns a JOB_JOIN down. -/
  | rejected (job : W64) (status : W16)
  /-- A member has committed MIR_SYNC for a step. -/
  | synced (job : W64) (step : W32)
  /-- The membership service names a member as failed. -/
  | failed (ident : W16)
  /-- The membership service asks this module's own to submit MIR_INTERCALATE, with the record of the sealed copy. -/
  | intercalate (failed : W16) (source : Byte) (step : W32) (job : W64) (record : List Byte)
  /-- A sled peer reports a ROOT newly installed, with the chunks present. -/
  | installed (peer : Fin 9) (root : List Byte) (chunks : List (Nat × List Byte))
  /-- A module of a joining replica has issued JOB_JOIN, with the hash of its plan. -/
  | joining (job : W64) (planHash : List Byte)
  /-- Event record of an incident (R453). -/
  | incident (record : List Byte)
deriving DecidableEq, Repr

/-- How a start phase ended, with what the phase measured (R461, R468). -/
structure PhaseEnd where
  /-- The phase succeeded by its own tests; the rules of R468 apply on top. -/
  ok : Bool := true
  /-- Milliseconds since the start. -/
  ms : Nat := 0
  /-- ROOT: SEC self-test. FIRMWARE: the banks' checks, A and B. -/
  bankSig : Bool × Bool := (true, true)
  /-- ALMANAC: the 42 entries read, the strap value, sensors above their start limit. -/
  almanac : List (List Byte) := []
  strap : Fin 16 := 0
  hot : Bool := false
  /-- ARCHIVE: the ledger was readable. -/
  ledgerOk : Bool := true
  /-- BIST: slices and cores that failed; a crossbar segment, GSC, CTX, RAS or ember SRAM failed. -/
  badSlots : List SlotId := []
  badCores : List CoreId := []
  badCentral : Bool := false
  /-- HBM: stacks that failed training, channels that failed the test. -/
  badStacks : List StackId := []
  badChannels : List (StackId × Fin 32) := []
  /-- HOST_EN_N is asserted. -/
  hostEn : Bool := true
deriving DecidableEq, Repr

/-- An IPv6 packet in an Ethernet frame as FEN sees it after MACsec (R480, R481). -/
structure Frame where
  /-- Frame bytes, MACsec overhead included. -/
  bytes : Nat
  /-- The SecTAG and ICV are valid and the frame passes replay protection. -/
  secure : Bool
  srcIp : BitVec 128
  dstIp : BitVec 128
  /-- The next header is an extension header, a fragment header included. -/
  ext : Bool := false
  /-- Next header: 17 for UDP, 58 for ICMPv6. -/
  next : Byte := 17
  udpOk : Bool := true
  udpDst : W16 := 0
  /-- The IPv6 packet, from its first header byte. -/
  packet : List Byte
  /-- The Deush SESSION field, when the payload is Deush. -/
  session : Option W64 := none
deriving DecidableEq, Repr

/-- A Deush REQUEST (R484, R487). -/
structure Request where
  client : BitVec 128
  udp : W16
  /-- The header's MAGIC, VERSION, TYPE, LEN and reserved fields are as R484 asks. -/
  ok : Bool := true
  resetCtx : Bool := false
  session : W64
  req : W32
  ack : W32 := 0
  service : Byte
  rclass : Byte
  nstop : Byte
  /-- The reserved byte at 0x23. -/
  rsv : Byte := 0
  prompt : W32
  maxTokens : W32
  firstDl : W32
  totalDl : W32
  temp : W32
  topP : W32
  topK : W32
  seed : W64
  stops : List W32
  tokens : List W32
  /-- Arrival, µs of module time. -/
  at_ : Nat
deriving DecidableEq, Repr

/-- SPDM requests the module answers (R506). -/
inductive SpdmReq where
  | certificate (slot : Fin 8)
  | measurement (index : Byte)
  | keyExchange
  | finish (session : Fin 2)
  | endSession (session : Fin 2)
deriving DecidableEq, Repr

/-- The commands of the block, one constructor for each row of the table. -/
inductive Instr where
  /-- NOP (R279). Command that does nothing and completes when its dependences end. -/
  | nop (h : Hdr)
  /-- ADM_MODE (R280). Command that writes a value to MODE_CTL on the firmware path, under the rules of R23. -/
  | admMode (h : Hdr) (mode : W32)
  /-- ADM_SERVICE_START (R271). Command that reads and verifies a service image, then starts the service on a free control core. -/
  | admServiceStart (h : Hdr) (svc : Byte) (va len : W64)
  /-- ADM_SERVICE_STOP (R271). Command that ends a service once its outstanding commands have replied. -/
  | admServiceStop (h : Hdr) (svc : Byte)
  /-- ADM_IDENTITY (R332). Command that gives the module its logical fabric identity (x, y, z, w), taking effect at commit. -/
  | admIdentity (h : Hdr) (x y z w : Byte)
  /-- CTX_CREATE (R248). Command that creates an ACTIVE context with a fresh generation, key, default recipes and cleared records. -/
  | ctxCreate (h : Hdr) (ctx classes : Byte) (semBase semCount : W16) (tenant seed : W64)
  /-- CTX_FENCE (R256). Command that fences a context in DRAIN or HALT mode and completes when none of its commands is issued. -/
  | ctxFence (h : Hdr) (ctx mode : Byte)
  /-- CTX_UNFENCE (R256). Command that returns a FENCED context to ACTIVE and ends any waiting CTX_FENCE with ST_KILLED. -/
  | ctxUnfence (h : Hdr) (ctx : Byte)
  /-- CTX_DESTROY (R257). Command that starts teardown: advances the generation, ends the context's commands and enters FENCING. -/
  | ctxDestroy (h : Hdr) (ctx : Byte)
  /-- FENCE_COMPLETE (R256). The last issued command of a fenced context ends, and the waiting CTX_FENCE completes with ST_OK. -/
  | fenceComplete (ctx : CtxId)
  /-- TEARDOWN_FENCING_DONE (R257). Every unit acknowledges that it has stopped issuing; the context enters DRAINING and teardown notices are sent. -/
  | teardownFencingDone (ctx : CtxId)
  /-- TEARDOWN_DRAIN_DONE (R257). The count of operations outstanding under the old generation reaches zero, and the context enters SCRUBBING. -/
  | teardownDrainDone (ctx : CtxId)
  /-- TEARDOWN_FORCED_DROP (R257). At the fourth tick after entry to DRAINING every unit discards what remains, FORCED is set and the context enters SCRUBBING. -/
  | teardownForcedDrop (ctx : CtxId)
  /-- TEARDOWN_SCRUB_DONE (R257). The scrub of the context's state completes; the context becomes FREE and CTX_DESTROY replies ST_OK. -/
  | teardownScrubDone (ctx : CtxId)
  /-- QUARANTINE_END (R260). Sixty-four ticks after a forced-drop teardown the context id leaves quarantine. -/
  | quarantineEnd (ctx : CtxId)
  /-- MEM_MAP (R204). Command that maps a range as ZERO pages in the initial tier given by the hint. -/
  | memMap (h : Hdr) (va len : W64) (attr : W32)
  /-- MEM_UNMAP (R204). Command that waits until no issued command covers the range, then frees the pages. -/
  | memUnmap (h : Hdr) (va len : W64)
  /-- MEM_HINT (R204). Command that sets placement hints and, with WAIT, moves every page to its hinted tier. -/
  | memHint (h : Hdr) (va len : W64) (attr : W32)
  /-- MEM_QUOTA (R196). Command that sets a context's T2, T3, T4 and shadow-pool quotas after the capacity checks. -/
  | memQuota (h : Hdr) (ctx : Byte) (t2 t3 t4 shadow : W32)
  /-- MEM_RESOLVE_RETRY (R205). Command that makes TMU evaluate a recorded faulting access again. -/
  | memResolveRetry (h : Hdr) (faultId : W32)
  /-- MEM_RESOLVE_FAIL (R205). Command that makes a recorded fault unresolvable with its recorded cause. -/
  | memResolveFail (h : Hdr) (faultId : W32)
  /-- WGT_INSTALL_BEGIN (R224). Install operation that validates a manifest and makes an EMPTY directory entry INSTALLING. -/
  | wgtInstallBegin (h : Hdr) (img : Byte) (va len : W64)
  /-- WGT_INSTALL_CHUNKS (R224). Install operation that checks chunks against their leaf hashes and writes both copies. -/
  | wgtInstallChunks (h : Hdr) (img : Byte) (va : W64) (first count : W32)
  /-- WGT_INSTALL_COMMIT (R224). Install operation that makes the directory entry READY with the chunks written so far. -/
  | wgtInstallCommit (h : Hdr) (img : Byte)
  /-- WGT_INSTALL_ABORT (R224). Install operation that returns the entry to EMPTY and erases its space in the background. -/
  | wgtInstallAbort (h : Hdr) (img : Byte)
  /-- WGT_ERASE (R224). Command that returns an image directory entry to EMPTY. -/
  | wgtErase (h : Hdr) (img : Byte)
  /-- WGT_KEY_ADD (R223). Command that writes an empty publisher key slot from a 96-byte hash record. -/
  | wgtKeyAdd (h : Hdr) (slot : Byte) (va : W64)
  /-- WGT_KEY_REVOKE (R223). Command that empties a publisher key slot. -/
  | wgtKeyRevoke (h : Hdr) (slot : Byte)
  /-- WGT_LOAD (R229). Command that loads the chunks named by a shard map into a weight slot, verifying each against its leaf hash. -/
  | wgtLoad (h : Hdr) (img slot : Byte) (group members : W16) (lflags : Byte) (va len smap : W64) (smapCount : W32)
  /-- WGT_PIN (R233). Command that adds pins to the slot that CUR names at its commit. -/
  | wgtPin (h : Hdr) (n : W32)
  /-- WGT_UNPIN (R233). Command that removes pins from a weight slot. -/
  | wgtUnpin (h : Hdr) (slot : Byte) (n : W32)
  /-- WGT_SWITCH (R233). Command that sets CUR to a READY weight slot. -/
  | wgtSwitch (h : Hdr) (slot : Byte)
  /-- WGT_DROP (R233). Command that moves a READY weight slot other than CUR to RETIRING. -/
  | wgtDrop (h : Hdr) (slot : Byte)
  /-- WEIGHT_SLOT_EMPTY (R232). A RETIRING slot's pins reach zero and no issued command covers its range, so the slot becomes EMPTY. -/
  | weightSlotEmpty (ctx : CtxId) (slot : WSlotId)
  /-- KEEL_WRITE (R239). Command that writes a checkpoint into an EMPTY keel slot and makes it VALID at commit. -/
  | keelWrite (h : Hdr) (kslot : Byte) (smap : W64) (smapCount : W32) (job : W64) (step : W32)
  /-- KEEL_READ (R239). Command that reads a VALID keel slot, checking every chunk against the header's ROOT. -/
  | keelRead (h : Hdr) (kslot : Byte) (smap : W64) (smapCount : W32)
  /-- KEEL_DROP (R239). Command that empties a keel slot. -/
  | keelDrop (h : Hdr) (kslot : Byte)
  /-- SUBMIT_GRAPH (R295). Command that copies a graph into firmware memory in an empty slot, and runs it if RUN is set. -/
  | submitGraph (h : Hdr) (gslot gflags : Byte) (step : W32) (gaddr : W64) (glen : W32)
  /-- GRAPH_RUN (R295). Command that re-checks a resident graph and issues its nodes as their predecessors commit. -/
  | graphRun (h : Hdr) (gslot : Byte) (step : W32)
  /-- GRAPH_RELEASE (R295). Command that waits for the slot's runs to end, then empties the graph slot. -/
  | graphRelease (h : Hdr) (gslot : Byte)
  /-- MATMUL (R96). Kernel command that computes dense products on the matrix engines. -/
  | matmul (h : Hdr) (kpb : W64) (kpbLen : W32)
  /-- VECTOR (R109). Kernel command that applies one elementwise function code on VRU. -/
  | vector (h : Hdr) (kpb : W64) (kpbLen : W32)
  /-- REDUCE (R113). Kernel command that performs a reduction on VRU under the reference order. -/
  | reduce (h : Hdr) (kpb : W64) (kpbLen : W32)
  /-- ATTN_FWD (R115). Kernel command that computes attention by online softmax over key segments. -/
  | attnFwd (h : Hdr) (kpb : W64) (kpbLen : W32)
  /-- ATTN_BWD (R118). Kernel command that computes attention gradients, recomputing weights from the log-sum-exp. -/
  | attnBwd (h : Hdr) (kpb : W64) (kpbLen : W32)
  /-- OPT_UPDATE (R121). Kernel command that performs the fused optimiser update of weights and moments. -/
  | optUpdate (h : Hdr) (kpb : W64) (kpbLen : W32)
  /-- STEP_FENCE (R327). Command that closes a step of its context once every other command of the step has ended. -/
  | stepFence (h : Hdr) (step : W32)
  /-- STEP_FENCE_CLOSE (R327). The last command of the step ends; the fence runs the job-wide max and OR reductions and commits or ends KILLED. -/
  | stepFenceClose (ctx : CtxId) (step : W32)
  /-- SEM_ACQUIRE (R322). Command that acquires a semaphore, standalone, guarded or as the opening of a section. -/
  | semAcquire (h : Hdr) (sem value : W16)
  /-- SEM_RELEASE (R322). Command that adds its value to a semaphore or closes a section. -/
  | semRelease (h : Hdr) (sem value : W16)
  /-- SEM_GRANT (R321). A waiting acquire is granted when the semaphore's available value reaches its VALUE. -/
  | semGrant (sem : SemId)
  /-- DMA_START (R169). Command that starts a bulk DMA channel over a descriptor table, paced or unpaced. -/
  | dmaStart (h : Hdr) (desc qaddr : W64) (count : W16) (chan pacing : Byte) (low high : W32) (rateCap holdTicks : Byte)
  /-- DMA_ABORT (R181). Command that moves a busy DMA channel to CANCELLING and ends its command. -/
  | dmaAbort (h : Hdr) (chan : Byte)
  /-- COLL_REDUCE_SCATTER (R367). Collective that reduces by slot tree and leaves each owner its shard's roots. -/
  | collReduceScatter (h : Hdr) (kpb : W64) (kpbLen : W32)
  /-- COLL_ALL_GATHER (R368). Collective that sends each rank's shard to every other rank. -/
  | collAllGather (h : Hdr) (kpb : W64) (kpbLen : W32)
  /-- COLL_ALL_REDUCE (R369). Collective that reduce-scatters and then distributes the converted roots to every rank. -/
  | collAllReduce (h : Hdr) (kpb : W64) (kpbLen : W32)
  /-- COLL_MULTICAST (R370). Collective that delivers the leader's elements to every rank along a binary tree. -/
  | collMulticast (h : Hdr) (kpb : W64) (kpbLen : W32)
  /-- COLL_PERMUTE (R371). Collective that moves elements from the layout of one member table to another. -/
  | collPermute (h : Hdr) (kpb : W64) (kpbLen : W32)
  /-- MIR_PAIR (R404). Command that sets a context's partner, ward, guest, parity group and protection table. -/
  | mirPair (h : Hdr) (ctx gsize gpos : Byte) (partner ward guest : W16) (gtab ptab : W64) (pcount : W16)
  /-- MIR_SYNC (R406). Command that streams the step's protected deltas to the partner and the parity row holders. -/
  | mirSync (h : Hdr) (step : W32)
  /-- MIR_INTERCALATE (R413). Command on a spare that adopts a failed identity and loads its sealed state. -/
  | mirIntercalate (h : Hdr) (failed : W16) (method source : Byte) (step : W32) (job : W64)
  /-- MIR_RESTORE (R413). Command that restores a context to a sealed step from local frames, the mirror or the keel. -/
  | mirRestore (h : Hdr) (ctx source : Byte) (step : W32)
  /-- MIR_SEAL (R408). Every member has committed MIR_SYNC for a step; shadow copies become the sealed copy and retained frames are freed. -/
  | mirSeal (ctx : CtxId) (step : W32)
  /-- SETTLE_EXPIRY (R411). The settle window after a first failure declaration ends and membership classes each failure. -/
  | settleExpiry
  /-- JOB_RELEASE (R399). Command that releases a replica from a job at the next step boundary. -/
  | jobRelease (h : Hdr) (job : W64) (ident : W16)
  /-- JOB_JOIN (R399). Command that founds a job or joins a replica to it at the next step boundary. -/
  | jobJoin (h : Hdr) (job : W64) (member : W16) (ctx : Byte) (plan : W64) (plen : W32)
  /-- SRV_START (R490). Command that starts one serving instance of the serving loop. -/
  | srvStart (h : Hdr) (svc ctx : Byte) (cfg : W64)
  /-- SRV_STOP (R490). Command that stops a serving instance, draining or cancelling its requests. -/
  | srvStop (h : Hdr) (svc mode : Byte)
  /-- FE_QUEUE (R483). Command that assigns a front-end queue to a context or releases it. -/
  | feQueue (h : Hdr) (queue ctx : Byte) (udp : W16) (spread index : Byte)
  /-- QUERY_PROGRESS (R300). Command that writes the unit bitmap of a target command. -/
  | queryProgress (h : Hdr) (ring : Byte) (tseq : W32) (va : W64) (len : W32)
  /-- QUERY_STATUS (R301). Command that writes the 32-byte reply of a target command. -/
  | queryStatus (h : Hdr) (ring : Byte) (tseq : W32) (va : W64)
  /-- QUERY_TELEMETRY (R520). Command that writes one sensor record for each requested sensor code. -/
  | queryTelemetry (h : Hdr) (first count : W16) (va : W64) (len : W32)
  /-- DIAG_SENTINEL (R424). Command that runs sentinels on demand and writes the fingerprints of failures. -/
  | diagSentinel (h : Hdr) (engine pattern cond : Byte) (va : W64) (len : W32)
  /-- DIAG_BIST (R475). Command that takes a slice, core or channel out of use and runs its BIST. -/
  | diagBist (h : Hdr) (unit : W16) (level : Byte) (va : W64) (len : W32)
  /-- DIAG_PRBS (R476). Command that runs a PRBS pattern on a disabled link and writes per-lane error counts. -/
  | diagPrbs (h : Hdr) (link pattern : Byte) (duration : W16) (va : W64)
  /-- DIAG_EMBER_READ (R449). Command that copies part of an ember record into context 0 memory. -/
  | diagEmberRead (h : Hdr) (src : Byte) (index : W16) (offset va : W64) (len : W32)
  /-- INJECT_UNIT_HANG (R450). Injection that makes the target unit stop making progress until it is reset. -/
  | injectUnitHang (h : Hdr) (target count code : W16)
  /-- INJECT_CHECK_FLIP (R450). Injection that flips one product bit in the next chunks on a slice. -/
  | injectCheckFlip (h : Hdr) (target count code : W16)
  /-- INJECT_ECC_CE (R450). Injection of correctable errors on an HBM channel. -/
  | injectEccCe (h : Hdr) (target count code : W16)
  /-- INJECT_ECC_UE (R450). Injection of one uncorrectable error on an HBM channel. -/
  | injectEccUe (h : Hdr) (target count code : W16)
  /-- INJECT_DEVICE_RESET (R450). Injection that starts a device reset under R442. -/
  | injectDeviceReset (h : Hdr) (target count code : W16)
  /-- INJECT_EVENT_FLOOD (R450). Injection that raises COUNT events of a given code. -/
  | injectEventFlood (h : Hdr) (target count code : W16)
  /-- DOORBELL (R265). Write of CMDQ_DB that sets a ring's TAIL, or puts the ring in ERROR on a bad value. -/
  | doorbell (path : Path) (ring : Fin 64) (tail : W32)
  /-- PACKET_ADMIT (R281). A control core reads the next packet once the ring has a packet and reply room, and runs the admission checks. -/
  | packetAdmit (ring : RingId) (fetchError : Bool)
  /-- RING_ENABLE (R268). Write of CMDQ_CFG.ENABLE as 1 that starts a ring with all four counts at 0. -/
  | ringEnable (path : Path) (value : W32)
  /-- RING_DISABLE (R302). Write of CMDQ_CFG.ENABLE as 0 that puts the ring into CLOSING. -/
  | ringDisable (path : Path) (value : W32)
  /-- RING_CLOSED (R302). The outstanding commands of a CLOSING ring have replied, and the ring becomes DISABLED. -/
  | ringClosed (ring : RingId)
  /-- CPL_HEAD_WRITE (R267). Write of CMDQ_CPL_HEAD that frees reply room or puts the ring in ERROR. -/
  | cplHeadWrite (path : Path) (value : W32)
  /-- COMMAND_ISSUE (R310). A placed command whose tick is current issues once its banks, slots, pool pages and channel are allotted. -/
  | commandIssue (cid : Nat)
  /-- RUN_AHEAD_START (R148). GSC starts the stream programs of a queued command before its first tile issues. -/
  | runAheadStart (cid : Nat)
  /-- COMMIT (R314). Every unit reports the end of a killable command's work and GSC commits it. -/
  | commit (cid : Nat) (used : Nat)
  /-- FIXED_COMMAND_END (R315). The last effect of a FIXED command lands and its reply is written. -/
  | fixedCommandEnd (cid : Nat) (used : Nat)
  /-- TILE_START (R105). An engine starts the next tile of the first qualifying command once a tile slot and entries are free. -/
  | tileStart (e : EngineId) (fault : Option Nat)
  /-- REPLAY_ISSUE (R131). The overflow replay issues at the engine's next issue slot with the new tile deltas. -/
  | replayIssue (cid : Nat) (ten : Nat)
  /-- MISMATCH_RERUN (R101). GSC reruns a command killed by a mismatch, on the same slot or after retirement on the new one. -/
  | mismatchRerun (cid : Nat)
  /-- FIXED_TILE_RECOMPUTE (R102). At the end of a FIXED command MXE recomputes each mismatching tile once. -/
  | fixedTileRecompute (cid : Nat) (tile : Nat) (fault : Option Nat)
  /-- END (R139). Stream instruction that ends the program. -/
  | streamEnd (e : EngineId) (p : Fin 16)
  /-- ADDR (R140). Stream instruction that sets an address register. -/
  | streamAddr (e : EngineId) (p : Fin 16) (ar : Fin 4) (va : BitVec 52)
  /-- LOFF (R140). Stream instruction that sets an LST offset register. -/
  | streamLoff (e : EngineId) (p : Fin 16) (lo : Fin 4) (off : BitVec 22)
  /-- DIM (R140). Stream instruction that sets the count and memory stride of a loop level. -/
  | streamDim (e : EngineId) (p : Fin 16) (lvl : Fin 4) (count : BitVec 22) (mstride : BitVec 36)
  /-- LDIM (R140). Stream instruction that sets the LST stride of a loop level. -/
  | streamLdim (e : EngineId) (p : Fin 16) (lvl : Fin 4) (lstride : BitVec 23)
  /-- BUFDEF (R140). Stream instruction that defines a buffer over relative banks. -/
  | streamBufdef (e : EngineId) (p : Fin 16) (buf : Fin 4) (first : Fin 16) (banks : BitVec 5)
  /-- MOVE (R141). Stream instruction that runs the loop nest, issuing granule requests. -/
  | streamMove (e : EngineId) (p : Fin 16) (toMem : Bool) (ar lo : Fin 4) (gsz : Fin 8) (buf : Fin 4) (mcast : Byte) (alloc : Fin 4)
  /-- WAIT (R144). Stream instruction that waits for a buffer state, a semaphore or a tick. -/
  | streamWait (e : EngineId) (p : Fin 16) (kind : Fin 4) (buf : Fin 4) (sem : SemId) (value : W16)
  /-- WAIT_RESUME (R145). The condition a WAIT awaited holds, and the program continues. -/
  | waitResume (e : EngineId) (p : Fin 16)
  /-- SIGNAL (R144). Stream instruction that sets a buffer FULL or EMPTY or adds to a semaphore at commit. -/
  | streamSignal (e : EngineId) (p : Fin 16) (kind : Fin 4) (buf : Fin 4) (sem : SemId) (value : W16)
  /-- REP (R142). Stream instruction that repeats the following instructions. -/
  | streamRep (e : EngineId) (p : Fin 16) (ctr : Fin 4) (len : BitVec 6) (count : BitVec 20)
  /-- STEP (R140). Stream instruction that adds to an address or offset register. -/
  | streamStep (e : EngineId) (p : Fin 16) (loff : Bool) (idx : Fin 4) (inc : BitVec 36)
  /-- DEADLINE (R149). Stream instruction that arms a deadline for a buffer. -/
  | streamDeadline (e : EngineId) (p : Fin 16) (buf : Fin 4) (abort : Bool) (base : Fin 4) (ns : W32)
  /-- RECV (R147). Stream instruction that posts a receive of a multicast into a buffer. -/
  | streamRecv (e : EngineId) (p : Fin 16) (buf : Fin 4) (leader : Fin 8)
  /-- MULTICAST_REQUEST (R147). The hub requests a multicast granule once the leader and every member RECV are posted. -/
  | multicastRequest (e : EngineId) (p : Fin 16)
  /-- GRANULE_ARRIVAL (R146). A granule arrives and is written, or discarded if its context, generation or epoch mismatches. -/
  | granuleArrival (e : EngineId) (p : Fin 16) (pos : Nat) (ecc : Ecc)
  /-- DEADLINE_EXPIRY (R150). An armed buffer deadline passes and STE reports a miss or kills the command. -/
  | deadlineExpiry (e : EngineId) (p : Fin 16) (buf : Fin 4) (late : W32)
  /-- GRANULE_FAULT (R154). TMU cannot serve a granule; the program records its cursor and stops issuing. -/
  | granuleFault (e : EngineId) (p : Fin 16) (pos : Nat)
  /-- FAULT_RESOLVED (R156). TMU reports a fault resolved and the program resumes from its cursor. -/
  | faultResolved (id : W32)
  /-- FAULT_TIMEOUT (R157). A fault stays unresolved for 128 ticks and becomes unresolvable with cause TIMEOUT. -/
  | faultTimeout (id : W32)
  /-- DMA_BURST_GRANT (R175). A mover grants a burst slot to an eligible channel by priority and round robin. -/
  | dmaBurstGrant (mover : Fin 4) (credits : BitVec 32) (elapsed : Nat)
  /-- DMA_BURST_LAND (R170). A DMA burst lands and BDM advances its ring counter over contiguous landed bytes. -/
  | dmaBurstLand (chan : ChanId) (k : Nat) (r : BurstEnd)
  /-- DMA_KICK (R171). Write of CMDQ_DMA_KICK that makes BDM sample a channel's ring. -/
  | dmaKick (path : Path) (value : W32)
  /-- DMA_RING_SAMPLE (R171). The periodic sample, at least every 1 µs, of an ARMED or HELD channel's ring header. -/
  | dmaRingSample (chan : ChanId)
  /-- DMA_HOLD_LIMIT (R174). A stay in ARMED or HELD reaches HOLD_TICKS and the command ends with ST_DEADLINE_MISS. -/
  | dmaHoldLimit (chan : ChanId)
  /-- DMA_BURST_FAULT (R178). A burst faults in TMU and the channel enters FAULTED with its cursor. -/
  | dmaBurstFault (chan : ChanId) (k : Nat) (side : Bool)
  /-- PAGE_MIGRATION_DONE (R193). A page copy completes and TMU remaps the page in its new tier. -/
  | pageMigrationDone (ctx : CtxId) (va : BitVec 52)
  /-- IDLE_DEMOTION (R191). A PREFER_T3 or PREFER_T4 page unnamed for 1,024 ticks is demoted to its hinted tier. -/
  | idleDemotion (ctx : CtxId) (va : BitVec 52)
  /-- BACKGROUND_PROMOTION (R192). A PREFER_T2 page outside T2 is promoted when the quota has room. -/
  | backgroundPromotion (ctx : CtxId) (va : BitVec 52)
  /-- ECC_PATROL (R209). A stack controller's daily patrol of every in-service row, writing back corrected data. -/
  | eccPatrol (stack : StackId) (found : List Ecc)
  /-- CHANNEL_COPY_DONE (R211). The copy to the reserve channel completes and the controller switches over. -/
  | channelCopyDone (stack : StackId) (chan : Fin 32) (unreadable : List Nat)
  /-- FRAME_SCRUB (R259). The background scrubber zeroes a frame on the scrub list and frees it. -/
  | frameScrub
  /-- LEND_POOL_WRITE (R213). Write of GLB_MEM_LEND that resizes the lend pool and sends reclaim notices when below use. -/
  | lendPoolWrite (path : Path) (value : W32)
  /-- WGT_SOURCE_TIMEOUT (R229). A sled peer asked for a chunk does not answer within 1 ms and the next source is tried. -/
  | wgtSourceTimeout (cid : Nat) (peer : Fin 9)
  /-- LOAD_GROUP_HOLDER_TIMEOUT (R230). A load-group member receives no chunk for 100 ms and takes its chunks from its own sources. -/
  | loadGroupHolderTimeout (cid : Nat)
  /-- WEIGHT_PAGE_RECOVERY (R234). VLT rebuilds a poisoned or lost weight page from its sources and TMU remaps it. -/
  | weightPageRecovery (ctx : CtxId) (va : BitVec 52)
  /-- WEIGHT_UNAVAILABLE_TIMEOUT (R235). A command held on an unrecoverable weight page reaches its deadline or 128 ticks and ends. -/
  | weightUnavailableTimeout (cid : Nat)
  /-- VAULT_PATROL (R240). VLT's weekly read of both copies of every chunk, rewriting or recovering failures. -/
  | vaultPatrol (bad : List (Byte × Nat × Fin 2)) (badKeel : List (Fin 2 × Nat))
  /-- TICK (R348). Fabric time reaches the next calends tick and FAB signals GSC, STE, DMA movers and RAS. -/
  | tick
  /-- CLOCK_CHANGE_DONE (R24). The clock change of a POWER mode completes and MXE issue resumes. -/
  | clockChangeDone
  /-- COLLECTIVE_WINDOW_OPEN (R374). A collective window opens within the tick and CLE may grant collective packets. -/
  | collectiveWindowOpen
  /-- COLLECTIVE_WINDOW_CLOSE (R374). A collective window closes and CLE grants no further collective packets. -/
  | collectiveWindowClose
  /-- BUDGET_HANG (R430). A command's budget clock reaches twice its BUDGET and GSC stops it on every unit. -/
  | budgetHang (cid : Nat) (clock : Nat) (confirmed : Bool)
  /-- HANG_STOP_TIMEOUT (R430). A unit does not confirm the stop of a hung command within 64 µs, and RAS resets its domain. -/
  | hangStopTimeout (cid : Nat) (unit : W16)
  /-- WATCHDOG_FIRE (R431). A unit's progress watchdog expires and RAS declares a unit hang. -/
  | watchdogFire (unit : W16)
  /-- DOMAIN_DRAIN_END (R436). The 20 µs drain window of a fenced domain ends and remaining requests get fenced returns. -/
  | domainDrainEnd (d : Domain)
  /-- DOMAIN_RESET_RETURN (R435). A reset domain passes its self-test and returns; fences lift and killed commands rerun. -/
  | domainResetReturn (d : Domain)
  /-- DOMAIN_RESET_FAILED (R441). A domain does not return within its longest recovery time and escalation to device reset begins. -/
  | domainResetFailed (d : Domain)
  /-- EMBER_CAPTURE_DONE (R444). A capture over the debug ring completes and its record is written. -/
  | emberCaptureDone (us : W32)
  /-- CORE_PING_TIMEOUT (R432). A control core does not answer a RAS ping within 10 ms and is stopped and its rings moved. -/
  | corePingTimeout (core : CoreId)
  /-- CORE_RESTART_DONE (R432). A stopped control core is reset and tested, and returns to the free cores if it passes. -/
  | coreRestartDone (core : CoreId) (pass : Bool)
  /-- INCIDENT_CLOSE (R453). An incident closes after 1 s without a new event. -/
  | incidentClose (id : W32)
  /-- SUPPRESSED_RECORD (R456). A path sends one SUPPRESSED record when its bucket next holds a token. -/
  | suppressedRecord (path : Fin 2) (cls : Fin 4)
  /-- SENTINEL_RUN (R420). RAS runs a sentinel on a slice whose test period is due. -/
  | sentinelRun (slot : SlotId) (pattern cond temp : Byte) (vcore : W16) (result : Fin 4) (chunk : W32)
  /-- SENTINEL_RECHECK (R423). RAS reruns a pattern within 10 minutes after a mismatch that did not reproduce. -/
  | sentinelRecheck (slot : SlotId) (pattern cond temp : Byte) (vcore : W16) (result : Fin 4) (chunk : W32)
  /-- FLIT_RECEIVE (R339). A flit arrives on a link and its control slot is processed. -/
  | flitReceive (link : LinkId) (f : Flit)
  /-- HOLDOVER_ALARM (R350). A module that has been in HOLDOVER for 100 ms raises an ALARM. -/
  | holdoverAlarm
  /-- HEARTBEAT_MISS (R354). An acknowledgment deadline passes without a timely ACK and the miss count rises. -/
  | heartbeatMiss (link : LinkId)
  /-- LINK_SIGNAL_FOUND (R337). A DOWN link finds signal and enters TRAIN. -/
  | linkSignalFound (link : LinkId)
  /-- LINK_TRAIN_DONE (R337). Training ends and the link enters AUTH on 16 or 8 lanes, or goes DOWN. -/
  | linkTrainDone (link : LinkId) (laneOk : BitVec 18)
  /-- LINK_RETRAIN_RETRY (R337). A DOWN link with too few lanes retries training every 10 ms. -/
  | linkRetrainRetry (link : LinkId)
  /-- LINK_AUTH_DONE (R347). The SPDM session on a link completes and the link enters ALIGN. -/
  | linkAuthDone (link : LinkId) (ok : Bool)
  /-- LINK_ALIGN_UP (R337). The module's tick state becomes LOCKED or MASTER and an ALIGN link goes UP. -/
  | linkAlignUp (link : LinkId)
  /-- LANE_SOFT_FAILURE (R338). A lane's corrected-symbol rate over 1 ms exceeds its limit and the receiver requests a spare. -/
  | laneSoftFailure (link : LinkId) (lane : Fin 18)
  /-- LANE_SWAP (R338). Both ends switch to the spare lane at the GO flit's FSEQ plus 256. -/
  | laneSwap (link : LinkId)
  /-- LANE_LOSS (R338). A lane loses lock and the link enters RECONFIG. -/
  | laneLoss (link : LinkId) (lane : Fin 18)
  /-- RECONFIG_DONE (R337). Spare substitution completes and the link returns UP. -/
  | reconfigDone (link : LinkId)
  /-- FAB_LINK_DISABLE (R337). Write of FAB_LINK_CTL.DISABLE that holds links DISABLED or returns them to DOWN. -/
  | fabLinkDisable (path : Path) (value : W32)
  /-- WRITE (R343). A remote WRITE packet arrives and is checked and written. -/
  | fabWrite (p : Pkt) (data : List Byte)
  /-- READ_REQ (R343). A remote read request packet arrives and is served. -/
  | fabReadReq (p : Pkt) (len : W16)
  /-- READ_RESP (R343). A remote read data packet arrives at the requester. -/
  | fabReadResp (p : Pkt) (data : List Byte)
  /-- COLL_NODE (R365). A collective NODE packet arrives; the representative combines it or discards a duplicate. -/
  | collNode (p : Pkt) (rid : W32) (level : Byte) (fmt : Fin 16) (index : W32) (srank : W16) (vals : List W32)
  /-- COLL_DATA (R368). A collective DATA packet arrives and is written at its element offset. -/
  | collData (p : Pkt) (rid : W32) (fmt : Fin 16) (srank : W16) (vals : List W32)
  /-- COLL_ABORT (R378). A collective ABORT arrives and ends the named collective with ST_KILLED. -/
  | collAbort (p : Pkt) (rid : W32) (srank status : W16)
  /-- COLL_SCALAR (R376). A step-fence SCALAR packet arrives and is combined by max or OR on the rank tree. -/
  | collScalar (p : Pkt) (rid : W32) (srank : W16) (up : Bool) (skip : Bool) (amax : List (Nat × W32))
  /-- COLL_TIMEOUT (R379). An awaited collective packet fails to arrive within 128 ticks of window time. -/
  | collTimeout (cid : Nat) (rank : W16)
  /-- CHUNK (R230). A load-group vault chunk arrives and is checked against the receiver's leaf hash. -/
  | fabChunk (p : Pkt) (root : List Byte) (chunk : Nat) (data : List Byte)
  /-- SERVICE (R343). A message between service images arrives. -/
  | fabService (p : Pkt) (msg : SvcMsg)
  /-- CANCEL (R346). A CANCEL arrives; the attempt's packets are dropped, credits return and the cancel is forwarded. -/
  | fabCancel (p : Pkt) (victim : W32)
  /-- CTX_DEAD (R247). A dead-context notice arrives and the sending command ends with ST_CTX_DEAD. -/
  | fabCtxDead (p : Pkt) (dead : CtxId) (deadGen : Byte)
  /-- CTX_FENCED (R256). A fence notice arrives and the sending command ends with ST_CTX_FENCED. -/
  | fabCtxFenced (p : Pkt) (fenced : CtxId) (fencedGen : Byte)
  /-- TEARDOWN (R258). A teardown notice arrives; the receiver discards queued packets, frees lent frames and acknowledges. -/
  | fabTeardown (p : Pkt) (old : CtxId) (oldGen : Byte)
  /-- TEARDOWN_ACK (R257). A teardown acknowledgment arrives and leaves the drain count. -/
  | fabTeardownAck (p : Pkt) (old : CtxId) (oldGen : Byte)
  /-- RECLAIM (R213). A lend-pool reclaim notice arrives and the borrower moves its pages. -/
  | fabReclaim (p : Pkt) (pages : Nat)
  /-- LOST (R343). A LOST notice arrives and the sending command ends with ST_FAULT_UNRESOLVED. -/
  | fabLost (p : Pkt) (victim : W32) (cause : Byte)
  /-- ROUTE (R333). A ROUTE packet arrives and the module updates its adoption table. -/
  | fabRoute (p : Pkt) (own : W16) (seen : List W16)
  /-- TIMING (R351). A TIMING packet arrives, is recorded for tick AT and flooded down the tree. -/
  | fabTiming (p : Pkt) (at_ : W32) (tcal len1 start1 len0 start0 : Nat)
  /-- KEY (R347). A link authentication and key message arrives and advances the SPDM session. -/
  | fabKey (p : Pkt) (ok done : Bool)
  /-- POWER_INPUT_UP (R461). Input rises to 260 V and a start begins. -/
  | powerInputUp
  /-- START_PHASE_END (R461). A start phase completes and the next phase begins. -/
  | startPhaseEnd (r : PhaseEnd)
  /-- START_TIMEOUT (R461). DONE is not reached within 60 s and the start fails with TIMEOUT. -/
  | startTimeout
  /-- START_RETRY (R470). Ten seconds after a failed start the module starts again. -/
  | startRetry
  /-- POWER_INPUT_STOP (R514). Input falls below 250 V for more than 1 ms and PWR removes the main domain. -/
  | powerInputStop
  /-- OVERVOLTAGE (R513). Input above 410 V for 1 ms causes shutdown as a stop. -/
  | overvoltage
  /-- PRESENT_N_BREAK (R512). PRESENT_N breaks and PWR cuts input current before DC contacts part. -/
  | presentNBreak
  /-- HARD_RESET_N (R523). HARD_RESET_N asserted for 1 ms triggers a device reset and holds the module in reset. -/
  | hardResetN
  /-- HARD_RESET_RELEASE (R523). HARD_RESET_N is released and the module starts. -/
  | hardResetRelease
  /-- PERST_N (R502). PERST_N asserted puts host rings in ERROR and ends host transfers. -/
  | perstN
  /-- PCIE_LINK_LOSS (R502). The host link leaves L0 for more than 1 ms and host rings enter ERROR. -/
  | pcieLinkLoss
  /-- FUNCTION_LEVEL_RESET (R502). A function-level reset acts as link loss and then disables host rings. -/
  | functionLevelReset
  /-- PCIE_AER_ERROR (R503). A PCI Express error is counted, passed to RAS and may put a ring in ERROR. -/
  | pcieAerError (uncorrectable : Bool) (ring : Option (Fin 64)) (reply : Bool)
  /-- CLOCK_STEP (R516). PWR lowers or raises the core clock by 50 MHz against the effective power limit. -/
  | clockStep (watts : W16) (settled : Bool)
  /-- SENSOR_THRESHOLD (R519). A sensor reading crosses a WARN, THROTTLE or CRITICAL limit and its band action applies. -/
  | sensorThreshold (code : W16) (value : W32)
  /-- ENTDAA (R504). I3C dynamic address assignment of the module. -/
  | entdaa (addr : BitVec 7)
  /-- SETDASA (R504). I3C assignment of a dynamic address from the static address. -/
  | setdasa (static dynamic : BitVec 7)
  /-- SMBUS_FALLBACK (R504). No I3C broadcast is seen within 1 s and the module also answers SMBus. -/
  | smbusFallback
  /-- MCTP_CONTROL (R505). An MCTP control message for EID assignment or discovery. -/
  | mctpControl (setEid : Option Byte)
  /-- SPDM_MESSAGE (R506). An SPDM request for attestation, measurements or a secured session. -/
  | spdmMessage (m : SpdmReq)
  /-- GET_SENSOR_READING (R518). PLDM type 2 request that returns a sensor reading. -/
  | getSensorReading (id : W16)
  /-- GET_ALMANAC (R507). PLDM command that returns almanac entries. -/
  | getAlmanac (index count : Byte)
  /-- EMBER_READ (R507). PLDM command that returns part of an ember record. -/
  | emberRead (src : Byte) (index : W16) (offset : W64) (len : W16)
  /-- REG_READ (R507). PLDM command that reads a reachable register through the MGT bank. -/
  | regRead (offset : BitVec 24)
  /-- REG_WRITE (R507). PLDM command, inside an SPDM session, that writes a reachable register. -/
  | regWrite (session : Option (Fin 2)) (offset : BitVec 24) (value : W32)
  /-- DEVICE_RESET (R507). PLDM command that requests a device reset, or a vigil release in vigil. -/
  | deviceReset (session : Option (Fin 2))
  /-- VIGIL_REQUEST (R474). PLDM command that puts the module into vigil with reason MANUAL. -/
  | vigilRequest (session : Option (Fin 2))
  /-- VIGIL_RELEASE (R474). PLDM command that clears the vigil state and failed-start record and resets the device. -/
  | vigilRelease (session : Option (Fin 2))
  /-- VIGIL_CTL_REQUEST (R474). Write of GLB_VIGIL_CTL.REQUEST that requests vigil. -/
  | vigilCtlRequest (path : Path)
  /-- VIGIL_CTL_RELEASE (R474). Write of GLB_VIGIL_CTL.RELEASE that releases vigil. -/
  | vigilCtlRelease (path : Path)
  /-- OTP_PROGRAM (R465). PLDM command that programs a new OTP edition and reads it back. -/
  | otpProgram (session : Option (Fin 2)) (image : List Byte) (readback : List Byte)
  /-- MACSEC_KEY (R480). PLDM command that installs a port's CAK and CKN. -/
  | macsecKey (session : Option (Fin 2)) (port : Fin 2) (ckn cak : List Byte)
  /-- PUBKEY_SLOT (R223). PLDM command that adds or revokes a publisher key slot. -/
  | pubkeySlot (session : Option (Fin 2)) (slot kop : Byte) (record : List Byte)
  /-- CMD_SUBMIT (R508). PLDM command that places one command packet on the management ring. -/
  | cmdSubmit (session : Option (Fin 2)) (packet : List Byte)
  /-- CMD_RESULT (R508). PLDM command that returns the reply of a command on the management ring. -/
  | cmdResult (seq : W32)
  /-- UPDATE_COMPONENT (R510). PLDM firmware update that writes the bank that did not boot. -/
  | updateComponent (component : W16) (image : List Byte) (svn : W32)
  /-- VERIFY_COMPLETE (R510). PLDM firmware update step that reports the checks of R466 on the written bank. -/
  | verifyComplete
  /-- ACTIVATE_FIRMWARE (R510). PLDM firmware update step that names the written bank for the next start. -/
  | activateFirmware
  /-- BYPASS (R511). JTAG instruction BYPASS. -/
  | bypass
  /-- IDCODE (R511). JTAG instruction that returns IDCODE 0x2249_2EB5. -/
  | idcode
  /-- SAMPLE_PRELOAD (R511). JTAG instruction SAMPLE/PRELOAD. -/
  | samplePreload
  /-- EXTEST (R511). JTAG instruction EXTEST, which triggers a device reset held until Test-Logic-Reset. -/
  | extest
  /-- CLAMP (R511). JTAG instruction CLAMP, which triggers a held device reset. -/
  | clamp
  /-- HIGHZ (R511). JTAG instruction HIGHZ, which triggers a held device reset. -/
  | highz
  /-- BIST_RUN (R511). JTAG instruction that runs a BIST level on a unit. -/
  | bistRun (unit : W16) (level : Byte) (pass : Bool)
  /-- DBG_RING (R511). JTAG instruction that reads the debug ring, refused under JTAG_LOCK. -/
  | dbgRing (unit : W16)
  /-- TEST_LOGIC_RESET (R511). The TAP enters Test-Logic-Reset and a held module starts. -/
  | testLogicReset
  /-- FRAME_RECEIVE (R480). An Ethernet frame arrives on FE0 or FE1 and passes MACsec, IPv6 and UDP checks into a receive queue. -/
  | frameReceive (port : Fin 2) (f : Frame)
  /-- EAPOL_MKA (R480). An EAPOL-MKA frame arrives and advances MKA key agreement. -/
  | eapolMka (port : Fin 2) (live xpn : Bool)
  /-- NEIGHBOR_SOLICITATION (R481). An ICMPv6 Neighbor Solicitation for the port's address is answered by FEN. -/
  | neighborSolicitation (port : Fin 2) (src target : BitVec 128) (mac : BitVec 48) (secure : Bool)
  /-- ECHO_REQUEST (R481). An ICMPv6 Echo Request is answered by FEN. -/
  | echoRequest (port : Fin 2) (src dst : BitVec 128) (body : List Byte) (secure : Bool)
  /-- TRANSMIT_RECORD (R482). FEN takes a record from a transmit queue, adds Ethernet and MACsec and sends it. -/
  | transmitRecord (queue : Fin 32)
  /-- REQUEST (R491). A Deush REQUEST arrives and the serving loop admits or rejects it. -/
  | deushRequest (r : Request)
  /-- REQUEST_MORE (R487). A Deush REQUEST_MORE arrives with further prompt tokens. -/
  | deushRequestMore (client : BitVec 128) (session : W64) (req ack : W32) (offset : W32) (tokens : List W32)
  /-- DEUSH_CANCEL (R492). A Deush CANCEL arrives and the request ends with DONE CANCELLED after its command ends. -/
  | deushCancel (client : BitVec 128) (session : W64) (req ack : W32)
  /-- DEUSH_ACK (R492). A Deush ACK arrives and acknowledges messages up to its SEQ. -/
  | deushAck (client : BitVec 128) (session : W64) (req ack : W32)
  /-- DEUSH_CLOSE (R485). A Deush CLOSE arrives and ends the session. -/
  | deushClose (client : BitVec 128) (session : W64) (ack : W32)
  /-- DEUSH_RESEND (R492). An unacknowledged module message is resent after its backoff, or the request ends UNACKED. -/
  | deushResend (client : BitVec 128) (session : W64) (req seq : W32)
  /-- PROMPT_INCOMPLETE (R488). A prompt is not complete within 100 ms and the request receives REJECT INCOMPLETE. -/
  | promptIncomplete (client : BitVec 128) (session : W64) (req : W32)
  /-- SESSION_IDLE_CLOSE (R485). A session idle for IDLE_LIMIT ends. -/
  | sessionIdleClose (client : BitVec 128) (session : W64)
  /-- BULK_WAIT_EXPIRY (R493). The oldest ready bulk row has waited BULK_WAIT ticks and its batch issues. -/
  | bulkWaitExpiry (svc : Fin 16)
  /-- MODE_CTL_WRITE (R23). Write of MODE_CTL that requests new mode values or is ignored for a reserved encoding. -/
  | modeCtlWrite (path : Path) (value : W32)
  /-- TICK_AT_WRITE (R351). Write of TICK_AT at the master that announces a TCAL or window change. -/
  | tickAtWrite (path : Path) (value : W32)
  /-- NAN_RECORD_CLEAR (R45). Write of 1 to ERR_NAN_REC0.VALID that clears the selected context's first-NaN record. -/
  | nanRecordClear (path : Path) (value : W32)
  /-- CONFIG_ERROR_CLEAR (R540). Write of 1 to ERR_CFG.VALID that clears VALID and MORE. -/
  | configErrorClear (path : Path) (value : W32)
  /-- TICK_TIME_READ (R356). Read of TICK_TIME_LO that latches the high half of fabric time. -/
  | tickTimeRead (path : Path)
  /-- RC_FIELD_READ (R530). Read of an RC field that returns and clears the count of the reading bank. -/
  | rcFieldRead (path : Path) (offset : BitVec 24)
  /-- REGISTER_WRITE (R5). Write to a register with no row of its own, applied by its access types, locks and path rules. -/
  | registerWrite (path : Path) (offset : BitVec 24) (value : W32)
  /-- THROTTLE_LIFT (R241). The bytes programmed in the last 24 h fall below the daily allowance, VLT_STAT.THROTTLED clears and waiting T4 demotions proceed. -/
  | throttleLift (writeDay : W32)
  /-- PCIE_LINK_UP (R502). The PCI Express link trains to L0 after PERST_N release or link loss, GLB_PCIE_STAT.UP sets and HOST endpoints and host rings become usable again. -/
  | pcieLinkUp (gen : Fin 8) (width : Fin 32) (flit : Bool)
  /-- PCS_LINK_CHANGE (R499). The PCS of FE0 or FE1 comes up or goes down and GLB_FE_STAT.LINK follows it. -/
  | pcsLinkChange (port : Fin 2) (up : Bool)
  /-- ALARM_QUEUE_SEND (R455). The management path takes a queued ALARM as a PLDM PlatformEventMessage, the always-on queue shrinks and ALARM_N deasserts when it empties. -/
  | alarmQueueSend
  /-- EVENT_INTERRUPT_HOLDOFF (R458). The 10 µs holdoff on MSI-X vector 160 expires and records written meanwhile raise the error-summary interrupt. -/
  | eventInterruptHoldoff
  /-- INCIDENT_UPDATE_HOLDOFF (R453). The 10 ms limit on INCIDENT_UPDATE records ends and a held update for an open incident is sent over the fabric. -/
  | incidentUpdateHoldoff (id : W32)
deriving DecidableEq, Repr

end Sys2Proof
end

