-- ==== Sys2Proof/Decode.lean ====
section
/-! DEFINITION. The table of commands gives no row a bit pattern, so no word spells a command. The 64 bytes of a command
packet are read by `Machine.packetOf` (Machine/Command.lean), the way R272 and R279 lay them out. -/
namespace Sys2Proof

/-- The command a table word spells: none. -/
def decodeTableWord (_nbits _w : Nat) : Option Instr := none

end Sys2Proof
end

