-- ==== Sys2Proof/Config.lean ====
section
/-! DEFINITION. What the manual leaves to an implementation, to the outside world or to a named standard: constants and
functions without a body, so that no statement can rest on a value of theirs. -/
namespace Sys2Proof.Config

/-- ECDSA P-384 verification: public key, message, signature (FIPS 186-5). -/
opaque ecdsaVerify : List Byte → List Byte → List Byte → Bool
/-- ML-DSA-87 verification: public key, message, signature (FIPS 204). -/
opaque mldsaVerify : List Byte → List Byte → List Byte → Bool
/-- AES-256-XTS encryption of a 32-byte data unit under a 512-bit key and a tweak (IEEE 1619). -/
opaque xtsEncrypt : BitVec 512 → BitVec 128 → List Byte → List Byte
/-- The key that SEC's random source gives at the n-th draw (R252). -/
opaque xtsKey : Nat → BitVec 512
/-- The n-th free 32-bit word a run draws where the manual states no value. -/
opaque freeWord : Nat → W32
/-- The n-th free byte. -/
opaque freeByte : Nat → Byte
/-- The n-th free natural number. -/
opaque freeNat : Nat → Nat
/-- The value a transcendental function rounds to, where the enclosure of the model cannot decide the rounding:
function, argument pattern, format. -/
opaque openRounding : Nat → Nat → Nat → Nat
/-- Frames of the start-up reservation of firmware memory, set by the firmware bank that booted (R545). -/
opaque fwReservation : Nat
/-- Value and index that MAX, MIN, ARGMAX or ARGMIN gives of positions that are all masked: function code (R112). -/
opaque emptyExtreme : Nat → W32
opaque emptyIndex : Nat → W32
/-- SHA-384 hashes of the firmware keys, when no OTP edition is active. -/
opaque measurement : Nat → List Byte
/-- The link-layer address of a front-end port. -/
opaque portMac : Nat → BitVec 48
/-- Bits of a boundary-scan register. -/
opaque boundaryScan : Nat → List Byte
/-- The at most four 2 MiB frames of T2 with a line in a row: stack, channel, row (R210). -/
opaque rowFrames : Nat → Nat → Nat → List Nat
/-- The physical address of an error of HBM: stack, channel, row, draw (R209). -/
opaque eccAddress : Nat → Nat → Nat → Nat → Nat
/-- Whether the data of a frame can be read as its stack leaves service: draw, frame (R211). -/
opaque unreadable : Nat → Nat → Bool
/-- Whether a read of a copy of an image chunk fails its ECC check, and whether ECC corrects it: draw, chunk, copy (R229, R242); copy 2 is
the one copy of a keel chunk (R239). -/
opaque copyFails : Nat → Nat → Nat → Bool
opaque copyCorrected : Nat → Nat → Nat → Bool
/-- What the debug ring reads from a unit. -/
opaque debugRead : Nat → List Byte
/-- Data of a section of an ember record that the manual does not lay out: unit, order, draw. -/
opaque emberSection : Nat → Nat → Nat → List Byte
/-- Bit errors a PRBS run counts on a lane (R476). -/
opaque prbsErrors : Nat → Nat → W64
/-- Outcome of a built-in self-test: number of failing tests (R475). -/
opaque bistFailures : Nat → Nat
/-- Outcome of a sentinel run on demand (R424): slot, pattern, draw: 0 is PASS. -/
opaque sentinelOutcome : Nat → Nat → Nat → Fin 4
/-- Certificate chain in an SPDM slot (R506). -/
opaque certChain : Nat → List Byte

/-- How measurement index 5 lays out MODE_STAT and the LOCK bits (R506). -/
opaque measureMode : W32 → List Bool → List Byte

/-- Bytes of the largest protected state among the other members of a context's parity group (R407). -/
opaque groupLargest : Nat → Nat

/-- Bytes of KV cache that a token of a serving instance's model takes (R214). -/
opaque kvTokenBytes : Nat → Nat

/-- Source code that a fault record of a command's own write carries (R206, R546). -/
opaque cmdFaultSource : Nat

/-- What R464 leaves open of the CRC-32 of an edition: the first remainder, the value added at the end, and whether bits go
in least significant first. -/
opaque crcInit : W32
opaque crcXor : W32
opaque crcReflect : Bool

end Sys2Proof.Config
end

