-- ==== Sys2Proof/Machine/Bits.lean ====
section
/-! DEFINITION. Bit fields, byte order and saturation, as the whole manual uses them (R3, R5, R272). -/
namespace Sys2Proof.Machine

/-- Bits hi..lo of a number. -/
def bitsOf (v hi lo : Nat) : Nat := (v / 2 ^ lo) % 2 ^ (hi + 1 - lo)

/-- Bit k of a number. -/
def bitOf (v k : Nat) : Bool := (v / 2 ^ k) % 2 == 1

/-- A Boolean as a bit at position k. -/
def bitAt (b : Bool) (k : Nat) : Nat := if b then 2 ^ k else 0

/-- n bytes of a number, least significant first. -/
def le : Nat → Nat → List Byte
  | 0, _ => []
  | n + 1, v => BitVec.ofNat 8 v :: le n (v / 256)

/-- The number n little-endian bytes hold. -/
def ofLe : List Byte → Nat
  | [] => 0
  | b :: bs => b.toNat + 256 * ofLe bs

/-- n bytes at an offset of a byte list; bytes past its end are 0. -/
def sliceOf (bs : List Byte) (off n : Nat) : List Byte :=
  (List.range n).map fun k => bs.getD (off + k) 0

/-- The little-endian number of n bytes at an offset. -/
def leAt (bs : List Byte) (off n : Nat) : Nat := ofLe (sliceOf bs off n)

/-- Saturation of a 32-bit count. -/
def sat32 (n : Nat) : Nat := min n 0xFFFFFFFF

/-- Saturation at a bound. -/
def satTo (bound n : Nat) : Nat := min n bound

/-- Value of the low w bits of a number as two's complement. -/
def signedOf (w v : Nat) : Int :=
  let u := v % 2 ^ w
  if u < 2 ^ (w - 1) then (u : Int) else (u : Int) - 2 ^ w

/-- A number rounded up to a multiple of k. -/
def roundUp (n k : Nat) : Nat := (n + k - 1) / k * k

/-- ceil(n / k). -/
def ceilDiv (n k : Nat) : Nat := (n + k - 1) / k

/-- Two half-open ranges share a byte. -/
def overlaps (a la b lb : Nat) : Bool := a < b + lb && b < a + la && la != 0 && lb != 0

/-- Change one entry of a fixed table. -/
def vmod {α : Type} {n : Nat} (v : Vector α n) (i : Fin n) (f : α → α) : Vector α n := v.set i (f v[i]) i.isLt

/-- Value at a key of an association list, or a default. -/
def assocD {α β : Type} [DecidableEq α] (l : List (α × β)) (k : α) (d : β) : β :=
  match l with
  | [] => d
  | (a, b) :: t => if a = k then b else assocD t k d

/-- Set a key of an association list: the entry moves to the front. -/
def assocSet {α β : Type} [DecidableEq α] (l : List (α × β)) (k : α) (v : β) : List (α × β) :=
  (k, v) :: l.filter fun p => decide (p.1 ≠ k)

/-- Drop a key of an association list. -/
def assocDrop {α β : Type} [DecidableEq α] (l : List (α × β)) (k : α) : List (α × β) :=
  l.filter fun p => decide (p.1 ≠ k)

/-- XOR of two byte lists, the shorter padded with zero bytes (R407). -/
def xorBytes : List Byte → List Byte → List Byte
  | [], bs => bs
  | as, [] => as
  | a :: as, b :: bs => (a ^^^ b) :: xorBytes as bs

/-- Insert by key, after equal keys. -/
def insertBy {α : Type} (key : α → Nat) (x : α) : List α → List α
  | [] => [x]
  | y :: t => if key x < key y then x :: y :: t else y :: insertBy key x t

/-- Sort by ascending key; equal keys keep their order. -/
def sortBy {α : Type} (key : α → Nat) (l : List α) : List α := l.foldl (fun acc x => insertBy key x acc) []

end Sys2Proof.Machine
end

