-- ==== Sys2Proof/Machine/Num.lean ====
section
/-! DEFINITION. Number formats: decoding, rounding, special values, payloads, the random word (R29-R52). -/
namespace Sys2Proof.Machine

/-- A decoded number: finite, infinite, or a NaN with its 16-bit payload and whether it was a canonical F32 NaN. -/
inductive Val where
  | fin (q : Rat)
  | inf (neg : Bool)
  | nan (canon : Bool) (payload : Nat)
deriving DecidableEq, Repr

/-- 2 to an integer power. -/
def pow2 (k : Int) : Rat := if 0 ≤ k then (2 ^ k.toNat : Nat) else 1 / ((2 ^ (-k).toNat : Nat) : Rat)

/-! ### Formats (R29-R33) -/

def fF32 : Nat := 0
def fG16 : Nat := 1
def fA16 : Nat := 2
def fE8 : Nat := 3
def fE8W : Nat := 4
def fQ4 : Nat := 5
def fM8 : Nat := 6
def fM8U : Nat := 7

/-- Layout of a format: mantissa bits, bias, sign bit position (its width without the sign), largest finite magnitude code,
code of infinity and canonical NaN; for the block formats, the layout of an element. -/
structure Fmt where
  man : Nat
  bias : Nat
  mag : Nat
  maxCode : Nat
  infCode : Nat
  nanCode : Nat
deriving DecidableEq, Repr

def fmtOf : Nat → Fmt
  | 0 => ⟨23, 127, 31, 0x7F7FFFFF, 0x7F800000, 0x7FC00000⟩
  | 1 => ⟨8, 63, 15, 0x7EFF, 0x7F00, 0x7F80⟩
  | 2 => ⟨9, 31, 15, 0x7DFF, 0x7E00, 0x7F00⟩
  | 3 => ⟨3, 7, 7, 0x7D, 0x7E, 0x7F⟩
  | 4 => ⟨2, 15, 7, 0x7D, 0x7E, 0x7F⟩
  | 5 => ⟨1, 1, 3, 0x7, 0x8, 0x8⟩
  | 6 => ⟨3, 15, 7, 0x7F, 0x80, 0x80⟩
  | _ => ⟨3, 31, 8, 0xFF, 0x100, 0x100⟩

/-- Formats whose scale is held by a block (R34, R36), and the block length. -/
def isBlock (f : Nat) : Bool := f == fQ4 || f == fM8 || f == fM8U
def blockLen (f : Nat) : Nat := if f = fQ4 then 32 else 128

/-- Exponent of the unit in which every magnitude of a format is a whole number. -/
def Fmt.unit (f : Fmt) : Int := 1 - (f.bias : Int) - (f.man : Int)

/-- Magnitude of a code in units (R30). -/
def Fmt.units (f : Fmt) (n : Nat) : Nat :=
  let e := n / 2 ^ f.man
  let m := n % 2 ^ f.man
  if e = 0 then m else (2 ^ f.man + m) * 2 ^ (e - 1)

def Fmt.value (f : Fmt) (n : Nat) : Rat := (f.units n : Rat) * pow2 f.unit

/-- Largest code whose magnitude does not exceed a number of units. -/
def Fmt.floorCode (f : Fmt) (n : Nat) : Nat :=
  if n < 2 ^ (f.man + 1) then n else let k := Nat.log2 n - f.man; k * 2 ^ f.man + n / 2 ^ k

/-- Largest finite magnitude. -/
def Fmt.maxF (f : Fmt) : Rat := f.value f.maxCode

/-- Magnitude code below a magnitude, which may pass the largest finite one. -/
def Fmt.below (f : Fmt) (a : Rat) : Nat := f.floorCode (a * pow2 (-f.unit)).floor.toNat

/-- Round a magnitude to nearest, ties to even: past the largest finite value and half the top spacing it is infinite
(R49). -/
def Fmt.nearest (f : Fmt) (a : Rat) : Nat :=
  let n := f.below a
  let lo := f.value n
  let hi := f.value (n + 1)
  let r := if 2 * a < lo + hi then n else if lo + hi < 2 * a then n + 1 else if n % 2 = 0 then n else n + 1
  if f.maxCode < r then f.infCode else r

/-- Stochastic rounding of a magnitude with n bits of a word (R50). -/
def Fmt.stochastic (f : Fmt) (n w : Nat) (a : Rat) : Nat :=
  if f.maxF < a then f.infCode
  else
    let k := f.below a
    let lo := f.value k
    if lo = a then k
    else
      let fr := ((a - lo) / (f.value (k + 1) - lo) * (2 ^ n : Nat)).floor.toNat
      if w / 2 ^ (32 - n) < fr then k + 1 else k

/-- Rounding toward +inf of a magnitude. -/
def Fmt.up (f : Fmt) (a : Rat) : Nat :=
  let n := f.below a
  let r := if f.value n = a then n else n + 1
  if f.maxCode < r then f.infCode else r

/-- How a conversion rounds: nearest, or with n bits of a word. -/
inductive RMode where
  | nearest
  | random (n w : Nat)
deriving DecidableEq, Repr

def Fmt.round (f : Fmt) (m : RMode) (a : Rat) : Nat :=
  match m with
  | .nearest => f.nearest a
  | .random n w => f.stochastic n w a

/-- A signed code of a rational; zero is +0 (R38). -/
def Fmt.code (f : Fmt) (m : RMode) (q : Rat) : Nat :=
  let n := f.round m (if q < 0 then -q else q)
  if q < 0 ∧ n ≠ 0 then n + 2 ^ f.mag else n

/-! ### Payloads (R39-R41) -/

def cInvalidAdd : Nat := 1
def cInvalidMul : Nat := 2
def cInvalidDiv : Nat := 3
def cInvalidRoot : Nat := 4
def cInvalidLog : Nat := 5
def cInvalidFunc : Nat := 6
def cNarrow : Nat := 7
def cForeign : Nat := 8
def cConvert : Nat := 9

/-- A NaN the device creates. -/
def mkNan (cause tag : Nat) : Val := .nan false (cause * 1024 + tag % 1024)

def Val.isNan : Val → Bool
  | .nan .. => true
  | _ => false
def Val.zero : Val := .fin 0
def Val.neg : Val → Val
  | .fin q => .fin (-q)
  | .inf s => .inf !s
  | v => v
/-- Sign of a number: true when it is below zero. -/
def Val.isNeg : Val → Bool
  | .fin q => q < 0
  | .inf s => s
  | _ => false

/-- The NaN an operation with ordered operands passes on: the first canonical one, else the first. -/
def nanOf (vs : List Val) : Option Val :=
  match vs.find? fun v => match v with
    | .nan true _ => true
    | _ => false with
  | some v => some v
  | none => vs.find? Val.isNan

/-! ### Decoding (R30, R31) -/

/-- An F32 word. -/
def ofF32 (tag w : Nat) : Val :=
  let n := w % 2 ^ 31
  if n < 0x7F800000 then .fin (if bitOf w 31 then -(fmtOf 0).value n else (fmtOf 0).value n)
  else if n = 0x7F800000 then .inf (bitOf w 31)
  else if w / 65536 % 65536 = 0x7FC0 then .nan true (w % 65536) else mkNan cForeign tag

/-- A scalar element of a format. -/
def decodeScalar (fmt tag w : Nat) : Val :=
  if fmt = fF32 then ofF32 tag w
  else
    let f := fmtOf fmt
    let n := w % 2 ^ f.mag
    if n ≤ f.maxCode then .fin (if bitOf w f.mag then -f.value n else f.value n)
    else if n = f.infCode then .inf (bitOf w f.mag) else mkNan cNarrow tag

/-- An element of a block, with the block's scale code (R34, R36). -/
def decodeBlock (fmt tag scale w : Nat) : Val :=
  let f := fmtOf fmt
  let neg := fmt ≠ fM8U ∧ bitOf w f.mag
  let q := f.value (w % 2 ^ f.mag)
  let q := if neg then -q else q
  if fmt = fQ4 then
    (if scale = 0xFF then mkNan cNarrow tag else if scale = 0xFE then .inf neg else .fin (q * pow2 ((scale : Int) - 127)))
  else match decodeScalar fG16 tag scale with
    | .nan .. => mkNan cNarrow tag
    | .inf false => .inf neg
    | .inf true => mkNan cNarrow tag
    | .fin s => if s < 0 then mkNan cNarrow tag else .fin (q * s)

/-! ### Encoding -/

/-- F32 word of a value. -/
def toF32 : Val → Nat
  | .fin q => (fmtOf 0).code .nearest q
  | .inf s => 0x7F800000 + bitAt s 31
  | .nan _ p => 0x7FC00000 + p % 65536

/-- A value rounded once to F32, as the F32 number it is. -/
def rndF32 (v : Val) : Val :=
  match v with
  | .fin q => ofF32 0 ((fmtOf 0).code .nearest q)
  | .nan _ p => .nan true p
  | v => v

/-- A value rounded to a node format, F32 or G16, and decoded again; a NaN keeps its payload on the way (R73). -/
def rndTo (fmt : Nat) (v : Val) : Val :=
  match v with
  | .fin q => decodeScalar fmt 0 ((fmtOf fmt).code .nearest q)
  | v => v

/-- A scalar conversion: code, and whether a finite value became infinite (R47, R131). -/
def toScalar (fmt : Nat) (m : RMode) (v : Val) : Nat × Bool :=
  let f := fmtOf fmt
  match v with
  | .fin q => let c := f.code m q; (c, c % 2 ^ f.mag = f.infCode)
  | .inf s => (f.infCode + bitAt s f.mag, false)
  | .nan _ p => (if fmt = fF32 then f.nanCode + p % 65536 else f.nanCode, false)

/-- amax rounded to F32 toward +inf, as a word (R55). -/
def amaxWord (a : Rat) : W32 := BitVec.ofNat 32 ((fmtOf 0).up a)

def ratAbs (q : Rat) : Rat := if q < 0 then -q else q

/-- Largest finite magnitude of some values. -/
def amaxOf (vs : List Val) : Rat :=
  vs.foldl (fun a v => match v with
    | .fin q => if a < ratAbs q then ratAbs q else a
    | _ => a) 0

/-- Least k with a ≤ 6 × 2^k, from a magnitude above 0 (R37). -/
def q4Exp (a : Rat) : Int :=
  let e : Int := if 1 ≤ a then (Nat.log2 a.floor.toNat : Int)
    else let l : Int := -((Nat.log2 ((1 / a).floor.toNat) : Nat) : Int); if pow2 l ≤ a then l else l - 1
  if a / pow2 e ≤ 3 / 2 then e - 2 else e - 1

/-- A block: scale code and element codes, from the values of its non-padding elements (R37). -/
def toBlock (fmt : Nat) (mode : Nat → RMode) (vs : List Val) : Nat × List Nat :=
  let f := fmtOf fmt
  let n := vs.length
  let a := amaxOf vs
  let signBit (v : Val) : Nat := if fmt ≠ fM8U ∧ v.isNeg then 2 ^ f.mag else 0
  let elems (s : Rat) : List Nat := ((List.range n).zip vs).map fun x => match x.2 with
    | .fin q => f.code (mode x.1) (q / s)
    | _ => 0
  let anyNan := vs.any Val.isNan || (fmt = fM8U && vs.any Val.isNeg)
  let anyInf := vs.any fun v => match v with
    | .inf _ => true
    | _ => false
  if fmt = fQ4 then
    if anyNan then (0xFF, List.replicate n 0)
    else if anyInf then (0xFE, vs.map fun v => 7 + signBit v)
    else if a = 0 then (0x7F, List.replicate n 0)
    else
      let k := q4Exp a
      if 126 < k then (0xFE, vs.map fun v => 7 + signBit v)
      else let k := if k < -127 then -127 else k; ((k + 127).toNat, elems (pow2 k))
  else
    if anyNan then (0x7F80, List.replicate n 0)
    else if anyInf then (0x7F00, vs.map signBit)
    else if a = 0 then (0, List.replicate n 0)
    else
      let sc := (fmtOf fG16).up (a * 8 / 15)
      if sc = 0x7F00 then (0x7F00, vs.map signBit) else (sc, elems ((fmtOf fG16).value sc))

/-! ### The random word (R51) -/

def rotl (v : W32) (k : Nat) : W32 := v.rotateLeft k

/-- Constants C of R51. -/
def roundConst : List W32 := [0x243F6A88, 0x85A308D3, 0x13198A2E, 0x03707344, 0xA4093822, 0x299F31D0]

def roundingWord (seed : W64) (tid : W32) (idx : Nat) (step : W32) : W32 :=
  let k0 : W32 := seed.truncate 32 ^^^ tid
  let k1 : W32 := (seed >>> 32).truncate 32 ^^^ step
  let init : W32 × W32 := (BitVec.ofNat 32 idx, BitVec.ofNat 32 (idx / 2 ^ 32 % 2 ^ 16))
  (((List.range 6).zip roundConst).foldl (fun (ab : W32 × W32) c =>
    let k := (if c.1 % 2 = 0 then k0 else k1) ^^^ c.2
    let a := (rotl ab.1 8 + ab.2) ^^^ k
    (a, rotl ab.2 12 ^^^ a)) init).2

end Sys2Proof.Machine
end

