-- ==== Sys2Proof/Machine/Parts/Mem.lean ====
section
/-! DEFINITION. State types of MEM and TMU: pages, quotas, faults, stacks (chapter 08). -/
namespace Sys2Proof.Machine

/-- Page size (R186). -/
inductive PSize where | k64 | m2 | g1
deriving DecidableEq, Repr

/-- Tiers a page may reside in (R185, R188). -/
inductive Tier where | t2 | t3 | t4
deriving DecidableEq, Repr

/-- Placement hint (R190). -/
inductive Hint where | none | preferT2 | preferT3 | preferT4 | pinT2 | pinT3
deriving DecidableEq, Repr

/-- One mapped page: the fields of its table entry (R188), what TMU remembers of it. -/
structure Page where
  ctx : CtxId
  va : Nat
  size : PSize
  tier : Tier
  hint : Hint
  r : Bool
  w : Bool
  /-- The page reads as zero and has no frame yet. -/
  zero : Bool := true
  poison : Bool := false
  migrating : Bool := false
  /-- The tier and peer to which the page is being copied, while it migrates (R193). -/
  dest : Option (Tier × Fin 9) := Option.none
  /-- Hint that applies from the remap, when a fault was pending on the page as MEM_HINT changed it (R216). -/
  nextHint : Option Hint := Option.none
  /-- Slot w of the lending peer, for T3. -/
  peer : Fin 9 := 0
  /-- First 2 MiB frame of the page in its tier: field LOC shows it in units of 64 KiB (R188). -/
  frame : Nat := 0
  /-- Tick at which a command last named the page (R191). -/
  named : Nat := 0
  /-- The T3 copy is lost with its lender: accesses fault with TIER_LOST (R213). -/
  lost : Bool := false
deriving DecidableEq, Repr

/-- Fault cause codes of R205. -/
inductive FCause where
  | unmapped | permission | quota | tierLost | timeout | notResident | migrating | poisoned
deriving DecidableEq, Repr

/-- Who made a faulting access (R206); `cmd` is a command that writes its result directly (R546). -/
inductive FSource where | ste | bdm | cle | vlt | mir | cmd
deriving DecidableEq, Repr

/-- A pending fault (R205, R206). -/
structure PFault where
  id : W32
  ctx : CtxId
  gen : Byte
  cause : FCause
  write : Bool
  src : FSource
  /-- Logical engine or DMA channel, and program slot. -/
  unit : Nat
  prog : Nat
  va : Nat
  seq : W32
  node : Nat
  tick : Nat
  /-- The command whose access faulted. -/
  cid : Nat
  /-- False when the fault ring was full: no visible FAULT_ID (R251). -/
  recorded : Bool
deriving DecidableEq, Repr

/-- A frame this module lends to a sled peer (R213). -/
structure Lent where
  frame : Nat
  peer : Fin 9
  ctx : CtxId
  gen : Byte
deriving DecidableEq, Repr

/-- A failing row of a channel (R210): the row, the times in microseconds of its corrected errors of the last 24 h, whether it
has failed. -/
structure RowRec where
  channel : Fin 32
  row : Nat
  ces : List Nat
  failed : Bool
  frames : List Nat
deriving DecidableEq, Repr

/-- One HBM stack (R208-R211). -/
structure Stack where
  out : Bool := false
  reserve : Nat := 2
  retired : Nat := 0
  rows : List RowRec := []
  /-- Channels being copied to a reserve channel. -/
  copying : List (Fin 32) := []
  /-- Corrected errors of the last hour: channel and time in microseconds (R211). -/
  hourCe : List (Fin 32 × Nat) := []
deriving DecidableEq, Repr

/-- A line of 256 bytes that a base tile caches (R207): its frame and its place there, the context and generation it carries. -/
structure T1Line where
  frame : Nat
  line : Nat
  ctx : CtxId
  gen : Byte
  retained : Bool
  dirty : Bool
deriving DecidableEq, Repr

/-- An error of HBM as RAS receives it (R209): stack, channel, row, physical address, context of the request, uncorrectable. -/
structure EccSeen where
  stack : StackId
  channel : Fin 32
  row : Nat
  address : Nat
  ctx : Option CtxId
  ue : Bool
deriving DecidableEq, Repr

/-- A frame that a commit has replaced (R200 step 4): it returns to its context's shadow pool, some 64 KiB slots of it, once the
commands issued before that commit that name its page have ended. -/
structure HeldFrame where
  ctx : CtxId
  frame : Nat
  units : Nat
  readers : List Nat
deriving DecidableEq, Repr

/-- Registers and tables of MEM and TMU that belong to no one context. -/
structure MemUnit where
  /-- GLB_MEM_CAP. -/
  cap : Nat := 0
  /-- Start-up reservation in frames (R545). -/
  fwReserved : Nat := 0
  lendLock : Bool := false
  lendPages : Nat := 0
  /-- GLB_MEM_MIG.RATE. -/
  migRate : Byte := 50
  hbm : Vector Stack 24 := Vector.replicate 24 {}
  lent : List Lent := []
  /-- Frames free on each sled peer's lend pool. -/
  peerRoom : Vector Nat 9 := Vector.replicate 9 0
  /-- Frames that each sled peer reclaims and has not got back yet (R213). -/
  owed : Vector Nat 9 := Vector.replicate 9 0
  /-- Lines that the base tiles BT0-BT3 cache, the least recently used first (R207). -/
  t1 : Vector (List T1Line) 4 := Vector.replicate 4 []
  /-- Errors of HBM that RAS has received, the newest first (R209). -/
  seen : List EccSeen := []
  retiredFrames : List Nat := []
  /-- Frames that commits have replaced and that earlier readers still hold (R200). -/
  held : List HeldFrame := []
  /-- Frames awaiting scrub (R259). -/
  scrub : Nat := 0
  nextFault : W32 := 1
  pages : List Page := []
  faults : List PFault := []
  /-- Frames of firmware memory taken by resident graphs (R545). -/
  fwGraphs : Nat := 0
deriving DecidableEq, Repr

end Sys2Proof.Machine
end

