-- ==== Sys2Proof/Machine/Parts/Ctx.lean ====
section
/-! DEFINITION. State types of CTX, FRU and VLT that belong to one context (chapters 02, 05, 08, 09, 10, 15). -/
namespace Sys2Proof.Machine

/-- Context state (R245). -/
inductive CtxState where | free | active | fenced | fencing | draining | scrubbing
deriving DecidableEq, Repr

/-- One recipe (R53). -/
structure Recipe where
  format : Fin 16
  initExp : Int
  headroom : Nat
  skipStep : Bool
  histLen : Nat
deriving DecidableEq, Repr

/-- One scale record (R127). -/
structure ScaleRec where
  exp : Int := 0
  hcount : Nat := 0
  hhead : Nat := 0
  kind : Nat := 0
  seen : Bool := false
  step : W32 := 0
  /-- F32 bit patterns. -/
  stepAmax : W32 := 0
  hist : List W32 := List.replicate 16 0
  tid : W32 := 0
  /-- Tile deltas of the record's tensor (R56): tile number and delta, deltas of 0 left out. -/
  deltas : List (Nat × Int) := []
deriving DecidableEq, Repr

/-- The first-NaN record (R43). -/
structure NanRec where
  valid : Bool := false
  more : Bool := false
  format : Fin 16 := 0
  cause : Fin 64 := 0
  tag : BitVec 10 := 0
  source : Byte := 0
  tid : W32 := 0
  idx : BitVec 48 := 0
deriving DecidableEq, Repr

/-- Weight-slot state (R232). -/
inductive WState where | empty | loading | ready | retiring
deriving DecidableEq, Repr

/-- One weight slot. -/
structure WSlot where
  state : WState := .empty
  va : Nat := 0
  len : Nat := 0
  version : W32 := 0
  root : List Byte := []
  img : Byte := 0xFF
  pins : Nat := 0
  /-- The chunks loaded, with the address each went to: (chunk, va). -/
  chunks : List (Nat × Nat) := []
  /-- Leaf hashes of those chunks, as the manifest gave them (R221). -/
  leaf : List (Nat × List Byte) := []
  /-- Load group and members of the load. -/
  group : W16 := 0
  members : BitVec 9 := 0
deriving DecidableEq, Repr

/-- An image directory entry's state (R224). -/
inductive ImgState where | empty | installing | ready
deriving DecidableEq, Repr

/-- A manifest as VLT holds it (R220). -/
structure Manifest where
  imageLen : Nat := 0
  chunks : Nat := 0
  version : W32 := 0
  tenant : W64 := 0
  root : List Byte := []
  leaf : List (List Byte) := []
deriving DecidableEq, Repr

/-- One image directory entry. -/
structure Image where
  state : ImgState := .empty
  man : Manifest := {}
  /-- Chunks present, with the bytes of copy 0 and of copy 1. -/
  data : List (Nat × List Byte × List Byte) := []
deriving DecidableEq, Repr

/-- Keel slot state (R239). -/
inductive KeelState where | empty | valid | invalid
deriving DecidableEq, Repr

/-- One keel slot. -/
structure Keel where
  state : KeelState := .empty
  tenant : W64 := 0
  job : W64 := 0
  step : W32 := 0
  root : List Byte := []
  data : List (Nat × List Byte) := []
  chunkCount : Nat := 0
deriving DecidableEq, Repr

/-- One vault array's counters (R242). -/
structure VArray where
  wearUsed : Nat := 0
  spare : Nat := 0
deriving DecidableEq, Repr

/-- VLT. -/
structure Vault where
  /-- The part is HZ9-2404 (R1); known from OTP PART once ROOT has read it. -/
  small : Bool := false
  layoutLock : Bool := false
  /-- VLT_LAYOUT as written, and as in effect since the last start (R218). -/
  keelGib : Nat
  imageGib : Nat
  keelNow : Nat
  imageNow : Nat
  /-- KEEL and IMAGE written since the last start: they take effect at the next (R218). -/
  layoutPend : Option (Nat × Nat) := none
  arrays : Vector VArray 2 := Vector.replicate 2 {}
  /-- Bytes programmed in the last 24 h, shown in GiB by VLT_WRITE_DAY. -/
  writeDay : Nat := 0
  throttled : Bool := false
  images : Vector Image 256 := Vector.replicate 256 {}
  /-- Publisher keys: ECDSA hash and ML-DSA hash, 48 bytes each. -/
  keys : Vector (Option (List Byte × List Byte)) 8 := Vector.replicate 8 none
  keels : Vector Keel 2 := Vector.replicate 2 {}
  /-- Chunks of sled peers' vaults known to this module: (peer w, ROOT, chunk, bytes). -/
  peerChunks : List (Fin 9 × List Byte × Nat × List Byte) := []
deriving DecidableEq, Repr

/-- One context. -/
structure Ctx where
  state : CtxState := .free
  gen : Byte := 1
  classes : BitVec 4 := 0
  semBase : Nat := 0
  semCount : Nat := 0
  tenant : W64 := 0
  seed : W64 := 0
  forced : Bool := false
  /-- Quarantine ticks left (R260). -/
  quar : Nat := 0
  /-- SEC holds a key for the context (R252). -/
  key : Bool := false
  /-- Draw of SEC's random source that gave the key: no register shows it. -/
  keyDraw : Nat := 0
  /-- Tick at which DRAINING was entered. -/
  drainTick : Nat := 0
  /-- Links whose teardown acknowledgment is awaited. -/
  awaitAck : List LinkId := []
  /-- Counts for the CTX_DESTROY reply (R261). -/
  endedKilled : Nat := 0
  endedPartial : Nat := 0
  /-- Fault window counts (R250, R251). -/
  faultProd : W32 := 0
  faultLost : W32 := 0
  quotaT2 : Nat := 0
  quotaT3 : Nat := 0
  quotaT4 : Nat := 0
  quotaSh : Nat := 0
  /-- Shadow pool use in 64 KiB slots (R198). -/
  shUse : Nat := 0
  recipes : List Recipe := []
  scales : List (Nat × ScaleRec) := []
  /-- What every scale record shows that no conversion has named yet (R127, R129). -/
  tmpl : ScaleRec := {}
  nan : NanRec := {}
  /-- Step-skip flags: the steps whose flag is set (R57). -/
  skip : List W32 := []
  wslots : Vector WSlot 8 := Vector.replicate 8 {}
  cur : Option WSlotId := none
  /-- GLB_GSC_SHARE (R329). -/
  share : Nat := 16
  /-- Debt of each class (R313). -/
  debt : Vector Nat 4 := Vector.replicate 4 0
  /-- Steps whose STEP_FENCE has been admitted (R328). -/
  fenced : List W32 := []
  /-- STEP_FENCEs that have ended: step, SEQ, committed, status. -/
  fenceEnds : List (W32 × W32 × Bool × W16) := []
  /-- Step records: (step, commands ended, admission order/SEQ/status of the first bad one). -/
  steps : List (W32 × Nat × Option (Nat × W32 × W16)) := []
  /-- Times of the guilty marks within the hour (R434). -/
  guilty : List Nat := []
deriving DecidableEq, Repr


end Sys2Proof.Machine
end

