-- ==== Sys2Proof/Machine/Parts/Cmd.lean ====
section
/-! DEFINITION. State types of CMD and GSC: rings, commands, graphs, the tick plan (chapters 11, 12). -/
namespace Sys2Proof.Machine

/-- PHASE of a reply (R276). -/
inductive Phase where | committed | killed | partialEnd
deriving DecidableEq, Repr

/-- CMDQ_STAT.STATE (R268). -/
inductive RingState where | disabled | running | error | closing
deriving DecidableEq, Repr

/-- What a ring keeps of an ended command: its reply and its unit bitmap (R301). -/
structure Hist where
  seq : W32
  ctx : CtxId
  phase : Phase
  status : W16
  units : Nat
  /-- Units landed or committed, ascending. -/
  done : List Nat
  reply : List Byte
deriving DecidableEq, Repr

/-- How a packet of a ring ended (R274): the step fences it was, or depended on (R328), go with it. -/
structure EndRec where
  seq : W32
  phase : Phase
  status : W16
  after : List (CtxId × W32) := []
deriving DecidableEq, Repr

/-- One command ring with its completion ring (R264-R268). Ring 64 is the management ring (R508). -/
structure Ring where
  state : RingState := .disabled
  err : Nat := 0
  admin : Bool := false
  /-- OWNER: true for a core ring. -/
  core : Bool := false
  log2sz : Nat := 4
  mask : W64 := 0
  base : W64 := 0
  cpl : W64 := 0
  /-- Control core serving the ring. -/
  server : CoreId := 0
  head : W32 := 0
  tail : W32 := 0
  cplTail : W32 := 0
  cplHead : W32 := 0
  /-- Packets read since the last enable. -/
  read : Nat := 0
  /-- SEQ expected next; none before the first packet (R273). -/
  nextSeq : Option W32 := none
  hist : List Hist := []
  /-- Outcomes of the ring's ended packets, newest first (R274). -/
  ends : List EndRec := []
  /-- cid of the last packet read, 0 when it failed admission or none was read (R321). -/
  lastCid : Nat := 0
  /-- Events that have interrupted the core that serves a core ring, latest first, by the vector a host would get (R269). -/
  raised : List Nat := []
deriving DecidableEq, Repr

/-- A buffer descriptor (R284). -/
structure BufD where
  va : Nat
  len : Nat
  r : Bool
  w : Bool
deriving DecidableEq, Repr

/-- A tensor descriptor (R285). -/
structure TenD where
  fmt : Fin 16
  kind : Fin 16
  srBits : Fin 4
  last : Bool
  scaleSlot : BitVec 12
  tid : W32
  dim : List Nat
  org : List Nat
  ext : List Nat
  prog : Byte
  rotFirst : Fin 4
  rotLen : Nat
  handle : W16
deriving DecidableEq, Repr

/-- An engine entry with its images copied in (R286). -/
structure EngD where
  eng : EngineId
  banks : Nat
  images : List (List W64)
deriving DecidableEq, Repr

/-- The reduction geometry (R287). -/
structure Geom where
  rid : W32
  klen : Nat
  segLo : Nat
  segHi : Nat
  slots : Nat
  slotLo : Nat
  slotHi : Nat
  nodeFmt : Fin 16
deriving DecidableEq, Repr

/-- A member table entry (R358). -/
structure Member where
  ident : W16
  ctx : CtxId
  noslot : Bool
  gen : Byte
  slotLo : Nat
  slotHi : Nat
  shardLen : Nat
deriving DecidableEq, Repr

/-- One DMA descriptor (R165). -/
structure DmaDesc where
  src : Nat
  dst : Nat
  len : Nat
  srcKind : Nat
  dstKind : Nat
  alloc : Nat
deriving DecidableEq, Repr

/-- A shard map entry (R228). -/
structure ShardEnt where
  chunk : Nat
  count : Nat
  va : Nat
deriving DecidableEq, Repr

/-- What CMD copied at admission: the kernel block and the tables it names (R283). -/
structure KBlock where
  tag : BitVec 10 := 0
  step : W32 := 0
  bufs : List BufD := []
  tens : List TenD := []
  engs : List EngD := []
  geom : Option Geom := none
  op : List Byte := []
  members : List Member := []
  newMembers : List Member := []
  descs : List DmaDesc := []
  shards : List ShardEnt := []
deriving DecidableEq, Repr

/-- Life of an admitted command (R303). -/
inductive CState where | waiting | ready | placed | issued | committing
deriving DecidableEq, Repr

/-- An admitted command that has not ended. -/
structure Cmd where
  /-- Admission order. -/
  cid : Nat
  ring : RingId
  seq : W32
  /-- Node number in a graph run, 0 for a ring command (R293). -/
  node : Nat := 0
  /-- The run (cid of the run's command) a node belongs to. -/
  run : Option Nat := none
  ctx : CtxId
  gen : Byte
  prio : PrioClass
  fixed : Bool
  notify : Bool
  chain : Bool := false
  budget : Nat
  op : Op
  kb : KBlock := {}
  /-- Buffer descriptors: of the kernel block, or implicit (R282). -/
  ranges : List BufD := []
  /-- CHECK in effect at admission (R24). -/
  check : Fin 4 := 0
  state : CState := .waiting
  /-- cids of unended predecessors. -/
  preds : List Nat := []
  /-- SEQ and status of a predecessor that ended KILLED or PARTIAL. -/
  bad : Option (W32 × W16) := none
  /-- Step fences the command is, or depends on (R328). -/
  after : List (CtxId × W32) := []
  /-- An OPT_UPDATE whose STEP_FENCE has not ended (R328). -/
  fenceWait : Bool := false
  /-- Of a SEM_ACQUIRE: its binding is known, its guarded command, its closing release (R321). -/
  bound : Bool := false
  guarded : Option Nat := none
  closing : Option Nat := none
  /-- Of a guarded command: the acquire. Its closing release stands in both. -/
  acquire : Option Nat := none
  /-- Place in the ready queue of its class (R304). -/
  readyNo : Nat := 0
  /-- First tick it is placed in, and sixteenths not yet reserved beyond the horizon (R308). -/
  tick : Nat := 0
  planLeft : Nat := 0
  /-- Tick in which it last fitted no tick of the horizon: it is tried again at the next (R307). -/
  tried : Option Nat := none
  /-- Order of issue; 0 before. -/
  issueNo : Nat := 0
  /-- Fabric time of the issue, ns (R149). -/
  issueNs : Nat := 0
  /-- Bytes of frames that later commits replaced, by address: the command goes on seeing them (R200). -/
  frozen : List Host.Cell := []
  /-- When a group load issued or last received a chunk from a holder, in microseconds (R230). -/
  chunkUs : Nat := 0
  /-- The budget clock has started (R311). -/
  issuing : Bool := false
  runAhead : Bool := false
  /-- Attempt id of the running attempt (R342). -/
  attempt : Nat := 0
  /-- Pre-emption kills since admission (R318). -/
  kills : Nat := 0
  /-- Mismatch reruns (R101). -/
  reruns : Nat := 0
  /-- The command waits for its rerun after a mismatch. -/
  mismatch : Bool := false
  /-- Overflow replays made, and tensors awaiting one (R57, R131). -/
  rescaled : Bool := false
  replays : List (Nat × Nat) := []
  /-- Sixteenths charged on top of the clock (R102, R132). -/
  charge : Nat := 0
  units : Nat := 0
  /-- Units finished by the attempt (killable) or landed (FIXED). -/
  done : List Nat := []
  /-- Shadow writes, in order (R198). -/
  staged : List Host.Cell := []
  /-- 64 KiB shadow slots reserved. -/
  shNeed : Nat := 0
  /-- Staged amax of scale slots (R128). -/
  amax : List (Nat × W32) := []
  deltas : List (Nat × Nat × Int) := []
  nans : List NanRec := []
  /-- The overflow action set the step-skip flag (R57). -/
  skip : Bool := false
  /-- Semaphore additions held for commit, with the program that made them (R145). -/
  semAdds : List (SemId × Nat × EngineId × Fin 16) := []
  /-- Multicasts of a leader to a member, in order, with whether they move nothing, and RECVs of a member that name a leader (R147). -/
  mcasts : List (EngineId × EngineId × Bool) := []
  recvs : List (EngineId × EngineId) := []
  /-- LST banks allotted, in relative order, by engine. -/
  banks : List (EngineId × List (Fin 16)) := []
  /-- Tentative claim or FIXED hold of the acquire that guards the command (R322, R323). -/
  claim : Option (SemId × Nat) := none
  hold : Option (SemId × Nat) := none
  chan : Option ChanId := none
  /-- Operand bytes as visible at issue: (tensor, engine, bytes). -/
  operands : List (Nat × EngineId × List Byte) := []
  /-- LST outputs: (engine, handle). -/
  lstOut : List (EngineId × W16) := []
  /-- Computed elements of a FIXED MATMUL whose block is not complete yet: element, ends of its value (R123). -/
  parts : List (Nat × Val × Val) := []
  /-- Physical slots on which engines of a FIXED command run on after their slices were retired (R16). -/
  onSlots : List (EngineId × SlotId) := []
  /-- Slot of the first mismatch of a killable command (R101). -/
  missSlot : Option SlotId := none
  /-- Tiles that mismatched and await recomputation, and tiles that mismatched again (R102). -/
  badTiles : List Nat := []
  failedTiles : List Nat := []
  /-- Chunks gathered by a VLT command: (chunk, va, bytes); chunks no source yielded. -/
  chunks : List (Nat × Nat × List Byte) := []
  lostChunks : List (Nat × Nat) := []
  /-- Sled peers that have not answered in time (R229). -/
  deadPeers : List (Fin 9) := []
  /-- The command ends with this status and DETAIL, once what it waited for has failed (R232). -/
  doom : Option (W16 × W64) := none
  /-- Fault the command's own write waits on (R546). -/
  waitFault : Option W32 := none
  /-- Status of the reply once the command's own write is done; none is ST_OK. -/
  final : Option W16 := none
  /-- Deadline the serving loop set for the request the command serves, in ticks (R235). -/
  dueTick : Option Nat := none
  detail : W64 := 0
deriving DecidableEq, Repr

/-- One placement: `amt` sixteenths of each row of the command in a tick (R306, R308). -/
structure Place where
  cid : Nat
  tick : Nat
  amt : Nat
deriving DecidableEq, Repr

/-- A graph node (R292, R293). -/
structure GNode where
  op : Op
  prio : PrioClass
  fixed : Bool
  chain : Bool
  budget : W32
  kb : KBlock
deriving DecidableEq, Repr

/-- A resident graph (R295). -/
structure Graph where
  ctx : CtxId
  slot : Fin 16
  nodes : List GNode
  edges : List (Nat × Nat)
  frames : Nat
  /-- Recipe overrides: KIND and entry (R294). -/
  rcp : List (Nat × Recipe) := []
  /-- Its GRAPH_RELEASE has been admitted. -/
  releasing : Bool := false
  /-- SUBMIT_GRAPH has committed. -/
  ready : Bool := false
deriving DecidableEq, Repr

/-- Outcome of a node within a run. -/
inductive NodeEnd where | notEnded | ended (phase : Phase) (status : W16)
deriving DecidableEq, Repr

/-- A graph run in progress (R295, R296). -/
structure Run where
  cid : Nat
  ctx : CtxId
  slot : Fin 16
  step : W32
  ends : List NodeEnd
deriving DecidableEq, Repr

/-- A service image running on a control core (R271). -/
inductive Service where | servingLoop | jobAgent | membership | checkpointAgent
deriving DecidableEq, Repr

/-- State of a control core (R270, R432). -/
inductive CoreState where | free | service (svc : Service) | stopped | reserve | retired
deriving DecidableEq, Repr

/-- GSC and CMD. -/
structure Sched where
  cmds : List Cmd := []
  nextCid : Nat := 1
  nextReady : Nat := 1
  nextIssue : Nat := 1
  nextAttempt : Nat := 1
  /-- Placements, in the order they were made. -/
  plan : List Place := []
  /-- Sixteenths repaid in the current tick: context, class, r (R313). -/
  repaid : List (CtxId × PrioClass × Nat) := []
  /-- Sparse semaphore counts; absent means 0 (R320). -/
  sems : List (SemId × Nat) := []
  preLock : Bool := false
  protectK : Nat := 3
  liveMax : Nat := 8
  preWait : Nat := 4096
  graphs : List Graph := []
  runs : List Run := []
  cores : Vector CoreState 16 := Vector.replicate 16 .free
  /-- Services stopping: STOP waits for their commands (R271): the cid of the STOP. -/
  stopping : List (Service × Nat) := []
  /-- ROOT of the image of each service last started, by SVC (R506). -/
  svcRoots : List (Byte × List Byte) := []
deriving DecidableEq, Repr

end Sys2Proof.Machine
end

