-- ==== Sys2Proof/Machine/Parts/Fab.lean ====
section
/-! DEFINITION. State types of FAB, the tick, CLE, MIR and the job (chapters 13-16). -/
namespace Sys2Proof.Machine

/-- Link states (R337). -/
inductive LinkState where | down | train | auth | align | up | reconfig | failed | disabled
deriving DecidableEq, Repr

/-- HB_STATE (R339). -/
inductive HbState where | starting | spare | active | vigil
deriving DecidableEq, Repr

/-- A packet held by FAB: header fields of R342, its data, and the link it came over. -/
structure Held where
  typ : Byte
  vc : Fin 6
  cls : PrioClass
  dst : W16
  src : W16
  ctx : CtxId
  gen : Byte
  stamp : Byte
  attempt : W32
  /-- Link of arrival; none for packets of this module. -/
  from? : Option LinkId
  /-- Link it waits to leave on. -/
  out : LinkId
  slots : Nat
  body : List Byte
  /-- cid of the sending command, 0 for a forwarded packet. -/
  cid : Nat
  /-- Context and generation of the sending command (R257). -/
  own : Option (CtxId × Byte) := none
deriving DecidableEq, Repr

/-- One fabric link (R337-R347, R356). -/
structure Link where
  state : LinkState := .down
  misses : Nat := 0
  nstate : HbState := .starting
  nreason : W16 := 0
  lanes : Nat := 0
  laneOk : BitVec 18 := 0
  nbrSlot : Fin 16 := 0
  nbrIdent : W16 := 0xFFFF
  nbrInc : W32 := 0
  /-- The neighbour has been reported to RAS and MIR as VIGIL. -/
  vigilSeen : Bool := false
  /-- FSEQ to send next, and FSEQ of the last flit received in order. -/
  fseq : W16 := 0
  rseq : W16 := 0xFFFF
  /-- Discarding until the replay (R340). -/
  nakked : Bool := false
  /-- Flits sent and not acknowledged: FSEQ values (replay buffer, at most 512). -/
  replay : List W16 := []
  replaying : List W16 := []
  /-- Transmit credits of the six virtual channels (R344). -/
  credits : Vector Nat 6 := #v[512, 8192, 6144, 6144, 6144, 5632]
  /-- Slots freed since the last flit, to return as credits. -/
  freed : Vector Nat 6 := Vector.replicate 6 0
  grants : Nat := 0
  /-- Grant count at which each virtual channel was last granted (R345). -/
  vcLast : Vector Nat 6 := Vector.replicate 6 0
  /-- Lane swap agreed: lane retired, spare lane, FSEQ of the swap (R338). -/
  swap : Option (Nat × Nat × W16) := none
  swapReq : Option Nat := none
  /-- BEAT of the current tick awaits an acknowledgment; ACK to send. -/
  awaiting : Option W32 := none
  ackDue : Option W32 := none
  /-- SPDM session established; packets sent since the last key (R347). -/
  session : Bool := false
  packets : Nat := 0
  keyUpdates : Nat := 0
  /-- Tick advertisement of the neighbour: priority, ident, stratum. -/
  adv : Option (Byte × W16 × Nat) := none
  /-- Good lanes before the loss being reconfigured. -/
  lostLane : Option Nat := none
deriving DecidableEq, Repr

/-- TICK_STAT.STATE (R356). -/
inductive TickState where | free | aligning | locked | holdover | master
deriving DecidableEq, Repr

/-- A change announced for tick AT (R351). -/
structure TickChange where
  at_ : W32
  tcal : Nat
  len1 : Nat
  start1 : Nat
  len0 : Nat
  start0 : Nat
deriving DecidableEq, Repr

/-- Fabric time and the calends tick (R348-R352). -/
structure Tick where
  /-- Fabric time in 1/16 ns. -/
  time : W64 := 0
  /-- Tick number n, not wrapped. -/
  now : Nat := 0
  baseT : Nat := 0
  baseN : Nat := 0
  lock : Bool := false
  prio : Byte := 128
  tcalNext : Nat := 4
  tickAt : W32 := 0
  /-- TICK_COLL as written. -/
  collLen1 : Nat := 0
  collStart1 : Nat := 0
  collLen0 : Nat := 8
  collStart0 : Nat := 0
  /-- In effect. -/
  tcal : Nat := 4
  len1 : Nat := 0
  start1 : Nat := 0
  len0 : Nat := 8
  start0 : Nat := 0
  change : Option TickChange := none
  state : TickState := .free
  parent : Fin 16 := 0
  stratum : Nat := 0
  offset : W32 := 0
  gmPrio : Byte := 0
  gmIdent : W16 := 0xFFFF
  /-- Exchanges in a row within 4 ns (R350). -/
  good : Nat := 0
  /-- A collective window is open, and windows opened in the current tick (R374). -/
  window : Bool := false
  winNo : Nat := 0
  /-- Tick at which HOLDOVER was entered. -/
  holdFrom : Nat := 0
deriving DecidableEq, Repr

/-- FAB. -/
structure Fabric where
  pslot : Fin 16 := 0
  ident : W16 := 0xFFFF
  dimsLock : Bool := false
  dx : Nat := 16
  dy : Nat := 16
  dz : Nat := 16
  adoptOwn : Fin 16 := 15
  /-- XP, XN, YP, YN, ZP, ZN. -/
  adopt : Vector (Fin 16) 6 := Vector.replicate 6 15
  ctlLock : Bool := false
  disable : BitVec 14 := 0
  /-- Links the start holds DOWN: a cable too long (R468), W1-W8 of a strap above 8 (R523). -/
  heldDown : BitVec 14 := 0
  links : Vector Link 14 := Vector.replicate 14 {}
  /-- Packets in receive, forwarding and transmit queues. -/
  held : List Held := []
  /-- Cancelled attempts: source, attempt, tick of the CANCEL (R346). -/
  cancels : List (W16 × W32 × Nat) := []
  /-- Dead-context notices sent in the current tick: (sender ident, context). -/
  deadSent : List (W16 × CtxId) := []
  conflict : Bool := false
  /-- Packets that have left on a link, newest first. -/
  sent : List Held := []
deriving DecidableEq, Repr

/-- A node value of one element that a rank holds, as a bit pattern of NODE_FMT. -/
structure NodeVal where
  level : Nat
  index : Nat
  elem : Nat
  val : W32
deriving DecidableEq, Repr

/-- A packet a collective owes another rank, until a window lets it go (R374): a node, or data. -/
structure CollOut where
  rank : Nat
  node : Bool
  level : Nat := 0
  index : Nat := 0
  first : Nat
  vals : List W32
deriving DecidableEq, Repr

/-- A collective running on this module (chapter 14). -/
structure Coll where
  cid : Nat
  ctx : CtxId
  rid : W32
  rank : Nat
  nodes : List NodeVal := []
  /-- Roots of the rank's own shard: element, pattern. -/
  roots : List (Nat × W32) := []
  out : List CollOut := []
  /-- Elements of the output that have been written. -/
  written : List Nat := []
  /-- Window time since the issue, or since the last packet that arrived, in sixteenths of a tick (R379). -/
  waited : Nat := 0
deriving DecidableEq, Repr

/-- A packet of a collective that this rank does not run yet: it keeps its slots of the receive buffer of a link (R382). -/
structure EarlyPkt where
  ctx : CtxId
  src : W16
  attempt : W32
  link : LinkId
  slots : Nat
  rid : W32
  node : Bool
  level : Nat
  index : Nat
  first : Nat
  vals : List W32
deriving DecidableEq, Repr

/-- The reduction of a step fence in progress (R376). -/
structure FenceRed where
  cid : Nat
  ctx : CtxId
  step : W32
  /-- Children's contributions that have arrived. -/
  got : List Nat := []
  skip : Bool := false
  amax : List (Nat × W32) := []
  /-- Window time since it began, or since the last packet that arrived, in sixteenths of a tick (R379). -/
  waited : Nat := 0
deriving DecidableEq, Repr

/-- A SCALAR packet for a step fence that has not reached its reduction: sender, direction, flag, amax. -/
structure EarlyScalar where
  ctx : CtxId
  step : W32
  sender : Nat
  up : Bool
  skip : Bool
  amax : List (Nat × W32)
deriving DecidableEq, Repr

/-- CLE. -/
structure Cle where
  colls : List Coll := []
  fences : List FenceRed := []
  /-- Job table of each context (R360). -/
  jobTables : List (CtxId × List Member) := []
  /-- ABORTs received for a RID of a context: rank, status, tick (R378). -/
  aborts : List ((CtxId × W32) × W16 × W16 × Nat) := []
  early : List EarlyPkt := []
  earlyScalars : List EarlyScalar := []
deriving DecidableEq, Repr

/-- Replica entry of a job plan (R386). -/
structure Replica where
  x : Nat
  y : Nat
  z : Nat
  stage : Nat
  drank : Nat
deriving DecidableEq, Repr

/-- A job as the job agent of this module knows it (R386). -/
structure Job where
  job : W64
  ctx : CtxId
  tp : Nat
  py : Nat
  pz : Nat
  sp : Nat
  dpx : Nat
  dpz : Nat
  slots : Nat
  step0 : W32
  stages : List (Nat × Nat)
  tensors : List (List Byte)
  reps : List Replica
  seed : W64
  tenant : W64
  plan : List Byte
deriving DecidableEq, Repr

/-- PV and the gather record of a context (R391, R392). -/
structure Pv where
  check : Bool := false
  lvalid : Bool := false
  step : W32 := 0
  epoch : W32 := 0
  mepoch : W32 := 0
  lstep : W32 := 0
  lepoch : W32 := 0
deriving DecidableEq, Repr

/-- What a joining module has been told of its job: the plan, PV, SEED and tenant tag. -/
structure Told where
  job : W64
  plan : List Byte
  pv : Pv
  seed : W64
  tenant : W64
  /-- The member's scale table (R130). -/
  scales : List Byte
deriving DecidableEq, Repr

/-- A change of a job pending at a step boundary (R399). -/
structure JobChange where
  /-- cid of this module's own command; 0 for a change it learned of by message. -/
  cid : Nat
  job : W64
  /-- True for a release. -/
  release : Bool
  /-- Sled of the replica. -/
  x : Nat
  y : Nat
  z : Nat
  /-- Step boundary agreed by the members so far. -/
  boundary : Option W32 := none
  /-- Modules of the joining replica that have issued JOB_JOIN. -/
  issued : List W16 := []
  ctx : CtxId
deriving DecidableEq, Repr

/-- MIR_STAT.STATE (R427). -/
inductive MirState where | none | paired | syncing | sealed | restoring | intercalating
deriving DecidableEq, Repr

/-- A module's own protected state as sealed: the ranges' bytes by offset in their order, the scale records, the recipes. -/
structure Sealed where
  step : W32
  bytes : List Host.Cell
  scales : List (Nat × ScaleRec)
  tmpl : ScaleRec
  recipes : List Recipe
deriving DecidableEq, Repr

/-- What a MIR_PAIR sets (R404). -/
structure Pairing where
  gsize : Nat
  gpos : Nat
  partner : W16
  ward : W16
  guest : W16
  group : List W16
  ranges : List (Nat × Nat)
deriving DecidableEq, Repr

/-- Protection of one context (R403-R410). -/
structure Mir where
  state : MirState := .none
  prot : Bool := false
  /-- GUARD of the last seal. -/
  guardSeal : Fin 4 := 0
  /-- GUARD in effect for the context, taken at its step boundary (R24). -/
  guardNow : Fin 4 := 0
  gsize : Nat := 0
  gpos : Nat := 0
  partner : W16 := 0xFFFF
  ward : W16 := 0xFFFF
  guest : W16 := 0xFFFF
  group : List W16 := []
  ranges : List (Nat × Nat) := []
  /-- A MIR_PAIR that takes effect at the next seal. -/
  nextPair : Option Pairing := Option.none
  sealStep : W32 := 0
  sealedOnce : Bool := false
  syncUs : W32 := 0
  /-- Pages written since the last seal and not sent yet, by va; pages sent since. -/
  dirty : List Nat := []
  sending : List Nat := []
  /-- Own state as of the seal, kept by the retained frames (R409). -/
  own : Option Sealed := Option.none
  /-- Sync committed by this module and not sealed yet. -/
  synced : Option W32 := Option.none
  /-- A first full copy has reached the partner under the GUARD in effect (R25). -/
  fullCopy : Bool := false
deriving DecidableEq, Repr

/-- What this module holds for others (R406-R408): a mirror copy by offset in the state stream, or a parity row, with its
shadow; and the record of a member's context. -/
structure HeldCopy where
  ident : W16
  ctx : CtxId
  /-- Mirror copy or parity row. -/
  parity : Bool
  /-- The sealed copy, when there is one. -/
  bytes : Option (List Host.Cell) := none
  shadow : Option (List Host.Cell) := none
  record : List Byte := []
  shadowRecord : List Byte := []
deriving DecidableEq, Repr

/-- A failed member of an incident (R411). -/
inductive MSource where | mirror | parity | keel
deriving DecidableEq, Repr

/-- An incident being settled or recovered (R411-R417). -/
structure Settle where
  failed : List W16 := []
  /-- Tick of the first declaration; none when no incident is open. -/
  since : Option Nat := none
  classes : List (W16 × MSource) := []
deriving DecidableEq, Repr

/-- An intercalation in progress on this module (R413). -/
structure Inter where
  cid : Nat
  failed : W16
  hot : Bool
  source : MSource
  switched : Bool := false
  step : W32
  job : W64
  /-- The context made for the failed member's. -/
  ctx : Option CtxId := none
  /-- The record of the sealed copy, once it is here. -/
  record : List Byte := []
  /-- Tick of the issue. -/
  since : Nat
deriving DecidableEq, Repr

/-- MIR and the wear reserve. -/
structure MirUnit where
  lock : Bool := false
  sentPeriod : Nat := 60
  settleMs : Nat := 50
  ctxs : Vector Mir 64 := Vector.replicate 64 {}
  held : List HeldCopy := []
  settle : Settle := {}
  inter : Option Inter := none
  /-- Records of failed members that came with a SERVICE message. -/
  records : List (W16 × List Byte) := []
  /-- Hashes of plans that other founders have sent: job, sender, hash (R398). -/
  plans : List (W64 × W16 × List Byte) := []
  /-- What this module has been told of jobs it joins. -/
  told : List Told := []
  /-- Syncs that members of jobs have committed and told of since the last seal: job, member, step (R408). -/
  peerSyncs : List (W64 × W16 × W32) := []
deriving DecidableEq, Repr

end Sys2Proof.Machine
end

