-- ==== Sys2Proof/Machine/Parts/Serve.lean ====
section
/-! DEFINITION. State types of FEN and the serving loop (chapter 19). -/
namespace Sys2Proof.Machine

/-- One front-end port (R479-R481, R499). -/
structure Port where
  link : Bool := false
  secure : Bool := false
  suite : Bool := false
  window : W16 := 64
  ip : BitVec 128 := 0
  gw : BitVec 128 := 0
  /-- CKN and CAK installed (R480). -/
  cak : Option (List Byte × List Byte) := none
  /-- SAs held, newest first, at most 4. -/
  sas : List Nat := []
  /-- Neighbour table: address and link-layer address, at most 1,024. -/
  neighbors : List (BitVec 128 × BitVec 48) := []
  /-- Packets FEN sent itself or from a transmit queue, newest first. -/
  sent : List (List Byte) := []
deriving DecidableEq, Repr

/-- A burst of BDM on its way into a transmit queue, or out of a receive queue, in the order of the grants: command, descriptor and
offset, bytes; with its data once it has landed. -/
structure QSlot where
  cid : Nat
  desc : Nat
  off : Nat
  len : Nat
  data : Option (List Byte) := none
deriving DecidableEq, Repr

/-- One front-end queue of R166: 0-31 transmit, 32-63 receive. -/
structure FeQueue where
  ctx : Option CtxId := none
  /-- Generation of the owner when the queue was assigned (R18). -/
  gen : Byte := 0
  udp : W16 := 0
  spread : Nat := 0
  index : Nat := 0
  /-- Bytes ever written into and read from the queue, and the bytes it holds. -/
  prod : Nat := 0
  cons : Nat := 0
  bytes : List Byte := []
  /-- Bursts of BDM that its counter has not passed (R170, R175). -/
  pend : List QSlot := []
deriving DecidableEq, Repr

/-- Configuration block of a serving instance (R490). -/
structure SrvCfg where
  udp : W16 := 0
  rxFirst : Nat := 0
  rxCount : Nat := 0
  txq : Nat := 0
  liveMax : Nat := 0
  bulkMax : Nat := 0
  maxCtx : Nat := 0
  vocab : Nat := 0
  sessMax : Nat := 0
  idleLimit : Nat := 0
  bulkWait : Nat := 0
  prefillChunk : Nat := 0
  gslots : List Nat := []
deriving DecidableEq, Repr

/-- A serving instance. -/
structure Instance where
  ctx : CtxId
  cfg : SrvCfg
  draining : Bool := false
  /-- cid of the SRV_STOP that waits for the instance. -/
  stopCid : Nat := 0
deriving DecidableEq, Repr

/-- Where a request stands. -/
inductive ReqState where | incomplete | admitting | accepted | ended
deriving DecidableEq, Repr

/-- A message the module sends to a client: SEQ, TYPE, payload, resends made. -/
structure OutMsg where
  seq : W32
  typ : Byte
  payload : List Byte
  resends : Nat := 0
deriving DecidableEq, Repr

/-- One request (R485-R496). -/
structure Req where
  client : BitVec 128
  session : W64
  req : W32
  svc : Fin 16
  info : Request
  state : ReqState := .incomplete
  live : Bool := false
  /-- Prompt tokens received: index, token. -/
  got : List (Nat × W32) := []
  slot : WSlotId := 0
  version : W32 := 0
  /-- Prompt tokens prefilled. -/
  filled : Nat := 0
  /-- Tokens committed, in order, and how many have been sent. -/
  out : List W32 := []
  sentTokens : Nat := 0
  nextSeq : W32 := 1
  unacked : List OutMsg := []
  /-- Answer given to the REQUEST, for duplicates. -/
  answer : Option (Byte × List Byte) := none
  /-- Tick since which the row is ready. -/
  readyTick : Nat := 0
  /-- Tick of the last TOKENS message. -/
  lastTick : Option Nat := none
  /-- Ends once the command in flight ends: DONE reason and status. -/
  ending : Option (Byte × W16) := none
  /-- Ring of the loop's packets for the request, the SEQ of the last one awaited, and of the first of the pair. -/
  ring : RingId := 0
  wait : Option W32 := none
  lead : Option W32 := none
  /-- Prompt tokens of the prefill in flight, and whether a token is sampled after the commands in flight. -/
  chunk : Nat := 0
  sampling : Bool := false
  /-- First token sent at, µs. -/
  firstUs : Option Nat := none
deriving DecidableEq, Repr

/-- A session (R485). -/
structure Session where
  client : BitVec 128
  session : W64
  svc : Fin 16
  tokens : Nat := 0
  lastReq : W32
  /-- KV range in the serving context. -/
  kvVa : Nat := 0
  kvLen : Nat := 0
  /-- Bytes of address space kept for the session. -/
  kvMax : Nat := 0
  /-- Output index base of the session (R494). -/
  outIndex : Nat := 0
  busy : Bool := false
  closing : Bool := false
  idleSince : Nat := 0
deriving DecidableEq, Repr

/-- FEN and the serving loop. -/
structure Serve where
  ports : Vector Port 2 := Vector.replicate 2 {}
  queues : Vector FeQueue 64 := Vector.replicate 64 {}
  insts : Vector (Option Instance) 16 := Vector.replicate 16 none
  sessions : List Session := []
  reqs : List Req := []
deriving DecidableEq, Repr

end Sys2Proof.Machine
end

