-- ==== Sys2Proof/Machine/Parts/Ras.lean ====
section
/-! DEFINITION. State types of RAS: hangs, reset domains, the ember log, events, sentinels, the wear reserve
(chapters 16, 17). -/
namespace Sys2Proof.Machine

/-- Event classes (R451). -/
inductive EvClass where | alarm | fault | warn | trace
deriving DecidableEq, Repr

/-- Record kinds (R452). -/
inductive EvKind where | event | suppressed | loss | incidentOpen | incidentUpdate | incidentClose
deriving DecidableEq, Repr

/-- Event record (R452). -/
structure EvRec where
  tick : Nat
  cls : EvClass
  kind : EvKind := .event
  code : W16
  root : W32 := 0
  unit : W16
  ctx : Option (CtxId × Byte) := none
  count : Nat := 1
  data : List W32 := []
deriving DecidableEq, Repr

/-- One token bucket with what it suppressed (R454, R456). -/
structure Bucket where
  rate : Nat
  burst : Nat
  /-- Tokens held, in millionths. -/
  tokens : Nat
  /-- Suppressed since the last SUPPRESSED record, and tick of the first of them. -/
  pend : Nat := 0
  first : Nat := 0
deriving DecidableEq, Repr

/-- An open incident (R453). -/
structure Incident where
  id : W32
  /-- The root cause: a unit id and an event code. -/
  unit : W16
  alarms : Nat := 0
  faults : Nat := 0
  warns : Nat := 0
  /-- An INCIDENT_UPDATE was sent within 10 ms; another is held. -/
  holdoff : Bool := false
  held : Bool := false
deriving DecidableEq, Repr

/-- Phase of a domain reset (R436-R441). -/
inductive DomPhase where | fenced | drained | captured
deriving DecidableEq, Repr

/-- A domain reset in progress. -/
structure DomReset where
  d : Domain
  phase : DomPhase := .fenced
  /-- Budget hang (true) or unit hang. -/
  budget : Bool := false
  named : CtxId := 0
  namedGen : Byte := 0
  unit : W16 := 0xFFFF
  root : W32 := 0
deriving DecidableEq, Repr

/-- An ember record (R446) with its copied flag. -/
structure Ember where
  kind : Byte
  bytes : List Byte
  copied : Bool := false
deriving DecidableEq, Repr

/-- A capture in progress, or waiting for the one before it (R444). -/
structure Capture where
  /-- none for a device record. -/
  domain : Option Domain := none
  coreId : Option CoreId := none
  trigger : Byte
  ctx : Option (CtxId × Byte) := none
  unit : W16 := 0xFFFF
  root : W32 := 0
  seq : W32 := 0
  opcode : W16 := 0
  node : Nat := 0
  tick : Nat := 0
  /-- A device reset follows. -/
  resets : Bool := false
deriving DecidableEq, Repr

/-- Wear-reserve ledger record (R425). -/
structure Ledger where
  tick : Nat
  incarn : W32
  kind : Byte
  event : Byte
  unit : W16
  cause : W16
  data : List Byte := []
deriving DecidableEq, Repr

/-- A sentinel fingerprint (R422). -/
structure Finger where
  tick : Nat
  slot : SlotId
  pattern : Byte
  cond : Byte
  temp : Byte
  vcore : W16
  result : Fin 4
  chunk : W32
deriving DecidableEq, Repr

/-- What RAS knows of one physical slot (R13-R16, R420-R423). -/
structure SlotInfo where
  healthy : Bool := true
  /-- Cells of temperature band and load condition passed in the last 24 h, with the time in microseconds. -/
  cells : List ((Nat × Nat) × Nat) := []
  /-- Times in microseconds of the mismatches within 24 h. -/
  recent : List Nat := []
  /-- Cell and pattern of a mismatch that awaits its recheck. -/
  recheck : Option (Byte × Byte) := none
  lastPass : Option Nat := none
deriving DecidableEq, Repr

/-- RAS. -/
structure Ras where
  /-- Check comparisons skipped for a non-finite operand (R99). -/
  checkSkips : Nat := 0
  hangDomain : Fin 16 := 15
  hangTrigger : Byte := 0
  hangValid : Bool := false
  hangCtx : CtxId := 0
  hangUnit : W16 := 0xFFFF
  hangSeq : W32 := 0
  wdogLock : Bool := false
  wdogDisable : BitVec 7 := 0
  resets : List DomReset := []
  capturing : List Capture := []
  /-- Capture slots 0 and 1. -/
  capSlots : Vector (Option Ember) 2 := Vector.replicate 2 none
  domRing : List Ember := []
  /-- Domain records ever written. -/
  ringCount : Nat := 0
  devArchive : List Ember := []
  domArchive : List Ember := []
  summaries : List Ember := []
  evtEnable : Bool := false
  evtCore : Bool := false
  evtLog2 : Nat := 10
  evtBase : W64 := 0
  evtProd : W32 := 0
  evtCons : W32 := 0
  /-- Event interrupt held off (R458), and records written meanwhile. -/
  evtHoldoff : Bool := false
  evtHeld : Bool := false
  tbLock : Bool := false
  mgtBuckets : Vector Bucket 3 := #v[⟨100, 64, 64000000, 0, 0⟩, ⟨50, 32, 32000000, 0, 0⟩, ⟨10, 16, 16000000, 0, 0⟩]
  hostBuckets : Vector Bucket 4 :=
    #v[⟨10000, 1024, 1024000000, 0, 0⟩, ⟨10000, 1024, 1024000000, 0, 0⟩, ⟨2000, 256, 256000000, 0, 0⟩,
      ⟨10000, 4096, 4096000000, 0, 0⟩]
  injLock : Bool := false
  injEnable : Bool := false
  incidents : List Incident := []
  nextIncident : W16 := 0
  alarmQ : List EvRec := []
  /-- Incident records sent over the fabric (path FAB of R451), newest first. -/
  fabOut : List EvRec := []
  /-- Trace buffer (EMBER path). -/
  trace : List EvRec := []
  /-- Units an injection has hung (R450). -/
  hungUnits : List W16 := []
  slots : Vector SlotInfo 72 := Vector.replicate 72 {}
  /-- Slice map: physical slot of each logical engine (R13). -/
  map : Vector SlotId 64 := Vector.replicate 64 0
  passes : List Finger := []
  ledger : List Ledger := []
  /-- Reserve units consumed of each kind 0x1-0x7, at index kind - 1 (R426). -/
  resUsed : Vector Nat 7 := Vector.replicate 7 0
  resLeft : Vector Nat 7 := Vector.replicate 7 0
  /-- Handles made invalid by a domain reset: context, engine, handle (R439). -/
  invalid : List (CtxId × EngineId × W16) := []
  /-- Commands killed by a domain reset that wait for its return: cid, domain. -/
  rerun : List (Nat × Domain) := []
  /-- Commands whose rerun was caught before, by domain (R438). -/
  caught : List (Nat × Domain) := []
  /-- Times of the hangs of each core within 24 h (R426). -/
  coreHangs : Vector (List Nat) 16 := Vector.replicate 16 []
  degraded : Bool := false
  /-- Commands that GSC has stopped and that a unit has yet to confirm (R430): cid, clock in sixteenths. -/
  stops : List (Nat × Nat) := []
  /-- A device reset has been decided; heartbeats are stopped (R442). -/
  resetting : Bool := false
deriving DecidableEq, Repr

end Sys2Proof.Machine
end

