-- ==== Sys2Proof/Machine/Parts/Start.lean ====
section
/-! DEFINITION. State types of start-up, SEC, PWR, MGT, the host interface and the register file's shared parts
(chapters 18, 20, 21). -/
namespace Sys2Proof.Machine

/-- Start phases (R461). -/
inductive StartPhase where
  | power | root | firmware | mainPower | almanac | archive | bist | hbm | sliceMap | vault | links | done
deriving DecidableEq, Repr

/-- What the module as a whole is doing. -/
inductive RunState where
  /-- Input power is absent. -/
  | off
  /-- Held in reset by HARD_RESET_N or by JTAG. -/
  | held
  /-- A failed start waits 10 s (R470). -/
  | waiting
  /-- A start is in the phase. -/
  | starting (p : StartPhase)
  | running
  | vigil
deriving DecidableEq, Repr

/-- A firmware bank (R466): what its manifest says. -/
structure Bank16 where
  valid : Bool := true
  svn : W32 := 0
  image : List Byte := []
deriving DecidableEq, Repr

/-- Always-on store, start state and OTP (R460-R477). -/
structure Boot where
  run : RunState := .off
  incarn : W32 := 0
  /-- Failed starts: seconds counter and reason, newest first. -/
  fails : List (Nat × W16) := []
  seconds : Nat := 0
  vigilState : Option W16 := none
  vigilPending : Bool := false
  /-- Named bank: false A, true B. -/
  named : Bool := false
  bank : Bool := false
  switched : Bool := false
  banks : Vector Bank16 2 := Vector.replicate 2 {}
  bootMs : W32 := 0
  hb : Fin 4 := 0
  reason : W16 := 0
  /-- Editions as programmed, 256 bytes each. -/
  otp : Vector (Option (List Byte)) 4 := Vector.replicate 4 none
  active : Option (Fin 4) := none
  almanac : List (List Byte) := []
  /-- A firmware update has written the other bank. -/
  written : Bool := false
  hostEn : Bool := true
  /-- The ledger was readable at ARCHIVE; slots BIST excluded; retirements to enter in the ledger at VAULT: kind, unit. -/
  ledgerOk : Bool := true
  badSlots : List SlotId := []
  found : List (Fin 7 × W16) := []
deriving DecidableEq, Repr

/-- Sensor states (R520). -/
inductive SnsState where | ok | warn | throttle | critical | absent
deriving DecidableEq, Repr

/-- PWR and the sensors (R512-R520, R525). -/
structure Power where
  capLock : Bool := false
  capWatts : Nat := 0
  avg : Nat := 0
  mhz : Nat := 0
  /-- The clock of the POWER mode is being changed; MXE issue pauses (R24). -/
  changing : Bool := false
  /-- Sensor code, reading, state. -/
  sensors : List (Nat × W32 × SnsState) := []
  mainOn : Bool := false
  inputOn : Bool := false
  thermN : Bool := false
  /-- Stacks with doubled refresh (R519). -/
  refresh2 : BitVec 24 := 0
  /-- Rated input of the shelf, 0 when the almanac has none. -/
  shelf : Nat := 0
  presentN : Bool := true
deriving DecidableEq, Repr

/-- The PCI Express function (R500-R503, R525). -/
structure Pcie where
  up : Bool := false
  gen : Fin 8 := 0
  width : Fin 32 := 0
  flit : Bool := false
  /-- MSI-X vectors raised and not yet taken: a list of vector numbers in order. -/
  msix : List Nat := []
  /-- Host rings that a function-level reset disables once their commands have ended (R502). -/
  flr : List RingId := []
deriving DecidableEq, Repr

/-- A PLDM response: code of the request, completion code, data (R507). -/
structure MgtResp where
  code : Nat
  cc : Byte
  data : List Byte := []
deriving DecidableEq, Repr

/-- JTAG instruction register (R511). -/
inductive JtagIr where | bypass | idcode | sample | extest | clamp | highz | bistRun | dbgRing
deriving DecidableEq, Repr

/-- MGT: side bus, sessions, JTAG, pins (R504-R511, R522). -/
structure Mgt where
  i3cAddr : Option (BitVec 7) := none
  smbus : Bool := false
  eid : Byte := 0
  /-- SPDM sessions open. -/
  sessions : Vector Bool 2 := Vector.replicate 2 false
  /-- Sessions between KEY_EXCHANGE and FINISH. -/
  shaking : Vector Bool 2 := Vector.replicate 2 false
  /-- Responses, newest first, and PlatformEventMessages, newest first. -/
  resps : List MgtResp := []
  events : List (Byte × List Byte) := []
  jtag : JtagIr := .bypass
  /-- Held in reset by EXTEST, CLAMP or HIGHZ. -/
  jtagHold : Bool := false
  hardReset : Bool := false
  tdo : List Byte := []
deriving DecidableEq, Repr

/-- KIND of a configuration error (R541). -/
inductive CfgKind where | encoding | locked | path | state
deriving DecidableEq, Repr

/-- PATH of a configuration error (R540). -/
inductive CfgPath where | host | mgt | fw | device
deriving DecidableEq, Repr

/-- ERR_CFG (R540). -/
structure CfgErr where
  valid : Bool := false
  more : Bool := false
  kind : CfgKind := .encoding
  path : CfgPath := .host
  offset : BitVec 21 := 0
deriving DecidableEq, Repr

/-- The counts of one register-access bank (R530): selectors by register offset, RC counts by key. -/
structure RegBank where
  /-- Selector values by BAR0 offset; absent means the reset value. -/
  sel : List (Nat × W32) := []
  /-- RC counts by (BAR0 offset, instance); absent means 0. -/
  rc : List ((Nat × Nat) × Nat) := []
  /-- TICK_TIME_HI latch. -/
  latch : W32 := 0
deriving DecidableEq, Repr

/-- The mode word (R21, R22). -/
structure Mode where
  lock : Bool := false
  role : Fin 4 := 3
  guardF : Fin 4 := 0
  check : Fin 4 := 0
  power : Fin 4 := 1
  /-- In effect. -/
  roleNow : Fin 4 := 3
  guardNow : Fin 4 := 0
  checkNow : Fin 4 := 0
  powerNow : Fin 4 := 1
  capped : Bool := false
deriving DecidableEq, Repr

end Sys2Proof.Machine
end

