-- ==== Sys2Proof/Machine/Parts/Ste.lean ====
section
/-! DEFINITION. State types of the slices: local store banks, stream programs (chapter 06), and of BDM (chapter 07). -/
namespace Sys2Proof.Machine

/-- Bank states (R136). -/
inductive BankState where | free | fill | shadow | visible
deriving DecidableEq, Repr

/-- A bank table entry (R136). -/
structure Bank where
  state : BankState := .free
  /-- Last owner: context and generation; none at the end of start-up (R137). -/
  owner : Option (CtxId × Byte) := none
  /-- cid of the owning command, for FILL and SHADOW. -/
  cid : Nat := 0
  seq : W32 := 0
  epoch : Byte := 0
  handle : W16 := 0
deriving DecidableEq, Repr

/-- A stream instruction (R139, R140). -/
inductive SInstr where
  | fin
  | addr (ar : Fin 4) (va : BitVec 52)
  | loff (lo : Fin 4) (off : BitVec 22)
  | dim (lvl : Fin 4) (count : BitVec 22) (mstride : BitVec 36)
  | ldim (lvl : Fin 4) (lstride : BitVec 23)
  | bufdef (buf : Fin 4) (first : Fin 16) (banks : BitVec 5)
  | move (toMem : Bool) (ar lo : Fin 4) (gsz : Fin 8) (buf : Fin 4) (mcast : Byte) (alloc : Fin 4)
  | wait (kind buf : Fin 4) (sem : SemId) (value : W16)
  | signal (kind buf : Fin 4) (sem : SemId) (value : W16)
  | rep (ctr : Fin 4) (len : BitVec 6) (count : BitVec 20)
  | step (loff : Bool) (idx : Fin 4) (inc : BitVec 36)
  | deadline (buf : Fin 4) (abort : Bool) (base : Fin 4) (ns : W32)
  | recv (buf : Fin 4) (leader : Fin 8)
deriving DecidableEq, Repr

/-- The registers of a program (R138). -/
structure SRegs where
  ar : Vector (BitVec 52) 4 := Vector.replicate 4 0
  /-- Signed: a STEP may take an offset below the buffer, and another bring it back (R140). -/
  loff : Vector Int 4 := Vector.replicate 4 0
  count : Vector Nat 4 := Vector.replicate 4 1
  mstride : Vector Int 4 := Vector.replicate 4 0
  lstride : Vector Int 4 := Vector.replicate 4 0
deriving DecidableEq, Repr

/-- A granule of a MOVE (R141): memory address, offset in the buffer, loop indices I0-I3. -/
structure Gran where
  va : Nat
  lst : Int
  idx : List Nat
deriving DecidableEq, Repr

/-- A MOVE as a program comes to it: its instruction, and every granule in nest order. -/
structure MoveRun where
  toMem : Bool
  buf : Fin 4
  size : Nat
  mcast : Byte
  grans : List Gran
deriving DecidableEq, Repr

/-- MODE of a deadline (R140). -/
inductive DlMode where | report | abort
deriving DecidableEq, Repr

/-- A buffer of a program (R144, R149). -/
structure Buffer where
  defined : Bool := false
  /-- First relative bank and bank count. -/
  first : Nat := 0
  banks : Nat := 0
  full : Bool := false
  /-- Armed deadline, in ns of module time, with its mode. -/
  armed : Option (Nat × DlMode) := none
  lastDeadline : Option Nat := none
  /-- Bytes of granules that have arrived and that no unit has read (R153). -/
  unread : Nat := 0
deriving DecidableEq, Repr

/-- A granule request in flight: nest position of its MOVE, addresses, size, direction, and the members it goes to. -/
structure Granule where
  pos : Nat
  va : Nat
  lst : Nat
  size : Nat
  buf : Fin 4
  toMem : Bool
  mcast : Byte
  /-- Loop indices I0-I3 of the granule. -/
  idx : List Nat
  /-- Issued to the hub (R147: a multicast granule waits for its members). -/
  requested : Bool
  /-- ALLOC hint of the MOVE (R140, R207). -/
  alloc : Fin 4 := 0
  /-- Index of the MOVE in the image, and how many MOVEs the program had run before. -/
  ip : Nat
  run : Nat
  /-- Bank epochs at issue (R146). -/
  epochs : List Byte
  /-- Registers and repeat counters with which the program came to the MOVE (R154, R155). -/
  regs : SRegs := {}
  rc : Vector Nat 4 := Vector.replicate 4 0
  /-- Of a multicast: to each member, how many multicasts of the leader went before (R147). -/
  nos : List (EngineId × Nat) := []
deriving DecidableEq, Repr

/-- What a program waits for. -/
inductive PWait where
  | running
  | bufEmpty (b : Fin 4)
  | bufFull (b : Fin 4)
  | sem (id : SemId) (value : Nat)
  | tick (after : Nat)
  | signalFull (b : Fin 4)
  | signalEmpty (b : Fin 4)
  /-- The `no`-th RECV of the engine that names this leader. -/
  | recv (b : Fin 4) (leader : Fin 8) (no : Nat) (posted : Bool)
  /-- END has run, and granules are still in flight. -/
  | closing
  | ended
  | faulted
  | cancelled
deriving DecidableEq, Repr

/-- A REP block in progress: counter, first and last instruction. -/
structure RepBlk where
  ctr : Fin 4
  start : Nat
  stop : Nat
deriving DecidableEq, Repr

/-- A program slot (R138, R155). -/
structure Prog where
  /-- cid of the owning command; 0 when the slot is free. -/
  cid : Nat := 0
  /-- Relative slot within the command. -/
  rel : Nat := 0
  image : List W64 := []
  ip : Nat := 0
  regs : SRegs := {}
  rc : Vector Nat 4 := Vector.replicate 4 0
  bufs : Vector Buffer 4 := Vector.replicate 4 {}
  reps : List RepBlk := []
  wait : PWait := .ended
  /-- Granules of the current MOVE not yet issued, in nest order; the next nest position, counted over the program's MOVEs;
  the MOVEs run. -/
  todo : List Granule := []
  nextPos : Nat := 0
  moves : Nat := 0
  /-- What the program waited for when it faulted. -/
  held : PWait := .running
  /-- Granules issued and not delivered, in nest order. -/
  flight : List Granule := []
  /-- Positions delivered after the oldest undelivered one (AHEAD). -/
  ahead : List Nat := []
  faultId : W32 := 0
  /-- The faulting granule (the cursor of R155). -/
  cursor : Option Granule := none
  resuming : Bool := false
  /-- A SIGNAL or a RECV of the program has made a buffer FULL. -/
  fed : Bool := false
  /-- Blocks that the unit of a rotation has taken, by the rotation's first buffer (R144). -/
  turns : Vector Nat 4 := Vector.replicate 4 0
deriving DecidableEq, Repr

/-- A granule in flight whose program has been cancelled: it is discarded as it arrives (R146, R152). -/
structure Late where
  slot : Fin 16
  ctx : CtxId
  gen : Byte
  gran : Granule
deriving DecidableEq, Repr

/-- One slice's stream engine, banks and matrix engine queue state, by logical engine. -/
structure Slice where
  banks : Vector Bank 16 := Vector.replicate 16 {}
  progs : Vector Prog 16 := Vector.replicate 16 {}
  /-- Granules in flight of cancelled programs. -/
  late : List Late := []
  /-- GSC places no command on the engine while its slice is being moved or is under diagnosis. -/
  out : Bool := false
  /-- Accumulator entries held by tiles that have not drained: (cid, tile, entries). -/
  tiles : List (Nat × Nat × Nat) := []
  /-- Product bits to flip in the coming chunks, by an injection (R450). -/
  flips : Nat := 0
  /-- The program slot that issued last (R146). -/
  lastSlot : Fin 16 := 15
  /-- The engine's units hang (R450). -/
  hung : Bool := false
deriving DecidableEq, Repr

/-- DMA channel state (R172). -/
inductive DmaState where | idle | armed | active | held | faulted | flushing | ending | cancelling
deriving DecidableEq, Repr

/-- A burst in flight: descriptor, byte offset in it, length. -/
structure Burst where
  desc : Nat
  off : Nat
  len : Nat
  mover : Fin 4
  /-- Position of its first byte in the stream of a ring in memory. -/
  pos : Nat := 0
deriving DecidableEq, Repr

/-- One DMA channel (R172, R182). -/
structure Chan where
  state : DmaState := .idle
  cid : Nat := 0
  ctx : CtxId := 0
  pri : Fin 8 := 0
  fixed : Bool := false
  /-- 0 NONE, 1 REFILL, 2 DRAIN. -/
  pace : Nat := 0
  qkind : Bool := false
  qaddr : Nat := 0
  low : Nat := 0
  high : Nat := 0
  rateCap : Nat := 0
  holdTicks : Nat := 0
  /-- Tick at which the stay in ARMED or HELD began. -/
  holdFrom : Nat := 0
  /-- Token bucket in bytes (R173). -/
  tokens : Nat := 0
  /-- Next byte to grant: descriptor and offset. -/
  desc : Nat := 0
  off : Nat := 0
  flight : List Burst := []
  /-- Bytes landed of each descriptor: (descriptor, bytes). -/
  landed : List (Nat × Nat) := []
  /-- Bytes of a ring in memory granted and landed since the start. -/
  ringGranted : Nat := 0
  ringLanded : Nat := 0
  /-- Bursts of a ring in memory that have landed past a gap: position, bytes. -/
  early : List (Nat × Nat) := []
  /-- Ring header as last sampled: BASE, CAP, PROD, CONS, CLOSED. -/
  ringBase : Nat := 0
  ringCap : Nat := 0
  prod : Nat := 0
  cons : Nat := 0
  closed : Bool := false
  /-- GLB_DMA_BYTES and GLB_DMA_LEVEL, in bytes. -/
  bytes : Nat := 0
  level : Nat := 0
  /-- Cursor of a faulted burst. -/
  cursor : Option Burst := none
  faultId : W32 := 0
  /-- Grants of the movers when the channel was last granted (R175). -/
  lastGrant : Nat := 0
deriving DecidableEq, Repr

/-- BDM. -/
structure Dma where
  chans : Vector Chan 32 := Vector.replicate 32 {}
  /-- Grant count of each mover. -/
  grants : Vector Nat 4 := Vector.replicate 4 0
  /-- Channel last granted at each PRI value. -/
  lastAt : Vector Nat 8 := Vector.replicate 8 31
  /-- Grants of all movers together, for the age of R175 step 2. -/
  clock : Nat := 0
deriving DecidableEq, Repr

end Sys2Proof.Machine
end

