-- ==== Sys2Proof/Machine/State.lean ====
section
/-! DEFINITION. The state of the module, the reasons a step stops, and the state after reset. -/
namespace Sys2Proof.Machine

/-- Why a step stops with a fault. -/
inductive Fault where
  /-- No meaning raises it: the manual gives every command of the table an effect, so that no step stops. It stands here
  because the type has a constructor. Safe. -/
  | unused
deriving DecidableEq, Repr

/-- Why a command is refused. -/
inductive Refusal where
  /-- The command has no meaning in the model yet: raised by no arm, since every command has one. Safe. -/
  | notModelled (mnemonic : String)
deriving DecidableEq, Repr

/-- The module, with the commands that wait for it. -/
structure State where
  mode : Mode
  mem : List Host.Cell
  memUnit : MemUnit
  ctxs : Vector Ctx 64
  vault : Vault
  rings : Vector Ring 65
  sched : Sched
  slices : Vector Slice 64
  dma : Dma
  tick : Tick
  fab : Fabric
  cle : Cle
  jobs : List Job
  jobChanges : List JobChange
  pvs : Vector Pv 64
  mir : MirUnit
  ras : Ras
  boot : Boot
  power : Power
  pcie : Pcie
  mgt : Mgt
  serve : Serve
  cfgErr : CfgErr
  /-- Register-access banks (R530): HOST, MGT, control cores 0-15. -/
  hostBank : RegBank
  mgtBank : RegBank
  fwBanks : Vector RegBank 16
  /-- The model's own: how many free values have been drawn. -/
  free : Nat
  /-- Commands waiting, first in, first out. -/
  pending : List Instr
deriving DecidableEq, Repr

/-- The vault with the layout reset values of its part number: HZ9-2404 when small, else HZ9-2408 (R242). -/
def vaultReset (small : Bool) : Vault :=
  if small then { small, keelGib := 512, imageGib := 1024, keelNow := 512, imageNow := 1024 }
  else { keelGib := 1024, imageGib := 2048, keelNow := 1024, imageNow := 2048 }

/-- The module right after reset: every register at its reset value, nothing in memory, no command waiting. -/
def State.reset : State where
  mode := {}
  mem := []
  memUnit := {}
  ctxs := Vector.replicate 64 {}
  vault := vaultReset false
  rings := Vector.replicate 65 {}
  sched := {}
  slices := Vector.replicate 64 {}
  dma := {}
  tick := {}
  fab := {}
  cle := {}
  jobs := []
  jobChanges := []
  pvs := Vector.replicate 64 {}
  mir := {}
  ras := {}
  boot := {}
  power := {}
  pcie := {}
  mgt := {}
  serve := {}
  cfgErr := {}
  hostBank := {}
  mgtBank := {}
  fwBanks := Vector.replicate 16 {}
  free := 0
  pending := []

end Sys2Proof.Machine
end

