-- ==== Sys2Proof/Machine/Ops.lean ====
section
/-! DEFINITION. Named operations over memory, counters and the parts of State that every family uses. -/
namespace Sys2Proof.Machine

/-- Scale record of a slot: a record named by a conversion, or what the unnamed records show. -/
def Ctx.scale (x : Ctx) (k : Nat) : ScaleRec := match x.scales.find? fun e => e.1 == k with
  | some (_, r) => r
  | none => x.tmpl

/-! ### The byte store -/

/-- What an address no entry lists reads as: a ZERO page reads as zero and frames are zeroed before reuse (R188, R202). -/
def blank : Byte := 0

/-- One byte of the store. -/
def memRead : List Host.Cell → Nat → Byte
  | [], _ => blank
  | (x, b) :: t, a => if x = a then b else if a < x then blank else memRead t a

/-- Write one byte; the store stays rising, and a blank byte is not listed. -/
def memWrite : List Host.Cell → Nat → Byte → List Host.Cell
  | [], a, b => if b = blank then [] else [(a, b)]
  | (x, c) :: t, a, b =>
    if a < x then (if b = blank then (x, c) :: t else (a, b) :: (x, c) :: t)
    else if a = x then (if b = blank then t else (a, b) :: t)
    else (x, c) :: memWrite t a b

/-- The canonical form: addresses strictly rising, no entry that reads as an unlisted address does. -/
def memWf : List Host.Cell → Bool
  | [] => true
  | [(_, b)] => b != blank
  | (x, b) :: (y, c) :: t => b != blank && decide (x < y) && memWf ((y, c) :: t)

/-- Write a run of bytes. -/
def memWriteList (m : List Host.Cell) (a : Nat) : List Byte → List Host.Cell
  | [] => m
  | b :: bs => memWriteList (memWrite m a b) (a + 1) bs

/-- Read a run of bytes. -/
def memReadList (m : List Host.Cell) (a n : Nat) : List Byte := (List.range n).map fun k => memRead m (a + k)

/-- Make a half-open range blank. -/
def memClear (m : List Host.Cell) (a n : Nat) : List Host.Cell := m.filter fun c => !(decide (a ≤ c.1) && decide (c.1 < a + n))

/-- Write a list of (address, byte) pairs, in order. -/
def memApply (m : List Host.Cell) : List Host.Cell → List Host.Cell
  | [] => m
  | (a, b) :: t => memApply (memWrite m a b) t

/-- Where a context's virtual byte lies in the store (R185: a 52-bit range per context). -/
def ctxKey (c : CtxId) (va : Nat) : Nat := c.val * 2 ^ 52 + va
/-- Where a host byte lies in the store. -/
def hostKey (a : Nat) : Nat := 2 ^ 58 + a
/-- Where a byte of firmware memory outside context 0's pages lies: core rings, event ring (R264, R458). -/
def fwKey (a : Nat) : Nat := 2 ^ 65 + a
/-- Where a byte of a bank of a slice's local store lies (R135). -/
def lstKey (e : EngineId) (bank off : Nat) : Nat := 2 ^ 66 + e.val * 2 ^ 22 + bank * 2 ^ 18 + off
/-- Where a byte this module holds for a sled peer in a lent frame lies (R213). -/
def lentKey (frame off : Nat) : Nat := 2 ^ 67 + frame * 2 ^ 21 + off

/-! ### The two part numbers (R1, R217, R241) -/

/-- Usable GiB of an array beside its metadata gigabyte. -/
def Vault.usable (v : Vault) : Nat := if v.small then 2047 else 4095
/-- Erase blocks of an array, and how many of them are spare. -/
def Vault.blocks (v : Vault) : Nat := if v.small then 163840 else 327680
def Vault.spares (v : Vault) : Nat := if v.small then 32768 else 65536

/-! ### State accessors -/

def State.ctx (s : State) (c : CtxId) : Ctx := s.ctxs[c]
def State.modCtx (s : State) (c : CtxId) (f : Ctx → Ctx) : State := { s with ctxs := vmod s.ctxs c f }
def State.ring (s : State) (r : RingId) : Ring := s.rings[r]
def State.modRing (s : State) (r : RingId) (f : Ring → Ring) : State := { s with rings := vmod s.rings r f }
def State.slice (s : State) (e : EngineId) : Slice := s.slices[e]
def State.modSlice (s : State) (e : EngineId) (f : Slice → Slice) : State := { s with slices := vmod s.slices e f }
def State.prog (s : State) (e : EngineId) (p : Fin 16) : Prog := (s.slices[e]).progs[p]
def State.modProg (s : State) (e : EngineId) (p : Fin 16) (f : Prog → Prog) : State :=
  s.modSlice e fun x => { x with progs := vmod x.progs p f }
def State.link (s : State) (l : LinkId) : Link := s.fab.links[l]
def State.modLink (s : State) (l : LinkId) (f : Link → Link) : State :=
  { s with fab := { s.fab with links := vmod s.fab.links l f } }
def State.chan (s : State) (c : ChanId) : Chan := s.dma.chans[c]
def State.modChan (s : State) (c : ChanId) (f : Chan → Chan) : State :=
  { s with dma := { s.dma with chans := vmod s.dma.chans c f } }
def State.mirOf (s : State) (c : CtxId) : Mir := s.mir.ctxs[c]
def State.modMir (s : State) (c : CtxId) (f : Mir → Mir) : State :=
  { s with mir := { s.mir with ctxs := vmod s.mir.ctxs c f } }
def State.pv (s : State) (c : CtxId) : Pv := s.pvs[c]
def State.modPv (s : State) (c : CtxId) (f : Pv → Pv) : State := { s with pvs := vmod s.pvs c f }
def State.modSched (s : State) (f : Sched → Sched) : State := { s with sched := f s.sched }
def State.modRas (s : State) (f : Ras → Ras) : State := { s with ras := f s.ras }
def State.modMem (s : State) (f : MemUnit → MemUnit) : State := { s with memUnit := f s.memUnit }
def State.setMem (s : State) (m : List Host.Cell) : State := { s with mem := m }

/-- Band in which a sensor stands (R518). -/
def State.band (s : State) (code : Nat) : SnsState := (s.power.sensors.find? fun x => x.1 == code).elim SnsState.absent (·.2.2)

/-- A vault array stands in its THROTTLE band: installs, keel writes and T4 demotions wait (R519). -/
def State.vaultHot (s : State) : Bool := [0x38, 0x39].any fun k => s.band k == .throttle || s.band k == .critical

/-- MAIN_POWER has ended, and the main domain is on (R461, R528). -/
def State.mainUp (s : State) : Bool :=
  match s.boot.run with
  | .running => true
  | .starting p => match p with
    | .power | .root | .firmware | .mainPower => false
    | _ => true
  | _ => false

/-- The module is in vigil. -/
def State.inVigil (s : State) : Bool := s.boot.run == .vigil

/-- The links are powered: from LINKS on, and in vigil (R461, R472). -/
def State.linksOn (s : State) : Bool := s.boot.run == .running || s.inVigil || s.boot.run == .starting .links

/-- The command with an id, while it has not ended. -/
def State.cmd? (s : State) (cid : Nat) : Option Cmd := s.sched.cmds.find? fun c => c.cid == cid

/-- Change the commands with an id. -/
def State.modCmd (s : State) (cid : Nat) (f : Cmd → Cmd) : State :=
  s.modSched fun g => { g with cmds := g.cmds.map fun c => if c.cid = cid then f c else c }

/-- The commands of a context that have not ended. -/
def State.cmdsOf (s : State) (c : CtxId) : List Cmd := s.sched.cmds.filter fun x => decide (x.ctx = c)

/-- Tick number as records carry it. -/
def State.tick32 (s : State) : W32 := BitVec.ofNat 32 s.tick.now

/-- Draw a free value: the draw number, and the state with one draw more. -/
def State.draw (s : State) : Nat × State := (s.free, { s with free := s.free + 1 })

/-! ### Memory of a context -/

/-- First byte of the system window (R250). -/
def windowBase : Nat := 0xFFFFFC0000000
/-- First address past the 52-bit range. -/
def vaLimit : Nat := 2 ^ 52

/-- Bytes of a page size (R186). -/
def PSize.bytes : PSize → Nat
  | .k64 => 2 ^ 16
  | .m2 => 2 ^ 21
  | .g1 => 2 ^ 30

/-- 64 KiB units of a page size; quotas count them as 1/32 of a 2 MiB page (R195). -/
def PSize.units : PSize → Nat
  | .k64 => 1
  | .m2 => 32
  | .g1 => 16384

/-- The context's mapped page that holds an address. -/
def State.pageAt? (s : State) (c : CtxId) (va : Nat) : Option Page :=
  s.memUnit.pages.find? fun p => decide (p.ctx = c) && decide (p.va ≤ va) && decide (va < p.va + p.size.bytes)

/-- Change the pages of a context that a predicate names. -/
def State.modPages (s : State) (q : Page → Bool) (f : Page → Page) : State :=
  s.modMem fun m => { m with pages := m.pages.map fun p => if q p then f p else p }

/-- A hint that waited for the faults of its page applies when none of them is pending any more (R216). -/
def MemUnit.settle (m : MemUnit) : MemUnit :=
  { m with pages := m.pages.map fun p =>
      if p.nextHint.isSome && !m.faults.any fun f => decide (f.ctx = p.ctx) && decide (p.va ≤ f.va) && decide (f.va < p.va + p.size.bytes) then
        { p with hint := p.nextHint.getD p.hint, nextHint := none }
      else p }

def State.settleHints (s : State) : State := s.modMem MemUnit.settle

/-- A page shares a byte with a range of its context. -/
def Page.inRange (p : Page) (c : CtxId) (va len : Nat) : Bool :=
  decide (p.ctx = c) && overlaps p.va p.size.bytes va len

/-- F32 patterns and records of the scale table as memory shows them (R127): 128 bytes of record k. -/
def scaleBytes (r : ScaleRec) : List Byte :=
  le 2 ((BitVec.ofInt 16 r.exp).toNat) ++ [BitVec.ofNat 8 r.hcount, BitVec.ofNat 8 r.hhead, BitVec.ofNat 8 r.kind,
    (if r.seen then 1 else 0), 0, 0] ++ le 4 r.step.toNat ++ le 4 r.stepAmax.toNat ++
    (r.hist.flatMap fun w => le 4 w.toNat) ++ le 4 r.tid.toNat ++ List.replicate 44 0

/-- State code of GLB_CTX_STAT and of the status page (R245). -/
def CtxState.code : CtxState → Nat
  | .free => 0
  | .active => 1
  | .fenced => 2
  | .fencing => 3
  | .draining => 4
  | .scrubbing => 5

/-- One byte at a virtual address as the context reads it: the scale table and the status page show records CTX and FRU
hold (R250); every other byte lies in the store. -/
def State.ctxByte (s : State) (c : CtxId) (va : Nat) : Byte :=
  let off := va - windowBase
  if va < windowBase then memRead s.mem (ctxKey c va)
  else if off < 524160 then
    (scaleBytes ((s.ctx c).scale (off / 128))).getD (off % 128) 0
  else if 0x120000 ≤ off ∧ off < 0x130000 then
    (le 4 (s.ctx c).faultProd.toNat ++ le 4 (s.ctx c).faultLost.toNat ++
      [(s.ctx c).gen, BitVec.ofNat 8 (s.ctx c).state.code]).getD (off - 0x120000) 0
  else memRead s.mem (ctxKey c va)

/-- n bytes of a context from an address. -/
def State.ctxBytes (s : State) (c : CtxId) (va n : Nat) : List Byte :=
  (List.range n).map fun k => s.ctxByte c (va + k)

/-- Bytes from an address, as cells. -/
def cellsAt (a : Nat) (bs : List Byte) : List Host.Cell := ((List.range bs.length).zip bs).map fun x => (a + x.1, x.2)

/-! ### Protected state (R403, R409) -/

/-- Bytes of some ranges of a context as cells by offset in the ranges laid end to end. -/
def State.rangeCells (s : State) (c : CtxId) : List (Nat × Nat) → Nat → List Host.Cell
  | [], _ => []
  | (va, len) :: t, off =>
    ((s.mem.filter fun x => decide (ctxKey c va ≤ x.1) && decide (x.1 < ctxKey c va + len)).map fun x => (x.1 - ctxKey c va + off, x.2)) ++
      s.rangeCells c t (off + len)

/-- MIR retains the frames that commits replace: the last seal is older than the step before PV_STEP (R409). -/
def State.retains (s : State) (c : CtxId) : Bool :=
  let m := s.mirOf c
  m.state != .none && m.own.isSome && decide (m.sealStep.toNat + 1 < (s.pv c).step.toNat)

/-- From here on replaced frames are retained: the module can go back to the bytes it holds now (R409). -/
def State.retainOwn (s : State) (c : CtxId) : State :=
  if s.retains c then s
  else s.modMir c fun m => { m with own := m.own.map fun o => { o with bytes := s.rangeCells c m.ranges 0 } }

/-- Pages of a protected context that a write touches join those MIR has to send (R403). -/
def State.markDirty (s : State) (c : CtxId) (q : Page → Bool) : State :=
  if (s.mirOf c).state ≠ .none then
    let ps := (s.memUnit.pages.filter fun p => decide (p.ctx = c) && q p).map (·.va)
    s.modMir c fun m => { m with dirty := m.dirty ++ ps.filter fun v => !m.dirty.contains v }
  else s

/-- Write bytes to a context's visible memory. -/
def State.writeCtx (s : State) (c : CtxId) (va : Nat) (bs : List Byte) : State :=
  (s.setMem (memWriteList s.mem (ctxKey c va) bs)).markDirty c fun p => p.inRange c va bs.length

/-- Write cells to a context's visible memory, in order. -/
def State.writeCells (s : State) (c : CtxId) (cells : List Host.Cell) : State :=
  (s.setMem (memApply s.mem (cells.map fun x => (ctxKey c x.1, x.2)))).markDirty c fun p =>
    cells.any fun x => decide (p.va ≤ x.1) && decide (x.1 < p.va + p.size.bytes)

/-- Write bytes to host memory. -/
def State.writeHost (s : State) (a : Nat) (bs : List Byte) : State := s.setMem (memWriteList s.mem (hostKey a) bs)

/-- Write bytes to firmware memory. -/
def State.writeFw (s : State) (a : Nat) (bs : List Byte) : State := s.setMem (memWriteList s.mem (fwKey a) bs)

end Sys2Proof.Machine
end

