-- ==== Sys2Proof/Machine/Flags.lean ====
section
/-! DEFINITION. Counts, flags and vectors that commands leave: the RC fields of every bank, the vectors raised on the host, and the
first configuration error (R5, R247, R269, R530, R533-R541). -/
namespace Sys2Proof.Machine

/-! ### Counts that a read clears -/

/-- A count in one bank (R530). -/
def RegBank.count (b : RegBank) (off k : Nat) : Nat := assocD b.rc (off, k) 0

/-- Units one step of an RC field stands for: GLB_CLE_TX and GLB_CLE_RX show 4,096 bytes (R381), MIR_SYNC_BYTES 65,536
(R427); the others count one by one. -/
def rcUnit (off : Nat) : Nat := if off = 0x8030 ∨ off = 0x8034 then 4096 else if off = 0xA00C then 65536 else 1

/-- Add to a count in one bank, saturating there. -/
def RegBank.bump (b : RegBank) (off k n : Nat) : RegBank :=
  { b with rc := assocSet b.rc (off, k) (min (rcUnit off * 2 ^ 32 - 1) (b.count off k + n)) }

/-- Add n to the RC field at a BAR0 offset, instance k, in every bank (R5, R530). -/
def State.count (s : State) (off k n : Nat) : State :=
  { s with hostBank := s.hostBank.bump off k n, mgtBank := s.mgtBank.bump off k n,
           fwBanks := s.fwBanks.map fun b => b.bump off k n }

/-! BAR0 offsets of the RC fields (R533-R537). -/
def offStarve : Nat := 0x8010
def offWaste : Nat := 0x8004
def offCancel : Nat := 0x8008
def offMiss : Nat := 0x800C
def offSteFault : Nat := 0x8014
def offTmuFaults : Nat := 0x602C
def offOverrun : Nat := 0x7020
def offKills : Nat := 0x7024
def offLost : Nat := 0x7028
def offDefer : Nat := 0x7030
def offSkew : Nat := 0x7050
def offHolds : Nat := 0x8028
def offCleTx : Nat := 0x8030
def offCleRx : Nat := 0x8034
def offCleDup : Nat := 0x8038
def offCleAbort : Nat := 0x803C
def offCleWait : Nat := 0x8040
def offVltCe : Nat := 0x9014
def offVltUe : Nat := 0x9018
def offMirBytes : Nat := 0xA00C
def offCfgCnt : Nat := 0xB004
def offGenDrop : Nat := 0xB01C
def offMemCe : Nat := 0xB024
def offMemUe : Nat := 0xB028
def offMismatch : Nat := 0xB038
def offHangCnt : Nat := 0xB044
def offRstCnt : Nat := 0xB04C
def offSupp : Nat := 0xB074
def offSnsMax : Nat := 0xC014
def offRxDrop : Nat := 0xD028
def offSecDrop : Nat := 0xD02C
def offTxDrop : Nat := 0xD030
def offPcieErr : Nat := 0xD044
def offFecCe : Nat := 0x5020
def offFecUe : Nat := 0x5024
def offReplay : Nat := 0x5028
def offFabDrop : Nat := 0x502C

/-- A drop of R247 naming a context. -/
def State.genDrop (s : State) (c : CtxId) : State := s.count offGenDrop c.val 1

/-- Raise an MSI-X vector of the host (R269): only while the link is up (R502). -/
def State.msix (s : State) (v : Nat) : State :=
  if s.pcie.up then { s with pcie := { s.pcie with msix := s.pcie.msix ++ [v] } } else s

/-! ### Who waits for a semaphore (R321, R325) -/

/-- The semaphore and value of an acquire or release. -/
def semOf : Op → Option (SemId × Nat)
  | .semAcquire k v => some (Fin.ofNat 4096 k.toNat, v.toNat)
  | .semRelease k v => some (Fin.ofNat 4096 k.toNat, v.toNat)
  | _ => none

def isAcquire : Op → Bool
  | .semAcquire .. => true
  | _ => false

/-- A command is PLACED and its tick has come. -/
def State.due (s : State) (c : Cmd) : Bool := c.state == .placed && decide (c.tick ≤ s.tick.now)

/-- An acquire waits for its semaphore: it is due, bound, and its guarded command, if any, is due. -/
def State.acquireWaits (s : State) (a : Cmd) : Bool :=
  isAcquire a.op && s.due a && a.bound &&
    (match a.guarded with
     | none => true
     | some g => match s.cmd? g with
       | some c => s.due c
       | none => false)

/-- A hang stops the command on every unit, and not every unit has confirmed it (R430). -/
def State.stopping (s : State) (cid : Nat) : Bool := s.ras.stops.any fun p => p.1 == cid

/-- The class a command runs at: its own, or that of a waiter on a semaphore its section claims or holds (R325). -/
def State.classNow (s : State) (c : Cmd) : PrioClass :=
  match c.claim.orElse fun _ => c.hold with
  | none => c.prio
  | some (k, _) => (s.sched.cmds.filter fun a => s.acquireWaits a && decide ((semOf a.op).map (·.1) = some k)).foldl (fun m a => min m a.prio) c.prio

/-! ### Configuration errors (R540, R541) -/

/-- PATH code of an access path. -/
def pathCfg : Path → CfgPath
  | .host => .host
  | .mgt => .mgt
  | .fw _ => .fw

/-- Record a configuration error: the first not yet cleared stays, MORE marks a further one, the count rises. -/
def State.cfgError (s : State) (kind : CfgKind) (path : CfgPath) (off : Nat) : State :=
  let e := s.cfgErr
  let s := s.count offCfgCnt 0 1
  if e.valid then { s with cfgErr := { e with more := true } }
  else { s with cfgErr := { valid := true, more := false, kind, path, offset := BitVec.ofNat 21 off } }

end Sys2Proof.Machine
end

