-- ==== Sys2Proof/Machine/Image.lean ====
section
/-! DEFINITION. Stream images: decoding of instructions, the registers they set, the granules their MOVEs form, and the
checks of admission (R138-R144). -/
namespace Sys2Proof.Machine

/-- A field of an instruction as an index. -/
def fld4 (v hi lo : Nat) : Fin 4 := Fin.ofNat 4 (bitsOf v hi lo)

/-- Reserved bits hi..lo are 0. -/
def zeroBits (v hi lo : Nat) : Bool := bitsOf v hi lo == 0

/-- The instruction of 64 bits (R139, R140): none where an opcode, an encoding or a reserved field is not allowed. -/
def sInstr? (w : W64) : Option SInstr :=
  let v := w.toNat
  match bitsOf v 63 60 with
  | 0x0 => if zeroBits v 59 0 then some .fin else none
  | 0x1 => if zeroBits v 57 52 && zeroBits v 5 0 then some (.addr (fld4 v 59 58) (BitVec.ofNat 52 v)) else none
  | 0x2 => if zeroBits v 57 22 && zeroBits v 5 0 then some (.loff (fld4 v 59 58) (BitVec.ofNat 22 v)) else none
  | 0x3 => some (.dim (fld4 v 59 58) (BitVec.ofNat 22 (bitsOf v 57 36)) (BitVec.ofNat 36 v))
  | 0x4 => if zeroBits v 57 23 then some (.ldim (fld4 v 59 58) (BitVec.ofNat 23 v)) else none
  | 0x5 =>
    let n := bitsOf v 53 49
    if zeroBits v 48 0 && decide (1 ≤ n) && decide (n ≤ 16) then
      some (.bufdef (fld4 v 59 58) (Fin.ofNat 16 (bitsOf v 57 54)) (BitVec.ofNat 5 n))
    else none
  | 0x6 =>
    if zeroBits v 39 0 && bitsOf v 54 52 != 7 && bitsOf v 41 40 != 3 then
      some (.move (bitOf v 59) (fld4 v 58 57) (fld4 v 56 55) (Fin.ofNat 8 (bitsOf v 54 52)) (fld4 v 51 50)
        (BitVec.ofNat 8 (bitsOf v 49 42)) (fld4 v 41 40))
    else none
  | 0x7 =>
    if zeroBits v 43 16 then
      some (.wait (fld4 v 59 58) (fld4 v 57 56) (Fin.ofNat 4096 (bitsOf v 55 44)) (BitVec.ofNat 16 v))
    else none
  | 0x8 =>
    if zeroBits v 43 16 && bitsOf v 59 58 != 3 then
      some (.signal (fld4 v 59 58) (fld4 v 57 56) (Fin.ofNat 4096 (bitsOf v 55 44)) (BitVec.ofNat 16 v))
    else none
  | 0x9 =>
    if zeroBits v 31 0 && bitsOf v 57 52 != 0 then
      some (.rep (fld4 v 59 58) (BitVec.ofNat 6 (bitsOf v 57 52)) (BitVec.ofNat 20 (bitsOf v 51 32)))
    else none
  | 0xA => if zeroBits v 56 36 then some (.step (bitOf v 59) (fld4 v 58 57) (BitVec.ofNat 36 v)) else none
  | 0xB =>
    if zeroBits v 54 32 && bitsOf v 56 55 != 3 then
      some (.deadline (fld4 v 59 58) (bitOf v 57) (fld4 v 56 55) (BitVec.ofNat 32 v))
    else none
  | 0xC => if zeroBits v 54 0 then some (.recv (fld4 v 59 58) (Fin.ofNat 8 (bitsOf v 57 55))) else none
  | _ => none

/-- Granule bytes of a GSZ code (R140). -/
def gszBytes (g : Fin 8) : Nat := 64 * 2 ^ g.val

/-- Add a signed increment to an address register, within its 52 bits. -/
def addVa (a : BitVec 52) (inc : Int) : BitVec 52 := BitVec.ofInt 52 (a.toNat + inc)

/-- What an instruction that only sets registers does to them (R140). -/
def SRegs.apply (r : SRegs) : SInstr → SRegs
  | .addr k va => { r with ar := vmod r.ar k fun _ => va }
  | .loff k off => { r with loff := vmod r.loff k fun _ => (off.toNat : Int) }
  | .dim k n m => { r with count := vmod r.count k fun _ => n.toNat, mstride := vmod r.mstride k fun _ => signedOf 36 m.toNat }
  | .ldim k l => { r with lstride := vmod r.lstride k fun _ => signedOf 23 l.toNat }
  | .step false k inc => { r with ar := vmod r.ar k fun a => addVa a (signedOf 36 inc.toNat) }
  | .step true k inc => { r with loff := vmod r.loff k fun o => o + signedOf 36 inc.toNat }
  | _ => r

/-- The granules of a MOVE in nest order (R141): i3 outermost, i0 innermost. -/
def SRegs.nest (r : SRegs) (ar lo : Fin 4) : List Gran :=
  (List.range r.count[3]).flatMap fun (i3 : Nat) => (List.range r.count[2]).flatMap fun (i2 : Nat) =>
    (List.range r.count[1]).flatMap fun (i1 : Nat) => (List.range r.count[0]).map fun (i0 : Nat) =>
      { va := (addVa r.ar[ar] (i0 * r.mstride[0] + i1 * r.mstride[1] + i2 * r.mstride[2] + i3 * r.mstride[3])).toNat
        lst := r.loff[lo] + i0 * r.lstride[0] + i1 * r.lstride[1] + i2 * r.lstride[2] + i3 * r.lstride[3]
        idx := [i0, i1, i2, i3] }

/-- Decode an image: none where an instruction is not allowed. -/
def decodeImage : List W64 → Option (List SInstr)
  | [] => some []
  | w :: t =>
    match sInstr? w, decodeImage t with
    | some i, some l => some (i :: l)
    | _, _ => none

/-- The instructions a program comes to, in order, with their registers, up to END or the end of the image: REP blocks
run their instructions COUNT times (R142). `fuel` bounds the instructions run. -/
def runImage (img : List SInstr) : Nat → Nat → SRegs → List (Nat × Nat × Nat) → List (SRegs × SInstr × Nat)
  | 0, _, _, _ => []
  | fuel + 1, ip, r, blocks =>
    match blocks with
    | (start, stop, left) :: rest =>
      if ip = stop then
        if left ≤ 1 then runImage img fuel ip r rest else runImage img fuel start r ((start, stop, left - 1) :: rest)
      else
        match img[ip]? with
        | none => []
        | some .fin => [(r, .fin, ip)]
        | some (.rep c len n) =>
          (r, .rep c len n, ip) ::
            (if n = 0 then runImage img fuel (ip + 1 + len.toNat) r blocks
             else runImage img fuel (ip + 1) r ((ip + 1, ip + 1 + len.toNat, n.toNat) :: blocks))
        | some i => (r, i, ip) :: runImage img fuel (ip + 1) (r.apply i) blocks
    | [] =>
      match img[ip]? with
      | none => []
      | some .fin => [(r, .fin, ip)]
      | some (.rep c len n) =>
        (r, .rep c len n, ip) ::
          (if n = 0 then runImage img fuel (ip + 1 + len.toNat) r []
           else runImage img fuel (ip + 1) r [(ip + 1, ip + 1 + len.toNat, n.toNat)])
      | some i => (r, i, ip) :: runImage img fuel (ip + 1) (r.apply i) []

/-- More steps than any image within R142 runs: 64 instructions under four blocks of 2^20 - 1, with the loop ends. -/
def imageFuel : Nat := 2 ^ 90

/-- Everything an image runs. -/
def traceImage (img : List W64) : List (SRegs × SInstr × Nat) :=
  match decodeImage img with
  | none => []
  | some l => runImage l imageFuel 0 {} []

/-- The MOVEs of an image with their granules, in order. -/
def movesOf (img : List W64) : List MoveRun :=
  (traceImage img).filterMap fun x =>
    match x.2.1 with
    | .move toMem ar lo g buf mcast _ => some { toMem, buf, size := gszBytes g, mcast, grans := x.1.nest ar lo }
    | _ => none

/-- Buffers of a rotation (R144, R285): LEN buffers from a first one, modulo 4. -/
def rotation (first : Fin 4) (len : Nat) : List (Fin 4) := (List.range len).map fun k => Fin.ofNat 4 (first.val + k)

/-! ### Operand blocks (R141, R144, R147)

What a buffer holds between one SIGNAL and the next is one operand block of the unit that shares it, from the first byte of the
buffer on; the pieces that MOVEs carry lie where their LST addresses say. -/

/-- A piece that a granule carries between a buffer and memory. -/
structure Piece where
  /-- Offset in the buffer. -/
  l : Nat
  va : Nat
  size : Nat
deriving DecidableEq, Repr

/-- What a program does to a buffer: pieces move, a RECV (the n-th that names its leader) fills it, a SIGNAL makes it FULL or EMPTY. -/
inductive BufEv where
  | pieces (toMem : Bool) (ps : List Piece)
  | recv (leader n : Nat)
  | signal (full : Bool)
deriving DecidableEq, Repr

def MoveRun.pieces (m : MoveRun) : List Piece := m.grans.map fun g => { l := g.lst.toNat, va := g.va, size := m.size }

/-- Leaders of the RECVs of an image, as it comes to them. -/
def recvsOf (img : List W64) : List Nat :=
  (traceImage img).filterMap fun x => match x.2.1 with
    | .recv _ l => some l.val
    | _ => none

/-- What an image on an engine does to a buffer; `before` are the RECVs of the engine that are counted before those of the image. -/
def bufEvents (pos : Nat) (b : Fin 4) : List (SRegs × SInstr × Nat) → List Nat → List BufEv
  | [], _ => []
  | (r, i, _) :: t, before => match i with
    | .move toMem ar lo g buf mcast _ =>
      let m : MoveRun := { toMem, buf, size := gszBytes g, mcast, grans := r.nest ar lo }
      (if buf = b ∧ (mcast = 0 ∨ mcast.getLsbD pos) then [.pieces toMem m.pieces] else []) ++ bufEvents pos b t before
    | .recv buf l =>
      (if buf = b then [.recv l.val (before.filter (· == l.val)).length] else []) ++ bufEvents pos b t (before ++ [l.val])
    | .signal kind buf _ _ => (if buf = b ∧ kind.val < 2 then [.signal (kind == 0)] else []) ++ bufEvents pos b t before
    | _ => bufEvents pos b t before

/-- Blocks that pass a buffer in one direction, as their pieces: for an input buffer each ends at SIGNAL BUF_FULL, or with a RECV;
for an output buffer at SIGNAL BUF_EMPTY. What follows the last SIGNAL is a block too. `got` gives what a RECV brings. -/
def blocksOf (toMem : Bool) (got : Nat → Nat → List Piece) : List BufEv → List Piece → List (List Piece)
  | [], acc => if acc.isEmpty then [] else [acc]
  | .pieces d ps :: t, acc => blocksOf toMem got t (if d = toMem then acc ++ ps else acc)
  | .recv l n :: t, acc => if toMem then blocksOf toMem got t acc else (acc ++ got l n) :: blocksOf toMem got t []
  | .signal full :: t, acc => if full = toMem then blocksOf toMem got t acc else acc :: blocksOf toMem got t []

/-- Blocks of a rotation in the order its unit takes them: the k-th comes from buffer k mod n (R144). -/
def inRotation {α : Type} (ls : List (List α)) : List α :=
  let n := max 1 ls.length
  (List.range (n * (ls.map (·.length)).foldl max 0)).filterMap fun k => ((ls.getD (k % n) [])[k / n]? : Option α)

/-- Bytes a block reaches to in its buffer. -/
def blockExtent (ps : List Piece) : Nat := ps.foldl (fun n p => max n (p.l + p.size)) 0

/-- The bytes that pieces bring, in ascending LST address: where two bring the same byte, the later stands. -/
def blockVas (ps : List Piece) : List Nat :=
  (List.range (blockExtent ps)).filterMap fun o =>
    (ps.reverse.find? fun p => decide (p.l ≤ o) && decide (o < p.l + p.size)).map fun p => p.va + (o - p.l)

/-! ### Admission checks (R143) -/

/-- REP blocks of an image: first, one past last, counter. -/
def repBlocks (l : List SInstr) : List (Nat × Nat × Fin 4) :=
  (List.range l.length).filterMap fun k =>
    match (l[k]? : Option SInstr) with
    | some (.rep c len _) => some (k + 1, k + 1 + len.toNat, c)
    | _ => none

/-- Block b lies inside block a. -/
def encloses (a b : Nat × Nat × Fin 4) : Bool := decide (a.1 < b.1) && decide (b.1 ≤ a.2.1)

/-- REP blocks end within the image, nest properly, at most four deep, and enclosing blocks name distinct counters. -/
def repsOk (l : List SInstr) : Bool :=
  let bs := repBlocks l
  bs.all fun b =>
    decide (b.2.1 ≤ l.length) &&
      decide ((bs.filter fun a => encloses a b).length ≤ 3) &&
      bs.all fun a => !(encloses a b) || (decide (b.2.1 ≤ a.2.1) && decide (a.2.2 ≠ b.2.2))

/-- A buffer that an instruction names. -/
def SInstr.buf? : SInstr → Option (Fin 4)
  | .move _ _ _ _ b _ _ => some b
  | .wait k b _ _ => if k.val < 2 then some b else none
  | .signal k b _ _ => if k.val < 2 then some b else none
  | .deadline b _ _ _ => some b
  | .recv b _ => some b
  | _ => none

/-- What a program comes to: the buffers its instructions name are defined by then (`defs`: buffer and banks), and its granules are
aligned and lie within them. -/
def checkRun (xs : List (SRegs × SInstr × Nat)) : List (Fin 4 × Nat) → Bool :=
  match xs with
  | [] => fun _ => true
  | (r, i, _) :: t => fun defs =>
    let has (b : Fin 4) : Bool := defs.any fun d => d.1 == b
    match i with
    | .bufdef b _ n => checkRun t ((b, n.toNat) :: defs.filter fun d => d.1 != b)
    | .move _ ar lo g buf _ _ =>
      has buf &&
        (r.nest ar lo).all (fun x =>
          decide (x.va % gszBytes g = 0) && decide (0 ≤ x.lst) &&
            defs.all fun d => d.1 != buf || decide (x.lst + gszBytes g ≤ d.2 * 2 ^ 18)) &&
        checkRun t defs
    | i => i.buf?.all has && checkRun t defs

/-- Checks of every instruction of an image, whether or not the program comes to it: a buffer it names is defined by an instruction
before it, engines it names are the command's, MCAST is 0 with DIR 1, no ABORT in FIXED work (R143, R150). -/
def instrsOk (l : List SInstr) (banks : Nat) (member : Nat → Bool) (fixed : Bool) : Bool :=
  ((List.range l.length).zip l).all fun x =>
    x.2.buf?.all (fun b => (l.take x.1).any fun i => match i with
      | .bufdef d _ _ => d == b
      | _ => false) &&
    match x.2 with
    | .bufdef _ f n => decide (f.val + n.toNat ≤ banks)
    | .move toMem _ _ _ _ mcast _ => (!toMem || mcast == 0) && (List.range 8).all fun k => !mcast.getLsbD k || member k
    | .deadline _ abort _ _ => !(fixed && abort)
    | .recv _ leader => member leader.val
    | _ => true

/-- Banks that an image's buffers define, for the rule that buffers of one command do not overlap: (buffer, first, count). -/
def bufDefs (img : List W64) : List (Fin 4 × Nat × Nat) :=
  (((decodeImage img).getD []).filterMap fun i =>
    match i with
    | .bufdef b f n => some (b, f.val, n.toNat)
    | _ => none).eraseDups

/-- Direction and buffer of each MOVE of an image. -/
def moveDirs (img : List W64) : List (Bool × Fin 4) :=
  ((decodeImage img).getD []).filterMap fun i =>
    match i with
    | .move toMem _ _ _ b _ _ => some (toMem, b)
    | _ => none

/-- Two buffer definitions of one command share a bank. -/
def bankClash (a b : Fin 4 × Nat × Nat) : Bool := overlaps a.2.1 a.2.2 b.2.1 b.2.2

end Sys2Proof.Machine
end

