-- ==== Sys2Proof/Machine/Events.lean ====
section
/-! DEFINITION. Events of RAS: records, incidents, token buckets and the four paths (R451-R458). -/
namespace Sys2Proof.Machine

/-! ### Unit ids (R447) -/

/-- A unit id of a class and an index. -/
def unitId (cls idx : Nat) : W16 := BitVec.ofNat 16 (cls * 4096 + idx)
def unitRas : W16 := unitId 0 0
def unitCore (c : CoreId) : W16 := unitId 2 c.val
def unitGsc : W16 := unitId 3 0
def unitSlice (p : SlotId) : W16 := unitId 5 p.val
def unitHub (o : Fin 8) : W16 := unitId 6 o.val
def unitChannel (s : StackId) (c : Fin 32) : W16 := unitId 7 (32 * s.val + c.val)
def unitLink (l : LinkId) : W16 := unitId 8 l.val
def unitTmu : W16 := unitId 0xB 0
def unitVlt : W16 := unitId 0xC 0
/-- The unit a reset domain stands for: slot, hub, channel or link. -/
def domainUnit : Domain → W16
  | .slice p => unitSlice p
  | .octave o => unitHub o
  | .channel s c => unitChannel s c
  | .link l => unitLink l

/-! ### Event codes (R457) -/
def evHangBudget : W16 := 0x0001
def evHangUnit : W16 := 0x0002
def evDomainReset : W16 := 0x0003
def evResetFailed : W16 := 0x0004
def evDeviceReset : W16 := 0x0005
def evCoreRestart : W16 := 0x0006
def evGuiltyRepeat : W16 := 0x0007
def evNeighbourFailed : W16 := 0x0010
def evNeighbourVigil : W16 := 0x0011
def evIdentityConflict : W16 := 0x0012
def evLinkAuth : W16 := 0x0013
def evTickHoldover : W16 := 0x0014
def evLinkDegraded : W16 := 0x0015
def evCheckMismatch : W16 := 0x0020
def evSliceRetired : W16 := 0x0021
def evMemUe : W16 := 0x0022
def evRowRetired : W16 := 0x0023
def evStackOut : W16 := 0x0024
def evPinOverflow : W16 := 0x0025
def evWeightLost : W16 := 0x0026
def evDeadlineMiss : W16 := 0x0030
def evSemSaturate : W16 := 0x0031
def evDegraded : W16 := 0x0040

/-- Class of an event code (R457); none for a reserved code. -/
def evClass? (code : W16) : Option EvClass :=
  if code ∈ [evResetFailed, evDeviceReset, evGuiltyRepeat, evNeighbourFailed, evNeighbourVigil, evIdentityConflict,
      evLinkAuth, evTickHoldover, evStackOut, evPinOverflow, evDegraded] then some .alarm
  else if code ∈ [evHangBudget, evHangUnit, evDomainReset, evCoreRestart, evCheckMismatch, evSliceRetired, evMemUe,
      evWeightLost] then some .fault
  else if code ∈ [evLinkDegraded, evRowRetired, evDeadlineMiss, evSemSaturate] then some .warn
  else if 0x0100 ≤ code.toNat ∧ code.toNat ≤ 0x01FF then some .trace
  else none

/-- Class code (R451). -/
def EvClass.code : EvClass → Fin 4
  | .alarm => 0
  | .fault => 1
  | .warn => 2
  | .trace => 3

/-- Record kind code (R452). -/
def EvKind.code : EvKind → Nat
  | .event => 0
  | .suppressed => 1
  | .loss => 2
  | .incidentOpen => 3
  | .incidentUpdate => 4
  | .incidentClose => 5

/-- The CTX and GEN bytes of a record: bit 7 of CTX says that a context is named. -/
def ctxGenBytes : Option (CtxId × Byte) → List Byte
  | none => [0, 0]
  | some (c, g) => [BitVec.ofNat 8 (c.val + 128), g]

/-- The 32 bytes of an event record (R452). -/
def EvRec.bytes (r : EvRec) : List Byte :=
  le 4 r.tick ++ [BitVec.ofNat 8 r.cls.code.val, BitVec.ofNat 8 r.kind.code] ++ le 2 r.code.toNat ++ le 4 r.root.toNat ++
    le 2 r.unit.toNat ++ ctxGenBytes r.ctx ++ le 4 (sat32 r.count) ++
    ((List.range 3).flatMap fun k => le 4 (r.data.getD k 0).toNat)

/-! ### Buckets (R454) -/

/-- The bucket holds a token. -/
def Bucket.ready (b : Bucket) : Bool := decide (1000000 ≤ b.tokens)
/-- One token leaves the bucket. -/
def Bucket.spend (b : Bucket) : Bucket := { b with tokens := b.tokens - 1000000 }
/-- A record finds no token: it is counted until the next SUPPRESSED or LOSS record (R456). -/
def Bucket.miss (b : Bucket) (tick n : Nat) : Bucket :=
  { b with pend := b.pend + n, first := if b.pend = 0 then tick else b.first }
/-- Tokens of some microseconds, up to the depth. -/
def Bucket.refill (b : Bucket) (us scale : Nat) : Bucket :=
  { b with tokens := min (b.burst * 1000000) (b.tokens + b.rate * scale * us) }

/-- Bucket of a class on MGT, which carries no TRACE. -/
def EvClass.mgtIdx : EvClass → Fin 3
  | .alarm => 0
  | .fault => 1
  | .warn => 2
  | .trace => 2

/-- Number of a path and class in ERR_SUPP's table of counts. -/
def suppKey (path : Nat) (c : EvClass) : Nat := 4 * path + c.code.val

/-! ### Paths -/

/-- PlatformEventMessage eventClass that carries an event record. -/
def pldmEventClass : Byte := 0xF0

/-- A record leaves on the side bus. -/
def State.mgtSend (s : State) (r : EvRec) : State :=
  { s with mgt := { s.mgt with events := (pldmEventClass, r.bytes) :: s.mgt.events } }

/-- Records held in the always-on queue (R455). -/
def alarmDepth : Nat := 4096

/-- Replace the first record a test finds. -/
def replaceFirst (q : List EvRec) (p : EvRec → Bool) (f : EvRec → EvRec) : Option (List EvRec) :=
  match q with
  | [] => none
  | r :: t => if p r then some (f r :: t) else (replaceFirst t p f).map (r :: ·)

/-- An ALARM joins the queue: when the queue is full it is merged into a queued ALARM of its incident, or takes the place
of the oldest queued WARN-class incident record; it is never dropped. -/
def alarmPush (q : List EvRec) (r : EvRec) : List EvRec :=
  if q.length < alarmDepth then q ++ [r]
  else
    match replaceFirst q (fun x => decide (x.root = r.root) && r.root != 0 && decide (x.cls = .alarm))
        (fun x => { x with count := x.count + 1 }) with
    | some q' => q'
    | none =>
      match replaceFirst q (fun x => decide (x.cls = .warn)) (fun _ => r) with
      | some q' => q'
      | none => q ++ [r]

/-- A record on MGT passes with a token; without one an ALARM is held in the queue, and any other is suppressed and counted. -/
def State.mgtRecord (s : State) (r : EvRec) : State :=
  match r.cls with
  | .alarm =>
    if s.ras.mgtBuckets[(0 : Fin 3)].ready then (s.modRas fun a => { a with mgtBuckets := vmod a.mgtBuckets 0 Bucket.spend }).mgtSend r
    else s.modRas fun a => { a with alarmQ := alarmPush a.alarmQ r }
  | .trace => s
  | c =>
    let b := s.ras.mgtBuckets[c.mgtIdx]
    if b.ready then (s.modRas fun a => { a with mgtBuckets := vmod a.mgtBuckets c.mgtIdx Bucket.spend }).mgtSend r
    else (s.modRas fun a => { a with mgtBuckets := vmod a.mgtBuckets c.mgtIdx (·.miss s.tick.now 1) }).count offSupp
      (suppKey 0 c) 1

/-- The event ring has room (R458). -/
def Ras.evtRoom (a : Ras) : Bool := decide ((a.evtProd - a.evtCons).toNat < 2 ^ a.evtLog2)

/-- Write a record to the event ring and raise vector 160, at most once in the holdoff. -/
def State.hostWrite (s : State) (r : EvRec) : State :=
  let a := s.ras
  let addr := a.evtBase.toNat + 32 * (a.evtProd.toNat % 2 ^ a.evtLog2)
  let s := if a.evtCore then s.writeFw addr r.bytes else s.writeHost addr r.bytes
  let s := s.modRas fun a => { a with evtProd := a.evtProd + 1, evtHeld := a.evtHeld || a.evtHoldoff, evtHoldoff := true }
  if a.evtHoldoff then s else s.msix 160

/-- A record on HOST: written with a token and room, else suppressed and counted. Without ENABLE the path carries
nothing. -/
def State.hostRecord (s : State) (r : EvRec) : State :=
  let c := r.cls
  if !s.ras.evtEnable then s
  else if s.ras.hostBuckets[c.code].ready && s.ras.evtRoom then
    (s.modRas fun a => { a with hostBuckets := vmod a.hostBuckets c.code Bucket.spend }).hostWrite r
  else (s.modRas fun a => { a with hostBuckets := vmod a.hostBuckets c.code (·.miss s.tick.now 1) }).count offSupp
    (suppKey 1 c) 1

/-- Records the trace buffer keeps: the last 1 MiB (R445). -/
def traceDepth : Nat := 32768

/-- A record on EMBER. -/
def State.traceRecord (s : State) (r : EvRec) : State :=
  s.modRas fun a => { a with trace := (r :: a.trace).take traceDepth }

/-! ### Incidents (R453) -/

/-- The open incident of a root cause. -/
def Ras.incident? (a : Ras) (unit : W16) : Option Incident := a.incidents.find? fun i => i.unit == unit

/-- An incident record, with the ALARM, FAULT and WARN counts. -/
def Incident.record (i : Incident) (kind : EvKind) (tick : Nat) (code : W16) : EvRec :=
  { tick, cls := if i.alarms ≠ 0 then .alarm else if i.faults ≠ 0 then .fault else .warn, kind, code, root := i.id,
    unit := i.unit, count := i.alarms + i.faults + i.warns,
    data := [BitVec.ofNat 32 i.alarms, BitVec.ofNat 32 i.faults, BitVec.ofNat 32 i.warns] }

/-- Add one event of a class to an incident. -/
def Incident.add (i : Incident) : EvClass → Incident
  | .alarm => { i with alarms := i.alarms + 1 }
  | .fault => { i with faults := i.faults + 1 }
  | .warn => { i with warns := i.warns + 1 }
  | .trace => i

/-- Change the open incident of a root cause. -/
def State.modIncident (s : State) (unit : W16) (f : Incident → Incident) : State :=
  s.modRas fun a => { a with incidents := a.incidents.map fun i => if i.unit = unit then f i else i }

/-- An incident record leaves on FAB. -/
def State.fabRecord (s : State) (r : EvRec) : State := s.modRas fun a => { a with fabOut := r :: a.fabOut }

/-- An event of a root cause: open its incident, or add to it and send or hold an update. The answer carries the
incident id and whether the incident was open before. -/
def State.touchIncident (s : State) (unit : W16) (cls : EvClass) (code : W16) : State × W32 × Bool :=
  match s.ras.incident? unit with
  | none =>
    let n := s.ras.nextIncident + 1
    let id : W32 := s.fab.ident ++ n
    let i := ({ id, unit } : Incident).add cls
    let s := s.modRas fun a => { a with nextIncident := n, incidents := a.incidents ++ [i] }
    (s.fabRecord (i.record .incidentOpen s.tick.now code), id, false)
  | some i =>
    let i := i.add cls
    if i.holdoff then ((s.modIncident unit fun _ => { i with held := true }), i.id, true)
    else
      ((s.modIncident unit fun _ => { i with holdoff := true }).fabRecord (i.record .incidentUpdate s.tick.now code), i.id,
        true)

/-- An event of a module-wide kind: its class and code from R457, the unit it names, the context it names, and the root
cause it is traced to (R451-R456). A reserved code raises nothing. -/
def State.raise (s : State) (code unit : W16) (c : Option CtxId := none) (root : Option W16 := none)
    (data : List W32 := []) : State :=
  match evClass? code with
  | none => s
  | some cls =>
    let who := c.map fun x => (x, (s.ctx x).gen)
    let (s, id, was) :=
      match root with
      | none => (s, (0 : W32), false)
      | some u => s.touchIncident u cls code
    let r : EvRec := { tick := s.tick.now, cls, code, root := id, unit, ctx := who, data }
    let s := (s.traceRecord r).hostRecord r
    if was && cls != .alarm then s else s.mgtRecord r

/-- An event that R457 gives no code: its class and the path rules hold, its code is a free value. -/
def State.raiseOpen (s : State) (cls : EvClass) (unit : W16) (data : List W32 := []) : State :=
  let r : EvRec := { tick := s.tick.now, cls, code := (Config.freeWord s.free).setWidth 16, unit, data }
  let s := { s with free := s.free + 1 }
  ((s.traceRecord r).hostRecord r).mgtRecord r

/-- An event that a root cause carries: the unit is the root. -/
def State.raiseRoot (s : State) (code unit : W16) (c : Option CtxId := none) (data : List W32 := []) : State :=
  s.raise code unit c (some unit) data

/-! ### The rows of this part of RAS -/

/-- An incident closes after 1 s without a new event. -/
def State.closeIncident (s : State) (id : W32) : State :=
  match s.ras.incidents.find? (·.id == id) with
  | none => s
  | some i =>
    let s := s.modRas fun a => { a with incidents := a.incidents.filter fun x => x.id != id }
    let r := i.record .incidentClose s.tick.now 0
    (s.fabRecord r).mgtRecord { r with cls := if i.faults ≠ 0 then .fault else .warn }

/-- INCIDENT_CLOSE (R453). -/
def execIncidentClose (id : W32) (s : State) : Host.Outcome State Fault Refusal := .next (s.closeIncident id)

/-- The 10 ms limit of an incident ends: a held update is sent and the limit starts again. -/
def State.updateHoldoff (s : State) (id : W32) : State :=
  match s.ras.incidents.find? (·.id == id) with
  | none => s
  | some i =>
    if i.held then (s.modIncident i.unit fun x => { x with held := false }).fabRecord (i.record .incidentUpdate s.tick.now 0)
    else s.modIncident i.unit fun x => { x with holdoff := false }

/-- INCIDENT_UPDATE_HOLDOFF (R453). -/
def execIncidentUpdateHoldoff (id : W32) (s : State) : Host.Outcome State Fault Refusal := .next (s.updateHoldoff id)

/-- SUPPRESSED or LOSS record of a path and class, once its bucket holds a token (R456); it draws no token. -/
def State.suppressed (s : State) (path : Fin 2) (cls : EvClass) : State :=
  let rec_ (b : Bucket) : EvRec :=
    { tick := s.tick.now, cls, kind := if cls = .trace then .loss else .suppressed, code := 0, unit := unitRas,
      count := b.pend, data := [BitVec.ofNat 32 b.first] }
  if path = 0 then
    match cls with
    | .trace => s
    | c =>
      let b := s.ras.mgtBuckets[c.mgtIdx]
      if b.pend = 0 || !b.ready then s
      else (s.modRas fun a => { a with mgtBuckets := vmod a.mgtBuckets c.mgtIdx fun x => { x with pend := 0 } }).mgtSend (rec_ b)
  else
    let b := s.ras.hostBuckets[cls.code]
    if b.pend = 0 || !b.ready || !s.ras.evtEnable || !s.ras.evtRoom then s
    else
      (s.modRas fun a => { a with hostBuckets := vmod a.hostBuckets cls.code fun x => { x with pend := 0 } }).hostWrite (rec_ b)

/-- The class of a class code. -/
def classOf : Fin 4 → EvClass
  | 0 => .alarm
  | 1 => .fault
  | 2 => .warn
  | 3 => .trace

/-- SUPPRESSED_RECORD (R456). -/
def execSuppressedRecord (path : Fin 2) (cls : Fin 4) (s : State) : Host.Outcome State Fault Refusal :=
  .next (s.suppressed path (classOf cls))

/-- ALARM_QUEUE_SEND (R455): the side bus takes the oldest queued ALARM. -/
def execAlarmQueueSend (s : State) : Host.Outcome State Fault Refusal :=
  match s.ras.alarmQ with
  | [] => .next s
  | r :: t => .next ((s.modRas fun a => { a with alarmQ := t }).mgtSend r)

/-- EVENT_INTERRUPT_HOLDOFF (R458): the 10 µs end; records written meanwhile raise vector 160 and hold it off again. -/
def execEventInterruptHoldoff (s : State) : Host.Outcome State Fault Refusal :=
  if s.ras.evtHeld then .next ((s.modRas fun a => { a with evtHeld := false }).msix 160)
  else .next (s.modRas fun a => { a with evtHoldoff := false })

/-- The ALARM_N pin is driven low while the queue holds an ALARM (R522). -/
def State.alarmN (s : State) : Bool := !s.ras.alarmQ.isEmpty

end Sys2Proof.Machine
end

