-- ==== Sys2Proof/Machine/Pages.lean ====
section
/-! DEFINITION. TMU: what an access meets, quotas and room, placement of pages, fault records (R185-R206, R250, R255). -/
namespace Sys2Proof.Machine

/-! ### Hints and tiers -/

/-- Code of a hint (R190). -/
def Hint.code : Hint → Nat
  | .none => 0
  | .preferT2 => 1
  | .preferT3 => 2
  | .preferT4 => 3
  | .pinT2 => 4
  | .pinT3 => 5

/-- The hint of a code; 6 and 7 are reserved. -/
def hint? : Nat → Option Hint
  | 0 => some .none
  | 1 => some .preferT2
  | 2 => some .preferT3
  | 3 => some .preferT4
  | 4 => some .pinT2
  | 5 => some .pinT3
  | _ => none

/-- The hinted tier (R204), which is also the initial tier of a mapping. -/
def Hint.tier : Hint → Tier
  | .none => .t2
  | .preferT2 => .t2
  | .pinT2 => .t2
  | .preferT3 => .t3
  | .pinT3 => .t3
  | .preferT4 => .t4

/-- Rank in the effective hint of a block of 64 KiB pages: lowest wins (R186). -/
def Hint.rank : Hint → Nat
  | .pinT2 => 0
  | .pinT3 => 1
  | .preferT2 => 2
  | .none => 3
  | .preferT3 => 4
  | .preferT4 => 5

def hintOfRank : Nat → Hint
  | 0 => .pinT2
  | 1 => .pinT3
  | 2 => .preferT2
  | 3 => .none
  | 4 => .preferT3
  | _ => .preferT4

/-- Order in which TMU takes demotion candidates (R191); none for a pinned page. -/
def Hint.group : Hint → Option Nat
  | .preferT4 => some 0
  | .preferT3 => some 1
  | .none => some 2
  | .preferT2 => some 3
  | .pinT2 => Option.none
  | .pinT3 => Option.none

def Hint.pinned (h : Hint) : Bool := h == .pinT2 || h == .pinT3

/-- Pages that migrate together with a page: the 64 KiB pages of its 2 MiB block, or the page alone (R186). -/
def Page.sameBlock (p q : Page) : Bool :=
  decide (p.ctx = q.ctx) && decide (p.size = q.size) &&
    (if p.size = .k64 then decide (p.va / 2 ^ 21 = q.va / 2 ^ 21) else decide (p.va = q.va))

def State.blockOf (s : State) (p : Page) : List Page := s.memUnit.pages.filter p.sameBlock

/-- The effective hint of the block of a page. -/
def State.effHint (s : State) (p : Page) : Hint :=
  hintOfRank ((s.blockOf p).foldl (fun m q => min m q.hint.rank) p.hint.rank)

/-- Bits of a page's table entry (R188): TYPE 0b10, TIER, HINT, POISON, MIGRATING, ZERO, W, R, PEER, LOC. A 64 KiB page lies in
its frame at its place in the 2 MiB block. -/
def Page.entry (p : Page) : Nat :=
  let tier := match p.tier with
    | .t2 => 2
    | .t3 => 3
    | .t4 => 4
  let loc := if p.zero then 0 else 32 * p.frame + (if p.size = .k64 then p.va / 2 ^ 16 % 32 else 0)
  2 * 2 ^ 62 + tier * 2 ^ 59 + p.hint.code * 2 ^ 56 + bitAt p.poison 55 + bitAt p.migrating 54 + bitAt p.zero 53 + bitAt p.w 52 + bitAt p.r 51 +
    (if p.tier = .t3 then p.peer.val else 0) * 2 ^ 47 + loc % 2 ^ 47

/-- The entry of the page that holds an address: 0, invalid, where nothing is mapped. Table entries lie in firmware memory, at
addresses the spec does not give, and no command reads them. -/
def State.entryAt (s : State) (c : CtxId) (va : Nat) : BitVec 64 := BitVec.ofNat 64 ((s.pageAt? c va).elim 0 Page.entry)

/-! ### Ciphertext (R253) -/

/-- The tweak of the 32-byte data unit of an address (R253): VA[51:5] and, from bit 48, the context id. -/
def tweakOf (c : CtxId) (va : Nat) : BitVec 128 := BitVec.ofNat 128 (va / 32 % 2 ^ 47 + c.val * 2 ^ 48)

/-- The 32 bytes that a context's page holds in T2, T3 or T4 for the data unit of an address: its plaintext, which the context
sees, under the key its key slot holds. Frames on lenders and T4 hold the same bytes, since a page keeps its tweaks as it moves. -/
def State.storedUnit (s : State) (c : CtxId) (va : Nat) : List Byte :=
  Config.xtsEncrypt (Config.xtsKey (s.ctx c).keyDraw) (tweakOf c va) (s.ctxBytes c (va / 32 * 32) 32)

/-- Some bytes of a page as its frame stores them. -/
def State.storedBytes (s : State) (c : CtxId) (va n : Nat) : List Byte :=
  (List.range n).map fun k => (s.storedUnit c (va + k)).getD ((va + k) % 32) 0

/-! ### Use and room (R195, R197, R545) -/

/-- The hint a page has, or takes from the remap it waits for (R216). -/
def Page.claim (p : Page) : Hint := p.nextHint.getD p.hint

/-- A page has a frame in a tier, or one has been set aside there for its migration (R193). -/
def Page.inTier (p : Page) (t : Tier) : Bool := !p.zero && (decide (p.tier = t) || p.dest.any fun d => decide (d.1 = t))

/-- A page leaves its tier with the migration under way. -/
def Page.leaves (p : Page) : Bool := p.migrating && p.dest.any fun d => decide (d.1 ≠ p.tier)

/-- Sum of a measure over a context's pages. -/
def State.sumPages (s : State) (c : CtxId) (f : Page → Nat) : Nat :=
  ((s.memUnit.pages.filter fun p => decide (p.ctx = c)).map f).sum

/-- T2 use in 1/32 of a 2 MiB page: a pinned page in full, an unpinned page while it holds a frame. -/
def State.useT2 (s : State) (c : CtxId) : Nat :=
  s.sumPages c fun p => if p.claim = .pinT2 ∨ (p.claim ≠ .pinT3 ∧ p.inTier .t2) then p.size.units else 0

/-- T3 use in 1/32 of a 2 MiB page. -/
def State.useT3 (s : State) (c : CtxId) : Nat :=
  s.sumPages c fun p => if p.claim = .pinT3 ∨ (p.claim ≠ .pinT2 ∧ p.inTier .t3) then p.size.units else 0

/-- What the migrations under way will take from a context's use of a tier. -/
def State.leaving (s : State) (c : CtxId) (t : Tier) : Nat :=
  s.sumPages c fun p => if !p.claim.pinned ∧ p.tier = t ∧ !p.zero ∧ p.leaves then p.size.units else 0

/-- Bytes resident in T4. -/
def State.t4Bytes (s : State) (c : CtxId) : Nat :=
  s.sumPages c fun p => if p.inTier .t4 then p.size.bytes else 0

/-- T4 use in units of 1 GiB, rounded up. -/
def State.useT4 (s : State) (c : CtxId) : Nat := ceilDiv (s.t4Bytes c) (2 ^ 30)

/-- Pinned T2 and T3 pages in 1/32 of a page. -/
def State.pinnedT2 (s : State) (c : CtxId) : Nat := s.sumPages c fun p => if p.claim = .pinT2 then p.size.units else 0
def State.pinnedT3 (s : State) (c : CtxId) : Nat := s.sumPages c fun p => if p.claim = .pinT3 then p.size.units else 0

/-- Space VLT sets aside for T4 on both arrays, in GiB (R217, R218). -/
def State.t4Space (s : State) : Nat := 2 * (s.vault.usable - s.vault.imageNow - s.vault.keelNow)

/-- Number of different values of a measure. -/
def distinct (l : List Nat) : Nat := l.eraseDups.length

/-- Frames of a context's page tables, from the table sizes of R187. -/
def State.tableFrames (s : State) (c : CtxId) : Nat :=
  let ps := s.memUnit.pages.filter fun p => decide (p.ctx = c)
  if c = 0 ∨ ps.isEmpty then 0
  else
    let small := ps.filter fun p => decide (p.size ≠ .g1)
    let k := ps.filter fun p => decide (p.size = .k64)
    ceilDiv (128 + 4096 * (distinct (ps.map (·.va / 2 ^ 48)) + distinct (ps.map (·.va / 2 ^ 39)) +
      distinct (small.map (·.va / 2 ^ 30))) + 256 * distinct (k.map (·.va / 2 ^ 21))) (2 ^ 21)

/-- Contexts 0-63. -/
def allCtx : List CtxId := List.finRange 64

/-- A training context: one that is paired, or that has closed a step. -/
def State.training (s : State) (c : CtxId) : Bool := (s.mirOf c).state != .none || !(s.ctx c).fenceEnds.isEmpty

/-- GUARD takes effect when every training context has passed a step boundary since it was written (R24). -/
def State.guardEffect (s : State) : State :=
  let g := s.mode.guardF
  if allCtx.all fun c => !s.training c || (s.mirOf c).guardNow == g then { s with mode := { s.mode with guardNow := g } } else s

/-- A context passes a step boundary. -/
def State.guardBoundary (s : State) (c : CtxId) : State :=
  let g := s.mode.guardF
  (s.modMir c fun m => { m with guardNow := g, fullCopy := m.fullCopy && m.guardNow == g, prot := m.prot && m.guardNow == g }).guardEffect

/-- Frames that a byte store of copies spans. -/
def storeFrames (m : List Host.Cell) : Nat := ceilDiv (m.foldl (fun n c => max n (c.1 + 1)) 0) (2 ^ 21)

/-- Frames of firmware memory that MIR holds: sealed copies, shadows, and the frames retained of protected pages (R409, R545). -/
def State.mirrorFrames (s : State) : Nat :=
  (s.mir.held.map fun h => storeFrames (h.bytes.getD []) + storeFrames (h.shadow.getD [])).sum +
    (allCtx.map fun c => if s.retains c then
      ceilDiv ((s.memUnit.pages.filter fun p => decide (p.ctx = c) && (s.mirOf c).dirty.contains p.va).map (·.size.units)).sum 32 else 0).sum

/-- Frames held by firmware memory: GLB_MEM_FW (R545). -/
def State.fwFrames (s : State) : Nat :=
  s.memUnit.fwReserved + (allCtx.filter fun c => decide ((s.ctx c).state ≠ .free)).length +
    (allCtx.map s.tableFrames).sum + s.memUnit.fwGraphs + s.mirrorFrames

/-- Frames lent to sled peers. -/
def State.lentFrames (s : State) : Nat := s.memUnit.lent.length

/-- 1/32 pages of T2 that no context's pages or pools, firmware memory or lend pool takes. -/
def State.freeUnits (s : State) : Nat :=
  32 * (s.memUnit.cap - s.fwFrames - s.memUnit.lendPages) -
    ((allCtx.map fun c => s.useT2 c + 32 * (s.ctx c).quotaSh).sum)

/-- 64 KiB slots of a context's shadow pool in frames that commits replaced and that await release (R200). -/
def State.heldUnits (s : State) (c : CtxId) : Nat := ((s.memUnit.held.filter fun h => decide (h.ctx = c)).map (·.units)).sum

/-- The T2 quota has room for some units beside the shadow pool; context 0 has no quota and takes free frames. -/
def State.roomT2 (s : State) (c : CtxId) (units : Nat) : Bool :=
  if c = 0 then decide (units ≤ s.freeUnits)
  else decide (s.useT2 c + units + 32 * (s.ctx c).quotaSh ≤ 32 * (s.ctx c).quotaT2)

/-- 2 MiB frames that a page's block takes in a tier. -/
def Page.frames (p : Page) : Nat := max 1 (p.size.units / 32)

/-- A sled peer whose lend pool has room for some frames: the lowest slot but the module's own. Which peer TMU takes is open:
DESIGN CHOICE. -/
def State.peerFor (s : State) (frames : Nat) : Option (Fin 9) :=
  (List.finRange 9).find? fun w => decide (w.val ≠ s.fab.ident.toNat % 16) && decide (frames ≤ s.memUnit.peerRoom[w])

/-- The peer to which a page's block can go: the T3 quota has room for what its pages add, `take` counting the page itself, and
some peer's lend pool for its frames. A block that has a lent frame stays with its peer. -/
def State.t3For (s : State) (p : Page) (take : Bool) : Option (Fin 9) :=
  let blk := s.blockOf p
  let add := (blk.map fun q => if q.claim ≠ .pinT3 ∧ !q.inTier .t3 ∧ (!q.zero ∨ (take ∧ q.va = p.va)) then q.size.units else 0).sum
  if p.ctx ≠ 0 ∧ 32 * (s.ctx p.ctx).quotaT3 < s.useT3 p.ctx + add then none
  else match blk.find? fun q => decide (q.tier = .t3) && !q.zero && !q.lost with
    | some q => some q.peer
    | none => s.peerFor p.frames

/-- The T4 quota and the T4 region have room, and the vault takes writes (R241, R519). -/
def State.roomT4 (s : State) (c : CtxId) (bytes : Nat) : Bool :=
  (decide (c = 0) || decide (ceilDiv (s.t4Bytes c + bytes) (2 ^ 30) ≤ (s.ctx c).quotaT4)) &&
    decide ((allCtx.map s.t4Bytes).sum + bytes ≤ s.t4Space * 2 ^ 30) && !s.vault.throttled && !s.vaultHot

/-- Bytes that a page's block adds to T4. -/
def State.t4Adds (s : State) (p : Page) : Nat := ((s.blockOf p).map fun q => if !q.zero ∧ !q.inTier .t4 then q.size.bytes else 0).sum

/-! ### Moving pages -/

/-- A frame is retired, or lies in a stack that has left service (R210, R211): frames rotate over the 24 stacks (R208). -/
def MemUnit.gone (m : MemUnit) (f : Nat) : Bool := m.retiredFrames.contains f || m.hbm[(Fin.ofNat 24 f : StackId)].out

/-- A frame holds a page, or may not. -/
def MemUnit.taken (m : MemUnit) (f : Nat) : Bool :=
  m.gone f || (m.held.any fun h => h.frame == f) || m.pages.any fun p => decide (p.tier = .t2) && !p.zero && decide (p.frame ≤ f) &&
    decide (f < p.frame + p.frames)

/-- First frame from n upward, within some tries, from which a run of frames is free. -/
def MemUnit.firstFree (m : MemUnit) (run : Nat) : Nat → Nat → Nat
  | n, 0 => n
  | n, k + 1 => if (List.range run).any fun j => m.taken (n + j) then m.firstFree run (n + 1) k else n

/-- Tries that find a free run, if the module has one. -/
def MemUnit.tries (m : MemUnit) : Nat := 32 * (m.cap + m.retiredFrames.length + 1)

/-- The daily write allowance in bytes: raw capacity of both arrays times 5,000 cycles over 2,192 days (R241). -/
def Vault.dailyAllowance (v : Vault) : Nat := 2 * v.blocks * 2 ^ 24 * 5000 / 2192

/-- Bytes are programmed into the vault; past twice the allowance in 24 h T4 writes are limited (R241). -/
def State.programmed (s : State) (n : Nat) : State :=
  let d := s.vault.writeDay + n
  { s with vault := { s.vault with writeDay := d, throttled := s.vault.throttled || decide (2 * s.vault.dailyAllowance < d) } }

/-! ### The base-tile cache (R207) -/

/-- The base tile whose stacks hold a frame: six stacks each (R11, R208). -/
def tileOf (frame : Nat) : Fin 4 := Fin.ofNat 4 (frame % 24 / 6)

/-- Lines of a base tile: 128 MiB of 256 bytes, of which 64 MiB may be retained. -/
def t1Lines : Nat := 524288
def t1Kept : Nat := 262144

/-- A line comes into a tile's list, or is used again; the least recently used line that is not retained gives way, and above the
limit a line is not retained. -/
def t1Put (l : List T1Line) (x : T1Line) : List T1Line :=
  match l.find? fun y => y.frame == x.frame && y.line == x.line with
  | some y =>
    let keep := y.retained || (x.retained && decide ((l.filter (·.retained)).length < t1Kept))
    let same := y.gen == x.gen && decide (y.ctx = x.ctx)
    (l.filter fun z => !(z.frame == x.frame && z.line == x.line)) ++
      [{ x with retained := if same then keep else x.retained && keep, dirty := x.dirty || (same && y.dirty) }]
  | none =>
    let x := { x with retained := x.retained && decide ((l.filter (·.retained)).length < t1Kept) }
    if l.length < t1Lines then l ++ [x]
    else match (l.find? fun y => !y.retained).orElse fun _ => l.head? with
      | some y => (l.filter fun z => !(z.frame == y.frame && z.line == y.line)) ++ [x]
      | none => [x]

/-- Lines of frames leave the cache: TMU writes dirty ones back before it merges, migrates, zeroes or retires the frame. -/
def MemUnit.t1Drop (m : MemUnit) (q : T1Line → Bool) : MemUnit := { m with t1 := m.t1.map fun (l : List T1Line) => l.filter (!q ·) }

/-- A line lies in a page that has a local frame. -/
def Page.holdsLine (p : Page) (x : T1Line) : Bool :=
  decide (p.tier = .t2) && !p.zero && decide (p.frame ≤ x.frame) && decide (x.frame < p.frame + p.frames) &&
    (p.size != .k64 || decide (x.line / 256 = p.va / 2 ^ 16 % 32))

/-- An access to the lines of a range goes through the cache of the base tiles: ALLOC 0b01 allocates no line, 0b10 retains. Only
pages in local T2 are cached. -/
def State.t1Access (s : State) (c : CtxId) (gen : Byte) (va len alloc : Nat) (write : Bool) : State :=
  (List.range (ceilDiv (va % 256 + len) 256)).foldl (fun s k =>
    let a := va / 256 * 256 + 256 * k
    match s.pageAt? c a with
    | none => s
    | some p =>
      if p.tier ≠ .t2 ∨ p.zero then s
      else
        let f := p.frame + (a - p.va) / 2 ^ 21
        let x : T1Line := { frame := f, line := a % 2 ^ 21 / 256, ctx := c, gen, retained := alloc == 2, dirty := write }
        let hit := (s.memUnit.t1[tileOf f]).any fun y => y.frame == x.frame && y.line == x.line && y.gen == gen && decide (y.ctx = c)
        if alloc = 1 ∧ !hit then s else s.modMem fun m => { m with t1 := vmod m.t1 (tileOf f) fun l => t1Put l x }) s

/-! ### Frames of a block -/

/-- The lent frames of a page's block, and those set aside for its migration, go back to their peers: first to what a peer
reclaims, then to the room of its pool (R213). -/
def MemUnit.giveRoom (m : MemUnit) (w : Fin 9) (n : Nat) : MemUnit :=
  let k := min n m.owed[w]
  { m with owed := vmod m.owed w (· - k), peerRoom := vmod m.peerRoom w (· + (n - k)) }

def State.unroom (s : State) (p : Page) : State :=
  let s := match (s.blockOf p).find? fun q => decide (q.tier = .t3) && !q.zero && !q.lost with
    | some q => s.modMem fun m => m.giveRoom q.peer p.frames
    | none => s
  match p.dest with
  | some (.t3, w) => if (s.blockOf p).any (!·.zero) then s.modMem fun m => m.giveRoom w p.frames else s
  | _ => s

/-- Put the block of a page into a tier; a page that is to take a frame is no ZERO page any more. A block takes the lowest free
frames of T2 (DESIGN CHOICE); its place on a peer or in the vault is the lender's or VLT's to choose. A hint that waited for the
remap applies (R216). -/
def State.placeBlock (s : State) (p : Page) (t : Tier) (peer : Fin 9) (take : Bool) : State :=
  let blk := s.blockOf p
  let live := take || blk.any (!·.zero)
  let adds := s.t4Adds p
  let here := blk.find? fun q => decide (q.tier = t) && !q.zero && !q.lost && (decide (t ≠ .t2) || !s.memUnit.gone q.frame) &&
    (decide (t ≠ .t3) || decide (q.peer = peer))
  let s := s.unroom p
  let s := s.modMem fun m => if t = .t2 ∧ here.isSome then m else m.t1Drop fun x => blk.any fun q => q.holdsLine x
  let s := if live && t != .t2 && here.isNone then { s with free := s.free + 1 } else s
  let f := if !live then 0 else match here with
    | some q => q.frame
    | none => if t = .t2 then s.memUnit.firstFree p.frames 0 s.memUnit.tries else Config.freeNat (s.free - 1)
  let s := s.modPages (p.sameBlock ·) fun q =>
    { q with tier := t, peer, frame := f, migrating := false, dest := none, hint := q.claim, nextHint := none,
             zero := q.zero && !(take && decide (q.va = p.va)) }
  match t with
  | .t4 => s.programmed adds
  | .t3 => if live then s.modMem fun m => { m with peerRoom := vmod m.peerRoom peer (· - p.frames) } else s
  | _ => s

/-- The block of a page starts to be copied to a tier; a peer sets its frames aside (R193). -/
def State.startCopy (s : State) (p : Page) (t : Tier) (peer : Fin 9) : State :=
  let s := s.modPages (p.sameBlock ·) fun q => { q with migrating := true, dest := some (t, peer) }
  if t = .t3 ∧ (s.blockOf p).any (!·.zero) then s.modMem fun m => { m with peerRoom := vmod m.peerRoom peer (· - p.frames) } else s

/-- The copy of a page's block is complete: TMU remaps it. -/
def State.finishCopy (s : State) (p : Page) : State :=
  match p.dest with
  | some (t, w) => s.placeBlock p t w false
  | none => s.modPages (p.sameBlock ·) fun q => { q with migrating := false }

/-- Ranges a command names with its buffer descriptors. -/
def Cmd.bufRanges (c : Cmd) : List (Nat × Nat) := c.ranges.map fun b => (b.va, b.len)

/-- Ranges under descriptors of a context's issued commands, which stay where they are (R193). -/
def State.busyRanges (s : State) (c : CtxId) : List (Nat × Nat) :=
  (s.cmdsOf c).flatMap fun x => if x.state = .issued ∨ x.state = .committing then x.bufRanges else []

def Page.touches (p : Page) (rs : List (Nat × Nat)) : Bool := rs.any fun r => overlaps p.va p.size.bytes r.1 r.2

/-- The page of a context to demote next from a tier: by group of its effective hint, then least recently named (R191). No
page moves that lies in a busy range or whose block holds one that does (R193). -/
def State.victimIn (s : State) (c : CtxId) (t : Tier) (extra : List (Nat × Nat) := []) : Option Page :=
  let busy := s.busyRanges c ++ extra
  let key (p : Page) : Option (Nat × Nat × Nat) := (s.effHint p).group.map fun g => (g, p.named, p.va)
  let lt (a b : Nat × Nat × Nat) : Bool :=
    decide (a.1 < b.1) || (a.1 == b.1 && (decide (a.2.1 < b.2.1) || (a.2.1 == b.2.1 && decide (a.2.2 < b.2.2))))
  ((s.memUnit.pages.filter fun p => decide (p.ctx = c) && decide (p.tier = t) && !p.zero && !p.migrating && !p.lost &&
      !(s.blockOf p).any (·.touches busy)).foldl
    (fun best p => match key p, best with
      | none, b => b
      | some k, none => some (k, p)
      | some k, some (k', q) => if lt k k' then some (k, p) else some (k', q)) none).map (·.2)

/-- Where a demoted page goes: PREFER_T4 to T4, every other page to T3 if it has room, else to T4; past the T4 quota to
T3 (R191, R197). -/
def State.demoteTo (s : State) (p : Page) : Option (Tier × Fin 9) :=
  let t4 := s.roomT4 p.ctx (s.t4Adds p)
  match s.t3For p false with
  | some w => if s.effHint p = .preferT4 && t4 then some (.t4, 0) else some (.t3, w)
  | none => if t4 then some (.t4, 0) else none

/-- Demote pages of a context until some units fit its T2 quota: none when no page can be demoted. The fault that needs the room
is resolved when their copies are complete, so the pages are in their new tier by then. -/
def State.makeRoom (s : State) (c : CtxId) (units : Nat) (extra : List (Nat × Nat)) : Nat → Option State
  | 0 => if s.roomT2 c units then some s else none
  | k + 1 =>
    if s.roomT2 c units then some s
    else
      match s.victimIn c .t2 extra with
      | none => none
      | some p =>
        match s.demoteTo p with
        | none => none
        | some (t, w) => (s.placeBlock p t w false).makeRoom c units extra k

/-- Units that a page's move into T2 adds to the T2 quota; `take` counts a ZERO page that is to take its frame. -/
def State.moveUnits (s : State) (p : Page) (take : Bool) : Nat :=
  ((s.blockOf p).filter fun q => decide (q.claim ≠ .pinT2) && (!q.zero || (take && decide (q.va = p.va))) && !q.inTier .t2).foldl
    (fun n q => n + q.size.units) 0

/-- Bring a page into T2, with room made under R191; `take` gives a ZERO page its frame, and pages in `extra` stay. -/
def State.bringT2 (s : State) (p : Page) (take : Bool) (extra : List (Nat × Nat) := []) : Option State :=
  if p.tier = .t2 ∧ (!p.zero ∨ !take) then some s
  else (s.makeRoom p.ctx (s.moveUnits p take) extra s.memUnit.pages.length).map fun s => s.placeBlock p .t2 0 take

/-- Resolve an access to a page that is not resident (R192, R197), by the effective hint of its block (R186): a PIN_T3 block stays
in a lend pool; a ZERO page in T3 takes a lent frame when there is one; every other page comes to T2, or goes to T3 when T2 has no
room. A page in migration is remapped. None: no room. -/
def State.resolvePage (s : State) (p : Page) (extra : List (Nat × Nat) := []) : Option State :=
  let h := s.effHint p
  let toT3 := (s.t3For p true).map fun w => s.placeBlock p .t3 w true
  if p.migrating then some (s.finishCopy p)
  else if h = .pinT3 then toT3
  else if p.tier = .t3 ∧ p.zero then
    match toT3 with
    | some s' => some s'
    | none => s.bringT2 p true extra
  else
    match s.bringT2 p true extra with
    | some s' => some s'
    | none => if p.zero ∨ h = .pinT2 then none else toT3

/-! ### Access (R250, R255, R205) -/

/-- The system window lets a context read its tables, and write its control page only (R250). -/
def windowOk (off len : Nat) (write : Bool) : Bool :=
  (decide (0x110000 ≤ off) && decide (off + len ≤ 0x120000)) ||
    (!write && (decide (off + len ≤ 524160) || (decide (0x100000 ≤ off) && decide (off + len ≤ 0x130000))))

/-- Bytes of a range that pages with a property cover. -/
def State.covered (s : State) (c : CtxId) (va len : Nat) (q : Page → Bool) : Nat :=
  s.sumPages c fun p => if q p then min (va + len) (p.va + p.size.bytes) - max va p.va else 0

/-- Every byte of a range is mapped with the permissions an access needs (R282, R284). -/
def State.rangeOk (s : State) (c : CtxId) (va len : Nat) (r w : Bool) : Bool :=
  decide (va + len ≤ vaLimit) &&
    (decide (len = 0) ||
      (let low := min len (windowBase - va)
       (decide (low = 0) || decide (s.covered c va low (fun p => (!r || p.r) && (!w || p.w)) = low)) &&
         (decide (low = len) || windowOk (va + low - windowBase) (len - low) w)))

/-- Every byte of a range is mapped. -/
def State.mapped (s : State) (c : CtxId) (va len : Nat) : Bool := decide (s.covered c va len (fun _ => true) = len)

/-- A weight slot of the context that is not EMPTY covers part of a range (R232). -/
def State.overWeights (s : State) (c : CtxId) (va len : Nat) : Bool :=
  (s.ctx c).wslots.toList.any fun w => w.state != .empty && overlaps w.va w.len va len

/-- An address of the range of a weight slot that is not EMPTY (R232). -/
def Ctx.inWeights (x : Ctx) (va : Nat) : Bool :=
  x.wslots.toList.any fun w => decide (w.state ≠ .empty) && decide (w.va ≤ va) && decide (va < w.va + w.len)

/-- A page that holds part of a DMA descriptor table in use: read-only to its context from admission until the command
ends (R167). -/
def State.inDescTable (s : State) (c : CtxId) (p : Page) : Bool :=
  s.sched.cmds.any fun x => decide (x.ctx = c) &&
    (match x.op with
     | .dmaStart desc _ count _ _ _ _ _ _ => overlaps p.va p.size.bytes desc.toNat (32 * count.toNat)
     | _ => false)

/-- What an access to a byte meets: none, or the cause of the fault (R205, R255). -/
def State.access (s : State) (c : CtxId) (va : Nat) (write : Bool) : Option FCause :=
  if windowBase ≤ va then (if windowOk (va - windowBase) 1 write then none else some .permission)
  else
    match s.pageAt? c va with
    | none => some .unmapped
    | some p =>
      if write && (!p.w || (s.ctx c).inWeights va || s.inDescTable c p) then some .permission
      else if !write && !p.r then some .permission
      else if p.poison then some .poisoned
      else if p.lost then some .tierLost
      else if p.migrating then some .migrating
      else if p.zero || decide (p.tier = .t4) then some .notResident
      else none

/-- Fault code (R205). -/
def FCause.code : FCause → Nat
  | .unmapped => 1
  | .permission => 2
  | .quota => 3
  | .tierLost => 4
  | .timeout => 5
  | .notResident => 6
  | .migrating => 7
  | .poisoned => 8

/-- Source code of a fault record (R206). -/
def FSource.code : FSource → Nat
  | .ste => 0
  | .bdm => 1
  | .cle => 2
  | .vlt => 3
  | .mir => 4
  | .cmd => Config.cmdFaultSource

/-- The 32 bytes of a fault record (R206). -/
def PFault.bytes (f : PFault) : List Byte :=
  le 4 f.id.toNat ++ [BitVec.ofNat 8 f.cause.code, BitVec.ofNat 8 ((if f.write then 1 else 0) + 2 * f.src.code)] ++
    le 2 (f.unit % 64 + 64 * (f.prog % 16)) ++ le 8 f.va ++ le 4 f.seq.toNat ++ le 4 f.tick ++
    [BitVec.ofNat 8 f.ctx.val, f.gen] ++ le 4 f.node ++ le 2 0

/-- TMU resolves the fault itself, without a record (R205). -/
def FCause.silent : FCause → Bool
  | .notResident => true
  | .migrating => true
  | _ => false

/-- FAULT_CONS of a context's control page, never above FAULT_PROD (R251). -/
def State.faultCons (s : State) (c : CtxId) : Nat :=
  let n := ofLe (memReadList s.mem (ctxKey c (windowBase + 0x110000)) 4)
  let used := ((s.ctx c).faultProd - BitVec.ofNat 32 n).toNat
  if used < 2 ^ 31 then n else (s.ctx c).faultProd.toNat

/-- The fault ring has room. -/
def State.faultRoom (s : State) (c : CtxId) : Bool :=
  decide (((s.ctx c).faultProd - BitVec.ofNat 32 (s.faultCons c)).toNat < 2048)

/-- Write a fault record, or count it as lost, and raise the context's fault event (R206, R251). -/
def State.writeFault (s : State) (f : PFault) : State × Bool :=
  let c := f.ctx
  if s.faultRoom c then
    let n := (s.ctx c).faultProd.toNat
    let s := s.writeCtx c (windowBase + 0x100000 + 32 * (n % 2048)) f.bytes
    (((s.modCtx c fun x => { x with faultProd := x.faultProd + 1 }).msix (96 + c.val)), true)
  else (((s.modCtx c fun x => { x with faultLost := x.faultLost + 1 }).msix (96 + c.val)), false)

/-- Key of a page for shared faults: its first address, or the 64 KiB block of an unmapped address. -/
def State.pageKey (s : State) (c : CtxId) (va : Nat) : Nat :=
  match s.pageAt? c va with
  | some p => p.va
  | none => va / 2 ^ 16 * 2 ^ 16

/-- An access faults: it shares the pending FAULT_ID of its page and cause, or takes a new one; a cause TMU does not
resolve itself writes a record (R205, R206). Every fault is counted. -/
def State.fault (s : State) (f : PFault) : State × W32 :=
  let s := s.count offTmuFaults f.ctx.val 1
  let key := s.pageKey f.ctx f.va
  match s.memUnit.faults.find? fun g =>
      decide (g.ctx = f.ctx) && decide (g.cause = f.cause) && decide (s.pageKey f.ctx g.va = key) with
  | some g =>
    let g' := { f with id := g.id, recorded := g.recorded }
    (s.modMem fun m => { m with faults := m.faults ++ [g'] }, g.id)
  | none =>
    let id := s.memUnit.nextFault
    let f := { f with id, tick := s.tick.now }
    let s := s.modMem fun m => { m with nextFault := m.nextFault + 1 }
    let (s, ok) := if f.cause.silent then (s, false) else s.writeFault f
    (s.modMem fun m => { m with faults := m.faults ++ [{ f with recorded := ok }] }, id)

/-- Drop the pending faults of an id. A hint that waited for the last of a page's faults applies (R216). -/
def State.dropFault (s : State) (id : W32) : State := (s.modMem fun m => { m with faults := m.faults.filter fun f => f.id != id }).settleHints

/-- Pages of a range a command names are named at this tick (R191). -/
def State.touch (s : State) (c : CtxId) (rs : List (Nat × Nat)) : State :=
  s.modPages (fun p => decide (p.ctx = c) && p.touches rs) fun p => { p with named := s.tick.now }

/-- Free the pages of a context that a predicate names: local frames join the scrub list, lent frames return to their
peers, and the contents are gone (R204, R257, R259). -/
def State.freePages (s : State) (c : CtxId) (q : Page → Bool) : State :=
  let gone := s.memUnit.pages.filter fun p => decide (p.ctx = c) && q p
  let local_ := ceilDiv ((gone.filter fun p => decide (p.tier = .t2) && !p.zero).foldl (fun n p => n + p.size.units) 0) 32
  let mem := gone.foldl (fun m p => memClear m (ctxKey c p.va) p.size.bytes) s.mem
  let s := (s.setMem mem).modMem fun m => m.t1Drop fun x => gone.any fun p => p.holdsLine x
  let keys := (gone.map fun p => (decide (p.size = .k64), if p.size = .k64 then p.va / 2 ^ 21 else p.va)).eraseDups
  let s := keys.foldl (fun s k => match gone.find? fun p => decide (p.size = .k64) == k.1 && (if p.size = .k64 then p.va / 2 ^ 21 else p.va) == k.2 with
    | some p => if (s.blockOf p).any fun r => !q r && !r.zero then s else s.unroom p
    | none => s) s
  s.modMem fun m => { m with pages := m.pages.filter fun p => !(decide (p.ctx = c) && q p), scrub := m.scrub + local_ }

end Sys2Proof.Machine
end

