-- ==== Sys2Proof/Machine/Route.lean ====
section
/-! DEFINITION. FAB: identities, routes, credits and the sending of packets (R331-R335, R342-R346). -/
namespace Sys2Proof.Machine

/-! ### Identities (R332) -/

/-- An unassigned identity. -/
def noIdent : W16 := 0xFFFF
def identOf (x y z w : Nat) : W16 := BitVec.ofNat 16 (x % 16 * 4096 + y % 16 * 256 + z % 16 * 16 + w % 16)
def identX (i : W16) : Nat := bitsOf i.toNat 15 12
def identY (i : W16) : Nat := bitsOf i.toNat 11 8
def identZ (i : W16) : Nat := bitsOf i.toNat 7 4
def identW (i : W16) : Nat := bitsOf i.toNat 3 0
/-- Two identities lie in one sled. -/
def sameSled (a b : W16) : Bool := a.toNat / 16 == b.toNat / 16

/-! ### Packet types (R343) -/
def ptWrite : Byte := 0x01
def ptReadReq : Byte := 0x02
def ptReadResp : Byte := 0x03
def ptColl : Byte := 0x04
def ptChunk : Byte := 0x05
def ptService : Byte := 0x06
def ptCancel : Byte := 0x10
def ptCtxDead : Byte := 0x11
def ptCtxFenced : Byte := 0x12
def ptTeardown : Byte := 0x13
def ptTeardownAck : Byte := 0x14
def ptReclaim : Byte := 0x15
def ptLost : Byte := 0x16
def ptRoute : Byte := 0x17
def ptTiming : Byte := 0x18
def ptKey : Byte := 0x19

/-- Virtual channel of a type and class (R343, R344). -/
def vcOf (typ : Byte) (cls : PrioClass) : Fin 6 :=
  if typ = ptColl then 1
  else if typ.toNat ≤ 3 ∨ typ = ptChunk then (match cls with
    | 0 => 2
    | 1 => 3
    | 2 => 4
    | 3 => 5)
  else 0

/-! ### Links -/

/-- All links, by code. -/
def allLinks : List LinkId := List.finRange 14

/-- The W link from a physical slot to another of the sled: Wk reaches slot p + k mod 9, and has code k - 1. -/
def wLink (p q : Nat) : Option LinkId :=
  let k := (q + 9 - p) % 9
  if h : 1 ≤ k ∧ k ≤ 8 then some ⟨k - 1, by omega⟩ else none

/-- A link carries packets; one in RECONFIG holds them (R337). -/
def Link.usable (l : Link) : Bool := l.state == .up || l.state == .reconfig

/-- Links that are up. -/
def State.upLinks (s : State) : List LinkId := allLinks.filter fun k => (s.link k).state == .up

/-- The physical slot that holds logical w in this sled (R333). -/
def State.slotOfW (s : State) (w : Nat) : Nat := if s.fab.adoptOwn.val = w then 8 else w

/-- Identity whose sled this module stands in: its own, or that of a W neighbour for an unassigned module. -/
def State.sledIdent (s : State) : W16 :=
  if s.fab.ident ≠ noIdent then s.fab.ident
  else ((allLinks.filter fun k => decide (k.val < 8) && (s.link k).nbrIdent != noIdent).head?.map fun k => (s.link k).nbrIdent).getD noIdent

/-- Next torus direction toward a coordinate: 0 positive, 1 negative; a tie goes to the positive one, and in a dimension of
size 2 packets alternate (R334). -/
def torusDir (d from_ to_ sent : Nat) : Option Nat :=
  let f := (to_ + d - from_ % d) % d
  if f = 0 then none else if d = 2 then some (sent % 2) else if f ≤ d - f then some 0 else some 1

/-- The torus link of dimension k (0 X, 1 Y, 2 Z) and direction. -/
def torusLink (k dir : Nat) : LinkId := Fin.ofNat 14 (8 + 2 * k + dir)

/-- Direction of the first dimension in which the destination differs, in dimension order. -/
def State.nextTorus (s : State) (dst : W16) : Option LinkId :=
  let me := s.sledIdent
  let sent (k : Nat) : Nat := (s.link (torusLink k 0)).packets + (s.link (torusLink k 1)).packets
  match torusDir (max 1 s.fab.dx) (identX me) (identX dst) (sent 0) with
  | some r => some (torusLink 0 r)
  | none => match torusDir (max 1 s.fab.dy) (identY me) (identY dst) (sent 1) with
    | some r => some (torusLink 1 r)
    | none => (torusDir (max 1 s.fab.dz) (identZ me) (identZ dst) (sent 2)).map (torusLink 2)

/-- The link a packet leaves on (R334), none when its destination is this module or has no route. -/
def State.routeLink (s : State) (dst src : W16) (via : Option LinkId) : Option LinkId :=
  let p := s.fab.pslot.val
  match s.nextTorus dst with
  | none => wLink p (s.slotOfW (identW dst))
  | some d =>
    if s.fab.ident = noIdent then
      (match via with
       | some l => if 8 ≤ l.val then wLink p (s.slotOfW (identW src)) else some d
       | none => some d)
    else if p ≠ 8 ∧ (s.fab.adopt[(Fin.ofNat 6 (d.val - 8) : Fin 6)]).val = identW s.fab.ident then wLink p 8
    else some d

/-- A neighbour in VIGIL takes control traffic only, and an identity conflict holds every link to it (R335, R355). -/
def State.vcOpen (s : State) (l : LinkId) (vc : Fin 6) : Bool := vc == 0 || ((s.link l).nstate != .vigil && !s.fab.conflict)

/-- The neighbour on a link is the destination, or relays: it is SPARE or ACTIVE (R334). -/
def Link.relays (k : Link) (dst : W16) : Bool := k.nbrIdent == dst || k.nstate == .spare || k.nstate == .active

/-- A packet may go to the neighbour on a link. -/
def State.linkTakes (s : State) (l : LinkId) (vc : Fin 6) (dst : W16) : Bool := (s.link l).usable && s.vcOpen l vc && (s.link l).relays dst

/-- The route to an identity is down (R334): its first link has failed or is disabled, or its relay is in a state that does not relay.
Packets for it are lost; those that only wait for their link are not. -/
def State.routeDown (s : State) (dst : W16) : Bool :=
  match s.routeLink dst s.fab.ident none with
  | none => true
  | some l => (s.link l).state == .failed || (s.link l).state == .disabled || !(s.link l).relays dst

/-! ### Transmission (R344, R345) -/

/-- Order of the virtual channels inside and outside a collective window. -/
def vcOrder (window : Bool) : List (Fin 6) := if window then [0, 1, 2, 3, 4, 5] else [0, 2, 1, 3, 4, 5]

/-- First packet of a virtual channel that waits for a link. -/
def Fabric.front (f : Fabric) (l : LinkId) (vc : Fin 6) : Option Held :=
  f.held.find? fun h => decide (h.out = l) && decide (h.vc = vc)

/-- Replace the first packet of a virtual channel on a link, or take it off. -/
def dropFront (l : LinkId) (vc : Fin 6) (new : Option Held) : List Held → List Held
  | [] => []
  | h :: t => if h.out = l ∧ h.vc = vc then (match new with
      | some x => x :: t
      | none => t) else h :: dropFront l vc new t

/-- The virtual channel granted the next packet slot of a link. -/
def State.grantVc (s : State) (l : LinkId) : Option (Fin 6) :=
  let k := s.link l
  let ok := (vcOrder s.tick.window).filter fun v => (s.fab.front l v).isSome && decide (0 < k.credits[v]) && s.vcOpen l v
  if k.grants % 16 = 15 then
    ok.foldl (fun best v => match best with
      | none => some v
      | some b => if k.vcLast[v] < k.vcLast[b] then some v else some b) none
  else ok.head?

/-- Slots of the receive buffer that a packet took on the link it came over are free again (R344). -/
def State.giveBack (s : State) (l? : Option LinkId) (vc : Fin 6) (n : Nat) : State :=
  match l? with
  | some l => s.modLink l fun x => { x with freed := vmod x.freed vc (· + n) }
  | none => s

/-- One slot of the packet at the front of a virtual channel goes; the slot a forwarded packet took on its way in is free. A packet all
of whose slots have gone has left. -/
def State.grantSlot (s : State) (l : LinkId) (v : Fin 6) (h : Held) : State :=
  let s := s.modLink l fun x =>
    { x with credits := vmod x.credits v (· - 1), grants := x.grants + 1, vcLast := vmod x.vcLast v fun _ => x.grants + 1 }
  let s := s.giveBack h.from? v 1
  if h.slots ≤ 1 then
    ({ s with fab := { s.fab with held := dropFront l v none s.fab.held, sent := { h with slots := 0 } :: s.fab.sent } }).modLink l
      fun x => { x with packets := x.packets + 1 }
  else { s with fab := { s.fab with held := dropFront l v (some { h with slots := h.slots - 1 }) s.fab.held } }

/-- Grant packet slots of a link while there is a packet and a credit. The answer counts the slots. -/
def State.pumpSlots (s : State) (l : LinkId) (n : Nat) : Nat → State × Nat
  | 0 => (s, n)
  | k + 1 =>
    match s.grantVc l with
    | none => (s, n)
    | some v =>
      match s.fab.front l v with
      | none => (s, n)
      | some h => (s.grantSlot l v h).pumpSlots l (n + 1) k

/-- Slots of the flits that the replay buffer still has room for: 512 flits of 19 packet slots (R339, R340). -/
def Link.flitRoom (l : Link) : Nat := 19 * (512 - l.replay.length)

/-- Bytes of a packet's body that its header slot carries in ADDR and OPF (R342). -/
def opfBytes (typ : Byte) : Nat := if typ.toNat ≤ 3 then 8 else if typ = ptColl then 24 else if typ = ptChunk then 52 else 32

/-- Slots of a packet: a header and 64-byte data slots (R342). -/
def pktSlots (typ : Byte) (n : Nat) : Nat := 1 + ceilDiv (n - opfBytes typ) 64

/-- A packet of an own command of which no slot has left goes in the class its command runs at now (R325). -/
def State.reclass (s : State) (h : Held) : Held :=
  match s.cmd? h.cid with
  | none => h
  | some c => if h.cid = 0 ∨ h.from?.isSome ∨ h.slots ≠ pktSlots h.typ h.body.length then h
    else { h with cls := s.classNow c, vc := vcOf h.typ (s.classNow c) }

/-- Send what a link may send: the flits used enter the replay buffer. -/
def State.pump (s : State) (l : LinkId) : State :=
  if (s.link l).state ≠ .up then s
  else
    let s := { s with fab := { s.fab with held := s.fab.held.map s.reclass } }
    let (s, n) := s.pumpSlots l 0 ((s.link l).flitRoom)
    s.modLink l fun x =>
      let f := ceilDiv n 19
      { x with fseq := x.fseq + BitVec.ofNat 16 f, replay := x.replay ++ (List.range f).map fun j => x.fseq + BitVec.ofNat 16 j }

/-- Put a packet on a link. Links of vigil send filler in every packet slot (R472). -/
def State.sendOn (s : State) (l : LinkId) (typ : Byte) (cls : PrioClass) (dst : W16) (ctx : CtxId) (gen : Byte) (attempt : W32)
    (body : List Byte) (cid : Nat) : State :=
  let h : Held := { typ, vc := vcOf typ cls, cls, dst, src := s.fab.ident, ctx, gen, stamp := BitVec.ofNat 8 s.tick.now, attempt,
                    from? := none, out := l, slots := pktSlots typ body.length, body, cid,
                    own := (s.cmd? cid).map fun c => (c.ctx, c.gen) }
  if s.inVigil then s else ({ s with fab := { s.fab with held := s.fab.held ++ [h] } }).pump l

/-- Send a packet to an identity. Without a route it is lost: false, and nothing is sent. -/
def State.trySend (s : State) (typ : Byte) (cls : PrioClass) (dst : W16) (ctx : CtxId) (gen : Byte) (attempt : W32)
    (body : List Byte) (cid : Nat) : State × Bool :=
  match s.routeLink dst s.fab.ident none with
  | none => (s, false)
  | some l => if s.linkTakes l (vcOf typ cls) dst then (s.sendOn l typ cls dst ctx gen attempt body cid, true) else (s, false)

/-- Send a packet that no command answers for. -/
def State.send (s : State) (typ : Byte) (dst : W16) (ctx : CtxId) (gen : Byte) (body : List Byte) : State :=
  (s.trySend typ 0 dst ctx gen 0 body 0).1

/-- Body of a SERVICE message: a code and its fields. -/
def svcBody (code : Nat) (fields : List Byte) : List Byte := BitVec.ofNat 8 code :: fields

/-- Cut bytes into packets of at most 4,096 data bytes. -/
def packets4k (bs : List Byte) : List (Nat × List Byte) :=
  (List.range (max 1 (ceilDiv bs.length 4096))).map fun k => (k * 4096, (bs.drop (k * 4096)).take 4096)

/-- Send bytes of a command as WRITE packets to an address of another module; false when the route is down. -/
def State.sendBytes (s : State) (typ : Byte) (c : Cmd) (dst : W16) (addr : Nat) (bs : List Byte) : State × Bool :=
  (packets4k bs).foldl (fun (acc : State × Bool) p =>
    if !acc.2 then acc
    else acc.1.trySend typ (acc.1.classNow c) dst c.ctx c.gen (if c.fixed then 0 else BitVec.ofNat 32 c.attempt) (le 8 (addr + p.1) ++ p.2) c.cid) (s, true)

/-! ### Cancelled attempts (R346) -/

/-- Links that carried packets of this module's attempt. -/
def Fabric.attemptLinks (f : Fabric) (self : W16) (attempt : W32) : List LinkId :=
  (((f.sent ++ f.held).filter fun h => h.attempt == attempt && h.src == self).map (·.out)).eraseDups

/-- Packets of collectives not yet run here leave the receive buffers; their slots are free again. -/
def State.dropEarly (s : State) (q : EarlyPkt → Bool) : State :=
  let s := (s.cle.early.filter q).foldl (fun s e => s.giveBack (some e.link) 1 e.slots) s
  { s with cle := { s.cle with early := s.cle.early.filter fun e => !q e } }

/-- Drop an attempt's packets from the queues; the credits of received ones return. -/
def State.dropAttempt (s : State) (src : W16) (attempt : W32) : State :=
  let s := (s.fab.held.filter fun h => h.src == src && h.attempt == attempt).foldl (fun s h => s.giveBack h.from? h.vc h.slots) s
  let s := s.dropEarly fun e => e.src == src && e.attempt == attempt
  { s with fab := { s.fab with held := s.fab.held.filter fun h => !(h.src == src && h.attempt == attempt) } }

/-- GSC has killed an attempt: its packets are dropped, and a CANCEL goes on every
link that carried one and still carries packets. -/
def State.cancelAttempt (s : State) (attempt : Nat) : State :=
  let a : W32 := BitVec.ofNat 32 attempt
  if attempt = 0 then s
  else
    let ls := (s.fab.attemptLinks s.fab.ident a).filter fun l => (s.link l).usable
    ls.foldl (fun s l => s.sendOn l ptCancel 0 (s.link l).nbrIdent 0 0 a (le 4 a.toNat) 0) (s.dropAttempt s.fab.ident a)

end Sys2Proof.Machine
end

