-- ==== Sys2Proof/Machine/Reply.lean ====
section
/-! DEFINITION. Opcodes and kinds, status replies, the end of a command and of its dependents (R274-R279, R297-R301,
R303, R313, R315). -/
namespace Sys2Proof.Machine

/-! ### Status codes (R297) -/
def stOk : W16 := 0x0000
def stBadOpcode : W16 := 0x0101
def stBounds : W16 := 0x0102
def stQuota : W16 := 0x0103
def stPerm : W16 := 0x0104
def stKilled : W16 := 0x0201
def stPartial : W16 := 0x0202
def stVersionSkew : W16 := 0x0203
def stFaultUnresolved : W16 := 0x0204
def stDeadlineMiss : W16 := 0x0205
def stRescaled : W16 := 0x0206
def stWeightUnavailable : W16 := 0x0301
def stSignature : W16 := 0x0302
def stUncorrectable : W16 := 0x0303
def stCheckMismatch : W16 := 0x0304
def stCtxDead : W16 := 0x0401
def stCtxFenced : W16 := 0x0402
def stHang : W16 := 0x0501
def stReset : W16 := 0x0502
def stVigil : W16 := 0x0503

/-! ### Opcodes (R279) -/

/-- The opcode of a packet's parameters. -/
def opCode : Op → W16
  | .nop => 0x0100
  | .admMode _ => 0x0101
  | .admServiceStart .. => 0x0102
  | .admServiceStop _ => 0x0102
  | .admIdentity .. => 0x0103
  | .ctxCreate .. => 0x0200
  | .ctxFence .. => 0x0201
  | .ctxUnfence _ => 0x0202
  | .ctxDestroy _ => 0x0203
  | .memMap .. => 0x0300
  | .memUnmap .. => 0x0301
  | .memHint .. => 0x0302
  | .memQuota .. => 0x0303
  | .memResolveRetry _ => 0x0304
  | .memResolveFail _ => 0x0304
  | .wgtInstallBegin .. => 0x0400
  | .wgtInstallChunks .. => 0x0400
  | .wgtInstallCommit _ => 0x0400
  | .wgtInstallAbort _ => 0x0400
  | .wgtErase _ => 0x0401
  | .wgtKeyAdd .. => 0x0402
  | .wgtKeyRevoke _ => 0x0402
  | .wgtLoad .. => 0x0403
  | .wgtPin _ => 0x0404
  | .wgtUnpin .. => 0x0405
  | .wgtSwitch _ => 0x0406
  | .wgtDrop _ => 0x0407
  | .keelWrite .. => 0x0408
  | .keelRead .. => 0x0409
  | .keelDrop _ => 0x040A
  | .submitGraph .. => 0x0500
  | .graphRun .. => 0x0501
  | .graphRelease _ => 0x0502
  | .matmul .. => 0x0510
  | .vector .. => 0x0511
  | .reduce .. => 0x0512
  | .attnFwd .. => 0x0513
  | .attnBwd .. => 0x0514
  | .optUpdate .. => 0x0515
  | .stepFence _ => 0x0520
  | .semAcquire .. => 0x0521
  | .semRelease .. => 0x0522
  | .dmaStart .. => 0x0600
  | .dmaAbort _ => 0x0601
  | .collReduceScatter .. => 0x0700
  | .collAllGather .. => 0x0701
  | .collAllReduce .. => 0x0702
  | .collMulticast .. => 0x0703
  | .collPermute .. => 0x0704
  | .mirPair .. => 0x0800
  | .mirSync _ => 0x0801
  | .mirIntercalate .. => 0x0802
  | .mirRestore .. => 0x0803
  | .jobRelease .. => 0x0804
  | .jobJoin .. => 0x0805
  | .srvStart .. => 0x0900
  | .srvStop .. => 0x0901
  | .feQueue .. => 0x0902
  | .queryProgress .. => 0x0A00
  | .queryStatus .. => 0x0A01
  | .queryTelemetry .. => 0x0A02
  | .diagSentinel .. => 0x0F00
  | .diagBist .. => 0x0F01
  | .diagPrbs .. => 0x0F02
  | .diagEmberRead .. => 0x0F03
  | .injectUnitHang .. => 0x0F04
  | .injectCheckFlip .. => 0x0F04
  | .injectEccCe .. => 0x0F04
  | .injectEccUe .. => 0x0F04
  | .injectDeviceReset .. => 0x0F04
  | .injectEventFlood .. => 0x0F04
  | .malformed c => c
  | .reserved c => c

/-- Kinds of opcodes (R277). -/
inductive Kind where | k | f | e | c
deriving DecidableEq, Repr

/-- Kind of an opcode (R279). No opcode of the table has kind F. -/
def kindOf (code : W16) : Kind :=
  let n := code.toNat
  if 0x0300 ≤ n ∧ n ≤ 0x0304 ∨ 0x0403 ≤ n ∧ n ≤ 0x040A ∨ n = 0x0801 then .k
  else if 0x0510 ≤ n ∧ n ≤ 0x0515 ∨ n = 0x0521 ∨ n = 0x0522 ∨ n = 0x0600 ∨ 0x0700 ≤ n ∧ n ≤ 0x0704 then .e
  else .c

/-- Plan Y: placed in tick plans (R279). -/
def planY (code : W16) : Bool := kindOf code == .e

/-- Submitter Admin (R279). -/
def adminOp (code : W16) : Bool :=
  let n := code.toNat
  decide (0x0101 ≤ n ∧ n ≤ 0x0103 ∨ 0x0200 ≤ n ∧ n ≤ 0x0203 ∨ n = 0x0303 ∨ 0x0400 ≤ n ∧ n ≤ 0x0402 ∨ n = 0x0800 ∨
    0x0802 ≤ n ∧ n ≤ 0x0805 ∨ 0x0900 ≤ n ∧ n ≤ 0x0902 ∨ 0x0F00 ≤ n ∧ n ≤ 0x0F04)

/-- Opcodes that R283 gives a kernel parameter block. -/
def kernelOp (code : W16) : Bool :=
  decide (0x0510 ≤ code.toNat ∧ code.toNat ≤ 0x0515 ∨ 0x0700 ≤ code.toNat ∧ code.toNat ≤ 0x0704)

/-- Runs of graphs reply for their nodes (R295). -/
def opIsRun : Op → Bool
  | .submitGraph .. => true
  | .graphRun .. => true
  | _ => false

/-- The step a command carries (R326). -/
def Cmd.step? (c : Cmd) : Option W32 := if kernelOp (opCode c.op) then some c.kb.step else none

def opIsOpt : Op → Bool
  | .optUpdate .. => true
  | _ => false

/-! ### Replies (R275) -/

/-- Phase code (R276). -/
def Phase.code : Phase → Nat
  | .committed => 0
  | .killed => 1
  | .partialEnd => 2

/-- What a reply says. -/
structure ReplyRec where
  seq : W32
  status : W16
  phase : Phase
  refusal : Bool := false
  detail : W64 := 0
  progress : Nat := 0
  opcode : W16
  ctx : CtxId
  gen : Byte
  used : Nat := 0
deriving DecidableEq, Repr

/-- The 32 bytes of a reply. -/
def ReplyRec.bytes (r : ReplyRec) (toggle : Bool) (tick : Nat) : List Byte :=
  le 4 r.seq.toNat ++ le 2 r.status.toNat ++ [BitVec.ofNat 8 r.phase.code, BitVec.ofNat 8 (bitAt toggle 0 + bitAt r.refusal 1)] ++
    le 8 r.detail.toNat ++ le 4 tick ++ le 4 (sat32 r.progress) ++ le 2 r.opcode.toNat ++ [BitVec.ofNat 8 r.ctx.val, r.gen] ++
    le 2 (min r.used 0xFFFF) ++ le 2 0

/-- Number of entries of a ring; the management ring holds 16 (R508). -/
def Ring.size (r : Ring) : Nat := 2 ^ r.log2sz

/-- TOGGLE of the next reply (R266). -/
def Ring.toggle (r : Ring) : Bool := r.cplTail.toNat / r.size % 2 == 0

/-- The management ring. -/
def mgtRing : RingId := 64

/-- An event of a ring: an MSI-X vector of the host, or an interrupt of the core that serves it (R177, R269). -/
def State.ringEvent (s : State) (r : RingId) (vector : Nat) : State :=
  if (s.ring r).core then s.modRing r fun x => { x with raised := vector :: x.raised } else s.msix vector

/-- Write a reply's bytes: to the completion ring, with the event of NOTIFY on an MSI-X vector (R177, R269); on the management ring NOTIFY sends the
reply on the side bus (R508). After CPL_WRITE_ERROR nothing is written (R267); with the host link down the entry is
consumed and the bytes are lost (R502). -/
def State.putReply (s : State) (ring : RingId) (notify : Bool) (vector : Nat) (bs : List Byte) : State :=
  let r := s.ring ring
  let bump := fun (s : State) => s.modRing ring fun r => { r with cplTail := r.cplTail + 1 }
  if ring = mgtRing then
    let s := s.modRing ring fun r => { r with cplTail := r.cplTail + 1, cplHead := r.cplTail + 1 }
    if notify then { s with mgt := { s.mgt with events := (0xF1, bs) :: s.mgt.events } } else s
  else if r.err = 4 then s
  else
    let a := r.cpl.toNat + 32 * (r.cplTail.toNat % r.size)
    if r.core then
      let s := bump (s.writeFw a bs)
      if notify then s.ringEvent ring vector else s
    else if s.pcie.up then
      let s := bump (s.writeHost a bs)
      if notify then s.ringEvent ring vector else s
    else bump s

/-- Reply to a packet, and keep the reply, the bitmap and the outcome in the ring's history (R274, R301). -/
def State.reply (s : State) (ring : RingId) (notify : Bool) (vector : Nat) (r : ReplyRec) (units : Nat) (done : List Nat)
    (after : List (CtxId × W32)) : State :=
  let bs := r.bytes (s.ring ring).toggle s.tick.now
  let s := s.putReply ring notify vector bs
  s.modRing ring fun x =>
    { x with
      hist := ({ seq := r.seq, ctx := r.ctx, phase := r.phase, status := r.status, units, done, reply := bs } :: x.hist).take x.size
      ends := ({ seq := r.seq, phase := r.phase, status := r.status, after } :: x.ends).take (2 * x.size) }

/-! ### Releasing what a command holds -/

/-- A bank becomes FREE and its epoch moves on (R137). -/
def Bank.release (b : Bank) : Bank := { b with state := .free, cid := 0, seq := 0, handle := 0, epoch := b.epoch + 1 }

/-- Free a command's FILL banks, and its SHADOW banks too unless they are to stay (R137). -/
def State.freeBanks (s : State) (cid : Nat) (shadow : Bool) : State :=
  { s with slices := s.slices.map fun x =>
      if x.banks.any (·.cid == cid) then
        { x with banks := x.banks.map fun b =>
            if b.cid = cid && cid != 0 && (b.state == .fill || (shadow && b.state == .shadow)) then b.release else b }
      else x }

/-- What a program slot holds once its program is gone: a program that had not ended is CANCELLED, and its last cursor stays (R155). -/
def Prog.leave (p : Prog) : Prog :=
  if p.wait = .ended then { cursor := p.cursor, ahead := p.ahead, faultId := p.faultId }
  else { wait := .cancelled, cursor := p.cursor, ahead := p.ahead, faultId := p.faultId }

/-- Granules of a program that its hub has been asked for: they still arrive (R152). -/
def Prog.asked (p : Prog) : List Granule := p.flight.filter (·.requested)

/-- Cancel a command's programs, and give its tiles' accumulator entries back (R106, R152). Granules in flight stay in flight. -/
def State.freePrograms (s : State) (cid : Nat) : State :=
  let (ctx, gen) : CtxId × Byte := (s.cmd? cid).elim (0, 0) fun c => (c.ctx, c.gen)
  { s with slices := s.slices.map fun x =>
      if x.progs.any (·.cid == cid) || x.tiles.any (·.1 == cid) then
        { x with progs := x.progs.map fun p => if p.cid = cid && cid != 0 then p.leave else p
                 late := x.late ++ (List.finRange 16).flatMap fun k =>
                   if (x.progs[k]).cid = cid && cid != 0 then (x.progs[k]).asked.map fun g => { slot := k, ctx, gen, gran := g } else []
                 tiles := x.tiles.filter fun t => t.1 != cid }
      else x }

/-- Descriptors all of whose bytes have landed (R176). -/
def Chan.doneDescs (ch : Chan) (ds : List DmaDesc) : List Nat :=
  (List.range ds.length).filter fun k => match (ds[k]? : Option DmaDesc) with
    | some d => decide (d.len ≤ assocD ch.landed k 0)
    | none => false

/-- The units of a transfer that have landed, as its channel counts them (R176). -/
def State.withDone (s : State) (c : Cmd) : Cmd :=
  match c.chan with
  | some k => if (s.chan k).cid = c.cid then { c with done := (s.chan k).doneDescs c.kb.descs } else c
  | none => c

/-- Bytes of context memory as a command sees them: a killable command keeps the frames it started with, whatever later commits
replace (R200). -/
def State.seenBytes (s : State) (c : Cmd) (va n : Nat) : List Byte :=
  (List.range n).map fun k => match c.frozen.find? fun x => x.1 == va + k with
    | some x => x.2
    | none => s.ctxByte c.ctx (va + k)

/-! ### Front-end queues (R166, R170) -/

def State.queue (s : State) (n : Nat) : FeQueue := s.serve.queues[(Fin.ofNat 64 n : Fin 64)]
def State.modQ (s : State) (n : Nat) (f : FeQueue → FeQueue) : State :=
  { s with serve := { s.serve with queues := vmod s.serve.queues (Fin.ofNat 64 n) f } }

/-- Bytes of bursts that a queue's counter has not passed. -/
def FeQueue.ahead (q : FeQueue) : Nat := (q.pend.map (·.len)).sum

/-- Append bytes to a transmit queue, or take bytes from the front of a receive queue. -/
def State.queuePush (s : State) (n : Nat) (bs : List Byte) : State :=
  { s with serve := { s.serve with queues := vmod s.serve.queues (Fin.ofNat 64 n) fun q =>
      { q with bytes := q.bytes ++ bs, prod := q.prod + bs.length } } }
def State.queueTake (s : State) (n len : Nat) : State :=
  { s with serve := { s.serve with queues := vmod s.serve.queues (Fin.ofNat 64 n) fun q =>
      { q with bytes := q.bytes.drop len, cons := q.cons + len } } }

/-- Bursts that have landed without a gap move on: their bytes go into a transmit queue, or leave a receive queue (R170). -/
def State.advanceQueue (s : State) (n : Nat) : Nat → State
  | 0 => s
  | k + 1 =>
    match (s.queue n).pend with
    | { len, data := some bs, .. } :: t =>
      let s := s.modQ n fun q => { q with pend := t }
      (if n < 0x20 then s.queuePush n bs else s.queueTake n len).advanceQueue n k
    | _ => s

/-- A command's bursts leave the front-end queues; bursts of other channels behind them move up (DESIGN CHOICE). -/
def State.dropSlots (s : State) (cid : Nat) : State :=
  (List.range 64).foldl (fun s n =>
    if (s.queue n).pend.any fun x => x.cid == cid then
      (s.modQ n fun q => { q with pend := q.pend.filter fun x => x.cid != cid }).advanceQueue n (s.queue n).pend.length
    else s) s

/-- A channel returns to IDLE; its byte count and level are those of the transfer that ended (R172, R177). -/
def Chan.idle (c : Chan) : Chan := { bytes := c.bytes, level := c.level, lastGrant := c.lastGrant }

/-- What TMU holds once a command has ended: none of its pending faults (R216), and no frame that only it still reads (R200). -/
def MemUnit.without (m : MemUnit) (cid : Nat) : MemUnit :=
  let m := { m with faults := m.faults.filter fun f => f.cid != cid }.settle
  { m with held := (m.held.map fun (h : HeldFrame) => { h with readers := h.readers.filter fun n => n != cid }).filter fun h => h.readers != [] }

/-- Give back what a command holds beside its banks: programs, tiles, placements, channel, shadow pool, pending faults,
the state of its collective. -/
def State.releaseCmd (s : State) (c : Cmd) : State :=
  let s := s.freePrograms c.cid
  let s := match c.chan with
    | some k => (s.modChan k Chan.idle).dropSlots c.cid
    | none => s
  let s := s.modCtx c.ctx fun x => { x with shUse := x.shUse - (if c.state = .issued ∨ c.state = .committing then c.shNeed else 0) }
  let s := s.modMem fun m => m.without c.cid
  let s := { s with cle := { s.cle with colls := s.cle.colls.filter fun x => x.cid != c.cid
                                        fences := s.cle.fences.filter fun x => x.cid != c.cid } }
  s.modSched fun g => { g with plan := g.plan.filter fun p => p.cid != c.cid, stopping := g.stopping.filter fun p => p.2 != c.cid }

/-! ### The budget clock (R311, R313) -/

/-- Clock time of the attempt in sixteenths: what the units report, 0 for a command that was not started, and a free
value where the spec gives the model no clock. -/
def State.clockOf (s : State) (c : Cmd) (used : Option Nat) : Nat × State :=
  match used with
  | some u => (u, s)
  | none =>
    if c.state = .issued ∨ c.state = .committing then
      if planY (opCode c.op) && !c.issuing then (0, s) else (Config.freeNat s.free, { s with free := s.free + 1 })
    else (0, s)

/-- Charge the overrun of a command placed in tick plans to its context and class (R313). -/
def State.chargeDebt (s : State) (c : Cmd) (clock : Nat) : State :=
  if planY (opCode c.op) then
    let extra := (clock - c.budget) + c.charge
    if extra = 0 then s
    else (s.modCtx c.ctx fun x => { x with debt := vmod x.debt c.prio fun d => sat32 (d + extra) }).count offOverrun c.ctx.val extra
  else s

/-! ### Semaphores (R320) -/

def State.semCount (s : State) (k : SemId) : Nat := assocD s.sched.sems k 0
def State.setSem (s : State) (k : SemId) (n : Nat) : State :=
  s.modSched fun g => { g with sems := if n = 0 then assocDrop g.sems k else assocSet g.sems k n }

/-- Add to a semaphore; an addition past 65,535 saturates and raises a WARN (R320). -/
def State.addSem (s : State) (x : CtxId) (k : SemId) (v : Nat) : State :=
  let n := s.semCount k + v
  if n ≤ 65535 then s.setSem k n
  else (s.setSem k 65535).raise evSemSaturate unitGsc (some x) none [BitVec.ofNat 32 k.val]

def State.subSem (s : State) (k : SemId) (v : Nat) : State := s.setSem k (s.semCount k - v)

def isRelease : Op → Bool
  | .semRelease .. => true
  | _ => false

/-! ### Collectives that end (R378) -/

def isColl (code : W16) : Bool := decide (0x0700 ≤ code.toNat ∧ code.toNat ≤ 0x0704)

/-- RID of a collective: of its geometry; a moving opcode has none, and goes by the TID of its first tensor. DESIGN CHOICE. -/
def Cmd.rid (c : Cmd) : W32 := (c.kb.geom.map (·.rid)).getD ((c.kb.tens.head?.map (·.tid)).getD 0)
/-- Own rank of a collective. -/
def Cmd.rank (c : Cmd) : Nat := leAt c.kb.op 2 2

/-- A collective that ends otherwise than committed sends an ABORT with its rank and status to every other rank. -/
def State.sendAborts (s : State) (c : Cmd) (status : W16) : State :=
  if !isColl (opCode c.op) || status == stOk || status == stRescaled then s
  else
    (c.kb.members.filter fun m => m.ident != s.fab.ident).foldl (fun s m =>
      (s.trySend ptColl c.prio m.ident m.ctx m.gen 0 (le 8 status.toNat ++ le 4 c.rid.toNat ++ [2, 0, 0, 0] ++ le 4 0 ++ le 2 0 ++ le 2 c.rank) 0).1) s

/-! ### Ends -/

/-- Record a command's end for its step (R327): how many ended, and the first admitted that did not commit; nodes of a run
count as admitted with the run, in ascending number. -/
def Ctx.noteStep (x : Ctx) (t : W32) (cid : Nat) (seq : W32) (phase : Phase) (status : W16) : Ctx :=
  let old := x.steps.find? fun e => e.1 == t
  let n := match old with
    | some (_, n, _) => n
    | none => 0
  let bad := match old with
    | some (_, _, b) => b
    | none => none
  let bad := if phase = .committed then bad
    else match bad with
      | some (o, q, st) => if cid < o then some (cid, seq, status) else some (o, q, st)
      | none => some (cid, seq, status)
  { x with steps := (t, n + 1, bad) :: x.steps.filter fun e => e.1 != t }

/-- Mark what waited for a command: a commit leaves their list, any other end goes down with its SEQ and status
(R274, R328). -/
def Cmd.afterEnd (d : Cmd) (c : Cmd) (phase : Phase) (status : W16) : Cmd :=
  let waits := d.preds.contains c.cid || (d.acquire == some c.cid && phase != .committed) ||
    (d.fenceWait && decide (d.ctx = c.ctx) &&
      (match c.op with
       | .stepFence t => decide (d.kb.step = t)
       | _ => false))
  if !waits then d
  else if phase = .committed then
    { d with preds := d.preds.filter (· != c.cid), fenceWait := d.fenceWait && d.preds.contains c.cid }
  else
    match d.bad with
    | some _ => d
    | none => { d with bad := some (c.seq, status) }

/-- Units a reply counts (R299); a QUERY_PROGRESS counts the bits it found set (R300), a transfer the descriptors that
landed whole, which shows the shortfall of a DRAIN (R172, R176). -/
def progressOf (c : Cmd) (phase : Phase) : Nat :=
  match c.op with
  | .queryProgress .. => c.done.length
  | .dmaStart .. => c.done.length
  | _ => if phase = .committed then c.units else c.done.length

/-- Outcome of a node within its run. -/
def State.noteNode (s : State) (run : Nat) (node : Nat) (e : NodeEnd) : State :=
  s.modSched fun g => { g with runs := g.runs.map fun r => if r.cid = run then { r with ends := r.ends.set (node - 1) e } else r }

/-- A WGT_LOAD that does not commit (R229, R232): its slot returns to EMPTY, every page of the range to ZERO, and commands
that waited to read the range end. -/
def State.unload (s : State) (c : Cmd) : State :=
  match c.op with
  | .wgtLoad img slot _ _ _ _ _ _ _ =>
    let k : WSlotId := Fin.ofNat 8 slot.toNat
    let w := (s.ctx c.ctx).wslots[k]
    if (c.state = .issued ∨ c.state = .committing) ∧ w.state = .loading then
      let s := s.modCtx c.ctx fun x => { x with wslots := vmod x.wslots k fun _ => {} }
      let local_ := ceilDiv ((s.memUnit.pages.filter fun p => p.inRange c.ctx w.va w.len && decide (p.tier = .t2) && !p.zero).foldl
        (fun n p => n + p.size.units) 0) 32
      let s := s.setMem (memClear s.mem (ctxKey c.ctx w.va) w.len)
      let s := (s.modMem fun m => { m with scrub := m.scrub + local_ }).modPages (fun p => p.inRange c.ctx w.va w.len) fun p =>
        { p with zero := true, poison := false, lost := false }
      s.modSched fun g => { g with cmds := g.cmds.map fun d =>
        if d.ctx = c.ctx ∧ ((d.state = .placed ∧ d.tick ≤ s.tick.now) ∨ (d.state = .ready ∧ !planY (opCode d.op))) ∧ (d.ranges.any fun b => b.r && overlaps b.va b.len w.va w.len) then
          { d with doom := some (stWeightUnavailable, BitVec.ofNat 64 (3 * 2 ^ 60 + k.val * 2 ^ 57 + img.toNat * 2 ^ 49)) }
        else d }
    else s
  | _ => s

/-- Resident graphs of a context leave firmware memory (R295, R545). -/
def State.dropGraphs (s : State) (c : CtxId) (q : Graph → Bool) : State :=
  let gone := s.sched.graphs.filter fun x => decide (x.ctx = c) && q x
  (s.modSched fun g => { g with graphs := g.graphs.filter fun x => !(decide (x.ctx = c) && q x) }).modMem fun m =>
    { m with fwGraphs := m.fwGraphs - (gone.map (·.frames)).sum }

/-- Units of 64 bytes that have arrived for a command on an engine and that no unit has read (R153). -/
def Slice.unread (x : Slice) (cid : Nat) : Nat :=
  ceilDiv ((x.progs.toList.filter fun p => p.cid == cid && cid != 0).map fun p => (p.bufs.toList.map (·.unread)).sum).sum 64

/-- Programs of a command that have not ended are cancelled on each engine: GLB_STE_CANCEL; what had arrived unread is waste (R152,
R153). -/
def State.countCancels (s : State) (cid : Nat) : State :=
  (List.finRange 64).foldl (fun s e =>
    let n := ((s.slice e).progs.toList.filter fun p => p.cid == cid && cid != 0 && p.wait != .ended).length
    let w := (s.slice e).unread cid
    let s := if n = 0 then s else s.count offCancel e.val n
    if w = 0 then s else s.count offWaste e.val w) s

/-- One command ends: it gives everything back, its reply is written (a node's outcome goes to its run), its step and
its debt are recorded, and those that wait for it are marked. -/
def State.endOne (s : State) (c : Cmd) (phase : Phase) (status : W16) (detail : W64) (used : Option Nat) : State :=
  let c := s.withDone c
  let (clock, s) := s.clockOf c used
  let s := if phase = .committed then s else s.countCancels c.cid
  let s := s.releaseCmd c
  let s := if phase = .committed ∨ c.fixed then s else (s.cancelAttempt c.attempt).unload c
  let s := s.sendAborts c status
  let s := s.freeBanks c.cid (phase != .committed)
  let s := s.modSched fun g => { g with cmds := (g.cmds.filter fun x => x.cid != c.cid).map fun d => d.afterEnd c phase status }
  let s := s.chargeDebt c clock
  let s := match c.step? with
    | some t => if opIsOpt c.op then s else s.modCtx c.ctx fun x => x.noteStep t (c.run.getD c.cid * 2 ^ 17 + c.node) c.seq phase status
    | none => s
  let s := match c.op with
    | .stepFence t => s.modCtx c.ctx fun x => { x with fenceEnds := (t, c.seq, decide (phase = Phase.committed), status) :: x.fenceEnds }
    | .submitGraph g .. =>
      if phase = Phase.committed then s else s.dropGraphs c.ctx fun x => x.slot.val == g.toNat && !x.ready
    | .graphRelease g =>
      if phase = Phase.committed then s.dropGraphs c.ctx fun x => x.slot.val == g.toNat
      else s.modSched fun h =>
        { h with graphs := h.graphs.map fun (x : Graph) => if x.ctx = c.ctx ∧ x.slot.val = g.toNat then { x with releasing := false } else x }
    | _ => s
  match c.run with
  | some r => s.noteNode r c.node (.ended phase status)
  | none =>
    s.reply c.ring c.notify (match c.chan with
        | some k => 64 + k.val
        | none => c.ring.val)
      { seq := c.seq, status, phase, detail, progress := progressOf c phase, opcode := (opCode c.op), ctx := c.ctx, gen := c.gen,
        used := clock } c.units (if decide (phase = Phase.killed) && !opIsRun c.op then [] else c.done) c.after

/-- DETAIL that names a command and its status (R274). -/
def causeDetail (seq : W32) (status : W16) : W64 := BitVec.ofNat 64 (seq.toNat * 2 ^ 32 + status.toNat)

/-- End a partner of a section, if it has not ended. -/
def State.endPartner (s : State) (cid : Option Nat) (phase : Phase) (status : W16) (detail : W64) : State :=
  match cid.bind s.cmd? with
  | some x => s.endOne x phase status detail (some 0)
  | none => s

/-- The guarded command of an acquire ends (R322, R323). Killable: with its commit the claim becomes a subtraction and the
acquire commits, or the whole section commits and the count stays; otherwise the acquire ends KILLED. FIXED: the hold ends
and the closing release takes effect, whatever the phase. An acquire may itself be the guarded command of another. -/
def State.endPartners (s : State) (c : Cmd) (phase : Phase) (status : W16) : Nat → State
  | 0 => s
  | n + 1 =>
    match c.acquire.bind s.cmd? with
    | none =>
      match c.hold with
      | some (k, v) => (s.addSem c.ctx k v).endPartner c.closing .committed stOk 0
      | none => s
    | some a =>
      if phase = .committed then
        let s := match c.closing.bind s.cmd?, c.claim with
          | some _, _ => s
          | none, some (k, v) => s.subSem k v
          | none, none => s
        ((s.endPartner (some a.cid) .committed stOk 0).endPartner c.closing .committed stOk 0).endPartners a .committed stOk n
      else (s.endPartner (some a.cid) .killed stKilled (causeDetail c.seq status)).endPartners a .killed stKilled n

/-- A command ends, with its section. -/
def State.endBoth (s : State) (c : Cmd) (phase : Phase) (status : W16) (detail : W64) (used : Option Nat) : State :=
  (s.endOne c phase status detail used).endPartners c phase status (s.sched.cmds.length + 1)

/-- A waiting command whose predecessor ended KILLED or PARTIAL (R274), or one whose weights failed to load (R232). -/
def Cmd.doomed (c : Cmd) : Bool := ((c.state == .waiting || c.acquire.isSome) && c.bad.isSome) || c.doom.isSome

/-- Commands that a first end dooms end too, in admission order. -/
def State.endDoomed (s : State) : Nat → State
  | 0 => s
  | k + 1 =>
    match s.sched.cmds.find? Cmd.doomed with
    | none => s
    | some c =>
      match c.doom, c.bad with
      | some (st, d), _ => (s.endBoth c .killed st d (some 0)).endDoomed k
      | none, none => s
      | none, some (q, st) =>
        (s.endBoth c .killed stKilled (causeDetail q st) (some 0)).endDoomed k

/-- A waiting command all of whose predecessors have committed becomes READY, at the tail of its queue (R303, R304). -/
def State.readyAll (s : State) : State :=
  let step (acc : List Cmd × Nat) (c : Cmd) : List Cmd × Nat :=
    if c.state = .waiting ∧ c.preds = [] ∧ !c.fenceWait ∧ c.bad = none then
      ({ c with state := .ready, readyNo := acc.2 } :: acc.1, acc.2 + 1)
    else (c :: acc.1, acc.2)
  let r := s.sched.cmds.foldl step ([], s.sched.nextReady)
  s.modSched fun g => { g with cmds := r.1.reverse, nextReady := r.2 }

/-- Count of an end among the nodes of a run. -/
def Run.countEnds (r : Run) (p : NodeEnd → Bool) : Nat := (r.ends.filter p).length

def NodeEnd.isEnded : NodeEnd → Bool
  | .notEnded => false
  | .ended .. => true
def NodeEnd.isCommitted : NodeEnd → Bool
  | .ended .committed _ => true
  | _ => false
def NodeEnd.isRescaled : NodeEnd → Bool
  | .ended .committed st => st == stRescaled
  | _ => false
def NodeEnd.status : NodeEnd → W16
  | .ended _ st => st
  | .notEnded => 0

/-- Indices of the nodes of a run that committed. -/
def Run.committedNodes (r : Run) : List Nat :=
  (List.range r.ends.length).filter fun k => (r.ends.getD k .notEnded).isCommitted

/-- The reply of a run all of whose nodes have ended (R296): phase, status, DETAIL. -/
def Run.outcome (r : Run) : Phase × W16 × W64 :=
  match (List.range r.ends.length).find? fun k => !(r.ends.getD k .notEnded).isCommitted with
  | none => (.committed, stOk, BitVec.ofNat 64 (r.countEnds NodeEnd.isRescaled))
  | some k =>
    let bad := r.countEnds fun e => !e.isCommitted
    (.killed, (r.ends.getD k .notEnded).status,
      BitVec.ofNat 64 (k % 2 ^ 16 * 2 ^ 48 + (r.ends.getD k .notEnded).status.toNat * 2 ^ 32 + bad))

/-- A run all of whose nodes have ended replies once, and leaves the slot to the next. -/
def State.endRuns (s : State) : State :=
  (s.sched.runs.filter fun r => r.ends.all NodeEnd.isEnded).foldl (fun s r =>
    let s := s.modSched fun g => { g with runs := g.runs.filter fun x => x.cid != r.cid }
    match s.cmd? r.cid with
    | none => s
    | some c =>
      let (ph, st, d) := r.outcome
      s.endOne { c with done := r.committedNodes, units := if ph = .committed then c.units else c.units } ph st d none) s

/-- A command ends, and all that follows from its end comes about: dependents end or become READY, runs reply. -/
def State.endCmd (s : State) (c : Cmd) (phase : Phase) (status : W16) (detail : W64) (used : Option Nat := none) : State :=
  let n := s.sched.cmds.length
  let s := (s.endBoth c phase status detail used).endDoomed n
  ((s.endRuns).endDoomed n).readyAll

/-- End a command that fails in its own way: KILLED when killable or not begun, PARTIAL when FIXED and issued. -/
def State.failCmd (s : State) (c : Cmd) (status : W16) (detail : W64) (used : Option Nat := none) : State :=
  s.endCmd c (if c.fixed && (c.state == .issued || c.state == .committing) then .partialEnd else .killed) status detail used

/-- The command of an id fails, if it has not ended. -/
def State.failCid (s : State) (cid : Nat) (status : W16) (detail : W64) : State :=
  match s.cmd? cid with
  | none => s
  | some c => s.failCmd c status detail

/-- A command of this module whose packet is lost ends with ST_FAULT_UNRESOLVED, cause TIER_LOST (R343). -/
def State.lostOwn (s : State) (cid cause : Nat) : State := s.failCid cid stFaultUnresolved (BitVec.ofNat 64 (cause % 16 * 2 ^ 44))

end Sys2Proof.Machine
end

