-- ==== Sys2Proof/Machine/Sched.lean ====
section
/-! DEFINITION. GSC: the tick plan, semaphores, allotment of resources, kill and rerun (R305-R325). -/
namespace Sys2Proof.Machine

/-! ### Time -/

/-- Fabric time at which a tick begins, in 1/16 ns: B + (n - NB) × TCAL (R348). -/
def Tick.startOf (t : Tick) (n : Nat) : Nat := t.baseT + (n - t.baseN) * t.tcal * 400000

/-- Fabric time of the start of a tick, ns. -/
def State.tickNs (s : State) (t : Nat) : Nat := s.tick.startOf t / 16

/-- A time within the current tick, ns: where in the tick an event falls is open, a free value. -/
def State.someNs (s : State) : Nat := s.tickNs s.tick.now + Config.freeNat s.free % (s.tick.tcal * 25000)

/-! ### Rows (R305) -/

/-- Ranks and elements of a collective's descriptor (R361). -/
def collP (c : Cmd) : Nat := leAt c.kb.op 4 4
def collElems (c : Cmd) : Nat := leAt c.kb.op 0x10 6

def isDmaStart (code : W16) : Bool := code == 0x0600

/-- Rows a command uses: its logical engines 0-63, the CLE row 64, the DMA row 65. A collective on one rank, or of no
element, draws nothing from the CLE row (R375). -/
def rowsOf (c : Cmd) : List Nat :=
  let code := opCode c.op
  if isColl code then (if collP c ≤ 1 ∨ collElems c = 0 then [] else [64])
  else if isDmaStart code then [65]
  else c.kb.engs.map (·.eng.val)

/-- Capacity of the CLE row: LEN0 + LEN1 (R352, R373). -/
def State.cleCap (s : State) : Nat := s.tick.len0 + s.tick.len1

def State.rowCap (s : State) (row : Nat) : Nat := if row < 64 then 16 else if row = 64 then s.cleCap else 512

/-- Scale a limit in sixteenths of a tick to a row (R307). -/
def State.scaleTo (s : State) (row n : Nat) : Nat := if row < 64 then n else if row = 64 then min s.cleCap n else 32 * n

/-- Sixteenths repaid by a context and class in the current tick. -/
def Sched.repaidBy (g : Sched) (x : CtxId) (k : PrioClass) : Nat :=
  match g.repaid.find? fun r => decide (r.1 = x) && decide (r.2.1 = k) with
  | some (_, _, n) => n
  | none => 0

/-- Capacity of a context and class in a row of a tick (R312, R313); context 0 has no share limit. -/
def State.shareCap (s : State) (x : CtxId) (k : PrioClass) (row t : Nat) : Nat :=
  if x = 0 then s.rowCap row
  else
    let r := if t = s.tick.now then s.sched.repaidBy x k else 0
    s.scaleTo row (s.ctx x).share - (if row = 65 then 32 * r else r)

/-- ROLE codes (R21). -/
def roleTrain : Fin 4 := 0
def roleLive : Fin 4 := 1
def roleBulk : Fin 4 := 2
def roleMixed : Fin 4 := 3
def roleServeLive : Fin 4 := 1

/-- Order in which a ROLE scans classes (R309); a class it does not scan follows in ascending number. -/
def scanned : Fin 4 → List PrioClass
  | 0 => [2, 3]
  | 1 => [0, 1, 3]
  | 2 => [1, 3]
  | 3 => [0, 2, 1, 3]

def scanOrder (role : Fin 4) : List PrioClass := scanned role ++ ([0, 1, 2, 3] : List PrioClass).filter fun k => !(scanned role).contains k

/-- Order in which classes are displaced: those not scanned from the highest down, then the scanned in reverse. -/
def displaceOrder (role : Fin 4) : List PrioClass :=
  (([3, 2, 1] : List PrioClass).filter fun k => !(scanned role).contains k) ++ ((scanned role).reverse.filter (· != 0))

/-- Sixteenths of a row in a tick that placements with a property hold. -/
def State.planned (s : State) (row t : Nat) (q : Cmd → Bool) : Nat :=
  (s.sched.plan.filter fun p => p.tick == t).foldl (fun n p =>
    match s.cmd? p.cid with
    | some c => if (rowsOf c).contains row && q c then n + p.amt else n
    | none => n) 0

/-- The three conditions of R307 for one row of one tick; `alone` leaves placements of other classes aside. -/
def State.rowFits (s : State) (c : Cmd) (row t amt : Nat) (alone : Bool) : Bool :=
  decide (s.planned row t (fun d => !alone || decide (d.prio = c.prio)) + amt ≤ s.rowCap row) &&
    decide (s.planned row t (fun d => decide (d.ctx = c.ctx) && decide (d.prio = c.prio)) + amt ≤ s.shareCap c.ctx c.prio row t) &&
    (decide (s.mode.roleNow ≠ roleMixed) || decide (c.prio ≠ 0) ||
      decide (s.planned row t (fun d => decide (d.prio = 0)) + amt ≤ s.scaleTo row s.sched.liveMax))

def State.tickFits (s : State) (c : Cmd) (t amt : Nat) (alone : Bool) : Bool :=
  (rowsOf c).all fun r => s.rowFits c r t amt alone

/-- Sixteenths a command may hold in one tick (R308, R373). -/
def State.holdOf (s : State) (c : Cmd) : Nat :=
  let cap := if (rowsOf c).contains 64 then s.cleCap else 16
  (rowsOf c).foldl (fun h r =>
    let h := if c.ctx = 0 then h else min h (s.scaleTo r (s.ctx c.ctx).share)
    if s.mode.roleNow = roleMixed ∧ c.prio = 0 then min h (s.scaleTo r s.sched.liveMax) else h) cap

/-- Largest budget that one tick holds for a command's row. -/
def State.oneTick (s : State) (c : Cmd) : Nat := if (rowsOf c).contains 64 then s.cleCap else 16

/-- Amounts by tick of a placement that starts at t: one tick, or H in each of floor(b / H) ticks and the rest after
them, cut at the end of the horizon (R308). The answer is the list and what is left beyond the horizon. -/
def State.spread (s : State) (c : Cmd) (t : Nat) : List (Nat × Nat) × Nat :=
  if c.budget ≤ s.oneTick c then ([(t, c.budget)], 0)
  else
    let h := s.holdOf c
    if h = 0 then ([], c.budget)
    else
      let n := ceilDiv c.budget h
      let room := s.tick.now + 16 - t
      if n ≤ 16 then ((List.range n).map fun k => (t + k, min h (c.budget - k * h)), 0)
      else ((List.range room).map fun k => (t + k, h), c.budget - room * h)

/-- A placement at t lies in the horizon and meets R307 in every tick. -/
def State.spreadFits (s : State) (c : Cmd) (t : Nat) (alone : Bool) : Bool :=
  let (l, _) := s.spread c t
  !l.isEmpty && l.all fun x => decide (x.1 < s.tick.now + 16) && s.tickFits c x.1 x.2 alone

/-- Make a placement. -/
def State.place (s : State) (c : Cmd) (t : Nat) : State :=
  let (l, left) := s.spread c t
  (s.modSched fun g => { g with plan := g.plan ++ l.map fun x => { cid := c.cid, tick := x.1, amt := x.2 } }).modCmd c.cid fun d =>
    { d with state := .placed, tick := t, planLeft := left }

/-- Take back a command's placements. -/
def State.unplace (s : State) (cid : Nat) : State :=
  s.modSched fun g => { g with plan := g.plan.filter fun p => p.cid != cid }

/-- A command fits no tick of the horizon: it stays READY and is tried again at the next tick (R307). -/
def State.unplaced (s : State) (c : Cmd) : State := s.modCmd c.cid fun d => { d with tried := some s.tick.now }

/-- Place a command at the earliest tick from a first one (R307). -/
def State.placeFrom (s : State) (c : Cmd) (first : Nat) : State :=
  match (List.range (s.tick.now + 16 - first)).find? fun k => s.spreadFits c (first + k) false with
  | some k => s.place c (first + k)
  | none => s.unplaced c

/-! ### Displacement (R309) -/

/-- Position of a class in the order of displacement. -/
def displaceRank (role : Fin 4) (k : PrioClass) : Nat := ((displaceOrder role).findIdx? (· == k)).getD 9

/-- The next placement to displace in a tick for a command's rows: by class, then the most recent. -/
def State.nextDisplaced (s : State) (c : Cmd) (t amt : Nat) : Option Cmd :=
  let tight := (rowsOf c).filter fun r => decide (s.rowCap r < s.planned r t (fun _ => true) + amt)
  ((s.sched.plan.filter fun p => p.tick == t).filterMap fun p => s.cmd? p.cid).foldl
    (fun best d =>
      if d.prio = c.prio ∨ !((rowsOf d).any fun r => tight.contains r) then best
      else match best with
        | none => some d
        | some b => if displaceRank s.mode.roleNow b.prio < displaceRank s.mode.roleNow d.prio then some b else some d) none

/-- Displace placements of a tick until the command fits: an issued command loses its place only and runs on. The
answer lists the commands to place again, first displaced last. -/
def State.displace (s : State) (c : Cmd) (t amt : Nat) : Nat → List Nat → State × List Nat
  | 0, out => (s, out)
  | k + 1, out =>
    match s.nextDisplaced c t amt with
    | none => (s, out)
    | some d =>
      if d.state = .placed then
        ((s.unplace d.cid).modCmd d.cid fun x => { x with state := .ready, planLeft := 0 }).displace c t amt k (d.cid :: out)
      else
        (s.modSched fun g => { g with plan := g.plan.filter fun p => !(p.cid == d.cid && p.tick == t) }).displace c t amt k out

/-- Place a class 0 command at a tick, displacing other classes; the displaced take the earliest later tick. -/
def State.placeLive (s : State) (c : Cmd) (t : Nat) : State :=
  let (s', out) := ((s.spread c t).1).foldl (fun (acc : State × List Nat) x =>
    let (a, o) := acc.1.displace c x.1 x.2 acc.1.sched.plan.length []
    (a, acc.2 ++ o)) (s, [])
  let s' := s'.place c t
  out.foldl (fun s d => match s.cmd? d with
    | some x => if x.state = .ready then s.placeFrom x (t + 1) else s
    | none => s) s'

/-- Place one READY command (R307-R309). A class 0 command takes the current tick, or is deferred to the next. -/
def State.placeCmd (s : State) (c : Cmd) : State :=
  if rowsOf c = [] then s.place { c with budget := 0 } s.tick.now
  else if c.prio = 0 then
    if s.spreadFits c s.tick.now true then s.placeLive c s.tick.now
    else if s.spreadFits c (s.tick.now + 1) true then (s.placeLive c (s.tick.now + 1)).count offDefer 0 1
    else s.unplaced c
  else s.placeFrom c s.tick.now

/-- READY commands of a class, in queue order. -/
def State.readyOf (s : State) (k : PrioClass) : List Cmd :=
  sortBy (·.readyNo) (s.sched.cmds.filter fun c => c.state == .ready && c.prio == k && planY (opCode c.op) && !c.mismatch && c.tried != some s.tick.now &&
    !(c.kb.engs.any fun d => (s.slice d.eng).out))

/-- Try every READY command once, class by class in the scan order of the ROLE. -/
def State.placeAll (s : State) : State :=
  (scanOrder s.mode.roleNow).foldl (fun s k => (s.readyOf k).foldl (fun s c =>
    match s.cmd? c.cid with
    | some d => if d.state = .ready then s.placeCmd d else s
    | none => s) s) s

/-! ### Semaphores (R320-R325) -/

/-- Tentative claims against a semaphore. -/
def State.claims (s : State) (k : SemId) : Nat :=
  s.sched.cmds.foldl (fun n c => match c.claim with
    | some (j, v) => if j = k then n + v else n
    | none => n) 0

/-- The available value: the count minus the claims. -/
def State.semAvail (s : State) (k : SemId) : Nat := s.semCount k - s.claims k

/-- An acquire may be granted: its value is available and no earlier acquire of the same or a lower class waits (R321). -/
def State.grantable (s : State) (a : Cmd) : Bool :=
  match semOf a.op with
  | none => false
  | some (k, v) =>
    decide (v ≤ s.semAvail k) &&
      !(s.sched.cmds.any fun b => s.acquireWaits b && decide (b.cid ≠ a.cid) && decide ((semOf b.op).map (·.1) = some k) &&
        (decide (b.prio < a.prio) || (decide (b.prio = a.prio) && decide (b.readyNo < a.readyNo))))

/-! ### Allotment (R310, R137, R163, R198-R201) -/

/-- Commands issued on an engine. -/
def State.issuedOn (s : State) (e : EngineId) : List Cmd :=
  s.sched.cmds.filter fun c => (c.state == .issued || c.state == .committing) && c.kb.engs.any (·.eng == e)

/-- FREE banks of a slice in the order GSC takes them for a context (R137). -/
def Slice.freeBanks (x : Slice) (c : CtxId) (g : Byte) : List (Fin 16) :=
  let free := (List.finRange 16).filter fun b => x.banks[b].state == .free
  (free.filter fun b => x.banks[b].owner == some (c, g)) ++ (free.filter fun b => x.banks[b].owner == none) ++
    free.filter fun b => x.banks[b].owner != some (c, g) && x.banks[b].owner != none

def Slice.freeSlots (x : Slice) : List (Fin 16) := (List.finRange 16).filter fun p => x.progs[p].cid == 0

/-- Images of an engine entry that are programs, with their relative slots. -/
def EngD.programs (d : EngD) : List (Nat × List W64) :=
  ((List.range d.images.length).zip d.images).filter fun x => !x.2.isEmpty

/-- An engine has the banks and program slots a command asks for, room for a further command, and is in service. -/
def State.engineFree (s : State) (c : Cmd) (d : EngD) : Bool :=
  let x := s.slice d.eng
  decide (d.banks ≤ (x.freeBanks c.ctx c.gen).length) && decide (d.programs.length ≤ x.freeSlots.length) &&
    decide ((s.issuedOn d.eng).length < 8) && !x.out

/-- Zero the bytes of a bank (R137). -/
def State.zeroBank (s : State) (e : EngineId) (b : Fin 16) : State := s.setMem (memClear s.mem (lstKey e b.val 0) (2 ^ 18))

/-- Give a command its banks and program slots on one engine: banks become FILL, zeroed for a new owner; programs
start. -/
def State.takeEngine (s : State) (c : Cmd) (d : EngD) : State :=
  let x := s.slice d.eng
  let bs := (x.freeBanks c.ctx c.gen).take d.banks
  let s := bs.foldl (fun s b =>
    if (s.slice d.eng).banks[b].owner = some (c.ctx, c.gen) ∨ (s.slice d.eng).banks[b].owner = none then s else s.zeroBank d.eng b) s
  let s := s.modSlice d.eng fun x =>
    { x with banks := bs.foldl (fun v b => vmod v b fun k =>
        { k with state := .fill, owner := some (c.ctx, c.gen), cid := c.cid, seq := c.seq }) x.banks }
  let ps := (d.programs).zip x.freeSlots
  let s := s.modSlice d.eng fun x =>
    { x with progs := ps.foldl (fun v q => vmod v q.2 fun p => { p.leave with cid := c.cid, rel := q.1.1, image := q.1.2, ahead := [], wait := .running }) x.progs }
  s.modCmd c.cid fun k => { k with banks := k.banks ++ [(d.eng, bs)] }

/-- 64-byte lines and pages that two commands' descriptors share. -/
def linesClash (a b : List BufD) : Bool :=
  a.any fun x => x.w && b.any fun y => y.w &&
    overlaps (x.va / 64 * 64) (roundUp (x.va % 64 + x.len) 64) (y.va / 64 * 64) (roundUp (y.va % 64 + y.len) 64) &&
    x.len != 0 && y.len != 0

/-- Pages that writable descriptors of a context touch, by first address. -/
def State.writtenPages (s : State) (c : CtxId) (bs : List BufD) : List Nat :=
  (s.memUnit.pages.filter fun p => decide (p.ctx = c) && bs.any fun b => b.w && overlaps p.va p.size.bytes b.va b.len).map (·.va)

/-- R201: the order of writers of a line, and of FIXED writers of a page. -/
def State.writeOrderOk (s : State) (c : Cmd) : Bool :=
  (s.cmdsOf c.ctx).all fun d =>
    d.cid == c.cid || !(d.state == .issued || d.state == .committing) ||
      (!linesClash d.ranges c.ranges &&
        (!(c.fixed || d.fixed) ||
          (s.writtenPages c.ctx c.ranges).all fun p => !(s.writtenPages c.ctx d.ranges).contains p))

/-- The shadow pool has room for a command's need (R198); context 0 has no quota. -/
def State.poolFits (s : State) (c : Cmd) : Bool :=
  decide (c.ctx = 0) || decide ((s.ctx c.ctx).shUse + s.heldUnits c.ctx + c.shNeed ≤ 32 * (s.ctx c.ctx).quotaSh)

/-- A descriptor that reads a weight slot's range while it loads (R232). -/
def State.readsLoading (s : State) (c : Cmd) : Bool :=
  (s.ctx c.ctx).wslots.toList.any fun w => w.state == .loading && c.ranges.any fun b => b.r && overlaps b.va b.len w.va w.len

/-- The IDLE channel a command takes: the one it names or, for 63, the lowest its context may use; 30 and 31 are for
context 0 (R162, R163). -/
def State.channelFor (s : State) (c : CtxId) (chan : Nat) : Option ChanId :=
  if chan = 63 then (List.finRange 32).find? fun k => (s.chan k).state == .idle && (decide (c = 0) || decide (k.val < 30))
  else
    let k : ChanId := Fin.ofNat 32 chan
    if (s.chan k).state = .idle then some k else none

/-- Bring the pages under a killable command's writable descriptors into T2, except PIN_T3 pages (R199): the first page
for which there is no room is answered. -/
def State.bringRanges (s : State) (c : Cmd) : State × Option Page :=
  (s.memUnit.pages.filter fun p => decide (p.ctx = c.ctx) && c.ranges.any fun b => b.w && overlaps p.va p.size.bytes b.va b.len).foldl
    (fun (acc : State × Option Page) p =>
      match acc.2 with
      | some _ => acc
      | none =>
        match acc.1.pageAt? c.ctx p.va with
        | none => acc
        | some q =>
          if acc.1.effHint q = .pinT3 then
            (if q.zero then match acc.1.resolvePage q c.bufRanges with
              | some s => (s, none)
              | none => (acc.1, some q)
             else acc)
          else match (if q.migrating then acc.1.finishCopy q else acc.1).bringT2 q true c.bufRanges with
            | some s => (s, none)
            | none => (acc.1, some q)) (s, none)

/-- Input LST handles a command names on an engine: the tensors with PROG 0xFF. -/
def Cmd.inHandles (c : Cmd) (outputs : List Nat) : List TenD :=
  ((List.range c.kb.tens.length).zip c.kb.tens).filterMap fun x => if x.2.prog = 0xFF ∧ !outputs.contains x.1 then some x.2 else none

/-- A handle is VISIBLE in a context on an engine. -/
def State.handleVisible (s : State) (c : Cmd) (e : EngineId) (h : W16) : Bool :=
  (s.slice e).banks.toList.any fun b => b.state == .visible && b.handle == h && b.owner == some (c.ctx, c.gen)

/-- Tensor indices that an opcode's descriptor makes outputs (R288-R290, R362). -/
def outputsOf (c : Cmd) : List Nat :=
  let o := c.kb.op
  let ix (k : Nat) : List Nat := let v := leAt o k 1; if v = 0xFF then [] else [v]
  match c.op with
  | .matmul .. => ix 0x15
  | .vector .. => ix 0x0F
  | .reduce .. => ix 0x0F ++ ix 0x10
  | .attnFwd .. => ix 0x0F ++ ix 0x10
  | .attnBwd .. => ix 0x12
  | .optUpdate .. => [0, 2, 3, 4]
  | .collReduceScatter .. => [c.kb.tens.length - 1]
  | .collAllReduce .. => [c.kb.tens.length - 1]
  | .collAllGather .. => [1]
  | .collMulticast .. => [0]
  | .collPermute .. => [c.kb.tens.length - 1]
  | _ => []

/-- The check of input handles at issue (R291, R439): the status of a command that names one that is not VISIBLE. -/
def State.handleCheck (s : State) (c : Cmd) : Option W16 :=
  (c.inHandles (outputsOf c)).foldl (fun st t =>
    c.kb.engs.foldl (fun st d =>
      match st with
      | some x => some x
      | none =>
        if s.ras.invalid.contains (c.ctx, d.eng, t.handle) then some stReset
        else if s.handleVisible c d.eng t.handle then none else some stBounds) st) none

/-- What allotment answers: wait, fail with a status and DETAIL, or the state with everything allotted. -/
abbrev Allotted := Option (Except (W16 × W64) State)

/-- A command whose writable range finds no room in T2 waits on a fault record of cause QUOTA (R199). The record names the
unit that would write: the channel of a transfer, CLE for a collective, else the first engine (R206). -/
def State.quotaFault (s : State) (c : Cmd) (ch : Option ChanId) (p : Page) : State :=
  if s.memUnit.faults.any fun f => f.cid == c.cid then s
  else (s.fault { id := 0, ctx := c.ctx, gen := c.gen, cause := .quota, write := true,
                  src := match ch with
                    | some _ => .bdm
                    | none => if isColl (opCode c.op) then .cle else .ste,
                  unit := match ch with
                    | some k => k.val
                    | none => ((c.kb.engs.map (·.eng.val)).head?).getD 0, prog := 0, va := p.va, seq := c.seq, node := c.node,
                  tick := s.tick.now, cid := c.cid, recorded := true }).1

/-- A transfer takes a channel: the one it names, or any its context may use. -/
def Cmd.wantsChan (c : Cmd) (k : ChanId) : Bool :=
  match c.op with
  | .dmaStart _ _ n ch _ _ _ _ _ => n != 0 && (if ch.toNat % 64 = 63 then decide (c.ctx = 0) || decide (k.val < 30) else decide (ch.toNat % 64 = k.val))
  | _ => false

/-- An earlier transfer of the queue waits for a channel, and for nothing else (R163). -/
def State.chanTaken (s : State) (c : Cmd) (k : ChanId) : Bool :=
  s.sched.cmds.any fun d => d.cid != c.cid && d.wantsChan k && s.due d && s.poolFits d && s.writeOrderOk d && !s.readsLoading d &&
    (decide (d.prio < c.prio) || (decide (d.prio = c.prio) && decide (d.readyNo < c.readyNo)))

/-- Allot a due command its resources (R310): the status comes back where the command ends instead. -/
def State.allot (s : State) (c : Cmd) : Allotted :=
  if !s.due c then none
  else if !s.poolFits c && decide (c.ctx ≠ 0) && decide (32 * (s.ctx c.ctx).quotaSh < c.shNeed) then some (.error (stQuota, 0))
  else if !s.poolFits c || !s.writeOrderOk c || s.readsLoading c || !(c.kb.engs.all fun d => s.engineFree c d) then none
  else
    match s.handleCheck c with
    | some st => some (.error (st, 0))
    | none =>
      let chan : Option (Option ChanId) := match c.op with
        | .dmaStart _ _ 0 _ _ _ _ _ _ => some none
        | .dmaStart _ _ _ ch _ _ _ _ _ => ((s.channelFor c.ctx (ch.toNat % 64)).filter fun k => !s.chanTaken c k).map some
        | _ => some none
      match chan with
      | none => none
      | some ch =>
        let (s, short) := if c.fixed then (s, none) else s.bringRanges c
        match short with
        | some p => some (.ok (s.quotaFault c ch p))
        | none =>
          let s := c.kb.engs.foldl (fun s d => s.takeEngine c d) s
          let s := s.touch c.ctx c.bufRanges
          let s := s.modCtx c.ctx fun x => { x with shUse := x.shUse + c.shNeed }
          let n := s.sched.nextIssue
          let a := s.sched.nextAttempt
          let s := s.modSched fun g => { g with nextIssue := n + 1, nextAttempt := a + 1 }
          some (.ok (({ s with free := s.free + 1 }).modCmd c.cid fun d =>
            { d with state := .issued, issueNo := n, issueNs := s.someNs, attempt := a, chan := ch }))

/-! ### Kill and rerun (R152, R316-R318) -/

/-- Acquires that a command's binding makes it a part of: its own, and those above (R321). -/
def State.acquiresOf (s : State) (c : Cmd) : Nat → List Nat
  | 0 => []
  | n + 1 => match c.acquire.bind s.cmd? with
    | some a => a.cid :: s.acquiresOf a n
    | none => []

/-- Undo an attempt: everything it held returns, nothing it staged stays, and it is READY at its old place (R318). -/
def State.rollback (s : State) (c : Cmd) : State :=
  let up := s.acquiresOf c s.sched.cmds.length
  let s := ((s.countCancels c.cid).releaseCmd c).cancelAttempt c.attempt
  let s := s.freeBanks c.cid true
  (s.modCmd c.cid fun d =>
    { d with state := .ready, tick := 0, planLeft := 0, tried := none, issueNo := 0, issuing := false, runAhead := false, mismatch := false,
             done := [], staged := [], amax := [], deltas := [], nans := [], skip := false, semAdds := [], banks := [],
             claim := none, chan := none, operands := [], lstOut := [], badTiles := [], failedTiles := [],
             waitFault := none, replays := [], rescaled := false, detail := 0, mcasts := [], recvs := [] }).modSched
    fun g => { g with cmds := g.cmds.map fun d => if up.contains d.cid ∧ d.state = .issued then { d with state := .ready, claim := none } else d }

/-- A command GSC may kill for class 0 (R316, R318). -/
def State.killable (s : State) (c : Cmd) : Bool :=
  !c.fixed && decide (2 ≤ c.prio.val) && c.state == .issued && decide (c.kills < s.sched.protectK) && !isColl (opCode c.op)

/-- Candidates on an engine or channel in their order (R317): run-ahead first, class 3 before class 2, then the latest issued. -/
def candidates (l : List Cmd) : List Cmd :=
  sortBy (fun c => if c.runAhead then 0 else 1) (sortBy (fun c => 3 - c.prio.val) (sortBy (·.issueNo) l).reverse)

/-- The ways to pick k of a list, the earlier entries first. -/
def picks {α : Type} : Nat → List α → List (List α)
  | 0, _ => [[]]
  | _ + 1, [] => []
  | k + 1, a :: l => (picks k l).map (a :: ·) ++ picks (k + 1) l

/-- The fewest candidates that unblock, the first in their order (R317). -/
def fewest (ok : List Cmd → Bool) (l : List Cmd) : List Cmd :=
  ((List.range (l.length + 1)).findSome? fun k => (picks k l).find? ok).getD []

/-- Kill a victim for pre-emption: its kill and the clock it lost are counted (R317, R329). -/
def State.preemptKill (s : State) (v : Cmd) : State :=
  let (clock, s) := s.clockOf v none
  let s := (s.rollback v).modCmd v.cid fun d => { d with kills := d.kills + 1 }
  (s.count offKills v.ctx.val 1).count offLost v.ctx.val clock

/-- Kill what killable commands GSC may kill of a list. -/
def State.preemptAll (s : State) (vs : List Cmd) : State :=
  vs.foldl (fun s v => match s.cmd? v.cid with
    | some v => s.preemptKill v
    | none => s) s

/-- With these commands gone an engine has the banks and slots a command asks for. -/
def State.engineWithout (s : State) (c : Cmd) (d : EngD) (vs : List Cmd) : Bool :=
  let x := s.slice d.eng
  decide (d.banks ≤ (x.freeBanks c.ctx c.gen).length +
      (x.banks.toList.filter fun b => (b.state == .fill || b.state == .shadow) && vs.any (·.cid == b.cid)).length) &&
    decide (d.programs.length ≤ x.freeSlots.length + (x.progs.toList.filter fun p => vs.any (·.cid == p.cid)).length)

/-- Kill the fewest victims on an engine that give it the banks and slots. -/
def State.clearEngine (s : State) (c : Cmd) (d : EngD) : State :=
  s.preemptAll (fewest (s.engineWithout c d) (candidates ((s.issuedOn d.eng).filter s.killable)))

/-- With these commands gone a semaphore's available value is at least that of an acquire. -/
def State.claimsWithout (s : State) (k : SemId) (v : Nat) (vs : List Cmd) : Bool :=
  let gone := vs.foldl (fun n c => match c.claim with
    | some (j, w) => if j = k then n + w else n
    | none => n) 0
  decide (v + s.claims k ≤ s.semCount k + gone)

/-- Kill the fewest victims whose tentative claims stand in the way of a class 0 acquire (R316). -/
def State.clearClaims (s : State) (a : Cmd) : State :=
  match semOf a.op with
  | none => s
  | some (k, v) =>
    if a.prio ≠ 0 then s
    else s.preemptAll (fewest (s.claimsWithout k v) (candidates (s.sched.cmds.filter fun c => s.killable c && decide (c.claim.map (·.1) = some k))))

/-- Kill the holder of a channel a class 0 command needs, when killable commands hold every channel its context may use (R316). -/
def State.clearChannel (s : State) (c : Cmd) : State :=
  match c.op with
  | .dmaStart _ _ _ ch _ _ _ _ _ =>
    if (s.channelFor c.ctx (ch.toNat % 64)).isSome then s
    else
      let may : List ChanId := (List.finRange 32).filter fun k => decide (c.ctx = 0) || decide (k.val < 30)
      let holders := may.filterMap fun k => s.cmd? (s.chan k).cid
      if holders.length = may.length ∧ holders.all s.killable then
        s.preemptAll ((candidates (holders.filter fun d => ch.toNat % 64 = 63 || d.chan == some (Fin.ofNat 32 ch.toNat))).take 1)
      else s
  | _ => s

/-- Allot, with pre-emption for a class 0 command that is due (R316): victims fall only if that unblocks it. -/
def State.allotLive (s : State) (c : Cmd) : Allotted :=
  match s.allot c with
  | some r => some r
  | none =>
    if c.prio ≠ 0 ∨ !s.due c then none
    else
      let s' := (c.kb.engs.foldl (fun s d => s.clearEngine c d) s).clearChannel c
      s'.allot c

end Sys2Proof.Machine
end

