-- ==== Sys2Proof/Machine/Sum.lean ====
section
/-! DEFINITION. The reference order of operations: chunk steps, segments, trees, nodes (R61-R82). -/
namespace Sys2Proof.Machine

/-! ### Exact operations with the specials of R39 -/

def addV (tag : Nat) (a b : Val) : Val :=
  match nanOf [a, b] with
  | some v => v
  | none => match a, b with
    | .fin x, .fin y => .fin (x + y)
    | .inf s, .inf t => if s = t then .inf s else mkNan cInvalidAdd tag
    | .inf s, _ => .inf s
    | _, b => b

def mulV (tag : Nat) (a b : Val) : Val :=
  match nanOf [a, b] with
  | some v => v
  | none => match a, b with
    | .fin x, .fin y => .fin (x * y)
    | .fin x, b => if x = 0 then mkNan cInvalidMul tag else .inf (a.isNeg != b.isNeg)
    | a, .fin y => if y = 0 then mkNan cInvalidMul tag else .inf (a.isNeg != b.isNeg)
    | a, b => .inf (a.isNeg != b.isNeg)

def divV (tag : Nat) (a b : Val) : Val :=
  match nanOf [a, b] with
  | some v => v
  | none => match a, b with
    | .fin x, .fin y => if y = 0 then (if x = 0 then mkNan cInvalidDiv tag else .inf (decide (x < 0))) else .fin (x / y)
    | .fin _, .inf _ => .fin 0
    | .inf s, .fin y => .inf (s != decide (y < 0))
    | _, _ => mkNan cInvalidDiv tag

/-- a < b, false with a NaN (R42). -/
def ltV : Val → Val → Bool
  | .fin x, .fin y => x < y
  | .inf true, .inf false => true
  | .inf true, .fin _ => true
  | .fin _, .inf false => true
  | _, _ => false

def maxV (a b : Val) : Val := match nanOf [a, b] with
  | some v => v
  | none => if ltV a b then b else a
def minV (a b : Val) : Val := match nanOf [a, b] with
  | some v => v
  | none => if ltV b a then b else a

/-! ### Sums -/

/-- The exact sum of values in logical order: the first NaN passes its payload (R41, R65). -/
def exactSum (tag : Nat) (vs : List Val) : Val :=
  match vs.find? Val.isNan with
  | some v => v
  | none =>
    let pos := vs.contains (.inf false)
    let ng := vs.contains (.inf true)
    if pos && ng then mkNan cInvalidAdd tag
    else if pos then .inf false
    else if ng then .inf true
    else .fin (vs.foldl (fun a v => match v with
      | .fin q => a + q
      | _ => a) 0)

/-- The chunk step (R64, R65). -/
def chunkStep (tag : Nat) (a : Val) (terms : List Val) : Val := rndF32 (exactSum tag (a :: terms))

/-- Cut a list into runs of n. -/
def runsOf {α : Type} (n : Nat) (l : List α) : List (List α) :=
  (List.range (ceilDiv l.length n)).map fun k => (l.drop (k * n)).take n

/-- The value of a segment from its terms, starting at a seed (R66). -/
def segmentValue (tag : Nat) (seed : Val) (terms : List Val) : Val := (runsOf 32 terms).foldl (chunkStep tag) seed

/-- One level of a tree (R68). -/
def treeLevel {α : Type} (f : α → α → α) : List α → List α
  | a :: b :: t => f a b :: treeLevel f t
  | l => l

/-- The tree of R68; `fuel` bounds the levels. -/
def treeOf {α : Type} (f : α → α → α) : Nat → List α → Option α
  | _, [] => none
  | _, [a] => some a
  | 0, a :: _ => some a
  | k + 1, l => treeOf f k (treeLevel f l)

def treeVal {α : Type} (f : α → α → α) (l : List α) : Option α := treeOf f l.length l

/-- A node of F32 values: exact sum of two children, one rounding to the node format. -/
def nodeAdd (tag fmt : Nat) (a b : Val) : Val := rndTo fmt (exactSum tag [a, b])

/-- Segment values of terms that start at a segment boundary; the seed enters segment 0 only. -/
def segmentsOf (tag : Nat) (segLo : Nat) (seed : Val) (terms : List Val) : List Val :=
  let ss := runsOf 4096 terms
  ((List.range ss.length).zip ss).map fun x => segmentValue tag (if segLo + x.1 = 0 then seed else .fin 0) x.2

/-- The whole reduction of R68. -/
def reduceSum (tag : Nat) (seed : Val) (terms : List Val) : Val :=
  (treeVal (nodeAdd tag 0) (segmentsOf tag 0 seed terms)).getD seed

/-! ### Nodes (R70) -/

/-- ceil(log2 n), 0 for n ≤ 1. -/
def clog2 (n : Nat) : Nat := if n ≤ 1 then 0 else Nat.log2 (n - 1) + 1

/-- The nodes (level, index) that a range of leaves lo..hi of n yields; `fuel` bounds their number. -/
def nodesFrom (hi n d : Nat) : Nat → Nat → List (Nat × Nat)
  | 0, _ => []
  | k + 1, i =>
    if hi < i then []
    else
      let l := ((List.range (d + 1)).reverse.find? fun l => decide (i % 2 ^ l = 0) && decide (min (i + 2 ^ l) n - 1 ≤ hi)).getD 0
      (l, i / 2 ^ l) :: nodesFrom hi n d k (min (i + 2 ^ l) n)

def nodesOf (lo hi n : Nat) : List (Nat × Nat) := nodesFrom hi n (clog2 n) (hi + 1 - lo) lo

/-- Leaves (first, last) that a node covers among n. -/
def nodeSpan (n : Nat) (node : Nat × Nat) : Nat × Nat := (node.2 * 2 ^ node.1, min ((node.2 + 1) * 2 ^ node.1) n - 1)

/-- Value of a node from the leaves lo.. of its unit. -/
def nodeValue {α : Type} (f : α → α → α) (lo n : Nat) (leaves : List α) (node : Nat × Nat) : Option α :=
  let (a, b) := nodeSpan n node
  treeVal f ((leaves.drop (a - lo)).take (b + 1 - a))

/-! ### Other reductions (R78-R81) -/

/-- A triple of the mean-and-variance reduction. -/
structure Triple where
  n : Nat
  mu : Val
  q : Val
deriving DecidableEq, Repr

/-- Leaf of one chunk (R79). -/
def tripleLeaf (tag : Nat) (xs : List Val) : Triple :=
  let n := xs.length
  let s := exactSum tag xs
  let mu := rndF32 (divV tag s (.fin n))
  let q := match s, mu with
    | .nan c p, _ => .nan c p
    | .inf _, _ => mkNan cInvalidAdd tag
    | .fin _, .fin m => rndF32 (.fin (xs.foldl (fun a x => match x with
      | .fin v => a + (v - m) * (v - m)
      | _ => a) 0))
    | .fin _, .inf _ => .inf false
    | .fin _, .nan c p => .nan c p
  { n, mu, q }

/-- A component of a combine: the left NaN stands, then the right one; else an expression over finite values, and the sum of
the values where one is infinite. -/
def tripleComp (tag : Nat) (a b : Val) (e : Val) : Val :=
  match a, b with
  | .nan c p, _ => .nan c p
  | _, .nan c p => .nan c p
  | .fin _, .fin _ => e
  | a, b => exactSum tag [a, b]

/-- R80. -/
def tripleAdd (tag : Nat) (a b : Triple) : Triple :=
  let n := a.n + b.n
  match a.mu, b.mu, a.q, b.q with
  | .fin ma, .fin mb, .fin qa, .fin qb =>
    { n, mu := rndF32 (.fin (ma + (mb - ma) * b.n / n)), q := rndF32 (.fin (qa + qb + (mb - ma) * (mb - ma) * a.n * b.n / n)) }
  | ma, mb, qa, qb =>
    let e := match ma, mb with
      | .fin x, .fin y => rndF32 (.fin (x + (y - x) * b.n / n))
      | _, _ => .fin 0
    let mu := tripleComp tag ma mb e
    let d := addV tag mb ma.neg
    { n, mu, q := match qa, qb with
        | .nan c p, _ => .nan c p
        | _, .nan c p => .nan c p
        | qa, qb => exactSum tag [qa, qb, match d with
          | .fin z => .fin (z * z * a.n * b.n / n)
          | .inf _ => .inf false
          | v => v] }

/-- Running triple of a segment. -/
def tripleSegment (tag : Nat) (xs : List Val) : Option Triple :=
  match (runsOf 32 xs).map (tripleLeaf tag) with
  | [] => none
  | t :: ts => some (ts.foldl (tripleAdd tag) t)

def tripleOf (tag : Nat) (xs : List Val) : Option Triple :=
  treeVal (tripleAdd tag) ((runsOf 4096 xs).filterMap (tripleSegment tag))

/-- Mean and variance (R81). -/
def meanVar (tag ddof : Nat) : Option Triple → Val × Val
  | none => (mkNan cInvalidDiv tag, mkNan cInvalidDiv tag)
  | some t => match t.q with
    | .fin q => (t.mu, if t.n ≤ ddof then mkNan cInvalidDiv tag else rndF32 (.fin (q / ((t.n - ddof : Nat) : Rat))))
    | .inf s => (t.mu, .inf s)
    | v => (t.mu, v)

/-- Argmax and argmin over (value, index): NaN ranks above +inf for argmax, and first for argmin too; equal values give the
lower index (R42, R78). -/
def argBest (less : Bool) (a b : Val × Nat) : Val × Nat :=
  let above (x y : Val) : Bool := (x.isNan && !y.isNan) || ltV y x
  let better (x y : Val) : Bool := if less then above y x else above x y
  if better b.1 a.1 then b else if better a.1 b.1 then a else if b.2 < a.2 then b else a

end Sys2Proof.Machine
end

