-- ==== Sys2Proof/Machine/Vfunc.lean ====
section
/-! DEFINITION. The elementwise functions of VRU (R109-R111). An irrational value is enclosed: an approximation whose
relative error is far below 2^-800 gives a lower and an upper end, and a conversion whose ends round alike is decided. -/
namespace Sys2Proof.Machine

/-- A value enclosed by two; equal when it is known exactly. -/
abbrev Two := Val × Val

def exactly (v : Val) : Two := (v, v)

/-- Ends at a relative distance of 2^-800 around an approximation. -/
def spread (q : Rat) : Two :=
  let e := ratAbs q / ((2 ^ 800 : Nat) : Rat)
  (.fin (q - e), .fin (q + e))

/-- Bits after the point that the approximations keep. -/
def gridBits : Nat := 2048

/-- Round down to the grid. -/
def cut (q : Rat) : Rat := ((q * ((2 ^ gridBits : Nat) : Rat)).floor : Rat) / ((2 ^ gridBits : Nat) : Rat)

/-- Sum of n terms; each term follows from its predecessor and its number. -/
def series (next : Nat → Rat → Rat) (n : Nat) (t0 : Rat) : Rat :=
  ((List.range n).foldl (fun (acc : Rat × Rat) k => let t := cut (next (k + 1) acc.2); (acc.1 + t, t)) (t0, t0)).1

/-- Square k times. -/
def squares : Nat → Rat → Rat
  | 0, q => q
  | k + 1, q => squares k (cut (q * q))

/-- e^x for 0 ≤ x ≤ 400. -/
def expPos (x : Rat) : Rat :=
  let k := Nat.log2 x.floor.toNat + 10
  let r := cut (x / ((2 ^ k : Nat) : Rat))
  squares k (series (fun n t => t * r / n) 200 1)

/-- e^x; past 400 a power of two stands for it, beyond every format on the same side. -/
def expQ (x : Rat) : Rat :=
  if 400 < x then pow2 600 else if x < -400 then pow2 (-600) else if x < 0 then 1 / expPos (-x) else expPos x

/-- ln((1 + z) / (1 - z)) for |z| ≤ 1/3. -/
def atanh2 (z : Rat) : Rat :=
  let z := cut z
  let zz := cut (z * z)
  let ps := (List.range 700).foldl (fun (acc : Rat × Rat) k => let p := cut (acc.2 * zz); (acc.1 + cut (p / ((2 * k + 3 : Nat) : Rat)), p)) (z, z)
  2 * ps.1

def ln2 : Rat := atanh2 (1 / 3)

/-- Exponent e with 2^e ≤ q < 2^(e+1), for q > 0. -/
def ilog2 (q : Rat) : Int :=
  if 1 ≤ q then (Nat.log2 q.floor.toNat : Int)
  else let l : Int := -((Nat.log2 (1 / q).floor.toNat : Nat) : Int); if pow2 l ≤ q then l else l - 1

/-- ln q for q > 0. -/
def lnQ (q : Rat) : Rat :=
  let e := ilog2 q
  let m := q / pow2 e
  atanh2 ((m - 1) / (m + 1)) + e * ln2

/-- √q for q ≥ 0, and whether it is rational. -/
def sqrtQ (q : Rat) : Rat × Bool :=
  let a := Nat.sqrt q.num.toNat
  let b := Nat.sqrt q.den
  if a * a = q.num.toNat ∧ b * b = q.den then ((a : Rat) / b, true)
  else ((Nat.sqrt (q * ((2 ^ (2 * gridBits) : Nat) : Rat)).floor.toNat : Rat) / ((2 ^ gridBits : Nat) : Rat), false)

/-- arctan(1 / n). -/
def atanInv (n : Nat) : Rat :=
  ((List.range 1000).foldl (fun (acc : Rat × Rat) k =>
    let p := cut (acc.2 / ((n * n : Nat) : Rat)); (acc.1 + (if k % 2 = 0 then -1 else 1) * cut (p / ((2 * k + 3 : Nat) : Rat)), p))
    (cut (1 / (n : Rat)), cut (1 / (n : Rat)))).1

def piQ : Rat := 16 * atanInv 5 - 4 * atanInv 239

/-- sin and cos of r, |r| ≤ 1. -/
def sinSmall (r : Rat) : Rat := series (fun k t => -t * r * r / (((2 * k) * (2 * k + 1) : Nat) : Rat)) 300 r
def cosSmall (r : Rat) : Rat := series (fun k t => -t * r * r / (((2 * k - 1) * (2 * k) : Nat) : Rat)) 300 1

/-- sin x, or cos x as sin(x + π/2), reduced modulo π/2. -/
def sinQ (x : Rat) (cosine : Bool) : Rat :=
  let h := piQ / 2
  let k := (x / h + 1 / 2).floor
  let r := cut (x - k * h)
  match ((k + if cosine then 1 else 0) % 4).toNat with
  | 0 => sinSmall r
  | 1 => cosSmall r
  | 2 => -sinSmall r
  | _ => -cosSmall r

/-- tanh u: near 1 a value just below it stands. -/
def tanhQ (u : Rat) : Rat :=
  let v := if 200 < ratAbs u then 1 - pow2 (-600) else 1 - 2 / (expPos (2 * ratAbs u) + 1)
  if u < 0 then -v else v

def sigmoidQ (a : Rat) : Rat := 1 / (1 + expQ (-a))

/-- erf √y for y ≥ 0; from 400 a value just below 1. -/
def erfRoot (y : Rat) : Rat :=
  if 400 < y then 1 - pow2 (-600)
  else
    let g := (List.range 3000).foldl (fun (acc : Rat × Rat) k =>
      let t := cut (-acc.2 * y / ((k + 1 : Nat) : Rat)); (acc.1 + cut (t / ((2 * k + 3 : Nat) : Rat)), t)) ((1 : Rat), (1 : Rat))
    2 * (sqrtQ (y / piQ)).1 * g.1

def erfQ (a : Rat) (yy : Rat) : Rat := if a < 0 then -erfRoot yy else erfRoot yy

def isInt (q : Rat) : Bool := q.den == 1

/-- a^b for an integer b. -/
def powInt (a : Rat) (b : Int) : Rat := if 0 ≤ b then a ^ b.toNat else 1 / a ^ (-b).toNat

/-- Take square roots of a while b is no integer and the root is rational. -/
def powReduce : Nat → Rat → Rat → Rat × Rat
  | 0, a, b => (a, b)
  | k + 1, a, b => if isInt b then (a, b) else match sqrtQ a with
    | (r, true) => powReduce k r (2 * b)
    | _ => (a, b)

/-- a^b for a > 0: exact when it may be a short fraction, else by e^(b ln a). -/
def powPos (a b : Rat) : Two :=
  let (r, n) := powReduce 200 a b
  if r = 1 then exactly (.fin 1)
  else if r = pow2 (ilog2 r) ∧ isInt n then exactly (.fin (pow2 (max (-600) (min 600 (ilog2 r * n.num)))))
  else if isInt n ∧ -64 ≤ n ∧ n ≤ 64 then exactly (.fin (powInt r n.num))
  else spread (expQ (b * lnQ a))

/-- A function of a finite argument whose value at 0 is known. -/
def atZero (a : Rat) (v : Rat) (f : Rat → Rat) : Two := if a = 0 then exactly (.fin v) else spread (f a)

def one : Val := .fin 1

/-- SILU with its specials (R111). -/
def siluV : Val → Two
  | .fin a => atZero a 0 fun a => a * sigmoidQ a
  | .inf false => exactly (.inf false)
  | .inf true => exactly .zero
  | v => exactly v

/-- POW with its specials (R111). The table has no row for an infinite exponent: with a > 0 the formula e^(b × ln a) decides, so that
a = 1 forms 0 × ∞ and gives NaN INVALID_MUL (DEDUCED); with a < 0 an infinite b counts as no integer, and the result is NaN
INVALID_FUNC (DESIGN CHOICE). -/
def powV (tag : Nat) (a b : Val) : Two :=
  let bad := exactly (mkNan cInvalidFunc tag)
  let odd (q : Rat) : Bool := isInt q && q.num % 2 != 0
  match a, b with
  | .fin x, .fin y =>
    if y = 0 then exactly one
    else if x = 0 then exactly (if 0 < y then .zero else .inf false)
    else if 0 < x then powPos x y
    else if isInt y then (let p := powPos (-x) y; if odd y then (p.2.neg, p.1.neg) else p)
    else bad
  | .fin x, .inf s =>
    if x < 0 then bad
    else if x = 1 then exactly (mkNan cInvalidMul tag)
    else exactly (if decide (1 < x) != s then .inf false else .zero)
  | .inf n, b =>
    match b with
    | .fin y =>
      if y = 0 then exactly one
      else if n ∧ !isInt y then bad
      else exactly (if 0 < y then .inf (n && odd y) else .zero)
    | .inf s => if n then bad else exactly (if s then .zero else .inf false)
    | v => exactly v
  | v, _ => exactly v

def eqV : Val → Val → Bool
  | .fin x, .fin y => x == y
  | .inf s, .inf t => s == t
  | _, _ => false

def boolV (b : Bool) : Val := .fin (if b then 1 else 0)

/-- Functions of one argument 0x10-0x1F. -/
def unary (code tag : Nat) (a : Val) : Two :=
  match code, a with
  | _, .nan c p => exactly (.nan c p)
  | 0x10, a => exactly (divV tag one a)
  | 0x11, .fin q => if q < 0 then exactly (mkNan cInvalidRoot tag) else match sqrtQ q with
      | (r, true) => exactly (.fin r)
      | (r, false) => spread r
  | 0x11, .inf s => exactly (if s then mkNan cInvalidRoot tag else .inf false)
  | 0x12, .fin q => if q < 0 then exactly (mkNan cInvalidRoot tag) else if q = 0 then exactly (.inf false) else match sqrtQ q with
      | (r, true) => exactly (.fin (1 / r))
      | (r, false) => spread (1 / r)
  | 0x12, .inf s => exactly (if s then mkNan cInvalidRoot tag else .zero)
  | 0x13, .fin q => atZero q 1 expQ
  | 0x13, .inf s => exactly (if s then .zero else .inf false)
  | 0x14, .fin q => if isInt q then exactly (.fin (pow2 (max (-600) (min 600 q.num)))) else spread (expQ (q * ln2))
  | 0x14, .inf s => exactly (if s then .zero else .inf false)
  | 0x15, .fin q => if q < 0 then exactly (mkNan cInvalidLog tag) else if q = 0 then exactly (.inf true)
      else if q = 1 then exactly .zero else spread (lnQ q)
  | 0x15, .inf s => exactly (if s then mkNan cInvalidLog tag else .inf false)
  | 0x16, .fin q => if q < 0 then exactly (mkNan cInvalidLog tag) else if q = 0 then exactly (.inf true)
      else if q = pow2 (ilog2 q) then exactly (.fin (ilog2 q)) else spread (lnQ q / ln2)
  | 0x16, .inf s => exactly (if s then mkNan cInvalidLog tag else .inf false)
  | 0x17, .fin q => atZero q (1 / 2) sigmoidQ
  | 0x17, .inf s => exactly (if s then .zero else one)
  | 0x18, .fin q => atZero q 0 tanhQ
  | 0x18, .inf s => exactly (if s then one.neg else one)
  | 0x19, a => siluV a
  | 0x1A, .fin q => atZero q 0 fun a => a * (1 + erfQ a (a * a / 2)) / 2
  | 0x1A, .inf s => exactly (if s then .zero else .inf false)
  | 0x1B, .fin q => atZero q 0 fun a => a * sigmoidQ (2 * (sqrtQ (2 / piQ)).1 * (a + 44715 / 1000000 * (a * a * a)))
  | 0x1B, .inf s => exactly (if s then .zero else .inf false)
  | 0x1C, .fin q => spread (if 400 < q then q + pow2 (-600) else if q < -400 then pow2 (-600) else lnQ (1 + expQ q))
  | 0x1C, .inf s => exactly (if s then .zero else .inf false)
  | 0x1D, .fin q => atZero q 0 fun a => erfQ a (a * a)
  | 0x1D, .inf s => exactly (if s then one.neg else one)
  | 0x1E, .fin q => atZero q 0 fun a => sinQ a false
  | 0x1F, .fin q => atZero q 1 fun a => sinQ a true
  | _, _ => exactly (mkNan cInvalidFunc tag)

/-- The exact value of a function code at its inputs (R109-R111). -/
def vecFn (code tag : Nat) (a b c : Val) : Two :=
  let firstNan (vs : List Val) (v : Two) : Two := match nanOf vs with
    | some n => exactly n
    | none => v
  match code with
  | 0x00 => exactly a
  | 0x01 => exactly (addV tag a b)
  | 0x02 => exactly (addV tag a b.neg)
  | 0x03 => exactly (mulV tag a b)
  | 0x04 => exactly (addV tag (mulV tag a b) c)
  | 0x05 => exactly (divV tag a b)
  | 0x06 => exactly (maxV a b)
  | 0x07 => exactly (minV a b)
  | 0x08 => exactly (if a.isNeg then a.neg else a)
  | 0x09 => exactly a.neg
  | 0x0A => exactly (match [a, b, c].find? Val.isNan with
      | some n => n
      | none => minV (maxV a b) c)
  | 0x0B => exactly (if c.isNan || !eqV c .zero then a else b)
  | 0x0C => exactly (boolV (ltV a b))
  | 0x0D => exactly (boolV (ltV a b || eqV a b))
  | 0x0E => exactly (boolV (eqV a b))
  | 0x0F => exactly (boolV !(eqV a b))
  | 0x20 => firstNan [a, b] (powV tag a b)
  | 0x21 => firstNan [a, b] (let (x, y) := siluV a
      let u := mulV tag b x
      let v := mulV tag b y
      if ltV v u then (v, u) else (u, v))
  | k => unary k tag a

/-- How many of a, b, c a code takes. -/
def arity (code : Nat) : Nat :=
  if code = 0x04 ∨ code = 0x0A ∨ code = 0x0B then 3
  else if code = 0x00 ∨ code = 0x08 ∨ code = 0x09 then 1
  else if code ≤ 0x0F ∨ code = 0x20 ∨ code = 0x21 then 2 else 1

/-- e^q enclosed, exact at 0. -/
def expTwo (q : Rat) : Two := atZero q 1 expQ

/-- A rounding of an enclosed value: where its ends round apart, the value is open. -/
def settle (what : Nat) (lo hi : Nat) : Nat := if lo = hi then lo else Config.openRounding what lo hi

/-- An enclosed value rounded once to F32. -/
def rndTwo (v : Two) : Val :=
  match v.1 with
  | .nan .. => v.1
  | _ => ofF32 0 (settle 0 (toF32 v.1) (toF32 v.2))

end Sys2Proof.Machine
end

