-- ==== Sys2Proof/Machine/Operands.lean ====
section
/-! DEFINITION. Operand forms of the kernel commands: storage of a shard, decoding with scale exponents, conversion to a destination, amax, overflow and
first NaN (R35-R37, R43, R47, R55-R57, R62, R112, R123-R126). -/
namespace Sys2Proof.Machine

/-! ### Shards (R124) -/

def TenD.d (t : TenD) (k : Nat) : Nat := t.dim.getD k 0
def TenD.o (t : TenD) (k : Nat) : Nat := t.org.getD k 0
def TenD.e (t : TenD) (k : Nat) : Nat := t.ext.getD k 0

/-- Elements of a shard, its columns and its folded rows (R56, R547). -/
def TenD.count (t : TenD) : Nat := t.e 0 * t.e 1 * t.e 2 * t.e 3
def TenD.cols (t : TenD) : Nat := t.e 3
def TenD.rows (t : TenD) : Nat := t.e 0 * t.e 1 * t.e 2
/-- Elements of the whole logical shape. -/
def TenD.whole (t : TenD) : Nat := t.d 0 * t.d 1 * t.d 2 * t.d 3

/-- Coordinate k of the n-th element of a shard, in the logical shape. -/
def TenD.coord (t : TenD) (k n : Nat) : Nat :=
  t.o k + (match k with
    | 0 => n / (t.e 3 * t.e 2 * t.e 1)
    | 1 => n / (t.e 3 * t.e 2) % t.e 1
    | 2 => n / t.e 3 % t.e 2
    | _ => n % t.e 3)

/-- Folded row of the n-th element of a shard in the whole tensor (R56). -/
def TenD.row (t : TenD) (n : Nat) : Nat := (t.coord 0 n * t.d 1 + t.coord 1 n) * t.d 2 + t.coord 2 n

/-- Row-major logical index of the n-th element of a shard (R51, R125). -/
def TenD.idx (t : TenD) (n : Nat) : Nat := t.row n * t.d 3 + t.coord 3 n

/-- Scale tile of the n-th element of a shard (R56). -/
def TenD.tile (t : TenD) (n : Nat) : Nat := t.row n / 128 * ceilDiv (t.d 3) 128 + t.coord 3 n / 128

/-- The tensor names a scale record (R124, R126). -/
def TenD.slot? (t : TenD) : Option Nat := if t.scaleSlot = 0xFFF then none else some t.scaleSlot.toNat

/-- A run of folded rows of a shard is aligned to 128 rows (R56). -/
def runAligned (first len whole : Nat) : Bool := decide (first % 128 = 0) && (decide ((first + len) % 128 = 0) || decide (first + len = whole))

/-- The shard of a scaled tensor is a union of whole scale tiles (R56). -/
def TenD.aligned (t : TenD) : Bool :=
  let w := t.d 0 * t.d 1 * t.d 2
  let row (i0 i1 i2 : Nat) : Nat := (i0 * t.d 1 + i1) * t.d 2 + i2
  decide (t.o 3 % 128 = 0) && (decide ((t.o 3 + t.e 3) % 128 = 0) || decide (t.o 3 + t.e 3 = t.d 3)) &&
    (if t.e 2 = t.d 2 then
      if t.e 1 = t.d 1 then runAligned (row (t.o 0) 0 0) (t.e 0 * t.d 1 * t.d 2) w
      else (List.range (t.e 0)).all fun (i : Nat) => runAligned (row (t.o 0 + i) (t.o 1) 0) (t.e 1 * t.d 2) w
    else (List.range (t.e 0)).all fun (i : Nat) => (List.range (t.e 1)).all fun (j : Nat) =>
      runAligned (row (t.o 0 + i) (t.o 1 + j) (t.o 2)) (t.e 2) w)

/-! ### Storage (R29, R35, R36) -/

/-- Elements in one unit of storage: a block, or one element. -/
def unitLen (fmt : Nat) : Nat := if isBlock fmt then blockLen fmt else 1
/-- Bytes of a unit in the element plane and in the scale plane. -/
def unitBytes (fmt : Nat) : Nat × Nat :=
  match fmt with
  | 0 => (4, 0)
  | 1 => (2, 0)
  | 2 => (2, 0)
  | 5 => (16, 1)
  | 6 => (128, 2)
  | 7 => (128, 2)
  | _ => (1, 0)

/-- Units of a shard: Q4 blocks lie along its rows, M8 blocks along its elements. -/
def unitsOf (fmt rows cols : Nat) : Nat :=
  if fmt = fQ4 then rows * ceilDiv cols 32 else ceilDiv (rows * cols) (unitLen fmt)

/-- Unit of an element and its place in it. A shard whose origin or extent cuts a block of the whole tensor is blocked from its
own first element, Q4 from the first element of each of its rows: R36 and R62 lay out whole tensors. DESIGN CHOICE. -/
def unitOf (fmt cols n : Nat) : Nat × Nat :=
  if fmt = fQ4 then (n / cols * ceilDiv cols 32 + n % cols / 32, n % cols % 32) else (n / unitLen fmt, n % unitLen fmt)

/-- Elements of a unit, padding left out. -/
def unitElems (fmt rows cols u : Nat) : List Nat :=
  if fmt = fQ4 then
    let b := ceilDiv cols 32
    (List.range (min 32 (cols - u % b * 32))).map fun k => u / b * cols + u % b * 32 + k
  else (List.range (min (unitLen fmt) (rows * cols - u * unitLen fmt))).map fun k => u * unitLen fmt + k

/-- Bytes of a shard: element plane, then scale plane. -/
def shardBytes (fmt rows cols : Nat) : Nat := unitsOf fmt rows cols * ((unitBytes fmt).1 + (unitBytes fmt).2)

def TenD.bytes (t : TenD) : Nat := shardBytes t.fmt.val t.rows t.cols

/-- The value of an element of stored bytes, before scaling. -/
def storedElem (fmt tag rows cols : Nat) (bs : Array Byte) (n : Nat) : Val :=
  let le2 (off k : Nat) : Nat := ofLe ((List.range k).map fun j => bs.getD (off + j) 0)
  let (u, p) := unitOf fmt cols n
  let (eb, sb) := unitBytes fmt
  let plane := unitsOf fmt rows cols * eb
  if isBlock fmt then
    let sc := le2 (plane + u * sb) sb
    if fmt = fQ4 then
      let b := (bs.getD (u * 16 + p / 2) 0).toNat
      decodeBlock fmt tag sc (if p % 2 = 0 then b % 16 else b / 16)
    else decodeBlock fmt tag sc (bs.getD (u * 128 + p) 0).toNat
  else decodeScalar fmt tag (le2 (n * eb) eb)

/-- A value times a power of two. -/
def scaleV (k : Int) : Val → Val
  | .fin q => .fin (q * pow2 k)
  | v => v

/-- Exponent and tile deltas that a command sees for a tensor: the record of its slot, with deltas the command stages. -/
structure Scaling where
  exp : Int := 0
  deltas : List (Nat × Int) := []
deriving DecidableEq, Repr

def Scaling.at_ (x : Scaling) (tile : Nat) : Int := x.exp + assocD x.deltas tile 0

/-- All values of a shard (R62). -/
def shardVals (t : TenD) (tag : Nat) (sc : Scaling) (bs : List Byte) : Array Val :=
  let a := bs.toArray
  ((List.range t.count).map fun n =>
    let v := storedElem t.fmt.val tag t.rows t.cols a n
    match t.slot? with
    | none => v
    | some _ => scaleV (sc.at_ (t.tile n)) v).toArray

/-! ### Conversion (R37, R47, R55, R57, R112, R125) -/

/-- The rounding mode of an element (R49, R50, R125). -/
def TenD.mode (t : TenD) (seed : W64) (step : W32) (n : Nat) : RMode :=
  let w (bits : Nat) : RMode := .random bits (roundingWord seed t.tid (t.idx n) step).toNat
  match t.srBits.val with
  | 1 => w 8
  | 2 => w 12
  | 3 => w 16
  | _ => if t.kind = 2 then w 12 else .nearest

/-- What converting a shard gives: bytes by offset in the shard, the ends of the exact amax, tiles that overflow with their
amax, the first NaN (logical index, cause, tag). -/
structure ConvOut where
  bytes : List (Nat × Byte) := []
  amax : Rat × Rat := (0, 0)
  spill : List (Nat × Rat) := []
  nan : Option (Nat × Nat × Nat) := none
deriving DecidableEq, Repr

/-- The NaN of lowest logical index among candidates. -/
def firstNanOf (l : List (Nat × Nat × Nat)) : Option (Nat × Nat × Nat) :=
  l.foldl (fun best x => match best with
    | none => some x
    | some b => if x.1 < b.1 then some x else some b) none

/-- A scalar element: bytes, overflow, NaN. -/
def convScalar (t : TenD) (m : RMode) (sc : Scaling) (n : Nat) (v : Two) : List (Nat × Byte) × Bool × Option (Nat × Nat × Nat) :=
  let k := match t.slot? with
    | none => 0
    | some _ => -(sc.at_ (t.tile n))
  let fmt := t.fmt.val
  let (a, o) := toScalar fmt m (scaleV k v.1)
  let (b, _) := toScalar fmt m (scaleV k v.2)
  let eb := (unitBytes fmt).1
  (((List.range eb).zip (le eb (settle (16 + fmt) a b))).map fun x => (n * eb + x.1, x.2), o,
    match v.1 with
    | .nan _ p => if fmt = fF32 then none else some (t.idx n, p / 1024, p % 1024)
    | _ => none)

/-- A block: bytes and NaN. Masked elements (none) keep the values they had. -/
def convBlock (t : TenD) (seed : W64) (step : W32) (tag : Nat) (prev : Nat → Val) (vals : Array (Option Two)) (u : Nat) :
    List (Nat × Byte) × Option (Nat × Nat × Nat) :=
  let fmt := t.fmt.val
  let es := unitElems fmt t.rows t.cols u
  let get (n : Nat) : Option Two := vals.getD n none
  if es.all fun n => (get n).isNone then ([], none)
  else
    let src : List Two := es.map fun n => (get n).getD (exactly (prev n))
    let md (k : Nat) : RMode := t.mode seed step (es.getD k 0)
    let (sa, ea) := toBlock fmt md (src.map (·.1))
    let (sb, eb) := toBlock fmt md (src.map (·.2))
    let codes := (ea.zip eb).map fun x => settle (16 + fmt) x.1 x.2
    let codes := codes ++ List.replicate (unitLen fmt - codes.length) 0
    let sc := settle (32 + fmt) sa sb
    let (ub, us) := unitBytes fmt
    let plane := unitsOf fmt t.rows t.cols * ub
    let elems : List Byte := if fmt = fQ4 then (runsOf 2 codes).map fun p => BitVec.ofNat 8 (p.getD 0 0 + 16 * p.getD 1 0)
      else codes.map (BitVec.ofNat 8)
    let bytes := ((List.range ub).zip elems).map (fun x => (u * ub + x.1, x.2)) ++
      ((List.range us).zip (le us sc)).map fun x => (plane + u * us + x.1, x.2)
    let nan := (es.zip src).findSome? fun x => match x.2.1 with
      | .nan _ p => some (t.idx x.1, p / 1024, p % 1024)
      | _ => none
    let neg := if fmt = fM8U then (es.zip src).findSome? fun x => if x.2.1.isNeg then some (t.idx x.1, cConvert, tag) else none
      else none
    (bytes, nan.orElse fun _ => neg)

/-- Larger of two. -/
def ratMax (a b : Rat) : Rat := if a < b then b else a

/-- Magnitude of a finite value, 0 of any other. -/
def magOf : Val → Rat
  | .fin q => ratAbs q
  | _ => 0

/-- Convert a shard; none marks a masked element. -/
def convShard (t : TenD) (seed : W64) (step : W32) (tag : Nat) (sc : Scaling) (prev : Nat → Val) (vals : Array (Option Two)) : ConvOut :=
  if isBlock t.fmt.val then
    let rs := (List.range (unitsOf t.fmt.val t.rows t.cols)).map fun u => convBlock t seed step tag prev vals u
    { bytes := rs.flatMap (·.1), nan := firstNanOf (rs.filterMap (·.2)) }
  else
    let live := (List.range t.count).filterMap fun n => (vals.getD n none).map fun v => (n, v)
    let rs := live.map fun x => (x.1, x.2, convScalar t (t.mode seed step x.1) sc x.1 x.2)
    let tiles := ((rs.filter fun r => r.2.2.2.1).map fun r => t.tile r.1).eraseDups
    { bytes := rs.flatMap (·.2.2.1)
      amax := live.foldl (fun a x => (ratMax a.1 (min (magOf x.2.1) (magOf x.2.2)), ratMax a.2 (max (magOf x.2.1) (magOf x.2.2)))) (0, 0)
      spill := tiles.map fun k => (k, (live.filter fun x => t.tile x.1 == k).foldl (fun a x => ratMax a (magOf x.2.2)) 0)
      nan := firstNanOf (rs.filterMap (·.2.2.2.2)) }

/-! ### Streams of a tensor (R135, R144, R147, R285) -/

/-- Engines of a logical octave share multicasts. -/
def octavePos (e : EngineId) (pos : Nat) : Nat := e.val / 8 * 8 + pos

/-- The image an engine runs in a relative slot. -/
def EngD.image (d : EngD) (p : Nat) : List W64 := d.images.getD p []

/-- Buffers of a tensor's rotation. -/
def TenD.rot (t : TenD) : List (Fin 4) := rotation t.rotFirst t.rotLen

/-! ### Buffers in rotation (R144) -/

/-- A unit has filled a buffer. -/
def Prog.fill (x : Prog) (b : Fin 4) : Prog := { x with bufs := vmod x.bufs b fun y => { y with full := true } }
/-- A SIGNAL or a RECV of the program makes a buffer FULL: its deadline is met (R149). -/
def Prog.setFull (x : Prog) (b : Fin 4) : Prog := { x with bufs := vmod x.bufs b fun y => { y with full := true, armed := none }, fed := true }
def Prog.setEmpty (x : Prog) (b : Fin 4) : Prog := { x with bufs := vmod x.bufs b fun y => { y with full := false } }
/-- A unit has read a buffer to its end. -/
def Prog.drink (x : Prog) (b : Fin 4) : Prog := { x with bufs := vmod x.bufs b fun y => { y with full := false, unread := 0 } }

/-- The buffer that the unit of a rotation takes next: block k is in buffer k mod n. -/
def Prog.nextBuf (x : Prog) (t : TenD) : Fin 4 := t.rot.getD ((x.turns[t.rotFirst]) % max 1 t.rotLen) t.rotFirst

/-- A unit takes blocks in the order of a rotation, as far as a buffer: a consuming unit while they are FULL, a producing one while
they are EMPTY. -/
def Prog.takeTurns (x : Prog) (t : TenD) (consume : Bool) (b : Fin 4) : Nat → Prog
  | 0 => x
  | n + 1 =>
    let k := x.nextBuf t
    if (x.bufs[k]).full != consume then x
    else
      let y := if consume then x.drink k else x.fill k
      let y := { y with turns := vmod y.turns t.rotFirst (· + 1) }
      if k = b then y else y.takeTurns t consume b n

/-! ### What the streams of a tensor carry (R141, R147) -/

/-- Multicast MOVEs of an engine's programs to a member, numbered slot by slot. -/
def EngD.casts (d : EngD) (member : Nat) : List MoveRun := (d.images.flatMap movesOf).filter fun m => !m.toMem && m.mcast.getLsbD member

/-- What the n-th RECV of an engine that names a leader brings: the pieces of the leader's n-th multicast to it (R147). -/
def Cmd.received (c : Cmd) (d : EngD) (leader n : Nat) : List Piece :=
  match c.kb.engs.find? fun x => x.eng.val == octavePos d.eng leader with
  | none => []
  | some x => (((x.casts (d.eng.val % 8))[n]? : Option MoveRun).map MoveRun.pieces).getD []

/-- Blocks of a tensor that pass an engine's buffers, in the order of the rotation (R144). -/
def Cmd.blocks (c : Cmd) (t : TenD) (d : EngD) (toMem : Bool) : List (List Piece) :=
  let p := t.prog.toNat
  let before := (d.images.take p).flatMap recvsOf
  inRotation (t.rot.map fun b => blocksOf toMem (c.received d) (bufEvents (d.eng.val % 8) b (traceImage (d.image p)) before) [])

/-- Memory addresses that fill an engine's part of a tensor, byte by byte. -/
def Cmd.fillVas (c : Cmd) (t : TenD) (d : EngD) : List Nat := (c.blocks t d false).flatMap blockVas

/-- Bytes under an LST handle on an engine, bank by bank. -/
def State.handleBytes (s : State) (c : CtxId) (e : EngineId) (h : W16) (n : Nat) : List Byte :=
  let bs := (List.finRange 16).filter fun b =>
    let k := (s.slice e).banks[b]
    k.state == .visible && k.handle == h && k.owner == some (c, (s.ctx c).gen)
  (bs.flatMap fun b => memReadList s.mem (lstKey e b.val 0) (min n (2 ^ 18))).take n

/-- Bytes an engine reads of a tensor, as they are visible now. -/
def State.engineBytes (s : State) (c : Cmd) (t : TenD) (d : EngD) : List Byte :=
  if t.prog = 0xFF then s.handleBytes c.ctx d.eng t.handle t.bytes
  else (c.fillVas t d).map fun va => s.ctxByte c.ctx va

/-- Every operand of a command on every engine, as visible now: (tensor, engine, bytes). -/
def State.gatherOps (s : State) (c : Cmd) : List (Nat × EngineId × List Byte) :=
  ((List.range c.kb.tens.length).zip c.kb.tens).flatMap fun x => c.kb.engs.map fun d => (x.1, d.eng, s.engineBytes c x.2 d)

/-- Bytes gathered for a tensor on an engine. -/
def opsAt (ops : List (Nat × EngineId × List Byte)) (ti : Nat) (e : EngineId) : List Byte :=
  match ops.find? fun o => o.1 == ti && o.2.1 == e with
  | some (_, _, bs) => bs
  | none => []

/-- Bytes of a whole shard: the lowest engine's when they cover it, else those of all engines in table order. -/
def wholeBytes (ops : List (Nat × EngineId × List Byte)) (c : Cmd) (ti : Nat) (t : TenD) : List Byte :=
  let parts := c.kb.engs.map fun d => opsAt ops ti d.eng
  let one := (sortBy (fun (d : EngD) => d.eng.val) c.kb.engs).head?.map fun d => opsAt ops ti d.eng
  let bs := match one with
    | some b => if t.bytes ≤ b.length then b else parts.flatten
    | none => []
  bs ++ List.replicate (t.bytes - bs.length) 0

/-- Scaling of a tensor as its record has it. -/
def State.scaling (s : State) (c : Cmd) (t : TenD) : Scaling :=
  match t.slot? with
  | none => {}
  | some k => { exp := ((s.ctx c.ctx).scale k).exp, deltas := ((s.ctx c.ctx).scale k).deltas }

/-- Scaling of an output: with the tile deltas a replay carries (R57). -/
def State.scalingOut (s : State) (c : Cmd) (t : TenD) : Scaling :=
  match t.slot? with
  | none => {}
  | some k =>
    { exp := ((s.ctx c.ctx).scale k).exp
      deltas := (c.deltas.filter fun d => d.1 == k).map (fun d => (d.2.1, d.2.2)) ++ ((s.ctx c.ctx).scale k).deltas }

/-- Values of a tensor of a command. -/
def State.tensorVals (s : State) (ops : List (Nat × EngineId × List Byte)) (c : Cmd) (ti : Nat) : Array Val :=
  match (c.kb.tens[ti]? : Option TenD) with
  | none => #[]
  | some t => shardVals t c.kb.tag.toNat (s.scaling c t) (wholeBytes ops c ti t)

end Sys2Proof.Machine
end

