-- ==== Sys2Proof/Machine/Kernel.lean ====
section
/-! DEFINITION. What kernel commands compute: MATMUL, VECTOR, REDUCE, attention, the fused optimiser update (R66-R81, R87,
R91, R97, R109-R122, R547). -/
namespace Sys2Proof.Machine

/-- Operand bytes of a command: tensor, engine, bytes. -/
abbrev Ops := List (Nat × EngineId × List Byte)

def Cmd.opb (c : Cmd) (k : Nat) : Nat := leAt c.kb.op k 1
def Cmd.opw (c : Cmd) (k : Nat) : Nat := leAt c.kb.op k 4
def Cmd.tag (c : Cmd) : Nat := c.kb.tag.toNat
def Cmd.ten? (c : Cmd) (k : Nat) : Option TenD := c.kb.tens[k]?
/-- Tensor index at an offset of the op descriptor; 0xFF is none. -/
def Cmd.tix (c : Cmd) (off : Nat) : Option Nat := if c.opb off = 0xFF then none else some (c.opb off)

/-- The tensor whose rotation on a program slot holds a buffer. -/
def Cmd.rotOf (c : Cmd) (ixs : List Nat) (rel : Nat) (b : Fin 4) : Option TenD :=
  ixs.findSome? fun k => (c.ten? k).filter fun t => decide (t.prog.toNat = rel) && t.rot.contains b

/-- The tensor of a role, where one is named (R289). -/
def Cmd.role (c : Cmd) (k : Nat) : Option TenD := (c.tix (0xC + k)).bind c.ten?

/-- Segments of a reduction length (R67). -/
def segCount (k : Nat) : Nat := ceilDiv k 4096
/-- Values of one output tensor; `raw` marks bits that are written as they are. -/
structure OutVals where
  ten : Nat
  vals : Array (Option Two)
  raw : Bool := false
deriving DecidableEq, Repr

/-! ### MATMUL -/

/-- The fields of R288 and R287 that the computation uses. -/
structure Mat where
  r : Nat
  c : Nat
  mb : Nat
  nb : Nat
  m : Nat
  n : Nat
  first : Nat
  cnt : Nat
  klen : Nat
  segLo : Nat
  segHi : Nat
  seed : Bool
deriving DecidableEq, Repr

def Cmd.mat (c : Cmd) : Mat :=
  let sh := c.opb 0 % 4
  let g := c.kb.geom
  { r := if sh = 0 then 32 else if sh = 1 then 16 else 8, c := if sh = 0 then 32 else if sh = 1 then 64 else 128,
    mb := c.opb 1, nb := c.opb 2, m := c.opw 8, n := c.opw 0xC, first := c.opb 0x10, cnt := c.opb 0x11,
    klen := (g.map (·.klen)).getD 0, segLo := (g.map (·.segLo)).getD 0, segHi := (g.map (·.segHi)).getD 0, seed := bitOf (c.opb 6) 0 }

/-- Tile rows and columns of the output, and its tiles (R87). -/
def Mat.tileRows (x : Mat) : Nat := ceilDiv x.m (max 1 (x.mb * x.r))
def Mat.tileCols (x : Mat) : Nat := ceilDiv x.n (max 1 (x.nb * x.c))
def Mat.tiles (x : Mat) : Nat := x.tileRows * x.tileCols
/-- Unmasked output rows and columns of a tile (R89). -/
def Mat.rowsOf (x : Mat) (t : Nat) : List Nat :=
  let h := x.mb * x.r; let a := t / max 1 x.tileCols * h
  (List.range (min h (x.m - a))).map (a + ·)
def Mat.colsOf (x : Mat) (t : Nat) : List Nat :=
  let w := x.nb * x.c; let a := t % max 1 x.tileCols * w
  (List.range (min w (x.n - a))).map (a + ·)
/-- Tiles of an engine, ascending (R97). -/
def Mat.engTiles (x : Mat) (e : Nat) : List Nat := (List.range x.tiles).filter fun t => decide (x.first + t % max 1 x.cnt = e)
def Mat.segs (x : Mat) : List Nat := if x.klen = 0 then [] else (List.range (x.segHi + 1 - x.segLo)).map (x.segLo + ·)
/-- Positions of a segment within the K range held. -/
def Mat.ks (x : Mat) (g : Nat) : List Nat := (List.range (min 4096 (x.klen - g * 4096))).map ((g - x.segLo) * 4096 + ·)
/-- Nodes the command emits (R70); none when K is 0. -/
def Mat.nodes (x : Mat) : List (Nat × Nat) := if x.klen = 0 then [] else nodesOf x.segLo x.segHi (segCount x.klen)
/-- The output is the root. -/
def Mat.isRoot (x : Mat) : Bool := decide (x.klen = 0) || (decide (x.segLo = 0) && decide (x.segHi + 1 = segCount x.klen))

/-- The bytes an engine streams hold the blocks of its tiles one after the other, of so many bytes in all, and not the whole shard:
they reach that many, and the whole shard does not fit or is shorter. -/
def inBlocks (t : TenD) (size blocks : Nat) : Bool := decide (blocks ≤ size) && (decide (size < t.bytes) || decide (t.bytes < blocks))

/-- Values of some rows and columns of a shard: from bytes that hold the whole shard, or a block of its own at an offset. -/
def subVals (t : TenD) (tag : Nat) (sc : Scaling) (bs : Array Byte) (whole : Bool) (off : Nat) (rows cols : List Nat) : List (List Val) :=
  let blk := bs.extract off (off + shardBytes t.fmt.val rows.length cols.length)
  ((List.range rows.length).zip rows).map fun (r : Nat × Nat) => ((List.range cols.length).zip cols).map fun (k : Nat × Nat) =>
    let n := r.2 * t.cols + k.2
    let v := if whole then storedElem t.fmt.val tag t.rows t.cols bs n
      else storedElem t.fmt.val tag rows.length cols.length blk (r.1 * cols.length + k.1)
    match t.slot? with
    | none => v
    | some _ => scaleV (sc.at_ (t.tile n)) v

/-- Where the blocks of an engine's tiles start in its A, B and seed bytes, and how many bytes they take in all. -/
def matStarts (x : Mat) (fa fb fs : Nat) (ts : List Nat) : List (Nat × Nat × Nat × Nat) × Nat × Nat × Nat :=
  ts.foldl (fun (acc : List (Nat × Nat × Nat × Nat) × Nat × Nat × Nat) t =>
    let (l, a, b, d) := acc
    let rows := (x.rowsOf t).length
    let cols := (x.colsOf t).length
    let sum (f n : Nat) : Nat := (x.segs.map fun g => shardBytes f n (x.ks g).length).sum
    (l ++ [(t, a, b, d)], a + sum fa rows, b + sum fb cols, d + shardBytes fs rows cols)) ([], 0, 0, 0)

/-- Operands of one tile: its output rows and columns, the A vector of each row and the B vector of each column by segment held, and
the seed of each element. -/
structure TileOps where
  rows : List Nat
  cols : List Nat
  va : List (List (List Val))
  vb : List (List (List Val))
  seeds : List (List Val)
deriving DecidableEq, Repr

/-- The operands of a tile, from the bytes its engine has. -/
def State.tileOps (s : State) (ops : Ops) (c : Cmd) (t : Nat) : Option TileOps :=
  let x := c.mat
  let e : EngineId := Fin.ofNat 64 (x.first + t % max 1 x.cnt)
  match c.ten? (c.opb 0x12), c.ten? (c.opb 0x13) with
  | some ta, some tb =>
    let sd := if x.seed then (c.ten? (c.opb 0x14)).map fun d => (c.opb 0x14, d) else none
    let fs := (sd.map (·.2.fmt.val)).getD 0
    let (starts, na, nb, nd) := matStarts x ta.fmt.val tb.fmt.val fs (x.engTiles e.val)
    let (_, oa, ob, os) := (starts.find? fun y => y.1 == t).getD (t, 0, 0, 0)
    let rows := x.rowsOf t
    let cols := x.colsOf t
    let arr (k : Nat) : Array Byte := (opsAt ops k e).toArray
    let ba := arr (c.opb 0x12)
    let bb := arr (c.opb 0x13)
    let seg (u : TenD) (bs : Array Byte) (all off : Nat) (ls : List Nat) : List (List (List Val)) :=
      (x.segs.foldl (fun (acc : List (List (List Val)) × Nat) g =>
        (acc.1 ++ [subVals u c.tag (s.scaling c u) bs (!inBlocks u bs.size all) acc.2 ls (x.ks g)], acc.2 + shardBytes u.fmt.val ls.length (x.ks g).length)) ([], off)).1
    let va := seg ta ba na oa rows
    let vb := seg tb bb nb ob cols
    let vs := match sd with
      | some (k, u) => subVals u c.tag (s.scaling c u) (arr k) (!inBlocks u (arr k).size nd) os rows cols
      | none => []
    some { rows, cols, va, vb, seeds := vs }
  | _, _ => none

/-- What one tile computes: output element of the shard and value. A seed is taken as an F32 value (R48, R67). -/
def State.matTile (s : State) (ops : Ops) (c : Cmd) (t : Nat) : List (Nat × Two) :=
  let x := c.mat
  match s.tileOps ops c t with
  | none => []
  | some o =>
    let ns := x.nodes
    ((List.range o.rows.length).zip o.rows).flatMap fun (i : Nat × Nat) => ((List.range o.cols.length).zip o.cols).flatMap fun (j : Nat × Nat) =>
      let seed := rndF32 ((o.seeds.getD i.1 []).getD j.1 .zero)
      let leaves := ((List.range x.segs.length).zip x.segs).map fun (g : Nat × Nat) =>
        segmentValue c.tag (if g.2 = 0 then seed else .zero)
          (((o.va.getD g.1 []).getD i.1 []).zip ((o.vb.getD g.1 []).getD j.1 []) |>.map fun p => mulV c.tag p.1 p.2)
      if ns.isEmpty then [(i.2 * x.n + j.2, exactly seed)]
      else ((List.range ns.length).zip ns).map fun (q : Nat × Nat × Nat) =>
        ((q.1 * x.m + i.2) * x.n + j.2, exactly ((nodeValue (nodeAdd c.tag 0) x.segLo (segCount x.klen) leaves q.2).getD .zero))

/-- An array of some elements; the others are not written. -/
def sparse (n : Nat) (l : List (Nat × Two)) : Array (Option Two) :=
  l.foldl (fun (a : Array (Option Two)) x => a.setIfInBounds x.1 (some x.2)) (Array.replicate n none)

def State.matVals (s : State) (ops : Ops) (c : Cmd) (ts : List Nat) : List OutVals :=
  match c.ten? (c.opb 0x15) with
  | none => []
  | some o => [{ ten := c.opb 0x15, vals := sparse o.count (ts.flatMap fun t => s.matTile ops c t) }]

/-! ### Masks (R112) -/

/-- The n-th element of a shard is masked by the command's index mask. -/
def Cmd.masked (c : Cmd) (t : TenD) (n : Nat) : Bool :=
  let d := c.opb 2
  d != 0xFF && (decide (t.coord (d % 4) n < c.opw 4) || decide (c.opw 8 < t.coord (d % 4) n))

/-! ### VECTOR -/

/-- Operand k of a VECTOR: a tensor's values, or its scalar everywhere. -/
def State.vecArg (s : State) (ops : Ops) (c : Cmd) (k : Nat) : Nat → Val :=
  match c.tix (0xC + k) with
  | some i => let a := s.tensorVals ops c i; fun n => a.getD n .zero
  | none => fun _ => ofF32 c.tag (c.opw (0x14 + 4 * k))

def State.vectorVals (s : State) (ops : Ops) (c : Cmd) : List OutVals :=
  match c.tix 0xF with
  | none => []
  | some o => match c.ten? o with
    | none => []
    | some t =>
      let a := s.vecArg ops c 0
      let b := s.vecArg ops c 1
      let d := s.vecArg ops c 2
      [{ ten := o, vals := ((List.range t.count).map fun n =>
          if c.masked t n then none else some (vecFn (c.opb 0) c.tag (a n) (b n) (d n))).toArray }]

/-! ### REDUCE (R78-R81, R113, R289) -/

/-- Segments a REDUCE holds, and its reduction length. -/
def Cmd.redGeom (c : Cmd) (t : TenD) : Nat × Nat × Nat :=
  match c.kb.geom with
  | some g => (g.klen, g.segLo, g.segHi)
  | none => let k := t.d (c.opb 3 % 4); (k, 0, segCount k - 1)

/-- A REDUCE holds every segment, so that its output is the root (R70, R113). -/
def Cmd.redRoot (c : Cmd) (t : TenD) : Bool :=
  let (k, a, b) := c.redGeom t
  decide (k = 0) || (a == 0 && b + 1 == segCount k)

/-- Nodes of a REDUCE: the root only when it holds every segment. -/
def Cmd.redNodes (c : Cmd) (t : TenD) : List (Nat × Nat) :=
  let (k, a, b) := c.redGeom t
  if k = 0 then [(0, 0)] else nodesOf a b (segCount k)

/-- Elements of the output beside the reduced dimension. -/
def TenD.others (t : TenD) (k : Nat) : Nat := (List.range 4).foldl (fun n j => if j = k then n else n * t.e j) 1
/-- The p-th element along dimension k of output element o. -/
def TenD.along (t : TenD) (k o p : Nat) : Nat :=
  let inner := (List.range 4).foldl (fun n j => if k < j then n * t.e j else n) 1
  o / inner * (t.e k * inner) + p * inner + o % inner

/-- Coordinate along dimension d of output element o of a REDUCE along another dimension k. -/
def TenD.otherCoord (t : TenD) (k d o : Nat) : Nat :=
  let inner := (List.range 4).foldl (fun n j => if d < j ∧ j ≠ k then n * t.e j else n) 1
  t.o d + o / inner % max 1 (t.e d)

/-- An output element of a REDUCE that an index mask leaves alone: of an empty mask range, or at a masked coordinate of a dimension
that is not reduced. Where the mask runs along the reduced dimension, masked positions are padding, and the element is written even
if every position held is one (R63, R70, R112). -/
def Cmd.redSkips (c : Cmd) (t : TenD) (o : Nat) : Bool :=
  let d := c.opb 2
  let k := c.opb 3 % 4
  d != 0xFF && (decide (c.opw 8 < c.opw 4) || (decide (d % 4 ≠ k) &&
    (decide (t.otherCoord k (d % 4) o < c.opw 4) || decide (c.opw 8 < t.otherCoord k (d % 4) o))))

/-- The main and the second output of a node (value, index or variance). With KLEN 0 the value is +0 (R76) and the index, of which
the manual says nothing, 0 (DESIGN CHOICE). Of positions that are all masked the manual states no extreme value and no index: both
are free. -/
def Cmd.redNode (c : Cmd) (t : TenD) (vals : Array Val) (o : Nat) (node : Nat × Nat) : Two × Two :=
  let k := c.opb 3 % 4
  let (klen, lo, _) := c.redGeom t
  let el (p : Nat) : Option (Val × Nat) :=
    let n := t.along k o p
    if c.masked t n then none else some (vals.getD n .zero, t.coord k n)
  let segs := runsOf 4096 ((List.range (t.e k)).map el)
  let nv {α : Type} (f : α → α → α) (l : List α) : Option α := nodeValue f lo (segCount klen) l node
  let zeros (g : List (Option (Val × Nat))) (f : Val → Val) : List Val := g.map fun x => ((x.map fun v => f v.1)).getD .zero
  match c.opb 0 with
  | 0 => let v := (nv (nodeAdd c.tag 0) (segs.map fun g => segmentValue c.tag .zero (zeros g id))).getD .zero; (exactly v, exactly .zero)
  | 1 => let v := (nv (nodeAdd c.tag 0) (segs.map fun g => segmentValue c.tag .zero (zeros g fun v => mulV c.tag v v))).getD .zero
         (exactly v, exactly .zero)
  | 6 =>
    let leaf (g : List (Option (Val × Nat))) : Option Triple :=
      match ((runsOf 32 g).map fun h => h.filterMap fun x => x.map (·.1)).filter (!·.isEmpty) with
      | [] => none
      | h :: r => some (r.foldl (fun a x => tripleAdd c.tag a (tripleLeaf c.tag x)) (tripleLeaf c.tag h))
    let join (a b : Option Triple) : Option Triple := match a, b with
      | some x, some y => some (tripleAdd c.tag x y)
      | some x, none => some x
      | none, y => y
    let r := (nv join (segs.map leaf)).getD none
    if c.redRoot t then let (m, v) := meanVar c.tag (c.opb 1 % 2) r; (exactly m, exactly v)
    else
      let nothing := mkNan cInvalidDiv c.tag
      (exactly ((r.map (·.mu)).getD nothing), exactly ((r.map (·.q)).getD nothing))
  | f =>
    let less := f == 3 || f == 5
    let pick (a b : Val × Nat) : Val × Nat :=
      if f = 4 ∨ f = 5 then argBest less a b else if a.1.isNan then a else if b.1.isNan then b else if f = 2 then (maxV a.1 b.1, 0) else (minV a.1 b.1, 0)
    let leaf (g : List (Option (Val × Nat))) : Option (Val × Nat) := match g.filterMap id with
      | [] => none
      | h :: r => some (r.foldl pick h)
    let join (a b : Option (Val × Nat)) : Option (Val × Nat) := match a, b with
      | some x, some y => some (pick x y)
      | some x, none => some x
      | none, y => y
    let empty : Val × Nat := if klen = 0 then (.zero, 0) else (ofF32 c.tag (Config.emptyExtreme f).toNat, (Config.emptyIndex f).toNat)
    let (v, i) := ((nv join (segs.map leaf)).getD none).getD empty
    (exactly v, exactly (.fin i))

def State.reduceVals (s : State) (ops : Ops) (c : Cmd) : List OutVals :=
  match c.tix 0xC, c.tix 0xF with
  | some ti, some to_ => match c.ten? ti, c.ten? to_ with
    | some t, some u =>
      let vals := s.tensorVals ops c ti
      let k := c.opb 3 % 4
      let w := t.others k
      let rs := ((List.range (c.redNodes t).length).zip (c.redNodes t)).flatMap fun (j : Nat × Nat × Nat) =>
        (List.range w).filterMap fun o =>
          if c.redSkips t o then none
          else some (j.1 * w + o, c.redNode t vals o j.2)
      let main := sparse u.count (rs.map fun x => (x.1, x.2.1))
      let rawIx := c.opb 0 == 4 || c.opb 0 == 5
      { ten := to_, vals := main } :: (match c.tix 0x10 with
        | none => []
        | some i => [{ ten := i, vals := sparse ((c.ten? i).map TenD.count |>.getD 0) (rs.map fun x => (x.1, x.2.2)), raw := rawIx }])
    | _, _ => []
  | _, _ => []

/-! ### Attention (R114-R118) -/

/-- Row r of a matrix of values with some columns. -/
def rowOf (a : Array Val) (cols r : Nat) : List Val := (List.range cols).map fun k => a.getD (r * cols + k) .zero

/-- A value rounded to the P format to nearest and decoded; a NaN keeps its payload. -/
def pRound (fmt : Nat) (v : Two) : Val :=
  match v.1 with
  | .nan .. => v.1
  | _ => decodeScalar fmt 0 (settle (16 + fmt) (toScalar fmt .nearest v.1).1 (toScalar fmt .nearest v.2).1)

/-- A state of online softmax; none is the empty state. -/
structure Soft where
  m : Val
  l : Val
  o : List Val
deriving DecidableEq, Repr

/-- Exponential of a difference, rounded once to F32. -/
def expDiff (tag : Nat) (a m : Val) : Val := rndTwo (unary 0x13 tag (addV tag a m.neg))

/-- R116. -/
def softJoin (tag : Nat) : Option Soft → Option Soft → Option Soft
  | none, none => none
  | none, some b => if b.m = .inf true then none else some b
  | some a, none => if a.m = .inf true then none else some a
  | some a, some b =>
    let m := maxV a.m b.m
    let w (x : Soft) : Val := if x.m = .inf true then .zero else expDiff tag x.m m
    if a.m = .inf true ∧ b.m = .inf true then none
    else
      let α := w a
      let β := w b
      let mix (x y : Val) : Val := rndF32 (addV tag (mulV tag x α) (mulV tag y β))
      some { m, l := mix a.l b.l, o := (a.o.zip b.o).map fun p => mix p.1 p.2 }

/-- Shapes of attention: batch rows of DIM0 × DIM1, then sequence, then feature. -/
structure AttnShape where
  batch : Nat
  q : Nat
  k : Nat
  d : Nat
  dv : Nat
  q0 : Nat
  k0 : Nat
deriving DecidableEq, Repr

def Cmd.attnShape (c : Cmd) : AttnShape :=
  match c.ten? (c.opb 0xC), c.ten? (c.opb 0xD), c.ten? (c.opb 0xE) with
  | some q, some k, some v => { batch := q.e 0 * q.e 1, q := q.e 2, k := k.e 2, d := q.e 3, dv := v.e 3, q0 := q.o 2, k0 := k.o 2 }
  | _, _, _ => { batch := 0, q := 0, k := 0, d := 0, dv := 0, q0 := 0, k0 := 0 }

/-- Key j of query i is masked: past the causal limit, or by an index mask on the sequence dimension (R112, R114). -/
def Cmd.keyMasked (c : Cmd) (i j : Nat) : Bool :=
  (bitOf (c.opb 1) 2 && decide ((i : Int) + signedOf 32 (c.opw 0x24) < j)) ||
    (c.opb 2 == 2 && (decide (j < c.opw 4) || decide (c.opw 8 < j)))

/-- t_j of one query row, −inf where masked (R114). -/
def Cmd.scoreRow (c : Cmd) (x : AttnShape) (q k : Array Val) (b i : Nat) : List Val :=
  let qr := rowOf q x.d (b * x.q + i)
  let sigma := ofF32 c.tag (c.opw 0x20)
  (List.range x.k).map fun j =>
    if c.keyMasked (x.q0 + i) (x.k0 + j) then .inf true
    else rndF32 (mulV c.tag (reduceSum c.tag .zero ((qr.zip (rowOf k x.d (b * x.k + j))).map fun p => mulV c.tag p.1 p.2)) sigma)

def Cmd.pFmt (c : Cmd) : Nat := if bitOf (c.opb 1) 1 then fE8 else fA16

/-- State of one key segment (R115); keys are given with their numbers. -/
def Cmd.softSegment (c : Cmd) (x : AttnShape) (v : Array Val) (b i : Nat) (ts : List (Nat × Val)) : Option Soft :=
  if ts.all fun t => c.keyMasked (x.q0 + i) (x.k0 + t.1) then none
  else
    let m := ts.foldl (fun m t => maxV m t.2) (.inf true)
    let ps := ts.map fun t => if c.keyMasked (x.q0 + i) (x.k0 + t.1) then Val.zero else pRound c.pFmt (unary 0x13 c.tag (addV c.tag t.2 m.neg))
    some { m, l := segmentValue c.tag .zero ps
           o := (List.range x.dv).map fun k => segmentValue c.tag .zero
             ((ts.zip ps).map fun y => mulV c.tag y.2 (v.getD ((b * x.k + y.1.1) * x.dv + k) .zero)) }

/-- m + ln l (R117). -/
def logSumExp (tag : Nat) : Option Soft → Two
  | none => exactly (.inf true)
  | some s =>
    match s.m, unary 0x15 tag s.l with
    | .fin m, (.fin a, .fin _) => if s.l = one then exactly (.fin m) else match s.l with
      | .fin l => spread (m + lnQ l)
      | _ => exactly (.fin (m + a))
    | m, (a, _) => exactly (addV tag m a)

def State.attnFwdVals (s : State) (ops : Ops) (c : Cmd) : List OutVals :=
  let x := c.attnShape
  let q := s.tensorVals ops c (c.opb 0xC)
  let k := s.tensorVals ops c (c.opb 0xD)
  let v := s.tensorVals ops c (c.opb 0xE)
  let rows := (List.range x.batch).flatMap fun (b : Nat) => (List.range x.q).map fun (i : Nat) =>
    let ts := (List.range x.k).zip (c.scoreRow x q k b i)
    (treeVal (softJoin c.tag) ((runsOf 4096 ts).map fun g => c.softSegment x v b i g)).getD none
  let keep (t : TenD) (n : Nat) (w : Two) : Option Two := if c.opb 2 ≠ 2 ∧ c.masked t n then none else some w
  let o := match c.tix 0xF with
    | some i => match c.ten? i with
      | some t => [{ ten := i, vals := (((List.range (rows.length * x.dv)).zip (rows.flatMap fun r => match r with
          | none => List.replicate x.dv (exactly Val.zero)
          | some z => z.o.map fun y => exactly (divV c.tag y z.l))).map fun y => keep t y.1 y.2).toArray : OutVals }]
      | none => []
    | none => []
  let l := match c.tix 0x10 with
    | some i => match c.ten? i with
      | some t => [{ ten := i, vals := (((List.range rows.length).zip rows).map fun y => keep t y.1 (logSumExp c.tag y.2)).toArray : OutVals }]
      | none => []
    | none => []
  o ++ l

/-- R118. -/
def State.attnBwdVals (s : State) (ops : Ops) (c : Cmd) : List OutVals :=
  let x := c.attnShape
  let q := s.tensorVals ops c (c.opb 0xC)
  let k := s.tensorVals ops c (c.opb 0xD)
  let v := s.tensorVals ops c (c.opb 0xE)
  let o := s.tensorVals ops c (c.opb 0xF)
  let lse := s.tensorVals ops c (c.opb 0x10)
  let dO := s.tensorVals ops c (c.opb 0x11)
  match c.tix 0x12 with
  | none => []
  | some di => match c.ten? di with
    | none => []
    | some t =>
      let vs := (List.range x.batch).flatMap fun (b : Nat) => (List.range x.q).flatMap fun (i : Nat) =>
        let r := b * x.q + i
        let dor := rowOf dO x.dv r
        let dr := reduceSum c.tag .zero ((dor.zip (rowOf o x.dv r)).map fun p => mulV c.tag p.1 p.2)
        ((List.range x.k).zip (c.scoreRow x q k b i)).map fun (y : Nat × Val) =>
          if c.keyMasked (x.q0 + i) (x.k0 + y.1) then exactly Val.zero
          else
            let p := pRound c.pFmt (unary 0x13 c.tag (addV c.tag y.2 (lse.getD r .zero).neg))
            let dp := reduceSum c.tag .zero ((dor.zip (rowOf v x.dv (b * x.k + y.1))).map fun z => mulV c.tag z.1 z.2)
            exactly (mulV c.tag p (addV c.tag dp dr.neg))
      [{ ten := di, vals := (((List.range vs.length).zip vs).map fun y => if c.opb 2 ≠ 2 ∧ c.masked t y.1 then none else some y.2).toArray }]

/-! ### OPT_UPDATE (R119-R121) -/

/-- NARROW of the parameter block. -/
def Cmd.narrow (c : Cmd) : Bool := bitOf (c.opw 0x24) 0

/-- One element: m1, v1 and the new W. -/
def optElem (tag : Nat) (p : Nat → Val) (gamma w g m v : Val) : Val × Val × Val :=
  let gs := rndF32 (mulV tag g gamma)
  let m1 := rndF32 (addV tag (mulV tag (p 1) m) (mulV tag (p 2) gs))
  let v1 := rndF32 (addV tag (mulV tag (p 3) v) (mulV tag (mulV tag (p 4) gs) gs))
  let dn := rndTwo (unary 0x11 tag (mulV tag v1 (p 8)))
  let u := rndF32 (divV tag (mulV tag m1 (p 7)) (addV tag dn (p 5)))
  (m1, v1, rndF32 (addV tag w (mulV tag (p 0) (addV tag u (mulV tag (p 6) w))).neg))

/-- Index under which the operands of an update keep the γ it read at issue (R120): no tensor has it. -/
def gammaIx : Nat := 0xFF

/-- γ as it stands now. -/
def State.readGamma (s : State) (c : Cmd) : Nat × EngineId × List Byte := (gammaIx, 0, s.ctxBytes c.ctx (leAt c.kb.op 0x28 8) 4)

def State.optVals (s : State) (ops : Ops) (c : Cmd) : List OutVals :=
  match c.ten? 0 with
  | none => []
  | some t =>
    let w := s.tensorVals ops c 0
    let g := s.tensorVals ops c 1
    let m := s.tensorVals ops c 2
    let v := s.tensorVals ops c 3
    let gamma := ofF32 c.tag (ofLe (opsAt c.operands gammaIx 0))
    let lo := leAt c.kb.op 0x30 6
    let n := leAt c.kb.op 0x38 6
    let rs := (List.range t.count).map fun i =>
      if lo ≤ t.idx i ∧ t.idx i < lo + n then
        some (optElem c.tag (fun k => ofF32 c.tag (c.opw (4 * k))) gamma (w.getD i .zero) (g.getD i .zero) (m.getD i .zero) (v.getD i .zero))
      else none
    let out (k : Nat) (f : Val × Val × Val → Val) : OutVals := { ten := k, vals := (rs.map fun r => r.map fun x => exactly (f x)).toArray }
    [out 0 (·.2.2), out 2 (·.1), out 3 (·.2.1)] ++ (if c.narrow then [out 4 (·.2.2)] else [])

/-! ### Landing -/

/-- What a command's computation gives. -/
structure KOut where
  cells : List Host.Cell := []
  /-- Bytes for LST handles: engine, handle, offset, byte. -/
  lst : List (EngineId × W16 × List (Nat × Byte)) := []
  amax : List (Nat × W32) := []
  /-- Overflowing tiles: tensor, tile, amax. -/
  spill : List (Nat × Nat × Rat) := []
  nans : List NanRec := []
  /-- Free bytes drawn. -/
  drawn : Nat := 0
deriving DecidableEq, Repr

def KOut.join (a b : KOut) : KOut :=
  { cells := a.cells ++ b.cells, lst := a.lst ++ b.lst, amax := a.amax ++ b.amax, spill := a.spill ++ b.spill, nans := a.nans ++ b.nans,
    drawn := a.drawn + b.drawn }

/-- Offsets in a shard of the bytes of a tile's output block: the elements of its units, then their scales. The manual does not lay
a block out in LST (DESIGN CHOICE). -/
def Cmd.tileBlock (c : Cmd) (t : TenD) (k : Nat) : List Nat :=
  let x := c.mat
  let (ub, us) := unitBytes t.fmt.val
  let plane := unitsOf t.fmt.val t.rows t.cols * ub
  let units := ((List.range (max 1 x.nodes.length)).flatMap fun (j : Nat) => (x.rowsOf k).flatMap fun (i : Nat) => (x.colsOf k).filterMap fun (q : Nat) =>
    let (u, p) := unitOf t.fmt.val t.cols ((j * x.m + i) * x.n + q)
    if p = 0 then some u else none)
  units.flatMap (fun u => (List.range ub).map fun b => u * ub + b) ++ units.flatMap fun u => (List.range us).map fun b => plane + u * us + b

/-- Offsets in a shard in the order an engine puts them under an LST handle: all of it, or its tiles' blocks. -/
def Cmd.handleOrder (c : Cmd) (t : TenD) (d : EngD) : List Nat :=
  match c.op with
  | .matmul .. => if c.kb.engs.length ≤ 1 then List.range t.bytes else (c.mat.engTiles d.eng.val).flatMap (c.tileBlock t)
  | _ => List.range t.bytes

/-- What the drains of an output buffer carry of a block: where each byte lies in the block, and its address (R141). -/
def drainOf (ps : List Piece) : List (Nat × Nat) := ps.flatMap fun p => (List.range p.size).map fun j => (p.l + j, p.va + j)

/-- Bytes of an engine's drains: offset in its part, and address. Each output block is as long as its drains reach. -/
def drainFlat : List (List Piece) → Nat → List (Nat × Nat)
  | [], _ => []
  | ps :: t, base => (drainOf ps).map (fun x => (base + x.1, x.2)) ++ drainFlat t (base + blockExtent ps)

/-- What an engine drains of an output: the offset in the shard of each byte, none where it lies past what the unit wrote, and its
address. Where the drains of a MATMUL make one block a tile of the engine, the k-th block is its k-th tile; else they carry the
engine's part in the order it has under a handle. The manual does not size an output block (DESIGN CHOICE). -/
def Cmd.drains (c : Cmd) (t : TenD) (d : EngD) (base : Nat) : List (Option Nat × Nat) :=
  let bs := c.blocks t d true
  match c.op with
  | .matmul .. =>
    let tiles := c.mat.engTiles d.eng.val
    if bs.length = tiles.length then
      (tiles.zip bs).flatMap fun x =>
        let blk := (c.tileBlock t x.1).toArray
        (drainOf x.2).map fun y => ((blk[y.1]? : Option Nat), y.2)
    else
      let part := (c.handleOrder t d).toArray
      (drainFlat bs 0).map fun x => ((part[x.1]? : Option Nat), x.2)
  | _ => (drainFlat bs base).map fun x => (if x.1 < t.bytes then some x.1 else none, x.2)

/-- Bytes that the drains of each engine before one reach to; 0 where the lowest engine's cover the shard. -/
def Cmd.partBase (c : Cmd) (t : TenD) (k : Nat) : Nat :=
  let len (d : EngD) : Nat := ((c.blocks t d true).map blockExtent).sum
  let one := ((sortBy (fun (d : EngD) => d.eng.val) c.kb.engs).head?.map len).getD 0
  if t.bytes ≤ one then 0 else ((c.kb.engs.take k).map len).sum

/-- Address of each offset of a shard, with the engine that drains it, and addresses a drain writes past it. -/
def Cmd.outVas (c : Cmd) (t : TenD) : List (EngineId × Nat × Nat) × List (EngineId × Nat) :=
  if isColl (opCode c.op) then
    let va := (((outputsOf c).head?.bind fun k => (c.kb.bufs[k]? : Option BufD)).map (·.va)).getD 0
    ((List.range t.bytes).map fun (i : Nat) => (0, i, va + i), [])
  else
    let ds := ((List.range c.kb.engs.length).zip c.kb.engs).flatMap fun x => (c.drains t x.2 (c.partBase t x.1)).map fun y => (x.2.eng, y)
    (ds.filterMap fun x => x.2.1.map fun o => (x.1, o, x.2.2), ds.filterMap fun x => if x.2.1.isNone then some (x.1, x.2.2) else none)

/-- The lowest engine of a command's table. SOURCE of R45 names it when the command runs on several: the manual names one engine
and does not say which. DESIGN CHOICE. -/
def Cmd.firstEng (c : Cmd) : Nat := ((sortBy (fun (d : EngD) => d.eng.val) c.kb.engs).head?.map (·.eng.val)).getD 0

/-- The output is made of tree nodes, which bypass FRU (R97, R123). -/
def Cmd.nodesOut (c : Cmd) : Bool :=
  match c.op with
  | .matmul .. => !c.mat.isRoot
  | .reduce .. => (c.role 0).any fun t => !c.redRoot t
  | _ => false

/-- How an output is converted: as its descriptor says, but the M and V blocks of an update to nearest (R121), and tree nodes with
no rounding of FRU. An F32 node is written as it is; with FMT_OUT 0x1 it has to be rounded, and is rounded to nearest whatever the
descriptor's mode (R97 calls nodes unrounded: DESIGN CHOICE). -/
def Cmd.outTen (c : Cmd) (ten : Nat) (t : TenD) : TenD :=
  if c.nodesOut || (opIsOpt c.op && (ten == 2 || ten == 3)) then { t with srBits := 0, kind := 0 } else t

/-- A first-NaN record of an output (R43-R46). -/
def nanRec (t : TenD) (source : Byte) (x : Nat × Nat × Nat) : NanRec :=
  { valid := true, format := t.fmt, cause := Fin.ofNat 64 x.2.1, tag := BitVec.ofNat 10 x.2.2, source, tid := t.tid, idx := BitVec.ofNat 48 x.1 }

/-- Bytes that an output's handle holds on an engine: what masked elements, and those an update does not reach, keep (R112, R121).
A MATMUL masks no element of its output. -/
def State.oldBytes (s : State) (c : Cmd) (t : TenD) (e : EngineId) : Array Byte :=
  if opCode c.op != 0x0510 && !isColl (opCode c.op) && t.prog == 0xFF then (s.handleBytes c.ctx e t.handle t.bytes).toArray else #[]

/-- Convert one output and find where it goes. A drain longer than the output writes bytes the manual leaves open. -/
def State.landOut (s : State) (c : Cmd) (o : OutVals) : KOut :=
  match c.ten? o.ten with
  | none => {}
  | some t =>
    let (vas, extra) := if t.prog = 0xFF && !isColl (opCode c.op) then ([], []) else c.outVas t
    let held := s.oldBytes c t (Fin.ofNat 64 c.firstEng)
    let prevBytes : Array Byte := vas.foldl (fun (a : Array Byte) p => a.setIfInBounds p.2.1 (s.ctxByte c.ctx p.2.2))
      (held ++ Array.replicate (t.bytes - held.size) 0)
    let prev (n : Nat) : Val := storedElem t.fmt.val c.tag t.rows t.cols prevBytes n
    let r : ConvOut :=
      if o.raw then { bytes := (List.range t.count).flatMap fun n => match o.vals.getD n none with
        | some (.fin q, _) => ((List.range 4).zip (le 4 q.floor.toNat)).map fun x => (4 * n + x.1, x.2)
        | _ => [] }
      else convShard (c.outTen o.ten t) (s.ctx c.ctx).seed c.kb.step c.tag (s.scalingOut c t) prev o.vals
    let new : Array (Option Byte) := r.bytes.foldl (fun (a : Array (Option Byte)) x => a.setIfInBounds x.1 (some x.2)) (Array.replicate t.bytes none)
    let cells := (vas.filterMap fun p => (new.getD p.2.1 none).map fun b => (p.2.2, b)) ++
      ((List.range extra.length).zip extra).map fun x => (x.2.2, Config.freeByte (s.free + x.1))
    let lst := if t.prog = 0xFF then c.kb.engs.map fun d =>
        let old := s.oldBytes c t d.eng
        (d.eng, t.handle, ((List.range (c.handleOrder t d).length).zip (c.handleOrder t d)).filterMap fun x =>
          ((new.getD x.2 none).orElse fun _ => (old[x.2]? : Option Byte)).map fun b => (x.1, b))
      else []
    { cells, lst, drawn := extra.length
      amax := match t.slot? with
        | some k => [(k, BitVec.ofNat 32 (settle 48 (amaxWord r.amax.1).toNat (amaxWord r.amax.2).toNat))]
        | none => []
      spill := match t.slot? with
        | some _ => r.spill.map fun x => (o.ten, x.1, x.2)
        | none => []
      nans := match r.nan with
        | some x => [nanRec t (if isColl (opCode c.op) then 0x40 else BitVec.ofNat 8 c.firstEng) x]
        | none => [] }

/-- Values of a kernel command's outputs. -/
def State.kernelVals (s : State) (ops : Ops) (c : Cmd) : List OutVals :=
  match c.op with
  | .matmul .. => s.matVals ops c (List.range c.mat.tiles)
  | .vector .. => s.vectorVals ops c
  | .reduce .. => s.reduceVals ops c
  | .attnFwd .. => s.attnFwdVals ops c
  | .attnBwd .. => s.attnBwdVals ops c
  | .optUpdate .. => s.optVals ops c
  | _ => []

/-- All outputs of a list, each with fresh draws. -/
def State.landAll (s : State) (c : Cmd) (l : List OutVals) : State × KOut :=
  l.foldl (fun (acc : State × KOut) o =>
    let k := acc.1.landOut c o
    ({ acc.1 with free := acc.1.free + k.drawn }, acc.2.join k)) (s, {})

end Sys2Proof.Machine
end

