-- ==== Sys2Proof/Machine/Granules.lean ====
section
/-! DEFINITION. Granules of stream programs: where they lie in the local store, and which of them a stream engine issues
(R135, R138, R146, R156, R161). -/
namespace Sys2Proof.Machine

/-- Physical banks a command holds on an engine, by relative number (R138). -/
def Cmd.banksOn (c : Cmd) (e : EngineId) : List (Fin 16) := (c.banks.find? fun x => x.1 == e).elim [] (·.2)

/-- Banks of a buffer. -/
def Buffer.physical (b : Buffer) (bs : List (Fin 16)) : List (Fin 16) := (bs.drop b.first).take b.banks

/-- Where a byte of a buffer lies: lines of 1,024 bytes go round its banks (R135). -/
def Buffer.key (b : Buffer) (e : EngineId) (bs : List (Fin 16)) (off : Nat) : Nat :=
  let ph := b.physical bs
  let line := off / 1024
  lstKey e (ph.getD (line % max 1 ph.length) 0).val (line / max 1 ph.length * 1024 + off % 1024)

/-- Epochs of a buffer's banks. -/
def Slice.epochs (x : Slice) (ph : List (Fin 16)) : List Byte := ph.map fun b => (x.banks[b]).epoch

/-- Position of the oldest granule of a program that has not been delivered. -/
def Prog.oldest (x : Prog) : Nat := (x.flight ++ x.todo).foldl (fun n g => min n g.pos) x.nextPos

/-- The next granule of a program may be issued: within 64 positions of the oldest undelivered one. -/
def Prog.nextGranule (x : Prog) : Option Granule :=
  if x.cid = 0 then none
  else match x.wait, x.todo with
    | .faulted, _ => none
    | .cancelled, _ => none
    | _, g :: _ => if g.pos ≤ x.oldest + 64 then some g else none
    | _, [] => none

/-- Granules in flight of an engine in one direction, those of cancelled programs too: each holds a credit. -/
def Slice.inFlight (x : Slice) (toMem : Bool) : Nat := (x.progs.toList.map fun p => (p.flight.filter fun g => g.toMem == toMem).length).sum + (x.late.filter fun l => l.gran.toMem == toMem).length

/-- Read credits and write credits toward the hub. -/
def credits (toMem : Bool) : Nat := if toMem then 64 else 256

/-- Rank of a program slot: class its command runs at, issuing before run-ahead, round robin over slots. -/
def State.slotRank (s : State) (x : Slice) (p : Fin 16) : Nat :=
  let c := s.cmd? (x.progs[p]).cid
  let prio := c.elim 3 fun c => (s.classNow c).val
  let ahead := c.any (·.runAhead)
  prio * 64 + (if ahead then 32 else 0) + (p.val + 15 - x.lastSlot.val) % 16

/-- The slot that issues next; a command that a hang stops issues no more (R430). -/
def State.nextSlot (s : State) (e : EngineId) : Option (Fin 16) :=
  let x := s.slice e
  ((List.finRange 16).filter fun p => !s.stopping (x.progs[p]).cid && ((x.progs[p]).nextGranule).any fun g => decide (x.inFlight g.toMem < credits g.toMem)).foldl
    (fun (best : Option (Fin 16)) p => match best with
      | none => some p
      | some b => if s.slotRank x p < s.slotRank x b then some p else some b) none

/-- A program issues its next granule. -/
def Prog.issueNext (x : Prog) : Prog :=
  match x.todo with
  | g :: t => { x with todo := t, flight := x.flight ++ [g], resuming := false }
  | [] => x

/-- A stream engine issues granule requests while it may; during a clock change none (R161). `n` bounds the requests. -/
def State.issueGranules (s : State) (e : EngineId) : Nat → State
  | 0 => s
  | n + 1 =>
    if s.power.changing || (s.slice e).hung then s
    else match s.nextSlot e with
      | none => s
      | some p => ((s.modProg e p Prog.issueNext).modSlice e fun x => { x with lastSlot := p }).issueGranules e n

def State.pumpEngine (s : State) (e : EngineId) : State := s.issueGranules e 320

end Sys2Proof.Machine
end

