-- ==== Sys2Proof/Machine/Landing.lean ====
section
/-! DEFINITION. Outputs of kernel commands land: LST banks, records that conversions leave, and what of a FIXED command commits when a
fault ends it (R43, R128, R136, R137, R158, R212, R315). -/
namespace Sys2Proof.Machine

def Cmd.isMatmul (c : Cmd) : Bool := opCode c.op == 0x0510
/-- Opcodes whose work runs on slices (R305). -/
def sliceOp (code : W16) : Bool := decide (0x0510 ≤ code.toNat ∧ code.toNat ≤ 0x0515)

/-- Inputs of an opcode: tensors that no role makes an output, and those both read and written. -/
def inputsOf (c : Cmd) : List Nat :=
  match c.op with
  | .optUpdate .. => [0, 1, 2, 3]
  | _ => (List.range c.kb.tens.length).filter fun k => !(outputsOf c).contains k

/-! ### LST outputs (R136, R137, R285) -/

/-- Relative banks of an engine that no buffer of the command's images covers. -/
def EngD.outBanks (d : EngD) : List Nat :=
  let defs := d.images.flatMap bufDefs
  (List.range d.banks).filter fun k => !(defs.any fun b => decide (b.2.1 ≤ k) && decide (k < b.2.1 + b.2.2))

/-- Physical banks of an engine that hold LST outputs, in ascending number. -/
def Cmd.lstBanks (c : Cmd) (e : EngineId) : List (Fin 16) :=
  match c.kb.engs.find? fun d => d.eng == e with
  | none => []
  | some d =>
    let mine := (c.banks.find? fun b => b.1 == e).elim [] (·.2)
    sortBy (·.val) (d.outBanks.filterMap fun k => (mine[k]? : Option (Fin 16)))

/-- Write LST outputs into the command's banks: each handle takes the next banks, which become SHADOW. -/
def State.stageLst (s : State) (c : Cmd) (lst : List (EngineId × W16 × List (Nat × Byte))) : State :=
  (lst.foldl (fun (acc : State × List (EngineId × Nat)) o =>
    let (e, h, bs) := o
    let from_ := assocD acc.2 e 0
    let n := ceilDiv (bs.foldl (fun m b => max m (b.1 + 1)) 0) (2 ^ 18)
    let banks := ((c.lstBanks e).drop from_).take n
    let s := acc.1.modSlice e fun x =>
      { x with banks := banks.foldl (fun v b => vmod v b fun k => { k with state := .shadow, handle := h }) x.banks }
    let cells := bs.filterMap fun b => (banks[b.1 / 2 ^ 18]? : Option (Fin 16)).map fun k => (lstKey e k.val (b.1 % 2 ^ 18), b.2)
    (s.setMem (memApply s.mem cells), assocSet acc.2 e (from_ + n))) (s, [])).1

/-- Handles that a command's LST outputs name, by engine. -/
def Cmd.outHandles (c : Cmd) : List (EngineId × W16) :=
  (outputsOf c).flatMap fun k => match c.ten? k with
    | some t => if t.prog = 0xFF then c.kb.engs.map fun d => (d.eng, t.handle) else []
    | none => []

/-- Handles that a command reads for the last time, by engine. -/
def Cmd.lastHandles (c : Cmd) : List (EngineId × W16) :=
  (inputsOf c).flatMap fun k => match c.ten? k with
    | some t => if t.prog = 0xFF ∧ t.last then c.kb.engs.map fun d => (d.eng, t.handle) else []
    | none => []

/-- Banks flip at commit (R137): old banks of the handles written and of those read for the last time become FREE, SHADOW
banks become VISIBLE; a handle written again is valid again (R439). A skipped update writes no bank, so its handles keep
theirs (R59). -/
def State.flipBanks (s : State) (c : Cmd) : State :=
  let wrote (h : EngineId × W16) : Bool := (s.slice h.1).banks.toList.any fun (b : Bank) => b.cid == c.cid && b.state == BankState.shadow && b.handle == h.2
  let outs := c.outHandles.filter wrote
  let gone := ((List.finRange 64).flatMap fun e => (outs.map (·.2)).eraseDups.map fun h => (e, h)) ++ c.lastHandles
  let s := (List.finRange 64).foldl (fun s e =>
    if gone.any (fun h => h.1 == e) || (s.slice e).banks.toList.any (fun b => b.cid == c.cid && b.state == .shadow) then
      s.modSlice e fun (x : Slice) => { x with banks := x.banks.map fun (b : Bank) =>
        if b.state == BankState.visible && b.owner == some (c.ctx, c.gen) && gone.contains (e, b.handle) then b.release
        else if b.state == BankState.shadow && b.cid == c.cid then { b with state := BankState.visible, cid := 0, seq := 0 }
        else b }
    else s) s
  s.modRas fun a => { a with invalid := a.invalid.filter fun x => !(decide (x.1 = c.ctx) && outs.contains (x.2.1, x.2.2)) }

/-! ### Merges (R43, R128) -/

/-- Larger of two F32 patterns that are not negative. -/
def f32Max (a b : W32) : W32 := if a.toNat < b.toNat then b else a

def Ctx.mergeAmax (x : Ctx) (l : List (Nat × W32)) : Ctx :=
  l.foldl (fun x p => let r := x.scale p.1; { x with scales := assocSet x.scales p.1 { r with stepAmax := f32Max r.stepAmax p.2 } }) x

/-- Commit tile deltas: a delta never decreases within a step (R60). -/
def Ctx.mergeDeltas (x : Ctx) (l : List (Nat × Nat × Int)) : Ctx :=
  l.foldl (fun x d =>
    let r := x.scale d.1
    { x with scales := assocSet x.scales d.1 { r with deltas := assocSet r.deltas d.2.1 (max (assocD r.deltas d.2.1 0) d.2.2) } }) x

/-- The first-NaN record takes a NaN of a committed output. -/
def NanRec.take (r n : NanRec) : NanRec := if r.valid then { r with more := true } else n

/-- Of one output the NaN of lowest logical index counts (R43), in whatever order its parts land: where the record holds a NaN of
the same output, the lower index stands. `held` are the command's NaNs so far, one for each output. -/
def NanRec.takeOf (held : List NanRec) (r n : NanRec) : NanRec :=
  match held.find? fun h => h.tid == n.tid with
  | none => r.take n
  | some h => if r.valid && r.tid == h.tid && r.idx == h.idx && decide (n.idx.toNat < h.idx.toNat) then { n with more := r.more } else r

/-- The command's NaNs, one for each output, with one more. -/
def nanJoin (held : List NanRec) (n : NanRec) : List NanRec :=
  if held.any fun h => h.tid == n.tid then held.map fun h => if h.tid = n.tid ∧ n.idx.toNat < h.idx.toNat then n else h else held ++ [n]

/-- Some cells write every line of a page (R199, R200). -/
def Page.whole (p : Page) (cells : List Host.Cell) : Bool :=
  ((cells.filter fun x => decide (p.va ≤ x.1) && decide (x.1 < p.va + p.size.bytes)).map fun x => x.1 / 64).eraseDups.length == p.size.bytes / 64

/-- A page all of whose lines a commit writes is poisoned no more (R212). -/
def State.clearPoison (s : State) (c : CtxId) (cells : List Host.Cell) : State :=
  s.modPages (fun p => decide (p.ctx = c) && (p.poison || p.lost) && p.whole cells) fun p => { p with poison := false, lost := false }

/-- Records that a command's conversions leave: amax, deltas, first NaN, step-skip flag. -/
def State.mergeRecords (s : State) (c : Cmd) (amax : List (Nat × W32)) (held nans : List NanRec) (skip : Bool) : State :=
  s.modCtx c.ctx fun x =>
    let x := (x.mergeAmax amax).mergeDeltas c.deltas
    { x with nan := nans.foldl (NanRec.takeOf held) x.nan, skip := if skip ∧ !x.skip.contains c.kb.step then c.kb.step :: x.skip else x.skip }

/-! ### FIXED work (R57, R158, R315) -/

/-- Outputs of a FIXED command land as they are computed. -/
def State.landFixed (s : State) (c : Cmd) (l : List OutVals) : State :=
  let (s, k) := s.landAll c l
  let s := (s.stageLst c k.lst).writeCells c.ctx k.cells
  let s := s.modCmd c.cid fun d => { d with nans := k.nans.foldl nanJoin d.nans }
  s.mergeRecords c k.amax c.nans k.nans (!k.spill.isEmpty)

/-- Every program of a command has ended. -/
def State.progsEnded (s : State) (cid : Nat) : Bool :=
  s.slices.toList.all fun x => x.progs.toList.all fun p => p.cid != cid || p.wait == .ended

/-- Every input of a command has had a block in LST on an engine, or its program has ended: its units have what they compute
from. -/
def State.inputsFed (s : State) (c : Cmd) (e : EngineId) : Bool :=
  (inputsOf c).all fun k => match c.ten? k with
    | none => true
    | some t => t.prog == 0xFF || (s.slice e).progs.toList.all fun p =>
        p.cid != c.cid || p.rel != t.prog.toNat || p.fed || p.wait == .ended

/-- A program of a command on an engine is FAULTED. -/
def State.faultedOn (s : State) (c : Cmd) (e : EngineId) : Bool := (s.slice e).progs.toList.any fun p => p.cid == c.cid && p.wait == .faulted

/-- Engines whose part of a command does not depend on a faulted program, and whose units have their inputs. -/
def State.freeOf (s : State) (c : Cmd) : List EngineId :=
  (c.kb.engs.map (·.eng)).filter fun e => !s.faultedOn c e && s.inputsFed c e

/-- An element of an output is among what some engines drain: every byte of its block is. -/
def Cmd.inParts (c : Cmd) (t : TenD) (es : List EngineId) (n : Nat) : Bool :=
  let offs := ((c.outVas t).1.filter fun x => es.contains x.1).map (·.2.1)
  let (ub, us) := unitBytes t.fmt.val
  let u := (unitOf t.fmt.val t.cols n).1
  let plane := unitsOf t.fmt.val t.rows t.cols * ub
  (List.range ub).all (fun k => offs.contains (u * ub + k)) && (List.range us).all fun k => offs.contains (plane + u * us + k)

/-- The parts of a FIXED command on slices that do not depend on a faulted program commit: elements that engines without one drain,
tiles that have landed, additions to semaphores by other programs (R158). A part of an engine whose units still lack inputs does not
land: the manual does not say that the command waits for it (DESIGN CHOICE). -/
def State.landRest (s : State) (c : Cmd) : State :=
  if !(c.fixed && c.state == .issued && sliceOp (opCode c.op)) then s
  else
    let es := s.freeOf c
    let s := if c.isMatmul || c.detail == 1 then s
      else
        let keep (k n : Nat) : Bool := match c.ten? k with
          | some t => if t.prog = 0xFF then !es.isEmpty else c.inParts t es n
          | none => false
        let vs := (s.kernelVals (s.gatherOps c) c).map fun o =>
          { o with vals := ((List.range o.vals.size).map fun n => if keep o.ten n then o.vals.getD n none else none).toArray }
        let first := (outputsOf c).head?
        let done := (List.range c.units).filter fun u => first.any fun k =>
          (List.range 65536).all fun j => decide (((c.ten? k).elim 0 (·.count)) ≤ u * 65536 + j) || keep k (u * 65536 + j)
        let (s, k) := s.landAll c vs
        let s := (s.stageLst c (k.lst.filter fun x => es.contains x.1)).writeCells c.ctx k.cells
        let s := s.modCmd c.cid fun d => { d with done, nans := k.nans.foldl nanJoin d.nans }
        s.mergeRecords c k.amax c.nans k.nans (!k.spill.isEmpty)
    (c.semAdds.filter fun a => (s.prog a.2.2.1 a.2.2.2).wait != .faulted).foldl (fun s a => s.addSem c.ctx a.1 a.2.1) (s.flipBanks c)

/-- A command that a fault or a lost granule ends (R158). -/
def State.failPart (s : State) (cid : Nat) (status : W16) (detail : W64) : State :=
  match s.cmd? cid with
  | none => s
  | some c => (s.landRest c).failCid cid status detail

end Sys2Proof.Machine
end

