-- ==== Sys2Proof/Machine/Faults.lean ====
section
/-! DEFINITION. What becomes of an access that waits on a fault: it resumes, or its command ends (R156-R159, R178-R180,
R205, R235, R546). -/
namespace Sys2Proof.Machine

/-- Pending faults of an id. -/
def State.faultsOf (s : State) (id : W32) : List PFault := s.memUnit.faults.filter fun f => f.id == id

/-- The access of a fault goes on: a program from its cursor, a channel with its burst, a command with its write. -/
def State.resumeAccess (s : State) (f : PFault) : State :=
  match f.src with
  | .ste =>
    let e : EngineId := Fin.ofNat 64 f.unit
    let p : Fin 16 := Fin.ofNat 16 f.prog
    if (s.prog e p).cid = f.cid ∧ (s.prog e p).wait = .faulted then
      (s.modProg e p fun x => { x with wait := x.held, held := .running, resuming := true, faultId := 0 }).pumpEngine e
    else s
  | .bdm =>
    let k : ChanId := Fin.ofNat 32 f.unit
    if (s.chan k).cid = f.cid ∧ (s.chan k).state = .faulted then
      s.modChan k fun c => { c with state := .active, cursor := none, faultId := 0 }
    else s
  | _ => s.modCmd f.cid fun c => { c with waitFault := none }

/-- The waiter of a fault takes a new FAULT_ID: the program, the channel, or a command with a direct write. -/
def State.renameFault (s : State) (f : PFault) (id : W32) : State :=
  match f.src with
  | .ste => s.modProg (Fin.ofNat 64 f.unit) (Fin.ofNat 16 f.prog) fun x => if x.cid = f.cid then { x with faultId := id } else x
  | .bdm => s.modChan (Fin.ofNat 32 f.unit) fun c => if c.cid = f.cid then { c with faultId := id } else c
  | _ => s.modCmd f.cid fun c => { c with waitFault := some id }

/-- DETAIL of an ST_FAULT_UNRESOLVED reply: of STE (R159), of BDM (R180), or of a command that writes directly (R546). -/
def State.faultDetail (s : State) (f : PFault) (cause : Nat) : W64 :=
  match f.src with
  | .ste =>
    BitVec.ofNat 64 (f.unit % 64 * 2 ^ 58 + f.prog % 16 * 2 ^ 54 + bitAt f.write 53 + cause % 16 * 2 ^ 49 + f.va / 2 ^ 16 % 2 ^ 36)
  | .bdm =>
    let c := s.chan (Fin.ofNat 32 f.unit)
    let (d, o) := if c.cid ≠ f.cid then (0, 0) else match c.cursor with
      | some b => (b.desc, b.off)
      | none => (c.desc, c.off)
    BitVec.ofNat 64 (d % 2 ^ 16 * 2 ^ 48 + cause % 16 * 2 ^ 44 + bitAt f.write 43 + f.unit % 8 * 2 ^ 40 + o % 2 ^ 40)
  | _ => BitVec.ofNat 64 (cause % 16 * 2 ^ 44)

/-- The fault of an id is unresolvable with a cause: every command that waits on it ends (R158, R179, R205). -/
def State.failFault (s : State) (id : W32) (cause : FCause) : State :=
  let fs := s.faultsOf id
  fs.foldl (fun s f => s.failPart f.cid stFaultUnresolved (s.faultDetail f cause.code)) (s.dropFault id)

/-- The access of a fault is evaluated again: it resumes, or faults anew with a new FAULT_ID (R205). -/
def State.retryAccess (s : State) (f : PFault) : State :=
  match s.access f.ctx f.va f.write with
  | none => s.resumeAccess f
  | some cause =>
    if f.cause = .quota then s.resumeAccess f
    else
      let (s, id) := s.fault { f with cause }
      s.renameFault f id

/-- RETRY of every access that waits on an id. A cause QUOTA tries the page again first. -/
def State.retryFault (s : State) (id : W32) : State :=
  let fs := s.faultsOf id
  let s := s.dropFault id
  fs.foldl (fun s f =>
    let s := match f.cause, s.pageAt? f.ctx f.va with
      | .quota, some p => (s.resolvePage p).getD s
      | _, _ => s
    s.retryAccess f) s

/-- TMU resolves a fault of cause NOT_RESIDENT or MIGRATING: the page gets its frame and every access that waited
resumes; without room the fault becomes one of cause QUOTA (R192, R193, R197). -/
def State.resolveFault (s : State) (id : W32) : State :=
  match s.faultsOf id with
  | [] => s
  | f :: t =>
    if !f.cause.silent then s
    else
      let s' := match s.pageAt? f.ctx f.va with
        | none => some s
        | some p => s.resolvePage p
      match s' with
      | some s => (f :: t).foldl (fun s g => s.resumeAccess g) (s.dropFault id)
      | none =>
        (f :: t).foldl (fun s g =>
          let (s, n) := s.fault { g with cause := .quota }
          s.renameFault g n) (s.dropFault id)

/-- Accesses that waited for the migration of a page's block resume at its remap (R193). -/
def State.resumeMigrated (s : State) (c : CtxId) (p : Page) : State :=
  let fs := s.memUnit.faults.filter fun f => decide (f.ctx = c) && decide (f.cause = .migrating) &&
    (if p.size = .k64 then decide (f.va / 2 ^ 21 = p.va / 2 ^ 21) else decide (p.va ≤ f.va) && decide (f.va < p.va + p.size.bytes))
  fs.foldl (fun s f => s.resumeAccess f) (fs.foldl (fun s f => s.dropFault f.id) s)

end Sys2Proof.Machine
end

