-- ==== Sys2Proof/Machine/Dma.lean ====
section
/-! DEFINITION. BDM: descriptors, pacing, arbitration, bursts, abort (chapter 07). -/
namespace Sys2Proof.Machine

/-! ### Parameters of DMA_START (R164-R167) -/

/-- The parameters of a DMA_START. -/
structure DmaParam where
  desc : Nat
  qaddr : Nat
  count : Nat
  chan : Nat
  pri : Fin 8
  pace : Nat
  qkind : Bool
  low : Nat
  high : Nat
  rateCap : Nat
  holdTicks : Nat
deriving DecidableEq, Repr

/-- Read the parameters of a command's opcode. -/
def dmaParam : Op → Option DmaParam
  | .dmaStart desc qaddr count chan pacing low high rateCap holdTicks =>
    some { desc := desc.toNat, qaddr := qaddr.toNat, count := count.toNat, chan := chan.toNat % 64, pri := Fin.ofNat 8 pacing.toNat,
           pace := bitsOf pacing.toNat 4 3, qkind := bitOf pacing.toNat 5, low := low.toNat, high := high.toNat,
           rateCap := rateCap.toNat, holdTicks := holdTicks.toNat }
  | _ => none

/-- Endpoint kinds (R166). -/
def kCtx : Nat := 0
def kHost : Nat := 1
def kQueue : Nat := 2
def kZero : Nat := 3
def kRing : Nat := 4

/-- Bytes of a front-end queue (R166). -/
def queueBytes : Nat := 2 ^ 20

/-- A descriptor from its 32 bytes (R165): none where a reserved field is not 0 or a kind or hint is reserved. -/
def dmaDesc? (bs : List Byte) : Option DmaDesc :=
  let kinds := leAt bs 0x15 1
  let fl := leAt bs 0x16 1
  if kinds % 16 ≤ 4 ∧ kinds / 16 ≤ 4 ∧ fl ≤ 2 ∧ (sliceOf bs 0x17 9).all (· == 0) then
    some { src := leAt bs 0 8, dst := leAt bs 8 8, len := leAt bs 0x10 5, srcKind := kinds % 16, dstKind := kinds / 16, alloc := fl }
  else none

/-- The descriptor table as CMD reads it at admission. -/
def State.dmaTable (s : State) (c : CtxId) (q : DmaParam) : List (Option DmaDesc) :=
  (List.range q.count).map fun k => dmaDesc? (s.ctxBytes c (q.desc + 32 * k) 32)

/-- A front-end queue as an endpoint of one direction: number, and that it may be written by BDM. -/
def queueDir (n : Nat) : Option Bool := if n < 0x20 then some true else if n < 0x40 then some false else none

/-- The ring header at an address (R170). -/
structure RingHdr where
  base : Nat
  cap : Nat
  prod : Nat
  cons : Nat
  closed : Bool
  rsv : Bool
deriving DecidableEq, Repr

def State.ringHdr (s : State) (c : CtxId) (a : Nat) : RingHdr :=
  let bs := s.ctxBytes c a 64
  { base := leAt bs 0 8, cap := leAt bs 8 8, prod := leAt bs 0x10 8, cons := leAt bs 0x18 8, closed := bitOf (leAt bs 0x20 4) 0,
    rsv := leAt bs 0x20 4 < 2 && (sliceOf bs 0x24 28).all (· == 0) }

/-- Implicit buffer descriptors of a DMA_START: the table, each CTX_VA range, the ring header and data (R282). -/
def dmaRanges (q : DmaParam) (ds : List DmaDesc) (h : Option RingHdr) : List BufD :=
  [{ va := q.desc, len := 32 * q.count, r := true, w := false }] ++
  (ds.filterMap fun d => if d.srcKind = kCtx then some { va := d.src, len := d.len, r := true, w := false } else none) ++
  (ds.filterMap fun d => if d.dstKind = kCtx then some { va := d.dst, len := d.len, r := false, w := true } else none) ++
  (match h with
   | some h => [{ va := q.qaddr, len := 64, r := true, w := true },
                { va := h.base, len := h.cap, r := q.pace = 2, w := q.pace = 1 }]
   | none => [])

/-- Endpoint addresses and directions of a descriptor are allowed (R166, R167, R170). -/
def dmaKindsOk (q : DmaParam) (d : DmaDesc) : Bool :=
  let side (kind addr : Nat) (dst : Bool) : Bool :=
    if kind = kCtx then decide (addr + d.len ≤ vaLimit)
    else if kind = kHost then decide (addr + d.len ≤ 2 ^ 64)
    else if kind = kQueue then decide (addr < 0x40) && queueDir addr == some dst
    else if kind = kZero then decide (addr = 0) && !dst
    else decide (addr = 0) && (if dst then decide (q.pace = 1) else decide (q.pace = 2))
  side d.srcKind d.src false && side d.dstKind d.dst true &&
    (decide (q.pace ≠ 1) || decide (d.dstKind = kRing)) && (decide (q.pace ≠ 2) || decide (d.srcKind = kRing))

/-- Two descriptors write a common byte. -/
def dmaDstClash (a b : DmaDesc) : Bool :=
  decide (a.dstKind = b.dstKind) && (decide (a.dstKind = kCtx) || decide (a.dstKind = kHost)) && overlaps a.dst a.len b.dst b.len

/-- No two of a list clash. -/
def pairwiseOk {α : Type} (clash : α → α → Bool) : List α → Bool
  | [] => true
  | x :: t => t.all (fun y => !clash x y) && pairwiseOk clash t

/-- A queue belongs to a context (R483). -/
def State.queueOwned (s : State) (c : CtxId) (n : Nat) : Bool :=
  if h : n < 64 then (s.serve.queues[n]).ctx == some c else false

/-- DMA_START must be FIXED unless it is unpaced and writes only context memory (R169). -/
def dmaMustFix (q : DmaParam) (ds : List DmaDesc) : Bool := decide (q.pace ≠ 0) || ds.any fun d => decide (d.dstKind ≠ kCtx)

/-- The checks of R167, in order; a FIXED command's sources must not overlap its destinations, the data of a ring it refills among
them (R169). -/
def State.checkDma (s : State) (c : CtxId) (ring : RingId) (prio : PrioClass) (fixed : Bool) (chanByte pacing : Byte)
    (q : DmaParam) : Except W16 (List DmaDesc × List BufD) :=
  if bitsOf chanByte.toNat 7 6 ≠ 0 ∨ bitsOf pacing.toNat 7 6 ≠ 0 ∨ q.pace = 3 ∨ q.desc % 32 ≠ 0 ∨ (q.pace = 0 ∧ q.qaddr ≠ 0) ∨
      (q.pace ≠ 0 ∧ q.qkind ∧ 0x40 ≤ q.qaddr) then
    .error stBounds
  else if !s.rangeOk c q.desc (32 * q.count) true false then .error stBounds
  else
    match (s.dmaTable c q).mapM id with
    | none => .error stBounds
    | some ds =>
      let hdr := if q.pace ≠ 0 ∧ !q.qkind then some (s.ringHdr c q.qaddr) else none
      let rs := dmaRanges q ds hdr
      if !(ds.all (dmaKindsOk q)) then .error stBounds
      else if !(ds.all fun d =>
          (decide (d.srcKind ≠ kCtx) || s.rangeOk c d.src d.len true false) &&
          (decide (d.dstKind ≠ kCtx) || s.rangeOk c d.dst d.len false true)) then .error stBounds
      else if !pairwiseOk dmaDstClash ds then .error stBounds
      else if !(q.chan ≤ 31 ∨ q.chan = 63) then .error stBounds
      else if (q.chan = 30 ∨ q.chan = 31) ∧ c ≠ 0 then .error stPerm
      else if q.pri.val / 2 ≠ prio.val then .error stBounds
      else if (ds.any fun d => decide (d.srcKind = kHost) || decide (d.dstKind = kHost)) &&
          ((s.ring ring).core || decide (ring = mgtRing) || !s.pcie.up) then .error stPerm
      else if (ds.any fun d => (decide (d.srcKind = kQueue) && !s.queueOwned c d.src) ||
          (decide (d.dstKind = kQueue) && !s.queueOwned c d.dst)) ||
          (decide (q.pace ≠ 0) && q.qkind && !s.queueOwned c q.qaddr) then .error stPerm
      else if q.pace ≠ 0 &&
          !(match hdr with
            | none => decide (q.qaddr < 0x40) && queueDir q.qaddr == some (decide (q.pace = 1)) && decide (q.low < q.high) &&
                decide (q.high ≤ queueBytes / 4096)
            | some h => decide (q.qaddr % 64 = 0) && s.rangeOk c q.qaddr 64 true true && decide (h.base % 4096 = 0) &&
                decide (h.cap % 4096 = 0) && decide (4096 ≤ h.cap) && h.rsv && decide (q.low < q.high) &&
                decide (q.high ≤ h.cap / 4096) && s.rangeOk c h.base h.cap (decide (q.pace = 2)) (decide (q.pace = 1))) then
        .error stBounds
      else if dmaMustFix q ds && !fixed then .error stBounds
      else if fixed && ds.any (fun a => decide (a.srcKind = kCtx) &&
          ((ds.any fun b => decide (b.dstKind = kCtx) && overlaps a.src a.len b.dst b.len) ||
            hdr.any fun h => decide (q.pace = 1) && overlaps a.src a.len h.base h.cap)) then .error stBounds
      else if rs.any fun b => b.w && s.overWeights c b.va b.len then .error stPerm
      else .ok (ds, rs)

/-! ### Front-end queues as endpoints (R166, R170, R175) -/

/-- The queue that one side of a descriptor's bytes passes: a QUEUE endpoint, or the paced ring of QKIND 1. -/
def sideQueue (ch : Chan) (kind addr : Nat) : Option Nat :=
  if kind = kQueue then some addr else if kind = kRing ∧ ch.qkind then some ch.qaddr else none
def DmaDesc.srcQ (d : DmaDesc) (ch : Chan) : Option Nat := sideQueue ch d.srcKind d.src
def DmaDesc.dstQ (d : DmaDesc) (ch : Chan) : Option Nat := sideQueue ch d.dstKind d.dst
/-- A descriptor's bytes pass a paced ring in memory. -/
def DmaDesc.memRing (d : DmaDesc) (ch : Chan) : Bool := (decide (d.srcKind = kRing) || decide (d.dstKind = kRing)) && !ch.qkind

/-! ### Counters of a paced ring (R170, R171) -/

/-- Capacity of the ring of a channel. -/
def Chan.cap (c : Chan) : Nat := if c.qkind then queueBytes else c.ringCap

/-- Sample the other party's counter of a ring header in memory (R171). A front-end queue's counters are read where they stand. -/
def State.sampleRing (s : State) (k : ChanId) : State :=
  let c := s.chan k
  if c.pace = 0 ∨ c.qkind then s
  else
    let h := s.ringHdr c.ctx c.qaddr
    s.modChan k fun c => if c.pace = 1 then { c with cons := h.cons, closed := h.closed } else { c with prod := h.prod, closed := h.closed }

/-- The fill level F: REFILL bursts count when granted, DRAIN bytes leave when landed (R171); 0 for an unpaced channel. -/
def State.fillOf (s : State) (c : Chan) : Nat :=
  if c.pace = 0 then 0
  else if c.qkind then (s.queue c.qaddr).bytes.length + (if c.pace = 1 then (s.queue c.qaddr).ahead else 0)
  else if c.pace = 1 then c.prod + c.ringGranted - c.cons
  else c.prod - (c.cons + c.ringLanded)

/-- Start and stop conditions at a fill level (R172). -/
def Chan.starts (c : Chan) (f : Nat) : Bool :=
  if c.pace = 1 then decide (f ≤ c.low * 4096)
  else decide (c.high * 4096 ≤ f) || (c.closed && decide (0 < f))
def Chan.stops (c : Chan) (f : Nat) : Bool :=
  if c.pace = 1 then decide (c.high * 4096 ≤ f) else decide (f ≤ c.low * 4096) && !c.closed

/-! ### States (R172) -/

/-- The next byte to grant has been passed for every descriptor. -/
def Chan.granted (c : Chan) (ds : List DmaDesc) : Bool := decide (ds.length ≤ c.desc)

/-- Skip descriptors with nothing left to grant. -/
def skipEmpty (ds : List DmaDesc) : Nat → Nat → Nat → Nat × Nat
  | 0, d, o => (d, o)
  | k + 1, d, o =>
    match (ds[d]? : Option DmaDesc) with
    | none => (d, o)
    | some x => if x.len ≤ o then skipEmpty ds k (d + 1) 0 else (d, o)

/-- A DRAIN channel's ring is closed and empty: its command goes no further. -/
def Chan.dry (c : Chan) (f : Nat) : Bool := c.pace == 2 && c.closed && decide (f = 0)

/-- The state a channel goes to at a fill level, up to the end of its grants. -/
def Chan.react (c : Chan) (ds : List DmaDesc) (f : Nat) : DmaState :=
  match c.state with
  | .armed => if c.dry f then .flushing else if c.starts f then (if c.granted ds then .flushing else .active) else .armed
  | .held => if c.dry f then .flushing else if c.starts f then (if c.granted ds then .flushing else .active) else .held
  | .active => if c.granted ds || c.dry f then .flushing else if c.pace ≠ 0 && c.stops f then .held else .active
  | st => st

/-- A channel goes to the state its counters ask for; a stop is counted in GLB_DMA_HOLDS. -/
def State.chanReact (s : State) (k : ChanId) (ds : List DmaDesc) : State :=
  let c := s.chan k
  let f := s.fillOf c
  let st := c.react ds f
  let stopped := c.state == .active && st == .held
  let s := s.modChan k fun c => { c with level := if c.pace = 0 then c.level else f, state := if st = .flushing ∧ c.flight = [] then .ending else st,
                                         holdFrom := if stopped then s.tick.now else c.holdFrom }
  if stopped then s.count offHolds k.val 1 else s

/-- Descriptors of the command on a channel. -/
def State.chanDescs (s : State) (k : ChanId) : List DmaDesc :=
  match s.cmd? (s.chan k).cid with
  | some c => c.kb.descs
  | none => []

/-- Start a channel for an issued command (R163, R172): ARMED when paced, else ACTIVE; a killable command keeps the
source bytes visible at issue (R169). -/
def State.startDma (s : State) (c : Cmd) (q : DmaParam) : State :=
  match c.chan with
  | none => s
  | some k =>
    let h : RingHdr := if q.pace = 0 ∨ q.qkind then { base := 0, cap := 0, prod := 0, cons := 0, closed := false, rsv := true } else s.ringHdr c.ctx q.qaddr
    let (d, o) := skipEmpty c.kb.descs c.kb.descs.length 0 0
    let s := s.modChan k fun x =>
      { lastGrant := x.lastGrant, state := if q.pace = 0 then .active else .armed, cid := c.cid, ctx := c.ctx, pri := q.pri,
        fixed := c.fixed, pace := q.pace, qkind := q.qkind, qaddr := q.qaddr, low := q.low, high := q.high, rateCap := q.rateCap,
        holdTicks := q.holdTicks, holdFrom := s.tick.now, tokens := 65536, desc := d, off := o,
        ringBase := h.base, ringCap := h.cap, prod := h.prod, cons := h.cons, closed := h.closed }
    let s := if c.fixed then s
      else
        let ops := (((List.range c.kb.descs.length).zip c.kb.descs).filter fun x => decide (x.2.srcKind = kCtx)).map fun x =>
          (x.1, (0 : EngineId), s.ctxBytes c.ctx x.2.src x.2.len)
        s.modCmd c.cid fun d => { d with operands := ops }
    s.chanReact k c.kb.descs

/-! ### Bursts (R162, R170, R175) -/

/-- Bytes up to the next multiple of 4,096. -/
def toPage (a : Nat) : Nat := 4096 - a % 4096

/-- Offset of a stream position in a paced ring in memory. -/
def Chan.ringOff (c : Chan) (pos : Nat) : Nat := ((if c.pace = 1 then c.prod else c.cons) + pos) % max 1 c.cap

/-- Position from which an endpoint of a kind may run on: to a 4,096-byte boundary, or to the wrap of a ring. -/
def State.sideRoom (s : State) (c : Chan) (kind addr off : Nat) (dst : Bool) : Nat :=
  if kind = kCtx ∨ kind = kHost then toPage (addr + off)
  else match sideQueue c kind addr with
    | some n =>
      let q := s.queue n
      let p := (if dst then q.prod else q.cons) + q.ahead
      min (toPage p) (queueBytes - p % queueBytes)
    | none => if kind = kRing then min (toPage (c.ringOff c.ringGranted)) (c.cap - c.ringOff c.ringGranted) else 4096

/-- Bytes that a source holds for the next burst: what is in a queue or a ring and no burst has been granted (R171). -/
def State.sourceHas (s : State) (c : Chan) (d : DmaDesc) : Nat :=
  match d.srcQ c with
  | some n => (s.queue n).bytes.length - (s.queue n).ahead
  | none => if d.srcKind = kRing then c.prod - c.cons - c.ringGranted else 4096

/-- The next burst of a channel: descriptor, offset, length (R162). It is as short as what its source holds. -/
def State.nextBurst (s : State) (c : Chan) (ds : List DmaDesc) : Option Burst :=
  match (ds[c.desc]? : Option DmaDesc) with
  | none => none
  | some d =>
    let len := min (min (min (d.len - c.off) 4096) (s.sourceHas c d))
      (min (s.sideRoom c d.srcKind d.src c.off false) (s.sideRoom c d.dstKind d.dst c.off true))
    if len = 0 then none else some { desc := c.desc, off := c.off, len, mover := 0, pos := c.ringGranted }

/-- The destination has room for a burst: a queue beside the bursts of every channel on their way into it, a ring within its capacity
(R171, R175). -/
def State.burstRoom (s : State) (c : Chan) (d : DmaDesc) (len : Nat) : Bool :=
  match d.dstQ c with
  | some n => decide ((s.queue n).bytes.length + (s.queue n).ahead + len ≤ queueBytes)
  | none => decide (d.dstKind ≠ kRing) || decide (s.fillOf c + len ≤ c.cap)

/-- A channel may be chosen (R175 step 1). -/
def State.eligible (s : State) (credits : BitVec 32) (k : ChanId) : Bool :=
  let c := s.chan k
  let ds := s.chanDescs k
  c.state == .active && !s.stopping c.cid && decide (c.flight.length < 16) && credits.getLsbD k.val &&
    (match s.nextBurst c ds, (ds[c.desc]? : Option DmaDesc) with
     | some b, some d => s.burstRoom c d b.len && (decide (c.rateCap = 0) || decide (b.len ≤ c.tokens))
     | _, _ => false)

/-- The first channel after another, in cyclic number order, among some. -/
def nextCyclic (last : Nat) (ks : List ChanId) : Option ChanId :=
  match ks.filter fun k => decide (last < k.val) with
  | k :: _ => some k
  | [] => ks.head?

/-- The channel a mover chooses (R175). -/
def State.chooseChan (s : State) (mover : Fin 4) (credits : BitVec 32) : Option ChanId :=
  let ks := (List.finRange 32).filter (s.eligible credits)
  if s.dma.grants[mover] % 16 = 15 then
    ks.foldl (fun best k => match best with
      | none => some k
      | some b => if (s.chan k).lastGrant < (s.chan b).lastGrant then some k else some b) none
  else
    match (List.finRange 8).find? fun p => ks.any fun k => (s.chan k).pri == p with
    | none => none
    | some p => nextCyclic (s.dma.lastAt[p]) (ks.filter fun k => (s.chan k).pri == p)

/-- The token buckets of rate-capped channels fill at RATE_CAP × 4 bytes a ns, to 65,536 bytes (R173). -/
def State.fillTokens (s : State) (elapsed : Nat) : State :=
  { s with dma := { s.dma with chans := s.dma.chans.map fun c =>
      if c.rateCap = 0 then c else { c with tokens := min 65536 (c.tokens + c.rateCap * 4 * elapsed) } } }

/-- A mover grants one burst slot; the command's budget clock starts at its first burst (R311). -/
def State.grantBurst (s : State) (mover : Fin 4) (credits : BitVec 32) (elapsed : Nat) : State :=
  let s := s.fillTokens elapsed
  match s.chooseChan mover credits with
  | none => s
  | some k =>
    let c := s.chan k
    let ds := s.chanDescs k
    match s.nextBurst c ds, (ds[c.desc]? : Option DmaDesc) with
    | some b, some d =>
      let (nd, no) := skipEmpty ds ds.length c.desc (c.off + b.len)
      let s := s.modChan k fun c =>
        { c with flight := c.flight ++ [{ b with mover }], desc := nd, off := no, lastGrant := s.dma.clock + 1,
                 tokens := if c.rateCap = 0 then c.tokens else c.tokens - b.len,
                 ringGranted := if d.memRing c then c.ringGranted + b.len else c.ringGranted }
      let slot : QSlot := { cid := c.cid, desc := b.desc, off := b.off, len := b.len }
      let s := [d.srcQ c, d.dstQ c].foldl (fun s q => match q with
        | some n => s.modQ n fun x => { x with pend := x.pend ++ [slot] }
        | none => s) s
      let s := { s with dma := { s.dma with grants := vmod s.dma.grants mover (· + 1), clock := s.dma.clock + 1,
                                            lastAt := vmod s.dma.lastAt c.pri fun _ => k.val } }
      (s.modCmd c.cid fun x => { x with issuing := true }).chanReact k ds
    | _, _ => s

/-- DMA_BURST_GRANT (R175). -/
def execDmaBurstGrant (mover : Fin 4) (credits : BitVec 32) (elapsed : Nat) (s : State) : Host.Outcome State Fault Refusal :=
  .next (s.grantBurst mover credits elapsed)

/-- The entry of a burst in a queue. -/
def QSlot.of (x : QSlot) (c : Cmd) (b : Burst) : Bool := x.cid == c.cid && x.desc == b.desc && x.off == b.off

/-- Bytes a burst reads: context memory of a killable command as it was visible at issue; else what its source holds now
(R169). -/
def State.burstData (s : State) (c : Cmd) (ch : Chan) (d : DmaDesc) (b : Burst) : List Byte :=
  if !c.fixed && d.srcKind == kCtx then
    match c.operands.find? fun o => o.1 == b.desc with
    | some (_, _, bs) => sliceOf bs b.off b.len
    | none => List.replicate b.len 0
  else if d.srcKind = kCtx then s.ctxBytes c.ctx (d.src + b.off) b.len
  else if d.srcKind = kHost then memReadList s.mem (hostKey (d.src + b.off)) b.len
  else match d.srcQ ch with
    | some n =>
      let q := s.queue n
      sliceOf q.bytes ((q.pend.takeWhile fun x => !x.of c b).map (·.len)).sum b.len
    | none => if d.srcKind = kRing then s.ctxBytes c.ctx (ch.ringBase + ch.ringOff b.pos) b.len else List.replicate b.len 0

/-- Channels paced by a queue see its counters as they move (R171). -/
def State.queueMoved (s : State) (n : Nat) : State :=
  (List.finRange 32).foldl (fun s k =>
    let c := s.chan k
    if c.state ≠ .idle && c.pace ≠ 0 && c.qkind && c.qaddr == n then s.chanReact k (s.chanDescs k) else s) s

/-- A burst has landed in a queue, or has been read from it. -/
def State.landQueue (s : State) (n : Nat) (c : Cmd) (b : Burst) (bs : List Byte) : State :=
  let s := s.modQ n fun q => { q with pend := q.pend.map fun x => if x.of c b then { x with data := some bs } else x }
  (s.advanceQueue n (s.queue n).pend.length).queueMoved n

/-- Landed bytes of a ring in memory without a gap move on (R170). -/
def State.advanceStream (s : State) (k : ChanId) : Nat → State
  | 0 => s
  | n + 1 =>
    match (s.chan k).early.find? fun e => e.1 == (s.chan k).ringLanded with
    | none => s
    | some (pos, len) =>
      (s.modChan k fun c => { c with early := c.early.filter fun e => e.1 != pos, ringLanded := c.ringLanded + len }).advanceStream k n

/-- BDM writes the counter of its side into the ring header (R170). -/
def State.writeCounter (s : State) (k : ChanId) : State :=
  let c := s.chan k
  if c.pace = 0 ∨ c.qkind then s
  else if c.pace = 1 then s.writeCtx c.ctx (c.qaddr + 0x10) (le 8 (c.prod + c.ringLanded))
  else s.writeCtx c.ctx (c.qaddr + 0x18) (le 8 (c.cons + c.ringLanded))

/-- Memory address of one side of a burst, when that side is in context memory. -/
def burstVa (ch : Chan) (d : DmaDesc) (b : Burst) (side : Bool) : Option Nat :=
  let kind := if side then d.dstKind else d.srcKind
  if kind = kCtx then some ((if side then d.dst else d.src) + b.off)
  else if kind = kRing ∧ !ch.qkind then some (ch.ringBase + ch.ringOff b.pos)
  else none

/-- A burst's bytes land (R169, R170). -/
def State.landBurst (s : State) (k : ChanId) (c : Cmd) (b : Burst) : State :=
  let ch := s.chan k
  match (c.kb.descs[b.desc]? : Option DmaDesc) with
  | none => s
  | some d =>
    let bs := s.burstData c ch d b
    let s := match burstVa ch d b false with
      | some va => s.t1Access c.ctx c.gen va b.len d.alloc false
      | none => s
    let s := if !c.fixed then s else match burstVa ch d b true with
      | some va => s.t1Access c.ctx c.gen va b.len d.alloc true
      | none => s
    let s := s.modChan k fun x =>
      { x with flight := x.flight.filter fun y => !(y.desc == b.desc && y.off == b.off), bytes := x.bytes + b.len,
               landed := assocSet x.landed b.desc (assocD x.landed b.desc 0 + b.len),
               early := if d.memRing ch then (b.pos, b.len) :: x.early else x.early }
    let s :=
      if d.dstKind = kCtx then
        (if c.fixed then s.writeCtx c.ctx (d.dst + b.off) bs
         else s.modCmd c.cid fun x => { x with staged := x.staged ++ cellsAt (d.dst + b.off) bs })
      else if d.dstKind = kHost then s.writeHost (d.dst + b.off) bs
      else if d.dstKind = kRing ∧ !ch.qkind then s.writeCtx c.ctx (ch.ringBase + ch.ringOff b.pos) bs
      else s
    let s := (s.advanceStream k (s.chan k).early.length).writeCounter k
    [d.srcQ ch, d.dstQ ch].foldl (fun s q => match q with
      | some n => s.landQueue n c b bs
      | none => s) s

/-- Cause codes of R180 beyond those of faults. -/
def dmaHostError : Nat := 6
def dmaHoldLimit : Nat := 7
def dmaAborted : Nat := 8
def dmaUncorrectable : Nat := 9

/-- DETAIL of an error reply of BDM (R180): the cursor is the burst named, or the next byte to grant. -/
def dmaDetail (k : ChanId) (ch : Chan) (cause : Nat) (side : Bool) (cur : Option Burst) : W64 :=
  let (d, o) := match cur with
    | some b => (b.desc, b.off)
    | none => (ch.desc, ch.off)
  BitVec.ofNat 64 (d % 2 ^ 16 * 2 ^ 48 + cause % 16 * 2 ^ 44 + bitAt side 43 + k.val % 8 * 2 ^ 40 + o % 2 ^ 40)

/-- End the command of a channel with an error (R179): KILLED when killable, else PARTIAL. -/
def State.failDma (s : State) (k : ChanId) (status : W16) (detail : W64) : State :=
  match s.cmd? (s.chan k).cid with
  | none => s
  | some c => s.failCmd c status detail

/-- TMU serves both sides of a burst: no access of it would fault now (R178). -/
def State.burstServed (s : State) (c : Cmd) (ch : Chan) (b : Burst) : Bool :=
  match (c.kb.descs[b.desc]? : Option DmaDesc) with
  | none => true
  | some d => [false, true].all fun side => match burstVa ch d b side with
    | none => true
    | some va => (s.access c.ctx va side).isNone

/-- The page a burst reads with an uncorrectable error is poisoned (R212). -/
def State.poisonBurst (s : State) (c : Cmd) (ch : Chan) (b : Burst) : State :=
  match (c.kb.descs[b.desc]? : Option DmaDesc).bind fun d => burstVa ch d b false with
  | some va => s.modPages (fun p => p.inRange c.ctx va b.len) fun p => { p with poison := true }
  | none => s

/-- DMA_BURST_LAND (R170, R179): burst k of those in flight. A burst that waits on a fault does not land, nor
one whose access would fault. -/
def State.burstLand (s : State) (k : ChanId) (n : Nat) (r : BurstEnd) : State :=
  let ch := s.chan k
  match s.cmd? ch.cid, (ch.flight[n]? : Option Burst) with
  | some c, some b =>
    if ch.cursor = some b then s
    else
      match r with
      | .uncorrectable => ((s.poisonBurst c ch b)).failDma k stUncorrectable (dmaDetail k ch dmaUncorrectable false (some b))
      | .hostError => s.failDma k stFaultUnresolved (dmaDetail k ch dmaHostError false (some b))
      | .ok => if s.burstServed c ch b then ((s.landBurst k c b).sampleRing k).chanReact k c.kb.descs else s
  | _, _ => s

def execDmaBurstLand (chan : ChanId) (k : Nat) (r : BurstEnd) (s : State) : Host.Outcome State Fault Refusal :=
  .next (State.placeAll (s.burstLand chan k r))

/-- DMA_KICK (R171): the ring of the channel is sampled; a kick for an IDLE channel is ignored. -/
def State.kick (s : State) (k : ChanId) : State :=
  if (s.chan k).state = .idle then s else (s.sampleRing k).chanReact k (s.chanDescs k)

def execDmaKick (_path : Path) (value : W32) (s : State) : Host.Outcome State Fault Refusal :=
  .next (s.kick (Fin.ofNat 32 value.toNat))

/-- DMA_RING_SAMPLE (R171): the periodic sample of an ARMED or HELD channel. -/
def execDmaRingSample (chan : ChanId) (s : State) : Host.Outcome State Fault Refusal :=
  .next (if (s.chan chan).state = .armed ∨ (s.chan chan).state = .held then s.kick chan else s)

/-- DMA_HOLD_LIMIT (R174): the stay has reached HOLD_TICKS and the start condition does not hold. -/
def State.holdLimit (s : State) (k : ChanId) : State :=
  let c := s.chan k
  if (c.state = .armed ∨ c.state = .held) ∧ c.holdTicks ≠ 0 ∧ c.holdTicks ≤ s.tick.now - c.holdFrom then
    if c.starts (s.fillOf c) then s.chanReact k (s.chanDescs k)
    else s.failDma k stDeadlineMiss (dmaDetail k c dmaHoldLimit false none)
  else s

def execDmaHoldLimit (chan : ChanId) (s : State) : Host.Outcome State Fault Refusal := .next (State.placeAll (s.holdLimit chan))

/-- DMA_BURST_FAULT (R178): the access of one side of a burst meets a fault; the channel records its cursor. -/
def State.burstFault (s : State) (k : ChanId) (n : Nat) (side : Bool) : State :=
  let ch := s.chan k
  match s.cmd? ch.cid, (ch.flight[n]? : Option Burst) with
  | some c, some b =>
    match (c.kb.descs[b.desc]? : Option DmaDesc) with
    | none => s
    | some d =>
      match burstVa ch d b side with
      | none => s
      | some va =>
        match s.access c.ctx va side with
        | none => s
        | some cause =>
          let (s, id) := s.fault { id := 0, ctx := c.ctx, gen := c.gen, cause, write := side, src := .bdm, unit := k.val, prog := 0, va,
                                   seq := c.seq, node := c.node, tick := s.tick.now, cid := c.cid, recorded := true }
          let s := s.modChan k fun x => { x with state := .faulted, cursor := some b, faultId := id }
          if cause = .tierLost ∧ !(s.ctx c.ctx).inWeights va then s.failFault id .tierLost else s
  | _, _ => s

def execDmaBurstFault (chan : ChanId) (k : Nat) (side : Bool) (s : State) : Host.Outcome State Fault Refusal :=
  .next (State.placeAll (s.burstFault chan k side))

/-- DMA_ABORT of a busy channel (R181): bursts in flight of a FIXED command land, then the command ends (R179). In ENDING
the end of count stands. -/
def State.abortChan (s : State) (k : ChanId) : State :=
  let ch := s.chan k
  if ch.state = .idle ∨ ch.state = .ending then s
  else
    match s.cmd? ch.cid with
    | none => s
    | some c =>
      let s := s.modChan k fun x => { x with state := .cancelling }
      let s := if c.fixed then ch.flight.foldl (fun s b => if ch.cursor = some b then s else s.landBurst k c b) s else s
      s.failDma k (if c.fixed then stPartial else stKilled) (dmaDetail k ch dmaAborted false ch.cursor)

end Sys2Proof.Machine
end

