-- ==== Sys2Proof/Machine/Reserve.lean ====
section
/-! DEFINITION. What admission hands on, and what starting a command answers; the wear-reserve ledger (R425, R426); the
hours and days of module time. -/
namespace Sys2Proof.Machine

/-! ### Admission and start -/

/-- What the checks of an opcode give the command (R281 step 9, R282, R283, R198, R299). -/
structure Prep where
  kb : KBlock := {}
  ranges : List BufD := []
  units : Nat := 0
  shNeed : Nat := 0
  /-- The whole work is empty: the command completes with ST_OK and changes nothing (R282). -/
  empty : Bool := false
deriving DecidableEq, Repr

/-- Checks answer a status, or what they give the command. -/
abbrev Checked := Except W16 Prep

/-- Starting a command answers the state and, when the command ends at once, its phase, status and DETAIL. -/
abbrev Started := State × Option (Phase × W16 × W64)

/-- The first test that fails decides the status (R281). -/
def firstFail : List (Bool × W16) → Option W16
  | [] => none
  | (ok, st) :: t => if ok then firstFail t else some st

/-- Run tests in order, then give a result. -/
def checks (l : List (Bool × W16)) (p : Prep := {}) : Checked :=
  match firstFail l with
  | some st => .error st
  | none => .ok p

def doneOk (s : State) (detail : W64 := 0) : Started := (s, some (.committed, stOk, detail))
def doneBad (s : State) (status : W16) (detail : W64 := 0) : Started := (s, some (.killed, status, detail))

/-- The context a byte names in bits [5:0]; bits [7:6] are reserved. -/
def ctxOf (b : Byte) : CtxId := Fin.ofNat 64 b.toNat
def ctxField (b : Byte) : Bool := decide (b.toNat < 64)

/-- The context is ACTIVE or FENCED. -/
def State.live (s : State) (c : CtxId) : Bool := (s.ctx c).state == .active || (s.ctx c).state == .fenced

/-- Shadow slots of 64 KiB that writable descriptors need (R198): none where they cover part of a 1 GiB page. -/
def State.shadowNeed (s : State) (c : CtxId) (bs : List BufD) : Option Nat :=
  (s.memUnit.pages.filter fun p => decide (p.ctx = c) && bs.any fun b => b.w && overlaps p.va p.size.bytes b.va b.len).foldl
    (fun n p => match n with
      | none => none
      | some k => if p.size = .g1 then none else some (k + p.size.units)) (some 0)

/-! ### Module time -/

/-- Microseconds of a tick: TCAL in units of 25 µs. -/
def State.tickUs (s : State) : Nat := 25 * s.tick.tcal

/-- Fabric time of the current tick, in microseconds. -/
def State.nowUs (s : State) : Nat := s.tick.startOf s.tick.now / 16000

/-- Microseconds of an hour and of a day. -/
def hourUs : Nat := 3600000000
def dayUs : Nat := 86400000000

/-- The moments of a list that lie within some microseconds before now, and now. -/
def State.within (s : State) (us : Nat) (l : List Nat) : List Nat := s.nowUs :: l.filter fun t => decide (s.nowUs < t + us)

/-- Ticks in some microseconds, rounded up. -/
def State.usTicks (s : State) (us : Nat) : Nat := ceilDiv us (max 1 s.tickUs)

/-! ### The ledger -/

/-- Enter a record into the ledger. -/
def State.ledgerAdd (s : State) (kind event : Byte) (unit : W16) (cause : W16) (data : List Byte) : State :=
  s.modRas fun a => { a with ledger := a.ledger ++ [{ tick := s.tick.now, incarn := s.boot.incarn, kind, event, unit, cause, data }] }

/-- MGT reports the module degraded (R211, R426). -/
def State.degrade (s : State) (kind : Byte) (unit : W16) : State :=
  ((s.modRas fun a => { a with degraded := true }).ledgerAdd kind 3 unit 0 []).raise evDegraded unitRas

/-- A part of a kind is retired: the ledger takes it, and one unit of the reserve is consumed. At the last one the
reserve is exhausted. HBM frames (kind 3) have no reserve. -/
def State.retirePart (s : State) (kind : Fin 7) (unit cause : W16) (data : List Byte := []) : State :=
  let code : Byte := BitVec.ofNat 8 (kind.val + 1)
  let s := s.ledgerAdd code 1 unit cause data
  if kind = 2 then s
  else
    let left := s.ras.resLeft[kind]
    let s := s.modRas fun a => { a with resUsed := vmod a.resUsed kind (· + 1), resLeft := vmod a.resLeft kind (· - 1) }
    if left = 1 then (s.ledgerAdd code 4 unit 0 []).degrade code unit else s

end Sys2Proof.Machine
end

