-- ==== Sys2Proof/Machine/Block.lean ====
section
/-! DEFINITION. The kernel parameter block: what CMD copies, and the checks of admission (R76, R90-R97, R120, R124, R143,
R283-R290, R358-R362, R371, R547). -/
namespace Sys2Proof.Machine

/-! ### Reading the block (R283-R287) -/

def allZeroAt (bs : List Byte) (off n : Nat) : Bool := (sliceOf bs off n).all (· == 0)

/-- Offset and length of each section: buffers, tensors, engines, geometry, op descriptor. -/
def blockSections (h : List Byte) : List (Nat × Nat) :=
  [(leAt h 0x10 2, 32 * leAt h 2 1), (leAt h 0x12 2, 64 * leAt h 3 1), (leAt h 0x14 2, 16 * leAt h 4 1),
   (leAt h 0x16 2, if leAt h 0x16 2 = 0 then 0 else 32), (leAt h 0x18 2, leAt h 0x1A 2)]

/-- The header's counts, reserved fields and sections are allowed. -/
def headerOk (h : List Byte) (len : Nat) : Bool :=
  let ss := (0, 64) :: (blockSections h).filter fun x => x.2 != 0
  decide (leAt h 0 2 < 1024) && decide (leAt h 2 1 ≤ 64) && decide (leAt h 3 1 ≤ 16) && decide (leAt h 4 1 ≤ 64) &&
    allZeroAt h 5 3 && allZeroAt h 0xC 4 && allZeroAt h 0x1C 36 && ss.all (fun x => decide (x.1 + x.2 ≤ len)) &&
    pairwiseOk (fun a b => overlaps a.1 a.2 b.1 b.2) ss

/-- A buffer descriptor of 32 bytes (R284). -/
def bufOf? (b : List Byte) : Option BufD :=
  let va := leAt b 0 8
  let len := leAt b 8 8
  let a := leAt b 0x10 1
  if va % 64 = 0 ∧ va < vaLimit ∧ len < vaLimit ∧ va + len ≤ vaLimit ∧ 1 ≤ a ∧ a ≤ 3 ∧ allZeroAt b 0x11 15 then
    some { va, len, r := bitOf a 0, w := bitOf a 1 }
  else none

/-- A tensor descriptor of 64 bytes (R285). -/
def tenOf? (b : List Byte) : Option TenD :=
  let h := leAt b 0x3A 2
  let prog := leAt b 0x38 1
  let v4 (off : Nat) : List Nat := (List.range 4).map fun k => leAt b (off + 4 * k) 4
  if leAt b 0 1 % 16 ≤ 7 ∧ leAt b 1 1 < 8 ∧ leAt b 2 2 < 4096 ∧ (prog < 16 ∨ prog = 0xFF) ∧ leAt b 0x39 1 < 16 ∧
      (if prog = 0xFF then h ≠ 0 else h = 0) ∧ allZeroAt b 0x3C 4 then
    some { fmt := Fin.ofNat 16 (leAt b 0 1), kind := Fin.ofNat 16 (leAt b 0 1 / 16), srBits := Fin.ofNat 4 (leAt b 1 1),
           last := bitOf (leAt b 1 1) 2, scaleSlot := BitVec.ofNat 12 (leAt b 2 2), tid := BitVec.ofNat 32 (leAt b 4 4), dim := v4 8,
           org := v4 0x18, ext := v4 0x28, prog := BitVec.ofNat 8 prog, rotFirst := Fin.ofNat 4 (leAt b 0x39 1),
           rotLen := leAt b 0x39 1 / 4 + 1, handle := BitVec.ofNat 16 h }
  else none

/-- An engine entry with its images (R286), read from the context. -/
def State.engOf? (s : State) (c : CtxId) (b : List Byte) : Option EngD :=
  let nimg := leAt b 2 1
  let tab := leAt b 8 8
  if leAt b 0 1 < 64 ∧ leAt b 1 1 ≤ 16 ∧ nimg ≤ 16 ∧ allZeroAt b 3 5 ∧ s.rangeOk c tab (16 * nimg) true false then
    let images := (List.range nimg).mapM fun k =>
      let e := s.ctxBytes c (tab + 16 * k) 16
      let a := leAt e 0 8
      let n := leAt e 8 1
      if a % 8 = 0 ∧ n ≤ 64 ∧ allZeroAt e 9 7 ∧ s.rangeOk c a (8 * n) true false then
        some ((List.range n).map fun j => BitVec.ofNat 64 (ofLe (s.ctxBytes c (a + 8 * j) 8)))
      else none
    images.map fun l => { eng := Fin.ofNat 64 (leAt b 0 1), banks := leAt b 1 1, images := l }
  else none

/-- The reduction geometry of 32 bytes (R287). -/
def geomOf? (b : List Byte) : Option Geom :=
  let lo := leAt b 8 4
  let hi := leAt b 0xC 4
  let sl := leAt b 0x10 4
  if lo < 2 ^ 21 ∧ hi < 2 ^ 21 ∧ sl < 2 ^ 17 ∧ leAt b 0x18 1 < 16 ∧ allZeroAt b 0x19 7 then
    some { rid := BitVec.ofNat 32 (leAt b 0 4), klen := leAt b 4 4, segLo := lo, segHi := hi, slots := sl, slotLo := leAt b 0x14 2,
           slotHi := leAt b 0x16 2, nodeFmt := Fin.ofNat 16 (leAt b 0x18 1) }
  else none

/-- A member table of p entries (R358): none where a reserved bit is set. -/
def State.memberTab (s : State) (c : CtxId) (a p : Nat) : Option (List Member) :=
  (List.range p).mapM fun k =>
    let e := s.ctxBytes c (a + 16 * k) 16
    let cb := leAt e 2 1
    if bitOf cb 6 ∨ leAt e 8 8 ≥ 2 ^ 48 then none
    else some { ident := BitVec.ofNat 16 (leAt e 0 2), ctx := Fin.ofNat 64 cb, noslot := bitOf cb 7, gen := BitVec.ofNat 8 (leAt e 3 1),
                slotLo := leAt e 4 2, slotHi := leAt e 6 2, shardLen := leAt e 8 8 }

/-- Bytes of the op descriptor of an opcode. -/
def opBytes (code : Nat) : Nat := if code = 0x0510 then 32 else if code = 0x0515 then 64 else 48

/-- Read the kernel block of an opcode and all it names. -/
def State.kblock? (s : State) (c : CtxId) (code va len : Nat) : Option KBlock :=
  if !(decide (va % 64 = 0) && decide (64 ≤ len) && decide (len ≤ 65536) && s.rangeOk c va len true false) then none
  else
    let bs := s.ctxBytes c va len
    let sec (k : Nat) : List Byte := let x := (blockSections bs).getD k (0, 0); sliceOf bs x.1 x.2
    if !headerOk bs len || decide (leAt bs 0x1A 2 ≠ opBytes code) then none
    else
      let go := (List.range (leAt bs 2 1)).mapM fun k => bufOf? (sliceOf (sec 0) (32 * k) 32)
      let ts := (List.range (leAt bs 3 1)).mapM fun k => tenOf? (sliceOf (sec 1) (64 * k) 64)
      let es := (List.range (leAt bs 4 1)).mapM fun k => s.engOf? c (sliceOf (sec 2) (16 * k) 16)
      let g := if leAt bs 0x16 2 = 0 then some none else (geomOf? (sec 3)).map some
      match go, ts, es, g with
      | some bufs, some tens, some engs, some geom =>
        let op := sec 4
        let coll := isColl (BitVec.ofNat 16 code)
        let p := leAt op 4 4
        if coll && !(decide (1 ≤ p) && decide (p ≤ 32768) && s.rangeOk c (leAt op 8 8) (16 * p) true false &&
            (decide (code ≠ 0x0704) || s.rangeOk c (leAt op 0x18 8) (16 * p) true false)) then none
        else
          match (if coll then s.memberTab c (leAt op 8 8) p else some []), (if code = 0x0704 then s.memberTab c (leAt op 0x18 8) p else some []) with
          | some members, some newMembers =>
            some { tag := BitVec.ofNat 10 (leAt bs 0 2), step := BitVec.ofNat 32 (leAt bs 8 4), bufs, tens, engs, geom, op, members, newMembers }
          | _, _ => none
      | _, _, _, _ => none

/-! ### Checks that every kernel block passes -/

/-- Part of a range lies in a buffer descriptor with an access. -/
def KBlock.covers (kb : KBlock) (va len : Nat) (w : Bool) : Bool :=
  kb.bufs.any fun b => decide (b.va ≤ va) && decide (va + len ≤ b.va + b.len) && (if w then b.w else b.r)

/-- Shape, shard and scale slot of a tensor descriptor (R124, R56). -/
def TenD.shapeOk (t : TenD) : Bool :=
  decide (t.whole ≤ 2 ^ 48) && (List.range 4).all (fun k => decide (t.o k + t.e k ≤ t.d k)) &&
    (match t.slot? with
     | none => true
     | some _ => decide (1 ≤ t.fmt.val) && decide (t.fmt.val ≤ 4) && (decide (t.count = 0) || t.aligned))

/-- A tensor a command writes has its recipe's format when it is scaled (R124). -/
def State.recipeOk (s : State) (c : CtxId) (t : TenD) : Bool :=
  match t.slot?, ((s.ctx c).recipes[t.kind.val]? : Option Recipe) with
  | some _, some r => decide (r.format = t.fmt)
  | some _, none => false
  | none, _ => true

/-- The programs of one engine (R143). -/
def KBlock.engineOk (kb : KBlock) (fixed : Bool) (d : EngD) : Bool :=
  let member (k : Nat) : Bool := kb.engs.any fun x => x.eng.val == octavePos d.eng k
  let defs := ((List.range d.images.length).zip d.images).flatMap fun x => (bufDefs x.2).map fun b => (x.1, b)
  d.images.all (fun img => match decodeImage img with
    | none => false
    | some l => repsOk l && instrsOk l d.banks member fixed && checkRun (traceImage img) [] &&
        (movesOf img).all fun m => m.grans.all fun g => kb.covers g.va m.size m.toMem) &&
    pairwiseOk (fun (a b : Nat × Fin 4 × Nat × Nat) => (decide (a.1 ≠ b.1) || decide (a.2.1 ≠ b.2.1)) && bankClash a.2 b.2) defs

/-- Buffers of a program slot that input tensors and output tensors name. -/
def KBlock.roleBufs (kb : KBlock) (ixs : List Nat) (p : Nat) : List (Fin 4) :=
  ixs.flatMap fun i => match (kb.tens[i]? : Option TenD) with
    | some t => if t.prog.toNat = p then t.rot else []
    | none => []

/-- No buffer is filled and drained, but those of tensors that a command both reads and writes (R119, R144). -/
def KBlock.rolesOk (kb : KBlock) (inputs outputs : List Nat) : Bool :=
  let both := inputs.filter outputs.contains
  (List.range 16).all fun p =>
    let ins := kb.roleBufs (inputs.filter fun i => !both.contains i) p
    let outs := kb.roleBufs (outputs.filter fun i => !both.contains i) p
    ins.all (fun b => !outs.contains b) &&
      kb.engs.all fun d => (moveDirs (d.image p)).all fun m => if m.1 then !ins.contains m.2 else !outs.contains m.2

/-- Every engine has a program for each slot a tensor names (R285). -/
def KBlock.slotsOk (kb : KBlock) : Bool :=
  kb.tens.all fun t => decide (t.prog = 0xFF) || kb.engs.all fun d => !(d.image t.prog.toNat).isEmpty

/-- Semaphores that images name (R249). -/
def KBlock.sems (kb : KBlock) : List SemId :=
  kb.engs.flatMap fun d => d.images.flatMap fun img => img.filterMap fun w => match sInstr? w with
    | some (.wait 2 _ k _) => some k
    | some (.signal 2 _ k _) => some k
    | _ => none

/-- A context may name a semaphore (R249). -/
def State.semOwned (s : State) (c : CtxId) (k : Nat) : Bool :=
  decide (c = 0) || (decide ((s.ctx c).semBase ≤ k) && decide (k < (s.ctx c).semBase + (s.ctx c).semCount))

/-- The reduction geometry (R76). -/
def Geom.ok (g : Geom) : Bool :=
  let n := segCount g.klen
  (if g.klen = 0 then g.segLo == 0 && g.segHi == 0 else decide (g.segLo ≤ g.segHi) && decide (g.segHi < n)) &&
    decide (g.slots ≤ 65536) && (decide (g.slots = 0) || (decide (g.slotLo ≤ g.slotHi) && decide (g.slotHi < g.slots))) &&
    decide (g.nodeFmt.val ≤ 1)

/-! ### MATMUL (R85, R90-R92, R96, R97, R547) -/

/-- One step of `settle` (R91). -/
def settleOnce (n d : Nat) : List (Nat × Nat) → Option (List (Nat × Nat))
  | (l, i) :: t =>
    if l < d ∧ i % 2 = 0 ∧ n ≤ (i + 1) * 2 ^ l then some ((l + 1, i / 2) :: t)
    else match t with
      | x :: r => if l < d ∧ i % 2 = 1 ∧ x = (l, i - 1) then some ((l + 1, (i - 1) / 2) :: r) else none
      | [] => none
  | [] => none

def settleAll (n d : Nat) : Nat → List (Nat × Nat) → List (Nat × Nat)
  | 0, st => st
  | k + 1, st => match settleOnce n d st with
    | some st => settleAll n d k st
    | none => st

/-- pending_needed (R91). -/
def pendingNeeded (lo hi n : Nat) : Nat :=
  let d := clog2 n
  let r := (List.range (hi + 1 - lo)).foldl (fun (acc : List (Nat × Nat) × Nat) k =>
    (settleAll n d 64 ((0, lo + k) :: acc.1), max acc.2 acc.1.length)) ([], 0)
  max r.2 (r.1.length - 1)

def Cmd.matOk (c : Cmd) : Bool :=
  let x := c.mat
  let nib (v : Nat) : Nat × Nat := (v % 16, v / 16)
  let (fa, fb) := nib (c.opb 4)
  let (fs, fo) := nib (c.opb 5)
  let acc := c.opb 3
  match c.kb.geom, c.ten? (c.opb 0x12), c.ten? (c.opb 0x13), c.ten? (c.opb 0x15) with
  | some g, some ta, some tb, some o =>
    let klo := if x.klen = 0 then 0 else 4096 * x.segLo
    let khi := if x.klen = 0 then 0 else min (4096 * (x.segHi + 1)) x.klen
    let opnd (t : TenD) (rows : Nat) : Bool := t.d 3 == x.klen && t.rows == rows && t.o 3 == klo && t.e 3 == khi - klo
    let n := if x.isRoot then 1 else x.nodes.length
    g.ok && decide (c.opb 0 < 3) && decide (1 ≤ x.mb ∧ x.mb ≤ 16) && decide (1 ≤ x.nb ∧ x.nb ≤ 16) && decide (acc ≤ 15) &&
      decide (x.mb * x.nb * (1 + acc) ≤ 16) && decide (fa ≤ 5) && decide (fb ≤ 5) && fa == ta.fmt.val && fb == tb.fmt.val &&
      fo == o.fmt.val && decide (if x.isRoot then fo ≤ 7 else fo ≤ 1) && decide (c.opb 6 < 2) && decide (c.opb 7 = 0) &&
      decide (c.opb 0x10 < 64) && decide (1 ≤ x.cnt ∧ x.cnt ≤ 64) && decide (x.first + x.cnt ≤ 64) && allZeroAt c.kb.op 0x16 10 &&
      (decide (x.klen = 0) || decide (pendingNeeded x.segLo x.segHi (segCount x.klen) ≤ acc)) &&
      (if x.seed then decide (x.segLo = 0) && decide (fs ≤ 5) && (match c.ten? (c.opb 0x14) with
          | some t => fs == t.fmt.val && t.rows == x.m && t.cols == x.n
          | none => false)
       else c.opb 0x14 == 0xFF) &&
      opnd ta x.m && opnd tb x.n && o.rows == n * x.m && o.cols == x.n && (x.isRoot || o.slot?.isNone) &&
      (decide (x.m = 0 ∨ x.n = 0) || (c.kb.engs.length == x.cnt && c.kb.engs.all fun d => decide (x.first ≤ d.eng.val) && decide (d.eng.val < x.first + x.cnt)))
  | _, _, _, _ => false

/-! ### VECTOR, REDUCE, attention (R109, R289) -/

/-- Fields every descriptor of R289 shares: reserved flags, mask dimension, RDIM, reserved bytes, T7, and the roles marked as none. -/
def Cmd.op48Ok (c : Cmd) (none_ : List Nat) : Bool :=
  decide (c.opb 1 < 8) && (decide (c.opb 2 ≤ 3) || c.opb 2 == 0xFF) && decide (c.opb 3 ≤ 3) && allZeroAt c.kb.op 0x28 8 &&
    (none_ ++ [7]).all fun k => c.opb (0xC + k) == 0xFF

def Cmd.vectorOk (c : Cmd) : Bool :=
  match c.role 3 with
  | none => false
  | some o =>
    decide (c.opb 0 ≤ 0x21) && c.op48Ok [4, 5, 6] &&
      (List.range 3).all fun k => match c.tix (0xC + k) with
        | none => true
        | some i => match c.ten? i with
          | some t => decide (arity (c.opb 0) ≤ k) || t.ext == o.ext
          | none => false

def Cmd.reduceOk (c : Cmd) : Bool :=
  match c.role 0, c.role 3 with
  | some t, some o =>
    let k := c.opb 3 % 4
    let n := (c.redNodes t).length * t.others k
    let two := [4, 5, 6].contains (c.opb 0)
    let root := c.redRoot t
    decide (c.opb 0 ≤ 6) && c.op48Ok [1, 2, 5, 6] && o.count == n &&
      (match c.kb.geom with
       | some g => g.ok && g.klen == t.d k && (if g.klen = 0 then decide (t.e k = 0) else
           t.o k == 4096 * g.segLo && t.o k + t.e k == min (4096 * (g.segHi + 1)) g.klen)
       | none => t.o k == 0 && t.e k == t.d k && decide (t.d k < 2 ^ 32)) &&
      (root || (decide (o.fmt.val ≤ 1) && o.slot?.isNone)) &&
      (match c.tix 0x10 with
       | none => !two
       | some i => two && (match c.ten? i with
         | some u => u.count == n && (decide (c.opb 0 = 6) || (u.fmt.val == 0 && u.slot?.isNone)) &&
             (root || (decide (u.fmt.val ≤ 1) && u.slot?.isNone))
         | none => false))
  | _, _ => false

/-- A shard's range along a dimension that is reduced starts and ends at segment boundaries (R71). -/
def TenD.wholeSegs (t : TenD) (k : Nat) : Bool :=
  decide (t.o k % 4096 = 0) && (decide ((t.o k + t.e k) % 4096 = 0) || decide (t.o k + t.e k = t.d k))

/-- Shapes of attention: equal batch dimensions, features of Q and K, sequence lengths of K and V. Keys and the features that are
summed over are held in whole segments (R71, R114, R116), and a geometry block is checked as any (R76). -/
def Cmd.attnOk (c : Cmd) (bwd : Bool) : Bool :=
  let b (t u : TenD) : Bool := t.e 0 == u.e 0 && t.e 1 == u.e 1
  match c.role 0, c.role 1, c.role 2, c.role 3 with
  | some q, some k, some v, some o =>
    c.op48Ok (if bwd then [] else [5, 6]) && c.opb 0 == 0 && c.kb.geom.all Geom.ok && b q k && b q v && b q o && q.e 3 == k.e 3 && k.e 2 == v.e 2 &&
      o.e 2 == q.e 2 && o.e 3 == v.e 3 && k.wholeSegs 2 && v.wholeSegs 2 && k.o 2 == v.o 2 && q.wholeSegs 3 && k.wholeSegs 3 && q.o 3 == k.o 3 &&
      (match c.role 4 with
       | some l => l.count == q.rows
       | none => !bwd && c.opb 0x10 == 0xFF) &&
      (!bwd || (match c.role 5, c.role 6 with
        | some d, some r => d.ext == o.ext && r.count == q.rows * k.e 2 && v.wholeSegs 3 && d.wholeSegs 3 && o.wholeSegs 3
        | _, _ => false))
  | _, _, _, _ => false

/-! ### OPT_UPDATE (R119, R120, R290) -/

def State.optOk (s : State) (c : Cmd) : Bool :=
  let op := c.kb.op
  let fl := leAt op 0x24 4
  let base := leAt op 0x30 8
  let cnt := leAt op 0x38 8
  match c.ten? 0, c.ten? 1, c.ten? 2, c.ten? 3 with
  | some w, some g, some m, some v =>
    let same (t : TenD) : Bool := t.dim == w.dim && t.org == w.org && t.ext == w.ext
    fl % 16 < 2 && decide (fl < 256) && c.kb.tens.length == (if c.narrow then 5 else 4) && s.rangeOk c.ctx (leAt op 0x28 8) 4 true false &&
      decide (base < 2 ^ 48) && decide (cnt < 2 ^ 48) && decide (base % 128 = 0) && decide (base + cnt ≤ w.whole) &&
      (decide (cnt % 128 = 0) || decide (base + cnt = w.whole)) && w.fmt.val == 0 && decide (g.fmt.val ≤ 4) && m.fmt.val == fM8 &&
      v.fmt.val == fM8U && same g && same m && same v &&
      (!c.narrow || (match c.ten? 4, ((s.ctx c.ctx).recipes[fl / 16]? : Option Recipe) with
        | some n, some r => same n && n.fmt == r.format && n.kind.val == fl / 16
        | _, _ => false)) &&
      ((List.range w.count).filter fun n => decide (base ≤ w.idx n) && decide (w.idx n < base + cnt)).length == cnt
  | _, _, _, _ => false

/-! ### Collectives (R358-R362, R371, R373) -/

/-- Slot ranges of the ranks with slots are ascending, contiguous and cover all slots. -/
def slotsCover (ms : List Member) (slots : Nat) : Bool :=
  let r := (ms.filter fun m => !m.noslot).foldl (fun (acc : Option Nat) m => match acc with
    | some n => if m.slotLo = n ∧ m.slotLo ≤ m.slotHi then some (m.slotHi + 1) else none
    | none => none) (some 0)
  r == some slots

def sumLen (ms : List Member) : Nat := (ms.map (·.shardLen)).sum

/-- The nodes a rank emits (R362, R74). -/
def rankNodes (slots : Nat) (m : Member) : List (Nat × Nat) := if m.noslot then [] else nodesOf m.slotLo m.slotHi slots

/-- A collective reduces. -/
def collReduces : Op → Bool
  | .collReduceScatter .. => true
  | .collAllReduce .. => true
  | _ => false

def State.collOk (s : State) (c : Cmd) : Bool :=
  let op := c.kb.op
  let fl := leAt op 0 1
  let rank := leAt op 2 2
  let p := leAt op 4 4
  let n := leAt op 0x10 8
  let ms := c.kb.members
  let perm := match c.op with
    | .collPermute .. => true
    | _ => false
  let mc := match c.op with
    | .collMulticast .. => true
    | _ => false
  let inplace := bitOf fl 1
  let t (k : Nat) : TenD := (c.ten? k).getD { fmt := 0, kind := 0, srBits := 0, last := false, scaleSlot := 0, tid := 0, dim := [], org := [], ext := [], prog := 0, rotFirst := 0, rotLen := 1, handle := 0 }
  let nt := c.kb.tens.length
  let plain (k : Nat) : Bool := decide ((t k).fmt.val ≤ 4)
  match (ms[rank]? : Option Member) with
  | none => false
  | some me =>
    let mine := me.shardLen
    let fresh := ((c.kb.newMembers[rank]? : Option Member).map (·.shardLen)).getD 0
    decide (fl < 4) && (!inplace || perm) && allZeroAt op 1 1 && allZeroAt op 0x22 14 && decide (n < 2 ^ 48) && decide (leAt op 8 8 % 64 = 0) &&
      c.kb.covers (leAt op 8 8) (16 * p) false &&
      (if perm then decide (leAt op 0x18 8 % 64 = 0) && c.kb.covers (leAt op 0x18 8) (16 * p) false else decide (leAt op 0x18 8 = 0)) &&
      (if mc then decide (leAt op 0x20 2 < p) else decide (leAt op 0x20 2 = 0)) &&
      decide (me.ident = s.fab.ident) && (decide (p = 1) || decide (s.fab.ident ≠ noIdent)) && decide ((ms.map (·.ident)).eraseDups.length = ms.length) &&
      sumLen ms == n && c.kb.engs.isEmpty && nt ≤ c.kb.bufs.length &&
      (decide (s.cleCap ≠ 0) || decide (p ≤ 1) || decide (n = 0)) && (!c.fixed || decide (p ≤ 1) || decide (n = 0) || decide (c.budget ≤ s.cleCap)) &&
      (if collReduces c.op then
        match c.kb.geom with
        | none => false
        | some g =>
          let ns := rankNodes g.slots me
          g.ok && g.klen == 1 && g.segLo == 0 && g.segHi == 0 && decide (1 ≤ g.slots) && slotsCover ms g.slots &&
            (me.noslot || (me.slotLo == g.slotLo && me.slotHi == g.slotHi)) && decide (ns.length ≤ 8) && nt == ns.length + 1 &&
            (List.range ns.length).all (fun k => (t k).count == n && (t k).fmt == g.nodeFmt) &&
            (t ns.length).count == (match c.op with
              | .collAllReduce .. => n
              | _ => mine) &&
            ((t ns.length).slot?.isNone || (match c.op with
              | .collAllReduce .. => (List.range p).all fun r => decide (sumLen (ms.take r) % (128 * (t ns.length).cols) = 0) || sumLen (ms.take r) == n
              | _ => true))
       else c.kb.geom.isNone &&
        (match c.op with
         | .collAllGather .. => nt == 2 && plain 0 && (t 0).fmt == (t 1).fmt && (t 0).count == mine && (t 1).count == n
         | .collMulticast .. => (if rank = leAt op 0x20 2 then nt == 2 && (t 1).count == n && (t 0).fmt == (t 1).fmt else nt == 1) && plain 0 && (t 0).count == n
         | _ =>
           sumLen c.kb.newMembers == n && c.kb.newMembers.length == p &&
             (c.kb.newMembers.zip ms).all (fun x => x.1.ident == x.2.ident && x.1.ctx == x.2.ctx && x.1.gen == x.2.gen) && plain 0 &&
             (if inplace then nt == 1 else nt == 2 && (t 0).fmt == (t 1).fmt && (t 0).count == mine && (t 1).count == fresh)))

/-! ### The whole check -/

/-- The work of a kernel command is empty (R97, R109, R112, R120, R282, R375). -/
def workEmpty (c : Cmd) : Bool :=
  let out (k : Nat) : Bool := match c.role k with
    | some t => t.count == 0
    | none => true
  match c.op with
  | .matmul .. => decide (c.mat.m = 0 ∨ c.mat.n = 0)
  | .optUpdate .. => decide (leAt c.kb.op 0x38 8 = 0)
  | .vector .. => out 3 || (c.opb 2 != 0xFF && decide (c.opw 8 < c.opw 4))
  | .reduce .. => out 3 || (c.opb 2 != 0xFF && decide (c.opw 8 < c.opw 4))
  | .attnFwd .. => out 3
  | .attnBwd .. => out 6
  | _ => decide (collElems c = 0)

/-- Units of R299; of a permutation, over the elements the rank receives (R363). -/
def kernelUnits (c : Cmd) : Nat :=
  match c.op with
  | .matmul .. => c.mat.tiles
  | .collPermute .. =>
    let rank := leAt c.kb.op 2 2
    let lo (ms : List Member) : Nat := sumLen (ms.take rank)
    let hi (ms : List Member) : Nat := sumLen (ms.take (rank + 1))
    let (a, b) := (lo c.kb.members, hi c.kb.members)
    let (x, y) := (lo c.kb.newMembers, hi c.kb.newMembers)
    ceilDiv ((y - x) - (min b y - max a x)) 65536
  | _ => match (outputsOf c).head?.bind c.ten? with
    | some t => ceilDiv t.count 65536
    | none => 0

/-- The step a conversion carries is not below its record's (R129). -/
def State.stepsOk (s : State) (c : Cmd) : Bool :=
  (outputsOf c).all fun k => match (c.ten? k).bind TenD.slot? with
    | none => true
    | some j => decide (((s.ctx c.ctx).scale j).step.toNat ≤ c.kb.step.toNat)

/-- Bytes of the elements a COLL_PERMUTE with INPLACE brings in (R371): what the shadow pool holds for it. -/
def inplaceRanges (c : Cmd) : List BufD :=
  match c.op, (c.ten? 0), (c.kb.bufs[0]? : Option BufD) with
  | .collPermute .., some t, some b =>
    if bitOf (c.opb 0) 1 then
      let z := (unitBytes t.fmt.val).1
      let rank := leAt c.kb.op 2 2
      let at_ (ms : List Member) : Nat × Nat := let lo := sumLen (ms.take rank); (lo, lo + ((ms[rank]? : Option Member).map (·.shardLen)).getD 0)
      let old := at_ c.kb.members
      let new := at_ c.kb.newMembers
      let piece (lo hi : Nat) : List BufD := if lo < hi then [{ va := b.va + lo * z, len := (hi - lo) * z, r := false, w := true }] else []
      piece new.1 (min new.2 old.1) ++ piece (max new.1 old.2) new.2
    else c.kb.bufs
  | _, _, _ => c.kb.bufs

/-- All checks of step 9 and 10 for a kernel opcode. -/
def State.checkKernel (s : State) (c : Cmd) (kb : KBlock) : Checked :=
  let c := { c with kb, ranges := kb.bufs }
  let ok := match c.op with
    | .matmul .. => c.matOk
    | .vector .. => c.vectorOk
    | .reduce .. => c.reduceOk
    | .attnFwd .. => c.attnOk false
    | .attnBwd .. => c.attnOk true
    | .optUpdate .. => s.optOk c
    | _ => s.collOk c
  let empty := ok && workEmpty c
  let need := if c.fixed then some 0 else (s.shadowNeed c.ctx kb.bufs).bind fun _ => s.shadowNeed c.ctx (inplaceRanges c)
  checks
    [(kb.bufs.all (fun b => s.rangeOk c.ctx b.va b.len b.r b.w), stBounds),
     (kb.tens.all TenD.shapeOk, stBounds),
     (ok, stBounds),
     ((outputsOf c).all (fun k => match c.ten? k with
        | some t => s.recipeOk c.ctx t
        | none => true), stBounds),
     (decide ((kb.engs.map (·.eng)).eraseDups.length = kb.engs.length) && kb.engs.all (kb.engineOk c.fixed), stBounds),
     (kb.slotsOk && kb.rolesOk (inputsOf c) (outputsOf c), stBounds),
     (empty || isColl (opCode c.op) || !kb.engs.isEmpty, stBounds),
     (need.isSome, stBounds),
     (s.stepsOk c, stBounds),
     (kb.sems.all (fun k => s.semOwned c.ctx k.val), stPerm),
     (kb.bufs.all (fun b => !b.w || !((s.ctx c.ctx).wslots.toList.any fun w => decide (w.state ≠ .empty) && overlaps b.va b.len w.va w.len)), stPerm),
     (decide (c.ctx = 0) || decide (need.getD 0 ≤ 32 * (s.ctx c.ctx).quotaSh), stQuota)]
    { kb, ranges := kb.bufs, units := kernelUnits c, shNeed := need.getD 0, empty }

end Sys2Proof.Machine
end

