-- ==== Sys2Proof/Machine/Checks.lean ====
section
/-! DEFINITION. MXE: where the lanes of a tile lie, and what its row and column checks compare (R83, R84, R87, R89, R98, R99, R103). -/
namespace Sys2Proof.Machine

/-! ### Lanes (R83, R84, R87) -/

/-- Physical row and column of logical lane (r, c). -/
def Mat.laneRow (x : Mat) (r c : Nat) : Nat := r + x.r * (c / 32)
def laneCol (c : Nat) : Nat := c % 32

/-- Sub-tile index of tile element (i, j). -/
def Mat.subTile (x : Mat) (i j : Nat) : Nat := i / x.r * x.nb + j / x.c

/-- Operands of one chunk step of a sub-tile: grid rows and columns that are not masked, with their vectors. -/
structure ChunkStep where
  /-- Chunk index c of the reduction. -/
  chunk : Nat
  a : List (Nat × List Val)
  b : List (Nat × List Val)
deriving DecidableEq, Repr

/-- The chunk step of sub-tile u in the k-th segment held, chunk n of it. -/
def Mat.stepAt (x : Mat) (o : TileOps) (u k n : Nat) : ChunkStep :=
  let vec (l : List (List (List Val))) (i : Nat) : Option (List Val) := ((l.getD k [])[i]? : Option (List Val)).map fun v => (v.drop (32 * n)).take 32
  { chunk := (x.segLo + k) * 128 + n
    a := (List.range x.r).filterMap fun r => (vec o.va (u / max 1 x.nb * x.r + r)).map fun v => (r, v)
    b := (List.range x.c).filterMap fun c => (vec o.vb (u % max 1 x.nb * x.c + c)).map fun v => (c, v) }

/-- The chunk steps of a tile: by segment, by chunk, by sub-tile. -/
def Mat.steps (x : Mat) (o : TileOps) : List ChunkStep :=
  (List.range x.segs.length).flatMap fun k => (List.range (ceilDiv (x.ks (x.segs.getD k 0)).length 32)).flatMap fun n =>
    (List.range (x.mb * x.nb)).map fun u => x.stepAt o u k n

/-! ### Checks (R98, R99) -/

/-- The 64 check lanes: a row check for each physical row, a column check for each physical column. -/
inductive CheckLane where
  | row (p : Fin 32)
  | col (p : Fin 32)
deriving DecidableEq, Repr

def checkLanes : List CheckLane := ((List.finRange 32).map .row) ++ (List.finRange 32).map .col

/-- A check covers the lane of a grid row and a grid column. -/
def Mat.covers (x : Mat) (k : CheckLane) (r c : Nat) : Bool :=
  match k with
  | .row p => x.laneRow r c == p.val
  | .col p => laneCol c == p.val

/-- Grid rows and columns whose vectors a check reads: those of the unmasked lanes it covers. -/
def Mat.reads (x : Mat) (k : CheckLane) (s : ChunkStep) : List (Nat × List Val) × List (Nat × List Val) :=
  (s.a.filter fun r => s.b.any fun c => x.covers k r.1 c.1, s.b.filter fun c => s.a.any fun r => x.covers k r.1 c.1)

def finiteVec (v : List Val) : Bool := v.all fun y => match y with
  | .fin _ => true
  | _ => false

/-- A check has an unmasked lane to check in a step. -/
def Mat.present (x : Mat) (k : CheckLane) (s : ChunkStep) : Bool := !(x.reads k s).1.isEmpty

/-- An operand that a check reads is not finite: it does not compare the chunk. -/
def Mat.stopped (x : Mat) (k : CheckLane) (s : ChunkStep) : Bool :=
  let (a, b) := x.reads k s
  !(a.all fun r => finiteVec r.2) || !(b.all fun c => finiteVec c.2)

def ratOf : Val → Rat
  | .fin q => q
  | _ => 0

/-- Exact dot product of two vectors of finite values. -/
def dotQ (a b : List Rat) : Rat := ((a.zip b).map fun p => p.1 * p.2).foldl (· + ·) 0
/-- Element by element sum of vectors. -/
def vecSum (l : List (List Rat)) : List Rat :=
  (List.range 32).map fun i => (l.map fun v => v.getD i 0).foldl (· + ·) 0

/-- What a check computes: it sums the operand vectors first, and then forms products. -/
def Mat.checkValue (x : Mat) (k : CheckLane) (s : ChunkStep) : Rat :=
  let (a, b) := x.reads k s
  let va := a.map fun r => r.2.map ratOf
  let vb := b.map fun c => c.2.map ratOf
  match k with
  | .row _ => dotQ (vecSum va) (vecSum vb)
  | .col _ => (vb.map fun v => dotQ (vecSum va) v).foldl (· + ·) 0

/-- The sum of the product sums of a check's lanes. -/
def Mat.laneValue (x : Mat) (k : CheckLane) (s : ChunkStep) : Rat :=
  let (a, b) := x.reads k s
  (a.flatMap fun r => b.map fun c => dotQ (r.2.map ratOf) (c.2.map ratOf)).foldl (· + ·) 0

/-- A check mismatches in a step in which the product sum of lane (r, c) is off by an error. -/
def Mat.mismatches (x : Mat) (k : CheckLane) (s : ChunkStep) (r c : Nat) (err : Rat) : Bool :=
  x.present k s && !x.stopped k s && x.checkValue k s != x.laneValue k s + (if x.covers k r c then err else 0)

/-- Comparisons that the checks of a tile skip. -/
def Mat.skips (x : Mat) (o : TileOps) : Nat :=
  ((x.steps o).map fun s => (checkLanes.filter fun k => x.present k s && x.stopped k s).length).sum

/-! ### Reports (R103) -/

/-- A report: PATTERN, PROW, PCOL and CHUNK in their places. -/
def reportOf (rows cols : List Nat) (chunk : Nat) : Nat :=
  let p := if rows.length = 1 ∧ cols.length = 1 then 0 else if cols.isEmpty then 1 else if rows.isEmpty then 2 else 3
  p * 2 ^ 56 + rows.headD 0 * 2 ^ 51 + cols.headD 0 * 2 ^ 46 + chunk % 2 ^ 32

/-- What the checks of a step report, if one mismatches. -/
def Mat.stepReport (x : Mat) (s : ChunkStep) (r c : Nat) (err : Rat) : Option Nat :=
  let rows := ((List.finRange 32).filter fun p => x.mismatches (.row p) s r c err).map (·.val)
  let cols := ((List.finRange 32).filter fun p => x.mismatches (.col p) s r c err).map (·.val)
  if rows.isEmpty && cols.isEmpty then none else some (reportOf rows cols s.chunk)

/-- The report of a tile in whose first n chunk steps a product bit is flipped in the first unmasked lane. Which bit is open, and so is
the error it makes; any error that is not 0 gives the same report. -/
def Mat.flipReport (x : Mat) (o : TileOps) (n : Nat) : Option Nat :=
  ((x.steps o).take n).findSome? fun s => match s.a.head?, s.b.head? with
    | some r, some c => x.stepReport s r.1 c.1 1
    | _, _ => none

/-- A report names checks that compare a chunk of the tile. -/
def Mat.compares (x : Mat) (o : TileOps) (v : Nat) : Bool :=
  let ok (k : CheckLane) (s : ChunkStep) : Bool := x.present k s && !x.stopped k s
  let row : CheckLane := .row (Fin.ofNat 32 (bitsOf v 55 51))
  let col : CheckLane := .col (Fin.ofNat 32 (bitsOf v 50 46))
  ((x.steps o).filter fun s => s.chunk % 2 ^ 32 == v % 2 ^ 32).any fun s =>
    match bitsOf v 57 56 with
    | 0 => ok row s && ok col s && s.a.any fun r => s.b.any fun c => x.covers row r.1 c.1 && x.covers col r.1 c.1
    | 1 => ok row s
    | 2 => ok col s
    | _ => true

/-- PROW is 0 without a row check, PCOL without a column check. -/
def tidyReport (v : Nat) : Nat :=
  bitsOf v 57 56 * 2 ^ 56 + (if bitsOf v 57 56 = 2 then 0 else bitsOf v 55 51 * 2 ^ 51) + (if bitsOf v 57 56 = 1 then 0 else bitsOf v 50 46 * 2 ^ 46) + v % 2 ^ 32

end Sys2Proof.Machine
end

