-- ==== Sys2Proof/Machine/Memory.lean ====
section
/-! DEFINITION. TMU and MEM: the memory commands, migrations, row and channel failures, lending (R186-R216). -/
namespace Sys2Proof.Machine

/-! ### ATTR (R203) -/

/-- Page size of PSIZE; 0b11 is reserved. -/
def psize? : Nat → Option PSize
  | 0 => some .k64
  | 1 => some .m2
  | 2 => some .g1
  | _ => none

/-- Page size, R, W and hint of MEM_MAP's ATTR. -/
def mapAttr? (a : W32) : Option (PSize × Bool × Bool × Hint) :=
  let v := a.toNat
  match psize? (bitsOf v 1 0), hint? (bitsOf v 6 4) with
  | some z, some h => if v < 128 then some (z, bitOf v 2, bitOf v 3, h) else none
  | _, _ => none

/-- Hint and WAIT of MEM_HINT's ATTR. -/
def hintAttr? (a : W32) : Option (Hint × Bool) :=
  let v := a.toNat
  match hint? (bitsOf v 6 4) with
  | some h => if bitsOf v 3 0 = 0 ∧ bitsOf v 7 7 = 0 ∧ bitsOf v 31 9 = 0 then some (h, bitOf v 8) else none
  | none => none

/-! ### Checks of ranges -/

/-- A range touches the system window (R250). -/
def inWindow (va len : Nat) : Bool := decide (windowBase < va + len) && decide (len ≠ 0)

/-- Pages of a context that share a byte with a range. -/
def State.pagesIn (s : State) (c : CtxId) (va len : Nat) : List Page := s.memUnit.pages.filter fun p => p.inRange c va len

/-- A range covers whole pages and no unmapped address (R203, R204). -/
def State.wholePages (s : State) (c : CtxId) (va len : Nat) : Bool :=
  s.mapped c va len && (s.pagesIn c va len).all fun p => decide (va ≤ p.va) && decide (p.va + p.size.bytes ≤ va + len)

/-- PIN_T2 and PIN_T3 pages would lie in one block of 64 KiB pages if a range took a hint (R186). -/
def State.pinMix (s : State) (c : CtxId) (va len : Nat) (h : Hint) : Bool :=
  let other : Hint := if h = .pinT2 then .pinT3 else .pinT2
  h.pinned && decide (len ≠ 0) && s.memUnit.pages.any fun p => decide (p.ctx = c) && decide (p.size = .k64) && decide (p.claim = other) &&
    !(p.inRange c va len) && overlaps (p.va / 2 ^ 21 * 2 ^ 21) (2 ^ 21) (va / 2 ^ 21 * 2 ^ 21) (roundUp (va % 2 ^ 21 + len) (2 ^ 21))

/-- Pinned pages with some units more fit the quota of their tier (R195, R197). -/
def State.pinFits (s : State) (c : CtxId) (h : Hint) (units : Nat) : Bool :=
  decide (c = 0) ||
    (match h with
     | .pinT2 => decide (s.pinnedT2 c + units + 32 * (s.ctx c).quotaSh ≤ 32 * (s.ctx c).quotaT2)
     | .pinT3 => decide (s.pinnedT3 c + units ≤ 32 * (s.ctx c).quotaT3)
     | _ => true)

/-! ### MEM_MAP, MEM_UNMAP (R204) -/

/-- Checks of MEM_MAP. -/
def State.checkMap (s : State) (c : CtxId) (va len : Nat) (attr : W32) : Checked :=
  match mapAttr? attr with
  | none => .error stBounds
  | some (z, _, _, h) =>
    checks [(decide (va % z.bytes = 0 ∧ len % z.bytes = 0 ∧ va + len ≤ vaLimit), stBounds),
      ((s.pagesIn c va len).isEmpty && !inWindow va len, stBounds), (!s.pinMix c va len h, stBounds),
      (s.pinFits c h (if h.pinned then len / 2 ^ 16 else 0), stQuota)] { empty := decide (len = 0) }

/-- Unpinned pages start to be demoted until what stays fits the T2 quota, as far as pages can be demoted (R196). -/
def State.fitT2 (s : State) (c : CtxId) : Nat → State
  | 0 => s
  | k + 1 =>
    if c = 0 ∨ s.useT2 c - s.leaving c .t2 + 32 * (s.ctx c).quotaSh ≤ 32 * (s.ctx c).quotaT2 then s
    else match s.victimIn c .t2 with
      | none => s
      | some p => match s.demoteTo p with
        | none => s
        | some (t, w) => (s.startCopy p t w).fitT2 c k

/-- Use of T2 by every context and its pool, in 1/32 of a page. -/
def State.usedUnits (s : State) : Nat := (allCtx.map fun c => s.useT2 c + 32 * (s.ctx c).quotaSh).sum

/-- Firmware memory, the lend pool and the contexts' frames fit the frames in service, but for some units that are leaving. -/
def State.framesFit (s : State) (less : Nat) : Bool :=
  decide (s.fwFrames + s.memUnit.lendPages ≤ s.memUnit.cap) &&
    decide (s.usedUnits - less ≤ 32 * (s.memUnit.cap - s.fwFrames - s.memUnit.lendPages))

/-- Units of T2 that migrations under way will free. -/
def State.allLeaving (s : State) : Nat := (allCtx.map fun c => s.leaving c .t2).sum

/-- The page to demote next when every context gives in proportion to its T2 use (R211): of the contexts with a page that can move,
the one that keeps most of the use it had, the lowest among equals. -/
def State.nextShare (s : State) (base : List (CtxId × Nat)) : Option (Page × Tier × Fin 9) :=
  (base.foldl (fun (best : Option (Nat × Nat × Page × Tier × Fin 9)) x =>
    match (s.victimIn x.1 .t2).bind fun p => (s.demoteTo p).map fun d => (p, d.1, d.2) with
    | none => best
    | some v =>
      let now := s.useT2 x.1 - s.leaving x.1 .t2
      match best with
      | none => some (now, x.2, v)
      | some (n, u, w) => if n * x.2 < now * u then some (now, x.2, v) else some (n, u, w)) none).map (·.2.2)

/-- T2 use of the contexts that have one. -/
def State.shares (s : State) : List (CtxId × Nat) := (allCtx.map fun c => (c, s.useT2 c)).filter fun x => x.2 != 0

/-- Firmware memory has grown: pages of every context are demoted until it fits, and have left when the command ends (R545). None: the
pages that can move leave no room. -/
def State.fwSettle (s : State) (base : List (CtxId × Nat)) : Nat → Option State
  | 0 => if s.framesFit 0 then some s else none
  | k + 1 =>
    if s.framesFit 0 then some s
    else match s.nextShare base with
      | none => none
      | some (p, t, w) => (s.placeBlock p t w false).fwSettle base k

/-- Frames have left service: pages of every context start to be demoted until the rest fits (R211). -/
def State.shrink (s : State) (base : List (CtxId × Nat)) : Nat → State
  | 0 => s
  | k + 1 =>
    if s.framesFit s.allLeaving then s
    else match s.nextShare base with
      | none => s
      | some (p, t, w) => (s.startCopy p t w).shrink base k

/-- The same from now, with an ALARM if the pinned pages alone do not fit. -/
def State.shrinkAll (s : State) : State :=
  let s := s.shrink s.shares s.memUnit.pages.length
  if 32 * (s.memUnit.cap - s.fwFrames - s.memUnit.lendPages) < (allCtx.map s.pinnedT2).sum then s.raise evPinOverflow unitTmu else s

/-- Firmware memory has grown without a command, by what MIR holds: pages start to be demoted when no frame is left (R545). -/
def State.mirSettle (s : State) : State := if s.framesFit s.allLeaving then s else s.shrinkAll

/-- A change that makes firmware memory grow: the state after it, or ST_QUOTA with an ALARM. -/
def State.growFw (s new : State) (detail : W64 := 0) : Started :=
  match new.fwSettle new.shares new.memUnit.pages.length with
  | some s' => doneOk s' detail
  | none => doneBad (s.raise evPinOverflow unitTmu) stQuota

/-- A block of 64 KiB pages that a mapping adds to has one tier (R186): that of the frames its pages have, or else the tier of its
effective hint. -/
def State.joinBlock (s : State) (p : Page) : Page :=
  if p.size ≠ .k64 then p
  else match (s.blockOf p).find? fun q => !q.zero || q.migrating with
    | some q => if p.zero then { p with tier := q.tier, peer := q.peer, frame := q.frame, migrating := q.migrating, dest := q.dest } else p
    | none => { p with tier := (s.effHint p).tier }

/-- MEM_MAP: ZERO pages in the initial tier of their hint. -/
def State.startMap (s : State) (c : CtxId) (va len : Nat) (attr : W32) : Started :=
  match mapAttr? attr with
  | none => doneBad s stBounds
  | some (z, r, w, h) =>
    let new := (List.range (len / z.bytes)).map fun k =>
      ({ ctx := c, va := va + k * z.bytes, size := z, tier := h.tier, hint := h, r, w, named := s.tick.now } : Page)
    let s' := s.modMem fun m => { m with pages := m.pages ++ new }
    let s' := s'.modPages (fun p => decide (p.ctx = c) && overlaps (p.va / 2 ^ 21 * 2 ^ 21) (2 ^ 21) va len) s'.joinBlock
    let s' := if h = .pinT2 then s'.fitT2 c s'.memUnit.pages.length else s'
    if s'.tableFrames c = s.tableFrames c then doneOk s' else s.growFw s'

/-- Checks that MEM_UNMAP and MEM_HINT share: the window gives ST_PERM (R250). -/
def State.checkRange (s : State) (c : CtxId) (va len : Nat) : List (Bool × W16) :=
  [(decide (va % 2 ^ 16 = 0 ∧ len % 2 ^ 16 = 0 ∧ va + len ≤ vaLimit), stBounds), (!inWindow va len, stPerm),
    (s.wholePages c va len, stBounds)]

def State.checkUnmap (s : State) (c : CtxId) (va len : Nat) : Checked :=
  checks (s.checkRange c va len ++ [(!s.overWeights c va len, stPerm)]) { empty := decide (len = 0) }

/-- A fault is pending on a page of a range. -/
def State.faultIn (s : State) (c : CtxId) (va len : Nat) : Bool :=
  s.memUnit.faults.any fun f => decide (f.ctx = c) && decide (va ≤ f.va) && decide (f.va < va + len)

/-- MEM_UNMAP: it waits while an issued command has a descriptor over the range or a fault is pending there (R216). -/
def State.startUnmap (s : State) (c : CtxId) (va len : Nat) : Started :=
  if (s.busyRanges c).any (fun r => overlaps r.1 r.2 va len) || s.faultIn c va len then (s, none)
  else doneOk (s.freePages c fun p => p.inRange c va len)

/-! ### MEM_HINT (R204) -/

def State.checkHint (s : State) (c : CtxId) (va len : Nat) (attr : W32) : Checked :=
  match hintAttr? attr with
  | none => .error stBounds
  | some (h, _) =>
    let add := (s.pagesIn c va len).foldl (fun n p => if h.pinned ∧ p.claim ≠ h then n + p.size.units else n) 0
    checks (s.checkRange c va len ++ [(!s.pinMix c va len h, stBounds), (s.pinFits c h add, stQuota)])
      { empty := decide (len = 0) }

/-- Pages of a range outside their hinted tier. -/
def State.outside (s : State) (c : CtxId) (va len : Nat) : Nat :=
  ((s.pagesIn c va len).filter fun p => decide (p.tier ≠ p.claim.tier)).length

/-- Where a block can go in a tier: none where a quota, the lend pools or the T4 region lack room. A block without a frame needs none. -/
def State.roomIn (s : State) (p : Page) (t : Tier) : Option (Fin 9) :=
  if (s.blockOf p).all (·.zero) then some 0
  else match t with
    | .t2 => if s.roomT2 p.ctx (s.moveUnits p false) then some 0 else none
    | .t3 => s.t3For p false
    | .t4 => if s.roomT4 p.ctx (s.t4Adds p) then some 0 else none

/-- Move the block of a page to a tier, as a fault resolution would; a copy under way is completed first. -/
def State.moveTo (s : State) (p : Page) (t : Tier) : Option State :=
  let s := if p.migrating then s.finishCopy p else s
  match s.pageAt? p.ctx p.va with
  | none => some s
  | some p =>
    if p.tier = t then some s
    else if t = .t2 then s.bringT2 p false
    else (s.roomIn p t).map fun w => s.placeBlock p t w false

/-- Accesses that waited for a page go on. -/
def State.resumePages (s : State) (q : Page) : State :=
  match s.pageAt? q.ctx q.va with
  | some p => if p.migrating then s else s.resumeMigrated q.ctx p
  | none => s

/-- Move every page of a range to the tier of its block's hint: the flag says that every move was possible. Where a block's hint keeps
a page out of its own hinted tier, its move is not (R204). -/
def State.moveAll (s : State) (c : CtxId) (va len : Nat) : State × Bool :=
  (s.pagesIn c va len).foldl (fun (acc : State × Bool) p =>
    match acc.1.pageAt? c p.va with
    | none => acc
    | some q => match acc.1.moveTo q (acc.1.effHint q).tier with
      | some s => ((s.resumePages q), acc.2)
      | none => (acc.1, false)) (s, true)

/-- Pending faults that TMU resolves itself, on pages of a range, are resolved before a hint applies (R216). -/
def State.resolveIn (s : State) (c : CtxId) (va len : Nat) : State :=
  ((s.memUnit.faults.filter fun f => decide (f.ctx = c) && f.cause.silent && decide (va ≤ f.va) && decide (f.va < va + len)).map
    (·.id)).foldl (fun s id => s.resolveFault id) s

/-- A page takes a hint: at once, or from the remap when a fault is pending on it (R216). -/
def State.rehint (s : State) (h : Hint) (p : Page) : Page :=
  if s.memUnit.faults.any fun f => decide (f.ctx = p.ctx) && decide (p.va ≤ f.va) && decide (f.va < p.va + p.size.bytes) then
    { p with nextHint := some h }
  else { p with hint := h, nextHint := none }

/-- MEM_HINT. -/
def State.startHint (s : State) (c : CtxId) (va len : Nat) (attr : W32) : Started :=
  match hintAttr? attr with
  | none => doneBad s stBounds
  | some (h, wait) =>
    let s := s.resolveIn c va len
    let old := s.memUnit.pages
    let s' := s.modPages (fun p => p.inRange c va len) (s.rehint h)
    let s' := if h = .pinT2 then s'.fitT2 c old.length else s'
    if !wait then doneOk s' (BitVec.ofNat 64 (s'.outside c va len))
    else
      let (s', ok) := s'.moveAll c va len
      let n := s'.outside c va len
      if ok && n == 0 then doneOk s'
      else
        let back := s'.modPages (fun p => p.inRange c va len) fun p =>
          match old.find? fun q => decide (q.ctx = c) && decide (q.va = p.va) with
          | some q => { p with hint := q.hint, nextHint := q.nextHint }
          | none => p
        doneBad back stQuota (BitVec.ofNat 64 n)

/-! ### MEM_QUOTA (R196) -/

/-- Sum of a quota over the contexts, with a new value for one. -/
def State.quotaSum (s : State) (c : CtxId) (new : Nat) (f : Ctx → Nat) : Nat :=
  (allCtx.map fun x => if x = c then new else f (s.ctx x)).sum

def State.checkQuota (s : State) (ctx : Byte) (t2 t3 t4 sh : Nat) : Checked :=
  let c := ctxOf ctx
  checks [(ctxField ctx, stBounds), (decide (c ≠ 0), stBounds), (s.live c, stCtxDead),
    (decide (s.quotaSum c t2 (·.quotaT2) + s.fwFrames + s.memUnit.lendPages ≤ s.memUnit.cap), stQuota),
    (decide (s.quotaSum c t4 (·.quotaT4) ≤ s.t4Space), stQuota),
    (decide (s.pinnedT2 c + 32 * sh ≤ 32 * t2), stQuota), (decide (s.pinnedT3 c ≤ 32 * t3), stQuota),
    (decide ((s.ctx c).shUse + s.heldUnits c ≤ 32 * sh), stQuota)]

/-- T3 pages start to be demoted to T4, in the order of R191, until what stays fits the T3 quota, as far as T4 has room. -/
def State.fitT3 (s : State) (c : CtxId) : Nat → State
  | 0 => s
  | k + 1 =>
    if s.useT3 c - s.leaving c .t3 ≤ 32 * (s.ctx c).quotaT3 then s
    else match s.victimIn c .t3 with
      | none => s
      | some p => if s.roomT4 c (s.t4Adds p) then (s.startCopy p .t4 0).fitT3 c k else s

def State.startQuota (s : State) (ctx : Byte) (t2 t3 t4 sh : Nat) : Started :=
  let c := ctxOf ctx
  let s := s.modCtx c fun x => { x with quotaT2 := t2, quotaT3 := t3, quotaT4 := t4, quotaSh := sh }
  let n := s.memUnit.pages.length
  doneOk ((s.fitT2 c n).fitT3 c n)

/-! ### MEM_RESOLVE (R205) -/

/-- The pending fault of a context that a MEM_RESOLVE names. -/
def State.recorded? (s : State) (c : CtxId) (id : W32) : Option PFault :=
  s.memUnit.faults.find? fun f => f.id == id && decide (f.ctx = c) && f.recorded && !f.cause.silent

def State.checkResolve (s : State) (c : CtxId) (id : W32) : Checked := checks [((s.recorded? c id).isSome, stBounds)]

def State.startRetry (s : State) (id : W32) : Started := doneOk (s.retryFault id)

/-- FAIL: unresolvable with the recorded cause. -/
def State.startFail (s : State) (c : CtxId) (id : W32) : Started :=
  match s.recorded? c id with
  | none => doneBad s stBounds
  | some f => doneOk (s.failFault id f.cause)

/-! ### Faults end (R156, R157) -/

/-- FAULT_RESOLVED (R156). -/
def execFaultResolved (id : W32) (s : State) : Host.Outcome State Fault Refusal := .next (State.placeAll (s.resolveFault id))

/-- The timer of a fault: 128 ticks after its detection it is unresolvable with cause TIMEOUT (R157, R205);
faults on weight pages follow R235 instead. -/
def State.timeoutFault (s : State) (id : W32) : State :=
  match s.faultsOf id with
  | [] => s
  | f :: _ => if f.tick + 128 ≤ s.tick.now ∧ !(s.ctx f.ctx).inWeights f.va then s.failFault id .timeout else s

/-- FAULT_TIMEOUT (R157). -/
def execFaultTimeout (id : W32) (s : State) : Host.Outcome State Fault Refusal := .next (State.placeAll (s.timeoutFault id))

/-! ### Migrations (R191-R194) -/

/-- A page may be moved in the background: not busy, not moving, its context not FENCED, and RATE not 0 (R193, R194). -/
def State.mayMove (s : State) (p : Page) : Bool :=
  !p.migrating && !p.poison && !p.lost && !(s.blockOf p).any (fun q => q.touches (s.busyRanges p.ctx)) && s.memUnit.migRate != 0 &&
    (s.ctx p.ctx).state == .active

/-- IDLE_DEMOTION: a PREFER_T3 or PREFER_T4 page that no command has named for 1,024 ticks goes to its hinted tier, if that has
room; a page just pinned to T3 follows its hint at once (R191, R204). -/
def State.idleDemotion (s : State) (c : CtxId) (va : Nat) : State :=
  match s.pageAt? c va with
  | none => s
  | some p =>
    let h := s.effHint p
    let idle := (s.blockOf p).all fun q => decide (q.named + 1024 ≤ s.tick.now)
    match s.roomIn p h.tier with
    | none => s
    | some w =>
      if s.mayMove p ∧ p.tier ≠ h.tier ∧ ((h = .preferT3 ∧ p.tier = .t2 ∧ idle) ∨ (h = .preferT4 ∧ idle) ∨ h = .pinT3) then
        s.startCopy p h.tier w
      else s

def execIdleDemotion (ctx : CtxId) (va : BitVec 52) (s : State) : Host.Outcome State Fault Refusal :=
  .next (s.idleDemotion ctx va.toNat)

/-- BACKGROUND_PROMOTION: a page hinted to T2 that lies in T3 or T4, when the T2 quota has room (R192, R204). -/
def State.promotion (s : State) (c : CtxId) (va : Nat) : State :=
  match s.pageAt? c va with
  | none => s
  | some p =>
    let h := s.effHint p
    if s.mayMove p ∧ p.tier ≠ .t2 ∧ (h = .preferT2 ∨ h = .pinT2) ∧ s.roomT2 c (s.moveUnits p false) then s.startCopy p .t2 0 else s

def execBackgroundPromotion (ctx : CtxId) (va : BitVec 52) (s : State) : Host.Outcome State Fault Refusal :=
  .next (s.promotion ctx va.toNat)

/-- A copy completes: TMU remaps the page, and accesses that waited resume (R193). -/
def State.migrationDone (s : State) (c : CtxId) (va : Nat) : State :=
  match s.pageAt? c va with
  | none => s
  | some p => if p.migrating then (s.finishCopy p).resumeMigrated c p else s

/-- PAGE_MIGRATION_DONE (R193). -/
def execPageMigrationDone (ctx : CtxId) (va : BitVec 52) (s : State) : Host.Outcome State Fault Refusal :=
  .next (State.placeAll (s.migrationDone ctx va.toNat))

/-! ### HBM (R209-R212) -/

def State.modStack (s : State) (k : StackId) (f : Stack → Stack) : State :=
  s.modMem fun m => { m with hbm := vmod m.hbm k f }

/-- Poison the pages of a set: their data is lost (R212). -/
def State.poisonPages (s : State) (q : Page → Bool) : State := s.modPages q fun p => { p with poison := true }

/-- A page holds a frame of T2. -/
def Page.holds (p : Page) (f : Nat) : Bool :=
  decide (p.tier = .t2) && !p.zero && decide (p.frame ≤ f) && decide (f < p.frame + max 1 (p.size.units / 32))

/-- Retire a frame (R210): a free frame leaves the free list; a page with readable data starts to be copied to another frame of T2, and
a page without is poisoned. The cache lines of the frame are written back (R207). -/
def State.retireFrame (s : State) (f : Nat) (lost : Bool) : State :=
  let s := if lost then s.poisonPages (·.holds f) else s
  if s.memUnit.retiredFrames.contains f then s
  else
    let k : StackId := Fin.ofNat 24 f
    let s := (s.modMem fun m => { m.t1Drop (fun x => x.frame == f) with retiredFrames := f :: m.retiredFrames, cap := m.cap - 1 }).modStack k fun x =>
      { x with retired := satTo 65535 (x.retired + 1) }
    let s := if lost then s
      else match s.memUnit.pages.find? (·.holds f) with
        | some p => if p.migrating then s else s.startCopy p .t2 0
        | none => s
    (s.retirePart 2 (BitVec.ofNat 16 f) (if lost then 1 else 0) (le 8 (f * 2 ^ 21))).raise evRowRetired (unitChannel k 0) |>.shrinkAll

/-- The row record of a channel. -/
def Stack.rowRec (x : Stack) (ch : Fin 32) (row : Nat) : RowRec :=
  ((x.rows.find? fun r => decide (r.channel = ch) && r.row == row).getD { channel := ch, row, ces := [], failed := false, frames := [] })

def Stack.setRow (x : Stack) (r : RowRec) : Stack :=
  { x with rows := r :: x.rows.filter fun y => !(decide (y.channel = r.channel) && y.row == r.row) }

/-- A row fails: at most 4 frames with a line in it retire (R210). The frame with uncorrectable data is retired with its page poisoned,
in a row that has failed before too. -/
def State.failRow (s : State) (k : StackId) (ch : Fin 32) (row : Nat) (lost : Option Nat) : State :=
  let r := (s.memUnit.hbm[k]).rowRec ch row
  let fs := if r.failed then lost.toList
    else ((lost.toList ++ ((Config.rowFrames k.val ch.val row).take 4).map fun n => 24 * n + k.val).eraseDups).take 4
  let s := if r.failed then s else s.modStack k fun x => x.setRow { r with failed := true, frames := fs }
  fs.foldl (fun s f => s.retireFrame f (lost = some f)) s

/-- A page has a frame in a stack: the 512 frames of a 1 GiB page rotate over every stack (R208). -/
def Page.inStack (p : Page) (k : StackId) : Bool :=
  decide (p.tier = .t2) && !p.zero && (p.size == .g1 || decide (p.frame % 24 = k.val))

/-- A stack leaves service (R211): its pages move to other stacks or, where a frame of theirs in it cannot be read, are poisoned; pages
of every context are demoted as far as the capacity asks; the module is degraded. -/
def State.stackOut (s : State) (k : StackId) : State :=
  if (s.memUnit.hbm[k]).out then s
  else
    let n := s.free
    let s := ({ s with free := n + 1 }.modStack k fun x => { x with out := true }).modMem fun m =>
      { m.t1Drop (fun x => decide (x.frame % 24 = k.val)) with cap := m.cap - 30720 }
    let lost := s.memUnit.pages.filter fun p => p.inStack k && (List.range p.frames).any fun j =>
      decide ((p.frame + j) % 24 = k.val) && Config.unreadable n (p.frame + j)
    let s := s.poisonPages fun p => lost.any fun q => decide (q.ctx = p.ctx) && decide (q.va = p.va)
    let s := (s.memUnit.pages.filter fun p => p.inStack k && !p.poison && !p.migrating).foldl (fun s p => match s.pageAt? p.ctx p.va with
      | some q => if q.migrating then s else s.startCopy q .t2 0
      | none => s) s
    ((s.raise evStackOut (unitChannel k 0)).degrade 2 (BitVec.ofNat 16 (32 * k.val))).shrinkAll

/-- A channel must be replaced (R211). -/
def State.replaceChannel (s : State) (k : StackId) (ch : Fin 32) : State :=
  let x := s.memUnit.hbm[k]
  if x.out || x.copying.contains ch then s
  else if x.reserve = 0 then s.stackOut k
  else (s.modStack k fun x => { x with reserve := x.reserve - 1, copying := ch :: x.copying }).retirePart 1 (BitVec.ofNat 16 (32 * k.val + ch.val)) 0

/-- The limits of a channel: more than 64 failing rows, or more than 1,000 corrected errors in an hour. -/
def State.channelCheck (s : State) (k : StackId) (ch : Fin 32) : State :=
  let x := s.memUnit.hbm[k]
  if 64 < (x.rows.filter fun r => decide (r.channel = ch) && r.failed).length ∨ 1000 < (x.hourCe.filter fun e => decide (e.1 = ch)).length then
    s.replaceChannel k ch
  else s

/-- RAS receives an error with its physical address and the context of the request (R209). -/
def State.sawEcc (s : State) (k : StackId) (ch : Fin 32) (row : Nat) (c : Option CtxId) (ue : Bool) : State :=
  let n := s.free
  { s with free := n + 1 }.modMem fun m =>
    { m with seen := { stack := k, channel := ch, row, address := Config.eccAddress k.val ch.val row n, ctx := c, ue } :: m.seen }

/-- A corrected error (R209, R210): counted; the fourth of a row within 24 h fails the row. -/
def State.memCe (s : State) (k : StackId) (ch : Fin 32) (row : Nat) (c : Option CtxId) : State :=
  let s := (s.count offMemCe k.val 1).sawEcc k ch row c false
  let now := s.nowUs
  let s := s.modStack k fun x =>
    let r := x.rowRec ch row
    { (x.setRow { r with ces := s.within dayUs r.ces }) with
        hourCe := (ch, now) :: x.hourCe.filter fun e => decide (now < e.2 + hourUs) }
  let s := if 4 ≤ ((s.memUnit.hbm[k]).rowRec ch row).ces.length then s.failRow k ch row none else s
  s.channelCheck k ch

/-- An uncorrectable error (R209, R210, R212): counted, raised, and the row fails; the frame it lies in, where no access names it, is
one of the row's. -/
def State.memUe (s : State) (k : StackId) (ch : Fin 32) (row : Nat) (c : Option CtxId) (frame : Option Nat) : State :=
  let s := ((s.count offMemUe k.val 1).sawEcc k ch row c true).raise evMemUe (unitChannel k ch) c
  let fs := ((Config.rowFrames k.val ch.val row).take 4).map fun n => 24 * n + k.val
  let n := s.free
  let s := { s with free := n + 1 }
  (s.failRow k ch row (frame.orElse fun _ => fs[Config.freeNat n % max 1 fs.length]?)).channelCheck k ch

/-- The outcome of a read of HBM: of a context, in a frame, or of the patrol. -/
def State.eccEvent (s : State) (k : StackId) (c : Option CtxId) (frame : Option Nat) : Ecc → State
  | .ok => s
  | .ce ch row => s.memCe k ch row c
  | .ue ch row => s.memUe k ch row c frame

/-- ECC_PATROL (R209): what the patrol of a stack found; corrected data is written back. -/
def execEccPatrol (stack : StackId) (found : List Ecc) (s : State) : Host.Outcome State Fault Refusal :=
  .next (State.placeAll (if (s.memUnit.hbm[stack]).out then s else found.foldl (fun s e => s.eccEvent stack none none e) s))

/-- The copy to a reserve channel ends (R211): frames retired for that channel's rows return, apart from those whose rows
failed on other channels; unreadable frames are retired and poisoned (R216). -/
def State.copyDone (s : State) (k : StackId) (ch : Fin 32) (unreadable : List Nat) : State :=
  let x := s.memUnit.hbm[k]
  if !x.copying.contains ch || x.out then s
  else
    let mine := (x.rows.filter fun r => decide (r.channel = ch) && r.failed).flatMap (·.frames)
    let others := (x.rows.filter fun r => decide (r.channel ≠ ch) && r.failed).flatMap (·.frames)
    let back := (mine.eraseDups.filter fun f => !others.contains f && s.memUnit.retiredFrames.contains f)
    let s := s.modMem fun m => { m with retiredFrames := m.retiredFrames.filter fun f => !back.contains f, cap := m.cap + back.length }
    let s := s.modStack k fun x =>
      { x with copying := x.copying.filter (· != ch), rows := x.rows.filter fun r => decide (r.channel ≠ ch),
               hourCe := x.hourCe.filter (fun e => decide (e.1 ≠ ch)), retired := x.retired - back.length }
    unreadable.foldl (fun s f => s.retireFrame (24 * (f / 24) + k.val) true) s

/-- CHANNEL_COPY_DONE (R211). -/
def execChannelCopyDone (stack : StackId) (chan : Fin 32) (unreadable : List Nat) (s : State) : Host.Outcome State Fault Refusal :=
  .next (s.copyDone stack chan unreadable)

/-- FRAME_SCRUB (R259): one frame is zeroed and joins the free list. -/
def execFrameScrub (s : State) : Host.Outcome State Fault Refusal := .next (s.modMem fun m => { m with scrub := m.scrub - 1 })

/-! ### Lending (R213) -/

/-- The slot of a sled peer from its fabric identity: its w (R332). -/
def peerW (ident : W16) : Option (Fin 9) :=
  let w := bitsOf ident.toNat 3 0
  if h : w < 9 then some ⟨w, h⟩ else none

/-- Frames lent to a set of borrowers are freed, zeroed and join the scrub list. -/
def State.freeLent (s : State) (q : Lent → Bool) : State :=
  let gone := s.memUnit.lent.filter q
  let mem := gone.foldl (fun m l => memClear m (lentKey l.frame 0) (2 ^ 21)) s.mem
  (s.setMem mem).modMem fun m => { m with lent := m.lent.filter (!q ·), scrub := m.scrub + gone.length }

/-- A lender is lost (R213, R216): its pages here are poisoned and faults of cause TIER_LOST follow; a copy to it is abandoned and its
page stays in T2. Accesses that waited for a migration go on, and meet what they now meet. -/
def State.lenderLost (s : State) (w : Fin 9) : State :=
  let on (p : Page) : Bool := decide (p.tier = .t3) && !p.zero && decide (p.peer = w)
  let towards (p : Page) : Bool := p.dest.any fun d => decide (d.1 = .t3) && decide (d.2 = w)
  let hit := s.memUnit.pages.filter fun p => p.migrating && (on p || towards p)
  let s := hit.foldl (fun s p => match s.pageAt? p.ctx p.va with
    | some q => (match q.dest with
      | some (.t3, v) => (s.modMem fun m => m.giveRoom v q.frames).modPages (q.sameBlock ·) fun r => { r with migrating := false, dest := none }
      | _ => s.modPages (q.sameBlock ·) fun r => { r with migrating := false, dest := none })
    | none => s) s
  let s := (s.modPages on fun p => { p with poison := true, lost := true }).modMem fun m =>
    { m with peerRoom := vmod m.peerRoom w fun _ => 0, owed := vmod m.owed w fun _ => 0 }
  hit.foldl (fun s p => s.resumeMigrated p.ctx p) s

/-- The next page of some that lie on a peer, in the order of R191 over every context, pinned ones last. -/
def nextOn (s : State) (l : List Page) : Option Page :=
  let key (p : Page) : Nat × Nat := (((s.effHint p).group).getD 4, p.named)
  l.foldl (fun best p => match best with
    | none => some p
    | some q => if (key p).1 < (key q).1 ∨ ((key p).1 = (key q).1 ∧ (key p).2 < (key q).2) then some p else some q) none

/-- Pages on a peer that reclaims frames start to move away (R213): unpinned pages as R191 demotes them, PIN_T3 pages to another peer
with room; a pinned page that finds none stays. -/
def State.leavePeer (s : State) (w : Fin 9) (frames : Nat) (stay : List Page) : Nat → State
  | 0 => s
  | k + 1 =>
    let l := s.memUnit.pages.filter fun p => decide (p.tier = .t3) && !p.zero && decide (p.peer = w) && !p.lost && !p.migrating &&
      !(s.blockOf p).any (fun q => q.touches (s.busyRanges p.ctx)) && !stay.any fun q => p.sameBlock q
    match (if frames = 0 then none else nextOn s l) with
    | none => s
    | some p =>
      let other := s.peerFor p.frames
      let t4 := s.roomT4 p.ctx (s.t4Adds p)
      let h := s.effHint p
      let dest : Option (Tier × Fin 9) :=
        if h = .pinT3 then other.map fun v => (.t3, v)
        else if h = .preferT4 ∧ t4 then some (.t4, 0)
        else match other with
          | some v => some (.t3, v)
          | none => if t4 then some (.t4, 0) else none
      match dest with
      | some (t, v) => (s.startCopy p t v).leavePeer w (frames - p.frames) stay k
      | none => s.leavePeer w frames (p :: stay) k

/-- RECLAIM: a peer wants frames of its lend pool back. -/
def State.reclaim (s : State) (w : Fin 9) (frames : Nat) : State :=
  (s.modMem fun m => { m with peerRoom := vmod m.peerRoom w fun _ => 0, owed := vmod m.owed w fun _ => frames }).leavePeer w frames []
    s.memUnit.pages.length

end Sys2Proof.Machine
end

