-- ==== Sys2Proof/Machine/Contexts.lean ====
section
/-! DEFINITION. CTX: creating, fencing and tearing down contexts (chapter 10). -/
namespace Sys2Proof.Machine

/-! ### Ending many commands at once -/

/-- Commands end together, in a given order, each with its own phase, status and DETAIL: none of them waits on another
any more. What depends on them then ends under R274. -/
def State.endAll (s : State) (cs : List Cmd) (f : Cmd → Phase × W16 × W64) : State :=
  let ids := cs.map (·.cid)
  let n := s.sched.cmds.length
  let s := s.modSched fun g => { g with
    cmds := g.cmds.map fun c => if ids.contains c.cid then { c with preds := [], fenceWait := false, bad := none } else c }
  let s := cs.foldl (fun s c => match s.cmd? c.cid with
    | none => s
    | some d =>
      let (ph, st, det) := f d
      (s.modSched fun g => { g with runs := g.runs.filter fun r => r.cid != d.cid }).endBoth d ph st det none) s
  ((s.endDoomed n).endRuns.endDoomed n).readyAll

/-- A command that units are running. -/
def Cmd.running (c : Cmd) : Bool := c.state == .issued || c.state == .committing

/-- A killable command: kinds K and E with FIXED 0 (R277). -/
def Cmd.isKillable (c : Cmd) : Bool := !c.fixed && kindOf (opCode c.op) != .c

/-- Phase of a command that a failure ends: KILLED, or PARTIAL for a FIXED command that runs. -/
def Cmd.endPhase (c : Cmd) : Phase := if c.fixed && c.running then .partialEnd else .killed

/-! ### CTX_CREATE (R248) -/

/-- The default recipe table (R54). -/
def defaultRecipes : List Recipe :=
  let act : Recipe := { format := 3, initExp := 0, headroom := 1, skipStep := false, histLen := 16 }
  [act, act, { format := 4, initExp := 0, headroom := 2, skipStep := true, histLen := 16 }] ++ List.replicate 13 act

/-- The context CTX_CREATE makes: the named one, or for 0xFF the lowest FREE one out of quarantine. -/
def State.freeCtx? (s : State) (ctx : Byte) : Option CtxId :=
  let free (c : CtxId) : Bool := decide (c ≠ 0) && (s.ctx c).state == .free && decide ((s.ctx c).quar = 0)
  if ctx = 0xFF then allCtx.find? free
  else if ctxField ctx && free (ctxOf ctx) then some (ctxOf ctx) else none

/-- Semaphore ranges of live contexts do not meet a range. -/
def State.semFree (s : State) (base n : Nat) : Bool :=
  allCtx.all fun c => (s.ctx c).state == .free || !overlaps (s.ctx c).semBase (s.ctx c).semCount base n

def State.checkCreate (s : State) (ctx classes : Byte) (base n : W16) (tenant : W64) : Checked :=
  checks [((s.freeCtx? ctx).isSome, if ctx = 0xFF then stQuota else stBounds),
    (decide (classes ≠ 0 ∧ classes.toNat < 16), stBounds),
    (decide (base.toNat < 4096 ∧ n.toNat ≤ 4096 ∧ base.toNat + n.toNat ≤ 4096) && s.semFree base.toNat n.toNat, stBounds),
    (decide (tenant ≠ 0), stBounds)]

def State.startCreate (s : State) (ctx classes : Byte) (base n : W16) (tenant seed : W64) : Started :=
  match s.freeCtx? ctx with
  | none => doneBad s (if ctx = 0xFF then stQuota else stBounds)
  | some c =>
    let g := (s.ctx c).gen
    let new := s.modCtx c fun x =>
      { gen := x.gen, state := .active, classes := BitVec.ofNat 4 classes.toNat, semBase := base.toNat, semCount := n.toNat, tenant, seed,
        forced := x.forced, key := true, keyDraw := s.free, recipes := defaultRecipes }
    let new := { new with free := new.free + 1 }
    let new := new.modSched fun q => { q with sems := q.sems.filter fun e => !(decide (base.toNat ≤ e.1.val) && decide (e.1.val < base.toNat + n.toNat)) }
    s.growFw new (BitVec.ofNat 64 (c.val + 256 * g.toNat))

/-! ### Fences (R256) -/

def State.checkFence (s : State) (ctx mode : Byte) : Checked :=
  checks [(ctxField ctx && decide (mode.toNat ≤ 1), stBounds), (decide (ctxOf ctx ≠ 0), stPerm), (s.live (ctxOf ctx), stCtxDead)]

/-- A CTX_FENCE, or a CTX_DESTROY, that names a context: in its own context it does not wait for itself, nor end with the rest. -/
def Cmd.stops (x : Cmd) (c : CtxId) : Bool :=
  match x.op with
  | .ctxFence k _ => decide (ctxOf k = c)
  | .ctxDestroy k => decide (ctxOf k = c)
  | _ => false

/-- Commands of a context that units run. -/
def State.runningIn (s : State) (c : CtxId) : List Cmd := (s.cmdsOf c).filter fun x => x.running && !x.stops c

/-- Fence a context: what is not issued ends, with HALT the issued killable commands too. -/
def State.fenceCtx (s : State) (c : CtxId) (halt : Bool) : State :=
  let s := s.modCtx c fun x => { x with state := .fenced }
  s.endAll ((s.cmdsOf c).filter fun x => !x.running || (halt && x.isKillable)) fun _ => (.killed, stCtxFenced, 0)

def State.startFence (s : State) (ctx mode : Byte) : Started :=
  let c := ctxOf ctx
  let s := s.fenceCtx c (mode == 1)
  if (s.runningIn c).isEmpty then doneOk s else (s, none)

/-- CTX_FENCE commands that wait for a context. -/
def State.waitingFences (s : State) (c : CtxId) : List Cmd :=
  s.sched.cmds.filter fun x => x.running && (match x.op with
    | .ctxFence k _ => decide (ctxOf k = c)
    | _ => false)

/-- FENCE_COMPLETE (R256): no command of the fenced context is issued any more. -/
def execFenceComplete (ctx : CtxId) (s : State) : Host.Outcome State Fault Refusal :=
  .next (State.placeAll (if (s.ctx ctx).state = .fenced ∧ (s.runningIn ctx).isEmpty then
      (s.waitingFences ctx).foldl (fun s c => s.endCmd c .committed stOk 0) s
    else s))

def State.checkUnfence (s : State) (ctx : Byte) : Checked :=
  checks [(ctxField ctx, stBounds), (s.live (ctxOf ctx), stCtxDead)]

/-- CTX_UNFENCE: a waiting CTX_FENCE ends KILLED, what it did stands. -/
def State.startUnfence (s : State) (ctx : Byte) : Started :=
  let c := ctxOf ctx
  let s := (s.waitingFences c).foldl (fun s x => s.endCmd x .killed stKilled 0) s
  doneOk (s.modCtx c fun x => { x with state := .active })

/-! ### Teardown (R257-R261) -/

/-- The generation after another: 1 to 255, then 1 (R246). -/
def nextGen (g : Byte) : Byte := if g = 255 then 1 else g + 1
/-- The generation before another. -/
def prevGen (g : Byte) : Byte := if g = 1 then 255 else g - 1

def State.checkDestroy (s : State) (ctx : Byte) : Checked :=
  checks [(ctxField ctx, stBounds), (decide (ctxOf ctx ≠ 0), stPerm), (s.live (ctxOf ctx), stCtxDead)]

/-- FENCING: the generation moves on, and every command of the context ends with ST_CTX_DEAD; a CTX_FENCE that waits for
the context ends so too (R263). -/
def State.enterFencing (s : State) (c : CtxId) : State :=
  let cs := (s.cmdsOf c).filter fun x => !(x.running && x.stops c)
  let part := (cs.filter fun x => x.endPhase = .partialEnd).length
  let s := s.modCtx c fun x =>
    { x with state := .fencing, gen := nextGen x.gen, endedKilled := cs.length - part, endedPartial := part }
  let s := s.endAll cs fun x => (x.endPhase, stCtxDead, 0)
  (s.waitingFences c).foldl (fun s x => s.endCmd x .killed stCtxDead 0) s

def State.startDestroy (s : State) (ctx : Byte) : Started := (s.enterFencing (ctxOf ctx), none)

/-- TEARDOWN_FENCING_DONE (R257): DRAINING, with a notice on every link that is up. -/
def State.fencingDone (s : State) (c : CtxId) : State :=
  if (s.ctx c).state ≠ .fencing then s
  else
    let ls := s.upLinks
    let old := prevGen (s.ctx c).gen
    let s := s.modCtx c fun x => { x with state := .draining, drainTick := s.tick.now, awaitAck := ls }
    ls.foldl (fun s l => s.sendOn l ptTeardown 0 (s.link l).nbrIdent c old 0 [BitVec.ofNat 8 c.val, old] 0) s

def execTeardownFencingDone (ctx : CtxId) (s : State) : Host.Outcome State Fault Refusal := .next (State.placeAll (s.fencingDone ctx))

/-- Packets that commands of a context sent under a generation and that wait in FAB. -/
def Held.ownedBy (h : Held) (c : CtxId) (g : Byte) : Bool := h.own == some (c, g)

/-- What is outstanding under the generation before the context's own (R257): teardown notices that await their acknowledgment, granules
in flight, packets that wait for a link. -/
def State.underOld (s : State) (c : CtxId) : Nat :=
  let g := prevGen (s.ctx c).gen
  (s.ctx c).awaitAck.length + (s.slices.toList.map fun (x : Slice) => (x.late.filter fun l => decide (l.ctx = c) && l.gen == g).length).sum +
    (s.fab.held.filter fun h => h.ownedBy c g).length

/-- GLB_CTX_OUT (R257). -/
def State.ctxOut (s : State) (c : CtxId) : Nat := if (s.ctx c).state = .draining then s.underOld c else 0

/-- DRAINING ends (R257). What remains is discarded: packets that wait for a link, with the notices among them. -/
def State.enterScrubbing (s : State) (c : CtxId) (forced : Bool) : State :=
  let g := prevGen (s.ctx c).gen
  let s := if forced then { s with fab := { s.fab with held := s.fab.held.filter fun h =>
      !(h.ownedBy c g || (h.typ == ptTeardown && h.from?.isNone && decide (h.ctx = c) && h.gen == g)) } } else s
  s.modCtx c fun x => { x with state := .scrubbing, forced, awaitAck := [] }

/-- TEARDOWN_DRAIN_DONE (R257): nothing is outstanding, no notice among it. -/
def execTeardownDrainDone (ctx : CtxId) (s : State) : Host.Outcome State Fault Refusal :=
  .next (if (s.ctx ctx).state = .draining ∧ s.underOld ctx = 0 then s.enterScrubbing ctx false else s)

/-- TEARDOWN_FORCED_DROP (R257): at the fourth tick what remains is discarded; with the counters at zero the drain ends
normally (R263). -/
def execTeardownForcedDrop (ctx : CtxId) (s : State) : Host.Outcome State Fault Refusal :=
  .next (if (s.ctx ctx).state = .draining ∧ (s.ctx ctx).drainTick + 4 ≤ s.tick.now then
      s.enterScrubbing ctx (decide (s.underOld ctx ≠ 0))
    else s)

/-- Everything the context held is cleared (R257 step 3): banks, pages and faults, weight slots, queues it owned, the serving instances it served with their sessions (R498), semaphores,
records, resident graphs, the ring histories' entries and the key. -/
def State.scrubCtx (s : State) (c : CtxId) : State :=
  let s := { s with slices := s.slices.map fun (x : Slice) => { x with banks := x.banks.map fun (b : Bank) =>
      if b.state == BankState.visible && (b.owner.elim false fun o => decide (o.1 = c)) then b.release else b } }
  let served (k : Fin 16) : Bool := match s.serve.insts[k] with
    | some i => decide (i.ctx = c)
    | none => false
  let s := { s with serve := { s.serve with
    queues := s.serve.queues.map fun (q : FeQueue) => if q.ctx == some c then {} else q
    sessions := s.serve.sessions.filter fun z => !served z.svc
    reqs := s.serve.reqs.filter fun r => !served r.svc
    insts := s.serve.insts.map fun (i : Option Instance) => if i.any (fun (x : Instance) => decide (x.ctx = c)) then none else i } }
  let s := s.freePages c fun _ => true
  let s := s.setMem (memClear s.mem (ctxKey c windowBase) (2 ^ 30))
  let lo := (s.ctx c).semBase
  let n := (s.ctx c).semCount
  let frames := (s.sched.graphs.filter fun g => decide (g.ctx = c)).foldl (fun k g => k + g.frames) 0
  let s := s.modMem fun m => { m with faults := m.faults.filter fun f => decide (f.ctx ≠ c), fwGraphs := m.fwGraphs - frames }
  let s := s.modSched fun g => { g with
    sems := g.sems.filter fun e => !(decide (lo ≤ e.1.val) && decide (e.1.val < lo + n))
    graphs := g.graphs.filter fun x => decide (x.ctx ≠ c) }
  let s := { s with rings := s.rings.map fun (r : Ring) => { r with hist := r.hist.filter fun h => decide (h.ctx ≠ c) } }
  let s := s.modRas fun a => { a with invalid := a.invalid.filter fun x => decide (x.1 ≠ c) }
  let s := s.dropEarly fun e => decide (e.ctx = c)
  let s := { s with cle := { s.cle with earlyScalars := s.cle.earlyScalars.filter (fun e => decide (e.ctx ≠ c))
                                        aborts := s.cle.aborts.filter fun a => decide (a.1.1 ≠ c) } }
  s.modPv c fun _ => {}

/-- TEARDOWN_SCRUB_DONE (R257, R260, R261): FREE, with a quarantine of 64 ticks after a forced drop. -/
def State.scrubDone (s : State) (c : CtxId) : State :=
  if (s.ctx c).state ≠ .scrubbing then s
  else
    let x := s.ctx c
    let before := s.memUnit.scrub
    let s := s.scrubCtx c
    let frames := s.memUnit.scrub - before
    let s := s.modCtx c fun y => { state := .free, gen := y.gen, forced := y.forced, quar := if y.forced then 64 else 0 }
    let s := s.modMir c fun m => { guardSeal := m.guardSeal, guardNow := m.guardNow }
    let s := { s with mir := { s.mir with held := s.mir.held.filter fun h => !(h.parity && decide (h.ctx = c)) }
                      jobs := s.jobs.filter fun j => decide (j.ctx ≠ c), jobChanges := s.jobChanges.filter fun j => decide (j.ctx ≠ c)
                      cle := { s.cle with jobTables := s.cle.jobTables.filter fun t => decide (t.1 ≠ c) } }
    let detail := BitVec.ofNat 64 (bitAt x.forced 63 + min x.endedKilled 0xFFFF * 2 ^ 40 + min x.endedPartial 255 * 2 ^ 32 + frames % 2 ^ 20)
    (s.sched.cmds.filter fun k => k.running && (match k.op with
      | .ctxDestroy b => decide (ctxOf b = c)
      | _ => false)).foldl (fun s k => s.endCmd k .committed stOk detail) s

def execTeardownScrubDone (ctx : CtxId) (s : State) : Host.Outcome State Fault Refusal := .next (State.placeAll (s.scrubDone ctx))

/-- QUARANTINE_END (R260): the 64 ticks, which TICK counts down, have passed. -/
def execQuarantineEnd (ctx : CtxId) (s : State) : Host.Outcome State Fault Refusal :=
  .next (if (s.ctx ctx).state = .free ∧ (s.ctx ctx).quar ≤ 1 then s.modCtx ctx fun x => { x with quar := 0 } else s)

end Sys2Proof.Machine
end

