-- ==== Sys2Proof/Machine/Slices.lean ====
section
/-! DEFINITION. RAS: fingerprints, retirement of slices, the decision to reset the device (R13-R16, R101, R422, R423, R442). -/
namespace Sys2Proof.Machine

/-! ### The slice map (R12-R16) -/

/-- Physical slot of a logical engine. -/
def State.slotOfEng (s : State) (e : EngineId) : SlotId := s.ras.map[e]

/-- Physical slot on which a command's work for an engine runs (R16). -/
def State.slotFor (s : State) (c : Cmd) (e : EngineId) : SlotId := ((c.onSlots.find? fun x => x.1 == e).map (·.2)).getD (s.slotOfEng e)

/-- Physical octave of a slot. -/
def octOf (p : SlotId) : Nat := p.val / 9

/-- The healthy slots of an octave that serve no logical engine: its reserve. -/
def Ras.reserveOf (a : Ras) (o : Nat) : Option SlotId :=
  (List.finRange 72).find? fun p => decide (octOf p = o) && (a.slots[p]).healthy && !a.map.toList.contains p

/-- The reserve a logical engine moves to: of its own octave, else of the lowest-numbered other octave with one. -/
def Ras.reserveFor (a : Ras) (o : Nat) : Option SlotId :=
  match a.reserveOf o with
  | some p => some p
  | none => (List.range 8).findSome? fun k => if k = o then none else a.reserveOf k

/-! ### Fingerprints (R422) -/

/-- COND: load condition, POWER in effect, CAPPED. -/
def State.condByte (s : State) (load : Nat) : Byte :=
  BitVec.ofNat 8 (load % 4 + 4 * s.mode.powerNow.val + bitAt s.mode.capped 4)

/-- The 16 bytes of a fingerprint. -/
def Finger.bytes (f : Finger) : List Byte :=
  le 4 f.tick ++ [BitVec.ofNat 8 f.slot.val, f.pattern, f.cond, f.temp] ++ le 2 f.vcore.toNat ++
    [BitVec.ofNat 8 f.result.val, 0] ++ le 4 f.chunk.toNat

/-! ### Device reset (R442) -/

def trigBudget : Byte := 1
def trigWatchdog : Byte := 2
def trigResetFailed : Byte := 3
def trigExternal : Byte := 4
def trigInjected : Byte := 5
def trigCorePing : Byte := 6
def trigReserve : Byte := 7

/-- RAS decides a device reset: heartbeats stop, every context is fenced with HALT, and a device record is to be captured;
the reset is asserted when the capture ends. -/
def State.deviceReset (s : State) (trigger : Byte) (unit : W16) (c : Option CtxId) (root : Option W16) : State :=
  if s.ras.resetting then s
  else
    let s := s.raise evDeviceReset unit c root
    let id := (root.bind s.ras.incident?).elim (0 : W32) (·.id)
    let s := s.modRas fun a => { a with resetting := true }
    let s := allCtx.foldl (fun s k => if s.live k then s.fenceCtx k true else s) s
    s.modRas fun a =>
      { a with capturing := a.capturing ++ [{ trigger, unit, ctx := c.map fun k => (k, (s.ctx k).gen), root := id, tick := s.tick.now,
                                              resets := true }] }

/-! ### Retirement (R16, R423) -/

/-- Issued killable commands of an engine are killed and rerun on the new slot; a FIXED command runs to its end on the slot it is on
(R16). -/
def State.moveWork (s : State) (e : EngineId) : State :=
  let s := ((s.issuedOn e).filter fun c => c.fixed).foldl (fun s c =>
    s.modCmd c.cid fun d => { d with onSlots := if d.onSlots.any (fun x => x.1 == e) then d.onSlots else (e, s.slotOfEng e) :: d.onSlots }) s
  ((s.issuedOn e).filter fun c => !c.fixed && c.state == .issued).foldl (fun s c => s.rollback c) s

/-- Retire a slice: the ledger takes it, its work moves, and its logical engine goes to a reserve. Without one the device
is reset. -/
def State.retireSlice (s : State) (p : SlotId) (cause : W16) (data : List Byte) : State :=
  if !(s.ras.slots[p]).healthy then s
  else
    let s := s.modRas fun a => { a with slots := vmod a.slots p fun x => { x with healthy := false } }
    let s := (s.retirePart 0 (BitVec.ofNat 16 p.val) cause data).raiseRoot evSliceRetired (unitSlice p)
    match (List.finRange 64).find? fun e => decide (s.slotOfEng e = p) with
    | none => s
    | some e =>
      let s := s.moveWork e
      match s.ras.reserveFor (octOf p) with
      | some q => (s.modRas fun a => { a with map := vmod a.map e fun _ => q }).modSlice e fun x => { x with flips := 0, hung := false }
      | none => s.deviceReset trigReserve (unitSlice p) none (some (unitSlice p))

/-- CAUSE of a ledger record of a mismatch: bit 15 marks an injected one (R450). -/
def mismatchCause (injected : Bool) : W16 := if injected then 0x8000 else 0

/-- RAS records a mismatch against a slot (R101, R422): one that recurs, or the second within 24 h, retires the slice;
injected ones do not count. -/
def State.noteMismatch (s : State) (f : Finger) (repro injected : Bool) (c : Option CtxId) : State :=
  let p := f.slot
  let s := (s.count offMismatch 0 1).ledgerAdd 1 2 (BitVec.ofNat 16 p.val) (mismatchCause injected) f.bytes
  let s := if f.pattern = 0 then s.raiseRoot evCheckMismatch (unitSlice p) c else s
  if injected then s
  else
    let s := s.modRas fun a => { a with slots := vmod a.slots p fun x => { x with recent := s.within dayUs x.recent } }
    if repro || decide (2 ≤ (s.ras.slots[p]).recent.length) then s.retireSlice p 0 f.bytes else s

end Sys2Proof.Machine
end

