-- ==== Sys2Proof/Machine/Issue.lean ====
section
/-! DEFINITION. Kernel commands at issue, tile by tile, at commit: records, staging, overflow and replay, mismatches, landing
of FIXED work (R43, R57, R59, R99-R107, R127-R133, R137, R212, R314, R315). -/
namespace Sys2Proof.Machine

/-! ### Scale records at issue (R127, R129, R130) -/

/-- Scaled outputs of a command with their slots. -/
def Cmd.scaledOuts (c : Cmd) : List (TenD × Nat) :=
  (outputsOf c).filterMap fun k => (c.ten? k).bind fun t => t.slot?.map fun j => (t, j)

/-- A STEP_FENCE of the context has committed. -/
def Ctx.closedFence (x : Ctx) : Bool := x.fenceEnds.any fun e => e.2.2.1

/-- A record takes the step of a conversion that comes above its own (R130). -/
def Ctx.aligns (x : Ctx) (k : Nat) : Bool := !x.closedFence && (x.scale k).hcount == 0

/-- A conversion waits in GSC until its record has reached its step (R129). -/
def State.recordWaits (s : State) (c : Cmd) : Bool :=
  c.scaledOuts.any fun p => decide (((s.ctx c.ctx).scale p.2).step.toNat < c.kb.step.toNat) && !(s.ctx c.ctx).aligns p.2

/-- Exponent that a record with no history of data takes from its recipe (R55, R127). -/
def Ctx.initExp (x : Ctx) (kind : Nat) : Int := ((x.recipes[kind]? : Option Recipe).map (·.initExp)).getD 0

/-- The conversion names its record: KIND, TID and EXP at the first naming, STEP where it aligns. -/
def Ctx.nameRecord (x : Ctx) (t : TenD) (k : Nat) (step : W32) : Ctx :=
  let r := x.scale k
  let named := x.scales.any fun e => e.1 == k
  let st := if x.aligns k ∧ r.step.toNat < step.toNat then step else r.step
  let r := if named then { r with step := st }
    else { r with kind := t.kind.val, tid := t.tid, step := st, exp := if r.seen then r.exp else x.initExp t.kind.val }
  { x with scales := assocSet x.scales k r }

def State.nameRecords (s : State) (c : Cmd) : State :=
  s.modCtx c.ctx fun x => c.scaledOuts.foldl (fun x p => x.nameRecord p.1 p.2 c.kb.step) x

/-! ### Overflow (R57, R131, R133) -/

def State.recipeOf (s : State) (c : CtxId) (kind : Nat) : Recipe :=
  ((s.ctx c).recipes[kind]? : Option Recipe).getD { format := 3, initExp := 0, headroom := 1, skipStep := false, histLen := 16 }

/-- The tensor's overflow action is REPLAY. -/
def State.replays (s : State) (c : Cmd) (ten : Nat) : Bool :=
  match c.ten? ten with
  | some t => !(s.recipeOf c.ctx t.kind.val).skipStep
  | none => false

/-- Smallest delta with tile_amax × 2^HEADROOM ≤ MAXF × 2^(E + d); 16 stands for any larger one. -/
def State.newDelta (s : State) (c : Cmd) (ten : Nat) (a : Rat) : Nat :=
  match c.ten? ten with
  | none => 0
  | some t =>
    let e := (s.scaling c t).exp
    let h := (s.recipeOf c.ctx t.kind.val).headroom
    ((List.range 16).find? fun (d : Nat) => decide (a * pow2 h ≤ (fmtOf t.fmt.val).maxF * pow2 (e + d))).getD 16

/-- The overflows of an attempt as replays: tensor, slot, tile, delta. None where a tile would need d > 15 or E + d > 127. -/
def State.replayDeltas (s : State) (c : Cmd) (spill : List (Nat × Nat × Rat)) : Option (List (Nat × Nat × Nat × Int)) :=
  (spill.filter fun x => s.replays c x.1).mapM fun x =>
    match c.ten? x.1 with
    | none => none
    | some t =>
      let d := s.newDelta c x.1 x.2.2
      if 15 < d ∨ 127 < (s.scaling c t).exp + d then none else some (x.1, (t.slot?.getD 0), x.2.1, (d : Int))

/-- Stage outputs of a killable command after cells it has staged before: overflows ask for a replay, or skip the step. -/
def State.stageVals (s : State) (cid : Nat) (keep : List Host.Cell) (l : List OutVals) : State :=
  match s.cmd? cid with
  | none => s
  | some c =>
    let (s, k) := s.landAll c l
    let s := s.stageLst c k.lst
    let skips := k.spill.any fun x => !s.replays c x.1
    let s := s.modCmd cid fun d => { d with staged := keep ++ k.cells, amax := k.amax, nans := k.nans, skip := skips, lstOut := c.outHandles }
    if c.rescaled then s
    else
      match s.replayDeltas c k.spill with
      | none => s.modCmd cid fun d => { d with skip := true }
      | some [] => s
      | some l => s.modCmd cid fun d =>
          { d with deltas := l.map fun x => (x.2.1, x.2.2.1, x.2.2.2)
                   replays := (l.map (·.1)).eraseDups.map fun t => (t, (l.filter fun x => x.1 == t).length) }

/-- Compute and stage a killable kernel command from its operands. -/
def State.stageKernel (s : State) (cid : Nat) : State :=
  match s.cmd? cid with
  | none => s
  | some c =>
    if opIsOpt c.op && c.detail == 1 then s
    else s.stageVals cid [] (s.kernelVals c.operands c)

/-- A conversion carries a step below its record's (R129). -/
def State.recordPassed (s : State) (c : Cmd) : Bool :=
  c.scaledOuts.any fun p => decide (c.kb.step.toNat < ((s.ctx c.ctx).scale p.2).step.toNat)

/-- The programs of a command end without fetching: a skipped update reads no tensor (R122). -/
def State.dropFetches (s : State) (c : Cmd) : State :=
  c.kb.engs.foldl (fun s d => s.modSlice d.eng fun (x : Slice) =>
    { x with progs := x.progs.map fun (p : Prog) => if p.cid = c.cid then { p with wait := .ended, todo := [] } else p }) s

/-- A kernel command on slices starts: its conversions name their records, and one whose step its record has passed fails; an update
reads γ and the step-skip flag (R120, R122); a killable command reads its operands as they are visible now. -/
def State.startKernel (s : State) (cid : Nat) : State :=
  match s.cmd? cid with
  | none => s
  | some c =>
    if s.recordPassed c then s.failCid cid stBounds 0
    else if opIsOpt c.op && (s.ctx c.ctx).skip.contains c.kb.step then (s.dropFetches c).modCmd cid fun d => { d with detail := 1 }
    else
      let s := s.nameRecords c
      let extra := if opIsOpt c.op then [s.readGamma c] else []
      if c.fixed then s.modCmd cid fun d => { d with operands := extra }
      else (s.modCmd cid fun d => { d with operands := extra ++ s.gatherOps c }).stageKernel cid

/-- DETAIL of ST_RESCALED (R59). It has room for one tensor: of several that were rescaled it names the first in the tensor table,
which the manual does not say. DESIGN CHOICE. -/
def State.rescaleDetail (s : State) (c : Cmd) : W64 :=
  match c.kb.tens.find? fun t => c.deltas.any fun d => t.slot? == some d.1 with
  | none => 0
  | some t =>
    let ds := c.deltas.filter fun d => t.slot? == some d.1 && d.2.2 != 0
    let e := (s.scaling c t).exp
    BitVec.ofNat 64 (t.tid.toNat * 2 ^ 32 + min ds.length 65535 * 2 ^ 16 + (ds.foldl (fun m d => max m d.2.2.toNat) 0) % 256 * 256 +
      (BitVec.ofInt 8 e).toNat)

/-! ### End of an attempt -/

/-- A pending fault of a command. -/
def State.faulted (s : State) (cid : Nat) : Bool := s.memUnit.faults.any fun f => f.cid == cid

/-- Tiles of a command that no attempt has dealt with. -/
def Cmd.tilesLeft (c : Cmd) : List Nat :=
  if c.isMatmul then (List.range c.mat.tiles).filter fun t => !c.done.contains t && !c.badTiles.contains t && !c.failedTiles.contains t else []

/-- The work of a command's attempt has come to its end. -/
def State.workDone (s : State) (c : Cmd) : Bool := s.progsEnded c.cid && !s.faulted c.cid && c.tilesLeft.isEmpty

/-- Pages into which a command has staged writes. -/
def State.stagedPages (s : State) (c : Cmd) : List Page :=
  s.memUnit.pages.filter fun p => decide (p.ctx = c.ctx) && c.staged.any fun x => decide (p.va ≤ x.1) && decide (x.1 < p.va + p.size.bytes)

/-- A merge would read an uncorrectable line: a page whose data is lost is not written whole (R212). -/
def State.mergeBad (s : State) (c : Cmd) : Bool :=
  (s.stagedPages c).any fun p => (p.poison || p.lost) && !p.whole c.staged

/-- Commands issued before a commit that name a page: they keep the frame it replaces (R200). -/
def State.readersOf (s : State) (c : Cmd) (p : Page) : List Cmd :=
  (s.cmdsOf c.ctx).filter fun d => d.cid != c.cid && (d.state == .issued || d.state == .committing) && p.touches d.bufRanges

/-- A commit remaps a page to its shadow frame (R200): the frame replaced waits for its earlier readers, which go on seeing its bytes,
and its lines leave the cache of the base tiles. A page in a lend pool keeps its place there. -/
def State.remapPage (s : State) (c : Cmd) (p : Page) : State :=
  let rs := s.readersOf c p
  let old := c.staged.filterMap fun x => if p.va ≤ x.1 ∧ x.1 < p.va + p.size.bytes then some (x.1, s.ctxByte c.ctx x.1) else none
  let s := rs.foldl (fun s d => s.modCmd d.cid fun e => { e with frozen := e.frozen ++ old.filter fun x => !e.frozen.any fun y => y.1 == x.1 }) s
  if p.tier ≠ .t2 ∨ p.zero then s
  else
    let s := s.modMem fun m =>
      { m.t1Drop p.holdsLine with held := if rs.isEmpty then m.held
          else m.held ++ [{ ctx := c.ctx, frame := p.frame, units := p.size.units, readers := rs.map (·.cid) }] }
    let f := s.memUnit.firstFree p.frames 0 s.memUnit.tries
    s.modPages (fun q => decide (q.ctx = p.ctx) && decide (q.va = p.va)) fun q => { q with frame := f }

/-- The effects of a commit (R314 step 3). -/
def State.applyCommit (s : State) (c : Cmd) : State :=
  let s := (s.stagedPages c).foldl (fun s p => s.remapPage c p) s
  let s := (s.writeCells c.ctx c.staged).clearPoison c.ctx c.staged
  let s := (s.flipBanks c).mergeRecords c c.amax [] c.nans c.skip
  c.semAdds.foldl (fun s a => s.addSem c.ctx a.1 a.2.1) s

/-- Status and DETAIL of a commit. -/
def State.commitStatus (s : State) (c : Cmd) : W16 × W64 :=
  if c.rescaled then (stRescaled, s.rescaleDetail c) else (stOk, c.detail)

/-- A killable kernel command on slices commits. -/
def State.commitKernel (s : State) (c : Cmd) (used : Nat) : State :=
  if s.workDone c && c.replays.isEmpty && !c.mismatch then
    let (st, d) := s.commitStatus c
    if s.mergeBad c then s.endCmd c .killed stUncorrectable 0 (some used) else (s.applyCommit c).endCmd c .committed st d (some used)
  else s

/-- REPLAY_ISSUE (R131): the attempt that overflowed has done its work; the command runs again from its first instruction
with the new deltas. The first attempt's time is charged, and its fetches are waste (R132, R153). -/
def State.replayIssue (s : State) (cid ten : Nat) : State :=
  match s.cmd? cid with
  | none => s
  | some c =>
    if c.state = .issued ∧ !c.fixed ∧ s.workDone c ∧ c.replays.any (fun r => r.1 == ten) then
      let clock := Config.freeNat s.free
      let s := { s with free := s.free + 1 }
      let s := c.kb.engs.foldl (fun s d =>
        let w := (s.slice d.eng).unread cid
        let s := if w = 0 then s else s.count offWaste d.eng.val w
        s.modSlice d.eng fun (x : Slice) =>
          { x with tiles := x.tiles.filter (fun t => t.1 != cid)
                   progs := x.progs.map fun (p : Prog) => if p.cid = cid then { p.leave with cid, rel := p.rel, image := p.image, ahead := [], wait := .running } else p }) s
      let s := s.modCmd cid fun d =>
        { d with rescaled := true, replays := [], done := [], issuing := false, charge := d.charge + clock, staged := [], amax := [], nans := [],
                 skip := false, semAdds := [], mcasts := [], recvs := [] }
      s.stageKernel cid
    else s

/-! ### FIXED work lands (R57, R315) -/

/-- Elements of an output that may be converted: all of a scalar format, those of whole blocks of a block format (R123: FRU holds a
block until all its elements are present). -/
def TenD.whole? (t : TenD) (have_ : List (Nat × Two)) : List (Nat × Two) × List (Nat × Two) :=
  if isBlock t.fmt.val then
    let got := sparse t.count have_
    let full := (List.range (unitsOf t.fmt.val t.rows t.cols)).filter fun u =>
      (unitElems t.fmt.val t.rows t.cols u).all fun n => (got.getD n none).isSome
    have_.partition fun x => full.contains (unitOf t.fmt.val t.cols x.1).1
  else (have_, [])

/-- One tile of a FIXED MATMUL lands: its operands are read now. Elements of a block that other tiles complete wait in FRU. -/
def State.landTile (s : State) (cid t : Nat) : State :=
  match s.cmd? cid with
  | none => s
  | some c => match c.ten? (c.opb 0x15) with
    | none => s
    | some o =>
      let (now, later) := o.whole? (c.parts ++ s.matTile (s.gatherOps c) c t)
      let s := s.modCmd cid fun d => { d with parts := later }
      s.landFixed c [{ ten := c.opb 0x15, vals := sparse o.count now }]

/-- FIXED_COMMAND_END of a command on slices: the last effects land, and its reply is written. A tile that mismatched twice
leaves it PARTIAL (R102). -/
def State.endFixedKernel (s : State) (c : Cmd) (used : Nat) : State :=
  if s.workDone c && c.badTiles.isEmpty then
    let opt := opIsOpt c.op && c.detail == 1
    let s := if c.isMatmul || opt then s else s.landFixed c (s.kernelVals (s.gatherOps c) c)
    let s := c.semAdds.foldl (fun s a => s.addSem c.ctx a.1 a.2.1) (s.flipBanks c)
    if c.failedTiles.isEmpty then s.endCmd c .committed stOk (if opt then 1 else 0) (some used)
    else s.endCmd c .partialEnd stCheckMismatch c.detail (some used)
  else s

/-! ### Tiles (R87, R90, R99-R107) -/

/-- The tile is checked (R100). -/
def Cmd.checked (c : Cmd) (t : Nat) : Bool :=
  match c.check with
  | 0 => true
  | 1 => t % 16 == (c.seq.toNat + c.node) % 16
  | _ => false

/-- Accumulator entries of a tile. -/
def Cmd.footprint (c : Cmd) : Nat := c.mat.mb * c.mat.nb * (1 + c.opb 3)

/-- Chunk steps of a tile. -/
def Cmd.tileChunks (c : Cmd) : Nat := c.mat.mb * c.mat.nb * (c.mat.segs.map fun g => ceilDiv (c.mat.ks g).length 32).sum

/-- The next tile of a command has its operands in LST: the buffer that each input's rotation comes to is FULL, or its program has
ended (R105, R144). -/
def State.operandsIn (s : State) (c : Cmd) (e : EngineId) : Bool :=
  (inputsOf c).all fun k => match c.ten? k with
    | none => true
    | some t => decide (t.prog = 0xFF) || (s.slice e).progs.toList.any fun p =>
        p.cid == c.cid && p.rel == t.prog.toNat && (p.wait == .ended || (p.bufs[p.nextBuf t]).full)

/-- Commands whose tiles an engine may start, if their operands are in LST, in the order of R105. -/
def State.tileQueue (s : State) (e : EngineId) : List Cmd :=
  sortBy (fun c => (s.classNow c).val) (sortBy (·.issueNo) ((s.issuedOn e).filter fun c =>
    c.isMatmul && c.state == .issued && decide (c.tick ≤ s.tick.now) && !s.stopping c.cid))

/-- The next tile of a command on an engine. -/
def Cmd.tileOn (c : Cmd) (e : EngineId) : Option Nat := (c.mat.engTiles e.val).find? fun t => c.tilesLeft.contains t

/-- The command whose tile an engine starts next, and the tile (R105). -/
def State.nextTile (s : State) (e : EngineId) : Option (Cmd × Nat) :=
  ((s.tileQueue e).filter fun c => s.operandsIn c e).findSome? fun c => (c.tileOn e).map fun t => (c, t)

/-- Bytes per cycle that a port of MXE takes from its buffer at most (R86): 32 for each grid row or column, half of it for F32. -/
def portDemand (lanes fmt : Nat) : Nat := if fmt = fF32 then lanes * 16 else lanes * 32

/-- A buffer that feeds a port of a tile is narrower than the port's demand (R135). -/
def State.narrowPort (s : State) (c : Cmd) (e : EngineId) : Bool :=
  [(c.opb 0x12, c.mat.r), (c.opb 0x13, c.mat.c)].any fun x => match c.ten? x.1 with
    | none => false
    | some t => t.prog != 0xFF && (s.slice e).progs.toList.any fun p => p.cid == c.cid && p.rel == t.prog.toNat &&
        t.rot.any fun b => (p.bufs[b]).defined && decide ((p.bufs[b]).banks * 1024 < portDemand x.2 t.fmt.val)

/-- STE counts stall cycles of an engine; how many is open, a free value (R94, R135). -/
def State.starve (s : State) (e : EngineId) : State :=
  { s.count offStarve e.val (Config.freeNat s.free) with free := s.free + 1 }

/-- Once an engine starts its last tile of a command, its units read all that has arrived. -/
def State.drinkAll (s : State) (c : Cmd) (e : EngineId) : State :=
  if (c.tileOn e).isSome then s
  else s.modSlice e fun x => { x with progs := x.progs.map fun (p : Prog) =>
    if p.cid = c.cid then { p with bufs := p.bufs.map fun b => { b with unread := 0 } } else p }

/-- Tiles in progress, the oldest drained as the new one needs room: at most 4, at most 32 entries (R90). -/
def drainFor (entries : Nat) : List (Nat × Nat × Nat) → List (Nat × Nat × Nat)
  | [] => []
  | t :: l => if 4 ≤ (t :: l).length ∨ 32 < ((t :: l).map (·.2.2)).sum + entries then drainFor entries l else t :: l

/-- DETAIL of ST_CHECK_MISMATCH (R103): engine, the pattern, rows, columns and chunk reported, attempts. -/
def mismatchDetail (e : EngineId) (attempts fault : Nat) : W64 :=
  BitVec.ofNat 64 (e.val * 2 ^ 58 + bitsOf fault 57 46 * 2 ^ 46 + attempts * 2 ^ 44 + fault % 2 ^ 32)

/-- The fingerprint of a mismatch in tenant work. Temperature and core rail are measured: free values. -/
def State.checkFinger (s : State) (c : Cmd) (e : EngineId) (fault : Nat) : Finger :=
  { tick := s.tick.now, slot := s.slotFor c e, pattern := 0, cond := s.condByte 1, temp := Config.freeByte s.free,
    vcore := BitVec.ofNat 16 (Config.freeNat s.free), result := if bitsOf fault 57 56 = 3 then 3 else 2, chunk := BitVec.ofNat 32 fault }

/-- A mismatch of a killable command (R101, R104): the attempt is killed; the third ends it. Deltas that a replay carried
stay for the next attempt. The second is reproducible on the slot of the first only; on another slot, a case R101 does not name, it is
recorded as a first one there, and the third attempt follows all the same (DESIGN CHOICE). -/
def State.killMismatch (s : State) (c : Cmd) (e : EngineId) (fault : Nat) (injected : Bool) : State :=
  let n := c.reruns + 1
  let f := s.checkFinger c e fault
  let s := { s with free := s.free + 1 }
  if 3 ≤ n then (s.noteMismatch f false injected (some c.ctx)).failCid c.cid stCheckMismatch (mismatchDetail e 3 fault)
  else
    let s := s.rollback c
    let s := s.modCmd c.cid fun d =>
      { d with mismatch := true, reruns := n, missSlot := some f.slot, rescaled := c.rescaled, deltas := if c.rescaled then c.deltas else [] }
    s.noteMismatch f (decide (n = 2) && c.missSlot == some f.slot) injected (some c.ctx)

/-- The bytes of an element that a flipped product bit reaches unseen are open (R450): its staged or landed bytes become free. -/
def State.spoilTile (s : State) (cid t : Nat) : State :=
  match s.cmd? cid with
  | none => s
  | some c =>
    match c.ten? (c.opb 0x15) with
    | none => s
    | some o =>
      let n := ((c.mat.rowsOf t).head?.getD 0) * c.mat.n + (c.mat.colsOf t).head?.getD 0
      let (u, p) := unitOf o.fmt.val o.cols n
      let off := u * (unitBytes o.fmt.val).1 + (if isBlock o.fmt.val then (if o.fmt.val = fQ4 then p / 2 else p) else 0)
      let w := if isBlock o.fmt.val then 1 else (unitBytes o.fmt.val).1
      let cells := ((c.outVas o).1.filter fun x => decide (off ≤ x.2.1) && decide (x.2.1 < off + w)).map fun x => (x.2.2, Config.freeByte (s.free + x.2.1))
      let s := { s with free := s.free + off + w }
      if c.fixed then s.writeCells c.ctx cells else s.modCmd cid fun d => { d with staged := d.staged ++ cells }

/-- What the checks of a tile report: the fields of R103 in place, and whether an injection made it. A parity error is reported
whatever CHECK says; a fault at a lane that is masked, or at a check that does not compare, is not seen (R89, R99). An injected flip
stands at the first unmasked lane of the chunks it reaches, of which the manual names none (DESIGN CHOICE). -/
def State.tileReport (s : State) (c : Cmd) (e : EngineId) (t : Nat) (fault : Option Nat) : Option (Nat × Bool) :=
  let ops := if c.fixed then s.gatherOps c else c.operands
  match s.tileOps ops c t with
  | none => none
  | some o =>
    let seen := fault.filter fun v => bitsOf v 57 56 == 3 || (c.checked t && c.mat.compares o v)
    match seen with
    | some v => some (tidyReport v, false)
    | none => if c.checked t then (c.mat.flipReport o (s.slice e).flips).map fun v => (v, true) else none

/-- RAS counts the comparisons that the checks of a tile skip (R99). -/
def State.countSkips (s : State) (c : Cmd) (t : Nat) : State :=
  if c.checked t then
    match s.tileOps (if c.fixed then s.gatherOps c else c.operands) c t with
    | none => s
    | some o => s.modRas fun a => { a with checkSkips := a.checkSkips + c.mat.skips o }
  else s

/-- The detail of a FIXED command's mismatch: the first stands (R103). ATTEMPTS is 1, for R102 calls the recompute no attempt
(DESIGN CHOICE). -/
def Cmd.firstMismatch (c : Cmd) (e : EngineId) (v : Nat) : W64 :=
  if c.badTiles.isEmpty && c.failedTiles.isEmpty && c.detail == 0 then mismatchDetail e 1 v else c.detail

/-- TILE_START (R101, R102, R105): the engine starts the next tile; `fault` is what its checks then report, as R103 lays the
fields out. -/
def State.tileStart (s : State) (e : EngineId) (fault : Option Nat) : State :=
  if s.power.changing || (s.slice e).hung then s
  else
    match s.nextTile e with
    | none => if (s.tileQueue e).any fun c => (c.tileOn e).isSome then s.starve e else s
    | some (c, t) =>
      let s := if s.narrowPort c e then s.starve e else s
      let s := s.drinkAll { c with done := t :: c.done } e
      let flips := (s.slice e).flips
      let hit := s.tileReport c e t fault
      let s := s.countSkips c t
      let s := s.modSlice e fun x =>
        { x with tiles := drainFor c.footprint x.tiles ++ [(c.cid, t, c.footprint)], flips := x.flips - c.tileChunks }
      let s := s.modCmd c.cid fun d => { d with issuing := true, runAhead := false }
      match hit with
      | none =>
        let s := s.modCmd c.cid fun d => { d with done := d.done ++ [t] }
        let s := if c.fixed then s.landTile c.cid t else s
        if 0 < flips then s.spoilTile c.cid t else s
      | some (v, inj) =>
        if c.fixed then
          let f := s.checkFinger c e v
          let s := s.modCmd c.cid fun d => { d with badTiles := d.badTiles ++ [t], detail := c.firstMismatch e v }
          ({ s with free := s.free + 1 }).noteMismatch f false inj (some c.ctx)
        else match s.cmd? c.cid with
          | some c => s.killMismatch c e v inj
          | none => s

def execTileStart (e : EngineId) (fault : Option Nat) (s : State) : Host.Outcome State Fault Refusal := .next (State.placeAll (s.tileStart e fault))

/-- FIXED_TILE_RECOMPUTE (R102): once the other tiles are done, a mismatching tile is computed again; it lands, or stays out.
The time is charged. -/
def State.recomputeTile (s : State) (cid tile : Nat) (fault : Option Nat) : State :=
  match s.cmd? cid with
  | none => s
  | some c =>
    if c.fixed ∧ c.state = .issued ∧ !s.power.changing ∧ c.tilesLeft.isEmpty ∧ c.badTiles.contains tile then
      let e : EngineId := Fin.ofNat 64 (c.mat.first + tile % max 1 c.mat.cnt)
      let clock := Config.freeNat s.free
      let s := ({ s with free := s.free + 1 }).modCmd cid fun d => { d with badTiles := d.badTiles.filter (· != tile), charge := d.charge + clock }
      let here := decide (s.slotFor c e = s.slotOfEng e)
      let flips := if here then (s.slice e).flips else 0
      let hit := s.tileReport c e tile fault
      let s := (s.countSkips c tile).modSlice e fun x => { x with flips := if here then x.flips - c.tileChunks else x.flips }
      match hit with
      | none =>
        let s := (s.modCmd cid fun d => { d with done := d.done ++ [tile] }).landTile cid tile
        if 0 < flips then s.spoilTile cid tile else s
      | some (v, inj) =>
        let f := s.checkFinger c e v
        let s := s.modCmd cid fun d => { d with failedTiles := d.failedTiles ++ [tile], detail := c.firstMismatch e v }
        ({ s with free := s.free + 1 }).noteMismatch f true inj (some c.ctx)
    else s

def execFixedTileRecompute (cid tile : Nat) (fault : Option Nat) (s : State) : Host.Outcome State Fault Refusal :=
  .next (State.placeAll (s.recomputeTile cid tile fault))

end Sys2Proof.Machine
end

