-- ==== Sys2Proof/Machine/Vault.lean ====
section
/-! DEFINITION. VLT: installing images, loading weights, weight slots, the keel, patrol (chapter 09). -/
namespace Sys2Proof.Machine

/-! ### Hashes (R221) -/

def leafHash (i : Nat) (bs : List Byte) : List Byte := sha384 (0 :: le 8 i ++ bs)

/-- One level of the tree: pairs, and a last node without a right child as it is. -/
def pairUp : List (List Byte) → List (List Byte)
  | a :: b :: t => sha384 (1 :: a ++ b) :: pairUp t
  | l => l

/-- The root over some leaves; `fuel` bounds the levels. -/
def treeRoot : Nat → List (List Byte) → List Byte
  | _, [] => sha384 [2]
  | _, [a] => a
  | 0, a :: _ => a
  | k + 1, l => treeRoot k (pairUp l)

def rootOf (leaves : List (List Byte)) : List Byte := treeRoot leaves.length leaves

/-- Bytes of a chunk, and of the last chunk of an image. -/
def chunkBytes : Nat := 65536
def Manifest.chunkLen (m : Manifest) (i : Nat) : Nat := min chunkBytes (m.imageLen - i * chunkBytes)

/-! ### Manifests (R220, R222) -/

def allZero (bs : List Byte) : Bool := bs.all (· == 0)

/-- Why a manifest of a format is not valid under the key hashes it names: a status, and the STAGE of R238. A reserved byte is a
wrong format (R225); padding that is not 0 fails as the signature it belongs to, and a wrong CHUNKS as the tree: R238 names no
stage for either (DESIGN CHOICE). -/
def manifestBad (fmt maxKey : Nat) (keys : Option (List Byte × List Byte)) (bs : List Byte) : Option (W16 × Nat) :=
  let chunks := leAt bs 0x10 4
  let len := leAt bs 0x08 8
  let key := leAt bs 0x50 1
  let hdr := sliceOf bs 0 256
  if leAt bs 0 4 ≠ 0x5A484D46 ∨ leAt bs 4 2 ≠ fmt ∨ 2 ^ 48 ≤ len ∨ bs.length ≠ 8192 + 48 * chunks then some (stBounds, 0)
  else if !(allZero (sliceOf bs 6 2) && allZero (sliceOf bs 0x51 175)) then some (stBounds, 0)
  else if !(allZero (sliceOf bs 0x161 31) && allZero (sliceOf bs 0x1E0 32)) then some (stSignature, 2)
  else if !allZero (sliceOf bs (0xC20 + 4627) (0x2000 - 0xC20 - 4627)) then some (stSignature, 3)
  else if chunks ≠ ceilDiv len chunkBytes then some (stSignature, 4)
  else match if key ≤ maxKey then keys else none with
    | none => some (stSignature, 1)
    | some (he, hm) =>
      let ep := sliceOf bs 0x100 97
      let mp := sliceOf bs 0x200 2592
      if sha384 ep ≠ he ∨ sha384 mp ≠ hm then some (stSignature, 1)
      else if !Config.ecdsaVerify ep hdr (sliceOf bs 0x180 96) then some (stSignature, 2)
      else if !Config.mldsaVerify mp hdr (sliceOf bs 0xC20 4627) then some (stSignature, 3)
      else if rootOf ((List.range chunks).map fun k => sliceOf bs (0x2000 + 48 * k) 48) ≠ sliceOf bs 0x20 48 then some (stSignature, 4)
      else none

/-- Why the manifest of a weight image is not valid: its key slot names the publisher. -/
def State.badManifest (s : State) (bs : List Byte) : Option (W16 × Nat) :=
  manifestBad 1 7 (s.vault.keys[(Fin.ofNat 8 (leAt bs 0x50 1) : Fin 8)]) bs

/-- What VLT keeps of a manifest. -/
def manifestOf (bs : List Byte) : Manifest :=
  let chunks := leAt bs 0x10 4
  { imageLen := leAt bs 8 8, chunks, version := BitVec.ofNat 32 (leAt bs 0x14 4), tenant := BitVec.ofNat 64 (leAt bs 0x18 8),
    root := sliceOf bs 0x20 48, leaf := (List.range chunks).map fun k => sliceOf bs (0x2000 + 48 * k) 48 }

/-- DETAIL of an ST_SIGNATURE reply (R238). -/
def sigDetail (stage chunk : Nat) : W64 := BitVec.ofNat 64 (stage * 2 ^ 60 + chunk % 2 ^ 32)

def State.modImage (s : State) (k : Fin 256) (f : Image → Image) : State :=
  { s with vault := { s.vault with images := vmod s.vault.images k f } }
def State.image (s : State) (k : Fin 256) : Image := s.vault.images[k]
def imgOf (b : Byte) : Fin 256 := Fin.ofNat 256 b.toNat

/-- No spare block is left in an array: it takes no writes (R241). -/
def State.vaultFull (s : State) : Bool := decide (s.vault.arrays[(0 : Fin 2)].spare = 0) || decide (s.vault.arrays[(1 : Fin 2)].spare = 0)

/-! ### WGT_INSTALL, WGT_ERASE, WGT_KEY (R223-R225) -/

/-- A range a command reads is a multiple of 64 and readable. -/
def State.readable (s : State) (c : CtxId) (va len : Nat) : Bool := decide (va % 64 = 0) && s.rangeOk c va len true false

def State.checkBegin (s : State) (c : CtxId) (va len : Nat) : Checked := checks [(s.readable c va len, stBounds)]
  { ranges := [{ va, len, r := true, w := false }] }

/-- BEGIN. -/
def State.startBegin (s : State) (c : CtxId) (img : Byte) (va len : Nat) : Started :=
  let k := imgOf img
  if (s.image k).state ≠ .empty then doneBad s stBounds
  else
    let bs := s.ctxBytes c va len
    match s.badManifest bs with
    | some (st, stage) => doneBad s st (if st = stSignature then sigDetail stage 0 else 0)
    | none =>
      let m := manifestOf bs
      let used := (s.vault.images.toList.filter fun i => i.state != .empty).foldl (fun n i => n + i.man.chunks * chunkBytes) 0
      if s.vault.imageNow * 2 ^ 30 < used + m.chunks * chunkBytes ∨ s.vaultFull then doneBad s stQuota
      else doneOk (s.modImage k fun _ => { state := .installing, man := m })

/-- Bytes that chunks first to first + count - 1 take, the short last chunk with its own length. -/
def Manifest.span (m : Manifest) (first count : Nat) : Nat := min m.imageLen ((first + count) * chunkBytes) - first * chunkBytes

def State.checkChunks (s : State) (c : CtxId) (img : Byte) (va first count : Nat) : Checked :=
  let i := s.image (imgOf img)
  let len := if i.state = .empty then 0 else i.man.span first count
  checks [(s.readable c va len, stBounds)] { ranges := [{ va, len, r := true, w := false }], units := count, empty := decide (count = 0) }

/-- Put a verified chunk into both copies. -/
def Image.putChunk (i : Image) (k : Nat) (bs : List Byte) : Image :=
  { i with data := (k, bs, bs) :: i.data.filter fun d => d.1 != k }

/-- Write chunks in order until one does not match its leaf: the state, the units written, and the chunk that failed. -/
def State.writeChunks (s : State) (c : CtxId) (k : Fin 256) (va first : Nat) : Nat → Nat → State × Nat × Option Nat
  | 0, j => (s, j, none)
  | n + 1, j =>
    let m := (s.image k).man
    let bs := s.ctxBytes c (va + j * chunkBytes) (m.chunkLen (first + j))
    if m.leaf.getD (first + j) [] = leafHash (first + j) bs then
      (((s.modImage k fun i => i.putChunk (first + j) bs).programmed (2 * chunkBytes)).writeChunks c k va first n (j + 1))
    else (s, j, some (first + j))

/-- CHUNKS. -/
def State.startChunks (s : State) (c : Cmd) (img : Byte) (va first count : Nat) : Started :=
  let k := imgOf img
  let i := s.image k
  if i.state = .empty then doneBad s stBounds
  else if count = 0 then doneOk s
  else if i.man.chunks < first + count then doneBad s stBounds
  else if !s.readable c.ctx va (i.man.span first count) then doneBad s stBounds
  else if s.vaultFull then doneBad s stQuota
  else
    let (s, n, bad) := s.writeChunks c.ctx k va first count 0
    let s := s.modCmd c.cid fun d => { d with done := List.range n }
    match bad with
    | none => doneOk s
    | some j => doneBad s stSignature (sigDetail 5 j)

/-- COMMIT. -/
def State.startInstallCommit (s : State) (img : Byte) : Started :=
  let k := imgOf img
  if (s.image k).state = .empty then doneBad s stBounds else doneOk (s.modImage k fun i => { i with state := .ready })

/-- A WGT_LOAD from an image is in progress. -/
def State.loading (s : State) (img : Byte) : Bool :=
  s.sched.cmds.any fun c => c.running && (match c.op with
    | .wgtLoad i .. => i == img
    | _ => false)

/-- ABORT and WGT_ERASE: the erase waits for loads from the image to end (R243). -/
def State.startErase (s : State) (img : Byte) : Started :=
  if s.loading img then (s, none) else doneOk (s.modImage (imgOf img) fun _ => {})

/-- Write an empty key slot from a record. -/
def State.addKey (s : State) (slot : Fin 8) (rec_ : List Byte) : Option State :=
  match s.vault.keys[slot] with
  | some _ => none
  | none => some { s with vault := { s.vault with keys := vmod s.vault.keys slot fun _ => some (sliceOf rec_ 0 48, sliceOf rec_ 48 48) } }

def State.dropKey (s : State) (slot : Fin 8) : State :=
  { s with vault := { s.vault with keys := vmod s.vault.keys slot fun _ => none } }

def State.checkKeyAdd (s : State) (c : CtxId) (slot : Byte) (va : Nat) : Checked :=
  checks [(decide (slot.toNat < 8), stBounds), (s.rangeOk c va 96 true false, stBounds)] { ranges := [{ va, len := 96, r := true, w := false }] }

def State.startKeyAdd (s : State) (c : CtxId) (slot : Byte) (va : Nat) : Started :=
  match s.addKey (Fin.ofNat 8 slot.toNat) (s.ctxBytes c va 96) with
  | none => doneBad s stBounds
  | some s => doneOk s

def checkKeySlot (slot : Byte) : Checked := checks [(decide (slot.toNat < 8), stBounds)]

/-! ### WGT_LOAD (R228-R230, R236) -/

/-- The shard map at an address. -/
def State.shardMap (s : State) (c : CtxId) (smap count : Nat) : List ShardEnt :=
  (List.range count).map fun k =>
    let bs := s.ctxBytes c (smap + 16 * k) 16
    { chunk := leAt bs 0 4, count := leAt bs 4 4, va := leAt bs 8 8 }

/-- Destinations of two entries share a byte. -/
def shardClash (a b : ShardEnt) : Bool := overlaps a.va (a.count * chunkBytes) b.va (b.count * chunkBytes)

/-- Units of a shard map. -/
def shardUnits (l : List ShardEnt) : Nat := l.foldl (fun n e => n + e.count) 0

/-- Chunks of a shard map with the address of each. -/
def shardChunks (l : List ShardEnt) : List (Nat × Nat) :=
  l.flatMap fun e => (List.range e.count).map fun k => (e.chunk + k, e.va + k * chunkBytes)

def State.checkLoad (s : State) (c : CtxId) (img slot : Byte) (members : W16) (lflags : Byte) (va len smap count : Nat) : Checked :=
  let i := s.image (imgOf img)
  let x := s.ctx c
  let tableOk := s.rangeOk c smap (16 * count) true false
  let sh := if tableOk then s.shardMap c smap count else []
  checks [(decide (slot.toNat < 8 ∧ lflags.toNat < 2 ∧ members.toNat < 512), stBounds), (i.state == .ready, stBounds),
    (decide (i.man.tenant = 0 ∨ i.man.tenant = x.tenant), stPerm),
    (x.wslots[(Fin.ofNat 8 slot.toNat : WSlotId)].state == .empty, stBounds),
    (decide (va % chunkBytes = 0 ∧ len % chunkBytes = 0 ∧ va + len ≤ vaLimit), stBounds), (s.mapped c va len, stBounds),
    (!s.overWeights c va len, stBounds), (tableOk, stBounds),
    (sh.all fun e => decide (e.chunk + e.count ≤ i.man.chunks) && (decide (e.count = 0) || (decide (e.va % chunkBytes = 0) &&
      decide (va ≤ e.va) && decide (e.va + e.count * chunkBytes ≤ va + len))), stBounds),
    (pairwiseOk shardClash sh, stBounds)]
    { kb := { shards := sh }, ranges := [{ va := smap, len := 16 * count, r := true, w := false }], units := shardUnits sh }

/-- The context's slot that a byte names. -/
def slotOf (b : Byte) : WSlotId := Fin.ofNat 8 b.toNat
def State.wslot (s : State) (c : CtxId) (k : WSlotId) : WSlot := (s.ctx c).wslots[k]
def State.modWslot (s : State) (c : CtxId) (k : WSlotId) (f : WSlot → WSlot) : State :=
  s.modCtx c fun x => { x with wslots := vmod x.wslots k f }

/-- A copy of a chunk as the local vault reads it: none where it fails its ECC check or its leaf (R229). Whether ECC fails is a free
value. -/
def copyRead (n : Nat) (leaf : List Byte) (k copy : Nat) (bs : List Byte) : Option (List Byte) :=
  if Config.copyFails n k copy || leafHash k bs != leaf then none else some bs

/-- A chunk from the local vault: copy 0, then copy 1, whichever yields its leaf (R229); `n` is the draw of what ECC finds. -/
def Image.localChunk (i : Image) (n k : Nat) : Option (List Byte) :=
  match i.data.find? fun d => d.1 == k with
  | none => none
  | some (_, a, b) =>
    let leaf := i.man.leaf.getD k []
    (copyRead n leaf k 0 a).orElse fun _ => copyRead n leaf k 1 b

/-- The copies of a chunk that a read goes through are counted on their arrays: those that failed, and those ECC corrected (R219, R242). -/
def State.countReads (s : State) (i : Image) (n k : Nat) : State :=
  match i.data.find? fun d => d.1 == k with
  | none => s
  | some (_, a, b) =>
    let leaf := i.man.leaf.getD k []
    let one (s : State) (copy : Nat) (bs : List Byte) : State :=
      if (copyRead n leaf k copy bs).isNone then s.count offVltUe ((k + copy) % 2) 1
      else if Config.copyCorrected n k copy then s.count offVltCe ((k + copy) % 2) 1
      else s
    let s := one s 0 a
    if (copyRead n leaf k 0 a).isNone then one s 1 b else s

/-- A chunk from some sled peers, in ascending w, that hold the ROOT and have not failed to answer, where it matches its leaf. -/
def State.peerChunk (s : State) (root leaf : List Byte) (ask : Fin 9 → Bool) (k : Nat) : Option (List Byte) :=
  (List.finRange 9).findSome? fun w =>
    if !ask w then none
    else match s.vault.peerChunks.find? fun p => decide (p.1 = w) && p.2.1 == root && p.2.2.1 == k with
      | some (_, _, _, bs) => if leafHash k bs = leaf then some bs else none
      | none => none

/-- The holder of a chunk in a load group: the lowest-numbered member whose vault holds it (R230). -/
def State.groupHolder (s : State) (i : Image) (members : W16) (k : Nat) : Option (Fin 9) :=
  (List.finRange 9).find? fun w => members.getLsbD w.val &&
    (if w.val = identW s.fab.ident then i.data.any fun d => d.1 == k
     else s.vault.peerChunks.any fun p => decide (p.1 = w) && p.2.1 == i.man.root && p.2.2.1 == k)

/-- A chunk is taken from a group holder other than this module. -/
def State.fromGroup (s : State) (i : Image) (group members : W16) (k : Nat) : Bool :=
  decide (group ≠ 0) && (match s.groupHolder i members k with
    | some w => decide (w.val ≠ identW s.fab.ident)
    | none => false)

/-- The presence map of an image goes to the members of a load group (R230). -/
def State.sendPresence (s : State) (i : Image) (members : W16) : State :=
  (List.finRange 9).foldl (fun s w =>
    if members.getLsbD w.val && decide (w.val ≠ identW s.fab.ident) then
      s.send ptService (identOf (identX s.fab.ident) (identY s.fab.ident) (identZ s.fab.ident) w.val) 0 0
        (svcBody 8 (BitVec.ofNat 8 (identW s.fab.ident) :: i.man.root ++ i.data.flatMap fun d => le 4 d.1))
    else s) s

/-- This module as holder reads its chunks once and multicasts them to the members of the group (R230). -/
def State.multicastChunks (s : State) (c : Cmd) (i : Image) (members : W16) (got : List (Nat × Nat × List Byte)) : State :=
  got.foldl (fun s g =>
    (List.finRange 9).foldl (fun s w =>
      if members.getLsbD w.val && decide (w.val ≠ identW s.fab.ident) && decide ((s.groupHolder i members g.1).map (·.val) = some (identW s.fab.ident)) then
        s.send ptChunk (identOf (identX s.fab.ident) (identY s.fab.ident) (identZ s.fab.ident) w.val) c.ctx c.gen (i.man.root ++ le 4 g.1 ++ g.2.2)
      else s) s) s

/-- WGT_LOAD issues: the slot is LOADING; what the local vault yields is gathered, and this module as holder multicasts its
chunks to the group. -/
def State.startLoad (s : State) (c : Cmd) (img slot : Byte) (group members : W16) (va len : Nat) : Started :=
  let i := s.image (imgOf img)
  let k := slotOf slot
  let n := s.free
  let all := shardChunks c.kb.shards
  let mine := all.filter fun x => !s.fromGroup i group members x.1
  let got := mine.filterMap fun x => (i.localChunk n x.1).map fun bs => (x.1, x.2, bs)
  let s := mine.foldl (fun s x => s.countReads i n x.1) { s with free := n + 1 }
  let s := s.modWslot c.ctx k fun _ =>
    { state := .loading, va, len, version := i.man.version, root := i.man.root, img, chunks := all, group, members := BitVec.ofNat 9 members.toNat,
      leaf := all.map fun x => (x.1, i.man.leaf.getD x.1 []) }
  let s := if group = 0 then s else (s.sendPresence i members).multicastChunks c i members got
  let s := s.modCmd c.cid fun d => { d with chunks := got, chunkUs := s.nowUs }
  if all = [] then
    doneOk (s.modWslot c.ctx k fun w => { w with state := .ready })
  else (s, none)

/-- Chunks of a load that have not been gathered. -/
def Cmd.missing (c : Cmd) : List (Nat × Nat) := (shardChunks c.kb.shards).filter fun x => !(c.chunks.any fun g => g.1 == x.1 && g.2.1 == x.2)

/-- Take some missing chunks from the module's own sources (R229): its vault, and the sled peers when they are asked. -/
def State.gatherSome (s : State) (c : Cmd) (peers : Bool) (l : List (Nat × Nat)) : State :=
  match c.op with
  | .wgtLoad img .. =>
    let i := s.image (imgOf img)
    let n := s.free
    let got := l.filterMap fun x =>
      (match i.localChunk n x.1 with
       | some bs => some bs
       | none => if peers then s.peerChunk i.man.root (i.man.leaf.getD x.1 []) (fun w => !c.deadPeers.contains w) x.1 else none).map fun bs =>
         (x.1, x.2, bs)
    let s := l.foldl (fun s x => s.countReads i n x.1) { s with free := n + 1 }
    s.modCmd c.cid fun d => { d with chunks := d.chunks ++ got }
  | _ => s

/-- Take the missing chunks from the module's own sources. -/
def State.gather (s : State) (c : Cmd) (peers : Bool) : State := s.gatherSome c peers c.missing

/-- A member of the sled has failed: loads take from their own sources the chunks it held for their group (R230, R243), and its vault
answers no more. -/
def State.holderLost (s : State) (w : Fin 9) : State :=
  let s := s.sched.cmds.foldl (fun s c =>
    match c.op with
    | .wgtLoad img _ group members .. =>
      let i := s.image (imgOf img)
      if c.running && group != 0 then s.gatherSome c true (c.missing.filter fun x => decide (s.groupHolder i members x.1 = some w)) else s
    | _ => s) s
  { s with vault := { s.vault with peerChunks := s.vault.peerChunks.filter fun p => decide (p.1 ≠ w) } }

/-- Poisoned pages in a slot. -/
def State.slotPoison (s : State) (c : CtxId) (w : WSlot) : Nat := ((s.pagesIn c w.va w.len).filter (·.poison)).length

/-- The directory entry a slot was loaded from, 0xFF if the image was erased since (R237). -/
def State.slotImg (s : State) (w : WSlot) : Byte :=
  let i := s.image (imgOf w.img)
  if i.state != .empty && i.man.root == w.root then w.img else 0xFF

/-- DETAIL of an ST_WEIGHT_UNAVAILABLE reply (R237). -/
def State.wgtDetail (s : State) (c : CtxId) (cause : Nat) (k : WSlotId) (chunk : Nat) : W64 :=
  let w := s.wslot c k
  BitVec.ofNat 64 (cause * 2 ^ 60 + k.val * 2 ^ 57 + (s.slotImg w).toNat * 2 ^ 49 + min (s.slotPoison c w) 0x1FFFF * 2 ^ 32 + chunk % 2 ^ 32)

/-- Give the pages under some ranges a frame: the first page for which there is no room is answered. -/
def State.takeFrames (s : State) (c : CtxId) (rs : List (Nat × Nat)) : State × Option Page :=
  (s.memUnit.pages.filter fun p => decide (p.ctx = c) && p.zero && p.touches rs).foldl (fun (acc : State × Option Page) p =>
    match acc.2, acc.1.pageAt? c p.va with
    | none, some q => if q.zero then (match acc.1.resolvePage q with
        | some s => (s, none)
        | none => (acc.1, some q)) else acc
    | _, _ => acc) (s, none)

/-- A VLT command that finds no room for a page waits on a fault record of cause QUOTA (R197, R206). -/
def State.vltQuotaFault (s : State) (c : Cmd) (p : Page) : State :=
  if s.memUnit.faults.any fun f => f.cid == c.cid then s
  else
    let (s, id) := s.fault { id := 0, ctx := c.ctx, gen := c.gen, cause := .quota, write := true, src := .vlt, unit := 0, prog := 0, va := p.va,
                             seq := c.seq, node := c.node, tick := s.tick.now, cid := c.cid, recorded := true }
    s.modCmd c.cid fun d => { d with waitFault := some id }

/-- Lowest of some numbers. -/
def lowest : List Nat → Nat
  | [] => 0
  | a :: t => t.foldl min a

/-- A page whose data is lost takes a fresh frame of T2 for new data (R234, R243). -/
def State.freshFrame (s : State) (c : CtxId) (va : Nat) : State :=
  match s.pageAt? c va with
  | none => s
  | some p =>
    let s : State := if p.tier = .t2 then s.placeBlock p .t2 0 true else (s.bringT2 p true).getD (s.placeBlock p .t2 0 true)
    s.modPages (p.sameBlock ·) fun q => { q with poison := false, lost := false }

/-- Pages lost while a load writes them take fresh frames (R243). -/
def State.freshFrames (s : State) (c : CtxId) (rs : List (Nat × Nat)) : State :=
  (s.memUnit.pages.filter fun p => decide (p.ctx = c) && (p.poison || p.lost) && p.touches rs).foldl (fun s p => s.freshFrame c p.va) s

/-- The load ends its work (R229, R236): chunks no source yields leave their pages poisoned, or kill the load. None: it
waits for room. -/
def State.commitLoad (s : State) (c : Cmd) (slot lflags : Byte) : Started :=
  let s := s.gather c true
  let c := (s.cmd? c.cid).getD c
  let k := slotOf slot
  let lost := c.missing
  if lost ≠ [] ∧ bitOf lflags.toNat 0 then doneBad s stWeightUnavailable (s.wgtDetail c.ctx 1 k (lowest (lost.map (·.1))))
  else
    match s.takeFrames c.ctx ((shardChunks c.kb.shards).map fun x => (x.2, chunkBytes)) with
    | (s, some p) => (s.vltQuotaFault c p, none)
    | (s, none) =>
      let s := s.freshFrames c.ctx (c.chunks.map fun g => (g.2.1, chunkBytes))
      let s := c.chunks.foldl (fun s g => s.writeCtx c.ctx g.2.1 (sliceOf g.2.2 0 chunkBytes)) s
      let s := s.poisonPages fun p => decide (p.ctx = c.ctx) && lost.any fun x => overlaps p.va p.size.bytes x.2 chunkBytes
      let s := s.modWslot c.ctx k fun w => { w with state := .ready }
      if lost = [] then doneOk s
      else (s, some (.committed, stWeightUnavailable, s.wgtDetail c.ctx 1 k (lowest (lost.map (·.1)))))

/-- WGT_SOURCE_TIMEOUT (R229): the next source is tried. -/
def execWgtSourceTimeout (cid : Nat) (peer : Fin 9) (s : State) : Host.Outcome State Fault Refusal :=
  .next (State.placeAll (s.modCmd cid fun c => if c.deadPeers.contains peer then c else { c with deadPeers := c.deadPeers ++ [peer] }))

/-- LOAD_GROUP_HOLDER_TIMEOUT (R230): no holder has sent a chunk for 100 ms, and the member takes the affected chunks from its own
sources. -/
def execLoadGroupHolderTimeout (cid : Nat) (s : State) : Host.Outcome State Fault Refusal :=
  .next (State.placeAll (match s.cmd? cid with
    | some c => if c.running && decide (c.chunkUs + 100000 ≤ s.nowUs) then s.gather c true else s
    | none => s))

/-- A chunk of a load group arrives (R230): it is taken if a load still misses it and it matches the leaf. -/
def State.chunkArrives (s : State) (c : CtxId) (root : List Byte) (chunk : Nat) (bs : List Byte) : State :=
  s.sched.cmds.foldl (fun s x =>
    match x.op with
    | .wgtLoad img .. =>
      let m := (s.image (imgOf img)).man
      if x.ctx = c ∧ x.running ∧ m.root = root ∧ leafHash chunk bs = m.leaf.getD chunk [] then
        s.modCmd x.cid fun d => { d with chunkUs := s.nowUs, chunks := d.chunks ++ ((d.missing.filter fun y => y.1 == chunk).map fun y => (chunk, y.2, bs)) }
      else s
    | _ => s) s

/-! ### Slots (R232, R233) -/

def maxPins : Nat := 2 ^ 24 - 1

/-- An earlier WGT_PIN or WGT_SWITCH of the context has not ended: they commit in order. -/
def State.pinOrder (s : State) (c : Cmd) : Bool :=
  (s.cmdsOf c.ctx).any fun d => decide (d.cid < c.cid) && (match d.op with
    | .wgtPin _ => true
    | .wgtSwitch _ => true
    | _ => false)

/-- WGT_PIN. -/
def State.startPin (s : State) (c : Cmd) (n : Nat) : Started :=
  if s.pinOrder c then (s, none)
  else match (s.ctx c.ctx).cur with
    | none => if n = 0 then doneOk s else doneBad s stWeightUnavailable (BitVec.ofNat 64 (2 * 2 ^ 60))
    | some k =>
      let p := (s.wslot c.ctx k).pins + n
      if maxPins < p then doneBad s stQuota
      else doneOk (s.modWslot c.ctx k fun w => { w with pins := p })
        (BitVec.ofNat 64 ((s.wslot c.ctx k).version.toNat * 2 ^ 32 + p * 2 ^ 8 + k.val))

def checkSlot (slot : Byte) : Checked := checks [(decide (slot.toNat < 8), stBounds)]

/-- WGT_UNPIN. -/
def State.startUnpin (s : State) (c : CtxId) (slot : Byte) (n : Nat) : Started :=
  if (s.wslot c (slotOf slot)).pins < n then doneBad s stBounds
  else doneOk (s.modWslot c (slotOf slot) fun w => { w with pins := w.pins - n })

/-- WGT_SWITCH. -/
def State.startSwitch (s : State) (c : Cmd) (slot : Byte) : Started :=
  let k := slotOf slot
  if s.pinOrder c then (s, none)
  else if (s.wslot c.ctx k).state ≠ .ready then doneBad s stBounds
  else doneOk (s.modCtx c.ctx fun x => { x with cur := some k })
    (BitVec.ofNat 64 (min (s.slotPoison c.ctx (s.wslot c.ctx k)) 0x1FFFF * 2 ^ 32))

/-- WGT_DROP. -/
def State.startDrop (s : State) (c : CtxId) (slot : Byte) : Started :=
  let k := slotOf slot
  if (s.ctx c).cur = some k ∨ (s.wslot c k).state ≠ .ready then doneBad s stBounds
  else doneOk (s.modWslot c k fun w => { w with state := .retiring })

/-- WEIGHT_SLOT_EMPTY (R232): no pin is left and no issued command covers the range. -/
def execWeightSlotEmpty (ctx : CtxId) (slot : WSlotId) (s : State) : Host.Outcome State Fault Refusal :=
  let w := s.wslot ctx slot
  .next (if w.state = .retiring ∧ w.pins = 0 ∧ !(s.busyRanges ctx).any (fun r => overlaps r.1 r.2 w.va w.len) then
      s.modWslot ctx slot fun _ => {}
    else s)

/-! ### Lost weight pages (R234, R235) -/

/-- The slot whose range holds an address, READY or RETIRING. -/
def State.slotAt? (s : State) (c : CtxId) (va : Nat) : Option WSlotId :=
  (List.finRange 8).find? fun k =>
    let w := s.wslot c k
    (w.state == .ready || w.state == .retiring) && decide (w.va ≤ va) && decide (va < w.va + w.len)

/-- Directory entry with a ROOT. -/
def State.imageWith (s : State) (root : List Byte) : Option (Fin 256) :=
  (List.finRange 256).find? fun k => (s.image k).state != .empty && (s.image k).man.root == root

/-- The chunks of a page with the data a source yields for each (R234): the peers of the load group first, then the module's vault and
the sled peers, each verified by the leaf the load was checked against. `n` is the draw of what ECC finds. -/
def State.recoverChunks (s : State) (n : Nat) (w : WSlot) (p : Page) : List (Nat × Nat × Option (List Byte)) :=
  (w.chunks.filter fun x => overlaps p.va p.size.bytes x.2 chunkBytes).map fun x =>
    let leaf := (w.leaf.find? fun l => l.1 == x.1).elim [] (·.2)
    let group := if w.group = 0 then none else s.peerChunk w.root leaf (fun v => w.members.getLsbD v.val) x.1
    (x.1, x.2, (group.orElse fun _ => (s.imageWith w.root).bind fun k => (s.image k).localChunk n x.1).orElse fun _ =>
      s.peerChunk w.root leaf (fun _ => true) x.1)

/-- Held accesses of a page resume. -/
def State.resumeHeld (s : State) (c : CtxId) (p : Page) : State :=
  let fs := s.memUnit.faults.filter fun f => decide (f.ctx = c) && (f.cause == .poisoned || f.cause == .tierLost) && decide (p.va ≤ f.va) &&
    decide (f.va < p.va + p.size.bytes)
  fs.foldl (fun s f => s.resumeAccess f) (fs.foldl (fun s f => s.dropFault f.id) s)

/-- VLT recovers a lost page of a slot: written to a fresh T2 frame, or poisoned when a chunk has no source. -/
def State.recoverPage (s : State) (c : CtxId) (va : Nat) : State :=
  match s.pageAt? c va, s.slotAt? c va with
  | some p, some k =>
    if !(p.poison || p.lost) then s
    else
      let w := s.wslot c k
      let n := s.free
      let cs := s.recoverChunks n w p
      let s : State := { s with free := n + 1 }
      let s : State := match s.imageWith w.root with
        | some k => cs.foldl (fun s x => s.countReads (s.image k) n x.1) s
        | none => s
      let lost := cs.filter fun x => x.2.2.isNone
      if lost = [] then
        let s := cs.foldl (fun s x => match x.2.2 with
          | some bs => s.writeCtx c x.2.1 (sliceOf bs 0 chunkBytes)
          | none => s) s
        (s.freshFrame c va).resumeHeld c p
      else
        let s := s.modPages (p.sameBlock ·) fun q => { q with poison := true }
        let s := match s.imageWith w.root with
          | some i => s.modImage i fun x => { x with data := x.data.filter fun d => !(lost.any fun l => l.1 == d.1) }
          | none => s
        s.raise evWeightLost unitVlt (some c) none [BitVec.ofNat 32 (lowest (lost.map (·.1)))]
  | _, _ => s

/-- A chunk of a ROOT has become present: VLT tries again the lost pages of the slots that hold the ROOT, where every chunk has a
source now (R235). -/
def State.retryWeights (s : State) (root : List Byte) : State :=
  (s.memUnit.pages.filter fun p => p.poison || p.lost).foldl (fun s p =>
    match s.slotAt? p.ctx p.va with
    | some k => if (s.wslot p.ctx k).root = root ∧ (s.recoverChunks s.free (s.wslot p.ctx k) p).all (fun x => x.2.2.isSome) then s.recoverPage p.ctx p.va else s
    | none => s) s

/-- WEIGHT_PAGE_RECOVERY (R234, R235). -/
def execWeightPageRecovery (ctx : CtxId) (va : BitVec 52) (s : State) : Host.Outcome State Fault Refusal :=
  .next (s.recoverPage ctx va.toNat)

/-- The fault of an access of a command that is held on a lost weight page. -/
def State.weightFault (s : State) (cid : Nat) : Option PFault :=
  s.memUnit.faults.find? fun f => f.cid == cid && (f.cause == .poisoned || f.cause == .tierLost) && (s.slotAt? f.ctx f.va).isSome

/-- DETAIL of a command that ends held on a lost weight page: the lowest chunk of the page that no source yields, or the one accessed. -/
def State.heldDetail (s : State) (f : PFault) : W64 :=
  match s.slotAt? f.ctx f.va, s.pageAt? f.ctx f.va with
  | some k, some p =>
    let w := s.wslot f.ctx k
    let lost := ((s.recoverChunks s.free w p).filter fun x => x.2.2.isNone).map (·.1)
    let at_ := (w.chunks.filter fun x => decide (x.2 ≤ f.va) && decide (f.va < x.2 + chunkBytes)).map (·.1)
    s.wgtDetail f.ctx 1 k (lowest (if lost.isEmpty then at_ else lost))
  | _, _ => 0

/-- A command held on a weight page ends at its request's deadline, or 128 ticks after the fault (R235). -/
def State.weightTimeout (s : State) (cid : Nat) : State :=
  match s.cmd? cid, s.weightFault cid with
  | some c, some f =>
    let late := decide (f.tick + 128 ≤ s.tick.now) || (match c.dueTick with
      | some d => decide (d ≤ s.tick.now)
      | none => false)
    if late then s.failPart c.cid stWeightUnavailable (s.heldDetail f) else s
  | _, _ => s

/-- WEIGHT_UNAVAILABLE_TIMEOUT (R235). -/
def execWeightUnavailableTimeout (cid : Nat) (s : State) : Host.Outcome State Fault Refusal := .next (State.placeAll (s.weightTimeout cid))

/-! ### The keel (R239) -/

def keelOf (b : Byte) : Fin 2 := Fin.ofNat 2 b.toNat
def State.keel (s : State) (b : Byte) : Keel := s.vault.keels[keelOf b]
def State.modKeel (s : State) (k : Fin 2) (f : Keel → Keel) : State := { s with vault := { s.vault with keels := vmod s.vault.keels k f } }

/-- Checks that KEEL_WRITE and KEEL_READ share: the table, its ranges with the access needed, and chunks within the slot. -/
def State.checkKeel (s : State) (c : CtxId) (kslot : Byte) (smap count : Nat) (write : Bool) : Checked :=
  let tableOk := s.rangeOk c smap (16 * count) true false
  let sh := if tableOk then s.shardMap c smap count else []
  let rs := sh.map fun e => ({ va := e.va, len := e.count * chunkBytes, r := !write, w := write } : BufD)
  match firstFail [(decide (kslot.toNat < 2), stBounds), (tableOk, stBounds),
    (sh.all fun e => decide (e.chunk + e.count ≤ s.vault.keelNow * 16384) && (decide (e.count = 0) || (decide (e.va % chunkBytes = 0) &&
      s.rangeOk c e.va (e.count * chunkBytes) (!write) write)), stBounds),
    (sh.all fun e => decide (e.count = 0) || !(write && s.overWeights c e.va (e.count * chunkBytes)), stPerm),
    (!write || pairwiseOk shardClash sh, stBounds)] with
  | some st => .error st
  | none => match s.shadowNeed c (if write then rs else []) with
    | none => .error stBounds
    | some n =>
      if c ≠ 0 ∧ 32 * (s.ctx c).quotaSh < n then .error stQuota
      else .ok { kb := { shards := sh }, ranges := ({ va := smap, len := 16 * count, r := true, w := false } : BufD) :: rs, units := shardUnits sh, shNeed := n }

/-- KEEL_WRITE issues: the chunks are read from context memory. -/
def State.startKeelWrite (s : State) (c : Cmd) (kslot : Byte) : Started :=
  if (s.keel kslot).state ≠ .empty then doneBad s stBounds
  else if s.vaultFull then doneBad s stQuota
  else (s.modCmd c.cid fun d => { d with chunks := (shardChunks c.kb.shards).map fun x => (x.1, x.2, s.ctxBytes c.ctx x.2 chunkBytes) }, none)

/-- Chunks of a keel slot, those not written as zeros. -/
def Keel.chunk (k : Keel) (i : Nat) : List Byte := ((k.data.find? fun d => d.1 == i).map (·.2)).getD (List.replicate chunkBytes 0)
def Keel.rootNow (k : Keel) : List Byte := rootOf ((List.range k.chunkCount).map fun i => leafHash i (k.chunk i))

/-- KEEL_WRITE commits: header and VALID. -/
def State.commitKeelWrite (s : State) (c : Cmd) (kslot : Byte) (job : W64) (step : W32) : Started :=
  let k : Keel := { state := .valid, tenant := (s.ctx c.ctx).tenant, job, step, data := c.chunks.map fun x => (x.1, x.2.2),
                    chunkCount := (c.kb.shards.filter fun e => decide (e.count ≠ 0)).foldl (fun n e => max n (e.chunk + e.count)) 0 }
  doneOk ((s.modKeel (keelOf kslot) fun _ => { k with root := k.rootNow }).programmed (c.chunks.length * chunkBytes))

/-- KEEL_READ issues: a VALID slot with the context's tenant tag. -/
def State.startKeelRead (s : State) (c : Cmd) (kslot : Byte) : Started :=
  let k := s.keel kslot
  if k.state ≠ .valid then doneBad s stBounds
  else if k.tenant ≠ (s.ctx c.ctx).tenant then doneBad s stPerm
  else if c.kb.shards.any fun e => decide (k.chunkCount < e.chunk + e.count) then doneBad s stBounds
  else (s.modCmd c.cid fun d => { d with chunks := (shardChunks c.kb.shards).map fun x => (x.1, x.2, k.chunk x.1) }, none)

/-- A keel chunk is read: what ECC finds is counted on its array; chunks alternate between the arrays (DESIGN CHOICE). -/
def State.countKeel (s : State) (n k : Nat) : State :=
  if Config.copyFails n k 2 then s.count offVltUe (k % 2) 1
  else if Config.copyCorrected n k 2 then s.count offVltCe (k % 2) 1
  else s

/-- KEEL_READ commits once every chunk has been checked against the ROOT. -/
def State.commitKeelRead (s : State) (c : Cmd) (kslot : Byte) : Started :=
  let k := s.keel kslot
  let n := s.free
  let s := c.chunks.foldl (fun s g => s.countKeel n g.1) { s with free := n + 1 }
  if k.state ≠ .valid ∨ k.rootNow ≠ k.root ∨ c.chunks.any (fun g => Config.copyFails n g.1 2) then doneBad (s.modKeel (keelOf kslot) fun k => { k with state := .invalid }) stUncorrectable
  else match s.takeFrames c.ctx ((shardChunks c.kb.shards).map fun x => (x.2, chunkBytes)) with
    | (s, some p) => (s.vltQuotaFault c p, none)
    | (s, none) => doneOk (c.chunks.foldl (fun s g => s.writeCtx c.ctx g.2.1 g.2.2) s)

def checkKslot (kslot : Byte) : Checked := checks [(decide (kslot.toNat < 2), stBounds)]

/-- KEEL_DROP. -/
def State.startKeelDrop (s : State) (kslot : Byte) : Started := doneOk (s.modKeel (keelOf kslot) fun _ => {})

/-! ### Patrol and wear (R240, R241) -/

/-- A copy of a chunk fails: it is rewritten from the other; when both fail the chunk comes from sled peers or is absent. -/
def State.patrolChunk (s : State) (bad : List (Byte × Nat × Fin 2)) (b : Byte × Nat × Fin 2) : State :=
  let k := imgOf b.1
  let i := s.image k
  let s := s.count offVltUe ((b.2.1 + b.2.2.val) % 2) 1
  match i.data.find? fun d => d.1 == b.2.1 with
  | none => s
  | some (_, c0, c1) =>
    let both := bad.any fun x => x.1 == b.1 && x.2.1 == b.2.1 && decide (x.2.2 ≠ b.2.2)
    if !both then (s.modImage k fun i => i.putChunk b.2.1 (if b.2.2 = 0 then c1 else c0)).programmed chunkBytes
    else match s.peerChunk i.man.root (i.man.leaf.getD b.2.1 []) (fun _ => true) b.2.1 with
      | some bs => (s.modImage k fun i => i.putChunk b.2.1 bs).programmed chunkBytes
      | none => s.modImage k fun i => { i with data := i.data.filter fun d => d.1 != b.2.1 }

/-- VAULT_PATROL (R240). -/
def execVaultPatrol (bad : List (Byte × Nat × Fin 2)) (badKeel : List (Fin 2 × Nat)) (s : State) : Host.Outcome State Fault Refusal :=
  let s := bad.foldl (fun s b => s.patrolChunk bad b) s
  .next (badKeel.foldl (fun s k => if (s.vault.keels[k.1]).state = .valid then (s.count offVltUe (k.2 % 2) 1).modKeel k.1 fun x => { x with state := .invalid } else s) s)

/-- THROTTLE_LIFT (R241): the bytes of the last 24 h have fallen below the allowance. -/
def execThrottleLift (writeDay : W32) (s : State) : Host.Outcome State Fault Refusal :=
  let d := writeDay.toNat * 2 ^ 30
  .next { s with vault := { s.vault with writeDay := d, throttled := s.vault.throttled && decide (s.vault.dailyAllowance ≤ d) } }

end Sys2Proof.Machine
end

