-- ==== Sys2Proof/Machine/Collective.lean ====
section
/-! DEFINITION. CLE: the slot tree over ranks, the five collectives, their packets and windows, the reduction of a step
fence (R129, R327, R358-R380). -/
namespace Sys2Proof.Machine

/-! ### Layout of a group (R358, R361) -/

/-- First element and length of a rank's shard. -/
def shardBase (ms : List Member) (r : Nat) : Nat := sumLen (ms.take r)
def shardLenOf (ms : List Member) (r : Nat) : Nat := ((ms[r]? : Option Member).map (·.shardLen)).getD 0

/-- The rank whose shard holds an element. -/
def ownerOf (ms : List Member) (e : Nat) : Nat :=
  ((List.range ms.length).find? fun r => decide (shardBase ms r ≤ e) && decide (e < shardBase ms r + shardLenOf ms r)).getD 0

/-- Slots of the reduction, and NODE_FMT. -/
def Cmd.slots (c : Cmd) : Nat := (c.kb.geom.map (·.slots)).getD 0
def Cmd.nodeFmt (c : Cmd) : Nat := (c.kb.geom.map (·.nodeFmt.val)).getD 0

/-! ### Representatives (R364) -/

/-- The rank that emits a node. -/
def emitterOf (ms : List Member) (slots : Nat) (node : Nat × Nat) : Option Nat :=
  (List.range ms.length).find? fun r => match (ms[r]? : Option Member) with
    | some m => (rankNodes slots m).contains node
    | none => false

/-- SLOT_LO of the first rank with slots at or after a rank (R364). Past the last rank the search goes on from rank 0, of which the manual
does not speak: DESIGN CHOICE. -/
def firstSlot (ms : List Member) (s : Nat) : Nat :=
  match ((ms.drop s) ++ ms.take s).find? fun m => !m.noslot with
  | some m => m.slotLo
  | none => 0

/-- A node covers a slot. -/
def coversSlot (slots l i x : Nat) : Bool := decide (i * 2 ^ l ≤ x) && decide (x < (i + 1) * 2 ^ l) && decide (x < slots)

/-- The representative of a node at level l, index i, for the shard of owner s. -/
def repOf (ms : List Member) (slots s : Nat) : Nat → Nat → Nat
  | 0, i => (emitterOf ms slots (0, i)).getD 0
  | l + 1, i =>
    match emitterOf ms slots (l + 1, i) with
    | some r => r
    | none =>
      let left := repOf ms slots s l (2 * i)
      if slots ≤ (2 * i + 1) * 2 ^ l then left
      else
        let right := repOf ms slots s l (2 * i + 1)
        let x := firstSlot ms s
        if coversSlot slots l (2 * i) x then left
        else if coversSlot slots l (2 * i + 1) x then right
        else if (s + i) % 2 = 0 then left else right

/-! ### Packets -/

/-- Elements of one packet: at most 4,096, and at most 4,096 data bytes (R342, R372). -/
def perPacket (fmt : Nat) : Nat := min 4096 (4096 / max 1 (unitBytes fmt).1)

/-- Element runs without a gap. -/
def runsGap : List (Nat × W32) → List (Nat × List W32)
  | [] => []
  | (e, v) :: t =>
    match runsGap t with
    | (f, vs) :: r => if f = e + 1 then (e, v :: vs) :: r else (e, [v]) :: (f, vs) :: r
    | [] => [(e, [v])]

/-- Packets that carry some elements to a rank. -/
def collPackets (rank : Nat) (node : Bool) (level index fmt : Nat) (vs : List (Nat × W32)) : List CollOut :=
  (runsGap vs).flatMap fun r =>
    let n := perPacket fmt
    (List.range (ceilDiv r.2.length n)).map fun (k : Nat) =>
      { rank, node, level, index, first := r.1 + k * n, vals := (r.2.drop (k * n)).take n }

/-- Format of the data a packet carries: a node's, or the output's. -/
def Cmd.collFmt (c : Cmd) (node : Bool) : Nat :=
  if node then c.nodeFmt else (((outputsOf c).head?.bind c.ten?).map (·.fmt.val)).getD 0

/-- Bytes of an element's pattern on a link: those of a scalar; of a block format, the element and its scale. -/
def patternBytes (fmt : Nat) : Nat := if isBlock fmt then 1 + (unitBytes fmt).2 else (unitBytes fmt).1

/-- Body of a COLL packet: ADDR, OPF (R372), data. -/
def CollOut.body (o : CollOut) (c : Cmd) : List Byte :=
  let fmt := c.collFmt o.node
  le 8 o.first ++ le 4 c.rid.toNat ++
    [if o.node then 0 else 1, BitVec.ofNat 8 o.level, BitVec.ofNat 8 fmt, 0] ++ le 4 o.index ++ le 2 o.vals.length ++ le 2 c.rank ++
    o.vals.flatMap fun v => le (patternBytes fmt) v.toNat

/-- Change a collective. -/
def State.modColl (s : State) (cid : Nat) (f : Coll → Coll) : State :=
  { s with cle := { s.cle with colls := s.cle.colls.map fun k => if k.cid = cid then f k else k } }

def State.coll? (s : State) (cid : Nat) : Option Coll := s.cle.colls.find? fun k => k.cid == cid

/-- Let go the packets a collective owes, in order, while routes take them (R374). -/
def State.sendColl (s : State) (c : Cmd) : List CollOut → State × List CollOut
  | [] => (s, [])
  | o :: t =>
    match (c.kb.members[o.rank]? : Option Member) with
    | none => s.sendColl c t
    | some m =>
      let (s', ok) := s.trySend ptColl c.prio m.ident m.ctx m.gen (if c.fixed then 0 else BitVec.ofNat 32 c.attempt) (o.body c) c.cid
      if ok then ((s'.count offCleTx 0 (o.vals.length * patternBytes (c.collFmt o.node))).modCmd c.cid fun d => { d with issuing := true }).sendColl c t
      else
        let (s'', rest) := s.sendColl c t
        (s'', o :: rest)

/-- DETAIL of an end under R378 or R379. -/
def collDetail (rank cause status : Nat) : W64 := BitVec.ofNat 64 (rank % 2 ^ 16 * 2 ^ 48 + cause % 16 * 2 ^ 44 + status)

/-- A collective ends by an ABORT or a failure, and is counted. -/
def State.endColl (s : State) (cid : Nat) (status : W16) (detail : W64) : State :=
  match s.cmd? cid with
  | none => s
  | some c => (s.count offCleAbort 0 1).failCmd c status detail

/-- The first rank to which a packet that waits has no route. -/
def State.lostRank (s : State) (c : Cmd) (out : List CollOut) : Option Nat :=
  (out.find? fun o => (c.kb.members[o.rank]? : Option Member).any fun m => s.routeDown m.ident).map (·.rank)

/-- Inside a window CLE grants the packets that wait. One whose route is down is lost, and ends its collective (R334, R379). -/
def State.cleSend (s : State) : State :=
  if !s.tick.window then s
  else s.cle.colls.foldl (fun s k =>
    match s.cmd? k.cid with
    | none => s
    | some c => if s.stopping k.cid then s else match s.lostRank c k.out with
      | some r => s.endColl k.cid stFaultUnresolved (collDetail r 4 0)
      | none =>
        let (s, rest) := s.sendColl c k.out
        s.modColl k.cid fun x => { x with out := rest }) s

/-! ### Nodes (R72, R365) -/

/-- Combine two node patterns in NODE_FMT. -/
def Cmd.nodeSum (c : Cmd) (a b : W32) : W32 :=
  let v (w : W32) : Val := decodeScalar c.nodeFmt c.tag w.toNat
  BitVec.ofNat 32 (toScalar c.nodeFmt .nearest (nodeAdd c.tag c.nodeFmt (v a) (v b))).1

/-- Take in values of a node for elements of one shard: what they complete is formed, sent on, or kept as roots. A second
copy of a value is discarded. -/
def Cmd.putNode (c : Cmd) (s : Nat) : Nat → Nat → Nat → List (Nat × W32) → Coll → Coll
  | 0, _, _, _, k => k
  | fuel + 1, l, i, vs, k =>
    let ms := c.kb.members
    let fresh := vs.filter fun x => !(k.nodes.any fun n => n.level == l && n.index == i && n.elem == x.1)
    if fresh.isEmpty then k
    else
      let k := { k with nodes := k.nodes ++ fresh.map fun x => { level := l, index := i, elem := x.1, val := x.2 } }
      if l = clog2 c.slots then
        if s = c.rank then { k with roots := k.roots ++ fresh }
        else { k with out := k.out ++ collPackets s true l i c.nodeFmt fresh }
      else if i % 2 = 0 ∧ c.slots ≤ (i + 1) * 2 ^ l then c.putNode s fuel (l + 1) (i / 2) fresh k
      else
        let rp := repOf ms c.slots s (l + 1) (i / 2)
        if rp ≠ c.rank then
          (if repOf ms c.slots s l i = c.rank then { k with out := k.out ++ collPackets rp true l i c.nodeFmt fresh } else k)
        else
          let sib := if i % 2 = 0 then i + 1 else i - 1
          let both := fresh.filterMap fun x =>
            (k.nodes.find? fun n => n.level == l && n.index == sib && n.elem == x.1).map fun n =>
              (x.1, if i % 2 = 0 then c.nodeSum x.2 n.val else c.nodeSum n.val x.2)
          c.putNode s fuel (l + 1) (i / 2) both k

/-- Take in values of a node, shard by shard. -/
def Cmd.putNodes (c : Cmd) (l i : Nat) (vs : List (Nat × W32)) (k : Coll) : Coll :=
  (List.range c.kb.members.length).foldl (fun k s =>
    let b := shardBase c.kb.members s
    let mine := vs.filter fun x => decide (b ≤ x.1) && decide (x.1 < b + shardLenOf c.kb.members s)
    if mine.isEmpty then k else c.putNode s 64 l i mine k) k

/-! ### Outputs -/

/-- The output tensor's index, and its descriptor. -/
def Cmd.collOut (c : Cmd) : Option (Nat × TenD) := (outputsOf c).head?.bind fun k => (c.ten? k).map fun t => (k, t)

def Cmd.reduceScatters (c : Cmd) : Bool := opCode c.op == 0x0700
def Cmd.allReduces (c : Cmd) : Bool := opCode c.op == 0x0702
def Cmd.permutes (c : Cmd) : Bool := opCode c.op == 0x0704
def Cmd.inplace (c : Cmd) : Bool := c.permutes && bitOf (c.opb 0) 1

/-- Elements of the collective that a rank's output holds. -/
def Cmd.outElems (c : Cmd) : List Nat :=
  let from_ (ms : List Member) : List Nat := (List.range (shardLenOf ms c.rank)).map (shardBase ms c.rank + ·)
  if c.reduceScatters then from_ c.kb.members
  else if c.permutes then
    let old := from_ c.kb.members
    if c.inplace then (from_ c.kb.newMembers).filter fun e => !old.contains e else from_ c.kb.newMembers
  else List.range (collElems c)

/-- Place of an element in the output tensor. -/
def Cmd.outPos (c : Cmd) (e : Nat) : Nat :=
  if c.reduceScatters then e - shardBase c.kb.members c.rank
  else if c.permutes && !c.inplace then e - shardBase c.kb.newMembers c.rank
  else e

/-- First byte of a buffer descriptor. -/
def Cmd.bufVa (c : Cmd) (k : Nat) : Nat := ((c.kb.bufs[k]? : Option BufD).map (·.va)).getD 0

/-- A byte of the command's memory as its staged writes leave it. -/
def State.stagedByte (s : State) (c : Cmd) (staged : List Host.Cell) (va : Nat) : Byte :=
  match staged.reverse.find? fun x => x.1 == va with
  | some x => x.2
  | none => s.ctxByte c.ctx va

/-- Cells that write an element's pattern into the output. -/
def State.elemCells (s : State) (c : Cmd) (staged : List Host.Cell) (e : Nat) (v : W32) : List Host.Cell :=
  match c.collOut with
  | none => []
  | some (k, t) =>
    let fmt := t.fmt.val
    let n := c.outPos e
    let base := c.bufVa k
    let (eb, sb) := unitBytes fmt
    if isBlock fmt then
      let (u, p) := unitOf fmt t.cols n
      let plane := base + unitsOf fmt t.rows t.cols * eb + u * sb
      let a := base + u * eb + (if fmt = fQ4 then p / 2 else p)
      let old := (s.stagedByte c staged a).toNat
      let b := if fmt = fQ4 then (if p % 2 = 0 then old / 16 * 16 + v.toNat % 16 else v.toNat % 16 * 16 + old % 16) else v.toNat
      (a, BitVec.ofNat 8 b) :: cellsAt plane (le sb (v.toNat / 256))
    else cellsAt (base + n * eb) (le eb v.toNat)

/-- Pattern of an element of the output, from bytes at an address. -/
def State.elemPattern (s : State) (c : Cmd) (staged : List Host.Cell) (t : TenD) (base n : Nat) : W32 :=
  let fmt := t.fmt.val
  let (eb, sb) := unitBytes fmt
  let rd (a k : Nat) : Nat := ofLe ((List.range k).map fun (j : Nat) => s.stagedByte c staged (a + j))
  if isBlock fmt then
    let (u, p) := unitOf fmt t.cols n
    let b := rd (base + u * eb + (if fmt = fQ4 then p / 2 else p)) 1
    let b := if fmt = fQ4 then (if p % 2 = 0 then b % 16 else b / 16) else b
    BitVec.ofNat 32 (b + 256 * rd (base + unitsOf fmt t.rows t.cols * eb + u * sb) sb)
  else BitVec.ofNat 32 (rd (base + n * eb) eb)

/-- Elements PROGRESS counts in units: those of the output; of a permutation, those the rank receives (R363). -/
def Cmd.progElems (c : Cmd) : List Nat :=
  if c.permutes then
    let b := shardBase c.kb.members c.rank
    c.outElems.filter fun e => !(decide (b ≤ e) && decide (e < b + shardLenOf c.kb.members c.rank))
  else c.outElems

/-- PROGRESS of a collective: units of 65,536 elements all of which have been written (R363). -/
def Cmd.collUnits (c : Cmd) (written : List Nat) : List Nat :=
  (List.range (ceilDiv c.progElems.length 65536)).filter fun u => ((c.progElems.drop (u * 65536)).take 65536).all written.contains

/-- Elements of the output have been written. -/
def State.noteWritten (s : State) (c : Cmd) (es : List Nat) : State :=
  let s := s.modColl c.cid fun k => { k with written := k.written ++ es.filter fun e => !k.written.contains e }
  match s.coll? c.cid with
  | none => s
  | some k => s.modCmd c.cid fun d => { d with done := c.collUnits k.written }

/-- Write element patterns: into the shadow of a killable collective, in place for a FIXED one (R377). -/
def State.writeElems (s : State) (cid : Nat) (vs : List (Nat × W32)) : State :=
  match s.cmd? cid with
  | none => s
  | some c =>
    let vs := vs.filter fun x => c.outElems.contains x.1
    let s :=
      if c.fixed then vs.foldl (fun s x => s.writeCells c.ctx (s.elemCells c [] x.1 x.2)) s
      else
        let staged := vs.foldl (fun st x => st ++ s.elemCells c st x.1 x.2) c.staged
        s.modCmd cid fun d => { d with staged }
    s.noteWritten c (vs.map (·.1))

/-! ### Conversion of roots (R366, R367, R369, R380) -/

/-- Roots a rank can convert now: all of its shard for a killable collective; for a FIXED one, those not yet written whose
storage units are complete. -/
def Cmd.convertible (c : Cmd) (k : Coll) (t : TenD) : List (Nat × W32) :=
  let mine := shardLenOf c.kb.members c.rank
  if !c.fixed then (if k.roots.length = mine then k.roots else [])
  else
    let have_ (e : Nat) : Bool := k.roots.any fun r => r.1 == e
    let base := shardBase c.kb.members c.rank
    k.roots.filter fun r => !k.written.contains r.1 &&
      (unitElems t.fmt.val t.rows t.cols (unitOf t.fmt.val t.cols (c.outPos r.1)).1).all fun n =>
        let e := if c.reduceScatters then base + n else n
        have_ e || decide (e < base) || decide (base + mine ≤ e)

/-- The values of roots as an output of the command. -/
def Cmd.rootVals (c : Cmd) (ti : Nat) (t : TenD) (rs : List (Nat × W32)) : OutVals :=
  { ten := ti, vals := ((List.range t.count).map fun (n : Nat) =>
      (rs.find? fun r => c.outPos r.1 == n).map fun r => exactly (decodeScalar c.nodeFmt c.tag r.2.toNat)).toArray }

/-- Send converted elements of an all-reduce to every other rank. -/
def State.shareRoots (s : State) (c : Cmd) (staged : List Host.Cell) (es : List Nat) : State :=
  match c.collOut with
  | none => s
  | some (ti, t) =>
    let vs := es.map fun e => (e, s.elemPattern c staged t (c.bufVa ti) (c.outPos e))
    s.modColl c.cid fun k => { k with out := k.out ++ (((List.range (collP c)).filter (· != c.rank)).flatMap fun r =>
      collPackets r false 0 0 t.fmt.val vs) }

/-- Convert the roots that are ready. A killable collective whose conversion overflows waits for its replay. -/
def State.convertRoots (s : State) (cid : Nat) : State :=
  match s.cmd? cid, s.coll? cid with
  | some c, some k =>
    match c.collOut with
    | none => s
    | some (ti, t) =>
      let rs := if collReduces c.op then (c.convertible k t).filter fun r => !k.written.contains r.1 else []
      if rs.isEmpty then s
      else
        let es := rs.map (·.1)
        if c.fixed then
          let s := (s.landFixed c [c.rootVals ti t rs]).noteWritten c es
          if c.allReduces then s.shareRoots c [] es else s
        else
          let s := s.stageVals cid c.staged [c.rootVals ti t rs]
          match s.cmd? cid with
          | none => s
          | some d =>
            if !d.replays.isEmpty then s.modCmd cid fun d => { d with staged := c.staged }
            else
              let s := s.noteWritten d es
              if c.allReduces then s.shareRoots d d.staged es else s
  | _, _ => s

/-! ### Issue (R367-R371, R375, R378) -/

/-- A collective of a context by RID. -/
def State.collBy? (s : State) (x : CtxId) (rid : W32) : Option Coll := s.cle.colls.find? fun k => decide (k.ctx = x) && k.rid == rid

/-- Next positions of the multicast tree, as ranks (R370). -/
def Cmd.mcastNext (c : Cmd) : List Nat :=
  let p := collP c
  let leader := leAt c.kb.op 0x20 2
  let q := (c.rank + p - leader) % max 1 p
  ([2 * q + 1, 2 * q + 2].filter fun j => decide (j < p)).map fun j => (leader + j) % p

/-- A node packet is taken in. -/
def State.takeNode (s : State) (cid : Nat) (l i first : Nat) (vals : List W32) : State :=
  match s.cmd? cid with
  | none => s
  | some c =>
    let vs := ((List.range vals.length).zip vals).map fun x => (first + x.1, x.2)
    let dup := match s.coll? cid with
      | some k => vs.all fun x => k.nodes.any fun n => n.level == l && n.index == i && n.elem == x.1
      | none => false
    let s := if dup then s.count offCleDup 0 1 else s
    (s.modColl cid fun k => { (c.putNodes l i vs k) with waited := 0 }).convertRoots cid

/-- A data packet is taken in: written, and in a multicast passed on. Its elements come as converted bits of another rank, whose
command has recorded their NaNs; this module records none of them, of which R43 says nothing. DESIGN CHOICE. -/
def State.takeData (s : State) (cid : Nat) (first : Nat) (vals : List W32) : State :=
  match s.cmd? cid with
  | none => s
  | some c =>
    let vs := ((List.range vals.length).zip vals).map fun x => (first + x.1, x.2)
    let s := s.writeElems cid vs
    s.modColl cid fun k =>
      let more : List CollOut := if opCode c.op = 0x0703 then c.mcastNext.flatMap (fun r => collPackets r false 0 0 (c.collFmt false) vs) else []
      { k with waited := 0, out := k.out ++ more }

/-- A packet of a collective, node or data, is taken in; with its first packet the command is issuing (R311). -/
def State.takePacket (s : State) (cid : Nat) (node : Bool) (level index first : Nat) (vals : List W32) : State :=
  let s := s.modCmd cid fun d => { d with issuing := true }
  if node then s.takeNode cid level index first vals else s.takeData cid first vals

/-- The collective has ended its work on this rank: every output element written, every packet it owed on its way. -/
def State.collDone (s : State) (c : Cmd) : Bool :=
  match s.coll? c.cid with
  | none => true
  | some k => c.outElems.all k.written.contains && k.out.isEmpty && !s.fab.held.any fun h => h.cid == c.cid

/-- The version check of a gather or multicast (R392): at issue and at its commit, when GLB_PV_CTL.CHECK is 1. The answer is the
DETAIL of R394 where it fails; where it passes, the gather record is made. -/
def State.pvCheck (s : State) (c : Cmd) (atCommit : Bool) : State × Option W64 :=
  let p := s.pv c.ctx
  let t := c.kb.step
  let detail (cause : Nat) : W64 :=
    BitVec.ofNat 64 (p.step.toNat * 2 ^ 32 + cause * 2 ^ 28 + bitAt atCommit 27 + p.epoch.toNat % 2 ^ 27)
  if !(opCode c.op == 0x0701 || opCode c.op == 0x0703) || !p.check then (s, none)
  else if p.step ≠ t then (s, some (detail 1))
  else if p.lvalid ∧ p.lstep = t ∧ p.lepoch ≠ p.epoch then (s, some (detail 2))
  else if !p.lvalid ∨ p.lstep ≠ t then (s.modPv c.ctx fun q => { q with lstep := t, lepoch := q.epoch, lvalid := true }, none)
  else (s, none)

/-- A collective whose version check fails ends; its ABORT ends the other ranks (R392). -/
def State.endSkew (s : State) (c : Cmd) (detail : W64) : State :=
  (s.count offSkew c.ctx.val 1).failCmd c stVersionSkew detail

/-- CLE starts an issued collective: its nodes or its shard go their way, and what came early is taken in. An ABORT that came
for its RID within 16 ticks ends it. -/
def State.startColl (s : State) (cid : Nat) : State :=
  match s.cmd? cid with
  | none => s
  | some c =>
   match s.pvCheck c false with
   | (s, some d) => s.endSkew c d
   | (s, none) =>
    match s.cle.aborts.find? fun a => decide (a.1 = (c.ctx, c.rid)) && decide (s.tick.now ≤ a.2.2.2 + 16) with
    | some a => s.endColl cid stKilled (collDetail a.2.1.toNat 0 a.2.2.1.toNat)
    | none =>
      let s := s.nameRecords c
      let s := if c.fixed then (s.takeFrames c.ctx ((c.ranges.filter (·.w)).map fun b => (b.va, b.len))).1 else s
      let new : Coll := { cid, ctx := c.ctx, rid := c.rid, rank := c.rank }
      let s : State := { s with cle := { s.cle with colls := s.cle.colls ++ [new] } }
      let ms := c.kb.members
      let base := shardBase ms c.rank
      let patt (ti : Nat) (t : TenD) (n : Nat) : W32 := s.elemPattern c [] t (c.bufVa ti) n
      let shard (ti : Nat) : List (Nat × W32) := match c.ten? ti with
        | none => []
        | some t => (List.range (shardLenOf ms c.rank)).map fun (n : Nat) => (base + n, patt ti t (if c.inplace then base + n else n))
      let s : State := match c.op with
        | .collAllGather .. =>
          let vs := shard 0
          let out := ((List.range ms.length).filter (· != c.rank)).flatMap fun r => collPackets r false 0 0 (c.collFmt false) vs
          (s.writeElems cid vs).modColl cid fun k => { k with out }
        | .collMulticast .. =>
          if c.rank = leAt c.kb.op 0x20 2 then
            (match c.ten? 1 with
             | none => s
             | some t => s.takeData cid 0 ((List.range (collElems c)).map fun (n : Nat) => patt 1 t n))
          else s
        | .collPermute .. =>
          let vs := shard 0
          let dest (e : Nat) : Nat := ownerOf c.kb.newMembers e
          let s := if c.inplace then s else s.writeElems cid (vs.filter fun x => dest x.1 == c.rank)
          let out := ((List.range ms.length).filter (· != c.rank)).flatMap fun r =>
            collPackets r false 0 0 (c.collFmt false) (vs.filter fun x => dest x.1 == r)
          s.modColl cid fun k => { k with out }
        | _ =>
          let ns := match (ms[c.rank]? : Option Member) with
            | some me => rankNodes c.slots me
            | none => []
          let s := ((List.range ns.length).zip ns).foldl (fun (s : State) (x : Nat × Nat × Nat) => match c.ten? x.1 with
            | none => s
            | some t => s.modColl cid fun k => c.putNodes x.2.1 x.2.2 ((List.range (collElems c)).map fun (n : Nat) => (n, patt x.1 t n)) k) s
          s.convertRoots cid
      let mine := s.cle.early.filter fun e => decide (e.ctx = c.ctx) && e.rid == c.rid
      let s := s.dropEarly fun e => decide (e.ctx = c.ctx) && e.rid == c.rid
      let s := mine.foldl (fun s e => s.takePacket cid e.node e.level e.index e.first e.vals) s
      s.cleSend

/-- REPLAY_ISSUE of a collective (R380): the conversion of the roots it holds is made again. -/
def State.replayColl (s : State) (c : Cmd) (ten : Nat) : State :=
  if c.running && c.replays.any (fun r => r.1 == ten) then
    let s := s.modCmd c.cid fun d => { d with rescaled := true, replays := [], amax := [], nans := [], skip := false, charge := d.charge + Config.freeNat s.free }
    (({ s with free := s.free + 1 }).convertRoots c.cid).cleSend
  else s

/-- REPLAY_ISSUE (R131, R380). -/
def execReplayIssue (cid ten : Nat) (s : State) : Host.Outcome State Fault Refusal :=
  .next (State.placeAll (match s.cmd? cid with
    | none => s
    | some c => if isColl (opCode c.op) then s.replayColl c ten else s.replayIssue cid ten))

/-- The job table of a context becomes the collective's table (R360). -/
def State.recordJob (s : State) (c : Cmd) : State :=
  if bitOf (c.opb 0) 0 then { s with cle := { s.cle with jobTables := (c.ctx, c.kb.members) :: s.cle.jobTables.filter fun t => decide (t.1 ≠ c.ctx) } }
  else s

/-- A collective commits, or a FIXED one ends. -/
def State.commitColl (s : State) (c : Cmd) (used : Nat) : State :=
  if s.collDone c && c.replays.isEmpty then
   match s.pvCheck c true with
   | (s, some d) => s.endSkew c d
   | (s, none) =>
    let s := s.recordJob c
    if c.fixed then s.endCmd c .committed stOk 0 (some used)
    else
      let (st, d) := s.commitStatus c
      if s.mergeBad c then s.endCmd c .killed stUncorrectable 0 (some used) else (s.applyCommit c).endCmd c .committed st d (some used)
  else s

/-! ### ABORT and failures (R378, R379) -/

/-- A rank's collectives and fence reductions that a lost member takes part in end (R379); what came for such a reduction is void. -/
def State.memberLost (s : State) (ident : W16) (cause : Nat) : State :=
  let rankIn (ms : List Member) : Option Nat := (List.range ms.length).find? fun r => match (ms[r]? : Option Member) with
    | some m => m.ident == ident
    | none => false
  let s := s.cle.colls.foldl (fun s k => match s.cmd? k.cid with
    | none => s
    | some c => match rankIn c.kb.members with
      | some r => s.endColl k.cid stFaultUnresolved (collDetail r cause 0)
      | none => s) s
  let hurt (x : CtxId) : Bool := (rankIn (assocD s.cle.jobTables x [])).isSome
  let s := { s with cle := { s.cle with earlyScalars := s.cle.earlyScalars.filter fun e => !hurt e.ctx } }
  s.cle.fences.foldl (fun s f => match rankIn (assocD s.cle.jobTables f.ctx []) with
    | some r => s.failCid f.cid stFaultUnresolved (collDetail r cause 0)
    | none => s) s

/-- COLL_TIMEOUT (R379): 128 ticks of window time have passed since the last packet of a collective or fence reduction that waits. -/
def State.collTimeout (s : State) (cid : Nat) (rank : W16) : State :=
  match s.cmd? cid with
  | none => s
  | some c =>
    match s.coll? cid with
    | some k => if 128 * 16 ≤ k.waited ∧ !(c.outElems.all k.written.contains) then
        s.endColl cid stFaultUnresolved (collDetail rank.toNat 5 0) else s
    | none => if s.cle.fences.any fun f => f.cid == cid && decide (128 * 16 ≤ f.waited) then s.failCmd c stFaultUnresolved (collDetail rank.toNat 5 0) else s

def execCollTimeout (cid : Nat) (rank : W16) (s : State) : Host.Outcome State Fault Refusal := .next (State.placeAll (s.collTimeout cid rank))

/-- An ABORT reaches this module: it ends the collective it names, or is kept for 16 ticks. -/
def State.takeAbort (s : State) (x : CtxId) (rid : W32) (rank status : W16) : State :=
  match s.collBy? x rid with
  | some k => s.endColl k.cid stKilled (collDetail rank.toNat 0 status.toNat)
  | none => { s with cle := { s.cle with aborts := ((x, rid), rank, status, s.tick.now) :: s.cle.aborts.filter fun a => decide (s.tick.now ≤ a.2.2.2 + 16) } }

/-! ### Windows (R352, R374) -/

/-- Windows of a tick with a length, in order of START. -/
def Tick.windows (t : Tick) : List Nat :=
  let a := if t.len0 = 0 then [] else [(t.start0, t.len0)]
  let b := if t.len1 = 0 then [] else [(t.start1, t.len1)]
  (sortBy (·.1) (a ++ b)).map (·.2)

/-- COLLECTIVE_WINDOW_OPEN (R374). -/
def execCollectiveWindowOpen (s : State) : Host.Outcome State Fault Refusal :=
  .next (State.placeAll (if s.tick.window ∨ s.tick.windows.length ≤ s.tick.winNo then s
    else
      let s := { s with tick := { s.tick with window := true, winNo := s.tick.winNo + 1 } }
      (allLinks.foldl (fun s l => s.pump l) s).cleSend))

/-- Collectives that wait for packets of other ranks. -/
def State.collWaits (s : State) (k : Coll) : Bool :=
  match s.cmd? k.cid with
  | some c => !(c.outElems.all k.written.contains)
  | none => false

/-- A window closes; its length counts for every collective that waits (R379, R381). -/
def State.closeWindow (s : State) : State :=
  if !s.tick.window then s
  else
    let n := (s.tick.windows[s.tick.winNo - 1]?).getD 0
    let s := s.count offCleWait 0 (n * (s.cle.colls.filter s.collWaits).length)
    { s with tick := { s.tick with window := false }
             cle := { s.cle with colls := s.cle.colls.map (fun (k : Coll) => { k with waited := k.waited + n })
                                 fences := s.cle.fences.map fun (f : FenceRed) => { f with waited := f.waited + n } } }

/-- COLLECTIVE_WINDOW_CLOSE (R374). -/
def execCollectiveWindowClose (s : State) : Host.Outcome State Fault Refusal := .next s.closeWindow

/-! ### The step fence (R55, R129, R327, R376) -/

/-- E for the next step (R55). -/
def nextExp (r : ScaleRec) (q : Recipe) : Int :=
  let a := ((List.range (min q.histLen r.hcount)).map fun (j : Nat) => (r.hist.getD ((r.hhead + 16 - j) % 16) 0).toNat).foldl max 0
  let fit (v : Rat) : Int :=
    let f := (fmtOf q.format.val).maxF
    ((List.range 254).map fun (n : Nat) => (n : Int) - 126).find? (fun e => decide (v * pow2 q.headroom ≤ f * pow2 e)) |>.getD 127
  let e : Int := if !r.seen then q.initExp else if a = 0 then r.exp
    else match decodeScalar fF32 0 a with
      | .fin v => fit v
      | _ => 127
  max (-126) (min 127 e)

/-- FRU updates one record as a step closes (R129): the newest entry stands at HHEAD, the first at index 0. -/
def ScaleRec.close (r : ScaleRec) (q : Option Recipe) (amax : W32) (step : W32) : ScaleRec :=
  let h := if r.hcount = 0 then r.hhead else (r.hhead + 1) % 16
  let r := { r with hist := r.hist.set h amax, hcount := min 16 (r.hcount + 1), hhead := h, seen := r.seen || amax != 0 }
  { r with exp := (q.map (nextExp r)).getD r.exp, step := step + 1, stepAmax := 0, deltas := [] }

/-- Every record of a context takes the reduced amax of its slot. -/
def Ctx.closeStep (x : Ctx) (step : W32) (amax : List (Nat × W32)) : Ctx :=
  let named := x.scales.map (·.1)
  let fresh := (amax.map (·.1)).eraseDups.filter fun k => !named.contains k && assocD amax k 0 != 0
  let upd (k : Nat) (r : ScaleRec) (a : W32) : Nat × ScaleRec := (k, r.close (x.recipes[r.kind]?) a step)
  { x with scales := (x.scales.map fun e => upd e.1 e.2 (assocD amax e.1 0)) ++ fresh.map fun k => upd k x.tmpl (assocD amax k 0)
           tmpl := { (x.tmpl.close none 0 step) with exp := x.tmpl.exp } }

/-- The fence's DETAIL when it commits: commands covered, and the job-wide flag. -/
def fenceDetail (n : Nat) (skip : Bool) : W64 := BitVec.ofNat 64 (sat32 n * 2 ^ 32 + bitAt skip 0)

/-- Commands that closed under a step, and the first admitted that did not commit. -/
def Ctx.stepRec (x : Ctx) (t : W32) : Nat × Option (Nat × W32 × W16) :=
  match x.steps.find? fun e => e.1 == t with
  | some (_, n, b) => (n, b)
  | none => (0, none)

/-- Steps 4 and 5 of R327. -/
def State.fenceCommit (s : State) (cid : Nat) (skip : Bool) (amax : List (Nat × W32)) : State :=
  match s.cmd? cid with
  | none => s
  | some c =>
    match c.op with
    | .stepFence t =>
      let n := ((s.ctx c.ctx).stepRec t).1
      let s := s.modCtx c.ctx fun x =>
        let x := x.closeStep t amax
        { x with skip := if skip then (if x.skip.contains t then x.skip else t :: x.skip) else x.skip.filter (· != t) }
      let s := { s with cle := { s.cle with fences := s.cle.fences.filter fun f => f.cid != cid } }
      let s := (s.retainOwn c.ctx).modPv c.ctx fun p => { p with step := t + 1, lvalid := false }
      let s := s.endCmd c .committed stOk (fenceDetail n skip)
      if (s.mirOf c.ctx).state = .none then s.guardBoundary c.ctx else s
    | _ => s

/-- The rank of this module in a job table. -/
def State.jobRank (s : State) (x : CtxId) : Option (Nat × List Member) :=
  match s.cle.jobTables.find? fun t => decide (t.1 = x) with
  | none => none
  | some (_, ms) => ((List.range ms.length).find? fun r => match (ms[r]? : Option Member) with
      | some m => m.ident == s.fab.ident
      | none => false).map fun r => (r, ms)

/-- Send the SCALAR of a fence to a rank; one whose route is down is lost, and ends the fence (R379). -/
def State.sendScalar (s : State) (f : FenceRed) (rank : Nat) (ms : List Member) (to_ : Nat) (up : Bool) : State :=
  match (ms[to_]? : Option Member) with
  | none => s
  | some m => if s.routeDown m.ident then s.failCid f.cid stFaultUnresolved (collDetail to_ 4 0) else (s.trySend ptColl 0 m.ident m.ctx m.gen 0
      (le 8 0 ++ le 4 f.step.toNat ++ [3, if up then 1 else 0, 0, 0] ++ le 4 (bitAt f.skip 0) ++ le 2 f.amax.length ++ le 2 rank ++
        (f.amax.flatMap fun a => le 2 a.1 ++ le 4 a.2.toNat)) f.cid).1

/-- Larger of two amax lists, slot by slot. -/
def joinAmax (a b : List (Nat × W32)) : List (Nat × W32) :=
  b.foldl (fun l x => assocSet l x.1 (f32Max (assocD l x.1 0) x.2)) a

/-- Ranks below a position of the rank tree. -/
def fenceKids (p q : Nat) : List Nat := [2 * q + 1, 2 * q + 2].filter fun j => decide (j < p)

/-- The result goes down from a rank, and its own fence commits. -/
def State.fenceDown (s : State) (f : FenceRed) (rank : Nat) (ms : List Member) : State :=
  let s := (fenceKids ms.length rank).foldl (fun s r => s.sendScalar f rank ms r false) s
  s.fenceCommit f.cid f.skip f.amax

/-- All children have reported: the sum goes up, or at rank 0 the result down. -/
def State.fenceUp (s : State) (f : FenceRed) (rank : Nat) (ms : List Member) : State :=
  if (fenceKids ms.length rank).all f.got.contains then
    (if rank = 0 then s.fenceDown f rank ms else s.sendScalar f rank ms ((rank - 1) / 2) true)
  else s

/-- A SCALAR for a fence's reduction. -/
def State.takeScalar (s : State) (x : CtxId) (step : W32) (from_ : Nat) (up skip : Bool) (amax : List (Nat × W32)) : State :=
  match s.cle.fences.find? fun f => decide (f.ctx = x) && f.step == step, s.jobRank x with
  | some f, some (rank, ms) =>
    if up then
      if f.got.contains from_ ∨ !(fenceKids ms.length rank).contains from_ then s
      else
        let f := { f with got := from_ :: f.got, waited := 0, skip := f.skip || skip, amax := joinAmax f.amax amax }
        let s := { s with cle := { s.cle with fences := s.cle.fences.map fun (g : FenceRed) => if g.cid = f.cid then f else g } }
        s.fenceUp f rank ms
    else s.fenceDown { f with skip, amax } rank ms
  | _, _ => { s with cle := { s.cle with earlyScalars := s.cle.earlyScalars ++ [{ ctx := x, step, sender := from_, up, skip, amax }] } }

/-- STEP_FENCE_CLOSE (R327): no command of the step is left; the fence ends KILLED, or the reductions start. -/
def State.fenceClose (s : State) (x : CtxId) (t : W32) : State :=
  match s.sched.cmds.find? fun c => decide (c.ctx = x) && c.running && (match c.op with
      | .stepFence u => u == t
      | _ => false) with
  | none => s
  | some c =>
    if (s.cmdsOf x).any (fun d => d.cid != c.cid && d.step? == some t && !opIsOpt d.op && !d.after.contains (x, t)) ||
        s.cle.fences.any (fun f => f.cid == c.cid) then s
    else
      match ((s.ctx x).stepRec t).2 with
      | some (_, q, st) => s.endCmd c .killed stKilled (causeDetail q st)
      | none =>
        let own := ((s.ctx x).scales.filter fun e => e.2.stepAmax != 0).map fun e => (e.1, e.2.stepAmax)
        let skip := (s.ctx x).skip.contains t
        match s.jobRank x with
        | none => s.fenceCommit c.cid skip own
        | some (rank, ms) =>
          let f : FenceRed := { cid := c.cid, ctx := x, step := t, skip, amax := own }
          let s := { s with cle := { s.cle with fences := s.cle.fences ++ [f] } }
          let s := s.fenceUp f rank ms
          let mine := s.cle.earlyScalars.filter fun e => decide (e.ctx = x) && e.step == t
          let s := { s with cle := { s.cle with earlyScalars := s.cle.earlyScalars.filter fun e => !(decide (e.ctx = x) && e.step == t) } }
          mine.foldl (fun s e => s.takeScalar x t e.sender e.up e.skip e.amax) s

def execStepFenceClose (ctx : CtxId) (step : W32) (s : State) : Host.Outcome State Fault Refusal := .next (State.placeAll (s.fenceClose ctx step))

end Sys2Proof.Machine
end

