-- ==== Sys2Proof/Machine/Links.lean ====
section
/-! DEFINITION. FAB: link states, lanes, flits, heartbeat, incarnations, the choice of a tick master, time transfer
(R335-R341, R349-R355). -/
namespace Sys2Proof.Machine

/-! ### Heartbeat state -/

def hbStarting : Fin 4 := 0
def hbSpare : Fin 4 := 1
def hbActive : Fin 4 := 2
def hbVigil : Fin 4 := 3

/-- Neighbour state of an HB_STATE code (R339). -/
def hbOf : Fin 4 → HbState
  | 0 => .starting
  | 1 => .spare
  | 2 => .active
  | 3 => .vigil

/-! ### ROUTE (R333) -/

/-- Identity seen on a torus link, in the order XP, XN, YP, YN, ZP, ZN. -/
def State.torusSeen (s : State) : List W16 := (List.range 6).map fun (k : Nat) => (s.link (Fin.ofNat 14 (8 + k))).nbrIdent

/-- The module broadcasts what it sees on its torus links over its W links; slot 8 enters its own row at once. -/
def State.broadcastRoute (s : State) : State :=
  let s := if s.fab.pslot = 8 then
      { s with fab := { s.fab with adoptOwn := if s.fab.ident = noIdent ∨ identW s.fab.ident = 8 then 15 else Fin.ofNat 16 (identW s.fab.ident)
                                   adopt := Vector.ofFn fun (k : Fin 6) =>
                                     let i := (s.link (Fin.ofNat 14 (8 + k.val))).nbrIdent
                                     if i = noIdent ∨ identW i = 8 then 15 else Fin.ofNat 16 (identW i) } }
    else s
  (s.upLinks.filter fun l => decide (l.val < 8)).foldl (fun s l =>
    s.sendOn l ptRoute 0 (s.link l).nbrIdent 0 0 0 (le 2 s.fab.ident.toNat ++ s.torusSeen.flatMap fun i => le 2 i.toNat) 0) s

/-- Identity conflict (R335): a flit of another module carries this module's assigned identity. -/
def State.checkConflict (s : State) : State :=
  let hit := decide (s.fab.ident ≠ noIdent) && allLinks.any fun l =>
    (s.link l).nbrIdent == s.fab.ident && ((s.link l).state == .align || (s.link l).usable)
  if hit && !s.fab.conflict then
    ({ s with fab := { s.fab with conflict := true } }).raise evIdentityConflict unitRas
  else if !hit then { s with fab := { s.fab with conflict := false } } else s

/-! ### The tick master (R349, R350) -/

/-- Key of a candidate: priority, identity, stratum, link code; a module itself stands before every link. -/
def masterKey (prio : Byte) (ident : W16) (stratum code : Nat) : Nat :=
  ((prio.toNat * 2 ^ 16 + ident.toNat) * 64 + stratum) * 16 + code

/-- What a module may follow: itself, and the advertisements of its neighbours. -/
def State.candidates (s : State) : List (Nat × Option LinkId × Byte × W16 × Nat) :=
  (if s.fab.ident ≠ noIdent ∧ s.tick.prio ≠ 255 then [(masterKey s.tick.prio s.fab.ident 0 0, none, s.tick.prio, s.fab.ident, 0)] else []) ++
    allLinks.filterMap fun l =>
      let k := s.link l
      match k.adv with
      | some (p, i, n) => if (k.state = .align ∨ k.state = .up) ∧ i ≠ noIdent ∧ n + 1 ≤ 31 then
          some (masterKey p i (n + 1) (l.val + 1), some l, p, i, n + 1) else none
      | none => none

/-- A module that loses its parent or gets a new master keeps ticking in HOLDOVER, if it had locked. -/
def Tick.holdover (t : Tick) : Tick :=
  if t.state = .locked ∨ t.state = .master then { t with state := .holdover, holdFrom := t.now, good := 0 } else { t with good := 0 }

/-- Choose the tick master and the parent. -/
def State.chooseMaster (s : State) : State :=
  let best := s.candidates.foldl (fun (b : Option (Nat × Option LinkId × Byte × W16 × Nat)) c => match b with
    | none => some c
    | some x => if c.1 < x.1 then some c else some x) none
  let t := s.tick
  match best with
  | none => { s with tick := { t.holdover with gmPrio := 0, gmIdent := noIdent, stratum := 0 } }
  | some (_, none, p, i, _) => { s with tick := { t with state := .master, gmPrio := p, gmIdent := i, stratum := 0, parent := 0, good := 0 } }
  | some (_, some l, p, i, n) =>
    let same := t.gmIdent == i && t.parent.val == l.val && t.state != .free && t.state != .master
    let t := if same then t else t.holdover
    let t := if t.state = .free ∨ t.state = .master then { t with state := .aligning } else t
    { s with tick := { t with gmPrio := p, gmIdent := i, stratum := n, parent := Fin.ofNat 16 l.val } }

/-- One exchange with the parent: an error of 1 µs is stepped before the module is in use; 64 exchanges within 4 ns lock. -/
def State.timeTransfer (s : State) (l : LinkId) (offset : Int) : State :=
  if s.tick.state = .master ∨ s.tick.state = .free ∨ s.tick.parent.val ≠ l.val then s
  else
    let t := s.tick
    let step := decide (16000 ≤ offset.natAbs) && (s.boot.hb == hbStarting || s.boot.hb == hbSpare)
    let good := if offset.natAbs ≤ 64 then t.good + 1 else 0
    { s with tick := { t with offset := BitVec.ofInt 32 offset, good, time := if step then t.time + BitVec.ofInt 64 offset else t.time,
                              state := if 64 ≤ good then .locked else t.state } }

/-- HOLDOVER_ALARM (R350). -/
def execHoldoverAlarm (s : State) : Host.Outcome State Fault Refusal :=
  .next (if s.tick.state = .holdover ∧ s.usTicks 100000 ≤ s.tick.now - s.tick.holdFrom then s.raise evTickHoldover unitRas else s)

/-! ### A neighbour fails (R19, R213, R341, R354, R357) -/

/-- A packet came over a link, waits to leave on it, or is bound for the neighbour on it. -/
def Held.onLink (h : Held) (l : LinkId) (nbr : W16) : Bool := h.from? == some l || decide (h.out = l) || (h.dst == nbr && nbr != noIdent)

/-- Packets of a link are dropped, and those bound for its neighbour where one is named; sources of forwarded ones get a LOST notice,
and commands of this module end. -/
def State.dropLink (s : State) (l : LinkId) (nbr : W16) : State :=
  let gone := s.fab.held.filter fun h => h.onLink l nbr
  let s := { s with fab := { s.fab with held := s.fab.held.filter fun h => !h.onLink l nbr }
                    cle := { s.cle with early := s.cle.early.filter fun e => decide (e.link ≠ l) } }
  gone.foldl (fun s h =>
    let s := if h.from? = some l then s else s.giveBack h.from? h.vc h.slots
    if h.cid ≠ 0 then s.lostOwn h.cid 4
    else if h.from?.isSome && h.typ != ptLost then s.send ptLost h.src h.ctx h.gen (le 4 h.attempt.toNat ++ [4])
    else s) s

/-- RAS fences the contexts whose job holds a failed member, and GSC kills their uncommitted commands (R19). What other modules
still send to them meets the fence and returns ST_CTX_FENCED (R256). -/
def State.killAffected (s : State) (ident : W16) : State :=
  (s.cle.jobTables.filter fun t => t.2.any fun m => m.ident == ident).foldl (fun s t =>
    (s.modCtx t.1 fun x => if x.state = .active then { x with state := .fenced } else x).endAll
      ((s.cmdsOf t.1).filter Cmd.isKillable) fun _ => (.killed, stKilled, 0)) s

/-- MIR and membership take note of a failed member: the first declaration opens the incident (R411). A sync that it met is void, so
what parity rows took in of it goes (R428): the rows are free to combine what the survivors send. -/
def State.noteFailed (s : State) (ident : W16) : State :=
  let x := s.mir.settle
  if ident = noIdent ∨ x.failed.contains ident then s
  else { s with mir := { s.mir with settle := { x with failed := x.failed ++ [ident], since := x.since.orElse fun _ => some s.tick.now }
                                    held := if x.since.isSome then s.mir.held else s.mir.held.map fun (h : HeldCopy) => if h.parity then { h with shadow := none } else h } }

/-- A sled peer is gone: what it lent is lost, what it borrowed is freed. -/
def State.peerGone (s : State) (ident : W16) : State :=
  if ident = noIdent ∨ !sameSled ident s.sledIdent then s
  else match peerW ident with
    | some w => ((s.lenderLost w).holderLost w).freeLent fun x => decide (x.peer = w)
    | none => s

/-- Teardown notices on a link leave the count (R357). -/
def State.dropAwait (s : State) (l : LinkId) : State :=
  allCtx.foldl (fun s c => if (s.ctx c).awaitAck.contains l then
    s.modCtx c fun x => { x with awaitAck := x.awaitAck.filter (· != l) } else s) s

/-- FAB signals RAS, GSC, MIR, TMU and CTX that a neighbour has failed. -/
def State.neighbourFailed (s : State) (l : LinkId) : State :=
  let ident := (s.link l).nbrIdent
  let s := (s.raiseRoot evNeighbourFailed (unitLink l) none [ident.setWidth 32]).dropAwait l
  let s := (s.dropLink l ident).memberLost ident 4
  ((s.killAffected ident).peerGone ident).noteFailed ident

/-- A link ends its life: nothing of it stays. -/
def Link.restart (k : Link) (st : LinkState) : Link :=
  { state := st, nbrIdent := k.nbrIdent, nbrSlot := k.nbrSlot, nbrInc := k.nbrInc, nstate := k.nstate, nreason := k.nreason, laneOk := k.laneOk,
    misses := k.misses, keyUpdates := k.keyUpdates }

/-- After a link leaves ALIGN or UP the parent may have to change. -/
def State.linkDown (s : State) (l : LinkId) (st : LinkState) : State :=
  ((s.modLink l fun k => { (k.restart st) with lanes := if st = .down then 0 else k.lanes }).dropAwait l).chooseMaster

/-- The neighbour's incarnation has changed (R341): its packets go without credits and are counted as dropped (R356), the
link retrains, and the neighbour counts as failed unless it did already. -/
def State.incarnationChange (s : State) (l : LinkId) (inc : W32) : State :=
  let was := (s.link l).state
  let gone := (s.fab.held.filter fun h => h.from? == some l).length + (s.cle.early.filter fun e => decide (e.link = l)).length
  let s := if gone = 0 then s else s.count offFabDrop l.val gone
  let s := { s with fab := { s.fab with held := s.fab.held.filter fun h => h.from? != some l }
                    cle := { s.cle with early := s.cle.early.filter fun e => decide (e.link ≠ l) } }
  let s := s.modLink l fun k => { (k.restart .train) with nbrInc := inc, misses := 0 }
  let s := if was = .failed then s else s.neighbourFailed l
  s.chooseMaster

/-- HEARTBEAT_MISS (R354): the acknowledgment of the current tick has not come. At the third miss the neighbour has failed. -/
def State.heartbeatMiss (s : State) (l : LinkId) : State :=
  let k := s.link l
  let counts := (k.state == .up && k.awaiting.isSome) || k.state == .reconfig || (k.state == .down && k.nbrInc != 0)
  if !counts then s
  else
    let n := k.misses + 1
    let s := s.modLink l fun k => { k with misses := min 3 n, awaiting := none }
    if n < 3 then s
    else
      let s := s.modLink l fun k => { (k.restart .failed) with misses := 3, lanes := k.lanes }
      (s.neighbourFailed l).chooseMaster


/-! ### Flits (R339, R340) -/

/-- A sequence number stands at or before another, mod 2^16. -/
def seqLe (a b : W16) : Bool := decide ((b - a).toNat < 2 ^ 15)

/-- What ACKSEQ and NAK do to the replay buffer. -/
def State.ackFlits (s : State) (l : LinkId) (f : Flit) : State :=
  let s := s.modLink l fun k =>
    { k with replay := k.replay.filter (fun q => !seqLe q f.ackseq), replaying := k.replaying.filter fun q => !seqLe q f.ackseq }
  if f.nak then
    (s.modLink l fun k => { k with replaying := k.replay }).count offReplay l.val 1
  else s

/-- Credits come back (R344). -/
def Link.credit (k : Link) (cs : List Nat) : Link :=
  { k with credits := Vector.ofFn fun (v : Fin 6) => k.credits[v] + cs.getD v.val 0 }

/-- BEAT and ACK (R353, R355). Before a device reset no BEAT is answered (R442). -/
def State.beat (s : State) (l : LinkId) (f : Flit) : State :=
  let s := if f.beat && !s.ras.resetting then s.modLink l fun k => { k with ackDue := some f.hbTick } else s
  if !f.ack then s
  else
    let k := s.link l
    let s := if k.awaiting = some f.hbTick then s.modLink l fun k => { k with misses := 0, awaiting := none } else s
    if hbOf f.hbState = .vigil ∧ !k.vigilSeen then
      let s := (s.raiseRoot evNeighbourVigil (unitLink l) none [k.nbrIdent.setWidth 32, f.hbReason.setWidth 32]).modLink l fun k => { k with vigilSeen := true }
      let id := (s.link l).nbrIdent
      (((s.memberLost id 4).killAffected id).noteFailed id).peerGone id
    else s

/-- SPARE_OP (R338): a request is answered with GO at the next spare lane; both sides switch 256 flits after the GO flit. -/
def State.spareOp (s : State) (l : LinkId) (f : Flit) : State :=
  if f.spareGo then s.modLink l fun k => { k with swap := some (f.spareLane.val, f.spareNew.val, f.fseq + 256), swapReq := none }
  else if f.spareReq then
    s.modLink l fun k =>
      let spare := ([16, 17] : List Nat).find? fun n => k.laneOk.getLsbD n && n != f.spareLane.val
      match k.swap, spare with
      | none, some n => { k with swap := some (f.spareLane.val, n, k.fseq + 256) }
      | _, _ => k
  else s

/-- The fields of a control slot that name the neighbour. -/
def State.nameNeighbour (s : State) (l : LinkId) (f : Flit) : State :=
  let old := (s.link l).nbrIdent
  let s := s.modLink l fun k =>
    { k with nbrIdent := f.ident, nbrSlot := f.pslot, nstate := hbOf f.hbState, nreason := f.hbReason, adv := some (f.gmPrio, f.gmIdent, f.stratum.toNat),
             vigilSeen := k.vigilSeen && f.hbState == hbVigil }
  let s := s.checkConflict
  if old = f.ident ∨ l.val < 8 then s else s.broadcastRoute

/-- FLIT_RECEIVE (R339-R341, R344, R349, R350, R353, R355): flits of a link in AUTH, ALIGN, UP or RECONFIG are processed; one of
a FAILED link only shows that its neighbour has a new incarnation. -/
def State.flitReceive (s : State) (l : LinkId) (f : Flit) : State :=
  let k := s.link l
  if k.state = .failed then (if f.crcOk ∧ f.incarn ≠ k.nbrInc then s.incarnationChange l f.incarn else s)
  else if !(k.state == .auth || k.state == .align || k.usable) then s
  else
    let s := (s.count offFecCe l.val f.fecCe).count offFecUe l.val f.fecUe
    if !f.crcOk then s.modLink l fun k => { k with nakked := true }
    else if k.nakked && f.fseq != k.rseq + 1 then s
    else if k.usable && f.incarn != k.nbrInc then s.incarnationChange l f.incarn
    else if k.usable && f.ack && k.nstate == .active && (f.hbState == hbStarting || f.hbState == hbSpare) then s.incarnationChange l f.incarn
    else
      let s := s.modLink l fun k => { (k.credit f.credits) with nakked := false, rseq := f.fseq, nbrInc := f.incarn }
      let s := (((s.nameNeighbour l f).ackFlits l f).beat l f).spareOp l f
      ((s.chooseMaster).timeTransfer l f.offset).pump l


/-! ### Link states (R337, R338, R347) -/

/-- A link may train: links are powered, the start did not hold it DOWN (R468, R523), and its dimension has more than one
position. -/
def State.linkUsed (s : State) (l : LinkId) : Bool :=
  s.linksOn && !s.fab.heldDown.getLsbD l.val && match l.val with
  | 8 | 9 => decide (s.fab.dx ≠ 1)
  | 10 | 11 => decide (s.fab.dy ≠ 1)
  | 12 | 13 => decide (s.fab.dz ≠ 1)
  | _ => true

/-- LINK_SIGNAL_FOUND (R337). -/
def execLinkSignalFound (link : LinkId) (s : State) : Host.Outcome State Fault Refusal :=
  .next (if (s.link link).state = .down ∧ s.linkUsed link then s.modLink link fun k => { k with state := .train } else s)

/-- LINK_RETRAIN_RETRY (R337): a link whose training left fewer than 8 good lanes trains again. -/
def execLinkRetrainRetry (link : LinkId) (s : State) : Host.Outcome State Fault Refusal :=
  .next (if (s.link link).state = .down ∧ s.linkUsed link then s.modLink link fun k => { k with state := .train } else s)

/-- Good lanes of a link. -/
def goodLanes (v : BitVec 18) : Nat := ((List.range 18).filter fun n => v.getLsbD n).length

/-- Active lanes for a number of good ones (R338). -/
def activeLanes (n : Nat) : Nat := if 16 ≤ n then 16 else if 8 ≤ n then 8 else 0

/-- LINK_TRAIN_DONE (R337). In vigil a link trains on 8 lanes and runs without AUTH (R472). -/
def execLinkTrainDone (link : LinkId) (laneOk : BitVec 18) (s : State) : Host.Outcome State Fault Refusal :=
  .next (if (s.link link).state ≠ .train then s
    else
      let n := if s.inVigil then min 8 (activeLanes (goodLanes laneOk)) else activeLanes (goodLanes laneOk)
      let s := s.modLink link fun k => { k with lanes := n, laneOk, state := if n = 0 then .down else if s.inVigil then .align else .auth }
      if n = 8 && !s.inVigil then s.raise evLinkDegraded (unitLink link) else s)

/-- LINK_AUTH_DONE (R347): ALIGN, or the link stays in AUTH with an ALARM. -/
def State.authDone (s : State) (l : LinkId) (ok : Bool) : State :=
  if (s.link l).state ≠ .auth then s
  else if ok then s.modLink l fun k => { k with state := .align, session := true, packets := 0 }
  else s.raise evLinkAuth (unitLink l)

def execLinkAuthDone (link : LinkId) (ok : Bool) (s : State) : Host.Outcome State Fault Refusal := .next (s.authDone link ok)

/-- LINK_ALIGN_UP (R337): once the module's tick is LOCKED or MASTER. The module then broadcasts a ROUTE packet, so that the
neighbour learns what was seen before; the manual has one broadcast only as what is seen changes. DESIGN CHOICE. -/
def execLinkAlignUp (link : LinkId) (s : State) : Host.Outcome State Fault Refusal :=
  .next (if (s.link link).state = .align ∧ (s.tick.state = .locked ∨ s.tick.state = .master) then
      ((s.modLink link fun k => { k with state := .up, misses := 0, awaiting := none }).broadcastRoute).pump link
    else s)

/-- A lane is retired: the ledger takes it. -/
def State.retireLane (s : State) (l : LinkId) (lane : Nat) : State :=
  if (s.link l).laneOk.getLsbD lane then
    (s.modLink l fun k => { k with laneOk := k.laneOk &&& ~~~(BitVec.ofNat 18 (2 ^ lane)) }).retirePart 3 (BitVec.ofNat 16 (18 * l.val + lane)) 0
  else s

/-- LANE_SOFT_FAILURE (R338): the receiver asks for a spare. -/
def execLaneSoftFailure (link : LinkId) (lane : Fin 18) (s : State) : Host.Outcome State Fault Refusal :=
  .next (if (s.link link).state = .up ∧ 16 < goodLanes (s.link link).laneOk ∧ (s.link link).laneOk.getLsbD lane.val then
      s.modLink link fun k => { k with swapReq := some lane.val }
    else s)

/-- LANE_SWAP (R338): both sides switch at the agreed flit. -/
def execLaneSwap (link : LinkId) (s : State) : Host.Outcome State Fault Refusal :=
  .next (match (s.link link).swap with
    | some (old, _, _) => (s.modLink link fun k => { k with swap := none }).retireLane link old
    | none => s)

/-- LANE_LOSS (R338): RECONFIG, with the replay buffer held. -/
def execLaneLoss (link : LinkId) (lane : Fin 18) (s : State) : Host.Outcome State Fault Refusal :=
  .next (if (s.link link).state = .up ∧ (s.link link).laneOk.getLsbD lane.val then
      (s.modLink link fun k => { k with state := .reconfig, lostLane := some lane.val, swap := none, swapReq := none }).retireLane link lane.val
    else s)

/-- RECONFIG_DONE (R337, R338): UP on the lanes left, with a replay; with fewer than 8, DOWN. -/
def execReconfigDone (link : LinkId) (s : State) : Host.Outcome State Fault Refusal :=
  .next (if (s.link link).state ≠ .reconfig then s
    else
      let n := activeLanes (goodLanes (s.link link).laneOk)
      if n = 0 then (s.linkDown link .down).dropLink link noIdent
      else
        let fell := n != (s.link link).lanes
        let s := (s.modLink link fun k => { k with state := .up, lanes := n, lostLane := none, replaying := k.replay }).count offReplay link.val 1
        (if fell then s.raise evLinkDegraded (unitLink link) else s).pump link)

/-- DISABLE of FAB_LINK_CTL takes effect (R337): a set bit holds its link DISABLED, a cleared one leaves it DOWN. -/
def State.setDisable (s : State) (v : BitVec 14) : State :=
  let s := { s with fab := { s.fab with disable := v } }
  allLinks.foldl (fun s l =>
    if v.getLsbD l.val then
      (if (s.link l).state = .disabled then s else ((s.linkDown l .down).dropLink l noIdent).modLink l fun k => { k with state := .disabled, lanes := 0 })
    else if (s.link l).state = .disabled then s.modLink l fun k => { k with state := .down } else s) s

end Sys2Proof.Machine
end

