-- ==== Sys2Proof/Machine/Fabric.lean ====
section
/-! DEFINITION. FAB: packets that arrive on a link (R18, R213, R230, R247, R256-R258, R341-R347, R351, R372, R376-R379,
R406). -/
namespace Sys2Proof.Machine

/-! ### Checks of every packet -/

/-- A LOST notice goes to the source of a packet. -/
def State.sendLost (s : State) (p : Pkt) (cause : Nat) : State :=
  if p.src = s.fab.ident then s else s.send ptLost p.src p.ctx p.gen (le 4 p.attempt.toNat ++ [BitVec.ofNat 8 cause])

/-- A packet's tag fails (R347): dropped, an ALARM, the link back to AUTH, a LOST notice to the source. -/
def State.tagFail (s : State) (p : Pkt) : State :=
  let s := ((s.count offFabDrop p.link.val 1).raise evLinkAuth (unitLink p.link)).sendLost p 4
  (s.linkDown p.link .auth)

/-- Ticks since a packet entered the fabric, mod 2^8. -/
def State.pktAge (s : State) (p : Pkt) : Nat := (BitVec.ofNat 8 s.tick.now - p.stamp).toNat

/-- Types that concern one link, or that every module takes itself. -/
def linkLocal (typ : Byte) : Bool := [ptCancel, ptTeardown, ptTeardownAck, ptRoute, ptTiming, ptKey].contains typ

/-- Slots of a packet leave the receive buffer (R344). -/
def State.freeSlots (s : State) (p : Pkt) (typ : Byte) (n : Nat) : State :=
  s.modLink p.link fun k => { k with freed := vmod k.freed (vcOf typ p.cls) (· + pktSlots typ n) }

/-- Pass a packet on toward its destination (R334), or drop it with a LOST notice. -/
def State.forward (s : State) (typ : Byte) (p : Pkt) (body : List Byte) : State :=
  let drop := fun (s : State) => (s.freeSlots p typ body.length).sendLost p 4
  if !(s.boot.hb == hbSpare || s.boot.hb == hbActive) then drop s
  else match s.routeLink p.dst p.src (some p.link) with
    | none => drop s
    | some l =>
      if s.linkTakes l (vcOf typ p.cls) p.dst then
        let h : Held := { typ, vc := vcOf typ p.cls, cls := p.cls, dst := p.dst, src := p.src, ctx := p.ctx, gen := p.gen, stamp := p.stamp,
                          attempt := p.attempt, from? := some p.link, out := l, slots := pktSlots typ body.length, body, cid := 0 }
        ({ s with fab := { s.fab with held := s.fab.held ++ [h] } }).pump l
      else drop s

/-- What every packet meets on arrival: the link must carry packets, the tag must hold, its age and its attempt must be
good, and it must be for this module. True: it is delivered here; a collective's packet keeps its slots until CLE takes it. Links of vigil drop every packet slot (R472). -/
def State.arrive (s : State) (typ : Byte) (p : Pkt) (body : List Byte) : State × Bool :=
  let k := s.link p.link
  if s.inVigil || !(k.usable || (typ == ptKey && (k.state == .auth || k.state == .align))) then (s, false)
  else if !p.tagOk && k.usable then (s.tagFail p, false)
  else if !linkLocal typ && decide (16 < s.pktAge p) then (((s.count offFabDrop p.link.val 1).freeSlots p typ body.length).sendLost p 4, false)
  else if p.attempt != 0 && s.fab.cancels.any (fun c => c.1 == p.src && c.2.1 == p.attempt && decide (s.tick.now ≤ c.2.2 + 16)) then
    (s.freeSlots p typ body.length, false)
  else if linkLocal typ || (p.dst == s.fab.ident && s.fab.ident != noIdent) then (if typ = ptColl then s else s.freeSlots p typ body.length, true)
  else (s.forward typ p body, false)

/-- A notice about a context goes to a sender, at most once in a tick for each pair (R247). -/
def State.ctxNotice (s : State) (typ : Byte) (p : Pkt) : State :=
  if s.fab.deadSent.contains (p.src, p.ctx) then s
  else
    let s := { s with fab := { s.fab with deadSent := (p.src, p.ctx) :: s.fab.deadSent } }
    (s.trySend typ 0 p.src p.ctx p.gen p.attempt [BitVec.ofNat 8 p.ctx.val, p.gen] 0).1

/-- The generation check of a fabric receiver (R247, R256): true when the packet is delivered. -/
def State.genCheck (s : State) (p : Pkt) : State × Bool :=
  let x := s.ctx p.ctx
  if p.gen = 0 ∨ p.gen ≠ x.gen ∨ !s.live p.ctx then ((s.genDrop p.ctx).ctxNotice ptCtxDead p, false)
  else if x.state = .fenced then ((s.genDrop p.ctx).ctxNotice ptCtxFenced p, false)
  else (s, true)

/-! ### Remote memory (R213, R406, R407) -/

/-- Bits of ADDR that mark a MIR stream, and within it a parity piece, a record or a keel shard; below them lies an offset in the
state stream or in the row. A read of a row names the row in bits 51:48, one of a keel shard the step of its checkpoint, mod 2^18, in
bits 59:42. -/
def mirrorBit : Nat := 63
def parityBit : Nat := 62
def recordBit : Nat := 61
def keelBit : Nat := 60

/-- A held copy of another module's context, or of a parity row. -/
def State.heldCopy? (s : State) (ident : W16) (x : CtxId) (parity : Bool) : Option HeldCopy :=
  s.mir.held.find? fun h => h.ident == ident && decide (h.ctx = x) && h.parity == parity

/-- Change a held copy, made when there is none. -/
def State.modHeld (s : State) (ident : W16) (x : CtxId) (parity : Bool) (f : HeldCopy → HeldCopy) : State :=
  let old := (s.heldCopy? ident x parity).getD { ident, ctx := x, parity }
  { s with mir := { s.mir with held := f old :: s.mir.held.filter fun h => !(h.ident == ident && decide (h.ctx = x) && h.parity == parity) } }

/-- XOR bytes into a store. -/
def memXor (m : List Host.Cell) (a : Nat) (bs : List Byte) : List Host.Cell :=
  memWriteList m a (xorBytes (memReadList m a bs.length) bs)

/-- A sync stream arrives: the record of a member, the mirror of a ward, whose shadow starts as the sealed copy, or a piece
for this module's parity row, whose shadow starts empty (R406). -/
def State.takeStream (s : State) (p : Pkt) (data : List Byte) : State :=
  let a := p.addr.toNat % 2 ^ 48
  if bitOf p.addr.toNat recordBit then
    s.modHeld p.src p.ctx false fun h =>
      { h with shadowRecord := (if a = 0 then data else h.shadowRecord.take a ++ data) }
  else if bitOf p.addr.toNat parityBit then
    (match allCtx.find? fun c => (s.mirOf c).group.contains p.src with
     | some c => s.modHeld s.fab.ident c true fun h => { h with shadow := some (memXor (h.shadow.getD []) a data) }
     | none => s)
  else if allCtx.any fun c => (s.mirOf c).ward == p.src then
    s.modHeld p.src p.ctx false fun h => { h with shadow := some (memWriteList (h.shadow.getD (h.bytes.getD [])) a data) }
  else s

/-- The lent frame an address names, with its borrower; a free one of the pool is lent with the first write (R213). -/
def State.lentFor (s : State) (p : Pkt) (write : Bool) : Option State :=
  let f := p.addr.toNat / 2 ^ 21
  match s.memUnit.lent.find? fun x => x.frame == f, peerW p.src with
  | some x, some w => if x.peer = w ∧ x.ctx = p.ctx ∧ x.gen = p.gen then some s else none
  | none, some w => if write ∧ f < s.memUnit.lendPages ∧ s.lentFrames < s.memUnit.lendPages ∧ p.gen ≠ 0 then
      some (s.modMem fun m => { m with lent := m.lent ++ [{ frame := f, peer := w, ctx := p.ctx, gen := p.gen }] })
    else none
  | _, none => none

/-- WRITE (R343). -/
def State.takeWrite (s : State) (p : Pkt) (data : List Byte) : State :=
  match s.arrive ptWrite p (le 8 p.addr.toNat ++ data) with
  | (s, false) => s
  | (s, true) =>
    if bitOf p.addr.toNat mirrorBit then (s.takeStream p data).mirSettle
    else match s.lentFor p true with
      | some s => s.setMem (memWriteList s.mem (lentKey (p.addr.toNat / 2 ^ 21) (p.addr.toNat % 2 ^ 21)) data)
      | none => (s.genDrop p.ctx).ctxNotice ptCtxDead p

def execFabWrite (p : Pkt) (data : List Byte) (s : State) : Host.Outcome State Fault Refusal := .next (s.takeWrite p data)

/-- What this module holds for an intercalation or a restore: the record of a member, its mirror, its guest shard in the keel,
or the parity row combined with the pieces the survivors have sent (R411, R416). -/
def State.mirRead (s : State) (p : Pkt) (len : Nat) : Option (List Byte) :=
  let a := p.addr.toNat % 2 ^ 48
  let mine := s.mir.held.find? fun h => h.ident == p.src && !h.parity
  if bitOf p.addr.toNat recordBit then
    match mine with
    | some h => if h.record = [] then none else some (sliceOf h.record a len)
    | none => none
  else if bitOf p.addr.toNat keelBit then
    let a := a % 2 ^ 42
    (s.vault.keels.toList.find? fun k => k.state == .valid && k.step.toNat % 2 ^ 18 == bitsOf p.addr.toNat 59 42 && (mine.any fun h => decide (leAt h.record 0x1C 8 = k.tenant.toNat))).map fun k =>
      (List.range len).map fun i => (((k.data.find? fun d => decide (d.1 = (a + i) / 65536)).map (·.2)).getD []).getD ((a + i) % 65536) 0
  else if bitOf p.addr.toNat parityBit then
    match s.mir.held.find? fun h => h.parity && (s.mirOf h.ctx).group.contains p.src with
    | some h => h.bytes.map fun m => xorBytes (memReadList m a len) (memReadList (h.shadow.getD []) a len)
    | none => none
  else (mine.bind (·.bytes)).map fun m => memReadList m a len

/-- READ_REQ (R343): a lent frame, or what this module holds for another. -/
def State.takeReadReq (s : State) (p : Pkt) (len : Nat) : State :=
  match s.arrive ptReadReq p (le 8 p.addr.toNat) with
  | (s, false) => s
  | (s, true) =>
    let reply (bs : List Byte) : State := (s.trySend ptReadResp p.cls p.src p.ctx p.gen p.attempt (le 8 p.addr.toNat ++ bs) 0).1
    if bitOf p.addr.toNat mirrorBit then
      match s.mirRead p len with
      | some bs => reply bs
      | none => s.sendLost p 4
    else match s.lentFor p false with
      | some s' => reply (memReadList s'.mem (lentKey (p.addr.toNat / 2 ^ 21) (p.addr.toNat % 2 ^ 21)) len)
      | none => (s.genDrop p.ctx).ctxNotice ptCtxDead p

def execFabReadReq (p : Pkt) (len : W16) (s : State) : Host.Outcome State Fault Refusal := .next (s.takeReadReq p len.toNat)

/-! ### Collective packets (R372) -/

/-- Bytes an element pattern takes in a packet. -/
def collBytes (fmt n : Nat) : Nat := n * patternBytes fmt

/-- A NODE or DATA packet: taken in by its collective, or held until the module runs it. -/
def State.takeColl (s : State) (p : Pkt) (rid : W32) (node : Bool) (level index fmt : Nat) (vals : List W32) : State :=
  let n := 24 + collBytes fmt vals.length
  match s.arrive ptColl p (List.replicate n 0) with
  | (s, false) => s
  | (s, true) =>
    match s.genCheck p with
    | (s, false) => s.freeSlots p ptColl n
    | (s, true) =>
      let s := s.count offCleRx 0 (collBytes fmt vals.length)
      let first := p.addr.toNat % 2 ^ 48
      match s.collBy? p.ctx rid with
      | some k =>
        let s := s.freeSlots p ptColl n
        (s.takePacket k.cid node level index first vals).cleSend
      | none =>
        let e : EarlyPkt := { ctx := p.ctx, src := p.src, attempt := p.attempt, link := p.link, slots := pktSlots ptColl n, rid, node, level, index, first, vals }
        { s with cle := { s.cle with early := s.cle.early ++ [e] } }

/-- COLL_NODE (R365, R372). -/
def execCollNode (p : Pkt) (rid : W32) (level : Byte) (fmt : Fin 16) (index : W32) (_srank : W16) (vals : List W32) (s : State) :
    Host.Outcome State Fault Refusal := .next (State.placeAll (s.takeColl p rid true level.toNat index.toNat fmt.val vals))

/-- COLL_DATA (R368-R371). -/
def execCollData (p : Pkt) (rid : W32) (fmt : Fin 16) (_srank : W16) (vals : List W32) (s : State) : Host.Outcome State Fault Refusal :=
  .next (State.placeAll (s.takeColl p rid false 0 0 fmt.val vals))

/-- COLL_ABORT (R378). -/
def execCollAbort (p : Pkt) (rid : W32) (srank status : W16) (s : State) : Host.Outcome State Fault Refusal :=
  .next (State.placeAll (match s.arrive ptColl p (List.replicate 24 0) with
    | (s, false) => s
    | (s, true) => match (s.freeSlots p ptColl 24).genCheck p with
      | (s, false) => s
      | (s, true) => s.takeAbort p.ctx rid srank status))

/-- COLL_SCALAR (R376): the RID of a fence's packets is its step. -/
def execCollScalar (p : Pkt) (rid : W32) (srank : W16) (up skip : Bool) (amax : List (Nat × W32)) (s : State) :
    Host.Outcome State Fault Refusal :=
  .next (State.placeAll (match s.arrive ptColl p (List.replicate (24 + 6 * amax.length) 0) with
    | (s, false) => s
    | (s, true) => match (s.freeSlots p ptColl (24 + 6 * amax.length)).genCheck p with
      | (s, false) => s
      | (s, true) => s.takeScalar p.ctx rid srank.toNat up skip amax))

/-! ### Vault chunks (R230) -/

/-- CHUNK. -/
def execFabChunk (p : Pkt) (root : List Byte) (chunk : Nat) (data : List Byte) (s : State) : Host.Outcome State Fault Refusal :=
  .next (State.placeAll (match s.arrive ptChunk p (root ++ le 4 chunk ++ data) with
    | (s, false) => s
    | (s, true) => match s.genCheck p with
      | (s, false) => s
      | (s, true) => s.chunkArrives p.ctx root chunk data))

/-! ### Control packets -/

/-- CANCEL (R346): the attempt's packets go, late ones for 16 ticks too, and the CANCEL follows them. -/
def State.takeCancel (s : State) (p : Pkt) (victim : W32) : State :=
  match s.arrive ptCancel p (le 4 victim.toNat) with
  | (s, false) => s
  | (s, true) =>
    let ls := (((s.fab.sent ++ s.fab.held).filter fun h => h.attempt == victim && h.src == p.src && h.from?.isSome).map (·.out)).eraseDups.filter fun l => (s.link l).usable
    let s := s.dropAttempt p.src victim
    let s := { s with fab := { s.fab with cancels := (p.src, victim, s.tick.now) :: s.fab.cancels.filter fun c => decide (s.tick.now ≤ c.2.2 + 16) } }
    ls.foldl (fun s l =>
      let h : Held := { typ := ptCancel, vc := 0, cls := 0, dst := (s.link l).nbrIdent, src := p.src, ctx := p.ctx, gen := p.gen, stamp := p.stamp,
                        attempt := 0, from? := some p.link, out := l, slots := 1, body := le 4 victim.toNat, cid := 0 }
      ({ s with fab := { s.fab with held := s.fab.held ++ [h] } }).pump l) s

def execFabCancel (p : Pkt) (victim : W32) (s : State) : Host.Outcome State Fault Refusal := .next (s.takeCancel p victim)

/-- This module's commands that send to a context of another module: the attempt the notice names, and collectives with
that member. -/
def State.sendersTo (s : State) (attempt : W32) (ident : W16) (x : CtxId) (gen : Byte) : List Cmd :=
  s.sched.cmds.filter fun c => c.running &&
    ((attempt != 0 && BitVec.ofNat 32 c.attempt == attempt && !c.fixed) ||
      (isColl (opCode c.op) && c.kb.members.any fun m => m.ident == ident && decide (m.ctx = x) && m.gen == gen && m.ident != s.fab.ident))

/-- The commands that send to a context end with a status (R247, R256). -/
def State.endSenders (s : State) (attempt : W32) (ident : W16) (x : CtxId) (gen : Byte) (status : W16) : State :=
  (s.sendersTo attempt ident x gen).foldl (fun s c => s.failCid c.cid status 0) s

/-- CTX_DEAD (R247). -/
def execFabCtxDead (p : Pkt) (dead : CtxId) (deadGen : Byte) (s : State) : Host.Outcome State Fault Refusal :=
  .next (State.placeAll (match s.arrive ptCtxDead p [0, 0] with
    | (s, false) => s
    | (s, true) => s.endSenders p.attempt p.src dead deadGen stCtxDead))

/-- CTX_FENCED (R256). -/
def execFabCtxFenced (p : Pkt) (fenced : CtxId) (fencedGen : Byte) (s : State) : Host.Outcome State Fault Refusal :=
  .next (State.placeAll (match s.arrive ptCtxFenced p [0, 0] with
    | (s, false) => s
    | (s, true) => s.endSenders p.attempt p.src fenced fencedGen stCtxFenced))

/-- TEARDOWN (R258): everything that belongs to the context goes, then the notice is acknowledged. -/
def State.takeTeardown (s : State) (p : Pkt) (old : CtxId) (oldGen : Byte) : State :=
  match s.arrive ptTeardown p [0, 0] with
  | (s, false) => s
  | (s, true) =>
    let s := { s with fab := { s.fab with held := s.fab.held.filter fun h => !(h.src == p.src && decide (h.ctx = old) && h.gen == oldGen && h.typ != ptTeardownAck) } }
    let s := s.endSenders 0 p.src old oldGen stCtxDead
    let s := match peerW p.src with
      | some w => if sameSled p.src s.sledIdent then s.freeLent fun x => decide (x.peer = w) && decide (x.ctx = old) && x.gen == oldGen else s
      | none => s
    let s := { s with mir := { s.mir with held := s.mir.held.filter fun h => !(h.ident == p.src && decide (h.ctx = old) && !h.parity) } }
    s.sendOn p.link ptTeardownAck 0 p.src old oldGen 0 [BitVec.ofNat 8 old.val, oldGen] 0

def execFabTeardown (p : Pkt) (old : CtxId) (oldGen : Byte) (s : State) : Host.Outcome State Fault Refusal :=
  .next (s.takeTeardown p old oldGen)

/-- TEARDOWN_ACK (R257). -/
def execFabTeardownAck (p : Pkt) (old : CtxId) (oldGen : Byte) (s : State) : Host.Outcome State Fault Refusal :=
  .next (State.placeAll (match s.arrive ptTeardownAck p [0, 0] with
    | (s, false) => s
    | (s, true) =>
      let x := s.ctx old
      if x.state = .draining ∧ prevGen x.gen = oldGen ∧ x.awaitAck.contains p.link then
        s.modCtx old fun y => { y with awaitAck := y.awaitAck.filter (· != p.link) }
      else s))

/-- RECLAIM (R213). -/
def execFabReclaim (p : Pkt) (pages : Nat) (s : State) : Host.Outcome State Fault Refusal :=
  .next (match s.arrive ptReclaim p (le 4 pages) with
    | (s, false) => s
    | (s, true) => match peerW p.src with
      | some w => s.reclaim w pages
      | none => s)

/-- LOST (R343, R379): the sending command ends. An attempt is named by its id; a FIXED command's packets carry none, so every
FIXED command of the context that has sent packets ends. A collective's DETAIL names the rank the notice came from. -/
def State.takeLost (s : State) (p : Pkt) (victim : W32) (cause : Nat) : State :=
  match s.arrive ptLost p (List.replicate 5 0) with
  | (s, false) => s
  | (s, true) =>
    let hit := s.sched.cmds.filter fun c => c.running &&
      (if victim != 0 then !c.fixed && BitVec.ofNat 32 c.attempt == victim
       else c.fixed && decide (c.ctx = p.ctx) && s.fab.sent.any fun h => h.cid == c.cid && c.cid != 0)
    hit.foldl (fun s c =>
      if isColl (opCode c.op) then
        let r := ((List.range c.kb.members.length).find? fun r => match (c.kb.members[r]? : Option Member) with
          | some m => m.ident == p.src
          | none => false).getD 0
        s.endColl c.cid stFaultUnresolved (collDetail r 4 0)
      else s.lostOwn c.cid cause) s

def execFabLost (p : Pkt) (victim : W32) (cause : Byte) (s : State) : Host.Outcome State Fault Refusal :=
  .next (State.placeAll (s.takeLost p victim (if cause = 0 then 4 else cause.toNat)))

/-- ROUTE (R333): what slot 8 of this sled sees on its torus links, and its own identity, are the adoption table. -/
def State.takeRoute (s : State) (p : Pkt) (own : W16) (seen : List W16) : State :=
  match s.arrive ptRoute p (List.replicate 14 0) with
  | (s, false) => s
  | (s, true) =>
    let w (i : W16) : Fin 16 := if i = noIdent ∨ identW i = 8 then 15 else Fin.ofNat 16 (identW i)
    let s := s.modLink p.link fun k => { k with nbrIdent := own }
    if (s.link p.link).nbrSlot = 8 ∧ p.link.val < 8 then
      { s with fab := { s.fab with adoptOwn := w own, adopt := Vector.ofFn fun (k : Fin 6) => w (seen.getD k.val noIdent) } }
    else s

def execFabRoute (p : Pkt) (own : W16) (seen : List W16) (s : State) : Host.Outcome State Fault Refusal := .next (s.takeRoute p own seen)

/-- Body of a TIMING packet. -/
def TickChange.body (c : TickChange) : List Byte :=
  le 4 c.at_.toNat ++ [BitVec.ofNat 8 c.tcal, BitVec.ofNat 8 c.len1, BitVec.ofNat 8 c.start1, BitVec.ofNat 8 c.len0, BitVec.ofNat 8 c.start0]

/-- A change is recorded, and flooded on every other link. -/
def State.announce (s : State) (c : TickChange) (via : Option LinkId) : State :=
  if s.tick.change = some c then s
  else
    let s := { s with tick := { s.tick with change := some c } }
    (s.upLinks.filter fun l => via != some l).foldl (fun s l => s.sendOn l ptTiming 0 (s.link l).nbrIdent 0 0 0 c.body 0) s

/-- TIMING (R351). -/
def execFabTiming (p : Pkt) (at_ : W32) (tcal len1 start1 len0 start0 : Nat) (s : State) : Host.Outcome State Fault Refusal :=
  .next (match s.arrive ptTiming p (List.replicate 9 0) with
    | (s, false) => s
    | (s, true) => if s.tick.state = .master then s else s.announce { at_, tcal, len1, start1, len0, start0 } (some p.link))

/-- KEY (R347): a step of the session of a link in AUTH, or a key update of one that is up. -/
def State.takeKey (s : State) (p : Pkt) (ok done : Bool) : State :=
  match s.arrive ptKey p [0] with
  | (s, false) => s
  | (s, true) =>
    match (s.link p.link).state with
    | .auth => if !ok then s.authDone p.link false else if done then s.authDone p.link true else s
    | .up => if ok && done then s.modLink p.link fun k => { k with packets := 0, keyUpdates := k.keyUpdates + 1 } else s
    | _ => s

def execFabKey (p : Pkt) (ok done : Bool) (s : State) : Host.Outcome State Fault Refusal := .next (s.takeKey p ok done)

end Sys2Proof.Machine
end

