-- ==== Sys2Proof/Machine/Mirror.lean ====
section
/-! DEFINITION. MIR: pairing, the sync of a step and its seal, restore and intercalation; identities (R332, R403-R419, R428). -/
namespace Sys2Proof.Machine

/-! ### Identity (R332, R469) -/

/-- The module takes an identity: what depends on it is looked at again. -/
def State.setIdentity (s : State) (ident : W16) : State :=
  ((({ s with fab := { s.fab with ident } }).checkConflict).chooseMaster).broadcastRoute

def State.checkIdentity (s : State) (x y z w : Byte) : Checked :=
  checks [(decide (x.toNat < 16) && decide (y.toNat < 16) && decide (z.toNat < 16) && decide (w.toNat ≤ 8), stBounds),
    (s.boot.hb == hbStarting || s.boot.hb == hbSpare || s.mir.inter.isSome, stPerm)]

/-- ADM_IDENTITY: outside an intercalation a spare that takes a job identity becomes ACTIVE. -/
def State.startIdentity (s : State) (x y z w : Byte) : Started :=
  let s := s.setIdentity (identOf x.toNat y.toNat z.toNat w.toNat)
  doneOk (if s.boot.hb = hbSpare ∧ w.toNat ≤ 7 ∧ s.mir.inter.isNone then { s with boot := { s.boot with hb := hbActive } } else s)

/-! ### The state stream and the record (R403) -/

/-- The ranges laid end to end, then the scale table: what the mirror and the parity pieces carry. -/
def tableBytes : Nat := 524160
def rangesLen (rs : List (Nat × Nat)) : Nat := (rs.map (·.2)).sum
def Mir.streamLen (m : Mir) : Nat := rangesLen m.ranges + tableBytes

/-- Address of an offset of the stream in the context. -/
def streamVa : List (Nat × Nat) → Nat → Nat
  | [], off => windowBase + off
  | (va, len) :: t, off => if off < len then va + off else streamVa t (off - len)

/-- Offset of a protected address in the stream. -/
def streamOff : List (Nat × Nat) → Nat → Nat → Option Nat
  | [], _, _ => none
  | (va, len) :: t, off, a => if va ≤ a ∧ a < va + len then some (off + (a - va)) else streamOff t (off + len) a

/-- n bytes of the stream as the context holds them now; past its end it is zero (R407). -/
def State.streamNow (s : State) (c : CtxId) (off n : Nat) : List Byte :=
  let m := s.mirOf c
  (List.range n).map fun k => if off + k < m.streamLen then s.ctxByte c (streamVa m.ranges (off + k)) else 0

/-- Bytes of a sealed stream: the ranges, then the records of the scale table. -/
def Sealed.byte (o : Sealed) (rs : List (Nat × Nat)) (off : Nat) : Byte :=
  let n := rangesLen rs
  if off < n then memRead o.bytes off
  else if off < n + tableBytes then
    let k := (off - n) / 128
    (scaleBytes (((o.scales.find? fun e => e.1 == k).map (·.2)).getD o.tmpl)).getD ((off - n) % 128) 0
  else 0

/-- Bytes of a piece (R407). The largest state of the other members is not this module's to know. -/
def State.pieceLen (s : State) (c : CtxId) : Nat :=
  let m := s.mirOf c
  roundUp (ceilDiv (max m.streamLen (Config.groupLargest c.val)) (max 1 (m.gsize - 1))) 65536

/-- A recipe as R294 lays an override out, and back. -/
def recipeBytes (kind : Nat) (r : Recipe) : List Byte :=
  [BitVec.ofNat 8 kind, BitVec.ofNat 8 r.format.val, BitVec.ofInt 8 r.initExp, BitVec.ofNat 8 r.headroom, (if r.skipStep then 1 else 0),
   BitVec.ofNat 8 r.histLen, 0, 0]
def recipeAt (b : List Byte) : Recipe :=
  { format := Fin.ofNat 16 (leAt b 1 1), initExp := signedOf 8 (leAt b 2 1), headroom := leAt b 3 1, skipStep := leAt b 4 1 == 1, histLen := leAt b 5 1 }

/-- The record of a context: what a spare needs beside the stream (R403, R413). -/
def State.mirRecord (s : State) (c : CtxId) (step : W32) : List Byte :=
  let x := s.ctx c
  let m := s.mirOf c
  let p := s.pv c
  let slots := ((s.jobs.find? fun j => decide (j.ctx = c)).map (·.slots)).getD 0
  le 4 step.toNat ++ le 4 p.step.toNat ++ le 4 p.epoch.toNat ++ le 4 p.mepoch.toNat ++ le 4 slots ++ le 8 x.seed.toNat ++ le 8 x.tenant.toNat ++
    le 4 x.quotaT2 ++ le 4 x.quotaT3 ++ le 4 x.quotaT4 ++ le 4 x.quotaSh ++
    [BitVec.ofNat 8 c.val, BitVec.ofNat 8 x.classes.toNat, BitVec.ofNat 8 m.gsize, BitVec.ofNat 8 m.gpos] ++
    le 2 m.partner.toNat ++ le 2 m.ward.toNat ++ le 2 m.guest.toNat ++ le 2 x.semBase ++ le 2 x.semCount ++ le 2 m.ranges.length ++
    le 8 (s.pieceLen c) ++ ((List.range 8).flatMap fun k => le 2 (m.group.getD k noIdent).toNat) ++
    ((List.range 16).flatMap fun k => recipeBytes k (s.recipeOf c k)) ++ le 4 0 ++ (m.ranges.flatMap fun r => le 8 r.1 ++ le 8 r.2)

def recPartner (r : List Byte) : W16 := BitVec.ofNat 16 (leAt r 0x38 2)
def recGuest (r : List Byte) : W16 := BitVec.ofNat 16 (leAt r 0x3C 2)
def recCtx (r : List Byte) : CtxId := Fin.ofNat 64 (leAt r 0x34 1)
def recGpos (r : List Byte) : Nat := leAt r 0x37 1
def recGroup (r : List Byte) : List W16 := (List.range (leAt r 0x36 1)).map fun k => BitVec.ofNat 16 (leAt r (0x4C + 2 * k) 2)
def recRanges (r : List Byte) : List (Nat × Nat) := (List.range (leAt r 0x42 2)).map fun k => (leAt r (0xE0 + 16 * k) 8, leAt r (0xE8 + 16 * k) 8)
def recStream (r : List Byte) : Nat := rangesLen (recRanges r) + tableBytes
def recPiece (r : List Byte) : Nat := leAt r 0x44 8
def recLen (r : List Byte) : Nat := 0xE0 + 16 * leAt r 0x42 2

/-! ### MIR_PAIR (R404) -/

/-- What MIR_PAIR's parameters and tables say. -/
def State.pairingOf (s : State) (gsize gpos : Byte) (partner ward guest : W16) (gtab ptab : Nat) (pcount : Nat) : Pairing :=
  { gsize := gsize.toNat, gpos := gpos.toNat, partner, ward, guest,
    group := (List.range gsize.toNat).map fun k => BitVec.ofNat 16 (ofLe (s.ctxBytes 0 (gtab + 2 * k) 2))
    ranges := (List.range pcount).map fun k => (ofLe (s.ctxBytes 0 (ptab + 16 * k) 8), ofLe (s.ctxBytes 0 (ptab + 16 * k + 8) 8)) }

def State.checkPair (s : State) (ctx gsize gpos : Byte) (partner ward guest : W16) (gtab ptab : Nat) (pcount : Nat) : Checked :=
  let c := ctxOf ctx
  let q := s.pairingOf gsize gpos partner ward guest gtab ptab (min pcount 256)
  let other (i : W16) : Bool := decide (i ≠ s.fab.ident) && !q.group.contains i
  let opt (i : W16) : Bool := decide (i = noIdent) || other i
  checks
    [(ctxField ctx && decide (pcount ≤ 256), stBounds),
     (s.rangeOk 0 gtab (2 * gsize.toNat) true false && s.rangeOk 0 ptab (16 * pcount) true false, stBounds),
     ((s.ctx c).state == .active, stCtxDead),
     ((decide (2 ≤ gsize.toNat) && decide (gsize.toNat ≤ 8)) || (decide (gsize = 1) && decide (s.mode.guardF = 0)), stBounds),
     (decide (gpos.toNat < gsize.toNat), stBounds),
     (decide (q.group.eraseDups.length = q.group.length) && decide (q.group[q.gpos]? = some s.fab.ident), stBounds),
     (decide (partner ≠ noIdent) && other partner && opt ward && opt guest, stBounds),
     (q.ranges.all (fun r => decide (r.1 % 65536 = 0) && decide (r.2 % 65536 = 0) && s.mapped c r.1 r.2), stBounds)]

/-- A pairing takes effect: nothing of it has been sent. -/
def Mir.pair (m : Mir) (q : Pairing) : Mir :=
  { m with gsize := q.gsize, gpos := q.gpos, partner := q.partner, ward := q.ward, guest := q.guest, group := q.group, ranges := q.ranges,
           nextPair := none, fullCopy := false }

/-- MIR_PAIR: at once for a context without protection, at the next seal for one that has it. -/
def State.startPair (s : State) (ctx gsize gpos : Byte) (partner ward guest : W16) (gtab ptab : Nat) (pcount : Nat) : Started :=
  let q := s.pairingOf gsize gpos partner ward guest gtab ptab pcount
  doneOk (s.modMir (ctxOf ctx) fun m =>
    if m.state = .none then { m.pair q with state := .paired } else { m with nextPair := some q })

/-! ### MIR_SYNC (R406, R407) -/

def guardOff : Fin 4 := 2
def guardParity : Fin 4 := 1

/-- Runs of the stream that a sync sends to the partner: the pages written since the last seal, or every page of a first copy,
and the scale table. -/
def State.syncRuns (s : State) (c : CtxId) : List (Nat × Nat) :=
  let m := s.mirOf c
  let want := m.dirty ++ m.sending
  let pages := m.ranges.flatMap fun r => (s.memUnit.pages.filter fun p => p.inRange c r.1 r.2 && (!m.fullCopy || want.contains p.va)).filterMap fun p =>
    let lo := max p.va r.1
    let hi := min (p.va + p.size.bytes) (r.1 + r.2)
    (streamOff m.ranges 0 lo).map fun o => (o, hi - lo)
  pages ++ [(rangesLen m.ranges, tableBytes)]

/-- Send runs of a stream to a module at an address; false when a route is down. -/
def State.sendRuns (s : State) (cid : Nat) (c : CtxId) (dst : W16) (base : Nat) (runs : List (Nat × Nat)) : State × Bool :=
  match s.cmd? cid with
  | none => (s, false)
  | some d => runs.foldl (fun (acc : State × Bool) r =>
      if acc.2 then acc.1.sendBytes ptWrite d dst (base + r.1) (s.streamNow c r.1 r.2) else acc) (s, true)

/-- Piece i of the state goes to the holder of the row that contains it. -/
def State.sendPieces (s : State) (cid : Nat) (c : CtxId) : State × Bool :=
  let m := s.mirOf c
  let n := s.pieceLen c
  match s.cmd? cid with
  | none => (s, false)
  | some d => (List.range m.gsize).foldl (fun (acc : State × Bool) k =>
      if !acc.2 || k == m.gpos then acc
      else acc.1.sendBytes ptWrite d (m.group.getD k noIdent) (2 ^ mirrorBit + 2 ^ parityBit)
        (s.streamNow c ((k + 2 * m.gsize - m.gpos - 1) % m.gsize * n) n)) (s, true)

/-- Modules that keep the record of a context. -/
def Mir.keepers (m : Mir) : List W16 :=
  (([m.partner, m.guest] ++ (((List.range m.group.length).zip m.group).filter fun g => g.1 != m.gpos).map (·.2)).filter (· != noIdent)).eraseDups

/-- MIR_SYNC issues. With GUARD OFF, or for a context without protection, it sends nothing. -/
def State.startSync (s : State) (c : Cmd) (step : W32) : Started :=
  let x := c.ctx
  if (s.mirOf x).state = .none then doneOk s
  else
    let s := s.guardBoundary x
    let g := s.mode.guardF
    if g = guardOff then doneOk s
    else
      let m := s.mirOf x
      let a := s.sched.nextAttempt
      let s := s.modSched fun q => { q with nextAttempt := a + 1 }
      let runs := if g = guardParity then [] else s.syncRuns x
      let sent := (runs.map (·.2)).sum + (m.gsize - 1) * s.pieceLen x
      let s := s.modCmd c.cid fun d => { d with attempt := a, units := ceilDiv sent 65536, detail := BitVec.ofNat 64 sent, tick := s.tick.now }
      let s := s.modMir x fun m => { m with state := .syncing, sending := (m.sending ++ m.dirty).eraseDups, dirty := [] }
      let rec_ := s.mirRecord x step
      let (s, ok) := s.sendRuns c.cid x m.partner (2 ^ mirrorBit) runs
      let (s, ok) := if ok && decide (2 ≤ m.gsize) then s.sendPieces c.cid x else (s, ok)
      let (s, ok) := match s.cmd? c.cid with
        | none => (s, ok)
        | some d => m.keepers.foldl (fun (acc : State × Bool) k => if acc.2 then acc.1.sendBytes ptWrite d k (2 ^ mirrorBit + 2 ^ recordBit) rec_ else acc) (s, ok)
      if ok then (s, none) else (s, some (.killed, stFaultUnresolved, BitVec.ofNat 64 (4 * 2 ^ 44)))

/-- Identities of the members of the job of a context beside this module (R360). -/
def State.jobPeers (s : State) (x : CtxId) : List Member :=
  match s.cle.jobTables.find? fun t => decide (t.1 = x) with
  | some t => t.2.filter fun m => m.ident != s.fab.ident
  | none => []

/-- MIR_SYNC commits once all it sent has left and been acknowledged (R406): its agent tells the members (R408). The time
it took is measured: a free value. -/
def State.commitSync (s : State) (c : Cmd) (step : W32) (used : Nat) : State :=
  if s.fab.held.any fun h => h.cid == c.cid then s
  else
    let us := Config.freeWord s.free
    let s := { s with free := s.free + 1 }
    let s := s.modMir c.ctx fun m => { m with synced := some step, syncUs := us }
    let s := s.count offMirBytes c.ctx.val c.detail.toNat
    let job := ((s.jobs.find? fun j => decide (j.ctx = c.ctx)).map (·.job)).getD 0
    let s := (s.jobPeers c.ctx).foldl (fun s m => s.send ptService m.ident 0 0 (svcBody 5 (le 8 job.toNat ++ le 4 step.toNat))) s
    s.endCmd c .committed stOk c.detail (some used)

/-! ### The seal (R408, R410) -/

/-- A shadow becomes the sealed copy. -/
def HeldCopy.seal (h : HeldCopy) : HeldCopy :=
  { h with bytes := h.shadow.orElse fun _ => h.bytes, shadow := none, record := if h.shadowRecord = [] then h.record else h.shadowRecord, shadowRecord := [] }

/-- Every other member of the job of a context has told of its sync of a step; where no job agent runs a job here, nobody tells. -/
def State.allSynced (s : State) (x : CtxId) (step : W32) : Bool :=
  (s.jobs.filter fun j => decide (j.ctx = x)).all fun j => (s.jobPeers x).all fun m => s.mir.peerSyncs.contains (j.job, m.ident, step)

/-- MIR_SEAL: every member has committed its sync of the step. -/
def State.sealCtx (s : State) (x : CtxId) (step : W32) : State :=
  let m := s.mirOf x
  if m.synced ≠ some step || !s.allSynced x step then s
  else
    let mine := ((s.jobs.filter fun j => decide (j.ctx = x)).map (·.job))
    let s := { s with mir := { s.mir with peerSyncs := s.mir.peerSyncs.filter fun q => !(mine.contains q.1 && decide (q.2.2.toNat ≤ step.toNat)) } }
    let mine (h : HeldCopy) : Bool := (h.parity && decide (h.ctx = x)) || h.ident == m.ward || (!h.parity && m.group.contains h.ident)
    let s := { s with mir := { s.mir with held := s.mir.held.map fun (h : HeldCopy) => if mine h then h.seal else h
                                          settle := { s.mir.settle with failed := if s.mir.settle.since.isNone then [] else s.mir.settle.failed } } }
    let c := s.ctx x
    let own : Sealed := { step, bytes := s.rangeCells x m.ranges 0, scales := c.scales, tmpl := c.tmpl, recipes := c.recipes }
    s.modMir x fun m =>
      let m := { m with state := .sealed, prot := true, guardSeal := m.guardNow, sealStep := step, sealedOnce := true, synced := none,
                        sending := [], own := some own, fullCopy := decide (m.guardNow = 0) }
      match m.nextPair with
      | some q => { m.pair q with state := .paired }
      | none => m

def execMirSeal (ctx : CtxId) (step : W32) (s : State) : Host.Outcome State Fault Refusal := .next (State.placeAll (s.sealCtx ctx step))

/-! ### What a restore leaves (R130, R391, R413) -/

/-- A scale record from its 128 bytes. -/
def scaleAt (b : List Byte) : ScaleRec :=
  { exp := signedOf 16 (leAt b 0 2), hcount := leAt b 2 1, hhead := leAt b 3 1, kind := leAt b 4 1, seen := leAt b 5 1 == 1,
    step := BitVec.ofNat 32 (leAt b 8 4), stepAmax := BitVec.ofNat 32 (leAt b 0xC 4),
    hist := (List.range 16).map fun k => BitVec.ofNat 32 (leAt b (0x10 + 4 * k) 4), tid := BitVec.ofNat 32 (leAt b 0x50 4) }

/-- PV, the gather record and the fence records of a context that goes back to a sealed step. -/
def State.restored (s : State) (x : CtxId) (step : W32) : State :=
  let s := s.modPv x fun p => { p with step := step + 1, mepoch := p.mepoch + 1, epoch := p.mepoch + 1, lvalid := false }
  let s := { s with jobChanges := s.jobChanges.map fun (c : JobChange) => if c.ctx = x then { c with boundary := some (step + 1) } else c
                    mir := { s.mir with settle := { s.mir.settle with classes := [] } } }
  s.modCtx x fun c =>
    { c with fenced := c.fenced.filter fun t => decide (t.toNat ≤ step.toNat), fenceEnds := c.fenceEnds.filter fun e => decide (e.1.toNat ≤ step.toNat)
             steps := c.steps.filter fun e => decide (e.1.toNat ≤ step.toNat), skip := c.skip.filter fun t => decide (t.toNat ≤ step.toNat) }

/-- The ranges take bytes of a sealed stream. -/
def State.loadRanges (s : State) (x : CtxId) (rs : List (Nat × Nat)) (cells : List Host.Cell) : State :=
  let n := rangesLen rs
  let s := rs.foldl (fun s r => s.setMem (memClear s.mem (ctxKey x r.1) r.2)) s
  let s := s.setMem (memApply s.mem ((cells.filter fun k => decide (k.1 < n)).map fun k => (ctxKey x (streamVa rs k.1), k.2)))
  (s.modPages (fun p => rs.any fun r => p.inRange x r.1 r.2) fun p => { p with zero := false, poison := false, lost := false }).markDirty x fun p =>
    rs.any fun r => p.inRange x r.1 r.2

/-- The scale table takes the records of a sealed stream. -/
def State.loadScales (s : State) (x : CtxId) (at_ : Nat → Byte) : State :=
  let recs := (List.range 4095).filterMap fun k =>
    let b := (List.range 128).map fun j => at_ (128 * k + j)
    if b.all (· == 0) then none else some (k, scaleAt b)
  s.modCtx x fun c => { c with scales := recs, tmpl := { step := c.tmpl.step } }

/-! ### MIR_RESTORE (R413, R419) -/

/-- Protected ranges of a context that a restore from the mirror asks for: pages whose contents are lost, or all after a step
past the one that was sealed. -/
def State.restoreRuns (s : State) (x : CtxId) (step : W32) : List (Nat × Nat) :=
  let m := s.mirOf x
  let past := decide (step.toNat + 1 < (s.pv x).step.toNat)
  m.ranges.flatMap fun r => (s.memUnit.pages.filter fun p => p.inRange x r.1 r.2 && (past || p.lost || p.poison)).filterMap fun p =>
    let lo := max p.va r.1
    let hi := min (p.va + p.size.bytes) (r.1 + r.2)
    (streamOff m.ranges 0 lo).map fun o => (o, hi - lo)

/-- The keel slot that holds a checkpoint of a step under the context's tenant tag. -/
def State.keelFor (s : State) (x : CtxId) (step : W32) : Option Keel :=
  s.vault.keels.toList.find? fun k => k.state == .valid && k.tenant == (s.ctx x).tenant && k.step == step

/-- A source holds a copy of the step. -/
def State.sourceHolds (s : State) (x : CtxId) (source : Byte) (step : W32) : Bool :=
  let m := s.mirOf x
  match source.toNat with
  | 0 => (m.own.any fun o => o.step == step) || (s.pv x).step == step + 1
  | 1 => m.sealedOnce && m.sealStep == step && m.guardSeal == 0
  | _ => (s.keelFor x step).isSome

def State.checkRestore (s : State) (ctx source : Byte) (step : W32) : Checked :=
  checks [(ctxField ctx && decide (source.toNat ≤ 2), stBounds), (s.live (ctxOf ctx), stCtxDead), (s.sourceHolds (ctxOf ctx) source step, stBounds)]

/-- Send read requests of a command for runs of a module's copy, in 4,096-byte pieces; they stand in `lostChunks` until they are
answered. -/
def State.requestRuns (s : State) (cid : Nat) (dst : W16) (base : Nat) (runs : List (Nat × Nat)) : State × Bool :=
  let parts := runs.flatMap fun r => (List.range (ceilDiv r.2 4096)).map fun k => (r.1 + 4096 * k, min 4096 (r.2 - 4096 * k))
  match s.cmd? cid with
  | none => (s, false)
  | some c =>
    let s := s.modCmd cid fun d => { d with lostChunks := d.lostChunks ++ parts.map fun p => (base + p.1, p.2) }
    parts.foldl (fun (acc : State × Bool) p =>
      let (s, ok) := acc.1.trySend ptReadReq (acc.1.classNow c) dst c.ctx c.gen (BitVec.ofNat 32 c.attempt) (le 8 (base + p.1) ++ le 2 p.2) cid
      (s, acc.2 && ok)) (s, true)

/-- MIR_RESTORE: from the retained frames or the keel at once; from the mirror when its bytes have come. -/
def State.startRestore (s : State) (c : Cmd) (ctx source : Byte) (step : W32) : Started :=
  let x := ctxOf ctx
  let m := s.mirOf x
  if !s.sourceHolds x source step then doneBad s stBounds
  else
    match source.toNat with
    | 0 =>
      let s := match m.own with
        | some o =>
          if o.step = step then
            let s := if step.toNat + 1 < (s.pv x).step.toNat then s.loadRanges x m.ranges o.bytes else s
            s.modCtx x fun k => { k with scales := o.scales, tmpl := o.tmpl, recipes := o.recipes }
          else s
        | none => s
      doneOk (s.restored x step)
    | 1 =>
      let runs := s.restoreRuns x step
      let s := s.modMir x fun m => { m with state := .restoring }
      let s := s.modCmd c.cid fun d => { d with tick := s.tick.now }
      let (s, ok) := s.requestRuns c.cid m.partner (2 ^ mirrorBit) (runs ++ [(rangesLen m.ranges, tableBytes)])
      if ok then (s, none) else doneBad (s.modMir x fun m => { m with state := .sealed }) stFaultUnresolved (BitVec.ofNat 64 (4 * 2 ^ 44))
    | _ =>
      match s.keelFor x step with
      | none => doneBad s stBounds
      | some k =>
        if k.rootNow ≠ k.root then doneBad s stSignature (sigDetail 4 0)
        else
          let byte (o : Nat) : Byte := (k.chunk (o / chunkBytes)).getD (o % chunkBytes) 0
          let n := rangesLen m.ranges
          let s := s.loadRanges x m.ranges ((List.range n).map fun o => (o, byte o))
          doneOk ((s.loadScales x fun o => byte (n + o)).restored x step)

/-- MIR_RESTORE from the mirror commits. -/
def State.commitRestore (s : State) (c : Cmd) (ctx : Byte) (step : W32) (used : Nat) : State :=
  let x := ctxOf ctx
  let m := s.mirOf x
  if !c.lostChunks.isEmpty then s
  else
    let n := rangesLen m.ranges
    let cells := (c.staged.filter fun k => decide (k.1 < n)).map fun k => (streamVa m.ranges k.1, k.2)
    let s := (s.writeCells x cells).clearPoison x cells
    let s := s.loadScales x fun o => ((c.staged.find? fun k => k.1 == n + o).map (·.2)).getD 0
    let s := (s.restored x step).modMir x fun m => { m with state := .sealed }
    s.endCmd c .committed stOk 0 (some used)

/-! ### MIR_INTERCALATE (R413, R414, R417) -/

def MSource.code : MSource → Nat
  | .mirror => 0
  | .parity => 1
  | .keel => 2
def sourceOf (b : Byte) : MSource := if b = 0 then .mirror else if b = 1 then .parity else .keel

def State.checkInter (s : State) (failed : W16) (method source : Byte) : Checked :=
  checks [(decide (method.toNat ≤ 1) && decide (source.toNat ≤ 2) && decide (identW failed ≤ 8), stBounds),
    (s.boot.hb == hbSpare, stPerm)]

def State.modInter (s : State) (f : Inter → Inter) : State := { s with mir := { s.mir with inter := s.mir.inter.map f } }

/-- Identities of a replica, and of all members. -/
def Job.idents (j : Job) (r : Replica) : List W16 := (List.range j.tp).map fun w => identOf r.x r.y r.z w
def Job.members (j : Job) : List W16 := j.reps.flatMap j.idents

def State.job? (s : State) (job : W64) : Option Job := s.jobs.find? fun j => j.job == job

/-- Send a SERVICE message to every member of a job beside this module. -/
def State.tellJob (s : State) (j : Job) (body : List Byte) : State :=
  (j.members.filter (· != s.fab.ident)).foldl (fun s i => s.send ptService i 0 0 body) s

/-- Tell the members of a job of a change, and of the step whose boundary this module has not passed (R399). -/
def State.tellChange (s : State) (j : Job) (c : JobChange) (step : W32) : State :=
  let s := s.tellJob j (svcBody 1 (le 8 j.job.toNat ++ [if c.release then 1 else 0, BitVec.ofNat 8 c.x, BitVec.ofNat 8 c.y, BitVec.ofNat 8 c.z]))
  s.tellJob j (svcBody 0 (le 8 j.job.toNat ++ le 4 step.toNat))

/-- An incident is over: changes that waited for it go on at the next boundary (R20, R401). The module whose command a change is tells
the members again. -/
def State.resumeChanges (s : State) : State :=
  let held := s.jobChanges.filter fun c => c.boundary.isNone
  let s := { s with mir := { s.mir with settle := { s.mir.settle with classes := [] } }
                    jobChanges := s.jobChanges.map fun (c : JobChange) =>
                      if c.boundary.isNone then { c with boundary := some (s.pv c.ctx).step } else c }
  (held.filter fun c => c.cid != 0).foldl (fun s c => match s.job? c.job with
    | some j => s.tellChange j c (s.pv c.ctx).step
    | none => s) s

/-- An intercalation ends otherwise than with its commit: its context is torn down, and the spare is (x, y, z, 8) again. -/
def State.abortInter (s : State) (outcome : Nat) : State :=
  match s.mir.inter with
  | none => s
  | some i =>
    let s := ({ s with mir := { s.mir with inter := none } }).resumeChanges
    let s := match i.ctx with
      | some x => s.enterFencing x
      | none => s
    let s := s.setIdentity (BitVec.ofNat 16 (i.failed.toNat / 16 * 16 + 8))
    match s.cmd? i.cid with
    | some c => s.endCmd c .killed stFaultUnresolved (BitVec.ofNat 64 (outcome * 2 ^ 60 + i.step.toNat))
    | none => s

def abortLost : Nat := 8
def abortSpare : Nat := 9
def abortSuperseded : Nat := 10

/-- The default partner and guest of a module (R405). -/
def State.xNeighbour (s : State) (i : W16) (d : Nat) : W16 := identOf ((identX i + d) % max 1 s.fab.dx) (identY i) (identZ i) (identW i)

/-- Ask for the stream at the source of the intercalation. -/
def State.requestState (s : State) (i : Inter) : State × Bool :=
  let r := i.record
  match i.source with
  | .mirror => s.requestRuns i.cid (recPartner r) (2 ^ mirrorBit) [(0, recStream r)]
  | .keel => s.requestRuns i.cid (recGuest r) (2 ^ mirrorBit + 2 ^ keelBit + i.step.toNat % 2 ^ 18 * 2 ^ 42) [(0, recStream r)]
  | .parity =>
    let g := recGroup r
    (List.range g.length).foldl (fun (acc : State × Bool) k =>
      if !acc.2 || k == recGpos r then acc
      else acc.1.requestRuns i.cid (g.getD k noIdent) (2 ^ mirrorBit + 2 ^ parityBit + k * 2 ^ 48) [(0, recPiece r)]) (s, true)

/-- The context of the failed member, with what its record says, and the pages of its ranges. -/
def State.interContext (s : State) (r : List Byte) : Option State :=
  let x := recCtx r
  if x = 0 ∨ (s.ctx x).state ≠ .free then none
  else
    match s.startCreate (BitVec.ofNat 8 x.val) (BitVec.ofNat 8 (leAt r 0x35 1)) (BitVec.ofNat 16 (leAt r 0x3E 2)) (BitVec.ofNat 16 (leAt r 0x40 2))
        (BitVec.ofNat 64 (leAt r 0x1C 8)) (BitVec.ofNat 64 (leAt r 0x14 8)) with
    | (s, some (.committed, _, _)) =>
      let s := s.modCtx x fun c =>
        { c with quotaT2 := leAt r 0x24 4, quotaT3 := leAt r 0x28 4, quotaT4 := leAt r 0x2C 4, quotaSh := leAt r 0x30 4
                 recipes := (List.range 16).map fun k => recipeAt (sliceOf r (0x5C + 8 * k) 8) }
      let new := (recRanges r).flatMap fun g => (List.range (g.2 / 65536)).map fun k =>
        ({ ctx := x, va := g.1 + 65536 * k, size := .k64, tier := .t2, hint := .preferT2, r := true, w := true } : Page)
      let s := s.modMem fun m => { m with pages := m.pages ++ new }
      some (s.modMir x fun m =>
        { m.pair { gsize := leAt r 0x36 1, gpos := recGpos r, partner := recPartner r, ward := BitVec.ofNat 16 (leAt r 0x3A 2), guest := recGuest r,
                   group := recGroup r, ranges := recRanges r } with state := .intercalating })
    | _ => none

/-- The record is here: the context is made and the state asked for. -/
def State.interRecord (s : State) (r : List Byte) : State :=
  match s.mir.inter with
  | none => s
  | some i =>
    if i.ctx.isSome then s
    else
      match s.interContext r with
      | none => (s.modInter fun i => { i with record := r }).abortInter abortSpare
      | some s =>
        let i := { i with record := r, ctx := some (recCtx r) }
        let (s, ok) := (s.modInter fun _ => i).requestState i
        if ok then s else s.abortInter abortLost

/-- MIR_INTERCALATE: the identity is adopted, then the record of the sealed copy is fetched, then the state. A second spare, or a
second command, is too late. -/
def State.startInter (s : State) (c : Cmd) (failed : W16) (method source : Byte) (step : W32) (job : W64) : Started :=
  let taken := s.mir.inter.isSome || allLinks.any fun l => (s.link l).nbrIdent == failed && (s.link l).usable && (s.link l).nstate == .active
  if taken then doneBad s stFaultUnresolved (BitVec.ofNat 64 (abortSuperseded * 2 ^ 60 + step.toNat))
  else
    let i : Inter := { cid := c.cid, failed, hot := method == 1, source := sourceOf source, step, job, since := s.tick.now }
    let s := ({ s with mir := { s.mir with inter := some i } }).setIdentity failed
    match s.mir.records.find? fun r => r.1 == failed with
    | some r => (s.interRecord r.2, none)
    | none =>
      let (s, ok) := s.requestRuns c.cid (s.xNeighbour failed 1) (2 ^ mirrorBit + 2 ^ recordBit) [(0, 0xE0 + 4096)]
      (if ok then s else s.abortInter abortLost, none)

/-- Bytes of a copy come in: the answered request is taken off, and the bytes stand by offset in the stream. Those of a parity row
belong to the piece that the row holds of the failed member (R407). -/
def State.takeCopy (s : State) (c : Cmd) (addr : Nat) (data : List Byte) : State :=
  let s := s.modCmd c.cid fun d => { d with lostChunks := d.lostChunks.filter fun q => q.1 != addr }
  let a := addr % 2 ^ 48
  if bitOf addr recordBit then
    let s := s.modInter fun i => { i with record := i.record.take a ++ List.replicate (a - i.record.length) 0 ++ data }
    match s.mir.inter, s.cmd? c.cid with
    | some i, some d => if d.lostChunks.isEmpty then s.interRecord (i.record.take (recLen i.record)) else s
    | _, _ => s
  else if bitOf addr parityBit then
    match s.mir.inter with
    | none => s
    | some i =>
      let g := max 1 (recGroup i.record).length
      let p := (bitsOf addr 51 48 + 2 * g - recGpos i.record - 1) % g
      s.modCmd c.cid fun d => { d with staged := d.staged ++ cellsAt (p * recPiece i.record + a) data }
  else s.modCmd c.cid fun d => { d with staged := d.staged ++ cellsAt (if bitOf addr keelBit then a % 2 ^ 42 else a) data }

/-- READ_RESP (R343): bytes of a copy that an intercalation or a restore asked for; a page read from T3 is what the page holds
already. -/
def State.takeReadResp (s : State) (p : Pkt) (data : List Byte) : State :=
  match s.arrive ptReadResp p (le 8 p.addr.toNat ++ data) with
  | (s, false) => s
  | (s, true) =>
    if bitOf p.addr.toNat mirrorBit then
      match s.sched.cmds.find? fun c => c.running && c.lostChunks.any fun q => q.1 == p.addr.toNat with
      | some c => s.takeCopy c p.addr.toNat data
      | none => s
    else (s.genCheck p).1

def execFabReadResp (p : Pkt) (data : List Byte) (s : State) : Host.Outcome State Fault Refusal := .next (State.placeAll (s.takeReadResp p data))

/-- Every slice in use has passed a sentinel since a tick (R415). -/
def State.allTested (s : State) (since : Nat) : Bool :=
  (List.finRange 64).all fun e => (s.ras.slots[s.ras.map[e]]).lastPass.any fun t => decide (since ≤ t)

/-- MIR_INTERCALATE commits: the state is loaded and the module is ACTIVE. Another module with the identity was first. A hot admission
holds the step that its copy was sealed at by then (R415). -/
def State.commitInter (s : State) (c : Cmd) (used : Nat) : State :=
  match s.mir.inter with
  | none => s
  | some i =>
    if s.fab.conflict then s.abortInter abortSuperseded
    else match i.ctx with
      | none => s
      | some x =>
        if !c.lostChunks.isEmpty || (i.hot && !s.allTested i.since) then s
        else
          let r := i.record
          let i := if i.hot then { i with step := BitVec.ofNat 32 (leAt r 0 4) } else i
          let rs := recRanges r
          let n := rangesLen rs
          let s := s.loadRanges x rs c.staged
          let s := s.loadScales x fun o => ((c.staged.find? fun k => k.1 == n + o).map (·.2)).getD 0
          let s := s.modPv x fun p => { p with step := BitVec.ofNat 32 (leAt r 4 4), epoch := BitVec.ofNat 32 (leAt r 8 4), mepoch := BitVec.ofNat 32 (leAt r 0xC 4) }
          let s := (s.restored x i.step).modMir x fun m =>
            { m with state := .sealed, sealStep := i.step, sealedOnce := true
                     own := some { step := i.step, bytes := s.rangeCells x rs 0, scales := (s.ctx x).scales, tmpl := (s.ctx x).tmpl, recipes := (s.ctx x).recipes } }
          let s := { s with boot := { s.boot with hb := hbActive }, mir := { s.mir with inter := none } }
          let out := if i.switched then 2 else if i.source = .keel then 3 else i.source.code
          s.endCmd c .committed stOk (BitVec.ofNat 64 (out * 2 ^ 60 + i.step.toNat)) (some used)

/-- A failure reaches an intercalation in progress (R417). -/
def State.interCheck (s : State) : State :=
  match s.mir.inter with
  | none => s
  | some i =>
    let bad (k : W16) : Bool := s.mir.settle.failed.contains k && k != i.failed
    let r := i.record
    match i.source with
    | .mirror =>
      if !bad (if r = [] then s.xNeighbour i.failed 1 else recPartner r) then s
      else if r ≠ [] ∧ i.ctx.isSome ∧ 2 ≤ (recGroup r).length ∧ (recGroup r).all (fun k => !bad k) then
        let i := { i with source := .parity, switched := true }
        let s := s.modCmd i.cid fun d => { d with lostChunks := [], staged := [] }
        let (s, ok) := (s.modInter fun _ => i).requestState i
        if ok then s else s.abortInter abortLost
      else s.abortInter abortLost
    | .parity => if (recGroup r).any bad then s.abortInter abortLost else s
    | .keel => if bad (recGuest r) then s.abortInter abortLost else s

/-! ### The settle window (R411, R412) -/

/-- A mirror protected the state of a member at the last seal: as the GUARD of that seal says for the contexts this module pairs
with it, and where it pairs none, as the default (R25). -/
def State.mirrored (s : State) (f : W16) : Bool :=
  let own := allCtx.filter fun c => (s.mirOf c).ward == f || (s.mirOf c).group.contains f
  own.isEmpty || own.any fun c => (s.mirOf c).guardSeal == 0

/-- How a failed member is recovered, as this module can tell: from the pairings it holds, else by the default mapping. Until a
first full copy is sealed there is no mirror, and the previous setting decides (R25). -/
def State.classify (s : State) (f : W16) : MSource :=
  let failed := s.mir.settle.failed
  let isMine := allCtx.find? fun c => (s.mirOf c).ward == f
  let group := ((allCtx.find? fun c => (s.mirOf c).group.contains f).map fun c => (s.mirOf c).group).getD [f]
  if s.mirrored f && (isMine.isSome || !failed.contains (s.xNeighbour f 1)) then .mirror
  else if (group.filter failed.contains).length ≤ 1 ∧ 2 ≤ group.length then .parity
  else .keel

/-- A survivor of a failed member's group sends its pieces to the holders of the other rows, which combine them (R411). -/
def State.sendRebuild (s : State) (f : W16) : State :=
  match allCtx.find? fun c => (s.mirOf c).group.contains f with
  | none => s
  | some x =>
    let m := s.mirOf x
    match m.own with
    | none => s
    | some o =>
      let n := s.pieceLen x
      ((List.range m.gsize).filter fun k => k != m.gpos && m.group.getD k noIdent != f).foldl (fun s k =>
        let start := (k + 2 * m.gsize - m.gpos - 1) % m.gsize * n
        (List.range (n / 4096)).foldl (fun s j =>
          let bs := (List.range 4096).map fun b => o.byte m.ranges (start + 4096 * j + b)
          s.send ptWrite (m.group.getD k noIdent) x (s.ctx x).gen (le 8 (2 ^ mirrorBit + 2 ^ parityBit + 4096 * j) ++ bs)) s) s

/-- The module whose copy serves a recovery asks the spare of the failed member's sled to take it over. -/
def State.askSpare (s : State) (f : W16) (src : MSource) : State :=
  let mine := match src with
    | .mirror => allCtx.any fun c => (s.mirOf c).ward == f
    | .parity => (allCtx.find? fun c => (s.mirOf c).group.contains f).any fun c =>
        ((s.mirOf c).group.find? fun k => !s.mir.settle.failed.contains k) == some s.fab.ident
    | .keel => s.mir.held.any fun h => h.ident == f && recGuest h.record == s.fab.ident
  match s.mir.held.find? fun h => h.ident == f && !h.parity with
  | none => s
  | some h =>
    if mine && s.sched.cores.toList.any (· == .service .membership) then
      s.send ptService (BitVec.ofNat 16 (f.toNat / 16 * 16 + 8)) 0 0
        (svcBody 7 (le 2 f.toNat ++ [BitVec.ofNat 8 src.code] ++ le 4 (leAt h.record 0 4) ++ le 8 0 ++ h.record))
    else s

/-- SETTLE_EXPIRY (R411): the window ends, each failure is classed, mirror sources first, and the decision goes out. Shadows of a
failed ward are discarded (R428). -/
def State.settleExpiry (s : State) : State :=
  if s.mir.settle.since.isNone then s
  else
    let fs := s.mir.settle.failed
    let cl := fs.map fun f => (f, s.classify f)
    let cl := (cl.filter fun x => x.2 == .mirror) ++ cl.filter fun x => x.2 != .mirror
    let s := { s with mir := { s.mir with settle := { s.mir.settle with since := none, classes := cl }
                                          held := s.mir.held.map fun (h : HeldCopy) =>
                                            if fs.contains h.ident then { h with shadow := none, shadowRecord := [] } else h } }
    cl.foldl (fun s x => (if x.2 = .parity then s.sendRebuild x.1 else s).askSpare x.1 x.2) s

def execSettleExpiry (s : State) : Host.Outcome State Fault Refusal := .next s.settleExpiry

end Sys2Proof.Machine
end

