-- ==== Sys2Proof/Machine/Job.lean ====
section
/-! DEFINITION. The job agent: plans, founding, growing and shrinking (R384-R401); what a failure does to them. -/
namespace Sys2Proof.Machine

/-! ### The plan (R386) -/

/-- A plan from its bytes: none where a field or a relation is not allowed. -/
def planOf? (bs : List Byte) : Option Job :=
  let b (k : Nat) : Nat := leAt bs k 1
  let h (k : Nat) : Nat := leAt bs k 2
  let tp := b 0x10
  let pp := b 0x11 * b 0x12
  let n := h 0x20
  let stages := (List.range pp).map fun k => (leAt bs (h 0x22 + 8 * k) 2, leAt bs (h 0x22 + 8 * k + 2) 2)
  let reps := (List.range n).map fun k =>
    let o := h 0x26 + 8 * k
    ({ x := b o, y := b (o + 1), z := b (o + 2), stage := b (o + 3), drank := h (o + 4) } : Replica)
  let zeros (o m : Nat) : Bool := (sliceOf bs o m).all (· == 0)
  let covered := (stages.foldl (fun (acc : Option Nat) s => acc.bind fun e => if s.1 = e then some (s.1 + s.2) else none) (some 0)).isSome
  let stageOk (s : Nat) : Bool :=
    let ds := (reps.filter fun r => r.stage == s).map (·.drank)
    !ds.isEmpty && (List.range ds.length).all ds.contains
  if decide (64 ≤ bs.length) && decide (leAt bs 0 4 = 0x5A484A50) && zeros 4 4 && zeros 0x16 2 && zeros 0x28 24 &&
      (List.range 6).all (fun k => decide (1 ≤ b (0x10 + k))) && decide (tp ≤ 8) && decide (1 ≤ leAt bs 0x18 4) && decide (leAt bs 0x18 4 ≤ 65536) &&
      decide (h 0x22 + 8 * pp ≤ bs.length) && decide (h 0x24 + 8 * tp ≤ bs.length) && decide (h 0x26 + 8 * n ≤ bs.length) &&
      (List.range pp).all (fun k => zeros (h 0x22 + 8 * k + 4) 4) && (List.range tp).all (fun k => zeros (h 0x24 + 8 * k + 5) 3) &&
      (List.range n).all (fun k => zeros (h 0x26 + 8 * k + 6) 2) && reps.all (fun r => decide (r.x < 16) && decide (r.y < 16) && decide (r.z < 16) && decide (r.stage < pp)) &&
      covered && (List.range pp).all stageOk then
    some { job := BitVec.ofNat 64 (leAt bs 8 8), ctx := 0, tp, py := b 0x11, pz := b 0x12, sp := b 0x13, dpx := b 0x14, dpz := b 0x15,
           slots := leAt bs 0x18 4, step0 := BitVec.ofNat 32 (leAt bs 0x1C 4), stages, tensors := (List.range tp).map fun k => sliceOf bs (h 0x24 + 8 * k) 8,
           reps, seed := 0, tenant := 0, plan := bs }
  else none

/-- The replica that contains an identity. -/
def Job.replicaOf (j : Job) (i : W16) : Option Replica :=
  if identW i < j.tp then j.reps.find? fun r => r.x == identX i && r.y == identY i && r.z == identZ i else none

/-! ### Placement (R385) -/

/-- Coordinates (w, x, y, z) that the job agent gives the module of a tensor rank, stage, sequence rank and data rank: stages lie in a
serpentine along Y and fold onto Z. Host software may place modules otherwise, so a plan's replica entries name theirs. -/
def Job.place (j : Job) (t s q d : Nat) : Nat × Nat × Nat × Nat :=
  let h := s / j.py
  let y := if h % 2 = 0 then s % j.py else j.py - 1 - s % j.py
  let dz := d % j.dpz
  (t, d / j.dpz, y, q + j.sp * (dz + j.dpz * h))

/-- The job's replicas lie where R385 places their stages and data ranks; a replica entry covers sequence rank 0 of a job with SP 1. -/
def Job.placed (j : Job) : Bool :=
  j.reps.all fun r => let p := j.place 0 r.stage 0 r.drank; decide (p.2 = (r.x, r.y, r.z))

/-! ### Dealing (R387) -/

/-- First and one past the last of the shares of rank d of n when m things are dealt. -/
def dealt (m n d : Nat) : Nat × Nat :=
  let lo := m / max 1 n * d + min d (m % max 1 n)
  (lo, lo + m / max 1 n + (if d < m % max 1 n then 1 else 0))

/-- Slots of a rank of a stage. -/
def Job.slotsOf (j : Job) (stage drank : Nat) : Nat × Nat := dealt j.slots (j.reps.filter fun r => r.stage == stage).length drank

/-! ### The new plan (R399 step 2) -/

/-- A leaving replica goes, and the ranks above it close up. -/
def Job.remove (j : Job) (x y z : Nat) : Job :=
  match j.reps.find? fun r => r.x == x && r.y == y && r.z == z with
  | none => j
  | some r => { j with reps := (j.reps.filter fun q => q != r).map fun q =>
      if q.stage = r.stage ∧ r.drank < q.drank then { q with drank := q.drank - 1 } else q }

/-- Replicas of a stage. -/
def Job.count (j : Job) (s : Nat) : Nat := (j.reps.filter fun r => r.stage == s).length

/-- The lowest-numbered stage with the fewest replicas. -/
def Job.poorest (j : Job) : Nat :=
  (List.range j.stages.length).foldl (fun b s => if j.count s < j.count b then s else b) 0

/-- A joining replica becomes the highest rank of that stage. -/
def Job.add (j : Job) (x y z : Nat) : Job :=
  let s := j.poorest
  { j with reps := j.reps ++ [{ x, y, z, stage := s, drank := j.count s }] }

/-! ### JOB_RELEASE (R398) -/

/-- A change of the same replica is pending. -/
def State.pendingChange (s : State) (job : W64) (x y z : Nat) : Option JobChange :=
  s.jobChanges.find? fun c => c.job == job && c.x == x && c.y == y && c.z == z

/-- Replicas of a stage whose release is pending. -/
def State.releasing (s : State) (j : Job) (stage : Nat) : Nat :=
  (s.jobChanges.filter fun c => c.job == j.job && c.release && j.reps.any fun r => r.stage == stage && r.x == c.x && r.y == c.y && r.z == c.z).length

def State.checkRelease (s : State) (job : W64) (ident : W16) : Checked :=
  match s.job? job with
  | none => .error stBounds
  | some j =>
    checks
      [((j.replicaOf ident).isSome, stBounds),
       ((s.pendingChange job (identX ident) (identY ident) (identZ ident)).isNone, stBounds),
       ((j.replicaOf ident).all (fun r => decide (2 + (s.releasing j r.stage) ≤ j.count r.stage)), stQuota)]

/-- An incident is open: it settles, or what it decided has not been restored or given up yet (R20). -/
def State.incidentOpen (s : State) : Bool := s.mir.settle.since.isSome || s.mir.inter.isSome || !s.mir.settle.classes.isEmpty

/-- A change is pending from the step whose boundary this module has not passed. While an incident is open it waits (R20). -/
def State.noteChange (s : State) (j : Job) (c : JobChange) : State :=
  let held := s.incidentOpen
  { s with jobChanges := s.jobChanges ++ [{ c with boundary := if held then none else some (s.pv j.ctx).step }] }

/-- The member that takes the command, or that the last joiner reached, notes the change and tells the others. -/
def State.beginChange (s : State) (j : Job) (c : JobChange) : State :=
  (s.noteChange j c).tellChange j c (s.pv j.ctx).step

def State.startRelease (s : State) (c : Cmd) (job : W64) (ident : W16) : Started :=
  match s.job? job with
  | none => doneBad s stBounds
  | some j => (s.beginChange j { cid := c.cid, job, release := true, x := identX ident, y := identY ident, z := identZ ident, ctx := j.ctx }, none)

/-! ### JOB_JOIN (R398, R399) -/

def State.checkJoin (s : State) (job : W64) (member : W16) (ctx : Byte) (plan plen : Nat) : Checked :=
  let x := ctxOf ctx
  let founds := decide (member = noIdent)
  let p := if founds ∧ s.rangeOk 0 plan plen true false then planOf? (s.ctxBytes 0 plan plen) else none
  checks
    [(ctxField ctx, stBounds),
     ((s.ctx x).state == .active, stCtxDead),
     (if founds then p.isSome else decide (plan = 0) && decide (plen = 0), stBounds),
     (!founds || p.any (fun j => j.job == job && (j.replicaOf s.fab.ident).isSome), stBounds),
     ((s.job? job).isNone && !(s.jobChanges.any fun c => c.job == job && decide (c.cid ≠ 0)), stBounds),
     (p.all (fun j => (List.range j.stages.length).all fun k => decide (j.count k ≤ j.slots)), stQuota)]

/-- A founder tells the others the hash of its plan; a joiner asks the member it names. -/
def State.startJoin (s : State) (c : Cmd) (job : W64) (member : W16) (ctx : Byte) (plan plen : Nat) : Started :=
  let x := ctxOf ctx
  if member = noIdent then
    let bs := s.ctxBytes 0 plan plen
    let hash := sha384 bs
    match planOf? bs with
    | none => doneBad s stBounds
    | some j =>
      if s.mir.plans.any fun q => q.1 == job && q.2.2 != hash then doneBad s stBounds
      else
        let s := s.tellJob j (svcBody 9 (le 8 job.toNat ++ hash))
        let r := (j.replicaOf s.fab.ident).getD { x := 0, y := 0, z := 0, stage := 0, drank := 0 }
        let ch : JobChange := { cid := c.cid, job, release := false, x := r.x, y := r.y, z := r.z, ctx := x, issued := [s.fab.ident] }
        ({ s with jobChanges := s.jobChanges ++ [ch] }, none)
  else
    let me := s.fab.ident
    let s := s.send ptService member 0 0 (svcBody 9 (le 8 job.toNat))
    ({ s with jobChanges := s.jobChanges ++ [{ cid := c.cid, job, release := false, x := identX me, y := identY me, z := identZ me, ctx := x, issued := [me] }] }, none)

/-! ### A change takes effect (R391, R399 steps 4 and 5) -/

def State.dropChange (s : State) (c : JobChange) : State := { s with jobChanges := s.jobChanges.filter fun d => d != c }

/-- The plan of a member changes: MEPOCH advances, and a context that leaves is torn down. -/
def State.applyChange (s : State) (c : JobChange) : State :=
  match s.job? c.job with
  | none => s.dropChange c
  | some j =>
    let new := if c.release then j.remove c.x c.y c.z else j.add c.x c.y c.z
    let mine := identX s.fab.ident == c.x && identY s.fab.ident == c.y && identZ s.fab.ident == c.z && decide (identW s.fab.ident < j.tp)
    let s := (s.dropChange c).modPv j.ctx fun p => { p with mepoch := p.mepoch + 1, lvalid := false }
    if c.release && mine then { s with jobs := s.jobs.filter fun k => k.job != c.job }
    else { s with jobs := s.jobs.map fun k => if k.job = c.job then new else k }

/-- DETAIL: the new MEPOCH, and the first step under the new plan. -/
def jobDetail (epoch step : W32) : W64 := BitVec.ofNat 64 (epoch.toNat * 2 ^ 32 + step.toNat)

/-- JOB_RELEASE commits once the boundary has passed: the permutes have. -/
def State.commitRelease (s : State) (c : Cmd) (used : Nat) : State :=
  match s.jobChanges.find? fun k => k.cid == c.cid with
  | none => s
  | some ch => match s.job? ch.job, ch.boundary with
    | some j, some b =>
     if (s.pv j.ctx).step.toNat ≤ b.toNat then s
     else
      let s := s.applyChange ch
      let s := s.tellJob j (svcBody 2 (le 8 j.job.toNat ++ le 4 (b + 1).toNat))
      let s := s.endCmd c .committed stOk (jobDetail (s.pv j.ctx).mepoch (b + 1)) (some used)
      if (s.job? ch.job).isNone then s.enterFencing j.ctx else s
    | _, _ => s

/-- Every scale record of a context stands at a step (R130). -/
def State.recordsAt (s : State) (x : CtxId) (step : W32) : State :=
  s.modCtx x fun c => { c with scales := c.scales.map fun e => (e.1, { e.2 with step }), tmpl := { c.tmpl with step } }

/-- JOB_JOIN commits: a founder starts the job at STEP0; a joiner takes the job's epoch and the members' PV. -/
def State.commitJoin (s : State) (c : Cmd) (job : W64) (member : W16) (ctx : Byte) (plan plen : Nat) (used : Nat) : State :=
  let x := ctxOf ctx
  match s.jobChanges.find? fun k => k.cid == c.cid with
  | none => s
  | some ch =>
    if member = noIdent then
      match planOf? (s.ctxBytes 0 plan plen) with
      | none => s
      | some j =>
        if !((j.members.filter (· != s.fab.ident)).all fun i => s.mir.plans.any fun q => q.1 == job && q.2.1 == i) then s
        else
        let s := { s with mir := { s.mir with plans := s.mir.plans.filter fun q => q.1 != job } }
        let s := (s.dropChange ch).modPv x fun p => { p with step := j.step0, epoch := 1, mepoch := 1, lvalid := false }
        let s := { s with jobs := s.jobs ++ [{ j with ctx := x, seed := (s.ctx x).seed, tenant := (s.ctx x).tenant }] }
        (s.recordsAt x j.step0).endCmd c .committed stOk (jobDetail 1 j.step0) (some used)
    else
      match s.mir.told.find? fun t => t.job == job, ch.boundary with
      | some t, some b =>
        match planOf? t.plan with
        | none => s
        | some j =>
          let j := ({ j with ctx := x, seed := t.seed, tenant := t.tenant } : Job).add ch.x ch.y ch.z
          let s := (s.dropChange ch).modPv x fun p => { p with step := t.pv.step, epoch := t.pv.epoch, mepoch := t.pv.mepoch + 1, lvalid := false }
          let s := { s with jobs := s.jobs ++ [j], mir := { s.mir with told := s.mir.told.filter fun k => k.job != job } }
          let s := s.tellJob j (svcBody 2 (le 8 job.toNat ++ le 4 (b + 1).toNat))
          ((s.loadScales x fun k => t.scales.getD k 0).recordsAt x t.pv.step).endCmd c .committed stOk (jobDetail (t.pv.mepoch + 1) (b + 1)) (some used)
      | _, _ => s

/-! ### Failures (R20, R401) -/

/-- A member of a job has failed: its changes are abandoned until the next boundary. A release that names it ends with ST_KILLED; a member
that only knows the leaving replica forgets the change, and is told again if it goes on. -/
def State.jobCheck (s : State) : State :=
  let failed := s.mir.settle.failed
  s.jobChanges.foldl (fun s c =>
    match s.job? c.job with
    | none => s
    | some j =>
      let own := match (s.cmd? c.cid).map (·.op) with
        | some (.jobRelease _ i) => failed.contains i
        | _ => c.release && decide (c.cid = 0) && failed.any fun i => identX i == c.x && identY i == c.y && identZ i == c.z && decide (identW i < j.tp)
      if own then
        (match s.cmd? c.cid with
         | some k => (s.dropChange c).endCmd k .killed stKilled 0
         | none => s.dropChange c)
      else if failed.any j.members.contains then
        { s with jobChanges := s.jobChanges.map fun k => if k = c then { k with boundary := none } else k }
      else s) s

/-- What a failure declaration does to intercalations and changes, once the failed are new. -/
def State.afterFailure (s new : State) : State :=
  if new.mir.settle.failed = s.mir.settle.failed then new else new.interCheck.jobCheck

/-- HEARTBEAT_MISS (R354). -/
def execHeartbeatMiss (link : LinkId) (s : State) : Host.Outcome State Fault Refusal := .next (State.placeAll (s.afterFailure (s.heartbeatMiss link)))
/-- FLIT_RECEIVE (R339). -/
def execFlitReceive (link : LinkId) (f : Flit) (s : State) : Host.Outcome State Fault Refusal :=
  .next (State.placeAll (s.afterFailure (s.flitReceive link f)))

end Sys2Proof.Machine
end

