-- ==== Sys2Proof/Machine/Hangs.lean ====
section
/-! DEFINITION. RAS: hangs, the guilty context, reset domains, the ember log, control cores (R429-R448). -/
namespace Sys2Proof.Machine

/-! ### Units and domains (R435, R447) -/

def unitClass (u : W16) : Nat := u.toNat / 4096
def unitIndex (u : W16) : Nat := u.toNat % 4096

/-- The reset domain of a unit; none is the device. -/
def domainOf (u : W16) : Option Domain :=
  let k := unitIndex u
  match unitClass u with
  | 5 => if k < 72 then some (.slice (Fin.ofNat 72 k)) else none
  | 6 => if k < 8 then some (.octave (Fin.ofNat 8 k)) else none
  | 7 => if k < 768 then some (.channel (Fin.ofNat 24 (k / 32)) (Fin.ofNat 32 k)) else none
  | 8 => if k < 14 then some (.link (Fin.ofNat 14 k)) else none
  | _ => none

/-- Code of a domain (R435). -/
def domainCode : Domain → Nat
  | .slice _ => 0
  | .octave _ => 1
  | .channel .. => 2
  | .link _ => 3

/-- Physical slots of a slice or octave domain. -/
def domainSlots : Domain → List SlotId
  | .slice p => [p]
  | .octave o => (List.finRange 72).filter fun p => decide (octOf p = o.val)
  | _ => []

/-- Logical engines that a domain holds. -/
def State.domainEngines (s : State) (d : Domain) : List EngineId :=
  (List.finRange 64).filter fun e => (domainSlots d).contains (s.slotOfEng e)

/-- The reset of a domain that is in progress, or that of the octave the domain lies in. -/
def Ras.resetOf (a : Ras) (d : Domain) : Option DomReset :=
  a.resets.find? fun r => decide (r.d = d) || (match d, r.d with
    | .slice p, .octave o => decide (octOf p = o.val)
    | _, _ => false)

/-! ### The named context (R433, R434) -/

/-- A hang names a context: the third within an hour fences it. -/
def State.markGuilty (s : State) (c : CtxId) : State :=
  if c = 0 then s
  else
    let l := s.within hourUs (s.ctx c).guilty
    let s := s.modCtx c fun x => { x with guilty := l }
    if l.length < 3 then s
    else ((if s.live c then s.fenceCtx c true else s)).raise evGuiltyRepeat unitRas (some c)

/-- Oldest issued command of a list: its context, 0 for none. -/
def oldestCtx (l : List Cmd) : CtxId :=
  match l.foldl (fun (best : Option Cmd) c => match best with
      | none => some c
      | some b => if c.issueNo < b.issueNo then some c else best) none with
  | none => 0
  | some c => c.ctx

/-- The context that the oldest outstanding operation of a unit carries. Which command that is, in a unit that many share,
is open: a free choice among those that run. -/
def State.namedCtx (s : State) (u : W16) : CtxId × State :=
  let running := s.sched.cmds.filter Cmd.running
  match domainOf u with
  | some (.link l) => (((s.fab.held.find? fun h => decide (h.out = l)).map (·.ctx)).getD 0, s)
  | some (.slice p) => (oldestCtx (running.filter fun c => c.kb.engs.any fun d => decide (s.slotOfEng d.eng = p)), s)
  | some (.octave o) => (oldestCtx (running.filter fun c => c.kb.engs.any fun d => decide (octOf (s.slotOfEng d.eng) = o.val)), s)
  | _ => if running.isEmpty then (0, s)
    else (((running[Config.freeNat s.free % running.length]? : Option Cmd).map (·.ctx)).getD 0, { s with free := s.free + 1 })

/-- ERR_HANG_LAST and the counts of a hang; domain 0xF is none. -/
def State.noteHang (s : State) (dom : Nat) (trigger : Byte) (unit : W16) (c : CtxId) (seq : W32) : State :=
  (s.modRas fun a => { a with hangDomain := Fin.ofNat 16 dom, hangTrigger := trigger, hangValid := true, hangCtx := c, hangUnit := unit,
                              hangSeq := seq }).count offHangCnt 0 1

/-! ### Fencing a domain (R436, R437) -/

/-- FIXED commands with work inside a domain: on its engines, on pages with a frame in the stack of its channel, or with
packets on its link. -/
def State.fixedInside (s : State) (d : Domain) : List Cmd :=
  s.sched.cmds.filter fun c => c.fixed && c.running && (match d with
    | .channel k _ => s.memUnit.pages.any fun p => decide (p.ctx = c.ctx) && decide (p.tier = .t2) && !p.zero && decide (p.frame % 24 = k.val) &&
        p.touches c.bufRanges
    | .link l => s.fab.held.any fun h => decide (h.out = l) && h.cid == c.cid
    | _ => c.kb.engs.any fun e => (s.domainEngines d).contains e.eng)

/-- Fence contexts with HALT, those that live. -/
def State.haltAll (s : State) (l : List CtxId) : State := l.eraseDups.foldl (fun s c => if s.live c then s.fenceCtx c true else s) s

/-- RAS fences a domain and its reset begins. Two slices of one octave make it the octave. -/
def State.beginReset (s : State) (d : Domain) (budget : Bool) (named : CtxId) (unit : W16) : State :=
  let (d, s) : Domain × State := match d with
    | .slice p =>
      let sib := s.ras.resets.filter fun (r : DomReset) => match r.d with
        | .slice q => decide (octOf p = octOf q) && p != q
        | _ => false
      if sib.isEmpty then (d, s)
      else (Domain.octave (Fin.ofNat 8 (octOf p)), s.modRas fun a => { a with resets := a.resets.filter fun r => !sib.contains r })
    | _ => (d, s)
  let root := (s.ras.incident? unit).elim (0 : W32) (·.id)
  let s := (s.domainEngines d).foldl (fun s e => s.modSlice e fun x => { x with out := true }) s
  let s := s.modRas fun a =>
    { a with resets := a.resets ++ [{ d, budget, named, namedGen := (s.ctx named).gen, unit, root }] }
  let fixedCtxs := (s.fixedInside d).map (·.ctx)
  (s.count offRstCnt (domainCode d) 1).haltAll (fixedCtxs ++ if budget then [named] else [])

/-! ### Budget hangs (R429, R430) -/

/-- The budget limit in sixteenths. -/
def budgetLimit (c : Cmd) : Nat := 2 * (if c.budget = 0 ∧ !planY (opCode c.op) then 16384 else c.budget)

/-- DETAIL of an ST_HANG reply. -/
def hangDetail (dom : Nat) (unit : W16) (clock : Nat) : W64 := BitVec.ofNat 64 (dom * 2 ^ 60 + unit.toNat * 2 ^ 32 + sat32 clock)

/-- The budget clock of a command stands: it is not issuing yet, a program of it is FAULTED, or its channel is ARMED, HELD or
FAULTED (R157, R311). -/
def State.clockStands (s : State) (c : Cmd) : Bool :=
  (planY (opCode c.op) && !c.issuing) || (c.kb.engs.any fun d => s.faultedOn c d.eng) ||
    (List.finRange 32).any fun k => (s.chan k).cid == c.cid && [.armed, .held, .faulted].contains (s.chan k).state

/-- BUDGET_HANG: the clock has reached the limit; the command stops on every unit, and ends when all confirm. -/
def State.budgetHang (s : State) (cid clock : Nat) (confirmed : Bool) : State :=
  match s.cmd? cid with
  | none => s
  | some c =>
    if !c.running || decide (clock < budgetLimit c) || s.clockStands c || s.stopping cid then s
    else
      let s := (s.noteHang 15 trigBudget 0xFFFF c.ctx c.seq).raiseRoot evHangBudget unitGsc (some c.ctx)
      if confirmed then (s.failCmd c stHang (hangDetail 15 0xFFFF clock) (some clock)).markGuilty c.ctx
      else s.modRas fun a => { a with stops := a.stops ++ [(cid, clock)] }

def execBudgetHang (cid clock : Nat) (confirmed : Bool) (s : State) : Host.Outcome State Fault Refusal :=
  .next (State.placeAll (s.budgetHang cid clock confirmed))

/-- HANG_STOP_TIMEOUT: a unit has not confirmed the stop within 64 µs; its domain is reset, and the command ends. -/
def State.stopTimeout (s : State) (cid : Nat) (unit : W16) : State :=
  match s.ras.stops.find? (fun p => p.1 == cid), s.cmd? cid with
  | some (_, clock), some c =>
    let dom := (domainOf unit).elim 4 domainCode
    let s := s.modRas fun a => { a with stops := a.stops.filter fun p => p.1 != cid, hangDomain := Fin.ofNat 16 dom, hangUnit := unit }
    let s := (s.failCmd c stHang (hangDetail dom unit clock) (some clock)).markGuilty c.ctx
    match domainOf unit with
    | none => s.deviceReset trigBudget unit (some c.ctx) (some unit)
    | some d => match s.ras.resetOf d with
      | some _ => s.haltAll [c.ctx]
      | none => ((s.touchIncident unit .fault evHangBudget).1).beginReset d true c.ctx unit
  | _, _ => s

def execHangStopTimeout (cid : Nat) (unit : W16) (s : State) : Host.Outcome State Fault Refusal := .next (State.placeAll (s.stopTimeout cid unit))

/-! ### Watchdogs (R431) -/

/-- The watchdogs of a unit are disabled: bit k of DISABLE stands for row k of R431; a slice holds the units of rows 0 to 2. -/
def Ras.wdogOff (a : Ras) (u : W16) : Bool :=
  let b (k : Nat) : Bool := a.wdogDisable.getLsbD k
  match unitClass u with
  | 5 => b 0 && b 1 && b 2
  | 6 => b 3
  | 7 => b 4
  | 8 => b 5
  | _ => b 6

/-- Units with a progress watchdog (R431). -/
def watched (u : W16) : Bool :=
  (domainOf u).isSome || [3, 4, 9, 0xA, 0xB, 0xC, 0xD, 0xE].contains (unitClass u)

def State.watchdogFire (s : State) (unit : W16) : State :=
  if !watched unit || s.ras.wdogOff unit then s
  else
    let (c, s) := s.namedCtx unit
    match domainOf unit with
    | none =>
      (((s.noteHang 4 trigWatchdog unit c 0).raiseRoot evHangUnit unit (some c)).markGuilty c).deviceReset trigWatchdog unit (some c) (some unit)
    | some d => match s.ras.resetOf d with
      | some r => (s.touchIncident r.unit .fault evHangUnit).1
      | none =>
        let s := ((s.noteHang (domainCode d) trigWatchdog unit c 0).raiseRoot evHangUnit unit (some c))
        (s.beginReset d false c unit).markGuilty c

def execWatchdogFire (unit : W16) (s : State) : Host.Outcome State Fault Refusal := .next (State.placeAll (s.watchdogFire unit))

/-! ### The drain window ends (R436, R438) -/

/-- A command with work inside a slice or octave domain. -/
def State.insideWork (s : State) (d : Domain) : List Cmd :=
  s.sched.cmds.filter fun c => c.running && c.kb.engs.any fun e => (s.domainEngines d).contains e.eng

/-- A killable command in a domain under reset is killed, to rerun when the domain returns; caught again by a watchdog of the
same domain it ends. -/
def State.killInside (s : State) (r : DomReset) (c : Cmd) : State :=
  if c.fixed then
    if r.budget then s.failCmd c stHang (hangDetail (domainCode r.d) r.unit 0) else s.failCmd c stReset 0
  else if !r.budget && s.ras.caught.contains (c.cid, r.d) then
    (s.failCmd c stHang (hangDetail (domainCode r.d) r.unit 0)).markGuilty c.ctx
  else
    (s.rollback c).modRas fun a =>
      { a with rerun := a.rerun ++ [(c.cid, r.d)], caught := if r.budget then a.caught else a.caught ++ [(c.cid, r.d)] }

/-- Requests that a channel or link discards: FIXED commands of the contexts fenced for it end. -/
def State.fencedReturn (s : State) (d : Domain) : State :=
  ((s.fixedInside d).filter fun c => (s.ctx c.ctx).state == .fenced).foldl (fun s c => s.failCid c.cid stCtxFenced 0) s

/-- Change the reset of a domain. -/
def State.modReset (s : State) (d : Domain) (f : DomReset → DomReset) : State :=
  s.modRas fun a => { a with resets := a.resets.map fun r => if r.d = d then f r else r }

def trigOf (r : DomReset) : Byte := if r.budget then trigBudget else trigWatchdog

/-- DOMAIN_DRAIN_END: what remains in the domain is discarded, and its record is to be captured. -/
def State.drainEnd (s : State) (d : Domain) : State :=
  match s.ras.resets.find? fun r => decide (r.d = d) && r.phase == .fenced with
  | none => s
  | some r =>
    let s : State := match d with
      | .link l =>
        let s := s.fencedReturn d
        if (s.link l).usable then (s.dropLink l noIdent).modLink l fun k => { k with state := .reconfig } else s
      | .channel .. => s.fencedReturn d
      | _ => (s.insideWork d).foldl (fun s c => match s.cmd? c.cid with
          | some c => s.killInside r c
          | none => s) s
    let seq : W32 := if r.budget then s.ras.hangSeq else 0
    (s.modReset d fun r => { r with phase := .drained }).modRas fun a =>
      { a with capturing := a.capturing ++ [{ domain := some d, trigger := trigOf r, ctx := some (r.named, r.namedGen), unit := r.unit,
                                              root := r.root, seq, tick := s.tick.now }] }

def execDomainDrainEnd (d : Domain) (s : State) : Host.Outcome State Fault Refusal := .next (State.placeAll (s.drainEnd d))

/-! ### Ember records (R443-R447) -/

/-- Units whose sections a record holds, with their order codes. -/
def sectionsOf (c : Capture) : List (W16 × Nat) :=
  let slots (l : List SlotId) : List (W16 × Nat) := l.map fun p => (unitSlice p, 8)
  let head : List (W16 × Nat) := [(unitRas, 1), (unitId 1 0, 2)]
  let last : List (W16 × Nat) := [(c.unit, 0xA)]
  match c.domain, c.coreId with
  | some d, _ => head ++ [(unitGsc, 4)] ++ (match d with
      | .channel k ch => [(unitChannel k ch, 6), (unitTmu, 6)]
      | _ => slots (domainSlots d)) ++ last
  | none, some k => head ++ [(unitCore k, 5)] ++ last
  | none, none =>
    head ++ (List.range 14).map (fun k => (unitId 8 k, 3)) ++ [(unitId 4 0, 4), (unitGsc, 4)] ++ (List.range 16).map (fun k => (unitId 2 k, 5)) ++
      (List.range 4).map (fun k => (unitId 0xB k, 6)) ++ (List.range 4).map (fun k => (unitId 0xA k, 7)) ++
      (List.range 4).map (fun k => (unitId 9 k, 7)) ++ [(unitVlt, 7), (unitId 0xD 0, 7)] ++ slots (List.finRange 72) ++ [(unitRas, 9)] ++ last

/-- A retired slice is skipped by a capture. -/
def State.skipped (s : State) (u : W16) : Bool :=
  decide (unitClass u = 5) && decide (unitIndex u < 72) && !(s.ras.slots[(Fin.ofNat 72 (unitIndex u) : SlotId)]).healthy

/-- STATE of a cursor (R155). -/
def Prog.cursorState (x : Prog) : Nat :=
  if x.wait = .faulted then 1 else if x.wait = .cancelled then 3 else if x.resuming then 2 else 0

/-- The 96 bytes of a slot's cursor (R155): the place of the last granule that faulted, 0 where none has. -/
def Prog.cursorBytes (x : Prog) : List Byte :=
  let g : Granule := x.cursor.getD { pos := 0, va := 0, lst := 0, size := 0, buf := 0, toMem := false, mcast := 0, idx := [], requested := false,
                                     ip := 0, run := 0, epochs := [] }
  let ahead := (List.range 64).foldl (fun n k => n + bitAt (x.ahead.contains (g.pos + k + 1)) k) 0
  (g.regs.ar.toList.flatMap fun a => le 8 a.toNat) ++ ((List.range 4).flatMap fun k => le 4 (g.idx.getD k 0)) ++
    (g.rc.toList.flatMap fun n => le 4 n) ++ (g.regs.loff.toList.flatMap fun o => le 4 (o % 2 ^ 22).toNat) ++ le 8 ahead ++
    le 4 (g.ip + 256 * x.cursorState) ++ le 4 x.faultId.toNat

/-- Data of a slice's section: bank table and tile state, which the manual does not lay out, and the cursors of its 16 slots. -/
def State.sliceSection (s : State) (u : W16) : List Byte :=
  let e := (List.finRange 64).find? fun e => unitSlice (s.slotOfEng e) == u
  Config.emberSection u.toNat 8 s.free ++ match e with
    | some e => (s.slice e).progs.toList.flatMap Prog.cursorBytes
    | none => (List.range 16).flatMap fun _ => ({} : Prog).cursorBytes

/-- Section entries and data: whether a unit answered, and what it answered, are open; the trace tail holds the trace. -/
def State.sectionData (s : State) (c : Capture) : List (List Byte × List Byte) :=
  let us := sectionsOf c
  let base := 128 + 16 * us.length
  (((List.range us.length).zip us).foldl (fun (acc : List (List Byte × List Byte) × Nat) x =>
    let (k, u, ord) := x
    let st := if s.skipped u then 3 else Config.freeNat (s.free + k) % 3
    let data := if st = 3 ∨ st = 1 then [] else if ord = 9 then s.ras.trace.reverse.flatMap EvRec.bytes
      else if ord = 8 then s.sliceSection u else Config.emberSection u.toNat ord s.free
    let failed := if st = 0 then 0 else Config.freeNat (s.free + us.length + k)
    (acc.1 ++ [(le 2 u.toNat ++ [BitVec.ofNat 8 ord, BitVec.ofNat 8 st] ++ le 4 acc.2 ++ le 4 data.length ++ le 4 failed, data)],
      acc.2 + data.length)) ([], base)).1

/-- Bytes of a domain record, and of the part a reduced record keeps. -/
def smallRecord : Nat := 65536
/-- Bytes of a capture slot. -/
def largeRecord : Nat := 6291456

/-- The bytes of a record of a kind (R446). -/
def State.recordBytes (s : State) (c : Capture) (kind : Nat) (us : W32) (limit : Nat) : List Byte :=
  let secs := s.sectionData c
  let rest := (secs.flatMap (·.1)) ++ secs.flatMap (·.2)
  let n := min limit (128 + rest.length)
  let head (digest : List Byte) : List Byte :=
    le 4 0x5A48454D ++ le 2 1 ++ [BitVec.ofNat 8 kind, BitVec.ofNat 8 (match c.domain, c.coreId with
      | some d, _ => domainCode d
      | none, some _ => 0xF
      | none, none => 4)] ++ le 4 c.tick ++ le 4 s.boot.incarn.toNat ++ le 2 s.fab.ident.toNat ++ [BitVec.ofNat 8 s.fab.pslot.val, 0] ++
      le 4 c.root.toNat ++ [c.trigger] ++ ctxGenBytes c.ctx ++ [0] ++ le 2 c.unit.toNat ++ le 2 secs.length ++ le 4 c.seq.toNat ++
      le 2 c.opcode.toNat ++ le 2 0 ++ le 4 n ++ le 4 us.toNat ++ digest ++ le 4 c.node ++ List.replicate 28 0
  let zero := List.replicate 48 (0 : Byte)
  (head (sha384 ((head zero ++ rest).take limit)) ++ rest).take limit

/-- Put a record into the domain ring, unless it would overwrite one not yet copied. -/
def Ras.putRing (a : Ras) (e : Ember) : Ras :=
  let k := a.ringCount % 64
  match (a.domRing[k]? : Option Ember) with
  | none => { a with domRing := a.domRing ++ [e], ringCount := a.ringCount + 1 }
  | some x => if x.copied then { a with domRing := a.domRing.set k e, ringCount := a.ringCount + 1 } else a

/-- Put a device record into a capture slot that is empty or copied, else, reduced, into the domain ring. -/
def State.putDevice (s : State) (c : Capture) (us : W32) : State :=
  let avail (k : Fin 2) : Bool := (s.ras.capSlots[k]).all (·.copied)
  let full : Ember := { kind := 1, bytes := s.recordBytes c 1 us largeRecord }
  if avail 0 then s.modRas fun a => { a with capSlots := vmod a.capSlots 0 fun _ => some full }
  else if avail 1 then s.modRas fun a => { a with capSlots := vmod a.capSlots 1 fun _ => some full }
  else s.modRas fun a => a.putRing { kind := 2, bytes := s.recordBytes c 2 us smallRecord }

/-- Free every bank of a slice or octave domain, VISIBLE ones too: handles that lose a bank become invalid (R439). What an
injection did to the units is over. -/
def State.clearDomain (s : State) (d : Domain) : State :=
  let us := domainUnit d :: (domainSlots d).map unitSlice
  let s := (s.domainEngines d).foldl (fun s e =>
    let x := s.slice e
    let lost := x.banks.toList.filterMap fun b => match b.owner with
      | some (c, _) => if b.state == .visible then some (c, e, b.handle) else none
      | none => none
    let s := (List.finRange 16).foldl (fun s b => s.zeroBank e b) s
    let s := s.modSlice e fun x =>
      { x with banks := x.banks.map fun (b : Bank) => (if b.state == BankState.free then { b with owner := none } else { b.release with owner := none }),
               tiles := [], late := [], flips := 0, hung := false }
    s.modRas fun a => { a with invalid := a.invalid ++ lost.eraseDups.filter fun h => !a.invalid.contains h }) s
  s.modRas fun a => { a with hungUnits := a.hungUnits.filter fun u => !us.contains u }

/-- The capture in progress completes: its record is written. The answer carries what was captured. -/
def State.captureDone (s : State) (us : W32) : State × Option Capture :=
  match s.ras.capturing with
  | [] => (s, none)
  | c :: t =>
    let s := s.modRas fun a => { a with capturing := t }
    let drawn := 2 * (sectionsOf c).length + 1
    let s := match c.domain, c.coreId with
      | some d, _ =>
        let s := s.modRas fun a => a.putRing { kind := 0, bytes := s.recordBytes c 0 us smallRecord }
        if s.ras.resets.any fun r => decide (r.d = d) then (s.clearDomain d).modReset d fun r => { r with phase := .captured } else s
      | none, some _ => s.modRas fun a => a.putRing { kind := 3, bytes := s.recordBytes c 3 us smallRecord }
      | none, none => s.putDevice c us
    ({ s with free := s.free + drawn }, some c)

/-! ### A domain returns, or does not (R435, R438, R440, R441) -/

/-- Engines of a domain take commands again, unless another reset still holds them. -/
def State.reopen (s : State) (d : Domain) : State :=
  (s.domainEngines d).foldl (fun s e => s.modSlice e fun x => { x with out := false }) s

/-- DOMAIN_RESET_RETURN: the fence lifts, and what was killed may run again. -/
def State.resetReturn (s : State) (d : Domain) : State :=
  match s.ras.resets.find? fun r => decide (r.d = d) && r.phase == .captured with
  | none => s
  | some r =>
    let s := s.modRas fun a => { a with resets := a.resets.filter fun x => x != r, rerun := a.rerun.filter fun p => decide (p.2 ≠ d) }
    let s : State := match d with
      | .link l => if (s.link l).state = .reconfig then
          ((s.modLink l fun k => { k with state := .up, credits := ({} : Link).credits, freed := ({} : Link).freed, replay := [], replaying := [] })).pump l
        else s
      | _ => s.reopen d
    (s.raiseRoot evDomainReset r.unit (some r.named)).placeAll

def execDomainResetReturn (d : Domain) (s : State) : Host.Outcome State Fault Refusal := .next (State.placeAll (s.resetReturn d))

/-- A channel does not come back: a reserve takes its place without a copy, and every frame of the stack, each of which has
lines in the channel (R208), is retired with its pages poisoned. Without a reserve the stack leaves service. -/
def State.channelLost (s : State) (k : StackId) (ch : Fin 32) : State :=
  let x := s.memUnit.hbm[k]
  if x.out then s
  else
    let s := s.poisonPages fun p => p.inStack k
    if x.reserve = 0 then s.stackOut k
    else
      let new := ((List.range 30720).map fun n => 24 * n + k.val).filter fun f => !s.memUnit.retiredFrames.contains f
      let s := (s.modStack k fun x => { x with reserve := x.reserve - 1, retired := satTo 65535 (x.retired + new.length),
                                               rows := x.rows.filter fun r => decide (r.channel ≠ ch) }).retirePart 1 (BitVec.ofNat 16 (32 * k.val + ch.val)) 0
      let s := s.modMem fun m => { m with retiredFrames := new ++ m.retiredFrames, cap := m.cap - new.length }
      let s := s.ledgerAdd 3 1 (BitVec.ofNat 16 k.val) 1 (le 4 new.length)
      s.shrinkAll

/-- DOMAIN_RESET_FAILED: a slice or octave escalates to the device; a channel is replaced; a link goes DOWN. -/
def State.resetFailed (s : State) (d : Domain) : State :=
  match s.ras.resets.find? fun r => decide (r.d = d) with
  | none => s
  | some r =>
    let s := s.modRas fun a => { a with resets := a.resets.filter fun x => x != r, rerun := a.rerun.filter fun p => decide (p.2 ≠ d) }
    match d with
    | .channel k ch => s.channelLost k ch
    | .link l => (s.linkDown l .down).dropLink l noIdent
    | _ =>
      let s := (domainSlots d).foldl (fun s p =>
        (s.modRas fun a => { a with slots := vmod a.slots p fun x => { x with healthy := false } }).retirePart 0 (BitVec.ofNat 16 p.val) 0) s
      (s.raiseRoot evResetFailed r.unit (some r.named)).deviceReset trigResetFailed r.unit (some r.named) (some r.unit)

def execDomainResetFailed (d : Domain) (s : State) : Host.Outcome State Fault Refusal := .next (s.resetFailed d)

/-! ### Control cores (R270, R426, R432) -/

def State.coreState (s : State) (k : CoreId) : CoreState := s.sched.cores[k]
def State.setCore (s : State) (k : CoreId) (x : CoreState) : State := s.modSched fun g => { g with cores := vmod g.cores k fun _ => x }

/-- Rings a core serves. -/
def State.ringsOf (s : State) (k : CoreId) : List RingId :=
  (List.finRange 65).filter fun r => decide ((s.ring r).server = k) && (s.ring r).state != .disabled

/-- The free core that serves the fewest rings, the lowest number on ties. -/
def State.leastCore (s : State) (avoid : Option CoreId) : Option CoreId :=
  ((List.finRange 16).filter fun k => decide (some k ≠ avoid) && s.coreState k == .free).foldl (fun (best : Option CoreId) k =>
    match best with
    | none => some k
    | some b => if (s.ringsOf k).length < (s.ringsOf b).length then some k else best) none

/-- Move a core's rings: all of them to a reserve core, which comes into service, else each to the core with the fewest. -/
def State.moveRings (s : State) (k : CoreId) : State :=
  match (List.finRange 16).find? fun j => s.coreState j == .reserve with
  | some j => (s.ringsOf k).foldl (fun s r => s.modRing r fun x => { x with server := j }) (s.setCore j .free)
  | none => (s.ringsOf k).foldl (fun s r => match s.leastCore (some k) with
      | some j => s.modRing r fun x => { x with server := j }
      | none => s) s

/-- Order in which services give way when cores run out. -/
def dropServices : List Service := [.checkpointAgent, .membership, .jobAgent]

/-- Start a service on the free core with the fewest rings, which move; without one, on the core of a service that gives way
before it. -/
def State.placeService (s : State) (svc : Service) : State :=
  match s.leastCore none with
  | some k => ((s.setCore k (.service svc)).moveRings k)
  | none =>
    let before := dropServices.takeWhile (· != svc)
    match before.findSome? fun v => (List.finRange 16).find? fun k => decide (s.coreState k = .service v) with
    | some k => s.setCore k (.service svc)
    | none => s

/-- A core is taken from service: its rings move, and the service it ran starts on another. -/
def State.yieldCore (s : State) (k : CoreId) (to_ : CoreState) : State :=
  let svc := match s.coreState k with
    | .service v => some v
    | _ => none
  let s := (s.setCore k to_).moveRings k
  match svc with
  | some v => s.placeService v
  | none => s

/-- CORE_PING_TIMEOUT: a core in service has not answered. The second hang in 24 h retires it, injected ones apart. -/
def State.pingTimeout (s : State) (k : CoreId) : State :=
  match s.coreState k with
  | .stopped | .retired | .reserve => s
  | _ =>
    let injected := s.ras.hungUnits.contains (unitCore k)
    let l := if injected then s.ras.coreHangs[k] else s.within dayUs s.ras.coreHangs[k]
    let s := s.modRas fun a => { a with coreHangs := vmod a.coreHangs k fun _ => l }
    let s := (s.raiseRoot evCoreRestart (unitCore k)).count offRstCnt 5 1
    let s := { s with fwBanks := vmod s.fwBanks k fun _ => {} }
    let root := (s.ras.incident? (unitCore k)).elim (0 : W32) (·.id)
    let s := s.modRas fun a => { a with capturing := a.capturing ++ [{ coreId := some k, trigger := trigCorePing, unit := unitCore k, root,
                                                                        tick := s.tick.now }] }
    if 2 ≤ l.length ∧ !injected then (s.yieldCore k .retired).retirePart 4 (BitVec.ofNat 16 k.val) 0 else s.yieldCore k .stopped

def execCorePingTimeout (core : CoreId) (s : State) : Host.Outcome State Fault Refusal := .next (s.pingTimeout core)

/-- CORE_RESTART_DONE: a stopped core that passes its test is free again; one that fails is retired. -/
def State.coreRestart (s : State) (k : CoreId) (pass : Bool) : State :=
  if s.coreState k ≠ .stopped then s
  else
    let s := s.modRas fun a => { a with hungUnits := a.hungUnits.filter (· != unitCore k) }
    if pass then s.setCore k .free else (s.setCore k .retired).retirePart 4 (BitVec.ofNat 16 k.val) 0

def execCoreRestartDone (core : CoreId) (pass : Bool) (s : State) : Host.Outcome State Fault Refusal := .next (s.coreRestart core pass)

end Sys2Proof.Machine
end

