-- ==== Sys2Proof/Machine/Diag.lean ====
section
/-! DEFINITION. Writes that a command makes directly (R546); sentinels (R420-R424); diagnosis and injection commands
(R424, R449, R450, R475, R476). -/
namespace Sys2Proof.Machine

/-! ### Direct writes (R546) -/

/-- First cell of a list that a context may not write now, with its cause; the cells before it. -/
def State.writable (s : State) (c : CtxId) : List Host.Cell → List Host.Cell × Option (Host.Cell × FCause)
  | [] => ([], none)
  | x :: t => match s.access c x.1 true with
    | some cause => ([], some (x, cause))
    | none => let (l, r) := s.writable c t; (x :: l, r)

/-- The command writes what it has left to write; on a fault it waits, and its write goes on at COMMIT. -/
def State.pumpWrite (s : State) (cid : Nat) : Started :=
  match s.cmd? cid with
  | none => (s, none)
  | some c =>
    if c.waitFault.isSome then (s, none)
    else
      let (ok, bad) := s.writable c.ctx c.staged
      let s := (s.writeCells c.ctx ok).modCmd cid fun d => { d with staged := d.staged.drop ok.length }
      match bad with
      | none =>
        let st := c.final.getD stOk
        (s, some (if st = stOk then .committed else .killed, st, c.detail))
      | some (x, cause) =>
        let (s, id) := s.fault { id := 0, ctx := c.ctx, gen := c.gen, cause, write := true, src := .cmd, unit := 0, prog := 0, va := x.1,
                                 seq := c.seq, node := c.node, tick := s.tick.now, cid, recorded := true }
        (s.modCmd cid fun d => { d with waitFault := some id }, none)

/-- Write bytes to a context's memory, then end with a status and DETAIL. -/
def State.directWrite (s : State) (cid va : Nat) (bs : List Byte) (detail : W64) (status : Option W16 := none) : Started :=
  (s.modCmd cid fun d => { d with staged := cellsAt va bs, detail, final := status }).pumpWrite cid

/-- The destination of a direct write is mapped, writable and aligned. -/
def State.destOk (s : State) (c : CtxId) (va len : Nat) : Bool := decide (va % 64 = 0) && s.rangeOk c va len false true

def destRange (va len : Nat) : List BufD := [{ va, len, r := false, w := true }]

/-! ### Sentinels (R420-R423) -/

/-- Temperature band and load condition of a fingerprint: 8 bands of 5 °C from 30 °C. -/
def Finger.cell (f : Finger) : Nat × Nat := ((min 7 (max 0 ((f.temp.toInt - 30) / 5))).toNat, f.cond.toNat % 4)
/-- Cell and pattern as they wait for a recheck. -/
def Finger.key (f : Finger) : Byte × Byte := (BitVec.ofNat 8 (4 * f.cell.1 + f.cell.2), f.pattern)

/-- Passes that firmware memory keeps. -/
def passDepth : Nat := 4096

/-- Injected flips await the next chunks on a slot, and a pattern runs chunks there (R421, R450). -/
def State.flipped (s : State) (p : SlotId) (pattern : Nat) : Bool :=
  match (List.finRange 64).find? fun e => decide (s.slotOfEng e = p) with
  | some e => decide (0 < (s.slice e).flips) && decide (1 ≤ pattern ∧ pattern ≤ 5)
  | none => false

/-- A result of a sentinel on a slot. A pass is kept and its cell counts as passed; a mismatch is recorded against the slot,
as reproducible when it recurs under the cell that awaits its recheck. -/
def State.sentinelResult (s : State) (f : Finger) : State :=
  let p := f.slot
  let x := s.ras.slots[p]
  let injected := s.flipped p f.pattern.toNat
  let s := if injected then (List.finRange 64).foldl (fun s e => if s.slotOfEng e = p then s.modSlice e fun y => { y with flips := 0 } else s) s else s
  if !x.healthy then s
  else if f.result = 0 then
    s.modRas fun a =>
      { a with passes := (a.passes ++ [f]).drop (a.passes.length + 1 - passDepth)
               slots := vmod a.slots p fun y =>
                 { y with cells := (f.cell, s.nowUs) :: y.cells.filter fun z => z.1 != f.cell && decide (s.nowUs < z.2 + dayUs), lastPass := some s.tick.now,
                          recheck := if y.recheck = some f.key then none else y.recheck } }
  else
    let again := decide (x.recheck = some f.key)
    (s.modRas fun a => { a with slots := vmod a.slots p fun y => { y with recheck := if again || injected then y.recheck else some f.key } }).noteMismatch
      f again injected none

/-- The fingerprint of a sentinel run. -/
def State.sentinelFinger (s : State) (slot : SlotId) (pattern cond temp : Byte) (vcore : W16) (result : Fin 4) (chunk : W32) : Finger :=
  { tick := s.tick.now, slot, pattern, cond := s.condByte cond.toNat, temp, vcore, result, chunk }

/-- SENTINEL_RUN (R420-R423). -/
def execSentinelRun (slot : SlotId) (pattern cond temp : Byte) (vcore : W16) (result : Fin 4) (chunk : W32) (s : State) :
    Host.Outcome State Fault Refusal :=
  .next (if 1 ≤ pattern.toNat ∧ pattern.toNat ≤ 8 ∧ cond.toNat ≤ 2 then s.sentinelResult (s.sentinelFinger slot pattern cond temp vcore result chunk) else s)

/-- SENTINEL_RECHECK (R423): the pattern that mismatched runs again under the same cell. -/
def execSentinelRecheck (slot : SlotId) (pattern cond temp : Byte) (vcore : W16) (result : Fin 4) (chunk : W32) (s : State) :
    Host.Outcome State Fault Refusal :=
  let f := s.sentinelFinger slot pattern cond temp vcore result chunk
  .next (if (s.ras.slots[slot]).recheck = some f.key then s.sentinelResult f else s)

/-! ### DIAG_SENTINEL (R424) -/

def State.checkSentinel (s : State) (c : CtxId) (engine pattern cond : Byte) (va len : Nat) : Checked :=
  checks [(decide (engine.toNat < 64) || engine == 0xFF, stBounds), (decide (pattern.toNat ≤ 8), stBounds), (decide (cond.toNat ≤ 2), stBounds),
    (s.rangeOk c va len false true, stBounds)] { ranges := destRange va len }

/-- Runs of the command: (engine, pattern). -/
def sentinelRuns (engine pattern : Byte) : List (EngineId × Nat) :=
  let es := if engine = 0xFF then List.finRange 64 else [Fin.ofNat 64 engine.toNat]
  let ps := if pattern = 0 then (List.range 8).map (· + 1) else [pattern.toNat]
  es.flatMap fun e => ps.map fun p => (e, p)

/-- How a run on demand ends, 0 for PASS: the outside world's, but that a check lane sees an injected flip (DEDUCED). -/
def State.runOutcome (s : State) (slot : SlotId) (pattern n : Nat) : Fin 4 :=
  let r := Config.sentinelOutcome slot.val pattern n
  if r = 0 ∧ s.flipped slot pattern then 2 else r

/-- One run on demand; at what temperature and rail it runs is the outside world's. -/
def State.runSentinel (s : State) (e : EngineId) (pattern : Nat) (cond : Byte) : State × Option Finger :=
  let slot := s.slotOfEng e
  let r := s.runOutcome slot pattern s.free
  let f := s.sentinelFinger slot (BitVec.ofNat 8 pattern) cond (Config.freeByte s.free) (BitVec.ofNat 16 (Config.freeNat s.free)) r (Config.freeWord s.free)
  (({ s with free := s.free + 1 }).sentinelResult f, if r = 0 then none else some f)

def State.startSentinel (s : State) (cid : Nat) (engine pattern cond : Byte) (va len : Nat) : Started :=
  let (s, bad) := (sentinelRuns engine pattern).foldl (fun (acc : State × List Finger) x =>
    let (s, f) := acc.1.runSentinel x.1 x.2 cond
    (s, acc.2 ++ f.toList)) (s, [])
  if bad.isEmpty then doneOk s
  else s.directWrite cid va ((bad.flatMap Finger.bytes).take len) 0 (some stCheckMismatch)

/-! ### DIAG_BIST (R475) -/

/-- A unit that may be tested: a slice, core or channel in use. -/
def State.testable (s : State) (u : W16) : Bool :=
  let k := unitIndex u
  match unitClass u with
  | 2 => decide (k < 16) && s.coreState (Fin.ofNat 16 k) != .retired && s.coreState (Fin.ofNat 16 k) != .stopped
  | 5 => decide (k < 72) && (s.ras.slots[(Fin.ofNat 72 k : SlotId)]).healthy
  | 7 => decide (k < 768) && !(s.memUnit.hbm[(Fin.ofNat 24 (k / 32) : StackId)]).out
  | _ => false

def State.checkBist (s : State) (c : CtxId) (unit : W16) (level : Byte) (va len : Nat) : Checked :=
  checks [(s.testable unit, stBounds), (decide (level.toNat ≤ 1), stBounds), (s.rangeOk c va len false true, stBounds)] { ranges := destRange va len }

/-- A slice yields its engine to a reserve: none without one. -/
def State.yieldSlice (s : State) (p : SlotId) : Option State :=
  match (List.finRange 64).find? fun e => decide (s.slotOfEng e = p) with
  | none => some s
  | some e => (s.ras.reserveFor (octOf p)).map fun q =>
      ((s.moveWork e).modRas fun a => { a with map := vmod a.map e fun _ => q }).modSlice e fun x => { x with flips := 0, hung := false }

/-- The unit is out of use: none where no reserve takes its place. -/
def State.yieldUnit (s : State) (u : W16) : Option State :=
  let k := unitIndex u
  match unitClass u with
  | 2 => some (s.yieldCore (Fin.ofNat 16 k) .stopped)
  | 5 => s.yieldSlice (Fin.ofNat 72 k)
  | _ =>
    let st : StackId := Fin.ofNat 24 (k / 32)
    let ch : Fin 32 := Fin.ofNat 32 k
    if (s.memUnit.hbm[st]).reserve = 0 then none
    else some ((s.modStack st fun x => { x with reserve := x.reserve - 1, copying := ch :: x.copying.filter (· != ch) }).copyDone st ch [])

/-- After the test: a unit that passed is a reserve; one that failed is retired. -/
def State.afterBist (s : State) (u : W16) (pass : Bool) : State :=
  let k := unitIndex u
  match unitClass u with
  | 2 => if pass then s.setCore (Fin.ofNat 16 k) .reserve else (s.setCore (Fin.ofNat 16 k) .retired).retirePart 4 (BitVec.ofNat 16 k) 0
  | 5 => if pass then s else s.retireSlice (Fin.ofNat 72 k) 0 []
  | _ => if pass then s.modStack (Fin.ofNat 24 (k / 32)) fun x => { x with reserve := x.reserve + 1 } else s.retirePart 1 (BitVec.ofNat 16 k) 0

def State.startBist (s : State) (cid : Nat) (unit : W16) (va len : Nat) : Started :=
  match s.yieldUnit unit with
  | none => doneBad s stQuota
  | some s =>
    let n := Config.bistFailures s.free
    let res := (List.range 64).map fun k => Config.freeByte (s.free + k)
    let s := ({ s with free := s.free + 64 }).afterBist unit (decide (n = 0))
    s.directWrite cid va (res.take len) (BitVec.ofNat 64 (sat32 n))
      (if n = 0 then none else some (if unitClass unit = 7 then stUncorrectable else stCheckMismatch))

/-! ### DIAG_PRBS (R476) -/

def State.checkPrbs (s : State) (c : CtxId) (link pattern : Byte) (va : Nat) : Checked :=
  checks [(decide (link.toNat < 14), stBounds), (decide (pattern.toNat ≤ 2), stBounds),
    (s.fab.disable.getLsbD link.toNat && (s.link (Fin.ofNat 14 link.toNat)).state == .disabled, stBounds), (s.rangeOk c va 144 false true, stBounds)]
    { ranges := destRange va 144 }

def State.startPrbs (s : State) (cid : Nat) (duration : W16) (va : Nat) : Started :=
  if duration = 0 then doneOk s
  else
    let bs := (List.range 18).flatMap fun k => le 8 (Config.prbsErrors k s.free).toNat
    ({ s with free := s.free + 1 }).directWrite cid va bs 0

/-! ### DIAG_EMBER_READ (R449) -/

/-- The record at an index of a source. -/
def Ras.emberAt (a : Ras) (src index : Nat) : Option Ember :=
  match src with
  | 0 => if index = 0 then a.capSlots[(0 : Fin 2)] else none
  | 1 => if index = 0 then a.capSlots[(1 : Fin 2)] else none
  | 2 => a.domRing[index]?
  | 3 => a.devArchive[index]?
  | 4 => a.domArchive[index]?
  | 5 => a.summaries[index]?
  | _ => none

def State.checkEmber (s : State) (c : CtxId) (src : Byte) (index : W16) (off va len : Nat) : Checked :=
  let e := s.ras.emberAt src.toNat index.toNat
  checks [(decide (src.toNat ≤ 5), stBounds), (s.destOk c va len, stBounds),
    (decide (len = 0) || e.any fun e => decide (off + len ≤ e.bytes.length), stBounds)]
    { ranges := destRange va len, empty := decide (len = 0) }

def State.startEmber (s : State) (cid : Nat) (src : Byte) (index : W16) (off va len : Nat) : Started :=
  match s.ras.emberAt src.toNat index.toNat with
  | none => doneBad s stBounds
  | some e => s.directWrite cid va (sliceOf e.bytes off len) (BitVec.ofNat 64 (e.bytes.length % 2 ^ 32 + e.kind.toNat * 2 ^ 32))

/-! ### DIAG_INJECT (R450) -/

def State.checkInject (s : State) (ok : Bool) : Checked := checks [(s.ras.injEnable, stPerm), (ok, stBounds)]

/-- A unit id whose class and index exist (R447). -/
def unitExists (u : W16) : Bool :=
  let k := unitIndex u
  match unitClass u with
  | 2 => decide (k < 16)
  | 5 => decide (k < 72)
  | 6 => decide (k < 8)
  | 7 => decide (k < 768)
  | 8 => decide (k < 14)
  | 9 | 0xA | 0xB => decide (k < 4)
  | 0xF => false
  | _ => decide (k = 0)

/-- UNIT_HANG: the target makes no progress until it is reset. -/
def State.injectHang (s : State) (u : W16) : State :=
  let s := s.modRas fun a => { a with hungUnits := u :: a.hungUnits.filter (· != u) }
  if unitClass u = 5 then
    (List.finRange 64).foldl (fun s e => if (s.slotOfEng e).val = unitIndex u then s.modSlice e fun x => { x with hung := true } else s) s
  else s

/-- CHECK_FLIP: product bits of the next chunks on a slice flip. -/
def State.injectFlip (s : State) (u : W16) (n : Nat) : State :=
  (List.finRange 64).foldl (fun s e => if (s.slotOfEng e).val = unitIndex u then s.modSlice e fun x => { x with flips := x.flips + n } else s) s

/-- ECC_CE: corrected errors are counted, and count toward no retirement. -/
def State.injectCe (s : State) (u : W16) (n : Nat) : State := s.count offMemCe (unitIndex u / 32) n

/-- ECC_UE: one error on a line of the channel: which line is open. A page with data there is poisoned. -/
def State.injectUe (s : State) (u : W16) : State :=
  let k := unitIndex u / 32
  let f := 24 * Config.freeNat s.free + k
  (({ s with free := s.free + 1 }).count offMemUe k 1 |>.raise evMemUe u none).poisonPages (·.holds f)

/-- EVENT_FLOOD. -/
def State.injectFlood (s : State) (code u : W16) : Nat → State
  | 0 => s
  | n + 1 => (s.raise code u).injectFlood code u n

end Sys2Proof.Machine
end

