-- ==== Sys2Proof/Machine/Admin.lean ====
section
/-! DEFINITION. Administrative commands and queries: mode, services, serving instances, front-end queues, progress, status,
telemetry (R21-R24, R271, R280, R300, R301, R483, R490, R520). -/
namespace Sys2Proof.Machine

/-! ### The mode word (R21-R24) -/

/-- A value for MODE_CTL with a reserved encoding. -/
def modeReserved (v : Nat) : Bool := bitsOf v 9 8 == 3 || bitsOf v 5 4 == 3 || bitsOf v 1 0 == 3

/-- MODE_CTL takes a value: CHECK holds for commands admitted from now on, the others take effect later. -/
def State.setMode (s : State) (v : Nat) : State :=
  { s with mode := { s.mode with lock := s.mode.lock || bitOf v 31, role := Fin.ofNat 4 (bitsOf v 13 12), guardF := Fin.ofNat 4 (bitsOf v 9 8),
                                 check := Fin.ofNat 4 (bitsOf v 5 4), power := Fin.ofNat 4 (bitsOf v 1 0),
                                 checkNow := Fin.ofNat 4 (bitsOf v 5 4) } }

def State.checkMode (s : State) (mode : W32) : Checked := checks [(!modeReserved mode.toNat, stBounds), (!s.mode.lock, stPerm)]

def State.startMode (s : State) (mode : W32) : Started := doneOk (s.setMode mode.toNat)

/-- Some field of MODE_CTL differs from the value in effect. -/
def Mode.pending (m : Mode) : Bool :=
  m.role != m.roleNow || m.guardF != m.guardNow || m.check != m.checkNow || m.power != m.powerNow

/-- MODE_CTL and MODE_STAT as they read. -/
def Mode.ctl (m : Mode) : Nat := bitAt m.lock 31 + m.role.val * 2 ^ 12 + m.guardF.val * 2 ^ 8 + m.check.val * 2 ^ 4 + m.power.val
def Mode.stat (m : Mode) : Nat :=
  bitAt m.pending 30 + bitAt m.capped 29 + m.roleNow.val * 2 ^ 12 + m.guardNow.val * 2 ^ 8 + m.checkNow.val * 2 ^ 4 + m.powerNow.val

/-! ### Services (R271) -/

def service? (b : Byte) : Option Service :=
  match b.toNat with
  | 0 => some .servingLoop
  | 1 => some .jobAgent
  | 2 => some .membership
  | 3 => some .checkpointAgent
  | _ => none

/-- A service runs. -/
def State.serviceRuns (s : State) (v : Service) : Bool := s.sched.cores.toList.any fun k => decide (k = CoreState.service v)

/-- Hashes of the firmware keys: of the active OTP edition. -/
def State.firmwareKeys (s : State) : List Byte × List Byte :=
  match s.boot.active.bind fun e => s.boot.otp[e] with
  | some img => (sliceOf img 0x10 48, sliceOf img 0x40 48)
  | none => (Config.measurement 0, Config.measurement 1)

/-- A manifest followed by its image: why it does not verify against the firmware keys, as STAGE and chunk. -/
def State.badFirmware (s : State) (fmt : Nat) (bs : List Byte) : Option (Nat × Nat) :=
  let chunks := leAt bs 0x10 4
  let m := bs.take (8192 + 48 * chunks)
  let img := bs.drop (8192 + 48 * chunks)
  match manifestBad fmt 0 (some s.firmwareKeys) m with
  | some (_, st) => some (st, 0)
  | none =>
    let man := manifestOf m
    if img.length ≠ man.imageLen then some (4, 0)
    else match (List.range chunks).find? fun i => leafHash i ((img.drop (i * chunkBytes)).take chunkBytes) != man.leaf.getD i [] with
      | some i => some (5, i)
      | none => none

def State.checkServiceStart (s : State) (c : CtxId) (svc : Byte) (va len : Nat) : Checked :=
  checks [((service? svc).isSome, stBounds), (s.rangeOk c va len true false, stBounds),
    ((service? svc).all fun v => !s.serviceRuns v, stQuota), ((s.leastCore none).isSome, stQuota)]
    { ranges := [{ va, len, r := true, w := false }] }

def State.startServiceStart (s : State) (c : CtxId) (svc : Byte) (va len : Nat) : Started :=
  match s.badFirmware 2 (s.ctxBytes c va len), service? svc with
  | some (st, chunk), _ => doneBad s stSignature (sigDetail st chunk)
  | none, some v => doneOk ((s.placeService v).modSched fun g =>
      { g with svcRoots := (svc, sliceOf (s.ctxBytes c va 0x50) 0x20 48) :: g.svcRoots.filter fun r => r.1 != svc })
  | none, none => doneBad s stBounds

def State.checkServiceStop (s : State) (svc : Byte) : Checked := checks [((service? svc).any s.serviceRuns, stBounds)]

/-- A service ends: its core is free again. The serving loop's instances, sessions and requests end with it. -/
def State.endService (s : State) (v : Service) : State :=
  let s := s.modSched fun g => { g with cores := g.cores.map fun (k : CoreState) => if k = CoreState.service v then CoreState.free else k }
  if v = .servingLoop then { s with serve := { s.serve with insts := Vector.replicate 16 none, sessions := [], reqs := [] } } else s

/-- STOP: the service ends once every command that came by a core ring has replied. -/
def State.finishServiceStop (s : State) (cid : Nat) (svc : Byte) : Started :=
  match service? svc with
  | none => doneBad s stBounds
  | some v =>
    if s.sched.cmds.any fun c => c.cid != cid && (s.ring c.ring).core then (s, none)
    else doneOk ((s.endService v).modSched fun g => { g with stopping := g.stopping.filter fun p => p.2 != cid })

def State.startServiceStop (s : State) (cid : Nat) (svc : Byte) : Started :=
  match service? svc with
  | none => doneBad s stBounds
  | some v => (s.modSched fun g => { g with stopping := g.stopping ++ [(v, cid)] }).finishServiceStop cid svc

/-! ### Front-end queues (R483) -/

def State.checkFeQueue (s : State) (queue ctx : Byte) (udp : W16) (spread index : Byte) : Checked :=
  let q := s.serve.queues[(Fin.ofNat 64 queue.toNat : Fin 64)]
  let rx := decide (32 ≤ queue.toNat)
  checks [(decide (queue.toNat < 64), stBounds), (ctx == 0xFF || ctxField ctx, stBounds),
    (ctx == 0xFF || (s.ctx (ctxOf ctx)).state == .active, stCtxDead),
    (ctx == 0xFF || !rx || (decide (udp ≠ 0) && decide (1 ≤ spread.toNat ∧ spread.toNat ≤ 16) && decide (index.toNat < spread.toNat)), stBounds),
    (ctx == 0xFF || q.ctx.isNone || q.ctx == some (ctxOf ctx), stBounds)]

def State.modQueue (s : State) (q : Fin 64) (f : FeQueue → FeQueue) : State := { s with serve := { s.serve with queues := vmod s.serve.queues q f } }

def State.startFeQueue (s : State) (queue ctx : Byte) (udp : W16) (spread index : Byte) : Started :=
  let k : Fin 64 := Fin.ofNat 64 queue.toNat
  if ctx = 0xFF then doneOk (s.modQueue k fun _ => {})
  else if k.val < 32 then doneOk (s.modQueue k fun q => { q with ctx := some (ctxOf ctx), gen := (s.ctx (ctxOf ctx)).gen })
  else doneOk (s.modQueue k fun q => { q with ctx := some (ctxOf ctx), gen := (s.ctx (ctxOf ctx)).gen, udp, spread := spread.toNat, index := index.toNat })

/-! ### Serving instances (R490) -/

/-- The configuration block of an instance; none where a reserved field is set. -/
def srvCfg? (b : List Byte) : Option SrvCfg :=
  if leAt b 5 1 = 0 ∧ allZeroAt b 0x24 28 then
    some { udp := BitVec.ofNat 16 (leAt b 0 2), rxFirst := leAt b 2 1, rxCount := leAt b 3 1, txq := leAt b 4 1, liveMax := leAt b 6 2,
           bulkMax := leAt b 8 4, maxCtx := leAt b 0xC 4, vocab := leAt b 0x10 4, sessMax := leAt b 0x14 4, idleLimit := leAt b 0x18 4,
           bulkWait := leAt b 0x1C 2, prefillChunk := leAt b 0x1E 2, gslots := (List.range 4).map fun k => leAt b (0x20 + k) 1 }
  else none

/-- The configuration names queues of the context and values in range. -/
def State.srvOk (s : State) (c : CtxId) (x : SrvCfg) : Bool :=
  let q (k : Nat) : FeQueue := s.serve.queues[(Fin.ofNat 64 k : Fin 64)]
  decide (32 ≤ x.rxFirst ∧ 1 ≤ x.rxCount ∧ x.rxCount ≤ 16 ∧ x.rxFirst + x.rxCount ≤ 64) && decide (x.txq < 32) && (q x.txq).ctx == some c &&
    (List.range x.rxCount).all (fun k => (q (x.rxFirst + k)).ctx == some c && (q (x.rxFirst + k)).spread == x.rxCount) &&
    decide (1 ≤ x.prefillChunk ∧ x.prefillChunk ≤ 8192) && x.gslots.all (fun g => decide (g < 16))

def State.inst (s : State) (svc : Fin 16) : Option Instance := s.serve.insts[svc]
def State.setInst (s : State) (svc : Fin 16) (x : Option Instance) : State := { s with serve := { s.serve with insts := vmod s.serve.insts svc fun _ => x } }

def State.checkSrvStart (s : State) (c : CtxId) (svc ctx : Byte) (cfg : Nat) : Checked :=
  checks [(decide (svc.toNat < 16) && ctxField ctx, stBounds), ((s.ctx (ctxOf ctx)).state == .active, stCtxDead), (s.readable c cfg 64, stBounds),
    (s.serviceRuns .servingLoop, stBounds), ((srvCfg? (s.ctxBytes c cfg 64)).any (s.srvOk (ctxOf ctx)), stBounds),
    ((s.inst (Fin.ofNat 16 svc.toNat)).isNone, stQuota)] { ranges := [{ va := cfg, len := 64, r := true, w := false }] }

def State.startSrvStart (s : State) (c : CtxId) (svc ctx : Byte) (cfg : Nat) : Started :=
  match srvCfg? (s.ctxBytes c cfg 64) with
  | none => doneBad s stBounds
  | some x => doneOk (s.setInst (Fin.ofNat 16 svc.toNat) (some { ctx := ctxOf ctx, cfg := x }))

def State.checkSrvStop (s : State) (svc mode : Byte) : Checked :=
  checks [(decide (svc.toNat < 16) && decide (mode.toNat ≤ 1), stBounds), ((s.inst (Fin.ofNat 16 svc.toNat)).isSome, stBounds)]

/-- DONE reasons (R489). -/
def doneStop : Byte := 0
def doneMax : Byte := 1
def doneCancelled : Byte := 2
def doneDeadline : Byte := 3
def doneWeight : Byte := 4
def doneFault : Byte := 5
def doneNumeric : Byte := 6
def doneRole : Byte := 7
def doneUnacked : Byte := 8

/-- The instance ends when no request of it is left. -/
def State.finishSrvStop (s : State) (svc : Byte) : Started :=
  let k : Fin 16 := Fin.ofNat 16 svc.toNat
  if s.serve.reqs.any fun r => decide (r.svc = k) && r.state != .ended then (s, none)
  else doneOk ({ s with serve := { s.serve with sessions := s.serve.sessions.filter fun x => decide (x.svc ≠ k),
                                                reqs := s.serve.reqs.filter fun r => decide (r.svc ≠ k) } }.setInst k none)

/-- SRV_STOP: no new request is admitted; with NOW every request ends CANCELLED once its command in flight has ended. -/
def State.startSrvStop (s : State) (cid : Nat) (svc mode : Byte) : Started :=
  let k : Fin 16 := Fin.ofNat 16 svc.toNat
  match s.inst k with
  | none => doneBad s stBounds
  | some x =>
    let s := s.setInst k (some { x with draining := true, stopCid := cid })
    let s := if mode = 1 then { s with serve := { s.serve with reqs := s.serve.reqs.map fun (r : Req) =>
        if r.svc = k ∧ (r.state = ReqState.accepted ∨ r.state = ReqState.admitting) ∧ r.ending = none then { r with ending := some (doneCancelled, 0) } else r } } else s
    s.finishSrvStop svc

/-! ### Telemetry (R515, R518, R520) -/

/-- Codes of sensors (R518). -/
def sensorCodes : List Nat :=
  (List.range 4) ++ (List.range 8).map (0x10 + ·) ++ (List.range 4).map (0x18 + ·) ++ (List.range 24).map (0x20 + ·) ++ [0x38, 0x39, 0x3A] ++
    (List.range 6).map (0x40 + ·)

def SnsState.code : SnsState → Nat
  | .ok => 0
  | .warn => 1
  | .throttle => 2
  | .critical => 3
  | .absent => 4

/-- Reading and state of a sensor: input power and core clock are PWR's own. -/
def State.sensor (s : State) (code : Nat) : W32 × SnsState :=
  let r := (s.power.sensors.find? fun x => x.1 == code).elim ((0 : W32), SnsState.absent) (·.2)
  if r.2 = .absent then r
  else if code = 0x42 then (BitVec.ofNat 32 s.power.avg, r.2)
  else if code = 0x45 then (BitVec.ofNat 32 s.power.mhz, r.2) else r

/-- Largest input power of a POWER mode, W (R3). -/
def modeWatts (p : Nat) : Nat := if p = 0 then 3400 else if p = 1 then 3000 else 2200
/-- Largest input power in vigil, W (R3, R472). -/
def vigilWatts : Nat := 60
/-- Core clock of a POWER mode, MHz (R3). -/
def modeMhz (p : Nat) : Nat := if p = 0 then 2000 else if p = 1 then 1800 else 1400

/-- A sensor stands in its THROTTLE band, or worse. -/
def State.throttled (s : State) (code : Nat) : Bool := (s.sensor code).2 == .throttle || (s.sensor code).2 == .critical

/-- The effective limit of input power (R515). -/
def State.powerLimit (s : State) : Nat :=
  let l := if s.inVigil then vigilWatts else modeWatts s.mode.powerNow.val
  let l := if s.power.capWatts = 0 then l else min l s.power.capWatts
  let l := if s.power.shelf = 0 then l else min l s.power.shelf
  if s.throttled 0 || s.throttled 2 then min l 2200 else l

/-- The 8-byte record of a sensor code. -/
def State.sensorRecord (s : State) (code : Nat) : List Byte :=
  let r := s.sensor code
  le 2 code ++ [BitVec.ofNat 8 r.2.code, 0] ++ le 4 r.1.toNat

def State.checkTelemetry (s : State) (c : CtxId) (first count : W16) (va len : Nat) : Checked :=
  let n := 8 * count.toNat
  checks [(decide (first.toNat + count.toNat ≤ 0x46), stBounds), (decide (n ≤ len), stBounds), (s.inVigil || s.rangeOk c va n false true, stBounds)]
    { ranges := if s.inVigil then [] else destRange va n, empty := decide (count = 0) }

/-- DETAIL of the reply. -/
def State.telemetryDetail (s : State) : W64 := BitVec.ofNat 64 (s.powerLimit * 2 ^ 48 + s.power.avg % 2 ^ 16 * 2 ^ 32 + s.mode.stat)

/-- QUERY_TELEMETRY: in vigil it writes to host memory. -/
def State.startTelemetry (s : State) (cid : Nat) (first count : W16) (va : Nat) : Started :=
  let bs := (List.range count.toNat).flatMap fun k => s.sensorRecord (first.toNat + k)
  if s.inVigil then
    if s.pcie.up then doneOk (s.writeHost va bs) s.telemetryDetail
    else doneBad s stFaultUnresolved (BitVec.ofNat 64 (6 * 2 ^ 44))
  else s.directWrite cid va bs s.telemetryDetail

/-! ### Progress and status (R300, R301) -/

/-- What a query finds of its target: context, units, units that show, state code, status, reply. -/
structure Target where
  ctx : CtxId
  units : Nat
  done : List Nat
  state : Nat
  status : W16
  reply : List Byte

/-- The ring a query names. -/
def queryRing? (own : RingId) (ring : Byte) : Option RingId :=
  if ring = 0xFF then some own else if ring.toNat < 64 then some (Fin.ofNat 65 ring.toNat) else none

/-- Units of a running command that show: a FIXED one's as they land, a run's committed nodes. -/
def State.doneNow (s : State) (c : Cmd) : List Nat :=
  if opIsRun c.op then ((s.sched.runs.find? fun r => r.cid == c.cid).map Run.committedNodes).getD []
  else if c.fixed then (match c.chan with
    | some k => (s.chan k).doneDescs c.kb.descs
    | none => c.done)
  else []

/-- The target of a query on a ring: it runs, or its reply is in the ring's history. -/
def State.target? (s : State) (ring : RingId) (tseq : W32) : Option Target :=
  match s.sched.cmds.find? fun c => decide (c.ring = ring) && c.seq == tseq && c.run.isNone with
  | some c => some { ctx := c.ctx, units := c.units, done := s.doneNow c, state := 3, status := 0, reply := List.replicate 32 0 }
  | none => ((s.ring ring).hist.find? fun h => h.seq == tseq).map fun h =>
      { ctx := h.ctx, units := h.units, done := if h.phase = .committed ∧ h.done.length < h.units then List.range h.units else h.done,
        state := h.phase.code, status := h.status, reply := h.reply }

/-- The target's bitmap. -/
def bitmap (units : Nat) (done : List Nat) : List Byte :=
  (List.range (ceilDiv units 8)).map fun b => BitVec.ofNat 8 ((List.range 8).foldl (fun v k => v + bitAt (done.contains (8 * b + k)) k) 0)

def State.checkQuery (s : State) (own : RingId) (c : CtxId) (ring : Byte) (tseq : W32) (va : Nat) (len : Target → Nat) (room : Nat) : Checked :=
  match (queryRing? own ring).bind fun r => s.target? r tseq with
  | none => .error stBounds
  | some t => checks [(decide (c = 0) || decide (t.ctx = c), stPerm), (decide (len t ≤ room), stBounds), (s.rangeOk c va (len t) false true, stBounds)]
      { ranges := destRange va (len t) }

def State.checkProgress (s : State) (own : RingId) (c : CtxId) (ring : Byte) (tseq : W32) (va len : Nat) : Checked :=
  s.checkQuery own c ring tseq va (fun t => ceilDiv t.units 8) len
def State.checkStatus (s : State) (own : RingId) (c : CtxId) (ring : Byte) (tseq : W32) (va : Nat) : Checked :=
  s.checkQuery own c ring tseq va (fun _ => 32) 32

def State.startProgress (s : State) (c : Cmd) (ring : Byte) (tseq : W32) (va : Nat) : Started :=
  match (queryRing? c.ring ring).bind fun r => s.target? r tseq with
  | none => doneBad s stBounds
  | some t =>
    let on := (List.range t.units).filter fun k => t.done.contains k
    (s.modCmd c.cid fun d => { d with done := on }).directWrite c.cid va (bitmap t.units on)
      (BitVec.ofNat 64 (t.units % 2 ^ 32 * 2 ^ 32 + t.state * 2 ^ 30 + t.status.toNat))

def State.startStatus (s : State) (c : Cmd) (ring : Byte) (tseq : W32) (va : Nat) : Started :=
  match (queryRing? c.ring ring).bind fun r => s.target? r tseq with
  | none => doneBad s stBounds
  | some t => s.directWrite c.cid va t.reply 0

end Sys2Proof.Machine
end

