-- ==== Sys2Proof/Machine/Command.lean ====
section
/-! DEFINITION. For each opcode: its checks at admission, what starting it does, and how one that stayed issued ends
(R281-R283, and the rules of each opcode). -/
namespace Sys2Proof.Machine

/-! ### Checks (R281 steps 9 and 10) -/

/-- Read and check the kernel block of a kernel opcode (R283). -/
def State.checkBlock (s : State) (c : Cmd) (kpb : W64) (len : W32) : Checked :=
  match s.kblock? c.ctx (opCode c.op).toNat kpb.toNat len.toNat with
  | none => .error stBounds
  | some kb => s.checkKernel c kb

/-- The checks of DMA_START (R167-R169), and the shadow slots a killable one needs (R198). -/
def State.checkDmaStart (s : State) (c : Cmd) (chan pacing : Byte) : Checked :=
  match dmaParam c.op with
  | none => .error stBounds
  | some q =>
    match s.checkDma c.ctx c.ring c.prio c.fixed chan pacing q with
    | .error st => .error st
    | .ok (ds, rs) =>
      match (if c.fixed then some 0 else s.shadowNeed c.ctx rs) with
      | none => .error stBounds
      | some n =>
        checks [(decide (c.ctx = 0) || decide (n ≤ 32 * (s.ctx c.ctx).quotaSh), stQuota)]
          { kb := { descs := ds }, ranges := rs, units := q.count, shNeed := n, empty := decide (q.count = 0) }

/-- STEP_FENCE: not a second one, nor one for an earlier step (R328). -/
def State.checkStepFence (s : State) (x : CtxId) (t : W32) : Checked :=
  checks [((s.ctx x).fenced.all fun u => decide (u.toNat < t.toNat), stBounds)]

/-- A semaphore exists, and belongs to the context (R249). -/
def State.checkSem (s : State) (x : CtxId) (k : W16) : Checked :=
  checks [(decide (k.toNat < 4096), stBounds), (s.semOwned x k.toNat, stPerm)]

/-- DMA_ABORT comes from the context of the channel's command, or from context 0 (R181). -/
def State.checkAbort (s : State) (x : CtxId) (chan : Byte) : Checked :=
  let ch := s.chan (Fin.ofNat 32 chan.toNat)
  checks [(decide (chan.toNat < 32), stBounds), (decide (ch.state = .idle) || decide (x = 0) || decide (ch.ctx = x), stPerm)]

/-- Unit class of an injection's target, where the kind asks for one (R450). -/
def injectUnit (cls : Nat) (target : W16) : Bool := unitExists target && decide (unitClass target = cls)

/-- Parameters of every opcode but the graph opcodes. -/
def State.checkOp (s : State) (c : Cmd) : Checked :=
  let x := c.ctx
  match c.op with
  | .nop => .ok {}
  | .admMode m => s.checkMode m
  | .admServiceStart svc va len => s.checkServiceStart x svc va.toNat len.toNat
  | .admServiceStop svc => s.checkServiceStop svc
  | .admIdentity a b d e => s.checkIdentity a b d e
  | .ctxCreate ctx classes base n tenant _ => s.checkCreate ctx classes base n tenant
  | .ctxFence ctx mode => s.checkFence ctx mode
  | .ctxUnfence ctx => s.checkUnfence ctx
  | .ctxDestroy ctx => s.checkDestroy ctx
  | .memMap va len attr => s.checkMap x va.toNat len.toNat attr
  | .memUnmap va len => s.checkUnmap x va.toNat len.toNat
  | .memHint va len attr => s.checkHint x va.toNat len.toNat attr
  | .memQuota ctx t2 t3 t4 sh => s.checkQuota ctx t2.toNat t3.toNat t4.toNat sh.toNat
  | .memResolveRetry id => s.checkResolve x id
  | .memResolveFail id => s.checkResolve x id
  | .wgtInstallBegin _ va len => s.checkBegin x va.toNat len.toNat
  | .wgtInstallChunks img va first count => s.checkChunks x img va.toNat first.toNat count.toNat
  | .wgtInstallCommit _ => .ok {}
  | .wgtInstallAbort _ => .ok {}
  | .wgtErase _ => .ok {}
  | .wgtKeyAdd slot va => s.checkKeyAdd x slot va.toNat
  | .wgtKeyRevoke slot => checkKeySlot slot
  | .wgtLoad img slot _ members lflags va len smap n => s.checkLoad x img slot members lflags va.toNat len.toNat smap.toNat n.toNat
  | .wgtPin _ => .ok {}
  | .wgtUnpin slot _ => checkSlot slot
  | .wgtSwitch slot => checkSlot slot
  | .wgtDrop slot => checkSlot slot
  | .keelWrite kslot smap n _ _ => s.checkKeel x kslot smap.toNat n.toNat true
  | .keelRead kslot smap n => s.checkKeel x kslot smap.toNat n.toNat false
  | .keelDrop kslot => checkKslot kslot
  | .submitGraph .. => .error stBounds
  | .graphRun .. => .error stBounds
  | .graphRelease _ => .error stBounds
  | .matmul kpb len => s.checkBlock c kpb len
  | .vector kpb len => s.checkBlock c kpb len
  | .reduce kpb len => s.checkBlock c kpb len
  | .attnFwd kpb len => s.checkBlock c kpb len
  | .attnBwd kpb len => s.checkBlock c kpb len
  | .optUpdate kpb len => s.checkBlock c kpb len
  | .stepFence t => s.checkStepFence x t
  | .semAcquire k _ => s.checkSem x k
  | .semRelease k _ => s.checkSem x k
  | .dmaStart _ _ _ chan pacing _ _ _ _ => s.checkDmaStart c chan pacing
  | .dmaAbort chan => s.checkAbort x chan
  | .collReduceScatter kpb len => s.checkBlock c kpb len
  | .collAllGather kpb len => s.checkBlock c kpb len
  | .collAllReduce kpb len => s.checkBlock c kpb len
  | .collMulticast kpb len => s.checkBlock c kpb len
  | .collPermute kpb len => s.checkBlock c kpb len
  | .mirPair ctx gsize gpos partner ward guest gtab ptab n => s.checkPair ctx gsize gpos partner ward guest gtab.toNat ptab.toNat n.toNat
  | .mirSync _ => .ok {}
  | .mirIntercalate failed method source _ _ => s.checkInter failed method source
  | .mirRestore ctx source step => s.checkRestore ctx source step
  | .jobRelease job ident => s.checkRelease job ident
  | .jobJoin job member ctx plan plen => s.checkJoin job member ctx plan.toNat plen.toNat
  | .queryProgress ring tseq va len => s.checkProgress c.ring x ring tseq va.toNat len.toNat
  | .queryStatus ring tseq va => s.checkStatus c.ring x ring tseq va.toNat
  | .diagSentinel engine pattern cond va len => s.checkSentinel x engine pattern cond va.toNat len.toNat
  | .srvStart svc ctx cfg => s.checkSrvStart x svc ctx cfg.toNat
  | .srvStop svc mode => s.checkSrvStop svc mode
  | .feQueue queue ctx udp spread index => s.checkFeQueue queue ctx udp spread index
  | .queryTelemetry first count va len => s.checkTelemetry x first count va.toNat len.toNat
  | .diagBist unit level va len => s.checkBist x unit level va.toNat len.toNat
  | .diagPrbs link pattern _ va => s.checkPrbs x link pattern va.toNat
  | .diagEmberRead src index off va len => s.checkEmber x src index off.toNat va.toNat len.toNat
  | .injectUnitHang target _ _ => s.checkInject (unitExists target)
  | .injectCheckFlip target _ _ => s.checkInject (injectUnit 5 target)
  | .injectEccCe target _ _ => s.checkInject (injectUnit 7 target)
  | .injectEccUe target _ _ => s.checkInject (injectUnit 7 target)
  | .injectDeviceReset .. => s.checkInject true
  | .injectEventFlood _ _ code => s.checkInject ((evClass? code).isSome)
  | .malformed _ => .error stBounds
  | .reserved _ => .error stBadOpcode

/-- What decides an inline command again when it starts after a wait: its parameters against the state it finds then. Kernel
commands, transfers, fences and graphs keep what admission gave them. DESIGN CHOICE. -/
def State.recheck (s : State) (c : Cmd) : Option W16 :=
  let code := opCode c.op
  if planY code || (0x0500 ≤ code.toNat && code.toNat ≤ 0x0520) || code == 0x0801 then none
  else match s.checkOp c with
    | .error st => some st
    | .ok _ => none

/-! ### Starting the commands that no tick plan places -/

/-- What starting a command does. Commands of tick plans and graphs start elsewhere. -/
def State.startOp (s : State) (c : Cmd) : Started :=
  let x := c.ctx
  match c.op with
  | .nop => doneOk s
  | .admMode m => s.startMode m
  | .admServiceStart svc va len => s.startServiceStart x svc va.toNat len.toNat
  | .admServiceStop svc => s.startServiceStop c.cid svc
  | .admIdentity a b d e => s.startIdentity a b d e
  | .ctxCreate ctx classes base n tenant seed => s.startCreate ctx classes base n tenant seed
  | .ctxFence ctx mode => s.startFence ctx mode
  | .ctxUnfence ctx => s.startUnfence ctx
  | .ctxDestroy ctx => s.startDestroy ctx
  | .memMap va len attr => s.startMap x va.toNat len.toNat attr
  | .memUnmap va len => s.startUnmap x va.toNat len.toNat
  | .memHint va len attr => s.startHint x va.toNat len.toNat attr
  | .memQuota ctx t2 t3 t4 sh => s.startQuota ctx t2.toNat t3.toNat t4.toNat sh.toNat
  | .memResolveRetry id => s.startRetry id
  | .memResolveFail id => s.startFail x id
  | .wgtInstallBegin img va len => s.startBegin x img va.toNat len.toNat
  | .wgtInstallChunks img va first count =>
    let r := s.startChunks c img va.toNat first.toNat count.toNat
    (r.1.retryWeights (r.1.image (imgOf img)).man.root, r.2)
  | .wgtInstallCommit img => s.startInstallCommit img
  | .wgtInstallAbort img => s.startErase img
  | .wgtErase img => s.startErase img
  | .wgtKeyAdd slot va => s.startKeyAdd x slot va.toNat
  | .wgtKeyRevoke slot => doneOk (s.dropKey (Fin.ofNat 8 slot.toNat))
  | .wgtLoad img slot group members _ va len _ _ => s.startLoad c img slot group members va.toNat len.toNat
  | .wgtPin n => s.startPin c n.toNat
  | .wgtUnpin slot n => s.startUnpin x slot n.toNat
  | .wgtSwitch slot => s.startSwitch c slot
  | .wgtDrop slot => s.startDrop x slot
  | .keelWrite kslot .. => s.startKeelWrite c kslot
  | .keelRead kslot .. => s.startKeelRead c kslot
  | .keelDrop kslot => s.startKeelDrop kslot
  | .submitGraph .. => (s, none)
  | .graphRun .. => (s, none)
  | .graphRelease _ => (s, none)
  | .matmul .. => (s, none)
  | .vector .. => (s, none)
  | .reduce .. => (s, none)
  | .attnFwd .. => (s, none)
  | .attnBwd .. => (s, none)
  | .optUpdate .. => (s, none)
  | .stepFence _ => (s, none)
  | .semAcquire .. => (s, none)
  | .semRelease .. => (s, none)
  | .dmaStart .. => (s, none)
  | .dmaAbort chan => doneOk (s.abortChan (Fin.ofNat 32 chan.toNat))
  | .collReduceScatter .. => (s, none)
  | .collAllGather .. => (s, none)
  | .collAllReduce .. => (s, none)
  | .collMulticast .. => (s, none)
  | .collPermute .. => (s, none)
  | .mirPair ctx gsize gpos partner ward guest gtab ptab n => s.startPair ctx gsize gpos partner ward guest gtab.toNat ptab.toNat n.toNat
  | .mirSync step => s.startSync c step
  | .mirIntercalate failed method source step job => s.startInter c failed method source step job
  | .mirRestore ctx source step => s.startRestore c ctx source step
  | .jobRelease job ident => s.startRelease c job ident
  | .jobJoin job member ctx plan plen => s.startJoin c job member ctx plan.toNat plen.toNat
  | .queryProgress ring tseq va _ => s.startProgress c ring tseq va.toNat
  | .queryStatus ring tseq va => s.startStatus c ring tseq va.toNat
  | .diagSentinel engine pattern cond va len => s.startSentinel c.cid engine pattern cond va.toNat len.toNat
  | .srvStart svc ctx cfg => s.startSrvStart x svc ctx cfg.toNat
  | .srvStop svc mode => s.startSrvStop c.cid svc mode
  | .feQueue queue ctx udp spread index => s.startFeQueue queue ctx udp spread index
  | .queryTelemetry first count va _ => s.startTelemetry c.cid first count va.toNat
  | .diagBist unit _ va len => s.startBist c.cid unit va.toNat len.toNat
  | .diagPrbs _ _ duration va => s.startPrbs c.cid duration va.toNat
  | .diagEmberRead src index off va len => s.startEmber c.cid src index off.toNat va.toNat len.toNat
  | .injectUnitHang target _ _ => doneOk (s.injectHang target)
  | .injectCheckFlip target n _ => doneOk (s.injectFlip target n.toNat)
  | .injectEccCe target n _ => doneOk (s.injectCe target n.toNat)
  | .injectEccUe target _ _ => doneOk (s.injectUe target)
  | .injectDeviceReset .. => doneOk (s.deviceReset trigInjected unitRas none none)
  | .injectEventFlood target n code => doneOk (s.injectFlood code target n.toNat)
  | .malformed _ => doneBad s stBounds
  | .reserved _ => doneBad s stBadOpcode

/-! ### Ends -/

/-- What starting or resuming a command answered becomes its end. -/
def State.finish (cid : Nat) (used : Option Nat) : Started → State
  | (s, none) => s
  | (s, some (ph, st, d)) => match s.cmd? cid with
    | none => s
    | some c => s.endCmd c ph st d used

/-- A killable transfer commits when its last byte has landed; a FIXED one ends then; DETAIL is the bytes moved (R169, R176). -/
def State.commitDma (s : State) (c : Cmd) (used : Nat) : State :=
  match c.chan with
  | none => s
  | some k =>
    if (s.chan k).state = .ending ∧ (s.chan k).cid = c.cid ∧ !s.faulted c.cid then
      if !c.fixed && s.mergeBad c then s.endCmd c .killed stUncorrectable (dmaDetail k (s.chan k) dmaUncorrectable true none) (some used)
      else (if c.fixed then s else s.applyCommit c).endCmd c .committed stOk (BitVec.ofNat 64 ((s.chan k).landed.map (·.2)).sum) (some used)
    else s

/-- The work of a command that stayed issued has come to its end. -/
def State.commitOp (s : State) (c : Cmd) (used : Nat) : State :=
  let fin (r : Started) : State := State.finish c.cid (some used) r
  match c.op with
  | .admServiceStop svc => fin (s.finishServiceStop c.cid svc)
  | .memUnmap va len => fin (s.startUnmap c.ctx va.toNat len.toNat)
  | .memHint va len attr => fin (s.startHint c.ctx va.toNat len.toNat attr)
  | .memMap va len attr => fin (s.startMap c.ctx va.toNat len.toNat attr)
  | .wgtInstallAbort img => fin (s.startErase img)
  | .wgtErase img => fin (s.startErase img)
  | .wgtLoad _ slot _ _ lflags .. => fin (s.commitLoad c slot lflags)
  | .wgtPin n => fin (s.startPin c n.toNat)
  | .wgtSwitch slot => fin (s.startSwitch c slot)
  | .keelWrite kslot _ _ job step => fin (s.commitKeelWrite c kslot job step)
  | .keelRead kslot .. => fin (s.commitKeelRead c kslot)
  | .mirSync step => s.commitSync c step used
  | .mirIntercalate .. => s.commitInter c used
  | .mirRestore ctx _ step => s.commitRestore c ctx step used
  | .jobRelease .. => s.commitRelease c used
  | .jobJoin job member ctx plan plen => s.commitJoin c job member ctx plan.toNat plen.toNat used
  | .srvStop svc _ => fin (s.finishSrvStop svc)
  | .queryProgress .. => fin (s.pumpWrite c.cid)
  | .queryStatus .. => fin (s.pumpWrite c.cid)
  | .queryTelemetry .. => fin (s.pumpWrite c.cid)
  | .diagSentinel .. => fin (s.pumpWrite c.cid)
  | .diagBist .. => fin (s.pumpWrite c.cid)
  | .diagPrbs .. => fin (s.pumpWrite c.cid)
  | .diagEmberRead .. => fin (s.pumpWrite c.cid)
  | .dmaStart .. => s.commitDma c used
  | op => if sliceOp (opCode op) then s.commitKernel c used else if isColl (opCode op) then s.commitColl c used else s

/-- The last effect of a FIXED command has landed (R315). -/
def State.endFixed (s : State) (c : Cmd) (used : Nat) : State :=
  match c.op with
  | .dmaStart .. => s.commitDma c used
  | op => if sliceOp (opCode op) then s.endFixedKernel c used else if isColl (opCode op) then s.commitColl c used else s

end Sys2Proof.Machine
end

