-- ==== Sys2Proof/Machine/Packet.lean ====
section
/-! DEFINITION. The command packet as 64 bytes: header and parameters (R272, R280, and the parameter tables of the owning
chapters). -/
namespace Sys2Proof.Machine

/-- Bytes of PARAM that some field of an opcode covers: (offset, length). -/
def paramFields (code : Nat) : List (Nat × Nat) :=
  match code with
  | 0x0101 => [(0, 4)]
  | 0x0102 => [(0, 2), (8, 16)]
  | 0x0103 => [(0, 4)]
  | 0x0200 => [(0, 6), (8, 16)]
  | 0x0201 => [(0, 2)]
  | 0x0202 => [(0, 1)]
  | 0x0203 => [(0, 1)]
  | 0x0300 => [(0, 20)]
  | 0x0301 => [(0, 16)]
  | 0x0302 => [(0, 20)]
  | 0x0303 => [(0, 1), (4, 16)]
  | 0x0304 => [(0, 5)]
  | 0x0400 => [(0, 2), (8, 24)]
  | 0x0401 => [(1, 1)]
  | 0x0402 => [(0, 2), (8, 8)]
  | 0x0403 => [(0, 7), (8, 28)]
  | 0x0404 => [(0, 4)]
  | 0x0405 => [(0, 1), (4, 4)]
  | 0x0406 => [(0, 1)]
  | 0x0407 => [(0, 1)]
  | 0x0408 => [(0, 1), (8, 12), (0x18, 12)]
  | 0x0409 => [(0, 1), (8, 12)]
  | 0x040A => [(0, 1)]
  | 0x0500 => [(0, 2), (4, 16)]
  | 0x0501 => [(0, 1), (4, 4)]
  | 0x0502 => [(0, 1)]
  | 0x0520 => [(0, 4)]
  | 0x0521 => [(0, 4)]
  | 0x0522 => [(0, 4)]
  | 0x0600 => [(0, 30)]
  | 0x0601 => [(0, 1)]
  | 0x0800 => [(0, 3), (4, 6), (0x10, 18)]
  | 0x0801 => [(0, 4)]
  | 0x0802 => [(0, 16)]
  | 0x0803 => [(0, 2), (4, 4)]
  | 0x0804 => [(0, 10)]
  | 0x0805 => [(0, 11), (0x10, 12)]
  | 0x0900 => [(0, 2), (8, 8)]
  | 0x0901 => [(0, 2)]
  | 0x0902 => [(0, 6)]
  | 0x0A00 => [(0, 1), (4, 16)]
  | 0x0A01 => [(0, 1), (4, 12)]
  | 0x0A02 => [(0, 4), (8, 12)]
  | 0x0F00 => [(0, 3), (8, 12)]
  | 0x0F01 => [(0, 3), (8, 12)]
  | 0x0F02 => [(0, 4), (8, 8)]
  | 0x0F03 => [(0, 1), (2, 2), (8, 20)]
  | 0x0F04 => [(0, 1), (2, 6)]
  | n => if kernelOp (BitVec.ofNat 16 n) then [(0, 12)] else []

/-- The parameters of an opcode in its 48 bytes. -/
def opOf (code : Nat) (p : List Byte) : Op :=
  let b (k : Nat) : Byte := p.getD k 0
  let h (k : Nat) : W16 := BitVec.ofNat 16 (leAt p k 2)
  let w (k : Nat) : W32 := BitVec.ofNat 32 (leAt p k 4)
  let d (k : Nat) : W64 := BitVec.ofNat 64 (leAt p k 8)
  let bad : Op := .malformed (BitVec.ofNat 16 code)
  match code with
  | 0x0100 => .nop
  | 0x0101 => .admMode (w 0)
  | 0x0102 => if b 1 = 0 then .admServiceStart (b 0) (d 8) (d 0x10) else if b 1 = 1 then .admServiceStop (b 0) else bad
  | 0x0103 => .admIdentity (b 0) (b 1) (b 2) (b 3)
  | 0x0200 => .ctxCreate (b 0) (b 1) (h 2) (h 4) (d 8) (d 0x10)
  | 0x0201 => .ctxFence (b 0) (b 1)
  | 0x0202 => .ctxUnfence (b 0)
  | 0x0203 => .ctxDestroy (b 0)
  | 0x0300 => .memMap (d 0) (d 8) (w 0x10)
  | 0x0301 => .memUnmap (d 0) (d 8)
  | 0x0302 => .memHint (d 0) (d 8) (w 0x10)
  | 0x0303 => .memQuota (b 0) (w 4) (w 8) (w 0xC) (w 0x10)
  | 0x0304 => if b 4 = 0 then .memResolveRetry (w 0) else if b 4 = 1 then .memResolveFail (w 0) else bad
  | 0x0400 => if b 0 = 0 then .wgtInstallBegin (b 1) (d 8) (d 0x10)
    else if b 0 = 1 then .wgtInstallChunks (b 1) (d 8) (w 0x18) (w 0x1C)
    else if b 0 = 2 then .wgtInstallCommit (b 1) else if b 0 = 3 then .wgtInstallAbort (b 1) else bad
  | 0x0401 => .wgtErase (b 1)
  | 0x0402 => if b 1 = 0 then .wgtKeyAdd (b 0) (d 8) else if b 1 = 1 then .wgtKeyRevoke (b 0) else bad
  | 0x0403 => .wgtLoad (b 0) (b 1) (h 2) (h 4) (b 6) (d 8) (d 0x10) (d 0x18) (w 0x20)
  | 0x0404 => .wgtPin (w 0)
  | 0x0405 => .wgtUnpin (b 0) (w 4)
  | 0x0406 => .wgtSwitch (b 0)
  | 0x0407 => .wgtDrop (b 0)
  | 0x0408 => .keelWrite (b 0) (d 8) (w 0x10) (d 0x18) (w 0x20)
  | 0x0409 => .keelRead (b 0) (d 8) (w 0x10)
  | 0x040A => .keelDrop (b 0)
  | 0x0500 => .submitGraph (b 0) (b 1) (w 4) (d 8) (w 0x10)
  | 0x0501 => .graphRun (b 0) (w 4)
  | 0x0502 => .graphRelease (b 0)
  | 0x0510 => .matmul (d 0) (w 8)
  | 0x0511 => .vector (d 0) (w 8)
  | 0x0512 => .reduce (d 0) (w 8)
  | 0x0513 => .attnFwd (d 0) (w 8)
  | 0x0514 => .attnBwd (d 0) (w 8)
  | 0x0515 => .optUpdate (d 0) (w 8)
  | 0x0520 => .stepFence (w 0)
  | 0x0521 => .semAcquire (h 0) (h 2)
  | 0x0522 => .semRelease (h 0) (h 2)
  | 0x0600 => .dmaStart (d 0) (d 8) (h 0x10) (b 0x12) (b 0x13) (w 0x14) (w 0x18) (b 0x1C) (b 0x1D)
  | 0x0601 => .dmaAbort (b 0)
  | 0x0700 => .collReduceScatter (d 0) (w 8)
  | 0x0701 => .collAllGather (d 0) (w 8)
  | 0x0702 => .collAllReduce (d 0) (w 8)
  | 0x0703 => .collMulticast (d 0) (w 8)
  | 0x0704 => .collPermute (d 0) (w 8)
  | 0x0800 => .mirPair (b 0) (b 1) (b 2) (h 4) (h 6) (h 8) (d 0x10) (d 0x18) (h 0x20)
  | 0x0801 => .mirSync (w 0)
  | 0x0802 => .mirIntercalate (h 0) (b 2) (b 3) (w 4) (d 8)
  | 0x0803 => .mirRestore (b 0) (b 1) (w 4)
  | 0x0804 => .jobRelease (d 0) (h 8)
  | 0x0805 => .jobJoin (d 0) (h 8) (b 0xA) (d 0x10) (w 0x18)
  | 0x0900 => .srvStart (b 0) (b 1) (d 8)
  | 0x0901 => .srvStop (b 0) (b 1)
  | 0x0902 => .feQueue (b 0) (b 1) (h 2) (b 4) (b 5)
  | 0x0A00 => .queryProgress (b 0) (w 4) (d 8) (w 0x10)
  | 0x0A01 => .queryStatus (b 0) (w 4) (d 8)
  | 0x0A02 => .queryTelemetry (h 0) (h 2) (d 8) (w 0x10)
  | 0x0F00 => .diagSentinel (b 0) (b 1) (b 2) (d 8) (w 0x10)
  | 0x0F01 => .diagBist (h 0) (b 2) (d 8) (w 0x10)
  | 0x0F02 => .diagPrbs (b 0) (b 1) (h 2) (d 8)
  | 0x0F03 => .diagEmberRead (b 0) (h 2) (d 8) (d 0x10) (w 0x18)
  | 0x0F04 =>
    if b 0 = 1 then .injectUnitHang (h 2) (h 4) (h 6) else if b 0 = 2 then .injectCheckFlip (h 2) (h 4) (h 6)
    else if b 0 = 3 then .injectEccCe (h 2) (h 4) (h 6) else if b 0 = 4 then .injectEccUe (h 2) (h 4) (h 6)
    else if b 0 = 5 then .injectDeviceReset (h 2) (h 4) (h 6) else if b 0 = 6 then .injectEventFlood (h 2) (h 4) (h 6) else bad
  | n => .reserved (BitVec.ofNat 16 n)

/-- Some byte of PARAM outside an opcode's fields is not 0. -/
def paramRsv (code : Nat) (p : List Byte) : Bool :=
  (List.range 48).any fun k => p.getD k 0 != 0 && !((paramFields code).any fun f => decide (f.1 ≤ k) && decide (k < f.1 + f.2))

/-- Header and parameters of the 64 bytes of a packet. -/
def packetOf (ring : RingId) (bs : List Byte) : Hdr × Op :=
  let code := leAt bs 0 2
  let pc := leAt bs 2 1
  let fl := leAt bs 3 1
  let p := sliceOf bs 0x10 48
  ({ ring, prio := Fin.ofNat 4 (pc / 64), ctx := Fin.ofNat 64 pc, fixed := bitOf fl 0, notify := bitOf fl 1, chain := bitOf fl 2,
     rsvFlags := BitVec.ofNat 5 (fl / 8), seq := BitVec.ofNat 32 (leAt bs 4 4), budget := BitVec.ofNat 32 (leAt bs 8 4),
     dep := BitVec.ofNat 32 (leAt bs 0xC 4), rsvParam := paramRsv code p }, opOf code p)

end Sys2Proof.Machine
end

