-- ==== Sys2Proof/Machine/Graphs.lean ====
section
/-! DEFINITION. Command graphs: the image, its checks, runs (R292-R296), and the checks of a packet's header (R277, R278). -/
namespace Sys2Proof.Machine

/-! ### Header checks that packets and nodes share (R281 steps 6 to 8) -/

/-- FIXED is as the kind allows (R277). -/
def fixedOk (code : W16) (fixed : Bool) : Bool :=
  match kindOf code with
  | .k => !fixed
  | .f => fixed
  | .e => true
  | .c => !fixed

/-- A BUDGET of 0 needs empty work; a FIXED command fits one tick (R278). -/
def State.budgetOk (s : State) (c : Cmd) : Bool :=
  (!c.fixed || decide (c.budget ≤ 16)) && (!planY (opCode c.op) || decide (1 ≤ c.budget) ||
    (match s.checkOp c with
     | .ok p => p.empty
     | .error _ => false))

/-- Class, ROLE, FIXED, reserved flags and BUDGET (R249, R26, R277, R278): the status that fails the command. -/
def State.headFail (s : State) (c : Cmd) (rsv dep : Bool) : Option W16 :=
  let code := opCode c.op
  firstFail
    [(!adminOp code || decide (c.ctx = 0), stPerm),
     (decide (c.ctx = 0) || (s.ctx c.ctx).classes.getLsbD c.prio.val, stPerm),
     (!planY code || (scanned s.mode.roleNow).contains c.prio, stPerm),
     (!rsv && fixedOk code c.fixed && s.budgetOk c && dep, stBounds)]

/-- A command takes what its checks gave. -/
def Cmd.prepared (c : Cmd) (p : Prep) : Cmd := { c with kb := p.kb, ranges := p.ranges, units := p.units, shNeed := p.shNeed }

/-! ### The graph image (R292-R294) -/

/-- Header fields and tables of a graph image are allowed. -/
def graphHeadOk (b : List Byte) (glen : Nat) : Bool :=
  let n := leAt b 8 4
  let m := leAt b 0xC 4
  let r := leAt b 0x1C 1
  decide (64 ≤ glen) && leAt b 0 4 == 0x5A484752 && leAt b 4 2 == 1 && leAt b 6 2 == 0 && decide (n ≤ 65536) && decide (m ≤ 1048576) &&
    decide (r ≤ 16) && decide (leAt b 0x10 4 % 64 = 0) && decide (leAt b 0x14 4 % 8 = 0) && allZeroAt b 0x1D 35 &&
    (decide (n = 0) || decide (leAt b 0x10 4 + 64 * n ≤ glen)) && (decide (m = 0) || decide (leAt b 0x14 4 + 8 * m ≤ glen)) &&
    (decide (r = 0) || decide (leAt b 0x18 4 + 8 * r ≤ glen))

/-- A recipe override of 8 bytes (R294). -/
def recipeOf? (b : List Byte) : Option (Nat × Recipe) :=
  let e : Int := (BitVec.ofNat 8 (leAt b 2 1)).toInt
  let f := leAt b 1 1
  let h := leAt b 5 1
  if leAt b 0 1 < 16 ∧ 1 ≤ f ∧ f ≤ 4 ∧ -126 ≤ e ∧ leAt b 3 1 ≤ 7 ∧ leAt b 4 1 ≤ 1 ∧ 1 ≤ h ∧ h ≤ 16 ∧ leAt b 6 2 = 0 then
    some (leAt b 0 1, { format := Fin.ofNat 16 f, initExp := e, headroom := leAt b 3 1, skipStep := leAt b 4 1 == 1, histLen := h })
  else none

/-- Opcodes of nodes (R293). -/
def nodeOp (code : W16) : Bool :=
  kernelOp code || code == 0x0520 || code == 0x0521 || code == 0x0522 || isDmaStart code || code == 0x0302 || code == 0x0801

/-- The checks of an opcode with what was copied of it: the block and tables are not read again. -/
def State.checkCopied (s : State) (c : Cmd) (kb : KBlock) : Checked :=
  match c.op with
  | .stepFence _ => .ok {}
  | .dmaStart .. =>
    match dmaParam c.op with
    | none => .error stBounds
    | some q =>
      let rs := dmaRanges q kb.descs (if q.pace ≠ 0 ∧ !q.qkind then some (s.ringHdr c.ctx q.qaddr) else none)
      match (if c.fixed then some 0 else s.shadowNeed c.ctx rs) with
      | none => .error stBounds
      | some n => checks [((rs.drop 1).all fun b => s.rangeOk c.ctx b.va b.len b.r b.w, stBounds)]
          { kb, ranges := rs, units := q.count, shNeed := n, empty := decide (q.count = 0) }
  | op => if kernelOp (opCode op) then s.checkKernel c kb else s.checkOp c

/-- The kernel block reference of a kernel opcode (R283). -/
def kpbOf : Op → Option (W64 × W32)
  | .matmul kpb len => some (kpb, len)
  | .vector kpb len => some (kpb, len)
  | .reduce kpb len => some (kpb, len)
  | .attnFwd kpb len => some (kpb, len)
  | .attnBwd kpb len => some (kpb, len)
  | .optUpdate kpb len => some (kpb, len)
  | .collReduceScatter kpb len => some (kpb, len)
  | .collAllGather kpb len => some (kpb, len)
  | .collAllReduce kpb len => some (kpb, len)
  | .collMulticast kpb len => some (kpb, len)
  | .collPermute kpb len => some (kpb, len)
  | _ => none

/-- The checks of a node at SUBMIT_GRAPH: a block's step will be that of the run, so no record stands above it yet. -/
def State.checkNode (s : State) (c : Cmd) : Checked :=
  match kpbOf c.op with
  | some (kpb, len) =>
    (match s.kblock? c.ctx (opCode c.op).toNat kpb.toNat len.toNat with
     | none => .error stBounds
     | some kb => s.checkKernel c { kb with step := 0xFFFFFFFF })
  | none => if opCode c.op == 0x0520 then .ok {} else s.checkOp c

/-- One node of the image, as a command of the run's context: its status, or the node. -/
def State.graphNode (s : State) (c : Cmd) (k : Nat) (b : List Byte) : Except W16 GNode :=
  let (h, op) := packetOf c.ring b
  let d : Cmd := { c with prio := h.prio, fixed := h.fixed, notify := false, chain := h.chain, budget := h.budget.toNat, op }
  if !nodeOp (opCode op) || h.ctx != c.ctx || h.seq != 0 || h.dep != 0 || h.notify || (h.chain && k == 0) then .error stBounds
  else match s.headFail d (h.rsvFlags != 0) true with
    | some st => .error st
    | none =>
      if h.rsvParam then .error stBounds
      else match s.checkNode d with
        | .error st => .error st
        | .ok p => .ok { op, prio := h.prio, fixed := h.fixed, chain := h.chain, budget := h.budget, kb := p.kb }

/-! ### Bindings of semaphore acquisitions in a graph (R321, R323) -/

def nodeAt (ns : List GNode) (k : Nat) : Option GNode := ns[k]?

/-- The node that an acquire guards. -/
def guardOf (ns : List GNode) (k : Nat) : Option Nat :=
  match nodeAt ns k, nodeAt ns (k + 1) with
  | some a, some g => if isAcquire a.op ∧ g.chain then some (k + 1) else none
  | _, _ => none

/-- The release that closes an acquire's section. -/
def closingOf (ns : List GNode) (k : Nat) : Option Nat :=
  match nodeAt ns k, nodeAt ns (k + 1), nodeAt ns (k + 2) with
  | some a, some g, some r =>
    if (guardOf ns k).isSome ∧ !isAcquire g.op ∧ r.chain ∧ isRelease r.op ∧ semOf r.op = semOf a.op then some (k + 2) else none
  | _, _, _ => none

/-- A FIXED acquire opens a section that is FIXED throughout. -/
def fixedSections (ns : List GNode) : Bool :=
  (List.range ns.length).all fun k => match nodeAt ns k with
    | some a => !(isAcquire a.op && a.fixed) || (match closingOf ns k with
      | some r => [k + 1, r].all fun j => match nodeAt ns j with
          | some x => x.fixed
          | none => false
      | none => false)
    | none => true

/-- Acquires whose guarded command, directly or through others, a node is. -/
def acquiresAbove (ns : List GNode) : Nat → List Nat
  | 0 => []
  | k + 1 => if guardOf ns k = some (k + 1) then k :: acquiresAbove ns k else []

/-! ### SUBMIT_GRAPH (R292-R295) -/

/-- Bytes that a node's copied block, tables and images take. -/
def KBlock.bytes (kb : KBlock) : Nat :=
  64 + 32 * kb.bufs.length + 64 * kb.tens.length + 16 * kb.engs.length + 32 + kb.op.length +
    (kb.engs.map fun d => (d.images.map fun i => 16 + 8 * i.length).sum).sum + 16 * (kb.members.length + kb.newMembers.length) +
    32 * kb.descs.length

/-- Read and check a graph image. -/
def State.readGraph (s : State) (c : Cmd) (slot : Fin 16) (gaddr glen : Nat) : Except W16 Graph :=
  if !(decide (gaddr % 64 = 0) && s.rangeOk c.ctx gaddr glen true false) then .error stBounds
  else
    let b := s.ctxBytes c.ctx gaddr glen
    if !graphHeadOk b glen then .error stBounds
    else
      let n := leAt b 8 4
      let edges := (List.range (leAt b 0xC 4)).map fun k => (leAt b (leAt b 0x14 4 + 8 * k) 4, leAt b (leAt b 0x14 4 + 8 * k + 4) 4)
      if !(edges.all fun e => decide (e.1 < e.2) && decide (e.2 < n)) then .error stBounds
      else
        match (List.range (leAt b 0x1C 1)).mapM fun k => recipeOf? (sliceOf b (leAt b 0x18 4 + 8 * k) 8) with
        | none => .error stBounds
        | some rcp =>
          match (List.range n).mapM fun k => s.graphNode c k (sliceOf b (leAt b 0x10 4 + 64 * k) 64) with
          | .error st => .error st
          | .ok nodes =>
            if !fixedSections nodes then .error stBounds
            else .ok { ctx := c.ctx, slot, nodes, edges, frames := ceilDiv (glen + (nodes.map fun x => x.kb.bytes).sum) (2 ^ 21), rcp }

/-- The graph of a slot. -/
def State.graph? (s : State) (x : CtxId) (slot : Byte) : Option Graph :=
  s.sched.graphs.find? fun g => decide (g.ctx = x) && g.slot.val == slot.toNat

/-- The fences that nodes are, or depend on (R328): one list for each node, of the step of the run. -/
def nodeAfter (ns : List GNode) (edges : List (Nat × Nat)) (base : Bool) : List Bool :=
  (List.range ns.length).foldl (fun (acc : List Bool) k =>
    let own := match nodeAt ns k with
      | some x => opCode x.op == 0x0520 || (x.chain && acc.getD (k - 1) false)
      | none => false
    acc ++ [base || own || edges.any fun e => e.2 == k && acc.getD e.1 false]) []

/-- Commands of a step come before its one fence, but OPT_UPDATE and the fence's successors (R328). -/
def State.fenceOrderOk (s : State) (x : CtxId) (g : Graph) (step : W32) (after : List (CtxId × W32)) : Bool :=
  let marks := nodeAfter g.nodes g.edges (after.contains (x, step))
  let fences := (List.range g.nodes.length).filter fun k => match nodeAt g.nodes k with
    | some n => opCode n.op == 0x0520
    | none => false
  decide (fences.length ≤ 1) && (fences.isEmpty || (s.ctx x).fenced.all fun u => decide (u.toNat < step.toNat)) &&
    (List.range g.nodes.length).all fun k => match nodeAt g.nodes k with
      | none => true
      | some n => !kernelOp (opCode n.op) || opIsOpt n.op || marks.getD k false ||
          !((s.ctx x).fenced.contains step || fences.any fun f => decide (f < k))

/-- SUBMIT_GRAPH: a slot of the context that is empty, room for one graph more, and frames for the copy. The answer is the
state with the graph in the slot, and its nodes. -/
def State.admitGraph (s : State) (c : Cmd) (after : List (CtxId × W32)) (slot flags : Byte) (step : W32) (gaddr : W64) (glen : W32) :
    Except W16 (State × Prep) :=
  if !(decide (slot.toNat < 16) && decide (flags.toNat < 2) && (s.graph? c.ctx slot).isNone) then .error stBounds
  else match s.readGraph c (Fin.ofNat 16 slot.toNat) gaddr.toNat glen.toNat with
    | .error st => .error st
    | .ok g =>
      if bitOf flags.toNat 0 && !s.fenceOrderOk c.ctx g step after then .error stBounds
      else if 16 ≤ s.sched.graphs.length then .error stQuota
      else
        let s := (s.modMem fun m => { m with fwGraphs := m.fwGraphs + g.frames }).modSched fun h => { h with graphs := h.graphs ++ [g] }
        match s.fwSettle s.shares s.memUnit.pages.length with
        | none => .error stQuota
        | some s => .ok (s, { ranges := [{ va := gaddr.toNat, len := glen.toNat, r := true, w := false }],
                              units := if bitOf flags.toNat 0 then g.nodes.length else 0 })

/-- The frames that a SUBMIT_GRAPH needs are what it lacks (R545): its refusal raises an ALARM. -/
def State.graphCramped (s : State) (c : Cmd) : Bool :=
  match c.op with
  | .submitGraph slot _ _ gaddr glen => match s.readGraph c (Fin.ofNat 16 slot.toNat) gaddr.toNat glen.toNat with
    | .ok g => decide (s.sched.graphs.length < 16) &&
        ((s.modMem fun m => { m with fwGraphs := m.fwGraphs + g.frames }).fwSettle s.shares s.memUnit.pages.length).isNone
    | .error _ => false
  | _ => false

/-- GRAPH_RUN: the slot holds a graph that no admitted GRAPH_RELEASE names. -/
def State.admitRun (s : State) (c : Cmd) (after : List (CtxId × W32)) (slot : Byte) (step : W32) : Except W16 (State × Prep) :=
  match s.graph? c.ctx slot with
  | none => .error stBounds
  | some g =>
    if g.releasing || !s.fenceOrderOk c.ctx g step after then .error stBounds
    else .ok (s, { units := g.nodes.length })

/-- GRAPH_RELEASE. -/
def State.admitRelease (s : State) (c : Cmd) (slot : Byte) : Except W16 (State × Prep) :=
  match s.graph? c.ctx slot with
  | none => .error stBounds
  | some g =>
    if g.releasing then .error stBounds
    else .ok (s.modSched fun h => { h with graphs := h.graphs.map fun x => if x = g then { x with releasing := true } else x }, {})

/-! ### Runs (R293, R295) -/

/-- A run of a slot is in progress. -/
def State.runsOn (s : State) (x : CtxId) (slot : Byte) : Bool :=
  s.sched.runs.any fun r => decide (r.ctx = x) && r.slot.val == slot.toNat

/-- What a graph command waits for: its graph is loaded and no earlier run of the slot is in progress or admitted (R295). -/
def State.graphGate (s : State) (c : Cmd) : Bool :=
  let loaded (slot : Byte) : Bool := match s.graph? c.ctx slot with
    | some g => g.ready
    | none => true
  let earlier (slot : Byte) : Bool := (s.cmdsOf c.ctx).any fun d => decide (d.cid < c.cid) && (match d.op with
    | .graphRun k _ => k == slot
    | .submitGraph k .. => k == slot
    | _ => false)
  match c.op with
  | .graphRun slot _ => loaded slot && !s.runsOn c.ctx slot && !earlier slot
  | .graphRelease slot => loaded slot && !s.runsOn c.ctx slot && !earlier slot
  | _ => true

/-- A node of a run as a command: the run's SEQ, its own number and links; kernel blocks and the fence take the run's step. -/
def State.nodeCmd (s : State) (c : Cmd) (g : Graph) (step : W32) (marks : List Bool) (base k : Nat) (n : GNode) (p : Prep) : Cmd :=
  let op : Op := match n.op with
    | .stepFence _ => .stepFence step
    | op => op
  let up := acquiresAbove g.nodes k
  let closes := decide (2 ≤ k) && closingOf g.nodes (k - 2) == some k
  let skip := if closes then (k - 2) :: acquiresAbove g.nodes (k - 2) else up
  let ps := ((g.edges.filter fun e => e.2 == k).map (·.1) ++ (if n.chain then [k - 1] else [])).eraseDups.filter fun j => !skip.contains j
  let ends := (s.ctx c.ctx).fenceEnds.find? fun e => e.1 == step
  let opt := opIsOpt op
  ({ cid := base + k, ring := c.ring, seq := c.seq, node := k + 1, run := some c.cid, ctx := c.ctx, gen := c.gen, prio := n.prio,
     fixed := n.fixed, notify := false, chain := n.chain, budget := n.budget.toNat, op, check := c.check, preds := ps.map (base + ·),
     after := if marks.getD k false then (c.ctx, step) :: c.after else c.after,
     fenceWait := opt && ends.isNone,
     bad := match ends with
       | some (_, q, ok, st) => if opt ∧ !ok then some (q, st) else none
       | none => none,
     dueTick := c.dueTick, bound := true, guarded := (guardOf g.nodes k).map (base + ·),
     closing := if isAcquire op then (closingOf g.nodes k).map (base + ·)
       else if up.isEmpty then none else (closingOf g.nodes (k - 1)).map (base + ·),
     acquire := up.head?.map (base + ·) } : Cmd).prepared p

/-- The nodes' descriptors are checked against the present mappings; nodes become commands. An empty graph is done at once. -/
def State.startRun (s : State) (c : Cmd) (slot : Byte) (step : W32) : Started :=
  match s.graph? c.ctx slot with
  | none => doneBad s stBounds
  | some g =>
    let probe (n : GNode) : Cmd := { c with prio := n.prio, fixed := n.fixed, chain := n.chain, budget := n.budget.toNat, op := n.op }
    let kbOf (n : GNode) : KBlock := { n.kb with step := if kernelOp (opCode n.op) then step else n.kb.step }
    match g.nodes.mapM fun n => s.checkCopied (probe n) (kbOf n) with
    | .error _ => doneBad s stBounds
    | .ok ps =>
      if !s.fenceOrderOk c.ctx g step c.after then doneBad s stBounds
      else if g.nodes = [] then doneOk s
      else
        let base := s.sched.nextCid
        let marks := nodeAfter g.nodes g.edges (c.after.contains (c.ctx, step))
        let cs := ((List.range g.nodes.length).zip (g.nodes.zip ps)).map fun x => s.nodeCmd c g step marks base x.1 x.2.1 x.2.2
        let s := s.modSched fun h =>
          { h with cmds := h.cmds ++ cs, nextCid := base + cs.length,
                   runs := h.runs ++ [{ cid := c.cid, ctx := c.ctx, slot := g.slot, step, ends := g.nodes.map fun _ => .notEnded }] }
        let s := if cs.any fun d => opCode d.op == 0x0520 then
          s.modCtx c.ctx fun x => { x with fenced := step :: x.fenced } else s
        ((s.endDoomed cs.length).readyAll, none)

/-- Overrides replace the context's recipes (R294). -/
def Ctx.override (x : Ctx) (l : List (Nat × Recipe)) : Ctx := { x with recipes := l.foldl (fun r o => r.set o.1 o.2) x.recipes }

/-- Start a graph command whose gate is open. -/
def State.startGraph (s : State) (c : Cmd) : Started :=
  match c.op with
  | .submitGraph slot flags step _ _ =>
    (match s.graph? c.ctx slot with
     | none => doneBad s stBounds
     | some g =>
       let s := (s.modSched fun h => { h with graphs := h.graphs.map fun x => if x = g then { x with ready := true } else x }).modCtx c.ctx
         fun x => x.override g.rcp
       if bitOf flags.toNat 0 then s.startRun c slot step else doneOk s)
  | .graphRun slot step => s.startRun c slot step
  | _ => doneOk s

end Sys2Proof.Machine
end

