-- ==== Sys2Proof/Machine/Submit.lean ====
section
/-! DEFINITION. Admission, issue and the end of commands: what CMD and GSC do from a packet to its reply (R265, R273, R274,
R281, R303, R310, R314, R315, R321-R323, R328). -/
namespace Sys2Proof.Machine

/-! ### Rights and dependences of a packet (R273, R274, R281) -/

/-- Commands of a ring that are admitted and have no reply yet (R265). -/
def State.outstanding (s : State) (r : RingId) : Nat := (s.sched.cmds.filter fun c => decide (c.ring = r) && c.run.isNone).length

/-- CMD may read a packet: CMD, or in vigil its firmware, has power, the ring runs, the host link of a host ring is up, and a
reply entry is free (R265, R472, R502). -/
def State.mayRead (s : State) (r : RingId) : Bool :=
  let x := s.ring r
  x.state == .running && (s.mainUp || s.inVigil) && (x.core || decide (r = mgtRing) || s.pcie.up) && decide ((x.cplTail - x.cplHead).toNat + s.outstanding r < x.size)

/-- The ring may submit for a context (R264, R508). -/
def Ring.mayFor (x : Ring) (r : RingId) (c : CtxId) : Bool :=
  decide (r = mgtRing) || (if c = 0 then x.admin else x.mask.getLsbD c.val)

/-- A packet of a ring by its SEQ: an unended command, or how it ended. -/
def State.predOf (s : State) (r : RingId) (q : W32) : Option (Cmd ⊕ EndRec) :=
  match s.sched.cmds.reverse.find? fun c => decide (c.ring = r) && c.run.isNone && c.seq == q with
  | some c => some (.inl c)
  | none => ((s.ring r).ends.find? fun e => e.seq == q).map .inr

/-- SEQs a packet depends on (R274). -/
def depSeqs (h : Hdr) : List W32 := ((if h.dep = 0 then [] else [h.seq - h.dep]) ++ (if h.chain then [h.seq - 1] else [])).eraseDups

/-- DEP and CHAIN name packets of the ring (R274). -/
def State.depOk (s : State) (h : Hdr) : Bool :=
  let r := s.ring h.ring
  decide (h.dep.toNat ≤ r.size) && decide (h.dep.toNat ≤ r.read) && (!h.chain || decide (1 ≤ r.read)) &&
    (depSeqs h).all fun q => (s.predOf h.ring q).isSome

/-- The last packet of the ring, when it is an unended command. -/
def State.lastOf (s : State) (r : RingId) : Option Cmd := s.cmd? (s.ring r).lastCid

/-- The acquire that the ring's next packet, a CHAIN packet, would be guarded by. -/
def State.guards (s : State) (h : Hdr) : Option Cmd :=
  match s.lastOf h.ring with
  | some a => if h.chain && isAcquire a.op && !a.bound && a.guarded.isNone then some a else none
  | none => none

/-- The acquire whose section a CHAIN packet would close, with its guarded command. -/
def State.closes (s : State) (h : Hdr) (op : Op) : Option (Cmd × Cmd) :=
  match s.lastOf h.ring with
  | none => none
  | some g =>
    if !h.chain || isAcquire g.op || !isRelease op then none
    else match g.acquire.bind s.cmd? with
      | some a => if a.guarded = some g.cid ∧ semOf a.op = semOf op ∧ (!a.fixed ∨ h.fixed) then some (a, g) else none
      | none => none

/-- The command that a packet becomes. -/
def State.newCmd (s : State) (h : Hdr) (op : Op) : Cmd :=
  { cid := s.sched.nextCid, ring := h.ring, seq := h.seq, ctx := h.ctx, gen := (s.ctx h.ctx).gen, prio := h.prio, fixed := h.fixed,
    notify := h.notify, chain := h.chain, budget := h.budget.toNat, op, check := s.mode.checkNow }

/-- Predecessors of a packet's command: those that have not ended, and the first that ended otherwise than COMMITTED. Parts of
one section do not wait for its acquires. -/
def State.linkDeps (s : State) (h : Hdr) (op : Op) (c : Cmd) : Cmd :=
  let n := s.sched.cmds.length
  let skip := match s.guards h, s.closes h op with
    | some a, _ => a.cid :: s.acquiresOf a n
    | none, some (_, g) => s.acquiresOf g n
    | none, none => []
  (depSeqs h).foldl (fun (d : Cmd) q => match s.predOf h.ring q with
    | none => d
    | some (.inl p) => { d with preds := if skip.contains p.cid then d.preds else d.preds ++ [p.cid], after := d.after ++ p.after }
    | some (.inr e) =>
      { d with after := d.after ++ e.after, bad := if e.phase = .committed then d.bad else d.bad.orElse fun _ => some (e.seq, e.status) }) c

/-- The step fence an OPT_UPDATE depends on (R328). -/
def State.linkFence (s : State) (c : Cmd) : Cmd :=
  if !opIsOpt c.op then c
  else match (s.ctx c.ctx).fenceEnds.find? fun e => e.1 == c.kb.step with
    | none => { c with fenceWait := true }
    | some (_, q, ok, st) => if ok then c else { c with bad := c.bad.orElse fun _ => some (q, st) }

/-- A command of a step whose fence has been admitted is an OPT_UPDATE or a successor of the fence (R328). -/
def State.stepOpen (s : State) (c : Cmd) : Bool :=
  match c.step? with
  | none => true
  | some t => opIsOpt c.op || !(s.ctx c.ctx).fenced.contains t || c.after.contains (c.ctx, t)

/-- Steps 9 and 10: the state with what admission registers, and what the checks gave. -/
def State.admitOp (s : State) (c : Cmd) : Except W16 (State × Prep) :=
  match c.op with
  | .submitGraph slot flags step gaddr glen => s.admitGraph c c.after slot flags step gaddr glen
  | .graphRun slot step => s.admitRun c c.after slot step
  | .graphRelease slot => s.admitRelease c slot
  | .stepFence t => match s.checkOp c with
    | .error st => .error st
    | .ok p => .ok (s.modCtx c.ctx fun x => { x with fenced := t :: x.fenced }, p)
  | _ => match s.checkOp c with
    | .error st => .error st
    | .ok p => .ok (s, p)

/-- Opcodes vigil admits (R281): NOP and group 0x0A. -/
def vigilOp (code : W16) : Bool := code == 0x0100 || decide (code.toNat / 256 = 0x0A)

def opReserved : Op → Bool
  | .reserved _ => true
  | _ => false

/-- The checks of R281 in order: a status, or the state and the admitted command. -/
def State.admission (s : State) (h : Hdr) (op : Op) : Except W16 (State × Cmd) :=
  let r := s.ring h.ring
  let c := s.newCmd h op
  match firstFail
    [(!(s.boot.run == .vigil) || vigilOp (opCode op), stVigil),
     (match r.nextSeq with
      | some q => decide (q = h.seq)
      | none => true, stBounds),
     (!opReserved op, stBadOpcode),
     (r.mayFor h.ring h.ctx, stPerm),
     (decide ((s.ctx h.ctx).state ≠ .fenced), stCtxFenced),
     (decide ((s.ctx h.ctx).state = .active), stCtxDead)] with
  | some st => .error st
  | none =>
    match s.headFail c (h.rsvFlags != 0) (s.depOk h) with
    | some st => .error st
    | none =>
      if h.rsvParam then .error stBounds
      else
        let c := s.linkDeps h op c
        match s.admitOp c with
        | .error st => .error st
        | .ok (s, p) =>
          let c := s.linkFence (c.prepared p)
          if !s.stepOpen c then .error stBounds
          else .ok (s, match op with
            | .stepFence t => { c with after := (c.ctx, t) :: c.after }
            | _ => c)

/-! ### Semaphore bindings (R321, R323) -/

/-- A FIXED acquire that opens no FIXED section ends, and with it what depends on it (R323). -/
def State.failAcquire (s : State) (a : Cmd) : State := s.endCmd a .killed stBounds 0

/-- The packet after an acquire, or after its guarded command, has been read: `new` is its command, none when it failed. -/
def State.bindLast (s : State) (last : Nat) (h : Hdr) (op : Op) (new : Option Nat) (status : W16) : State :=
  match s.cmd? last with
  | none => s
  | some a =>
    if isAcquire a.op && !a.bound && a.guarded.isNone then
      (if !h.chain then (if a.fixed then s.failAcquire a else s.modCmd last fun d => { d with bound := true })
       else match new with
         | none => s.endCmd a .killed stKilled (causeDetail h.seq status)
         | some g =>
           let s := (s.modCmd last fun d => { d with guarded := some g, bound := !a.fixed }).modCmd g fun d => { d with acquire := some last }
           if a.fixed && !(h.fixed && !isAcquire op) then s.failAcquire { a with guarded := some g } else s)
    else if isAcquire a.op then s
    else match a.acquire.bind s.cmd? with
      | none => s
      | some q =>
        match new with
        | some r =>
          if h.chain && isRelease op && decide (semOf op = semOf q.op) && (!q.fixed || h.fixed) then
            (s.modCmd q.cid fun d => { d with closing := some r, bound := true }).modCmd last fun d => { d with closing := some r }
          else if q.fixed && !q.bound then s.failAcquire q else s
        | none => if q.fixed && !q.bound then s.failAcquire q else s

/-! ### Issue (R303, R310, R321-R323) -/

/-- A command enters ISSUED: its attempt gets a number, its shadow slots are reserved. -/
def State.markIssued (s : State) (c : Cmd) : State :=
  let n := s.sched.nextIssue
  let a := s.sched.nextAttempt
  ((s.modCtx c.ctx fun x => { x with shUse := x.shUse + c.shNeed }).modSched fun g => { g with nextIssue := n + 1, nextAttempt := a + 1 }).modCmd
    c.cid fun d => { d with state := .issued, issueNo := n, attempt := a, issuing := true, tick := s.tick.now }

/-- Commands that write images or keels into the vault (R519). -/
def vaultWrite : Op → Bool
  | .wgtInstallBegin .. | .wgtInstallChunks .. | .keelWrite .. => true
  | _ => false

/-- A READY command that no tick plan places starts when nothing stands against it. -/
def State.startN (s : State) (c : Cmd) : State :=
  if c.state ≠ .ready || (s.vaultHot && vaultWrite c.op) then s
  else if c.ctx ≠ 0 ∧ 32 * (s.ctx c.ctx).quotaSh < c.shNeed then s.endCmd c .killed stQuota 0
  else if !(s.poolFits c && s.writeOrderOk c && s.graphGate c) || s.readsLoading c then s
  else match s.recheck c with
    | some st => s.endCmd c .killed st 0
    | none => match (if c.fixed then (s, none) else s.bringRanges c) with
    | (s, some p) => s.vltQuotaFault c p
    | (s, none) =>
      let s := s.markIssued c
      match s.cmd? c.cid with
      | none => s
      | some c => State.finish c.cid none (match c.op with
        | .submitGraph .. => s.startGraph c
        | .graphRun .. => s.startGraph c
        | .graphRelease _ => s.startGraph c
        | _ => s.startOp c)

/-- Vector blocks of a command on slices issue from now on: its budget clock runs (R311). A MATMUL's runs from its first tile. -/
def State.vectorStarts (s : State) (cid : Nat) : State :=
  s.modCmd cid fun d => if d.isMatmul || d.runAhead then d else { d with issuing := true }

/-- Units of a command of the tick plan begin. -/
def State.begin (s : State) (cid : Nat) : State :=
  match s.cmd? cid with
  | none => s
  | some c =>
    if c.state ≠ .issued then s
    else match c.op with
      | .dmaStart .. => (match dmaParam c.op with
        | some q => s.startDma c q
        | none => s)
      | op => if sliceOp (opCode op) then (s.startKernel cid).vectorStarts cid else if isColl (opCode op) then s.startColl cid else s

/-- Nothing is to be done (R168, R282). -/
def Cmd.isEmpty (c : Cmd) : Bool :=
  match c.op with
  | .dmaStart _ _ n .. => n == 0
  | op => kernelOp (opCode op) && workEmpty c

/-- Issue a due command that no acquire guards. -/
def State.issueWork (s : State) (c : Cmd) : State :=
  if !s.due c || c.mismatch || s.recordWaits c then s
  else if c.isEmpty then (if isColl (opCode c.op) then s.recordJob c else s).endCmd c .committed stOk 0
  else if isRelease c.op then
    (match semOf c.op with
     | some (k, v) => (s.addSem c.ctx k v).endCmd c .committed stOk 0
     | none => s)
  else match s.allotLive c with
    | none => s
    | some (.error (st, d)) => s.failCmd c st d
    | some (.ok t) => t.begin c.cid

/-- One acquire of a section takes its semaphore: a FIXED one subtracts and commits, a killable one claims through its
guarded command. -/
def State.takeSem (s : State) (a : Cmd) (g : Nat) : State :=
  match semOf a.op with
  | none => s
  | some p =>
    if a.fixed then
      ((s.subSem p.1 p.2).modCmd g fun d => { d with hold := some p }).endCmd a .committed stOk 0
    else
      let n := s.sched.nextIssue
      ((s.modSched fun h => { h with nextIssue := n + 1 }).modCmd a.cid fun d => { d with state := .issued, issueNo := n }).modCmd g fun d =>
        { d with claim := some p }

/-- Acquire, and the commands it guards, issue together: each acquire in turn must be grantable, and the last command must
get its resources; else nothing happens. For a class 0 acquire killable holders of claims give way (R316). A standalone acquire subtracts and commits. -/
def State.issueSection (s : State) (a : Cmd) : Nat → Option State
  | 0 => none
  | n + 1 =>
    let s := if s.acquireWaits a then s.clearClaims a else s
    if !(s.acquireWaits a && s.grantable a) then none
    else match a.guarded.bind s.cmd? with
      | none => match semOf a.op with
        | some (k, v) => some ((s.subSem k v).endCmd a .committed stOk 0)
        | none => none
      | some g =>
        let s := s.takeSem a g.cid
        match s.cmd? g.cid with
        | none => some s
        | some g =>
          if isAcquire g.op then s.issueSection g n
          else
            let t := s.issueWork g
            match t.cmd? g.cid with
            | none => some t
            | some d => if d.state = .issued then some t else none

/-- Issue an acquire with its section; a guarded command whose ranges find no room records its fault meanwhile (R199). -/
def State.issueAcquire (s : State) (a : Cmd) : State :=
  match s.issueSection a (s.sched.cmds.length + 1) with
  | some t => t
  | none => match a.guarded.bind s.cmd? with
    | some g => if s.acquireWaits a && s.grantable a && !isAcquire g.op then
        (match s.allot g with
         | some (.ok t) => (match t.cmd? g.cid with
           | some d => if d.state = .issued then s else t
           | none => s)
         | _ => s)
      else s
    | none => s

/-- The first acquire of the section a command belongs to. -/
def State.topAcquire (s : State) (c : Cmd) : Nat → Option Cmd
  | 0 => none
  | n + 1 => match c.acquire.bind s.cmd? with
    | some a => (s.topAcquire a n).orElse fun _ => some a
    | none => if isAcquire c.op then some c else none

/-- A placed command issues if it can. One in run-ahead is no longer ahead at its tick; a MATMUL is ahead until MXE issues its first
tile (R148). -/
def State.tryIssue (s : State) (cid : Nat) : State :=
  match s.cmd? cid with
  | none => s
  | some c =>
    if c.state = .issued ∧ c.runAhead ∧ c.tick ≤ s.tick.now then (if c.isMatmul then s else (s.modCmd cid fun d => { d with runAhead := false }).vectorStarts cid)
    else match s.topAcquire c (s.sched.cmds.length + 1) with
      | some a => s.issueAcquire a
      | none => s.issueWork c

/-- A READY command is placed, and issues at once where it can. -/
def State.launch (s : State) (cid : Nat) : State :=
  match s.cmd? cid with
  | none => s
  | some c => if planY (opCode c.op) then (s.placeAll).tryIssue cid else s.startN c

/-! ### From packet to reply -/

/-- A packet is read: its SEQ sets the one expected next (R273). -/
def State.notePacket (s : State) (h : Hdr) (cid : Nat) : State :=
  s.modRing h.ring fun x => { x with head := x.head + 1, tail := if x.tail = x.head then x.head + 1 else x.tail, read := x.read + 1,
                                     nextSeq := some (h.seq + 1), lastCid := cid }

/-- CMD reads a packet and admits or refuses it (R281). A packet that fails replies at once, KILLED with ADMIT; an admitted
one whose predecessors have ended starts or is placed at once. -/
def State.submit (s : State) (h : Hdr) (op : Op) : State :=
  let last := (s.ring h.ring).lastCid
  match s.admission h op with
  | .error st =>
    let s := if st = stQuota && s.graphCramped (s.newCmd h op) then s.raise evPinOverflow unitTmu else s
    let s := (s.notePacket h 0).reply h.ring h.notify h.ring.val
      { seq := h.seq, status := st, phase := .killed, refusal := true, opcode := opCode op, ctx := h.ctx, gen := (s.ctx h.ctx).gen } 0 [] []
    s.bindLast last h op none st
  | .ok (s, c) =>
    let n := s.sched.cmds.length + 1
    let s := (s.notePacket h c.cid).modSched fun g => { g with cmds := g.cmds ++ [c], nextCid := c.cid + 1 }
    let s := s.bindLast last h op (some c.cid) 0
    (((s.endDoomed n).endRuns).readyAll).launch c.cid

/-- A submitter writes a packet at the head of a ring, and CMD reads it when it may (R265). -/
def State.packet (s : State) (h : Hdr) (op : Op) : State := if s.mayRead h.ring then s.submit h op else s

end Sys2Proof.Machine
end

