-- ==== Sys2Proof/Machine/Serving.lean ====
section
/-! DEFINITION. The serving loop: sampling, Deush messages, requests from admission to DONE (R484-R498). -/
namespace Sys2Proof.Machine

/-! ### Sampling (R494) -/

/-- A key comes before another in top-k order: NaN first, then the larger; equal keys keep their order (R42). -/
def rankBefore (a b : Val) : Bool := (a.isNan && !b.isNan) || ltV b a

/-- Insert behind every key that does not come after it. -/
def rankInsert (x : Nat × Val) : List (Nat × Val) → List (Nat × Val)
  | [] => [x]
  | y :: t => if rankBefore x.2 y.2 then x :: y :: t else y :: rankInsert x t

def rankAll (l : List (Nat × Val)) : List (Nat × Val) := l.foldl (fun acc x => rankInsert x acc) []

/-- Outcome of sampling: a token, a NaN among the kept logits, or a token the rule does not state. -/
inductive Sampled where | token (k : Nat) | numeric | open
deriving DecidableEq, Repr

/-- e^(q − q0), rounded once to F32. -/
def logitExp (q q0 : Val) : Val :=
  match q, q0 with
  | .fin a, .fin b => rndTwo (expTwo (a - b))
  | .inf true, .fin _ => .zero
  | _, _ => mkNan cInvalidAdd 0

/-- Cumulative sums, each rounded once to F32. -/
def sumsOf (l : List Val) : List Val :=
  (l.foldl (fun (acc : Val × List Val) p => let c := rndF32 (addV 0 acc.1 p); (c, acc.2 ++ [c])) (Val.zero, [])).2

/-- Choose the next token of a row from its logits: TEMP, TOP_P, TOP_K, SEED, output index in the session, REQ. -/
def sampleToken (logits : List W32) (temp topP topK : W32) (seed : W64) (j : Nat) (req : W32) : Sampled :=
  let vs := (List.range logits.length).zip (logits.map fun w => ofF32 0 w.toNat)
  if temp = 0 ∨ topK = 1 then
    match vs with
    | [] => .open
    | x :: t => .token (t.foldl (fun a b => argBest false a (b.2, b.1)) (x.2, x.1)).2
  else
    let t := ofF32 0 temp.toNat
    let all := rankAll (vs.map fun x => (x.1, rndF32 (divV 0 x.2 t)))
    let kept := if topK = 0 then all else all.take topK.toNat
    if kept.any fun x => x.2.isNan then .numeric
    else match kept with
      | [] => .open
      | q0 :: _ =>
        let cs := sumsOf (kept.map fun x => logitExp x.2 q0.2)
        let bound := rndF32 (mulV 0 (ofF32 0 topP.toNat) (cs.getLastD .zero))
        let reach (c b : Val) : Bool := !c.isNan && !b.isNan && !ltV c b
        match (List.range cs.length).find? fun k => reach (cs.getD k .zero) bound with
        | none => .open
        | some e =>
          let u : Rat := ((roundingWord seed 0x5344 j req).toNat : Rat) * pow2 (-32)
          let cut := rndF32 (mulV 0 (.fin u) (cs.getD e .zero))
          match (List.range (e + 1)).find? fun k => ltV cut (cs.getD k .zero) with
          | some k => .token ((kept.map (·.1)).getD k 0)
          | none => .open

/-! ### Messages (R482, R484, R486) -/

/-- Network byte order. -/
def be (n v : Nat) : List Byte := (le n v).reverse

/-- A Deush message: 32 bytes of header, and the payload. What the module has received in order from the client is not
known here: ACK is open. -/
def deushBytes (typ : Byte) (session : W64) (req seq ack : W32) (payload : List Byte) : List Byte :=
  le 2 0x5A44 ++ [1, typ] ++ le 2 0 ++ le 2 payload.length ++ le 8 session.toNat ++ le 4 req.toNat ++ le 4 seq.toNat ++ le 4 ack.toNat ++
    le 4 0 ++ payload

/-- A transmit record with an IPv6 packet over UDP; FEN fills in the checksum. -/
def txRecord (src dst : BitVec 128) (sport dport : W16) (body : List Byte) : List Byte :=
  let n := 8 + body.length
  let p := be 4 0x60000000 ++ be 2 n ++ [17, 64] ++ be 16 src.toNat ++ be 16 dst.toNat ++ be 2 sport.toNat ++ be 2 dport.toNat ++ be 2 n ++
    be 2 0 ++ body
  let r := le 2 p.length ++ [0, 0] ++ le 4 0 ++ le 8 0 ++ p
  r ++ List.replicate (roundUp r.length 64 - r.length) 0

/-- Port of a front-end queue (R166). -/
def portOf (q : Nat) : Fin 2 := if q % 32 < 16 then 0 else 1

/-- The instance a request names, or for the answer to one that names none, the lowest that runs. -/
def State.instFor (s : State) (svc : Fin 16) : Option Instance :=
  (s.inst svc).orElse fun _ => (List.finRange 16).findSome? s.inst

/-- Put a message into the transmit queue of an instance; a full queue drops it. -/
def State.sendDeush (s : State) (r : Req) (typ : Byte) (seq : W32) (payload : List Byte) : State :=
  match s.instFor r.svc with
  | none => s
  | some x =>
    let q := x.cfg.txq
    let bs := txRecord (s.serve.ports[portOf q]).ip r.client x.cfg.udp r.info.udp
      (deushBytes typ r.session r.req seq (Config.freeWord s.free) payload)
    let s := { s with free := s.free + 1 }
    if (s.queue q).bytes.length + (s.queue q).ahead + bs.length ≤ queueBytes then (s.queuePush q bs).queueMoved q else s

def tAccept : Byte := 3
def tTokens : Byte := 4
def tDone : Byte := 5
def tReject : Byte := 6
def tAck : Byte := 8

/-! ### Requests and sessions -/

def Req.same (r q : Req) : Bool := r.client == q.client && r.session == q.session && r.req == q.req
def State.modReq (s : State) (r : Req) (f : Req → Req) : State :=
  { s with serve := { s.serve with reqs := s.serve.reqs.map fun (q : Req) => if q.same r then f q else q } }
/-- The request goes behind every other: the list is in admission order from the last admitted on (R493). -/
def State.toLast (s : State) (r : Req) : State :=
  { s with serve := { s.serve with reqs := (s.serve.reqs.filter fun q => !q.same r) ++ s.serve.reqs.filter fun q => q.same r } }
def State.req? (s : State) (client : BitVec 128) (session : W64) (req : W32) : Option Req :=
  s.serve.reqs.find? fun r => r.client == client && r.session == session && r.req == req
def State.session? (s : State) (client : BitVec 128) (session : W64) : Option Session :=
  s.serve.sessions.find? fun x => x.client == client && x.session == session
def State.modSession (s : State) (r : Req) (f : Session → Session) : State :=
  { s with serve := { s.serve with sessions := s.serve.sessions.map fun (x : Session) =>
      if x.client = r.client ∧ x.session = r.session then f x else x } }

/-- REJECT reasons (R488). -/
def rjBusy : Byte := 1
def rjService : Byte := 2
def rjMessage : Byte := 3
def rjLong : Byte := 4
def rjRole : Byte := 5
def rjWeights : Byte := 6
def rjSessions : Byte := 7
def rjIncomplete : Byte := 8

/-- Refuse a request; the answer is kept for duplicates. RETRY_MS is open where BUSY suggests a wait, and 0 else. -/
def State.reject (s : State) (r : Req) (reason : Byte) : State :=
  let retry := if reason = rjBusy then (Config.freeWord s.free).toNat else 0
  let body := [reason, 0, 0, 0] ++ le 4 retry
  let s := ({ s with free := s.free + 1 }).sendDeush r tReject 0 body
  (s.modReq r fun q => { q with state := .ended, wait := none, answer := some (tReject, body) })

/-- A message of a request that the client acknowledges: it is numbered, sent and kept (R492). -/
def State.sendKept (s : State) (r : Req) (typ : Byte) (payload : List Byte) : State :=
  match s.serve.reqs.find? fun q => q.same r with
  | none => s
  | some q =>
    (s.sendDeush q typ q.nextSeq payload).modReq q fun x =>
      { x with nextSeq := x.nextSeq + 1, unacked := x.unacked ++ [{ seq := q.nextSeq, typ, payload }] }

/-! ### Packets of the loop (R271, R490) -/

/-- The core ring the loop submits on for a context: the lowest-numbered that may be read. -/
def State.loopRing (s : State) (x : CtxId) : Option RingId :=
  (List.finRange 65).find? fun r => decide (r ≠ mgtRing) && (s.ring r).core && s.mayRead r && (s.ring r).mayFor r x

/-- Submit a packet for a context on a ring. -/
def State.loopSend (s : State) (r : RingId) (x : CtxId) (prio : PrioClass) (chain : Bool) (op : Op) : State × W32 :=
  let q := (s.ring r).nextSeq.getD 0
  (s.packet { ring := r, prio, ctx := x, chain, seq := q } op, q)

/-- How a packet of a ring ended, with its DETAIL; none while it runs. -/
def State.endOf (s : State) (r : RingId) (q : W32) : Option (Phase × W16 × W64) :=
  match s.predOf r q with
  | some (.inl _) => none
  | _ => match (s.ring r).hist.find? fun h => h.seq == q with
    | some h => some (h.phase, h.status, BitVec.ofNat 64 (leAt h.reply 8 8))
    | none => some (.killed, stKilled, 0)

/-- ATTR of the loop's mappings and hints (R203, R214). -/
def kvAttr (hint : Nat) : W32 := BitVec.ofNat 32 (1 + 4 + 8 + 16 * hint)
def hintAttr (hint : Nat) (wait : Bool) : W32 := BitVec.ofNat 32 (16 * hint + bitAt wait 8)
def hPreferT2 : Nat := 1
def hPreferT3 : Nat := 2
def hPreferT4 : Nat := 3
def hPinT2 : Nat := 4

/-! ### Admission (R491) -/

/-- ROLE admits a class (R26). -/
def State.admits (s : State) (k : PrioClass) : Bool := (scanned s.mode.roleNow).contains k

def Req.inFlight (r : Req) : Bool := r.state == .admitting || r.state == .accepted
def Req.wantsLive (r : Req) : Bool := r.info.rclass.getLsbD 0
def Req.allowsBulk (r : Req) : Bool := !r.wantsLive || r.info.rclass.getLsbD 1
def Req.complete (r : Req) : Bool := (List.range r.info.prompt.toNat).all fun k => r.got.any fun g => g.1 == k

/-- Fields of a REQUEST that R487 bounds. -/
def badRequest (x : SrvCfg) (i : Request) : Bool :=
  let p := ofF32 0 i.topP.toNat
  decide (4 ≤ i.rclass.toNat) || decide (4 < i.nstop.toNat) || i.rsv != 0 || (i.stops.drop i.nstop.toNat).any (· != 0) ||
    decide (x.maxCtx < i.prompt.toNat) || !(ltV Val.zero p && !ltV one p) || decide (2216 < i.tokens.length) ||
    decide (i.prompt.toNat < i.tokens.length) || i.tokens.any fun t => decide (x.vocab ≤ t.toNat)

/-- The reason a complete request is refused for (R485, R487, R488), and whether it runs live. -/
def State.screen (s : State) (r : Req) (x : Instance) : Except Byte Bool :=
  let ses := s.session? r.client r.session
  let held := if r.info.resetCtx then 0 else (ses.map (·.tokens)).getD 0
  let count (live : Bool) : Nat := (s.serve.reqs.filter fun q => decide (q.svc = r.svc) && q.inFlight && q.live == live).length
  if badRequest x.cfg r.info || (match ses with
      | some z => decide (r.req ≠ z.lastReq + 1) || decide (z.svc ≠ r.svc)
      | none => false) then .error rjMessage
  else if x.cfg.maxCtx < held + r.info.prompt.toNat + r.info.maxTokens.toNat then .error rjLong
  else if ses.isNone ∧ x.cfg.sessMax ≤ (s.serve.sessions.filter fun z => decide (z.svc = r.svc)).length then .error rjSessions
  else if r.wantsLive ∧ s.admits 0 ∧ count true < x.cfg.liveMax then .ok true
  else if r.allowsBulk ∧ s.admits 1 ∧ count false < x.cfg.bulkMax then .ok false
  else if !(r.wantsLive && s.admits 0) && !(r.allowsBulk && s.admits 1) then .error rjRole
  else .error rjBusy

/-- First address of a new session's range: past every page of the context and every other session's range. -/
def State.kvBase (s : State) (x : CtxId) (svcs : List (Fin 16)) : Nat :=
  roundUp (max ((s.memUnit.pages.filter fun p => decide (p.ctx = x) && decide (p.va < windowBase)).foldl (fun n p => max n (p.va + p.size.bytes)) 0)
    ((s.serve.sessions.filter fun z => svcs.contains z.svc).foldl (fun n z => max n (z.kvVa + z.kvMax)) 0)) (2 ^ 21)

/-- Instances of a serving context. -/
def State.svcsOf (s : State) (x : CtxId) : List (Fin 16) := (List.finRange 16).filter fun k => (s.inst k).any fun i => decide (i.ctx = x)

/-- A request is rejected; but for a bad message the session remembers it. -/
def State.rejectNoted (s : State) (r : Req) (reason : Byte) : State :=
  (if reason = rjMessage then s else s.modSession r fun z => { z with lastReq := r.req }).reject r reason

/-- The session gives up the turn it took, and the request is rejected. -/
def State.rejectBusy (s : State) (r : Req) : State := (s.modSession r fun y => { y with busy := false }).reject r rjBusy

/-- Step 4 of R491: submit WGT_PIN, the request's first command; it depends on the MEM_HINT before it, when there was one (R214). -/
def State.admitPin (s : State) (r : Req) (x : Instance) (live hinted : Bool) : State :=
  match s.loopRing x.ctx with
  | none => s.rejectBusy r
  | some k =>
    let (s, q) := s.loopSend k x.ctx 1 hinted (.wgtPin 1)
    (s.modReq r fun y => { y with state := .admitting, live, ring := k, wait := some q }).toLast r

/-- Step 3 of R491: the session takes its turn, and the KV pages it has are hinted. -/
def State.admitHint (s : State) (r : Req) (x : Instance) (live : Bool) (z : Session) (held need : Nat) : State :=
  let z' := { z with tokens := held, lastReq := r.req, kvLen := max z.kvLen need, busy := true }
  let known := (s.session? r.client r.session).isSome
  let ses := if known then s.serve.sessions.map fun (y : Session) => if y.client = z.client ∧ y.session = z.session then z' else y
    else s.serve.sessions ++ [z']
  let s : State := { s with serve := { s.serve with sessions := ses } }
  if z.kvLen = 0 then s.admitPin r x live false
  else match s.loopRing x.ctx with
    | none => s.rejectBusy r
    | some k =>
      State.admitPin (s.loopSend k x.ctx 1 false (.memHint (BitVec.ofNat 64 z.kvVa) (BitVec.ofNat 64 z.kvLen)
        (hintAttr (if live then hPinT2 else hPreferT2) true))).1 r x live true

/-- Step 2 of R491: KV pages the session does not have are mapped. -/
def State.admitLive (s : State) (r : Req) (x : Instance) (ring : RingId) (live : Bool) : State :=
  let per := Config.kvTokenBytes r.svc.val
  let z : Session := (s.session? r.client r.session).getD
    { client := r.client, session := r.session, svc := r.svc, lastReq := r.req,
      kvVa := s.kvBase x.ctx (s.svcsOf x.ctx), kvMax := roundUp (x.cfg.maxCtx * per) (2 ^ 21) }
  let held := if r.info.resetCtx then 0 else z.tokens
  let need := roundUp ((held + r.info.prompt.toNat + r.info.maxTokens.toNat) * per) (2 ^ 21)
  if need ≤ z.kvLen then s.admitHint r x live z held need
  else
    let (s, q) := s.loopSend ring x.ctx 1 false (.memMap (BitVec.ofNat 64 (z.kvVa + z.kvLen)) (BitVec.ofNat 64 (need - z.kvLen))
      (kvAttr (if live then hPinT2 else hPreferT2)))
    match s.endOf ring q with
    | some (.committed, _, _) => s.admitHint r x live z held need
    | _ => s.rejectNoted r rjBusy

/-- Steps 1 to 4 of R491: screen, map and hint the KV pages, submit WGT_PIN. -/
def State.admitReq (s : State) (r : Req) : State :=
  match s.inst r.svc with
  | none => s.reject r rjService
  | some x =>
    if x.draining then s.reject r rjService
    else match (if (s.session? r.client r.session).any (·.busy) then .error rjBusy else s.screen r x), s.loopRing x.ctx with
      | .error reason, _ => s.rejectNoted r reason
      | .ok _, none => s.rejectNoted r rjBusy
      | .ok live, some ring => s.admitLive r x ring live

/-! ### The end of a request (R489, R491) -/

/-- The request gives its pin back and its session is idle; a closing session's pages are unmapped. -/
def State.release (s : State) (r : Req) : State :=
  match s.inst r.svc with
  | none => s
  | some x =>
    let s := match s.loopRing x.ctx with
      | some k => (s.loopSend k x.ctx 1 false (.wgtUnpin (BitVec.ofNat 8 r.slot.val) 1)).1
      | none => s
    match s.session? r.client r.session with
    | none => s
    | some z =>
      let op : Op := if z.closing then .memUnmap (BitVec.ofNat 64 z.kvVa) (BitVec.ofNat 64 z.kvLen)
        else .memHint (BitVec.ofNat 64 z.kvVa) (BitVec.ofNat 64 z.kvLen) (hintAttr hPreferT3 false)
      let s := match s.loopRing x.ctx with
        | some k => if z.kvLen = 0 then s else (s.loopSend k x.ctx 1 false op).1
        | none => s
      if z.closing then
        { s with serve := { s.serve with sessions := s.serve.sessions.filter fun y => !(y.client == z.client && y.session == z.session) } }
      else s.modSession r fun y => { y with busy := false, idleSince := s.nowUs, outIndex := y.outIndex + r.out.length,
                                            tokens := if (r.ending.map (·.2)) = some stFaultUnresolved then 0 else y.tokens + r.info.prompt.toNat + r.out.length }

/-- DONE, and the end of the request; UNACKED sends none. -/
def State.finishReq (s : State) (r : Req) (reason : Byte) (status : W16) : State :=
  let us := s.nowUs - r.info.at_
  let body := [reason, 0] ++ le 2 status.toNat ++ le 4 r.sentTokens ++ le 4 (sat32 ((r.firstUs.map (· - r.info.at_)).getD 0)) ++ le 4 (sat32 us)
  let s := if reason = doneUnacked then s else s.sendKept r tDone body
  let s := s.modReq r fun q => { q with state := .ended, wait := none, lead := none, answer := some (tAck, []),
                                        unacked := if reason = doneUnacked then [] else q.unacked }
  s.release r

/-! ### The work of accepted requests (R492-R497) -/

/-- Deadlines of the request that have passed (R496). -/
def State.latePast (s : State) (r : Req) : Bool :=
  let us := s.nowUs - r.info.at_
  (r.out.isEmpty && r.info.firstDl != 0 && decide (r.info.firstDl.toNat ≤ us)) ||
    (r.info.totalDl != 0 && decide (1000 * r.info.totalDl.toNat ≤ us))

/-- Earliest deadline ahead, in ticks. -/
def State.dueAt (s : State) (r : Req) : Option Nat :=
  let t (us : Nat) : Nat := (r.info.at_ + us) / max 1 s.tickUs
  let f := if r.out.isEmpty ∧ r.info.firstDl ≠ 0 then some (t r.info.firstDl.toNat) else none
  let a := if r.info.totalDl ≠ 0 then some (t (1000 * r.info.totalDl.toNat)) else none
  match f, a with
  | some x, some y => some (min x y)
  | some x, none => some x
  | none, y => y

/-- Submit a run, and after it a sampling run when a token is due; the commands carry the rows' earliest deadline. -/
def State.runRows (s : State) (x : Instance) (rows : List Req) (slot : Nat) (prio : PrioClass) (sample : Bool) (chunk : Nat) : State :=
  match s.loopRing x.ctx with
  | none => s
  | some k =>
    let first := s.sched.nextCid
    let (s, q) := s.loopSend k x.ctx prio false (.graphRun (BitVec.ofNat 8 slot) 0)
    let (s, last) := if sample ∧ s.mayRead k then s.loopSend k x.ctx prio true (.graphRun (BitVec.ofNat 8 (x.cfg.gslots.getD 3 0)) 0) else (s, q)
    let due := (rows.filterMap s.dueAt).foldl (fun (m : Option Nat) d => match m with
      | none => some d
      | some e => some (min d e)) none
    let s := s.modSched fun g => { g with cmds := g.cmds.map fun (c : Cmd) => if first ≤ c.cid then { c with dueTick := due } else c }
    rows.foldl (fun s r => s.modReq r fun y => { y with ring := k, wait := some last, lead := some q, chunk, sampling := sample && last != q }) s

/-- A row that may join a decode batch (R492, R493). -/
def Req.ready (r : Req) : Bool :=
  r.state == .accepted && r.wait.isNone && r.ending.isNone && decide (r.filled = r.info.prompt.toNat) && decide (r.unacked.length < 64) &&
    decide (r.out.length < r.info.maxTokens.toNat)

/-- Rows one batch holds (R493). -/
def batchRows (live : Bool) : Nat := if live then 8 else 128

/-- Ready rows of an instance and class that read one weight slot, in admission order. -/
def State.readyRows (s : State) (svc : Fin 16) (live : Bool) (slot : WSlotId) : List Req :=
  s.serve.reqs.filter fun r => decide (r.svc = svc) && r.live == live && decide (r.slot = slot) && r.ready

/-- The next batch of them: no batch holds rows of two weight slots. -/
def State.batch (s : State) (svc : Fin 16) (live : Bool) (slot : WSlotId) : List Req := (s.readyRows svc live slot).take (batchRows live)

/-- Decode a batch of an instance. -/
def State.decode (s : State) (svc : Fin 16) (live : Bool) (slot : WSlotId) : State :=
  match s.inst svc with
  | none => s
  | some x => match s.batch svc live slot with
    | [] => s
    | rows => s.runRows x rows (x.cfg.gslots.getD (if live then 2 else 1) 0) (if live then 0 else 1) true 0

/-- Decode the batches that may issue: every live row, and bulk rows while 128 are ready. -/
def State.decodeReady (s : State) (svc : Fin 16) (slot : WSlotId) : State :=
  let s := (List.range (ceilDiv (s.readyRows svc true slot).length 8)).foldl (fun s _ => s.decode svc true slot) s
  (List.range ((s.readyRows svc false slot).length / 128)).foldl (fun s _ => s.decode svc false slot) s

/-- A token for a row: its logits are what the graph computed, which the manual places nowhere. -/
def State.sampleRow (s : State) (r : Req) : State :=
  match s.inst r.svc with
  | none => s
  | some x =>
    let logits := (List.range x.cfg.vocab).map fun k => Config.freeWord (s.free + k)
    let s := { s with free := s.free + x.cfg.vocab + 1 }
    let j := ((s.session? r.client r.session).map (·.outIndex)).getD 0 + r.out.length
    let put (s : State) (t : W32) : State := s.modReq r fun q =>
      let out := q.out ++ [t]
      { q with out, readyTick := s.tick.now,
               ending := if (q.info.stops.take q.info.nstop.toNat).contains t then some (doneStop, 0)
                 else if q.info.maxTokens.toNat ≤ out.length then some (doneMax, 0) else q.ending }
    match sampleToken logits r.info.temp r.info.topP r.info.topK r.info.seed j r.req with
    | .token k => put s (BitVec.ofNat 32 k)
    | .numeric => s.modReq r fun q => { q with ending := some (doneNumeric, 0) }
    | .open => put s (BitVec.ofNat 32 ((Config.freeWord s.free).toNat % max 1 x.cfg.vocab))

/-- The commands of a request have ended: a prefill moves on, a row gets its token, a failure ends the request or sends its
row back to be batched again (R496). -/
def State.collect (s : State) (r : Req) : State :=
  match r.wait with
  | none => s
  | some q =>
    match s.endOf r.ring q with
    | none => s
    | some (ph, st, _) =>
      let s := s.modReq r fun y => { y with wait := none, lead := none }
      if ph = .committed then
        let s := s.modReq r fun y => { y with filled := y.filled + y.chunk, chunk := 0, readyTick := s.tick.now }
        if r.sampling ∧ (r.ending.isNone ∨ r.ending.any fun e => e.1 != doneCancelled) then s.sampleRow r
        else if r.info.maxTokens = 0 ∧ r.filled + r.chunk = r.info.prompt.toNat ∧ r.ending = none then
          s.modReq r fun y => { y with ending := some (doneMax, 0) }
        else s
      else
        let st := match r.lead.bind (s.endOf r.ring) with
          | some (.committed, _, _) => st
          | some (_, st', _) => st'
          | none => st
        let set (e : Byte × W16) : State := s.modReq r fun y => { y with chunk := 0, ending := y.ending.orElse fun _ => some e }
        if st = stDeadlineMiss then (if s.latePast r then set (doneDeadline, 0) else s.modReq r fun y => { y with chunk := 0 })
        else if st = stWeightUnavailable then set (doneWeight, st)
        else set (doneFault, st)

/-- Send the tokens committed since the last message, one message a tick (R495). -/
def State.flush (s : State) (r : Req) : State :=
  if r.out.length ≤ r.sentTokens ∨ r.lastTick = some s.tick.now ∨ r.ending.any (fun e => e.1 == doneCancelled || e.1 == doneUnacked) then s
  else
    let ts := (r.out.drop r.sentTokens).take 64
    let s := s.sendKept r tTokens (le 4 r.sentTokens ++ ts.flatMap fun t => le 4 t.toNat)
    s.modReq r fun y => { y with sentTokens := y.sentTokens + ts.length, lastTick := some s.tick.now, firstUs := y.firstUs.orElse fun _ => some s.nowUs }

/-- A change of ROLE under a request (R497). -/
def State.roleCheck (s : State) (r : Req) : State :=
  if r.ending.isSome ∨ s.admits (if r.live then 0 else 1) then s
  else if r.live ∧ r.info.rclass.getLsbD 1 ∧ s.admits 1 then s.modReq r fun y => { y with live := false }
  else s.modReq r fun y => { y with ending := some (doneRole, 0) }

/-- One request moves on as far as it can. -/
def State.advanceReq (s : State) (r : Req) : State :=
  match r.state, s.inst r.svc with
  | .admitting, some x =>
    (match r.wait.bind (s.endOf r.ring) with
     | none => s
     | some (.committed, _, d) =>
       let slot : WSlotId := Fin.ofNat 8 d.toNat
       let s := s.modReq r fun y => { y with wait := none, slot, version := BitVec.ofNat 32 (d.toNat / 2 ^ 32) }
       if r.ending.isSome then
         let s := s.release { r with slot, ending := none, out := [], info := { r.info with prompt := 0 } }
         { s with serve := { s.serve with reqs := s.serve.reqs.filter fun q => !q.same r } }
       else
         let held := ((s.session? r.client r.session).map (·.tokens)).getD 0 + r.info.prompt.toNat
         let body := le 4 (d.toNat / 2 ^ 32) ++ [BitVec.ofNat 8 slot.val, (if r.live then 0 else 1), 0, 0] ++ le 4 held
         (s.sendDeush r tAccept 0 body).modReq r fun y =>
           { y with state := .accepted, readyTick := s.tick.now, answer := some (tAccept, body),
                    ending := if r.info.prompt = 0 ∧ r.info.maxTokens = 0 then some (doneMax, 0) else none }
     | some (_, st, _) =>
       let s := s.modSession r fun y => { y with busy := false }
       if r.ending.isSome then { s with serve := { s.serve with reqs := s.serve.reqs.filter fun q => !q.same r } }
       else s.reject r (if st = stWeightUnavailable then rjWeights else if x.draining then rjService else rjBusy))
  | .accepted, some x =>
    let again (s : State) : Req := (s.serve.reqs.find? fun q => q.same r).getD r
    let s := s.collect r
    let s := s.roleCheck (again s)
    let r := again s
    let s := if r.ending.isNone && r.wait.isNone && s.latePast r then s.modReq r fun y => { y with ending := some (doneDeadline, 0) } else s
    let s := s.flush (again s)
    let r := again s
    if r.wait.isSome then s
    else match r.ending with
      | some (reason, st) =>
        if reason = doneCancelled ∨ reason = doneUnacked ∨ r.out.length ≤ r.sentTokens then s.finishReq r reason st else s
      | none =>
        if r.filled < r.info.prompt.toNat ∧ r.unacked.length < 64 then
          let n := min x.cfg.prefillChunk (r.info.prompt.toNat - r.filled)
          s.runRows x [r] (x.cfg.gslots.getD 0 0) 1 (decide (r.filled + n = r.info.prompt.toNat) && decide (r.info.maxTokens ≠ 0)) n
        else s
  | _, _ => s

/-- Requests of a context that is torn down end without a word (R498). -/
def State.dropDead (s : State) : State :=
  let dead (svc : Fin 16) : Bool := match s.inst svc with
    | some x => !s.live x.ctx
    | none => true
  { s with serve := { s.serve with reqs := s.serve.reqs.filter fun r => !dead r.svc, sessions := s.serve.sessions.filter fun z => !dead z.svc } }

/-- One pass of the loop over its requests, in admission order; then the batches that are full, and the live ones. -/
def State.servePass (s : State) : State :=
  let s := s.dropDead
  let s := s.serve.reqs.foldl (fun (s : State) (r : Req) => match s.serve.reqs.find? fun q => q.same r with
    | some q => s.advanceReq q
    | none => s) s
  (List.finRange 16).foldl (fun (s : State) (k : Fin 16) => (List.finRange 8).foldl (fun s w => s.decodeReady k w) s) s

/-- The serving loop acts on what has ended since: two passes, for commands that end as they are submitted. -/
def State.served (s : State) : State :=
  if s.serve.reqs.isEmpty || !s.serviceRuns .servingLoop then s else s.servePass.servePass

end Sys2Proof.Machine
end

