-- ==== Sys2Proof/Machine/GscRows.lean ====
section
/-! DEFINITION. The events of GSC: issue, run-ahead, commit, the end of FIXED commands, reruns after a mismatch, grants of
semaphores (R101, R148, R310, R314, R315, R321). -/
namespace Sys2Proof.Machine

/-- COMMAND_ISSUE: what is READY is placed where it fits (R304-R307), and a placed command issues if its tick is current and its
resources are there (R310); a READY command that no tick plan places starts (R305). A command in run-ahead whose tick has come
is no longer ahead. -/
def execCommandIssue (cid : Nat) (s : State) : Host.Outcome State Fault Refusal :=
  let s := s.placeAll
  match s.cmd? cid with
  | none => .next s
  | some c => .next ((if planY (opCode c.op) then s.tryIssue cid else s.startN c).served)

/-- Commands of an engine in run-ahead (R148). -/
def State.aheadOn (s : State) (e : EngineId) : Nat := ((s.issuedOn e).filter (·.runAhead)).length

/-- A command may run ahead: it is placed in the current or the next tick, no acquire guards it, and each of its engines has
fewer than two commands in run-ahead. -/
def State.mayRunAhead (s : State) (c : Cmd) : Bool :=
  c.state == .placed && decide (c.tick ≤ s.tick.now + 1) && sliceOp (opCode c.op) && c.acquire.isNone && !c.mismatch && !s.recordWaits c &&
    !c.isEmpty && c.kb.engs.all fun d => decide (s.aheadOn d.eng < 2)

/-- RUN_AHEAD_START: the stream programs of a queued command start before its tick or its first tile, when its banks and
program slots are free (R148). -/
def execRunAheadStart (cid : Nat) (s : State) : Host.Outcome State Fault Refusal :=
  match s.cmd? cid with
  | none => .next s
  | some c =>
    if !s.mayRunAhead c then .next s
    else match s.allot { c with tick := s.tick.now } with
      | some (.ok t) => .next ((t.modCmd cid fun d => { d with runAhead := d.state == .issued }).begin cid)
      | some (.error _) => .next s
      | none => .next s

/-- The predecessors of the closing release of a command's section, other than the command, have ended. -/
def State.closingFree (s : State) (c : Cmd) : Bool :=
  match c.closing.bind s.cmd? with
  | none => true
  | some r => r.preds.all fun p => p == c.cid || c.acquire == some p

/-- A command's attempt has begun on its own tick, so that its end may come, and no hang stops it (R430). -/
def State.underWay (s : State) (c : Cmd) : Bool := c.state == .issued && !s.stopping c.cid && !(s.vaultHot && vaultWrite c.op) && (!planY (opCode c.op) || decide (c.tick ≤ s.tick.now))

/-- COMMIT: every unit of a killable command, or of a command that no tick plan places, has ended its work (R314). The place
it held is free for others. -/
def execCommit (cid used : Nat) (s : State) : Host.Outcome State Fault Refusal :=
  match s.cmd? cid with
  | none => .next s
  | some c =>
    if s.underWay c && s.closingFree c && !(c.fixed && planY (opCode c.op)) then .next (((s.commitOp c used).placeAll).served)
    else .next s

/-- FIXED_COMMAND_END: the last effect of a FIXED command has landed (R315). -/
def execFixedCommandEnd (cid used : Nat) (s : State) : Host.Outcome State Fault Refusal :=
  match s.cmd? cid with
  | none => .next s
  | some c =>
    if s.underWay c && c.fixed && planY (opCode c.op) then .next (((s.endFixed c used).placeAll).served) else .next s

/-- MISMATCH_RERUN: a command killed by a mismatch is placed again, on the slot its engine has now (R101). -/
def execMismatchRerun (cid : Nat) (s : State) : Host.Outcome State Fault Refusal :=
  match s.cmd? cid with
  | none => .next s
  | some c =>
    if c.mismatch && c.state == .ready then
      .next (((s.modCmd cid fun d => { d with mismatch := false }).placeAll).tryIssue cid)
    else .next s

/-- SEM_GRANT: the first waiting acquire of a semaphore is granted, if its value is available (R321). -/
def execSemGrant (sem : SemId) (s : State) : Host.Outcome State Fault Refusal :=
  match s.sched.cmds.find? fun a => s.acquireWaits a && decide ((semOf a.op).map (·.1) = some sem) && s.grantable a &&
      a.acquire.isNone with
  | some a => .next ((s.issueAcquire a).served)
  | none => .next s

end Sys2Proof.Machine
end

