-- ==== Sys2Proof/Machine/Regs.lean ====
section
/-! DEFINITION. The registers of BAR0 by name (R532-R537): offset and domain of each. -/
namespace Sys2Proof.Machine

/-- Domain of a register (R528). -/
inductive RegDom where | ao | v | m
deriving DecidableEq, Repr

/-- The registers, by the names of R533-R537; `cmdqDb n` is the doorbell of ring n. -/
inductive Reg where
  | glbId
  | glbBootStat
  | glbBootTime
  | glbIncarn
  | glbVigilCtl
  | modeCtl
  | modeStat
  | modeCap
  | otpStat
  | otpSerialLo
  | otpSerialHi
  | otpSvn
  | otpSel
  | otpData
  | cmdqSel
  | cmdqCfg
  | cmdqCtxmLo
  | cmdqCtxmHi
  | cmdqBaseLo
  | cmdqBaseHi
  | cmdqCplLo
  | cmdqCplHi
  | cmdqStat
  | cmdqHead
  | cmdqTail
  | cmdqCplTail
  | cmdqCplHead
  | cmdqDmaKick
  | tickCtl
  | tickAt
  | tickColl
  | tickNow
  | tickStat
  | tickOffset
  | tickGm
  | tickTimeLo
  | tickTimeHi
  | fabIdent
  | fabDims
  | fabAdopt
  | fabLinkCtl
  | fabSel
  | fabLinkStat
  | fabNbr
  | fabNbrInc
  | fabFecCe
  | fabFecUe
  | fabReplay
  | fabDrop
  | glbMemCap
  | glbMemFw
  | glbMemLend
  | glbMemLendUse
  | glbMemMig
  | glbScrub
  | glbTmuSel
  | glbTmuUseT2
  | glbTmuUseT3
  | glbTmuUseT4
  | glbTmuUseSh
  | glbTmuFaults
  | glbCtxSel
  | glbCtxStat
  | glbCtxTenantLo
  | glbCtxTenantHi
  | glbCtxOut
  | glbGscSel
  | glbGscShare
  | glbGscDebt
  | glbGscOverrun
  | glbGscKills
  | glbGscLost
  | glbGscPre
  | glbGscDefer
  | glbJobSel
  | glbPvCtl
  | glbPvStep
  | glbPvEpoch
  | glbJobEpoch
  | glbPvLstep
  | glbPvLepoch
  | glbPvSkew
  | glbSteSel
  | glbSteWaste
  | glbSteCancel
  | glbSteMiss
  | glbSteStarve
  | glbSteFault
  | glbDmaSel
  | glbDmaStat
  | glbDmaBytes
  | glbDmaLevel
  | glbDmaHolds
  | glbCleActive
  | glbCleTx
  | glbCleRx
  | glbCleDup
  | glbCleAbort
  | glbCleWait
  | vltLayout
  | vltSel
  | vltWearUsed
  | vltWearSpare
  | vltWriteDay
  | vltCe
  | vltUe
  | vltStat
  | mirSel
  | mirStat
  | mirSeal
  | mirSyncBytes
  | mirSyncTime
  | mirCtl
  | errCfg
  | errCfgCnt
  | errNanSel
  | errNanRec0
  | errNanRec1
  | errNanRec2
  | errNanRec3
  | errGenDrop
  | errMemSel
  | errMemCe
  | errMemUe
  | errMemStat
  | errResSel
  | errRes
  | errMismatch
  | errHangLast
  | errHangSeq
  | errHangCnt
  | errRstSel
  | errRstCnt
  | errWdogCtl
  | errEmberStat
  | errEvtCfg
  | errEvtBaseLo
  | errEvtBaseHi
  | errEvtProd
  | errEvtCons
  | errTbSel
  | errTbCfg
  | errSupp
  | errIncident
  | errInjCtl
  | snsPwr
  | snsClk
  | snsSel
  | snsVal
  | snsStat
  | snsMax
  | glbFeSel
  | glbFeStat
  | glbFeIp0
  | glbFeIp1
  | glbFeIp2
  | glbFeIp3
  | glbFeGw0
  | glbFeGw1
  | glbFeGw2
  | glbFeGw3
  | glbFeRxDrop
  | glbFeSecDrop
  | glbFeTxDrop
  | glbPcieStat
  | glbPcieErr
  | cmdqDb (n : Fin 64)
deriving DecidableEq, Repr

/-- R533. -/
def regs533 : List (Nat × Reg × RegDom) :=
  [(0x0000, .glbId, .ao),
   (0x0004, .glbBootStat, .ao),
   (0x0008, .glbBootTime, .ao),
   (0x000C, .glbIncarn, .ao),
   (0x0010, .glbVigilCtl, .ao),
   (0x1000, .modeCtl, .m),
   (0x1004, .modeStat, .m),
   (0x1008, .modeCap, .ao),
   (0x2000, .otpStat, .ao),
   (0x2004, .otpSerialLo, .ao),
   (0x2008, .otpSerialHi, .ao),
   (0x200C, .otpSvn, .ao),
   (0x2010, .otpSel, .ao),
   (0x2014, .otpData, .ao),
   (0x3000, .cmdqSel, .v),
   (0x3004, .cmdqCfg, .v),
   (0x3008, .cmdqCtxmLo, .v),
   (0x300C, .cmdqCtxmHi, .v),
   (0x3010, .cmdqBaseLo, .v),
   (0x3014, .cmdqBaseHi, .v),
   (0x3018, .cmdqCplLo, .v),
   (0x301C, .cmdqCplHi, .v),
   (0x3020, .cmdqStat, .v),
   (0x3024, .cmdqHead, .v),
   (0x3028, .cmdqTail, .v),
   (0x302C, .cmdqCplTail, .v),
   (0x3030, .cmdqCplHead, .v),
   (0x3034, .cmdqDmaKick, .m)]

/-- R534. -/
def regs534 : List (Nat × Reg × RegDom) :=
  [(0x4000, .tickCtl, .v),
   (0x4004, .tickAt, .v),
   (0x4008, .tickColl, .v),
   (0x400C, .tickNow, .v),
   (0x4010, .tickStat, .v),
   (0x4014, .tickOffset, .v),
   (0x4018, .tickGm, .v),
   (0x401C, .tickTimeLo, .v),
   (0x4020, .tickTimeHi, .v),
   (0x5000, .fabIdent, .v),
   (0x5004, .fabDims, .v),
   (0x5008, .fabAdopt, .m),
   (0x500C, .fabLinkCtl, .v),
   (0x5010, .fabSel, .v),
   (0x5014, .fabLinkStat, .v),
   (0x5018, .fabNbr, .v),
   (0x501C, .fabNbrInc, .v),
   (0x5020, .fabFecCe, .v),
   (0x5024, .fabFecUe, .v),
   (0x5028, .fabReplay, .v),
   (0x502C, .fabDrop, .v)]

/-- R535. -/
def regs535 : List (Nat × Reg × RegDom) :=
  [(0x6000, .glbMemCap, .m),
   (0x6004, .glbMemFw, .m),
   (0x6008, .glbMemLend, .m),
   (0x600C, .glbMemLendUse, .m),
   (0x6010, .glbMemMig, .m),
   (0x6014, .glbScrub, .m),
   (0x6018, .glbTmuSel, .m),
   (0x601C, .glbTmuUseT2, .m),
   (0x6020, .glbTmuUseT3, .m),
   (0x6024, .glbTmuUseT4, .m),
   (0x6028, .glbTmuUseSh, .m),
   (0x602C, .glbTmuFaults, .m),
   (0x7000, .glbCtxSel, .m),
   (0x7004, .glbCtxStat, .m),
   (0x7008, .glbCtxTenantLo, .m),
   (0x700C, .glbCtxTenantHi, .m),
   (0x7010, .glbCtxOut, .m),
   (0x7014, .glbGscSel, .m),
   (0x7018, .glbGscShare, .m),
   (0x701C, .glbGscDebt, .m),
   (0x7020, .glbGscOverrun, .m),
   (0x7024, .glbGscKills, .m),
   (0x7028, .glbGscLost, .m),
   (0x702C, .glbGscPre, .m),
   (0x7030, .glbGscDefer, .m),
   (0x7034, .glbJobSel, .m),
   (0x7038, .glbPvCtl, .m),
   (0x703C, .glbPvStep, .m),
   (0x7040, .glbPvEpoch, .m),
   (0x7044, .glbJobEpoch, .m),
   (0x7048, .glbPvLstep, .m),
   (0x704C, .glbPvLepoch, .m),
   (0x7050, .glbPvSkew, .m)]

/-- R536. -/
def regs536 : List (Nat × Reg × RegDom) :=
  [(0x8000, .glbSteSel, .m),
   (0x8004, .glbSteWaste, .m),
   (0x8008, .glbSteCancel, .m),
   (0x800C, .glbSteMiss, .m),
   (0x8010, .glbSteStarve, .m),
   (0x8014, .glbSteFault, .m),
   (0x8018, .glbDmaSel, .m),
   (0x801C, .glbDmaStat, .m),
   (0x8020, .glbDmaBytes, .m),
   (0x8024, .glbDmaLevel, .m),
   (0x8028, .glbDmaHolds, .m),
   (0x802C, .glbCleActive, .m),
   (0x8030, .glbCleTx, .m),
   (0x8034, .glbCleRx, .m),
   (0x8038, .glbCleDup, .m),
   (0x803C, .glbCleAbort, .m),
   (0x8040, .glbCleWait, .m),
   (0x9000, .vltLayout, .m),
   (0x9004, .vltSel, .m),
   (0x9008, .vltWearUsed, .m),
   (0x900C, .vltWearSpare, .m),
   (0x9010, .vltWriteDay, .m),
   (0x9014, .vltCe, .m),
   (0x9018, .vltUe, .m),
   (0x901C, .vltStat, .m),
   (0xA000, .mirSel, .m),
   (0xA004, .mirStat, .m),
   (0xA008, .mirSeal, .m),
   (0xA00C, .mirSyncBytes, .m),
   (0xA010, .mirSyncTime, .m),
   (0xA014, .mirCtl, .m)]

/-- R537. -/
def regs537 : List (Nat × Reg × RegDom) :=
  [(0xB000, .errCfg, .ao),
   (0xB004, .errCfgCnt, .ao),
   (0xB008, .errNanSel, .m),
   (0xB00C, .errNanRec0, .m),
   (0xB010, .errNanRec1, .m),
   (0xB014, .errNanRec2, .m),
   (0xB018, .errNanRec3, .m),
   (0xB01C, .errGenDrop, .m),
   (0xB020, .errMemSel, .m),
   (0xB024, .errMemCe, .m),
   (0xB028, .errMemUe, .m),
   (0xB02C, .errMemStat, .m),
   (0xB030, .errResSel, .m),
   (0xB034, .errRes, .m),
   (0xB038, .errMismatch, .m),
   (0xB03C, .errHangLast, .m),
   (0xB040, .errHangSeq, .m),
   (0xB044, .errHangCnt, .m),
   (0xB048, .errRstSel, .m),
   (0xB04C, .errRstCnt, .m),
   (0xB050, .errWdogCtl, .m),
   (0xB054, .errEmberStat, .ao),
   (0xB058, .errEvtCfg, .m),
   (0xB05C, .errEvtBaseLo, .m),
   (0xB060, .errEvtBaseHi, .m),
   (0xB064, .errEvtProd, .m),
   (0xB068, .errEvtCons, .m),
   (0xB06C, .errTbSel, .m),
   (0xB070, .errTbCfg, .m),
   (0xB074, .errSupp, .m),
   (0xB078, .errIncident, .ao),
   (0xB07C, .errInjCtl, .m),
   (0xC000, .snsPwr, .ao),
   (0xC004, .snsClk, .ao),
   (0xC008, .snsSel, .ao),
   (0xC00C, .snsVal, .ao),
   (0xC010, .snsStat, .ao),
   (0xC014, .snsMax, .ao),
   (0xD000, .glbFeSel, .m),
   (0xD004, .glbFeStat, .m),
   (0xD008, .glbFeIp0, .m),
   (0xD00C, .glbFeIp1, .m),
   (0xD010, .glbFeIp2, .m),
   (0xD014, .glbFeIp3, .m),
   (0xD018, .glbFeGw0, .m),
   (0xD01C, .glbFeGw1, .m),
   (0xD020, .glbFeGw2, .m),
   (0xD024, .glbFeGw3, .m),
   (0xD028, .glbFeRxDrop, .m),
   (0xD02C, .glbFeSecDrop, .m),
   (0xD030, .glbFeTxDrop, .m),
   (0xD040, .glbPcieStat, .v),
   (0xD044, .glbPcieErr, .v)]

/-- Every register below the doorbells. -/
def regTable : List (Nat × Reg × RegDom) := regs533 ++ regs534 ++ regs535 ++ regs536 ++ regs537

/-- The register at a BAR0 offset, with its domain; none for a reserved offset. -/
def regAt (off : Nat) : Option (Reg × RegDom) :=
  if 0x100000 ≤ off then
    (if off < 0x140000 ∧ off % 4096 = 0 then some (.cmdqDb (Fin.ofNat 64 (off / 4096 - 256)), .v) else none)
  else (regTable.find? fun e => e.1 == off).map (·.2)

/-- BAR0 offset of a register. -/
def Reg.off (r : Reg) : Nat :=
  match r with
  | .cmdqDb n => 0x100000 + 4096 * n.val
  | _ => ((regTable.find? fun e => e.2.1 == r).map (·.1)).getD 0

end Sys2Proof.Machine
end

