-- ==== Sys2Proof/Machine/RegRead.lean ====
section
/-! DEFINITION. Reading registers: reachability, banks, and the value of every register (R5, R7, R527-R531, R533-R543). -/
namespace Sys2Proof.Machine

/-! ### OTP editions (R463, R464) -/

/-- One step of the CRC-32 of R464 over a bit, remainder most significant bit first. -/
def crcBit (r : W32) (b : Bool) : W32 := if r.msb != b then (r <<< 1) ^^^ 0x04C11DB7 else r <<< 1

/-- Bits of a byte in the order the CRC takes them. -/
def crcBits (b : Byte) : List Bool :=
  if Config.crcReflect then (List.range 8).map fun k => b.getLsbD k else (List.range 8).map fun k => b.getMsbD k

/-- CRC-32 with polynomial 0x04C1_1DB7 (R464). -/
def crc32 (bs : List Byte) : W32 :=
  let r := (bs.flatMap crcBits).foldl crcBit Config.crcInit
  (if Config.crcReflect then r.reverse else r) ^^^ Config.crcXor

/-- Reserved bytes of an edition (R464). -/
def otpReserved (b : List Byte) : List Byte := sliceOf b 0x03 1 ++ sliceOf b 0x07 1 ++ sliceOf b 0x7D 3 ++ sliceOf b 0xBC 60 ++ sliceOf b 0xFD 3

/-- An edition is valid (R463, R464). -/
def otpValid (k : Fin 4) (b : List Byte) : Bool :=
  decide (leAt b 0 2 = 0x5A4F) && decide (leAt b 2 1 = k.val) && decide (leAt b 0xF8 4 = (crc32 (b.take 0xF8)).toNat) && decide (leAt b 0xFC 1 = 0) &&
    (otpReserved b).all (· == 0) && !modeReserved (leAt b 0xB0 2) && decide (bitsOf (leAt b 0xB3 1) 7 2 = 0) &&
    decide (leAt b 0xB0 2 % 2 ^ 14 = leAt b 0xB0 2) && decide (bitsOf (leAt b 0xB0 2) 11 10 = 0) && decide (bitsOf (leAt b 0xB0 2) 7 6 = 0) &&
    decide (bitsOf (leAt b 0xB0 2) 3 2 = 0)

/-- The highest-numbered valid edition. -/
def Boot.bestEdition (b : Boot) : Option (Fin 4) :=
  ([3, 2, 1, 0] : List (Fin 4)).find? fun k => (b.otp[k]).any (otpValid k)

/-- A field of the active edition; 0 before one is active. -/
def State.otpField (s : State) (off n : Nat) : Nat :=
  match s.boot.active.bind fun e => s.boot.otp[e] with
  | some b => leAt b off n
  | none => 0

/-- LOCKS of the active edition: JTAG_LOCK, INJECT_LOCK (R464). -/
def State.jtagLock (s : State) : Bool := bitOf (s.otpField 0xB3 1) 0
def State.injectLock (s : State) : Bool := bitOf (s.otpField 0xB3 1) 1

/-! ### Reachability and banks (R527, R528, R530) -/

/-- A path reaches a register (R527, R528). -/
def State.reaches (s : State) (p : Path) (off : Nat) (d : RegDom) : Bool :=
  s.boot.run != .off &&
    (match p with
     | .host => true
     | .mgt => decide (off < 0x100000)
     | .fw _ => s.mainUp) &&
    (d != .m || s.mainUp)

def State.bank (s : State) : Path → RegBank
  | .host => s.hostBank
  | .mgt => s.mgtBank
  | .fw k => s.fwBanks[k]

def State.modBank (s : State) (p : Path) (f : RegBank → RegBank) : State :=
  match p with
  | .host => { s with hostBank := f s.hostBank }
  | .mgt => { s with mgtBank := f s.mgtBank }
  | .fw k => { s with fwBanks := vmod s.fwBanks k f }

/-- Reset value of a selector: ERR_RES_SEL is 1 (R427), the others 0. -/
def selReset (r : Reg) : W32 := if r = .errResSel then 1 else 0

/-- Value of a selector in a path's bank. -/
def State.sel (s : State) (p : Path) (r : Reg) : Nat := (assocD (s.bank p).sel r.off (selReset r)).toNat

def State.selCtx (s : State) (p : Path) (r : Reg) : CtxId := Fin.ofNat 64 (s.sel p r)
def State.selRing (s : State) (p : Path) : RingId := Fin.ofNat 65 (s.sel p .cmdqSel % 64)
def State.selLink (s : State) (p : Path) : LinkId := Fin.ofNat 14 (s.sel p .fabSel)
def State.selChan (s : State) (p : Path) : ChanId := Fin.ofNat 32 (s.sel p .glbDmaSel)
/-- Stack that ERR_MEM_SEL selects; none for 24-31. -/
def State.selStack (s : State) (p : Path) : Option StackId :=
  if h : s.sel p .errMemSel < 24 then some ⟨s.sel p .errMemSel, h⟩ else none
def State.selPort (s : State) (p : Path) : Fin 2 := Fin.ofNat 2 (s.sel p .glbFeSel)
def State.selArray (s : State) (p : Path) : Fin 2 := Fin.ofNat 2 (s.sel p .vltSel)

/-- Path and class that ERR_TB_SEL selects; none for MGT TRACE and the reserved paths (R458). -/
def State.selBucket (s : State) (p : Path) : Option (Nat × EvClass) :=
  let v := s.sel p .errTbSel
  let c := classOf (Fin.ofNat 4 v)
  if v / 4 = 0 ∧ c ≠ .trace then some (0, c) else if v / 4 = 1 then some (1, c) else none

/-- The bucket of a path and class. -/
def Ras.bucket (a : Ras) (x : Nat × EvClass) : Bucket := if x.1 = 0 then a.mgtBuckets[x.2.mgtIdx] else a.hostBuckets[x.2.code]

/-! ### Codes -/

def StartPhase.code : StartPhase → Nat
  | .power => 0
  | .root => 1
  | .firmware => 2
  | .mainPower => 3
  | .almanac => 4
  | .archive => 5
  | .bist => 6
  | .hbm => 7
  | .sliceMap => 8
  | .vault => 9
  | .links => 10
  | .done => 11

/-- GLB_BOOT_STAT.PHASE (R477). -/
def RunState.phase : RunState → Nat
  | .starting p => p.code
  | .running => 11
  | .vigil => 15
  | .off => 0
  | .held => 0
  | .waiting => 0

def LinkState.code : LinkState → Nat
  | .down => 0
  | .train => 1
  | .auth => 2
  | .align => 3
  | .up => 4
  | .reconfig => 5
  | .failed => 6
  | .disabled => 7

def HbState.code : HbState → Nat
  | .starting => 0
  | .spare => 1
  | .active => 2
  | .vigil => 3

def TickState.code : TickState → Nat
  | .free => 0
  | .aligning => 1
  | .locked => 2
  | .holdover => 3
  | .master => 4

def RingState.code : RingState → Nat
  | .disabled => 0
  | .running => 1
  | .error => 2
  | .closing => 3

def DmaState.code : DmaState → Nat
  | .idle => 0
  | .armed => 1
  | .active => 2
  | .held => 3
  | .faulted => 4
  | .flushing => 5
  | .ending => 6
  | .cancelling => 7

def MirState.code : MirState → Nat
  | .none => 0
  | .paired => 1
  | .syncing => 2
  | .sealed => 3
  | .restoring => 4
  | .intercalating => 5

def CfgKind.code : CfgKind → Nat
  | .encoding => 0
  | .locked => 1
  | .path => 2
  | .state => 3

def CfgPath.code : CfgPath → Nat
  | .host => 0
  | .mgt => 1
  | .fw => 2
  | .device => 3

/-! ### Values of single registers -/

/-- Failed starts within the last 600 s (R470). -/
def Boot.recentFails (b : Boot) : Nat := (b.fails.filter fun f => decide (b.seconds < f.1 + 600)).length

def State.bootStat (s : State) : Nat :=
  s.boot.run.phase * 2 ^ 28 + bitAt s.boot.bank 27 + bitAt s.boot.switched 26 + min 3 s.boot.recentFails * 2 ^ 24 + s.boot.hb.val * 2 ^ 22 +
    s.boot.reason.toNat

/-- OTP has been read in this start. -/
def State.otpRead (s : State) : Bool := s.boot.run != .off && s.boot.run != .starting .power && s.boot.run != .starting .root

def State.otpStat (s : State) : Nat :=
  let bit (f : Fin 4 → Bool) : Nat := (List.finRange 4).foldl (fun n k => n + bitAt (f k) k.val) 0
  if !s.otpRead then 0xF * 2 ^ 28
  else (s.boot.active.elim 0xF (·.val)) * 2 ^ 28 + bit (fun k => (s.boot.otp[k]).any (otpValid k)) * 2 ^ 24 +
    bit (fun k => (s.boot.otp[k]).isSome) * 2 ^ 20 + bitsOf (s.otpField 0xB3 1) 1 0 * 2 ^ 18

/-- OTP_DATA (R539); an edition never programmed reads 0. -/
def State.otpData (s : State) (p : Path) : Nat :=
  let v := s.sel p .otpSel
  ((s.boot.otp[(Fin.ofNat 4 (v / 64))]).map fun b => leAt b (4 * (v % 64)) 4).getD 0

/-- ENABLE reads as last written: it is 1 while the ring runs or stands in ERROR (R268). -/
def Ring.enabled (x : Ring) : Bool := x.state == .running || x.state == .error

def Ring.cfg (x : Ring) : Nat := bitAt x.enabled 31 + bitAt x.admin 30 + bitAt x.core 29 + x.log2sz
def Ring.stat (x : Ring) : Nat := x.state.code * 2 ^ 30 + x.err * 2 ^ 26 + x.server.val * 2 ^ 22

def Tick.ctl (t : Tick) : Nat := bitAt t.lock 31 + t.prio.toNat * 2 ^ 8 + t.tcalNext
def Tick.coll (t : Tick) : Nat := t.collLen1 * 2 ^ 21 + t.collStart1 * 2 ^ 17 + t.collLen0 * 2 ^ 12 + t.collStart0 * 2 ^ 8
def Tick.stat (t : Tick) : Nat := t.state.code * 2 ^ 28 + t.parent.val * 2 ^ 24 + t.stratum % 256 * 2 ^ 16 + t.tcal

def Fabric.dims (f : Fabric) : Nat := bitAt f.dimsLock 31 + f.dz * 2 ^ 10 + f.dy * 2 ^ 5 + f.dx
def Fabric.adoptReg (f : Fabric) : Nat :=
  f.adoptOwn.val * 2 ^ 28 + (List.finRange 6).foldl (fun n k => n + (f.adopt[k]).val * 2 ^ (24 - 4 * k.val)) 0

def Link.stat (k : Link) : Nat :=
  k.state.code * 2 ^ 28 + min 3 k.misses * 2 ^ 26 + k.nstate.code * 2 ^ 24 + k.lanes * 2 ^ 19 + k.laneOk.toNat

def State.ctxStat (s : State) (c : CtxId) : Nat :=
  let x := s.ctx c
  x.state.code * 2 ^ 29 + bitAt x.forced 28 + x.quar * 2 ^ 16 + x.gen.toNat * 2 ^ 8 + (if c = 0 then 15 else x.classes.toNat) * 2 ^ 4

def Ctx.debtReg (x : Ctx) : Nat := (List.finRange 4).foldl (fun n k => n + min 255 (x.debt[k]) * 2 ^ (8 * k.val)) 0

def State.dmaStat (s : State) (k : ChanId) : Nat :=
  let x := s.chan k
  let done := match s.cmd? x.cid with
    | some c => (x.doneDescs c.kb.descs).length
    | none => 0
  x.state.code * 2 ^ 28 + (if x.state = .idle then 0 else x.ctx.val) * 2 ^ 22 + x.pri.val * 2 ^ 19 + bitAt x.fixed 18 + x.pace * 2 ^ 16 + min 65535 done

/-- WGT_LOAD and KEEL commands in progress. -/
def State.vltLoads (s : State) : Nat :=
  (s.sched.cmds.filter fun c => c.state == .issued && (match c.op with
    | .wgtLoad .. | .keelWrite .. | .keelRead .. | .keelDrop _ => true
    | _ => false)).length

/-- Weight pages VLT has to recover (R234): lost or poisoned pages of READY and RETIRING slots. -/
def State.recovering (s : State) : Nat :=
  (s.memUnit.pages.filter fun p => (p.poison || p.lost) && (s.slotAt? p.ctx p.va).isSome).length

def State.vltStat (s : State) : Nat :=
  bitAt s.vault.throttled 31 + min 255 s.recovering * 2 ^ 16 + min 255 s.vltLoads * 2 ^ 8 +
    ((s.vault.images.toList.filter fun i => i.state == .ready).length) % 256

def Vault.layout (v : Vault) : Nat := bitAt v.layoutLock 31 + v.keelGib * 2 ^ 13 + v.imageGib

def Mir.stat (m : Mir) : Nat :=
  m.state.code * 2 ^ 28 + bitAt m.prot 27 + m.guardSeal.val * 2 ^ 24 + m.gsize % 16 * 2 ^ 20 + m.gpos % 16 * 2 ^ 16 + m.partner.toNat

def CfgErr.reg (e : CfgErr) : Nat := bitAt e.valid 31 + bitAt e.more 30 + e.kind.code * 2 ^ 28 + e.path.code * 2 ^ 26 + e.offset.toNat

def NanRec.reg0 (n : NanRec) : Nat :=
  bitAt n.valid 31 + bitAt n.more 30 + n.format.val * 2 ^ 26 + n.cause.val * 2 ^ 20 + n.tag.toNat * 2 ^ 10 + n.source.toNat % 128

def State.memStat (s : State) (k : StackId) : Nat :=
  let x := s.memUnit.hbm[k]
  bitAt x.out 31 + x.reserve * 2 ^ 16 + min 65535 x.retired

/-- ERR_RES of a kind 1-7 (R426, R427). -/
def State.resReg (s : State) (kind : Nat) : Nat :=
  if h : 1 ≤ kind ∧ kind ≤ 7 then
    min 65535 (s.ras.resUsed[kind - 1]'(by omega)) * 2 ^ 16 + min 65535 (s.ras.resLeft[kind - 1]'(by omega))
  else 0

def Ras.hangLast (a : Ras) : Nat :=
  a.hangDomain.val * 2 ^ 28 + a.hangTrigger.toNat % 16 * 2 ^ 24 + bitAt a.hangValid 23 + a.hangCtx.val * 2 ^ 16 + a.hangUnit.toNat

def Ras.emberStat (a : Ras) : Nat :=
  bitAt a.capSlots[(0 : Fin 2)].isSome 31 + bitAt (a.capSlots[(0 : Fin 2)].any (·.copied)) 30 + bitAt a.capSlots[(1 : Fin 2)].isSome 29 +
    bitAt (a.capSlots[(1 : Fin 2)].any (·.copied)) 28 + a.ringCount % 65536

def Ras.evtCfg (a : Ras) : Nat := bitAt a.evtEnable 31 + bitAt a.evtCore 30 + a.evtLog2

/-- ERR_TB_CFG of a selection (R458). -/
def State.tbCfg (s : State) (p : Path) : Nat :=
  bitAt s.ras.tbLock 31 + (match s.selBucket p with
    | some x => (s.ras.bucket x).rate * 2 ^ 16 + (s.ras.bucket x).burst
    | none => 0)

/-- A sensor of R519 that lowers the clock stands in its THROTTLE band: a hotspot, a base tile, a stack or the converter. -/
def State.thermal (s : State) : Bool :=
  ((List.range 8).map (0x10 + ·) ++ (List.range 4).map (0x18 + ·) ++ (List.range 24).map (0x20 + ·) ++ [0x3A]).any s.throttled

/-- SNS_CLK (R525): the limits that hold the clock below that of the mode. -/
def State.snsClk (s : State) : Nat :=
  let l := s.powerLimit
  let low := decide (s.power.mhz < modeMhz s.mode.powerNow.val)
  bitAt (low && decide (l = modeWatts s.mode.powerNow.val)) 16 + bitAt (low && decide (s.power.capWatts ≠ 0) && decide (l = s.power.capWatts)) 17 +
    bitAt (low && decide (s.power.shelf ≠ 0) && decide (l = s.power.shelf)) 18 +
    bitAt (low && (s.thermal || s.throttled 0 || s.throttled 2)) 19 + s.power.mhz

def Port.stat (x : Port) : Nat := bitAt x.link 31 + bitAt x.secure 30 + bitAt x.suite 28 + x.window.toNat

def Pcie.stat (x : Pcie) : Nat := bitAt x.up 31 + x.gen.val * 2 ^ 28 + x.width.val * 2 ^ 23 + bitAt x.flit 22

/-! ### RC fields (R5, R530) -/

/-- Instance of an RC field that a path's selectors name; none for a register without one. -/
def State.rcKey (s : State) (p : Path) (r : Reg) : Option Nat :=
  match r with
  | .fabFecCe | .fabFecUe | .fabReplay | .fabDrop => some (s.selLink p).val
  | .glbTmuFaults => some (s.selCtx p .glbTmuSel).val
  | .glbGscOverrun | .glbGscKills | .glbGscLost => some (s.selCtx p .glbGscSel).val
  | .glbGscDefer => some 0
  | .glbPvSkew => some (s.selCtx p .glbJobSel).val
  | .glbSteWaste | .glbSteCancel | .glbSteMiss | .glbSteStarve | .glbSteFault => some (s.sel p .glbSteSel % 64)
  | .glbDmaHolds => some (s.selChan p).val
  | .glbCleTx | .glbCleRx | .glbCleDup | .glbCleAbort | .glbCleWait => some 0
  | .vltCe | .vltUe => some (s.selArray p).val
  | .mirSyncBytes => some (s.selCtx p .mirSel).val
  | .errCfgCnt => some 0
  | .errGenDrop => some (s.selCtx p .glbCtxSel).val
  | .errMemCe | .errMemUe => (s.selStack p).map (·.val)
  | .errMismatch => some 0
  | .errHangCnt => some 0
  | .errRstCnt => some (s.sel p .errRstSel % 8)
  | .errSupp => (s.selBucket p).map fun x => suppKey x.1 x.2
  | .snsMax => some (s.sel p .snsSel)
  | .glbFeRxDrop | .glbFeSecDrop | .glbFeTxDrop => some (s.selPort p).val
  | .glbPcieErr => some 0
  | _ => none

/-- What an RC field shows in a path's bank. -/
def State.rcValue (s : State) (p : Path) (r : Reg) : Nat :=
  match s.rcKey p r with
  | some k => (s.bank p).count r.off k / rcUnit r.off
  | none => 0

/-- The count of an RC field in a path's bank is 0 from here on. -/
def State.rcClear (s : State) (p : Path) (r : Reg) : State :=
  match s.rcKey p r with
  | some k => s.modBank p fun b => { b with rc := assocDrop b.rc (r.off, k) }
  | none => s

/-! ### The value of a register -/

/-- What a read of a register through a path returns; the WO registers return 0. -/
def State.regValue (s : State) (p : Path) (r : Reg) : Nat :=
  let ring := s.ring (s.selRing p)
  let link := s.link (s.selLink p)
  let gsc := s.ctx (s.selCtx p .glbGscSel)
  let tmu := s.selCtx p .glbTmuSel
  let cs := s.selCtx p .glbCtxSel
  let pv := s.pv (s.selCtx p .glbJobSel)
  let mir := s.mirOf (s.selCtx p .mirSel)
  let nan := (s.ctx (s.selCtx p .errNanSel)).nan
  let port := s.serve.ports[s.selPort p]
  let chan := s.chan (s.selChan p)
  let arr := s.vault.arrays[s.selArray p]
  let sns := s.sel p .snsSel
  match r with
  | .glbId => s.otpField 4 2 * 2 ^ 16 + s.otpField 6 1 * 2 ^ 8 + 0x90
  | .glbBootStat => s.bootStat
  | .glbBootTime => if s.boot.run = .running then s.boot.bootMs.toNat else 0
  | .glbIncarn => s.boot.incarn.toNat
  | .glbVigilCtl => 0
  | .modeCtl => s.mode.ctl
  | .modeStat => s.mode.stat
  | .modeCap => bitAt s.power.capLock 31 + s.power.capWatts
  | .otpStat => s.otpStat
  | .otpSerialLo => s.otpField 8 4
  | .otpSerialHi => s.otpField 12 4
  | .otpSvn => s.otpField 0x70 4
  | .otpSel => s.sel p .otpSel
  | .otpData => s.otpData p
  | .cmdqSel => s.sel p .cmdqSel
  | .cmdqCfg => ring.cfg
  | .cmdqCtxmLo => ring.mask.toNat % 2 ^ 32
  | .cmdqCtxmHi => ring.mask.toNat / 2 ^ 32
  | .cmdqBaseLo => ring.base.toNat % 2 ^ 32
  | .cmdqBaseHi => ring.base.toNat / 2 ^ 32
  | .cmdqCplLo => ring.cpl.toNat % 2 ^ 32
  | .cmdqCplHi => ring.cpl.toNat / 2 ^ 32
  | .cmdqStat => ring.stat
  | .cmdqHead => ring.head.toNat
  | .cmdqTail => ring.tail.toNat
  | .cmdqCplTail => ring.cplTail.toNat
  | .cmdqCplHead => ring.cplHead.toNat
  | .cmdqDmaKick => 0
  | .tickCtl => s.tick.ctl
  | .tickAt => s.tick.tickAt.toNat
  | .tickColl => s.tick.coll
  | .tickNow => s.tick32.toNat
  | .tickStat => s.tick.stat
  | .tickOffset => s.tick.offset.toNat
  | .tickGm => s.tick.gmPrio.toNat * 2 ^ 24 + s.tick.gmIdent.toNat
  | .tickTimeLo => s.tick.time.toNat % 2 ^ 32
  | .tickTimeHi => (s.bank p).latch.toNat
  | .fabIdent => s.fab.pslot.val * 2 ^ 16 + s.fab.ident.toNat
  | .fabDims => s.fab.dims
  | .fabAdopt => s.fab.adoptReg
  | .fabLinkCtl => bitAt s.fab.ctlLock 31 + s.fab.disable.toNat
  | .fabSel => s.sel p .fabSel
  | .fabLinkStat => link.stat
  | .fabNbr => link.nbrSlot.val * 2 ^ 28 + link.nbrIdent.toNat
  | .fabNbrInc => link.nbrInc.toNat
  | .glbMemCap => s.memUnit.cap % 2 ^ 20
  | .glbMemFw => s.fwFrames % 2 ^ 20
  | .glbMemLend => bitAt s.memUnit.lendLock 31 + s.memUnit.lendPages
  | .glbMemLendUse => s.lentFrames % 2 ^ 20
  | .glbMemMig => s.memUnit.migRate.toNat
  | .glbScrub => s.memUnit.scrub % 2 ^ 20
  | .glbTmuSel => s.sel p .glbTmuSel
  | .glbTmuUseT2 => s.useT2 tmu
  | .glbTmuUseT3 => s.useT3 tmu
  | .glbTmuUseT4 => s.useT4 tmu
  | .glbTmuUseSh => ceilDiv ((s.ctx tmu).shUse + s.heldUnits tmu) 32
  | .glbCtxSel => s.sel p .glbCtxSel
  | .glbCtxStat => s.ctxStat cs
  | .glbCtxTenantLo => (s.ctx cs).tenant.toNat % 2 ^ 32
  | .glbCtxTenantHi => (s.ctx cs).tenant.toNat / 2 ^ 32
  | .glbCtxOut => sat32 (s.ctxOut cs)
  | .glbGscSel => s.sel p .glbGscSel
  | .glbGscShare => gsc.share
  | .glbGscDebt => gsc.debtReg
  | .glbGscPre => bitAt s.sched.preLock 31 + s.sched.protectK * 2 ^ 20 + s.sched.liveMax * 2 ^ 15 + s.sched.preWait
  | .glbJobSel => s.sel p .glbJobSel
  | .glbPvCtl => bitAt pv.check 31 + bitAt pv.lvalid 30
  | .glbPvStep => pv.step.toNat
  | .glbPvEpoch => pv.epoch.toNat
  | .glbJobEpoch => pv.mepoch.toNat
  | .glbPvLstep => pv.lstep.toNat
  | .glbPvLepoch => pv.lepoch.toNat
  | .glbSteSel => s.sel p .glbSteSel
  | .glbDmaSel => s.sel p .glbDmaSel
  | .glbDmaStat => s.dmaStat (s.selChan p)
  | .glbDmaBytes => sat32 (chan.bytes / 4096)
  | .glbDmaLevel => sat32 (chan.level / 4096)
  | .glbCleActive => min 65535 s.cle.colls.length
  | .vltLayout => s.vault.layout
  | .vltSel => s.sel p .vltSel
  | .vltWearUsed => min 65535 arr.wearUsed
  | .vltWearSpare => arr.spare % 2 ^ 17
  | .vltWriteDay => sat32 (s.vault.writeDay / 2 ^ 30)
  | .vltStat => s.vltStat
  | .mirSel => s.sel p .mirSel
  | .mirStat => mir.stat + bitAt (s.retains (s.selCtx p .mirSel)) 26
  | .mirSeal => mir.sealStep.toNat
  | .mirSyncTime => mir.syncUs.toNat
  | .mirCtl => bitAt s.mir.lock 31 + s.mir.sentPeriod * 2 ^ 16 + s.mir.settleMs
  | .errCfg => s.cfgErr.reg
  | .errNanSel => s.sel p .errNanSel
  | .errNanRec0 => nan.reg0
  | .errNanRec1 => nan.tid.toNat
  | .errNanRec2 => nan.idx.toNat % 2 ^ 32
  | .errNanRec3 => nan.idx.toNat / 2 ^ 32
  | .errMemSel => s.sel p .errMemSel
  | .errMemStat => (s.selStack p).elim 0 s.memStat
  | .errResSel => s.sel p .errResSel
  | .errRes => s.resReg (s.sel p .errResSel)
  | .errHangLast => s.ras.hangLast
  | .errHangSeq => s.ras.hangSeq.toNat
  | .errRstSel => s.sel p .errRstSel
  | .errWdogCtl => bitAt s.ras.wdogLock 31 + s.ras.wdogDisable.toNat
  | .errEmberStat => s.ras.emberStat
  | .errEvtCfg => s.ras.evtCfg
  | .errEvtBaseLo => s.ras.evtBase.toNat % 2 ^ 32
  | .errEvtBaseHi => s.ras.evtBase.toNat / 2 ^ 32
  | .errEvtProd => s.ras.evtProd.toNat
  | .errEvtCons => s.ras.evtCons.toNat
  | .errTbSel => s.sel p .errTbSel
  | .errTbCfg => s.tbCfg p
  | .errIncident => min 65535 s.ras.incidents.length * 2 ^ 16 + min 65535 s.ras.alarmQ.length
  | .errInjCtl => bitAt s.ras.injLock 31 + bitAt (s.ras.injEnable && !s.injectLock) 0
  | .snsPwr => s.powerLimit * 2 ^ 16 + min 65535 s.power.avg
  | .snsClk => s.snsClk
  | .snsSel => sns
  | .snsVal => (s.sensor sns).1.toNat
  | .snsStat => (s.sensor sns).2.code * 2 ^ 29
  | .glbFeSel => s.sel p .glbFeSel
  | .glbFeStat => port.stat
  | .glbFeIp0 => port.ip.toNat % 2 ^ 32
  | .glbFeIp1 => bitsOf port.ip.toNat 63 32
  | .glbFeIp2 => bitsOf port.ip.toNat 95 64
  | .glbFeIp3 => bitsOf port.ip.toNat 127 96
  | .glbFeGw0 => port.gw.toNat % 2 ^ 32
  | .glbFeGw1 => bitsOf port.gw.toNat 63 32
  | .glbFeGw2 => bitsOf port.gw.toNat 95 64
  | .glbFeGw3 => bitsOf port.gw.toNat 127 96
  | .glbPcieStat => s.pcie.stat
  | .cmdqDb _ => 0
  | .fabFecCe | .fabFecUe | .fabReplay | .fabDrop | .glbTmuFaults | .glbGscOverrun | .glbGscKills | .glbGscLost | .glbGscDefer | .glbPvSkew
  | .glbSteWaste | .glbSteCancel | .glbSteMiss | .glbSteStarve | .glbSteFault | .glbDmaHolds | .glbCleTx | .glbCleRx | .glbCleDup | .glbCleAbort
  | .glbCleWait | .vltCe | .vltUe | .mirSyncBytes | .errCfgCnt | .errGenDrop | .errMemCe | .errMemUe | .errMismatch | .errHangCnt | .errRstCnt
  | .errSupp | .snsMax | .glbFeRxDrop | .glbFeSecDrop | .glbFeTxDrop | .glbPcieErr => s.rcValue p r

/-- A read of an offset: the value, and the state after it. An RC field is cleared in the reader's bank; TICK_TIME_LO latches
the high half. A register that cannot be reached, or a reserved offset, reads 0 (R7, R528). -/
def State.readAt (s : State) (p : Path) (off : Nat) : Nat × State :=
  match regAt off with
  | none => (0, s)
  | some (r, d) =>
    if !s.reaches p off d then (0, s)
    else
      let v := s.regValue p r
      if r = .tickTimeLo then (v, s.modBank p fun b => { b with latch := BitVec.ofNat 32 (s.tick.time.toNat / 2 ^ 32) })
      else (v, s.rcClear p r)

end Sys2Proof.Machine
end

