-- ==== Sys2Proof/Machine/Startup.lean ====
section
/-! DEFINITION. Starts, failed starts, vigil, device reset and loss of power (R13-R15, R218, R244, R460-R474, R478, R512-R514,
R523, R528, R543). -/
namespace Sys2Proof.Machine

/-! ### What a reset leaves (R218, R341, R443, R455, R460, R528) -/

/-- A bank after a device reset: the selectors and counts of AO registers stay. -/
def RegBank.keepAo (b : RegBank) : RegBank :=
  let ao (off : Nat) : Bool := (regAt off).any fun x => x.2 == .ao
  { sel := b.sel.filter fun e => ao e.1, rc := b.rc.filter fun e => ao e.1.1 }

/-- The vault after a device reset: what the arrays hold stays, every register of it returns to its reset value. -/
def Vault.kept (v : Vault) : Vault :=
  { vaultReset v.small with keelNow := v.keelNow, imageNow := v.imageNow, layoutPend := v.layoutPend, arrays := v.arrays, images := v.images,
                            keys := v.keys, keels := v.keels }

/-- RAS after a device reset: the ember log, the archive, the ledger, the ALARM queue and open incidents stay, and which
slots the ledger has retired. -/
def Ras.kept (a : Ras) : Ras :=
  { ({} : Ras) with
    capSlots := a.capSlots, domRing := a.domRing, ringCount := a.ringCount, devArchive := a.devArchive, domArchive := a.domArchive,
    summaries := a.summaries, incidents := a.incidents, nextIncident := a.nextIncident, alarmQ := a.alarmQ, fabOut := a.fabOut,
    ledger := a.ledger }

/-- HBM after a device reset: which frames and stacks the ledger has retired. -/
def MemUnit.kept (m : MemUnit) : MemUnit :=
  { ({} : MemUnit) with
    retiredFrames := m.retiredFrames
    hbm := m.hbm.map fun (x : Stack) => { out := x.out, reserve := x.reserve, retired := x.retired } }

/-- Cells of host memory: they are not the module's, and stay. -/
def hostCells (m : List Host.Cell) : List Host.Cell := m.filter fun c => decide (hostKey 0 ≤ c.1) && decide (c.1 < fwKey 0)

/-- The module as a device reset leaves it: V and M registers at their reset values, AO registers and what is held in the
always-on store, in the ember SRAM, in the vault and in OTP as before; every lock is open (R6). -/
def State.clearMain (s : State) : State :=
  { State.reset with
    mem := hostCells s.mem, memUnit := s.memUnit.kept, vault := s.vault.kept, ras := s.ras.kept
    boot := { s.boot with hb := 0, bootMs := 0, switched := false, bank := false, active := none, written := false }
    power := { s.power with capLock := false, mhz := 0, refresh2 := 0, mainOn := false }
    mgt := s.mgt, cfgErr := s.cfgErr, hostBank := s.hostBank.keepAo, mgtBank := s.mgtBank.keepAo, free := s.free, pending := s.pending }

/-- The module without input power: of the rest only what is non-volatile stays, and the pins as they stand. -/
def State.powerOff (s : State) : State :=
  let s := s.clearMain
  { s with
    ras := { ({} : Ras) with devArchive := s.ras.devArchive, domArchive := s.ras.domArchive, summaries := s.ras.summaries, ledger := s.ras.ledger }
    boot := { s.boot with run := .off, almanac := [], reason := (s.boot.fails.head?).elim 0 (·.2) }
    power := {}, mgt := { ({} : Mgt) with hardReset := s.mgt.hardReset, jtagHold := s.mgt.jtagHold }
    cfgErr := {}, hostBank := {}, mgtBank := {} }

/-! ### Starts and failed starts (R461, R462, R470) -/

/-- A start begins, unless a pin or the test port holds the module in reset: the incarnation rises (R341). -/
def State.beginStart (s : State) : State :=
  if s.mgt.hardReset || s.mgt.jtagHold then { s with boot := { s.boot with run := .held } }
  else { s with boot := { s.boot with run := .starting .power, incarn := s.boot.incarn + 1, badSlots := [], found := [], ledgerOk := true } }

/-- Vigil: every unit but those of R472 loses power; the state and its reason go to the always-on store (R473). Context 0
stands for the firmware that answers host rings. -/
def State.enterVigil (s : State) (reason : W16) : State :=
  let p := s.fab.pslot
  let s := s.clearMain
  let s := { s with boot := { s.boot with run := .vigil, vigilState := some reason, vigilPending := false, hb := 3, reason },
                    fab := { s.fab with pslot := p } }
  s.modCtx 0 fun x => { x with state := .active, classes := 0xF }

/-- REASON codes (R471). -/
def rsnOtp : W16 := 0x0001
def rsnFwSig : W16 := 0x0002
def rsnFwRoll : W16 := 0x0003
def rsnRail : W16 := 0x0004
def rsnBudget : W16 := 0x0005
def rsnThermal : W16 := 0x0006
def rsnBist : W16 := 0x0007
def rsnSlice : W16 := 0x0008
def rsnCore : W16 := 0x0009
def rsnHbm : W16 := 0x000A
def rsnVault : W16 := 0x000B
def rsnTimeout : W16 := 0x000D
def rsnSec : W16 := 0x000E
def rsnManual : W16 := 0x000F

/-- A start fails: the record takes time and reason, an ALARM goes to management; three within 600 s mean vigil, else the
module starts again in 10 s. -/
def State.failStart (s : State) (reason : W16) : State :=
  let s := { s with boot := { s.boot with fails := ((s.boot.seconds, reason) :: s.boot.fails).take 3, reason } }
  let s := s.raiseOpen .alarm unitRas [reason.setWidth 32]
  if 3 ≤ s.boot.recentFails then s.enterVigil reason
  else
    let s := s.clearMain
    { s with boot := { s.boot with run := .waiting } }

/-- A start in progress ends without a record, and the next begins (R462). -/
def State.restart (s : State) : State := (s.clearMain).beginStart

/-! ### Phases -/

def State.goPhase (s : State) (p : StartPhase) : State := { s with boot := { s.boot with run := .starting p } }

/-- An edition whose programming was cut short is given a KILL at the next start (R478). -/
def killPartial (k : Fin 4) (b : List Byte) : List Byte := if !otpValid k b && b.getD 0xFC 0 == 0 then b.set 0xFC 0xFF else b

/-- The vault is that of the part number OTP gives: one that was not known before brings its own layout (R1, R242). -/
def State.ofPart (s : State) (small : Bool) : State :=
  if s.vault.small = small then s
  else
    let v := vaultReset small
    { s with vault := { s.vault with small, keelGib := v.keelGib, imageGib := v.imageGib, keelNow := v.keelNow, imageNow := v.imageNow } }

/-- ROOT: OTP is read, its active edition sets the mode word and TICK_CTL.PRIO (R463, R543); a stored vigil state leads back
to vigil (R473). -/
def State.rootEnd (s : State) (r : PhaseEnd) : State :=
  let s := { s with boot := { s.boot with otp := Vector.ofFn fun (k : Fin 4) => (s.boot.otp[k]).map (killPartial k) } }
  match s.boot.vigilState with
  | some reason => s.enterVigil reason
  | none =>
    if s.boot.vigilPending then s.enterVigil rsnManual
    else if !r.ok then s.failStart rsnSec
    else match s.boot.bestEdition with
      | none => s.failStart rsnOtp
      | some k =>
        let s := { s with boot := { s.boot with active := some k } }
        let v := s.otpField 0xB0 2
        let role : Fin 4 := Fin.ofNat 4 (bitsOf v 13 12)
        let guardF : Fin 4 := Fin.ofNat 4 (bitsOf v 9 8)
        let check : Fin 4 := Fin.ofNat 4 (bitsOf v 5 4)
        let power : Fin 4 := Fin.ofNat 4 (bitsOf v 1 0)
        { (s.ofPart (decide (s.otpField 4 2 = 0x2404))).goPhase .firmware with
          mode := { role, guardF, check, power, roleNow := role, guardNow := guardF, checkNow := check, powerNow := power }
          tick := { s.tick with prio := BitVec.ofNat 8 (s.otpField 0xB2 1) } }

/-- FIRMWARE (R466): the named bank, else the other; `bankSig` is what signatures and hashes gave for A and B. -/
def State.firmwareEnd (s : State) (r : PhaseEnd) : State :=
  let sig (k : Fin 2) : Bool := (s.boot.banks[k]).valid && (if k = 0 then r.bankSig.1 else r.bankSig.2)
  let svn (k : Fin 2) : Bool := decide (s.otpField 0x70 4 ≤ (s.boot.banks[k]).svn.toNat)
  let named : Fin 2 := if s.boot.named then 1 else 0
  let other : Fin 2 := if s.boot.named then 0 else 1
  if !r.ok then s.failStart rsnFwSig
  else if sig named && svn named then { s.goPhase .mainPower with boot := { (s.goPhase .mainPower).boot with bank := s.boot.named, switched := false } }
  else if sig other && svn other then
    let s := s.raiseOpen .warn unitRas
    { s with boot := { s.boot with bank := !s.boot.named, switched := true, run := .starting .mainPower } }
  else s.failStart (if (sig named && !svn named) || (sig other && !svn other) then rsnFwRoll else rsnFwSig)

/-- The almanac entry of a source; entries stand in the order of R467. -/
def almStack (l : List (List Byte)) (k : StackId) : List Byte := l.getD k.val []
def almCable (l : List (List Byte)) (k : LinkId) : List Byte := l.getD (25 + k.val) []
def almShelf (l : List (List Byte)) : List Byte := l.getD 41 []

/-- STATUS of an entry, and an entry marked MISMATCH. -/
def almStatus (e : List Byte) : Nat := leAt e 2 1
def almMark (e : List Byte) (bad : Bool) : List Byte := if bad then e.set 2 4 else e

/-- A cable that answers with a flight time above 150 ns. -/
def cableLong (e : List Byte) : Bool := decide (almStatus e = 0) && decide (150 < leAt e 8 4)

/-- ALMANAC (R467, R468, R523). -/
def State.almanacEnd (s : State) (r : PhaseEnd) : State :=
  let a := r.almanac
  let badStack (k : StackId) : Bool := leAt (almStack a k) 8 4 != 64 || leAt (almStack a k) 0xC 4 != 32
  let marked := ((List.range a.length).zip a).map fun x =>
    if h : x.1 < 24 then almMark x.2 (badStack ⟨x.1, h⟩) else almMark x.2 (decide (25 ≤ x.1 ∧ x.1 < 39) && cableLong x.2)
  let longs := (List.finRange 14).filter fun k => cableLong (almCable a k)
  let mute := (List.finRange 14).filter fun k => almStatus (almCable a k) = 1 ∨ almStatus (almCable a k) = 2
  let shelf := if almStatus (almShelf a) = 0 then leAt (almShelf a) 8 4 else 0
  let down := longs.foldl (fun (v : BitVec 14) k => v ||| BitVec.ofNat 14 (2 ^ k.val)) (if 8 < r.strap.val then 0xFF else 0)
  let s := { s with boot := { s.boot with almanac := marked }, fab := { s.fab with pslot := r.strap, heldDown := down } }
  let s := (List.range (longs.length + mute.length + (if 8 < r.strap.val then 1 else 0))).foldl (fun s _ => s.raiseOpen .warn unitRas) s
  let s := (List.finRange 24).foldl (fun s k => if badStack k then s.modStack k fun x => { x with out := true } else s) s
  if r.hot then s.failStart rsnThermal
  else if shelf ≠ 0 ∧ shelf < 2200 then s.failStart rsnBudget
  else { s.goPhase .archive with power := { s.power with shelf } }

/-- A record in an archive of a depth: the oldest of the kind gives way, its first 64 KiB kept among the summaries. -/
def archiveAdd (depth : Nat) (arch sums : List Ember) (e : Ember) : List Ember × List Ember :=
  let keep (x : Ember) : Ember := { x with bytes := x.bytes.take 65536 }
  if arch.length < depth then (arch ++ [e], sums)
  else (arch.drop 1 ++ [e], (sums ++ (arch.head?).toList.map keep).drop ((sums.length + 1) - 256))

/-- ARCHIVE (R448, R468): records not copied yet go to the archive, unless the vault accepts no writes. -/
def State.archiveEnd (s : State) (r : PhaseEnd) : State :=
  let s := if r.ledgerOk then s else s.raiseOpen .warn unitVlt
  let s := { s with boot := { s.boot with ledgerOk := r.ledgerOk } }
  let s := if s.vaultFull then s
    else
      let new (l : List Ember) : List Ember := l.filter fun e => !e.copied
      let doms := new s.ras.domRing
      let devs := new (s.ras.capSlots.toList.filterMap id)
      let (dev, sums) := devs.foldl (fun (acc : List Ember × List Ember) e => archiveAdd 64 acc.1 acc.2 { e with copied := true }) (s.ras.devArchive, s.ras.summaries)
      let (dom, sums) := doms.foldl (fun (acc : List Ember × List Ember) e => archiveAdd 1024 acc.1 acc.2 { e with copied := true }) (s.ras.domArchive, sums)
      s.modRas fun a =>
        { a with devArchive := dev, domArchive := dom, summaries := sums, domRing := a.domRing.map fun (e : Ember) => { e with copied := true },
                 capSlots := a.capSlots.map fun (e : Option Ember) => e.map fun (x : Ember) => { x with copied := true } }
  s.goPhase .bist

/-- Parts of a kind that the ledger, when it is readable, lists as RETIRED (R425). -/
def State.ledgerUnits (s : State) (kind : Byte) : List Nat :=
  if s.boot.ledgerOk then (s.ras.ledger.filter fun r => r.kind == kind && r.event == 1).map (·.unit.toNat) else []

/-- BIST (R468): fewer than 8 good cores, or a failing central part, ends the start. Fourteen cores serve, the rest are
reserve (R270). -/
def State.bistEnd (s : State) (r : PhaseEnd) : State :=
  let good := (List.finRange 16).filter fun k => !r.badCores.contains k && !(s.ledgerUnits 5).contains k.val
  if r.badCentral || !r.ok then s.failStart rsnBist
  else if good.length < 8 then s.failStart rsnCore
  else
    let cores : Vector CoreState 16 := Vector.ofFn fun (k : Fin 16) =>
      if (good.take 14).contains k then CoreState.free else if good.contains k then CoreState.reserve else CoreState.retired
    let found := (r.badSlots.map fun p => ((0 : Fin 7), BitVec.ofNat 16 p.val)) ++ r.badCores.map fun k => ((4 : Fin 7), BitVec.ofNat 16 k.val)
    let s := s.modSched fun g => { g with cores := cores }
    { s.goPhase .hbm with boot := { (s.goPhase .hbm).boot with badSlots := r.badSlots, found } }

/-- Channels of a stack that the factory repaired (R464). -/
def State.factoryChannels (s : State) (k : StackId) : Nat :=
  ((List.range 8).filter fun i => s.otpField (0x80 + 2 * i) 2 ≠ 0xFFFF ∧ bitsOf (s.otpField (0x80 + 2 * i) 2) 9 5 = k.val).length

/-- Lanes the factory retired. -/
def State.factoryLanes (s : State) : Nat := ((List.range 16).filter fun i => s.otpField (0x90 + 2 * i) 2 ≠ 0xFFFF).length

/-- HBM (R468): a channel that fails is replaced without a copy, or takes its stack out; more than one stack out ends the
start. -/
def State.hbmEnd (s : State) (r : PhaseEnd) : State :=
  let s := (List.finRange 24).foldl (fun s (k : StackId) => s.modStack k fun x =>
    let used := s.factoryChannels k + ((s.ledgerUnits 2).filter fun u => decide (u / 32 = k.val)).length
    let bad := (r.badChannels.filter fun b => decide (b.1 = k)).length
    { x with out := x.out || r.badStacks.contains k || decide (2 < used + bad), reserve := 2 - (used + bad) }) s
  let outs := (List.finRange 24).filter fun k => (s.memUnit.hbm[k]).out
  if 1 < outs.length then s.failStart rsnHbm
  else
    let found := s.boot.found ++ r.badChannels.map fun b => ((1 : Fin 7), BitVec.ofNat 16 (32 * b.1.val + b.2.val))
    { s.goPhase .sliceMap with boot := { (s.goPhase .sliceMap).boot with found } }

/-- A slot no retirement excludes (R13, R468). -/
def State.slotGood (s : State) (p : SlotId) : Bool :=
  !bitOf (s.otpField 0x74 9) p.val && !(s.ledgerUnits 1).contains p.val && !s.boot.badSlots.contains p

/-- Healthy slots of an octave, in ascending order. -/
def State.homeSlots (s : State) (o : Nat) : List SlotId := (List.finRange 72).filter fun p => decide (octOf p = o) && s.slotGood p

/-- The slice map (R13, R14): octave by octave, and engines without a home slot on the reserves of other octaves. -/
def State.sliceMapOf (s : State) : List SlotId :=
  let spares := (List.range 8).filterMap fun o => (s.homeSlots o)[8]?
  ((List.range 64).foldl (fun (acc : List SlotId × List SlotId) e =>
    match ((s.homeSlots (e / 8))[e % 8]? : Option SlotId), acc.2 with
    | some p, _ => (acc.1 ++ [p], acc.2)
    | none, q :: t => (acc.1 ++ [q], t)
    | none, [] => (acc.1 ++ [0], [])) ([], spares)).1

/-- SLICE_MAP (R13-R15, R244). -/
def State.sliceMapEnd (s : State) : State :=
  let good := (List.finRange 72).filter s.slotGood
  if good.length < 64 then s.failStart rsnSlice
  else
    let m := s.sliceMapOf
    let s := s.modRas fun a =>
      { a with map := Vector.ofFn fun (e : Fin 64) => m.getD e.val 0, slots := Vector.ofFn fun (p : Fin 72) => { healthy := good.contains p } }
    ({ s with free := s.free + 1 }.modCtx 0 fun x => { x with state := .active, gen := 1, classes := 0xF, key := true, keyDraw := s.free, recipes := defaultRecipes }).goPhase .vault

/-- The layout in effect changes: regions whose bounds move are erased (R218). The regions lie in the order of R217. -/
def Vault.applyLayout (v : Vault) (keel image : Nat) : Vault :=
  let v := if image = v.imageNow then v else { v with images := Vector.replicate 256 {} }
  let v := if image = v.imageNow ∧ keel = v.keelNow then v else { v with keels := Vector.replicate 2 {} }
  { v with keelNow := keel, imageNow := image, layoutPend := none }

/-- Reserve units used and left at a start (R426, R427), by kind. -/
def State.reserves (s : State) : List (Nat × Nat) :=
  let healthy := (s.ras.slots.toList.filter (·.healthy)).length
  let chans := (s.memUnit.hbm.toList.map (·.reserve)).sum
  let lanes := s.factoryLanes + (s.ledgerUnits 4).length
  let cores := (s.sched.cores.toList.filter fun k => decide (k ≠ CoreState.retired)).length
  let eds := (s.boot.otp.toList.filter (·.isSome)).length
  let spare := (s.vault.arrays.toList.map (·.spare)).sum
  [(72 - healthy, healthy - 64), (48 - chans, chans), (s.memUnit.retiredFrames.length, 0), (lanes, 28 - lanes), (16 - cores, cores - 14),
    (eds - 1, 4 - eds), ((s.ledgerUnits 7).length, spare)]

/-- VAULT (R218, R425, R461): the layout, the ledger of this start's retirements, GLB_MEM_CAP. -/
def State.vaultEnd (s : State) (r : PhaseEnd) : State :=
  if !r.ok then s.failStart rsnVault
  else
    let s := if s.boot.incarn = 1 then
        { s with vault := { s.vault with arrays := s.vault.arrays.map fun (a : VArray) => { a with spare := s.vault.spares } } }
      else s
    let s := match s.vault.layoutPend with
      | none => s
      | some (k, i) =>
        if s.vault.usable < i + k then ({ s with vault := s.vault.applyLayout (vaultReset s.vault.small).keelNow (vaultReset s.vault.small).imageNow }).cfgError .encoding .device Reg.vltLayout.off
        else { s with vault := s.vault.applyLayout k i }
    let s := s.boot.found.foldl (fun s x => s.ledgerAdd (BitVec.ofNat 8 (x.1.val + 1)) 1 x.2 0 []) s
    let ins := (s.memUnit.hbm.toList.filter fun x => !x.out).length
    let gone := (s.memUnit.retiredFrames.filter fun f => !(s.memUnit.hbm[(Fin.ofNat 24 f : StackId)]).out).length
    let s := s.modMem fun m => { m with cap := 30720 * ins - gone }
    let rs := s.reserves
    (s.modRas fun a => { a with resUsed := Vector.ofFn fun (k : Fin 7) => (rs.getD k.val (0, 0)).1,
                                resLeft := Vector.ofFn fun (k : Fin 7) => (rs.getD k.val (0, 0)).2 }).goPhase .links

/-- HB_STATE at DONE (R469). -/
def hbAtDone (ident : W16) : Fin 4 := if ident = noIdent ∨ identW ident = 8 then 1 else 2

/-- Every sensor of R518 shows a reading: measured, so free. -/
def State.readSensors (s : State) : State :=
  sensorCodes.foldl (fun s k =>
    { s with power := { s.power with sensors := s.power.sensors ++ [(k, Config.freeWord s.free, SnsState.ok)] }, free := s.free + 1 }) s

/-- What the lend pools of sled peers have room for: not this module's to know, so free (R213). -/
def State.peerPools (s : State) : State :=
  (s.modMem fun m => { m with peerRoom := Vector.ofFn fun (w : Fin 9) => Config.freeNat (s.free + w.val) }) |> fun t =>
    { t with free := s.free + 9 }

/-- LINKS ends, and with it the start (R469). -/
def State.linksEnd (s : State) (r : PhaseEnd) : State :=
  let s := if s.power.sensors.isEmpty then s.readSensors else s
  let s := s.peerPools
  let s := s.modMem fun m => { m with fwReserved := min 4096 Config.fwReservation }
  let s := s.modRing mgtRing fun _ => { state := .running, admin := true }
  { s with boot := { s.boot with run := .running, bootMs := BitVec.ofNat 32 r.ms, hb := hbAtDone s.fab.ident }
           power := { s.power with mhz := modeMhz s.mode.powerNow.val } }

/-- Links may end their phase: each that is not DISABLED is UP, in ALIGN or DOWN. -/
def State.linksSettled (s : State) : Bool :=
  s.fab.links.toList.all fun k => k.state == .up || k.state == .align || k.state == .down || k.state == .disabled

/-- START_PHASE_END: the phase in progress ends, and the next begins or the start fails. -/
def State.phaseEnd (s : State) (r : PhaseEnd) : State :=
  let s := match s.boot.run with
    | .starting _ => { s with boot := { s.boot with seconds := s.boot.seconds + (r.ms / 1000 - s.boot.bootMs.toNat / 1000), bootMs := BitVec.ofNat 32 r.ms } }
    | _ => s
  match s.boot.run with
  | .starting .power => if r.ok then s.goPhase .root else s.failStart rsnRail
  | .starting .root => s.rootEnd r
  | .starting .firmware => s.firmwareEnd r
  | .starting .mainPower =>
    if r.ok then { s.goPhase .almanac with power := { s.power with mainOn := true }, boot := { (s.goPhase .almanac).boot with hostEn := r.hostEn } }
    else s.failStart rsnRail
  | .starting .almanac => s.almanacEnd r
  | .starting .archive => s.archiveEnd r
  | .starting .bist => s.bistEnd r
  | .starting .hbm => s.hbmEnd r
  | .starting .sliceMap => s.sliceMapEnd
  | .starting .vault => s.vaultEnd r
  | .starting .links => if s.linksSettled then s.linksEnd r else s
  | .starting .done => s
  | _ => s

def execStartPhaseEnd (r : PhaseEnd) (s : State) : Host.Outcome State Fault Refusal := .next (s.phaseEnd r)

/-- START_TIMEOUT (R461). -/
def execStartTimeout (s : State) : Host.Outcome State Fault Refusal :=
  .next (match s.boot.run with
    | .starting _ =>
      let left := 60 - s.boot.bootMs.toNat / 1000
      ({ s with boot := { s.boot with seconds := s.boot.seconds + left } }).failStart rsnTimeout
    | _ => s)

/-- START_RETRY (R470): ten seconds after a failed start. -/
def execStartRetry (s : State) : Host.Outcome State Fault Refusal :=
  .next (if s.boot.run = .waiting then ({ s with boot := { s.boot with seconds := s.boot.seconds + 10 } }).beginStart else s)

/-! ### Input power (R462, R512-R514) -/

/-- POWER_INPUT_UP (R461): input has reached 260 V on a module that is in place. -/
def execPowerInputUp (s : State) : Host.Outcome State Fault Refusal :=
  .next (if s.boot.run = .off then
      ({ s with power := { s.power with inputOn := true, presentN := true } }).beginStart
    else s)

/-- POWER_INPUT_STOP (R514): the module stops; no record is captured, and a start in progress leaves no record (R462). -/
def execPowerInputStop (s : State) : Host.Outcome State Fault Refusal := .next (if s.boot.run = .off then s else s.powerOff)

/-- OVERVOLTAGE (R513): as a stop. -/
def execOvervoltage (s : State) : Host.Outcome State Fault Refusal := .next (if s.boot.run = .off then s else s.powerOff)

/-- PRESENT_N_BREAK (R512, R526): PWR cuts the input current; a stop. -/
def execPresentNBreak (s : State) : Host.Outcome State Fault Refusal :=
  let t := if s.boot.run = .off then s else s.powerOff
  .next { t with power := { t.power with presentN := false } }

/-! ### Device resets from outside (R442, R459, R478, R507, R511, R523) -/

/-- A device reset is requested from outside: a running module follows R442; in a start it waits for a capture only. -/
def State.requestReset (s : State) : State :=
  match s.boot.run with
  | .running => s.deviceReset trigExternal unitRas none none
  | .starting _ => if s.ras.capturing.isEmpty then s.restart else s.modRas fun a =>
      { a with capturing := a.capturing.map fun (c : Capture) => { c with resets := true }, resetting := true }
  | .waiting => (s.clearMain).beginStart
  | .held => s
  | .off => s
  | .vigil => s

/-- Vigil ends: the failed-start record and the vigil state are cleared, and the device starts (R474). -/
def State.releaseVigil (s : State) : State :=
  if s.inVigil then
    let s := s.clearMain
    ({ s with boot := { s.boot with fails := [], vigilState := none, vigilPending := false, reason := 0 } }).beginStart
  else s

/-- Vigil is requested (R473, R474): a running module captures first; a start in progress ends without a record. -/
def State.requestVigil (s : State) : State :=
  match s.boot.run with
  | .running =>
    let s := { s with boot := { s.boot with vigilPending := true } }
    s.deviceReset trigExternal unitRas none none
  | .off => s
  | .vigil => s
  | _ => s.enterVigil rsnManual

/-- The module is put and held in reset (HARD_RESET_N, or the test port). -/
def State.holdReset (s : State) : State :=
  match s.boot.run with
  | .running => s.deviceReset trigExternal unitRas none none
  | .off => s
  | .starting _ => if s.ras.capturing.isEmpty then (s.clearMain).beginStart else s.requestReset
  | _ => (s.clearMain).beginStart

/-- The reset is asserted (R442 step 4): vigil when it was requested, else a start, or the hold of a pin. -/
def State.assertReset (s : State) : State :=
  if s.boot.vigilPending then s.enterVigil rsnManual else s.restart

/-- EMBER_CAPTURE_DONE (R444): the record is written; the capture of a device reset is followed by the reset, once captures
that wait have ended. -/
def execEmberCaptureDone (us : W32) (s : State) : Host.Outcome State Fault Refusal :=
  match s.captureDone us with
  | (s, some c) => .next (if c.resets then s.assertReset else s)
  | (s, none) => .next s

/-- HARD_RESET_N (R523): a device reset, and the module is held. -/
def execHardResetN (s : State) : Host.Outcome State Fault Refusal :=
  .next (({ s with mgt := { s.mgt with hardReset := true } }).holdReset)

/-- HARD_RESET_RELEASE (R523): a held module starts. -/
def execHardResetRelease (s : State) : Host.Outcome State Fault Refusal :=
  let s := { s with mgt := { s.mgt with hardReset := false } }
  .next (if s.boot.run = .held then s.beginStart else s)

/-- A secured command: it names a session that is open (R506, R507). -/
def State.secured (s : State) (x : Option (Fin 2)) : Bool := x.any fun k => s.mgt.sessions[k]

/-- VIGIL_CTL_REQUEST (R477, R529): only management may write it. -/
def State.vigilCtl (s : State) (p : Path) (request : Bool) : State :=
  if !s.reaches p Reg.glbVigilCtl.off .ao then s
  else if p = .mgt then (if request then s.requestVigil else s.releaseVigil)
  else s.cfgError .path (pathCfg p) Reg.glbVigilCtl.off

def execVigilCtlRequest (path : Path) (s : State) : Host.Outcome State Fault Refusal := .next (s.vigilCtl path true)
/-- VIGIL_CTL_RELEASE (R474, R477). -/
def execVigilCtlRelease (path : Path) (s : State) : Host.Outcome State Fault Refusal := .next (s.vigilCtl path false)

end Sys2Proof.Machine
end

