-- ==== Sys2Proof/Machine/RegWrite.lean ====
section
/-! DEFINITION. Writing registers: access types, locks, paths and configuration errors (R5-R8, R23, R44, R45, R213, R264-R268,
R302, R329, R351, R352, R356, R381, R400, R427, R458, R477, R499, R525, R529-R531, R540-R543). Each function takes the state,
the path and the value of an accepted access, and answers the state. -/
namespace Sys2Proof.Machine

/-- Record a configuration error about a register. -/
def State.regError (s : State) (kind : CfgKind) (p : Path) (r : Reg) : State := s.cfgError kind (pathCfg p) r.off

/-- A write to a register whose RWL fields may be locked: a locked one is recorded (R6). -/
def State.ifOpen (s : State) (locked : Bool) (p : Path) (r : Reg) (t : State) : State := if locked then s.regError .locked p r else t

/-- Set a selector in the path's own bank (R530). -/
def State.setSel (s : State) (p : Path) (r : Reg) (v : Nat) : State :=
  s.modBank p fun b => { b with sel := assocSet b.sel r.off (BitVec.ofNat 32 v) }

/-- Put a 32-bit half into a 64-bit value. -/
def putHalf (x : W64) (high : Bool) (v : Nat) : W64 :=
  if high then BitVec.ofNat 64 (v * 2 ^ 32 + x.toNat % 2 ^ 32) else BitVec.ofNat 64 (x.toNat / 2 ^ 32 * 2 ^ 32 + v)

/-- Put a 32-bit word into a 128-bit value. -/
def putWord (x : BitVec 128) (k v : Nat) : BitVec 128 := BitVec.ofNat 128 (x.toNat - bitsOf x.toNat (32 * k + 31) (32 * k) * 2 ^ (32 * k) + v * 2 ^ (32 * k))

/-! ### Mode and power -/

/-- MODE_CTL (R21, R23): a reserved encoding makes the device ignore the whole write. -/
def State.writeModeCtl (s : State) (p : Path) (v : Nat) : State :=
  s.ifOpen s.mode.lock p .modeCtl (if modeReserved v then s.regError .encoding p .modeCtl else s.setMode v)

/-- MODE_CAP (R525): the lock holds WATTS; a value that is not legal is ignored. -/
def State.writeModeCap (s : State) (p : Path) (v : Nat) : State :=
  let w := bitsOf v 11 0
  let ok := decide (w = 0 ∨ (1600 ≤ w ∧ w ≤ 3400))
  s.ifOpen s.power.capLock p .modeCap
    (let s := { s with power := { s.power with capLock := bitOf v 31, capWatts := if ok then w else s.power.capWatts } }
     if ok then s else s.regError .encoding p .modeCap)

/-! ### Rings (R264-R268, R302) -/

/-- Who may write the registers of a ring: the host only those of host rings (R529). -/
def ringWriter (p : Path) (x : Ring) : Bool := p != .host || !x.core

/-- A ring starts: all four counts are 0, the next packet may carry any SEQ, and a core serves it (R267, R270, R273). -/
def State.enableRing (s : State) (r : RingId) : State :=
  let server := (s.leastCore none).getD 0
  s.modRing r fun x => { x with state := .running, err := 0, server, head := 0, tail := 0, cplTail := 0, cplHead := 0, read := 0, nextSeq := none,
                                hist := [], ends := [], lastCid := 0 }

/-- A ring stops (R302): at once when nothing is outstanding. -/
def State.disableRing (s : State) (r : RingId) : State :=
  s.modRing r fun x => { x with state := if s.outstanding r = 0 then .disabled else .closing }

/-- CMDQ_CFG (R268, R529): field by field; ENABLE acts last. -/
def State.writeRingCfg (s : State) (p : Path) (v : Nat) : State :=
  let r := s.selRing p
  let x := s.ring r
  let enable := bitOf v 31
  let admin := bitOf v 30
  let core := bitOf v 29
  let log2 := bitsOf v 4 0
  if !ringWriter p x || (p == .host && core) then s.regError .path p .cmdqCfg
  else
    let busy := x.enabled || x.state == .closing
    let legal := decide (4 ≤ log2 ∧ log2 ≤ 16)
    let s := if p = .host then (if admin = x.admin then s else s.regError .path p .cmdqCfg) else s.modRing r fun y => { y with admin := admin }
    let s := if busy then (if core = x.core ∧ log2 = x.log2sz then s else s.regError .state p .cmdqCfg)
      else
        let s := s.modRing r fun y => { y with core := core, log2sz := if legal then log2 else y.log2sz }
        if legal then s else s.regError .encoding p .cmdqCfg
    if enable then
      (if x.state = .closing then s.regError .state p .cmdqCfg else if x.enabled then s else s.enableRing r)
    else if x.enabled then s.disableRing r else s

/-- A base register of a ring: the low 12 bits are 0 (R268). -/
def State.writeRingBase (s : State) (p : Path) (reg : Reg) (f : Ring → Ring) : State :=
  let x := s.ring (s.selRing p)
  if !ringWriter p x then s.regError .path p reg
  else if x.enabled || x.state == .closing then s.regError .state p reg
  else s.modRing (s.selRing p) f

/-- The context mask of a ring. -/
def State.writeRingMask (s : State) (p : Path) (reg : Reg) (high : Bool) (v : Nat) : State :=
  if !ringWriter p (s.ring (s.selRing p)) then s.regError .path p reg
  else s.modRing (s.selRing p) fun x => { x with mask := putHalf x.mask high v }

/-- A ring enters ERROR, and raises its vector (R267, R269). -/
def State.ringError (s : State) (r : RingId) (err : Nat) : State :=
  (s.modRing r fun x => { x with state := .error, err }).ringEvent r r.val

/-- CMDQ_CPL_HEAD (R265, R267): a value below the last, or above CPL_TAIL, puts a running ring in ERROR. -/
def State.writeCplHead (s : State) (p : Path) (v : W32) : State :=
  let r := s.selRing p
  let x := s.ring r
  if !ringWriter p x then s.regError .path p .cmdqCplHead
  else if (v - x.cplHead).toNat ≤ (x.cplTail - x.cplHead).toNat then s.modRing r fun y => { y with cplHead := v }
  else if x.state = .running then s.ringError r 3
  else s

/-- A doorbell (R265, R267, R302): ignored unless the ring runs; a TAIL out of range puts it in ERROR. -/
def State.writeDoorbell (s : State) (p : Path) (n : Fin 64) (v : W32) : State :=
  let r : RingId := n.castSucc
  let x := s.ring r
  if !ringWriter p x then s.regError .path p (.cmdqDb n)
  else if x.state ≠ .running then s
  else if (v - x.head).toNat ≤ x.size then s.modRing r fun y => { y with tail := v }
  else s.ringError r 1

/-! ### Tick and fabric -/

/-- TICK_CTL (R356). -/
def State.writeTickCtl (s : State) (p : Path) (v : Nat) : State :=
  let n := bitsOf v 4 0
  let ok := decide (1 ≤ n ∧ n ≤ 16)
  s.ifOpen s.tick.lock p .tickCtl
    (let s := { s with tick := { s.tick with lock := bitOf v 31, prio := BitVec.ofNat 8 (bitsOf v 15 8), tcalNext := if ok then n else s.tick.tcalNext } }
     (if ok then s else s.regError .encoding p .tickCtl).chooseMaster)

/-- TICK_AT (R351): a tick nearer than 16 is refused; at the master a change is announced. -/
def State.writeTickAt (s : State) (p : Path) (v : W32) : State :=
  let ahead := (v - s.tick32).toNat
  s.ifOpen s.tick.lock p .tickAt
    (if ahead < 16 ∨ 2 ^ 31 ≤ ahead then s.regError .state p .tickAt
     else
       let s := { s with tick := { s.tick with tickAt := v } }
       if s.tick.state = .master then
         s.announce { at_ := v, tcal := s.tick.tcalNext, len1 := s.tick.collLen1, start1 := s.tick.collStart1, len0 := s.tick.collLen0,
                      start0 := s.tick.collStart0 } none
       else s)

/-- Windows of TICK_COLL that R352 allows. -/
def windowsOk (start0 len0 start1 len1 : Nat) : Bool := decide (start0 + len0 ≤ 16) && decide (start1 + len1 ≤ 16) && !overlaps start0 len0 start1 len1

/-- TICK_COLL (R352, R356): a value that breaks the limits is ignored. -/
def State.writeTickColl (s : State) (p : Path) (v : Nat) : State :=
  let len1 := bitsOf v 25 21
  let start1 := bitsOf v 20 17
  let len0 := bitsOf v 16 12
  let start0 := bitsOf v 11 8
  s.ifOpen s.tick.lock p .tickColl
    (if windowsOk start0 len0 start1 len1 then
       { s with tick := { s.tick with collLen1 := len1, collStart1 := start1, collLen0 := len0, collStart0 := start0 } }
     else s.regError .encoding p .tickColl)

/-- FAB_DIMS (R356). -/
def State.writeDims (s : State) (p : Path) (v : Nat) : State :=
  let ok (n : Nat) : Bool := decide (1 ≤ n ∧ n ≤ 16)
  let x := bitsOf v 4 0
  let y := bitsOf v 9 5
  let z := bitsOf v 14 10
  s.ifOpen s.fab.dimsLock p .fabDims
    (let s := { s with fab := { s.fab with dimsLock := bitOf v 31, dx := if ok x then x else s.fab.dx, dy := if ok y then y else s.fab.dy,
                                           dz := if ok z then z else s.fab.dz } }
     if ok x && ok y && ok z then s else s.regError .encoding p .fabDims)

/-- FAB_LINK_CTL (R337, R356). -/
def State.writeLinkCtl (s : State) (p : Path) (v : Nat) : State :=
  s.ifOpen s.fab.ctlLock p .fabLinkCtl
    (let s := s.setDisable (BitVec.ofNat 14 v)
     { s with fab := { s.fab with ctlLock := bitOf v 31 } })

/-! ### Memory, contexts, scheduling, job -/

/-- Reclaim notices to borrowers, in ascending slot, until enough frames are asked for (R213). -/
def State.askFrames (s : State) : Nat → List (Fin 9) → State
  | _, [] => s
  | n, w :: t =>
    let has := (s.memUnit.lent.filter fun l => decide (l.peer = w)).length
    let k := min n has
    if k = 0 then s.askFrames n t
    else
      let dst := identOf (identX s.fab.ident) (identY s.fab.ident) (identZ s.fab.ident) w.val
      (s.send ptReclaim dst 0 0 (le 4 k)).askFrames (n - k) t

/-- GLB_MEM_LEND (R213). -/
def State.writeLend (s : State) (p : Path) (v : Nat) : State :=
  s.ifOpen s.memUnit.lendLock p .glbMemLend
    (let s := s.modMem fun m => { m with lendLock := bitOf v 31, lendPages := bitsOf v 19 0 }
     s.askFrames (s.lentFrames - s.memUnit.lendPages) (List.finRange 9))

/-- GLB_GSC_SHARE (R329). -/
def State.writeShare (s : State) (p : Path) (v : Nat) : State :=
  let c := s.selCtx p .glbGscSel
  let n := bitsOf v 4 0
  if c = 0 then s
  else if 1 ≤ n ∧ n ≤ 16 then s.modCtx c fun x => { x with share := n }
  else s.regError .encoding p .glbGscShare

/-- GLB_GSC_PRE (R329). -/
def State.writePre (s : State) (p : Path) (v : Nat) : State :=
  let n := bitsOf v 19 15
  let ok := decide (n ≤ 16)
  s.ifOpen s.sched.preLock p .glbGscPre
    (let s := s.modSched fun g => { g with preLock := bitOf v 31, protectK := bitsOf v 23 20, liveMax := if ok then n else g.liveMax, preWait := bitsOf v 14 0 }
     if ok then s else s.regError .encoding p .glbGscPre)

/-- The registers of the job and of the front end that the host may not write (R400, R499). -/
def State.notHost (s : State) (p : Path) (r : Reg) (t : State) : State := if p = .host then s.regError .path p r else t

/-! ### Vault, mirror -/

/-- VLT_LAYOUT (R218, R242). -/
def State.writeLayout (s : State) (p : Path) (v : Nat) : State :=
  s.ifOpen s.vault.layoutLock p .vltLayout
    { s with vault := { s.vault with layoutLock := bitOf v 31, keelGib := bitsOf v 25 13, imageGib := bitsOf v 12 0,
                                     layoutPend := some (bitsOf v 25 13, bitsOf v 12 0) } }

/-- MIR_CTL (R427). -/
def State.writeMirCtl (s : State) (p : Path) (v : Nat) : State :=
  let period := bitsOf v 23 16
  let settle := bitsOf v 9 0
  s.ifOpen s.mir.lock p .mirCtl
    (let s := { s with mir := { s.mir with lock := bitOf v 31, sentPeriod := if period = 0 then s.mir.sentPeriod else period,
                                           settleMs := if settle = 0 then s.mir.settleMs else settle } }
     if period = 0 ∨ settle = 0 then s.regError .encoding p .mirCtl else s)

/-! ### Errors and events -/

/-- ERR_CFG (R540): writing 1 to VALID clears it and MORE. -/
def State.clearCfgErr (s : State) (v : Nat) : State := if bitOf v 31 then { s with cfgErr := { s.cfgErr with valid := false, more := false } } else s

/-- ERR_NAN_REC0 (R45): writing 1 to VALID clears the record of the selected context. -/
def State.clearNan (s : State) (p : Path) (v : Nat) : State :=
  if bitOf v 31 then s.modCtx (s.selCtx p .errNanSel) fun x => { x with nan := {} } else s

/-- ERR_EVT_CFG (R458). -/
def State.writeEvtCfg (s : State) (p : Path) (v : Nat) : State :=
  let n := bitsOf v 4 0
  let ok := decide (6 ≤ n ∧ n ≤ 16)
  let s := s.modRas fun a => { a with evtEnable := bitOf v 31, evtCore := bitOf v 30, evtLog2 := if ok then n else a.evtLog2 }
  if ok then s else s.regError .encoding p .errEvtCfg

/-- Give a bucket a rate and a depth; tokens above the depth are lost. -/
def Bucket.config (b : Bucket) (rate burst : Nat) : Bucket :=
  { b with rate := if rate = 0 then b.rate else rate, burst := if burst = 0 then b.burst else burst,
           tokens := min b.tokens ((if burst = 0 then b.burst else burst) * 1000000) }

/-- ERR_TB_CFG (R458): LOCK holds every bucket; a selection without a bucket takes LOCK only. -/
def State.writeTb (s : State) (p : Path) (v : Nat) : State :=
  let rate := bitsOf v 30 16
  let burst := bitsOf v 15 0
  s.ifOpen s.ras.tbLock p .errTbCfg
    (let s := s.modRas fun a => { a with tbLock := bitOf v 31 }
     match s.selBucket p with
     | none => s.regError .encoding p .errTbCfg
     | some (0, c) =>
       let s := s.modRas fun a => { a with mgtBuckets := vmod a.mgtBuckets c.mgtIdx fun b => b.config rate burst }
       if rate = 0 ∨ burst = 0 then s.regError .encoding p .errTbCfg else s
     | some (_, c) =>
       let s := s.modRas fun a => { a with hostBuckets := vmod a.hostBuckets c.code fun b => b.config rate burst }
       if rate = 0 ∨ burst = 0 then s.regError .encoding p .errTbCfg else s)

/-- ERR_INJ_CTL (R458, R543): under INJECT_LOCK a write to ENABLE is refused. -/
def State.writeInj (s : State) (p : Path) (v : Nat) : State :=
  s.ifOpen s.ras.injLock p .errInjCtl
    (if s.injectLock then (s.modRas fun a => { a with injLock := bitOf v 31 }).regError .state p .errInjCtl
     else s.modRas fun a => { a with injLock := bitOf v 31, injEnable := bitOf v 0 })

/-! ### Every register -/

def State.modPortOf (s : State) (p : Path) (f : Port → Port) : State :=
  { s with serve := { s.serve with ports := vmod s.serve.ports (s.selPort p) f } }

/-- A write of a register that a path reaches. Fields that R5 makes read-only or read-clear ignore it. -/
def State.writeReg (s : State) (p : Path) (r : Reg) (w : W32) : State :=
  let v := w.toNat
  match r with
  | .glbVigilCtl =>
    if p ≠ .mgt then s.regError .path p .glbVigilCtl
    else if bitOf v 0 then s.requestVigil else if bitOf v 1 then s.releaseVigil else s
  | .modeCtl => s.writeModeCtl p v
  | .modeCap => s.writeModeCap p v
  | .otpSel => s.setSel p r (v % 256)
  | .cmdqSel => s.setSel p r (v % 64)
  | .cmdqCfg => s.writeRingCfg p v
  | .cmdqCtxmLo => s.writeRingMask p r false v
  | .cmdqCtxmHi => s.writeRingMask p r true v
  | .cmdqBaseLo => s.writeRingBase p r fun x => { x with base := putHalf x.base false (v / 4096 * 4096) }
  | .cmdqBaseHi => s.writeRingBase p r fun x => { x with base := putHalf x.base true v }
  | .cmdqCplLo => s.writeRingBase p r fun x => { x with cpl := putHalf x.cpl false (v / 4096 * 4096) }
  | .cmdqCplHi => s.writeRingBase p r fun x => { x with cpl := putHalf x.cpl true v }
  | .cmdqCplHead => s.writeCplHead p w
  | .cmdqDmaKick => s.kick (Fin.ofNat 32 v)
  | .tickCtl => s.writeTickCtl p v
  | .tickAt => s.writeTickAt p w
  | .tickColl => s.writeTickColl p v
  | .fabDims => s.writeDims p v
  | .fabLinkCtl => s.writeLinkCtl p v
  | .fabSel => if 14 ≤ v % 16 then s else s.setSel p r (v % 16)
  | .glbMemLend => s.writeLend p v
  | .glbMemMig => s.modMem fun m => { m with migRate := BitVec.ofNat 8 v }
  | .glbTmuSel | .glbCtxSel | .glbGscSel | .glbJobSel | .glbSteSel | .mirSel | .errNanSel => s.setSel p r (v % 64)
  | .glbGscShare => s.writeShare p v
  | .glbGscPre => s.writePre p v
  | .glbPvCtl => s.notHost p r (s.modPv (s.selCtx p .glbJobSel) fun x => { x with check := bitOf v 31 })
  | .glbPvStep => s.notHost p r (s.modPv (s.selCtx p .glbJobSel) fun x => { x with step := w })
  | .glbPvEpoch => s.notHost p r (s.modPv (s.selCtx p .glbJobSel) fun x => { x with epoch := w })
  | .glbJobEpoch => s.notHost p r (s.modPv (s.selCtx p .glbJobSel) fun x => { x with mepoch := w })
  | .glbDmaSel => s.setSel p r (v % 32)
  | .vltLayout => s.writeLayout p v
  | .vltSel => s.setSel p r (v % 2)
  | .mirCtl => s.writeMirCtl p v
  | .errCfg => s.clearCfgErr v
  | .errNanRec0 => s.clearNan p v
  | .errMemSel => s.setSel p r (v % 32)
  | .errResSel => s.setSel p r (v % 8)
  | .errRstSel => s.setSel p r (v % 8)
  | .errWdogCtl => s.ifOpen s.ras.wdogLock p r (s.modRas fun a => { a with wdogLock := bitOf v 31, wdogDisable := BitVec.ofNat 7 v })
  | .errEvtCfg => s.writeEvtCfg p v
  | .errEvtBaseLo => s.modRas fun a => { a with evtBase := putHalf a.evtBase false (v / 4096 * 4096) }
  | .errEvtBaseHi => s.modRas fun a => { a with evtBase := putHalf a.evtBase true v }
  | .errEvtCons => s.modRas fun a => { a with evtCons := w }
  | .errTbSel => s.setSel p r (v % 16)
  | .errTbCfg => s.writeTb p v
  | .errInjCtl => s.writeInj p v
  | .snsSel => s.setSel p r (v % 65536)
  | .glbFeSel => s.setSel p r (v % 2)
  | .glbFeStat => s.notHost p r (s.modPortOf p fun x => { x with window := BitVec.ofNat 16 v })
  | .glbFeIp0 => s.notHost p r (s.modPortOf p fun x => { x with ip := putWord x.ip 0 v })
  | .glbFeIp1 => s.notHost p r (s.modPortOf p fun x => { x with ip := putWord x.ip 1 v })
  | .glbFeIp2 => s.notHost p r (s.modPortOf p fun x => { x with ip := putWord x.ip 2 v })
  | .glbFeIp3 => s.notHost p r (s.modPortOf p fun x => { x with ip := putWord x.ip 3 v })
  | .glbFeGw0 => s.notHost p r (s.modPortOf p fun x => { x with gw := putWord x.gw 0 v })
  | .glbFeGw1 => s.notHost p r (s.modPortOf p fun x => { x with gw := putWord x.gw 1 v })
  | .glbFeGw2 => s.notHost p r (s.modPortOf p fun x => { x with gw := putWord x.gw 2 v })
  | .glbFeGw3 => s.notHost p r (s.modPortOf p fun x => { x with gw := putWord x.gw 3 v })
  | .cmdqDb n => s.writeDoorbell p n w
  | .glbId | .glbBootStat | .glbBootTime | .glbIncarn | .modeStat | .otpStat | .otpSerialLo | .otpSerialHi | .otpSvn | .otpData | .cmdqStat
  | .cmdqHead | .cmdqTail | .cmdqCplTail | .tickNow | .tickStat | .tickOffset | .tickGm | .tickTimeLo | .tickTimeHi | .fabIdent | .fabAdopt
  | .fabLinkStat | .fabNbr | .fabNbrInc | .fabFecCe | .fabFecUe | .fabReplay | .fabDrop | .glbMemCap | .glbMemFw | .glbMemLendUse | .glbScrub
  | .glbTmuUseT2 | .glbTmuUseT3 | .glbTmuUseT4 | .glbTmuUseSh | .glbTmuFaults | .glbCtxStat | .glbCtxTenantLo | .glbCtxTenantHi | .glbCtxOut
  | .glbGscDebt | .glbGscOverrun | .glbGscKills | .glbGscLost | .glbGscDefer | .glbPvLstep | .glbPvLepoch | .glbPvSkew | .glbSteWaste
  | .glbSteCancel | .glbSteMiss | .glbSteStarve | .glbSteFault | .glbDmaStat | .glbDmaBytes | .glbDmaLevel | .glbDmaHolds | .glbCleActive
  | .glbCleTx | .glbCleRx | .glbCleDup | .glbCleAbort | .glbCleWait | .vltWearUsed | .vltWearSpare | .vltWriteDay | .vltCe | .vltUe | .vltStat
  | .mirStat | .mirSeal | .mirSyncBytes | .mirSyncTime | .errCfgCnt | .errNanRec1 | .errNanRec2 | .errNanRec3 | .errGenDrop | .errMemCe
  | .errMemUe | .errMemStat | .errRes | .errMismatch | .errHangLast | .errHangSeq | .errHangCnt | .errRstCnt | .errEmberStat | .errEvtProd
  | .errSupp | .errIncident | .snsPwr | .snsClk | .snsVal | .snsStat | .snsMax | .glbFeRxDrop | .glbFeSecDrop | .glbFeTxDrop | .glbPcieStat
  | .glbPcieErr => s

/-- A write of an offset: ignored where nothing is there, or where the path does not reach it (R7, R528). -/
def State.writeAt (s : State) (p : Path) (off : Nat) (w : W32) : State :=
  match regAt off with
  | none => s
  | some (r, d) => if s.reaches p off d then s.writeReg p r w else s

/-- A write of one register by a path. -/
def State.writeNamed (s : State) (p : Path) (r : Reg) (w : W32) : State := s.writeAt p r.off w

end Sys2Proof.Machine
end

