-- ==== Sys2Proof/Machine/RegRows.lean ====
section
/-! DEFINITION. The commands that are writes or reads of registers, and the reading of packets from rings (R5-R8, R45, R213,
R265-R268, R281, R302, R337, R351, R356, R530, R540). -/
namespace Sys2Proof.Machine

/-- The enable bit of a CMDQ_CFG value. -/
def withEnable (v : W32) (on : Bool) : W32 := BitVec.ofNat 32 (v.toNat % 2 ^ 31 + bitAt on 31)

def execDoorbell (path : Path) (ring : Fin 64) (tail : W32) (s : State) : Host.Outcome State Fault Refusal :=
  .next (s.writeNamed path (.cmdqDb ring) tail)

def execRingEnable (path : Path) (value : W32) (s : State) : Host.Outcome State Fault Refusal :=
  .next (s.writeNamed path .cmdqCfg (withEnable value true))

def execRingDisable (path : Path) (value : W32) (s : State) : Host.Outcome State Fault Refusal :=
  .next (s.writeNamed path .cmdqCfg (withEnable value false))

/-- RING_CLOSED (R302, R502): a closing ring, or one that a function-level reset has ended, has no outstanding command. -/
def State.ringClosed (s : State) (r : RingId) : State :=
  if s.outstanding r ≠ 0 then s
  else if (s.ring r).state = .closing || s.pcie.flr.contains r then
    let s := s.modRing r fun x => { x with state := .disabled }
    { s with pcie := { s.pcie with flr := s.pcie.flr.filter (· != r) } }
  else s

def execRingClosed (ring : RingId) (s : State) : Host.Outcome State Fault Refusal := .next (s.ringClosed ring)

def execCplHeadWrite (path : Path) (value : W32) (s : State) : Host.Outcome State Fault Refusal := .next (s.writeNamed path .cmdqCplHead value)

def execLendPoolWrite (path : Path) (value : W32) (s : State) : Host.Outcome State Fault Refusal := .next (s.writeNamed path .glbMemLend value)

def execFabLinkDisable (path : Path) (value : W32) (s : State) : Host.Outcome State Fault Refusal := .next (s.writeNamed path .fabLinkCtl value)

def execModeCtlWrite (path : Path) (value : W32) (s : State) : Host.Outcome State Fault Refusal := .next (s.writeNamed path .modeCtl value)

def execTickAtWrite (path : Path) (value : W32) (s : State) : Host.Outcome State Fault Refusal := .next (s.writeNamed path .tickAt value)

def execNanRecordClear (path : Path) (value : W32) (s : State) : Host.Outcome State Fault Refusal := .next (s.writeNamed path .errNanRec0 value)

def execConfigErrorClear (path : Path) (value : W32) (s : State) : Host.Outcome State Fault Refusal := .next (s.writeNamed path .errCfg value)

def execTickTimeRead (path : Path) (s : State) : Host.Outcome State Fault Refusal := .next (s.readAt path Reg.tickTimeLo.off).2

def execRcFieldRead (path : Path) (offset : BitVec 24) (s : State) : Host.Outcome State Fault Refusal := .next (s.readAt path offset.toNat).2

def execRegisterWrite (path : Path) (offset : BitVec 24) (value : W32) (s : State) : Host.Outcome State Fault Refusal :=
  .next (s.writeAt path offset.toNat value)

/-- The 64 bytes at HEAD of a ring (R266). -/
def State.packetBytes (s : State) (r : RingId) : List Byte :=
  let x := s.ring r
  let a := x.base.toNat + 64 * (x.head.toNat % x.size)
  memReadList s.mem (if x.core then fwKey a else hostKey a) 64

/-- PACKET_ADMIT (R265, R267, R281): the next packet of a ring, once the ring has one and reply room. -/
def State.packetAdmit (s : State) (r : RingId) (fetchError : Bool) : State :=
  let x := s.ring r
  if r = mgtRing ∨ x.head = x.tail then s
  else if fetchError then (if x.state = .running && (s.mainUp || s.inVigil) then s.ringError r 2 else s)
  else
    let (h, op) := packetOf r (s.packetBytes r)
    (s.packet h op).served

def execPacketAdmit (ring : RingId) (fetchError : Bool) (s : State) : Host.Outcome State Fault Refusal := .next (s.packetAdmit ring fetchError)

end Sys2Proof.Machine
end

