-- ==== Sys2Proof/Machine/HostLink.lean ====
section
/-! DEFINITION. The PCI Express function: link loss, function-level reset and errors (R500-R503, R526). -/
namespace Sys2Proof.Machine

/-- The command of a channel moves data from or to the host. -/
def State.hostChan (s : State) (k : ChanId) : Bool := (s.chanDescs k).any fun d => decide (d.srcKind = kHost ∨ d.dstKind = kHost)

/-- The host side of a channel's descriptor at its cursor: false the source, true the destination. -/
def State.hostSide (s : State) (k : ChanId) : Bool :=
  match ((s.chanDescs k)[(s.chan k).desc]? : Option DmaDesc) with
  | some d => decide (d.srcKind ≠ kHost)
  | none => false

/-- Transfers with a host endpoint end with cause HOST_ERROR (R179, R502). -/
def State.endHostTransfers (s : State) : State :=
  (List.finRange 32).foldl (fun s k =>
    if (s.chan k).state ≠ .idle && s.hostChan k then
      s.failDma k stFaultUnresolved (dmaDetail k (s.chan k) dmaHostError (s.hostSide k) (s.chan k).cursor)
    else s) s

/-- Command rings that the host owns. -/
def State.hostRings (s : State) : List RingId := (List.finRange 65).filter fun r => decide (r ≠ mgtRing) && !(s.ring r).core

/-- The host link is lost: every enabled host ring enters ERROR with FETCH_ERROR, host transfers end (R502). -/
def State.hostLoss (s : State) : State :=
  let s := { s with pcie := { s.pcie with up := false, gen := 0, width := 0, flit := false } }
  let s := s.hostRings.foldl (fun s r => if (s.ring r).state = .running then s.modRing r fun x => { x with state := .error, err := 2 } else s) s
  s.endHostTransfers

/-- The function has power: MAIN_POWER has ended, or the module is in vigil (R472). -/
def State.pciePowered (s : State) : Bool := (s.mainUp || s.inVigil) && s.boot.hostEn

def execPerstN (s : State) : Host.Outcome State Fault Refusal := .next (if s.pciePowered then s.hostLoss else s)

def execPcieLinkLoss (s : State) : Host.Outcome State Fault Refusal := .next (if s.pciePowered then s.hostLoss else s)

/-- FUNCTION_LEVEL_RESET: as link loss; each host ring is DISABLED once its admitted commands have ended, and the vectors
raised but not taken are gone with BAR2. -/
def State.functionReset (s : State) : State :=
  let s := s.hostLoss
  let s := { s with pcie := { s.pcie with msix := [], flr := s.hostRings.filter fun (r : RingId) => decide ((s.ring r).state ≠ RingState.disabled) } }
  s.pcie.flr.foldl State.ringClosed s

def execFunctionLevelReset (s : State) : Host.Outcome State Fault Refusal := .next (if s.pciePowered then s.functionReset else s)

/-- PCIE_AER_ERROR (R503): the error is counted and passed to RAS; an uncorrectable one on a ring's fetch or reply puts the
ring in ERROR. What class RAS gives it, and of what unit, is not stated. -/
def State.pcieError (s : State) (uncorrectable : Bool) (ring : Option (Fin 64)) (reply : Bool) : State :=
  let s := s.count offPcieErr 0 1
  let cls := classOf (Fin.ofNat 4 (Config.freeNat s.free))
  let unit := (Config.freeWord s.free).setWidth 16
  let s := ({ s with free := s.free + 1 }).raiseOpen cls unit
  match ring with
  | some r => if uncorrectable && (s.ring r.castSucc).state == .running && !(s.ring r.castSucc).core then s.ringError r.castSucc (if reply then 4 else 2) else s
  | none => s

def execPcieAerError (uncorrectable : Bool) (ring : Option (Fin 64)) (reply : Bool) (s : State) : Host.Outcome State Fault Refusal :=
  .next (if s.pciePowered then s.pcieError uncorrectable ring reply else s)

/-- Rates and widths the link may train to (R500): Flit mode goes with 64 GT/s. -/
def linkLegal (gen : Fin 8) (width : Fin 32) (flit : Bool) : Bool :=
  decide (1 ≤ gen.val ∧ gen.val ≤ 6) && decide (width.val = 8 ∨ width.val = 16) && (flit || decide (gen.val < 6))

def execPcieLinkUp (gen : Fin 8) (width : Fin 32) (flit : Bool) (s : State) : Host.Outcome State Fault Refusal :=
  .next (if s.pciePowered && linkLegal gen width flit then { s with pcie := { s.pcie with up := true, gen, width, flit } } else s)

end Sys2Proof.Machine
end

