-- ==== Sys2Proof/Machine/ServeRows.lean ====
section
/-! DEFINITION. The rows of the front end and of Deush (R479-R482, R484-R493, R499). -/
namespace Sys2Proof.Machine

/-! ### Ethernet, MACsec and IPv6 (R479-R482) -/

def State.modPort (s : State) (p : Fin 2) (f : Port → Port) : State := { s with serve := { s.serve with ports := vmod s.serve.ports p f } }

/-- A port passes traffic beyond EAPOL-MKA. -/
def Port.open (p : Port) : Bool := p.link && p.secure

/-- The receive queue of a port that takes a UDP payload (R483). -/
def State.rxQueue (s : State) (p : Fin 2) (f : Frame) : Option (Fin 64) :=
  (List.finRange 64).find? fun q =>
    let x := s.serve.queues[q]
    decide (32 ≤ q.val) && decide (portOf q.val = p) && x.ctx.isSome && x.udp == f.udpDst &&
      (match f.session with
       | some n => decide (x.index = n.toNat % max 1 x.spread)
       | none => decide (x.index = 0))

/-- A receive record (R482). -/
def rxRecord (p : Fin 2) (tick : W32) (packet : List Byte) : List Byte :=
  let r := le 2 packet.length ++ [BitVec.ofNat 8 p.val, 0] ++ le 4 tick.toNat ++ le 8 0 ++ packet
  r ++ List.replicate (roundUp r.length 64 - r.length) 0

/-- The front-end gateway compares the owner of a queue with CTX: its state takes traffic and its generation is the one the queue
was assigned under (R18, R247). -/
def State.queueLive (s : State) (q : FeQueue) : Bool := q.ctx.any fun c => s.live c && (s.ctx c).gen == q.gen

/-- FRAME_RECEIVE: MACsec first, then length, IPv6, UDP, and the queue (R479-R481). -/
def State.frameReceive (s : State) (p : Fin 2) (f : Frame) : State :=
  let x := s.serve.ports[p]
  let drop (s : State) : State := s.count offRxDrop p.val 1
  if !x.link then s
  else if !(x.secure && f.secure) then s.count offSecDrop p.val 1
  else if f.bytes < 64 ∨ 9216 < f.bytes then drop s
  else if f.ext ∨ f.dstIp ≠ x.ip then drop s
  else if f.next ≠ 17 then s
  else if !f.udpOk then drop s
  else match s.rxQueue p f with
    | none => drop s
    | some q =>
      let bs := rxRecord p s.tick32 f.packet
      if !s.queueLive s.serve.queues[q] then ((s.serve.queues[q]).ctx.map s.genDrop).getD s
      else if queueBytes < (s.serve.queues[q]).bytes.length + bs.length then drop s else (s.queuePush q.val bs).queueMoved q.val

def execFrameReceive (port : Fin 2) (f : Frame) (s : State) : Host.Outcome State Fault Refusal := .next (s.frameReceive port f)

/-- EAPOL_MKA: with a CAK installed, key agreement makes or ends a secure channel; a new SA joins the four a port holds. -/
def execEapolMka (port : Fin 2) (live xpn : Bool) (s : State) : Host.Outcome State Fault Refusal :=
  .next (if (s.serve.ports[port]).link && (s.serve.ports[port]).cak.isSome then
      s.modPort port fun x => { x with secure := live, suite := if live then xpn else x.suite,
                                       sas := if live then ((x.sas.headD 0 + 1) :: x.sas).take 4 else x.sas }
    else s)

/-- Sum of 16-bit words in network order, for the Internet checksum. -/
def wordSum : List Byte → Nat
  | a :: b :: t => a.toNat * 256 + b.toNat + wordSum t
  | [a] => a.toNat * 256
  | [] => 0

/-- One's complement of the folded sum. -/
def inetSum (bs : List Byte) : Nat := let n := wordSum bs; 65535 - (if n = 0 then 0 else (n - 1) % 65535 + 1)

/-- An IPv6 packet that FEN sends itself: hop limit, next header, body with its checksum at an offset. -/
def ipPacket (hop next : Byte) (src dst : BitVec 128) (body : List Byte) (sumAt : Nat) : List Byte :=
  let pseudo := be 16 src.toNat ++ be 16 dst.toNat ++ be 4 body.length ++ [0, 0, 0, next]
  let c := inetSum (pseudo ++ body)
  let c := if next = 17 ∧ c = 0 then 65535 else c
  be 4 0x60000000 ++ be 2 body.length ++ [next, hop] ++ be 16 src.toNat ++ be 16 dst.toNat ++ body.take sumAt ++ be 2 c ++ body.drop (sumAt + 2)

/-- NEIGHBOR_SOLICITATION for the port's address: an advertisement, and a neighbour entry. -/
def execNeighborSolicitation (port : Fin 2) (src target : BitVec 128) (mac : BitVec 48) (secure : Bool) (s : State) :
    Host.Outcome State Fault Refusal :=
  .next (let x := s.serve.ports[port]
    if !x.link then s
    else if !(x.secure && secure) then s.count offSecDrop port.val 1
    else if target ≠ x.ip then s
    else s.modPort port fun p =>
      { p with neighbors := ((src, mac) :: p.neighbors.filter fun n => n.1 != src).take 1024
               sent := ipPacket 255 58 x.ip src
                 ([136, 0, 0, 0, 0x60, 0, 0, 0] ++ be 16 target.toNat ++ [2, 1] ++ be 6 (Config.portMac port.val).toNat) 2 :: p.sent })

/-- ECHO_REQUEST to the port's address: an echo reply with the same body. -/
def execEchoRequest (port : Fin 2) (src dst : BitVec 128) (body : List Byte) (secure : Bool) (s : State) : Host.Outcome State Fault Refusal :=
  .next (let x := s.serve.ports[port]
    if !x.link then s
    else if !(x.secure && secure) then s.count offSecDrop port.val 1
    else if dst ≠ x.ip then s.count offRxDrop port.val 1
    else s.modPort port fun p => { p with sent := ipPacket 64 58 x.ip src ([129, 0, 0, 0] ++ body) 2 :: p.sent })

/-- TRANSMIT_RECORD: the record at the front of a transmit queue is sent, or discarded and counted. A port without a secure
channel sends none. -/
def State.transmitRecord (s : State) (q : Fin 32) : State :=
  let p := portOf q.val
  let x := s.serve.ports[p]
  let bs := (s.serve.queues[(Fin.ofNat 64 q.val : Fin 64)]).bytes
  let len := leAt bs 0 2
  let n := roundUp (16 + len) 64
  if !x.open || bs.length < 64 then s
  else if !(decide (40 ≤ len ∧ len ≤ 9000) && leAt bs 3 1 == 0 && leAt bs 4 4 == 0 && leAt bs 8 8 == 0) || decide (bs.length < n) ||
      (sliceOf bs 24 16).reverse != le 16 x.ip.toNat then
    ((s.queueTake q.val (min n bs.length)).count offTxDrop p.val 1).queueMoved q.val
  else
    let pk := sliceOf bs 16 len
    let body := pk.drop 40
    let pk := if pk.getD 6 0 = 17 ∧ 8 ≤ body.length then
        ipPacket (pk.getD 7 0) 17 x.ip (BitVec.ofNat 128 (ofLe (sliceOf pk 24 16).reverse)) (body.take 6 ++ [0, 0] ++ body.drop 8) 6
      else pk
    ((s.queueTake q.val n).modPort p fun y => { y with sent := pk :: y.sent }).queueMoved q.val

def execTransmitRecord (queue : Fin 32) (s : State) : Host.Outcome State Fault Refusal := .next (s.transmitRecord queue)

/-- PCS_LINK_CHANGE (R499). -/
def execPcsLinkChange (port : Fin 2) (up : Bool) (s : State) : Host.Outcome State Fault Refusal :=
  .next (s.modPort port fun x => { x with link := up })

/-! ### Deush (R484-R493) -/

/-- Client messages acknowledge every message up to ACK (R492). -/
def State.takeAck (s : State) (r : Req) (ack : W32) : State :=
  s.modReq r fun q => { q with unacked := q.unacked.filter fun m => decide (ack.toNat < m.seq.toNat) }

/-- REQUEST: a duplicate gets the answer of the first; a new one is refused, admitted, or waits for its prompt. -/
def State.deushRequest (s : State) (i : Request) : State :=
  if !i.ok then s
  else match s.req? i.client i.session i.req with
    | some q =>
      let s := s.takeAck q i.ack
      match q.answer with
      | some (typ, body) => s.sendDeush q typ 0 body
      | none => s
    | none =>
      let r : Req := { client := i.client, session := i.session, req := i.req, svc := Fin.ofNat 16 i.service.toNat, info := i,
                       got := (List.range i.tokens.length).zip i.tokens }
      let s : State := { s with serve := { s.serve with reqs := s.serve.reqs ++ [r] } }
      match s.inst r.svc with
      | none => s.reject r rjService
      | some x =>
        if 16 ≤ i.service.toNat then s.reject r rjService
        else if badRequest x.cfg i then s.reject r rjMessage
        else if r.complete then s.admitReq r else s

def execDeushRequest (r : Request) (s : State) : Host.Outcome State Fault Refusal :=
  .next (if s.serviceRuns .servingLoop && (List.finRange 16).any (fun k => (s.inst k).isSome) then (s.deushRequest r).served else s)

/-- REQUEST_MORE: tokens for a prompt that is not complete. -/
def State.requestMore (s : State) (r : Req) (ack offset : W32) (tokens : List W32) : State :=
  let s := s.takeAck r ack
  match r.state, s.inst r.svc with
  | .incomplete, some x =>
    if r.info.prompt.toNat < offset.toNat + tokens.length ∨ 2229 < tokens.length ∨ tokens.any (fun t => decide (x.cfg.vocab ≤ t.toNat)) then
      s.reject r rjMessage
    else
      let new := ((List.range tokens.length).zip tokens).map fun t => (offset.toNat + t.1, t.2)
      let r := { r with got := r.got ++ new.filter fun t => !(r.got.any fun g => g.1 == t.1) }
      let s := s.modReq r fun _ => { r with unacked := [] }
      if r.complete then s.admitReq r else s
  | _, _ => s

def execDeushRequestMore (client : BitVec 128) (session : W64) (req ack : W32) (offset : W32) (tokens : List W32) (s : State) :
    Host.Outcome State Fault Refusal :=
  .next (match s.req? client session req with
    | none => s
    | some r => (s.requestMore r ack offset tokens).served)

/-- CANCEL (R492, R498): before ACCEPT the request is dropped; after it, it ends when its command in flight has ended. -/
def State.cancelReq (s : State) (r : Req) : State :=
  match r.state with
  | .incomplete => { s with serve := { s.serve with reqs := s.serve.reqs.filter fun q => !q.same r } }
  | .ended => s
  | _ => s.modReq r fun q => { q with ending := some (doneCancelled, 0) }

def execDeushCancel (client : BitVec 128) (session : W64) (req ack : W32) (s : State) : Host.Outcome State Fault Refusal :=
  .next (match s.req? client session req with
    | none => s
    | some r => ((s.takeAck r ack).cancelReq r).served)

/-- ACK (R492). -/
def execDeushAck (client : BitVec 128) (session : W64) (req ack : W32) (s : State) : Host.Outcome State Fault Refusal :=
  .next (match s.req? client session req with
    | none => s
    | some r => (s.takeAck r ack).served)

/-- A session without a request in flight ends: its pages are unmapped, its requests forgotten (R485, R498). One idle past its limit has
its pages hinted PREFER_T4 first (R214). -/
def State.dropSession (s : State) (z : Session) (late : Bool) : State :=
  let s := match s.inst z.svc with
    | none => s
    | some x => match s.loopRing x.ctx with
      | some k => if z.kvLen = 0 then s else
        let s := if late then (s.loopSend k x.ctx 1 false (.memHint (BitVec.ofNat 64 z.kvVa) (BitVec.ofNat 64 z.kvLen) (hintAttr hPreferT4 false))).1 else s
        (s.loopSend k x.ctx 1 false (.memUnmap (BitVec.ofNat 64 z.kvVa) (BitVec.ofNat 64 z.kvLen))).1
      | none => s
  { s with serve := { s.serve with sessions := s.serve.sessions.filter fun y => !(y.client == z.client && y.session == z.session)
                                   reqs := s.serve.reqs.filter fun r => !(r.client == z.client && r.session == z.session) } }

/-- CLOSE (R485, R498). -/
def State.closeSession (s : State) (client : BitVec 128) (session : W64) : State :=
  let mine := s.serve.reqs.filter fun r => r.client == client && r.session == session
  let s := mine.foldl (fun s r => s.cancelReq r) s
  match s.session? client session with
  | none => s
  | some z =>
    if mine.any Req.inFlight then
      { s with serve := { s.serve with sessions := s.serve.sessions.map fun (y : Session) =>
          if y.client = client ∧ y.session = session then { y with closing := true } else y } }
    else s.dropSession z false

def execDeushClose (client : BitVec 128) (session : W64) (ack : W32) (s : State) : Host.Outcome State Fault Refusal :=
  .next (let s := (s.serve.reqs.filter fun r => r.client == client && r.session == session).foldl (fun s r => s.takeAck r ack) s
    (s.closeSession client session).served)

/-- DEUSH_RESEND (R492): up to eight resends of a message, then the request ends UNACKED. -/
def State.resend (s : State) (r : Req) (seq : W32) : State :=
  match r.unacked.find? fun m => m.seq == seq with
  | none => s
  | some m =>
    if m.resends < 8 then
      (s.sendDeush r m.typ m.seq m.payload).modReq r fun q =>
        { q with unacked := q.unacked.map fun (x : OutMsg) => if x.seq = seq then { x with resends := x.resends + 1 } else x }
    else if r.state = .ended then s.modReq r fun q => { q with unacked := [] }
    else s.modReq r fun q => { q with unacked := [], ending := some (doneUnacked, 0) }

def execDeushResend (client : BitVec 128) (session : W64) (req seq : W32) (s : State) : Host.Outcome State Fault Refusal :=
  .next (match s.req? client session req with
    | none => s
    | some r => (s.resend r seq).served)

/-- PROMPT_INCOMPLETE (R488): 100 ms after its REQUEST. -/
def execPromptIncomplete (client : BitVec 128) (session : W64) (req : W32) (s : State) : Host.Outcome State Fault Refusal :=
  .next (match s.req? client session req with
    | none => s
    | some r => if r.state = .incomplete ∧ r.info.at_ + 100000 ≤ s.nowUs then s.reject r rjIncomplete else s)

/-- SESSION_IDLE_CLOSE (R485): the session has been idle for IDLE_LIMIT seconds. -/
def execSessionIdleClose (client : BitVec 128) (session : W64) (s : State) : Host.Outcome State Fault Refusal :=
  .next (match s.session? client session with
    | none => s
    | some z => match s.inst z.svc with
      | none => s
      | some x => if !z.busy && decide (z.idleSince + 1000000 * x.cfg.idleLimit ≤ s.nowUs) then s.dropSession z true else s)

/-- The weight slot of a bulk batch that may issue because its oldest ready row has waited BULK_WAIT ticks. -/
def State.overdueSlot (s : State) (svc : Fin 16) (x : Instance) : Option WSlotId :=
  (List.finRange 8).find? fun w => (s.batch svc false w).any fun q => decide (q.readyTick + x.cfg.bulkWait ≤ s.tick.now)

/-- BULK_WAIT_EXPIRY (R493): the oldest ready bulk row has waited BULK_WAIT ticks. -/
def execBulkWaitExpiry (svc : Fin 16) (s : State) : Host.Outcome State Fault Refusal :=
  .next (match s.inst svc with
    | none => s
    | some x => match s.overdueSlot svc x with
      | some w => (s.decode svc false w).served
      | none => s)

end Sys2Proof.Machine
end

