-- ==== Sys2Proof/Machine/Packets.lean ====
section
/-! DEFINITION. One meaning for each command packet (R279): the packet is placed at the head of its ring, CMD reads and
admits or refuses it (R265, R281), and a command that may start at once does (R303, R310). What each opcode then does is
in `State.checkOp`, `State.startOp`, `State.begin` and `State.commitOp`. -/
namespace Sys2Proof.Machine

/-- NOP (R279). Command that does nothing and completes when its dependences end. -/
def execNop (h : Hdr) (s : State) : Host.Outcome State Fault Refusal := .next ((s.packet h .nop).served)

/-- ADM_MODE (R280). Command that writes a value to MODE_CTL on the firmware path, under the rules of R23. -/
def execAdmMode (h : Hdr) (mode : W32) (s : State) : Host.Outcome State Fault Refusal :=
  .next ((s.packet h (.admMode mode)).served)

/-- ADM_SERVICE_START (R271). Command that reads and verifies a service image, then starts the service on a free control core. -/
def execAdmServiceStart (h : Hdr) (svc : Byte) (va len : W64) (s : State) : Host.Outcome State Fault Refusal :=
  .next ((s.packet h (.admServiceStart svc va len)).served)

/-- ADM_SERVICE_STOP (R271). Command that ends a service once its outstanding commands have replied. -/
def execAdmServiceStop (h : Hdr) (svc : Byte) (s : State) : Host.Outcome State Fault Refusal :=
  .next ((s.packet h (.admServiceStop svc)).served)

/-- ADM_IDENTITY (R332). Command that gives the module its logical fabric identity (x, y, z, w), taking effect at commit. -/
def execAdmIdentity (h : Hdr) (x y z w : Byte) (s : State) : Host.Outcome State Fault Refusal :=
  .next ((s.packet h (.admIdentity x y z w)).served)

/-- CTX_CREATE (R248). Command that creates an ACTIVE context with a fresh generation, key, default recipes and cleared records. -/
def execCtxCreate (h : Hdr) (ctx classes : Byte) (semBase semCount : W16) (tenant seed : W64) (s : State) : Host.Outcome State Fault Refusal :=
  .next ((s.packet h (.ctxCreate ctx classes semBase semCount tenant seed)).served)

/-- CTX_FENCE (R256). Command that fences a context in DRAIN or HALT mode and completes when none of its commands is issued. -/
def execCtxFence (h : Hdr) (ctx mode : Byte) (s : State) : Host.Outcome State Fault Refusal :=
  .next ((s.packet h (.ctxFence ctx mode)).served)

/-- CTX_UNFENCE (R256). Command that returns a FENCED context to ACTIVE and ends any waiting CTX_FENCE with ST_KILLED. -/
def execCtxUnfence (h : Hdr) (ctx : Byte) (s : State) : Host.Outcome State Fault Refusal :=
  .next ((s.packet h (.ctxUnfence ctx)).served)

/-- CTX_DESTROY (R257). Command that starts teardown: advances the generation, ends the context's commands and enters FENCING. -/
def execCtxDestroy (h : Hdr) (ctx : Byte) (s : State) : Host.Outcome State Fault Refusal :=
  .next ((s.packet h (.ctxDestroy ctx)).served)

/-- MEM_MAP (R204). Command that maps a range as ZERO pages in the initial tier given by the hint. -/
def execMemMap (h : Hdr) (va len : W64) (attr : W32) (s : State) : Host.Outcome State Fault Refusal :=
  .next ((s.packet h (.memMap va len attr)).served)

/-- MEM_UNMAP (R204). Command that waits until no issued command covers the range, then frees the pages. -/
def execMemUnmap (h : Hdr) (va len : W64) (s : State) : Host.Outcome State Fault Refusal :=
  .next ((s.packet h (.memUnmap va len)).served)

/-- MEM_HINT (R204). Command that sets placement hints and, with WAIT, moves every page to its hinted tier. -/
def execMemHint (h : Hdr) (va len : W64) (attr : W32) (s : State) : Host.Outcome State Fault Refusal :=
  .next ((s.packet h (.memHint va len attr)).served)

/-- MEM_QUOTA (R196). Command that sets a context's T2, T3, T4 and shadow-pool quotas after the capacity checks. -/
def execMemQuota (h : Hdr) (ctx : Byte) (t2 t3 t4 shadow : W32) (s : State) : Host.Outcome State Fault Refusal :=
  .next ((s.packet h (.memQuota ctx t2 t3 t4 shadow)).served)

/-- MEM_RESOLVE_RETRY (R205). Command that makes TMU evaluate a recorded faulting access again. -/
def execMemResolveRetry (h : Hdr) (faultId : W32) (s : State) : Host.Outcome State Fault Refusal :=
  .next ((s.packet h (.memResolveRetry faultId)).served)

/-- MEM_RESOLVE_FAIL (R205). Command that makes a recorded fault unresolvable with its recorded cause. -/
def execMemResolveFail (h : Hdr) (faultId : W32) (s : State) : Host.Outcome State Fault Refusal :=
  .next ((s.packet h (.memResolveFail faultId)).served)

/-- WGT_INSTALL_BEGIN (R224). Install operation that validates a manifest and makes an EMPTY directory entry INSTALLING. -/
def execWgtInstallBegin (h : Hdr) (img : Byte) (va len : W64) (s : State) : Host.Outcome State Fault Refusal :=
  .next ((s.packet h (.wgtInstallBegin img va len)).served)

/-- WGT_INSTALL_CHUNKS (R224). Install operation that checks chunks against their leaf hashes and writes both copies. -/
def execWgtInstallChunks (h : Hdr) (img : Byte) (va : W64) (first count : W32) (s : State) : Host.Outcome State Fault Refusal :=
  .next ((s.packet h (.wgtInstallChunks img va first count)).served)

/-- WGT_INSTALL_COMMIT (R224). Install operation that makes the directory entry READY with the chunks written so far. -/
def execWgtInstallCommit (h : Hdr) (img : Byte) (s : State) : Host.Outcome State Fault Refusal :=
  .next ((s.packet h (.wgtInstallCommit img)).served)

/-- WGT_INSTALL_ABORT (R224). Install operation that returns the entry to EMPTY and erases its space in the background. -/
def execWgtInstallAbort (h : Hdr) (img : Byte) (s : State) : Host.Outcome State Fault Refusal :=
  .next ((s.packet h (.wgtInstallAbort img)).served)

/-- WGT_ERASE (R224). Command that returns an image directory entry to EMPTY. -/
def execWgtErase (h : Hdr) (img : Byte) (s : State) : Host.Outcome State Fault Refusal :=
  .next ((s.packet h (.wgtErase img)).served)

/-- WGT_KEY_ADD (R223). Command that writes an empty publisher key slot from a 96-byte hash record. -/
def execWgtKeyAdd (h : Hdr) (slot : Byte) (va : W64) (s : State) : Host.Outcome State Fault Refusal :=
  .next ((s.packet h (.wgtKeyAdd slot va)).served)

/-- WGT_KEY_REVOKE (R223). Command that empties a publisher key slot. -/
def execWgtKeyRevoke (h : Hdr) (slot : Byte) (s : State) : Host.Outcome State Fault Refusal :=
  .next ((s.packet h (.wgtKeyRevoke slot)).served)

/-- WGT_LOAD (R229). Command that loads the chunks named by a shard map into a weight slot, verifying each against its leaf hash. -/
def execWgtLoad (h : Hdr) (img slot : Byte) (group members : W16) (lflags : Byte) (va len smap : W64) (smapCount : W32) (s : State) : Host.Outcome State Fault Refusal :=
  .next ((s.packet h (.wgtLoad img slot group members lflags va len smap smapCount)).served)

/-- WGT_PIN (R233). Command that adds pins to the slot that CUR names at its commit. -/
def execWgtPin (h : Hdr) (n : W32) (s : State) : Host.Outcome State Fault Refusal := .next ((s.packet h (.wgtPin n)).served)

/-- WGT_UNPIN (R233). Command that removes pins from a weight slot. -/
def execWgtUnpin (h : Hdr) (slot : Byte) (n : W32) (s : State) : Host.Outcome State Fault Refusal :=
  .next ((s.packet h (.wgtUnpin slot n)).served)

/-- WGT_SWITCH (R233). Command that sets CUR to a READY weight slot. -/
def execWgtSwitch (h : Hdr) (slot : Byte) (s : State) : Host.Outcome State Fault Refusal :=
  .next ((s.packet h (.wgtSwitch slot)).served)

/-- WGT_DROP (R233). Command that moves a READY weight slot other than CUR to RETIRING. -/
def execWgtDrop (h : Hdr) (slot : Byte) (s : State) : Host.Outcome State Fault Refusal :=
  .next ((s.packet h (.wgtDrop slot)).served)

/-- KEEL_WRITE (R239). Command that writes a checkpoint into an EMPTY keel slot and makes it VALID at commit. -/
def execKeelWrite (h : Hdr) (kslot : Byte) (smap : W64) (smapCount : W32) (job : W64) (step : W32) (s : State) : Host.Outcome State Fault Refusal :=
  .next ((s.packet h (.keelWrite kslot smap smapCount job step)).served)

/-- KEEL_READ (R239). Command that reads a VALID keel slot, checking every chunk against the header's ROOT. -/
def execKeelRead (h : Hdr) (kslot : Byte) (smap : W64) (smapCount : W32) (s : State) : Host.Outcome State Fault Refusal :=
  .next ((s.packet h (.keelRead kslot smap smapCount)).served)

/-- KEEL_DROP (R239). Command that empties a keel slot. -/
def execKeelDrop (h : Hdr) (kslot : Byte) (s : State) : Host.Outcome State Fault Refusal :=
  .next ((s.packet h (.keelDrop kslot)).served)

/-- SUBMIT_GRAPH (R295). Command that copies a graph into firmware memory in an empty slot, and runs it if RUN is set. -/
def execSubmitGraph (h : Hdr) (gslot gflags : Byte) (step : W32) (gaddr : W64) (glen : W32) (s : State) : Host.Outcome State Fault Refusal :=
  .next ((s.packet h (.submitGraph gslot gflags step gaddr glen)).served)

/-- GRAPH_RUN (R295). Command that re-checks a resident graph and issues its nodes as their predecessors commit. -/
def execGraphRun (h : Hdr) (gslot : Byte) (step : W32) (s : State) : Host.Outcome State Fault Refusal :=
  .next ((s.packet h (.graphRun gslot step)).served)

/-- GRAPH_RELEASE (R295). Command that waits for the slot's runs to end, then empties the graph slot. -/
def execGraphRelease (h : Hdr) (gslot : Byte) (s : State) : Host.Outcome State Fault Refusal :=
  .next ((s.packet h (.graphRelease gslot)).served)

/-- MATMUL (R96). Kernel command that computes dense products on the matrix engines. -/
def execMatmul (h : Hdr) (kpb : W64) (kpbLen : W32) (s : State) : Host.Outcome State Fault Refusal :=
  .next ((s.packet h (.matmul kpb kpbLen)).served)

/-- VECTOR (R109). Kernel command that applies one elementwise function code on VRU. -/
def execVector (h : Hdr) (kpb : W64) (kpbLen : W32) (s : State) : Host.Outcome State Fault Refusal :=
  .next ((s.packet h (.vector kpb kpbLen)).served)

/-- REDUCE (R113). Kernel command that performs a reduction on VRU under the reference order. -/
def execReduce (h : Hdr) (kpb : W64) (kpbLen : W32) (s : State) : Host.Outcome State Fault Refusal :=
  .next ((s.packet h (.reduce kpb kpbLen)).served)

/-- ATTN_FWD (R115). Kernel command that computes attention by online softmax over key segments. -/
def execAttnFwd (h : Hdr) (kpb : W64) (kpbLen : W32) (s : State) : Host.Outcome State Fault Refusal :=
  .next ((s.packet h (.attnFwd kpb kpbLen)).served)

/-- ATTN_BWD (R118). Kernel command that computes attention gradients, recomputing weights from the log-sum-exp. -/
def execAttnBwd (h : Hdr) (kpb : W64) (kpbLen : W32) (s : State) : Host.Outcome State Fault Refusal :=
  .next ((s.packet h (.attnBwd kpb kpbLen)).served)

/-- OPT_UPDATE (R121). Kernel command that performs the fused optimiser update of weights and moments. -/
def execOptUpdate (h : Hdr) (kpb : W64) (kpbLen : W32) (s : State) : Host.Outcome State Fault Refusal :=
  .next ((s.packet h (.optUpdate kpb kpbLen)).served)

/-- STEP_FENCE (R327). Command that closes a step of its context once every other command of the step has ended. -/
def execStepFence (h : Hdr) (step : W32) (s : State) : Host.Outcome State Fault Refusal :=
  .next ((s.packet h (.stepFence step)).served)

/-- SEM_ACQUIRE (R322). Command that acquires a semaphore, standalone, guarded or as the opening of a section. -/
def execSemAcquire (h : Hdr) (sem value : W16) (s : State) : Host.Outcome State Fault Refusal :=
  .next ((s.packet h (.semAcquire sem value)).served)

/-- SEM_RELEASE (R322). Command that adds its value to a semaphore or closes a section. -/
def execSemRelease (h : Hdr) (sem value : W16) (s : State) : Host.Outcome State Fault Refusal :=
  .next ((s.packet h (.semRelease sem value)).served)

/-- DMA_START (R169). Command that starts a bulk DMA channel over a descriptor table, paced or unpaced. -/
def execDmaStart (h : Hdr) (desc qaddr : W64) (count : W16) (chan pacing : Byte) (low high : W32) (rateCap holdTicks : Byte) (s : State) : Host.Outcome State Fault Refusal :=
  .next ((s.packet h (.dmaStart desc qaddr count chan pacing low high rateCap holdTicks)).served)

/-- DMA_ABORT (R181). Command that moves a busy DMA channel to CANCELLING and ends its command. -/
def execDmaAbort (h : Hdr) (chan : Byte) (s : State) : Host.Outcome State Fault Refusal :=
  .next ((s.packet h (.dmaAbort chan)).served)

/-- COLL_REDUCE_SCATTER (R367). Collective that reduces by slot tree and leaves each owner its shard's roots. -/
def execCollReduceScatter (h : Hdr) (kpb : W64) (kpbLen : W32) (s : State) : Host.Outcome State Fault Refusal :=
  .next ((s.packet h (.collReduceScatter kpb kpbLen)).served)

/-- COLL_ALL_GATHER (R368). Collective that sends each rank's shard to every other rank. -/
def execCollAllGather (h : Hdr) (kpb : W64) (kpbLen : W32) (s : State) : Host.Outcome State Fault Refusal :=
  .next ((s.packet h (.collAllGather kpb kpbLen)).served)

/-- COLL_ALL_REDUCE (R369). Collective that reduce-scatters and then distributes the converted roots to every rank. -/
def execCollAllReduce (h : Hdr) (kpb : W64) (kpbLen : W32) (s : State) : Host.Outcome State Fault Refusal :=
  .next ((s.packet h (.collAllReduce kpb kpbLen)).served)

/-- COLL_MULTICAST (R370). Collective that delivers the leader's elements to every rank along a binary tree. -/
def execCollMulticast (h : Hdr) (kpb : W64) (kpbLen : W32) (s : State) : Host.Outcome State Fault Refusal :=
  .next ((s.packet h (.collMulticast kpb kpbLen)).served)

/-- COLL_PERMUTE (R371). Collective that moves elements from the layout of one member table to another. -/
def execCollPermute (h : Hdr) (kpb : W64) (kpbLen : W32) (s : State) : Host.Outcome State Fault Refusal :=
  .next ((s.packet h (.collPermute kpb kpbLen)).served)

/-- MIR_PAIR (R404). Command that sets a context's partner, ward, guest, parity group and protection table. -/
def execMirPair (h : Hdr) (ctx gsize gpos : Byte) (partner ward guest : W16) (gtab ptab : W64) (pcount : W16) (s : State) : Host.Outcome State Fault Refusal :=
  .next ((s.packet h (.mirPair ctx gsize gpos partner ward guest gtab ptab pcount)).served)

/-- MIR_SYNC (R406). Command that streams the step's protected deltas to the partner and the parity row holders. -/
def execMirSync (h : Hdr) (step : W32) (s : State) : Host.Outcome State Fault Refusal :=
  .next ((s.packet h (.mirSync step)).served)

/-- MIR_INTERCALATE (R413). Command on a spare that adopts a failed identity and loads its sealed state. -/
def execMirIntercalate (h : Hdr) (failed : W16) (method source : Byte) (step : W32) (job : W64) (s : State) : Host.Outcome State Fault Refusal :=
  .next ((s.packet h (.mirIntercalate failed method source step job)).served)

/-- MIR_RESTORE (R413). Command that restores a context to a sealed step from local frames, the mirror or the keel. -/
def execMirRestore (h : Hdr) (ctx source : Byte) (step : W32) (s : State) : Host.Outcome State Fault Refusal :=
  .next ((s.packet h (.mirRestore ctx source step)).served)

/-- JOB_RELEASE (R399). Command that releases a replica from a job at the next step boundary. -/
def execJobRelease (h : Hdr) (job : W64) (ident : W16) (s : State) : Host.Outcome State Fault Refusal :=
  .next ((s.packet h (.jobRelease job ident)).served)

/-- JOB_JOIN (R399). Command that founds a job or joins a replica to it at the next step boundary. -/
def execJobJoin (h : Hdr) (job : W64) (member : W16) (ctx : Byte) (plan : W64) (plen : W32) (s : State) : Host.Outcome State Fault Refusal :=
  .next ((s.packet h (.jobJoin job member ctx plan plen)).served)

/-- SRV_START (R490). Command that starts one serving instance of the serving loop. -/
def execSrvStart (h : Hdr) (svc ctx : Byte) (cfg : W64) (s : State) : Host.Outcome State Fault Refusal :=
  .next ((s.packet h (.srvStart svc ctx cfg)).served)

/-- SRV_STOP (R490). Command that stops a serving instance, draining or cancelling its requests. -/
def execSrvStop (h : Hdr) (svc mode : Byte) (s : State) : Host.Outcome State Fault Refusal :=
  .next ((s.packet h (.srvStop svc mode)).served)

/-- FE_QUEUE (R483). Command that assigns a front-end queue to a context or releases it. -/
def execFeQueue (h : Hdr) (queue ctx : Byte) (udp : W16) (spread index : Byte) (s : State) : Host.Outcome State Fault Refusal :=
  .next ((s.packet h (.feQueue queue ctx udp spread index)).served)

/-- QUERY_PROGRESS (R300). Command that writes the unit bitmap of a target command. -/
def execQueryProgress (h : Hdr) (ring : Byte) (tseq : W32) (va : W64) (len : W32) (s : State) : Host.Outcome State Fault Refusal :=
  .next ((s.packet h (.queryProgress ring tseq va len)).served)

/-- QUERY_STATUS (R301). Command that writes the 32-byte reply of a target command. -/
def execQueryStatus (h : Hdr) (ring : Byte) (tseq : W32) (va : W64) (s : State) : Host.Outcome State Fault Refusal :=
  .next ((s.packet h (.queryStatus ring tseq va)).served)

/-- QUERY_TELEMETRY (R520). Command that writes one sensor record for each requested sensor code. -/
def execQueryTelemetry (h : Hdr) (first count : W16) (va : W64) (len : W32) (s : State) : Host.Outcome State Fault Refusal :=
  .next ((s.packet h (.queryTelemetry first count va len)).served)

/-- DIAG_SENTINEL (R424). Command that runs sentinels on demand and writes the fingerprints of failures. -/
def execDiagSentinel (h : Hdr) (engine pattern cond : Byte) (va : W64) (len : W32) (s : State) : Host.Outcome State Fault Refusal :=
  .next ((s.packet h (.diagSentinel engine pattern cond va len)).served)

/-- DIAG_BIST (R475). Command that takes a slice, core or channel out of use and runs its BIST. -/
def execDiagBist (h : Hdr) (unit : W16) (level : Byte) (va : W64) (len : W32) (s : State) : Host.Outcome State Fault Refusal :=
  .next ((s.packet h (.diagBist unit level va len)).served)

/-- DIAG_PRBS (R476). Command that runs a PRBS pattern on a disabled link and writes per-lane error counts. -/
def execDiagPrbs (h : Hdr) (link pattern : Byte) (duration : W16) (va : W64) (s : State) : Host.Outcome State Fault Refusal :=
  .next ((s.packet h (.diagPrbs link pattern duration va)).served)

/-- DIAG_EMBER_READ (R449). Command that copies part of an ember record into context 0 memory. -/
def execDiagEmberRead (h : Hdr) (src : Byte) (index : W16) (offset va : W64) (len : W32) (s : State) : Host.Outcome State Fault Refusal :=
  .next ((s.packet h (.diagEmberRead src index offset va len)).served)

/-- INJECT_UNIT_HANG (R450). Injection that makes the target unit stop making progress until it is reset. -/
def execInjectUnitHang (h : Hdr) (target count code : W16) (s : State) : Host.Outcome State Fault Refusal :=
  .next ((s.packet h (.injectUnitHang target count code)).served)

/-- INJECT_CHECK_FLIP (R450). Injection that flips one product bit in the next chunks on a slice. -/
def execInjectCheckFlip (h : Hdr) (target count code : W16) (s : State) : Host.Outcome State Fault Refusal :=
  .next ((s.packet h (.injectCheckFlip target count code)).served)

/-- INJECT_ECC_CE (R450). Injection of correctable errors on an HBM channel. -/
def execInjectEccCe (h : Hdr) (target count code : W16) (s : State) : Host.Outcome State Fault Refusal :=
  .next ((s.packet h (.injectEccCe target count code)).served)

/-- INJECT_ECC_UE (R450). Injection of one uncorrectable error on an HBM channel. -/
def execInjectEccUe (h : Hdr) (target count code : W16) (s : State) : Host.Outcome State Fault Refusal :=
  .next ((s.packet h (.injectEccUe target count code)).served)

/-- INJECT_DEVICE_RESET (R450). Injection that starts a device reset under R442. -/
def execInjectDeviceReset (h : Hdr) (target count code : W16) (s : State) : Host.Outcome State Fault Refusal :=
  .next ((s.packet h (.injectDeviceReset target count code)).served)

/-- INJECT_EVENT_FLOOD (R450). Injection that raises COUNT events of a given code. -/
def execInjectEventFlood (h : Hdr) (target count code : W16) (s : State) : Host.Outcome State Fault Refusal :=
  .next ((s.packet h (.injectEventFlood target count code)).served)

end Sys2Proof.Machine
end

