-- ==== Sys2Proof/Machine/PowerRows.lean ====
section
/-! DEFINITION. PWR and the sensors: capping, clock steps, limits and bands (R24, R27, R515-R519, R526). -/
namespace Sys2Proof.Machine

/-! ### The clock (R24, R27, R515, R516) -/

/-- Lowest core clock PWR goes to, and its step, MHz. -/
def clockFloor : Nat := 1000
def clockStepMhz : Nat := 50

/-- The core clock takes a value; CAPPED shows that it lies below that of the POWER mode. -/
def State.setClock (s : State) (mhz : Nat) : State :=
  { s with power := { s.power with mhz }, mode := { s.mode with capped := decide (mhz < modeMhz s.mode.powerNow.val) } }

/-- CLOCK_STEP: one sample of the input power. Above the limit, or while a sensor of R519 throttles, the clock goes down one
step; once 10 ms of samples have stayed 50 W below the limit, up one. The 1 ms average is measured: a free value. -/
def State.clockStep (s : State) (watts : Nat) (settled : Bool) : State :=
  let limit := s.powerLimit
  let avg := (Config.freeNat s.free) % 2 ^ 16
  let s := { s with power := { s.power with avg }, free := s.free + 1 }
  if limit < watts || s.thermal then s.setClock (max clockFloor (s.power.mhz - clockStepMhz))
  else if settled && decide (watts + 50 < limit) then s.setClock (min (modeMhz s.mode.powerNow.val) (s.power.mhz + clockStepMhz))
  else s

def execClockStep (watts : W16) (settled : Bool) (s : State) : Host.Outcome State Fault Refusal :=
  .next (if s.boot.run = .running then s.clockStep watts.toNat settled else s)

/-- CLOCK_CHANGE_DONE (R24, R526): the clock of the POWER mode is reached, or what the cap leaves of it; MXE issue goes on. -/
def execClockChangeDone (s : State) : Host.Outcome State Fault Refusal :=
  .next (if s.power.changing then
      let top := modeMhz s.mode.powerNow.val
      let s := ({ s with power := { s.power with changing := false } }).setClock (if s.mode.capped then min s.power.mhz top else top)
      (List.finRange 64).foldl State.pumpEngine s
    else s)

/-! ### Bands of the sensors (R518, R519) -/

/-- A limit of a sensor: the band it opens, and where it lies. -/
inductive Limit where
  | above (band : Nat) (at_ : Int)
  | below (band : Nat) (at_ : Int)
  | outside (band : Nat) (low high : Int)
deriving DecidableEq, Repr

def Limit.band : Limit → Nat
  | .above b _ => b
  | .below b _ => b
  | .outside b _ _ => b

/-- A reading lies beyond a limit, or within a margin of it. -/
def Limit.beyond (l : Limit) (v margin : Int) : Bool :=
  match l with
  | .above _ a => decide (a - margin < v)
  | .below _ a => decide (v < a + margin)
  | .outside _ a b => decide (v < a + margin) || decide (b - margin < v)

/-- Limits of a sensor, in its unit (R518). -/
def limitsOf (code : Nat) : List Limit :=
  let up (w t c : Int) : List Limit := [.above 1 w, .above 2 t, .above 3 c]
  if code = 0 then up 450 480 550
  else if code = 1 then up 580 620 700
  else if code = 2 then [.below 1 400, .below 2 350, .below 3 250]
  else if code = 3 then [.above 1 600]
  else if 0x10 ≤ code ∧ code ≤ 0x1B then up 950 1000 1100
  else if 0x20 ≤ code ∧ code ≤ 0x37 then up 850 900 1000
  else if code = 0x38 ∨ code = 0x39 then up 700 750 850
  else if code = 0x3A then up 1000 1100 1250
  else if code = 0x40 then [.outside 1 2650 3950]
  else if code = 0x41 then [.above 1 1350, .above 3 1400]
  else if code = 0x43 then [.outside 1 5100 5700, .outside 3 4800 6000]
  else []

/-- Hysteresis: 3 °C, 0.3 L/min; none is stated of the other sensors. -/
def hysteresis (code : Nat) : Int := if code ≤ 2 ∨ (0x10 ≤ code ∧ code ≤ 0x3A) then 30 else 0

/-- The band of a reading, from the band before it. -/
def bandOf (code : Nat) (v : Int) (before : Nat) : Nat :=
  (limitsOf code).foldl (fun n l => if l.beyond v 0 || (decide (l.band ≤ before) && l.beyond v (hysteresis code)) then max n l.band else n) 0

def stateOf (band : Nat) : SnsState := if band = 0 then .ok else if band = 1 then .warn else if band = 2 then .throttle else .critical

def SnsState.band : SnsState → Nat
  | .ok | .absent => 0
  | .warn => 1
  | .throttle => 2
  | .critical => 3

/-- The flow is CRITICAL only after 1 s below the limit: a reading there counts when the one before it was there too. -/
def State.flowHeld (s : State) : Bool := (s.band 2).band ≠ 0 && decide ((s.sensor 2).1.toInt < 250)

/-- SNS_MAX of a path's bank keeps the highest reading since it was read. -/
def RegBank.noteMax (b : RegBank) (code : Nat) (v : W32) : RegBank :=
  match b.rc.find? fun e => e.1 == (offSnsMax, code) with
  | some e => if (BitVec.ofNat 32 e.2).toInt < v.toInt then { b with rc := assocSet b.rc (offSnsMax, code) v.toNat } else b
  | none => { b with rc := assocSet b.rc (offSnsMax, code) v.toNat }

/-- A sensor takes a reading and a band. -/
def State.setSensor (s : State) (code : Nat) (v : W32) (st : SnsState) : State :=
  { s with power := { s.power with sensors := s.power.sensors.map fun (x : Nat × W32 × SnsState) => if x.1 = code then (code, v, st) else x
                                   avg := if code = 0x42 then v.toNat % 2 ^ 16 else s.power.avg }
           hostBank := s.hostBank.noteMax code v
           mgtBank := s.mgtBank.noteMax code v
           fwBanks := s.fwBanks.map fun (b : RegBank) => b.noteMax code v }

/-- PLDM event class of a sensor event. -/
def pldmSensorClass : Byte := 0x00

/-- PWR removes the main domain without a capture; the module starts again. In vigil it takes the power of the links. -/
def State.thermalTrip (s : State) : State :=
  let s := { s with power := { s.power with thermN := true } }
  match s.boot.run with
  | .running => s.restart
  | .starting _ => s.restart
  | .vigil => { s with fab := { s.fab with heldDown := BitVec.allOnes 14, links := s.fab.links.map fun (_ : Link) => {} } }
  | _ => s

/-- SENSOR_THRESHOLD (R519). -/
def State.sensorCross (s : State) (code : Nat) (v : W32) : State :=
  let before := (s.band code).band
  let n := bandOf code v.toInt before
  let n := if code = 2 ∧ n = 3 ∧ before < 3 ∧ !s.flowHeld then 2 else n
  let s := s.setSensor code v (stateOf n)
  let s := if n = before then s
    else { s with mgt := { s.mgt with events := (pldmSensorClass, le 2 (code + 0x100) ++ [BitVec.ofNat 8 n] ++ le 4 v.toNat) :: s.mgt.events } }
  let s := if 0x20 ≤ code ∧ code ≤ 0x37 then
      (let bit : BitVec 24 := BitVec.ofNat 24 (2 ^ (code - 0x20))
       { s with power := { s.power with refresh2 := if 2 ≤ n then s.power.refresh2 ||| bit else s.power.refresh2 &&& ~~~bit } })
    else s
  let s := { s with power := { s.power with thermN := s.power.thermN && s.power.sensors.any fun x => x.2.2 == .critical } }
  if n = 3 ∧ before < 3 then s.thermalTrip else s

def execSensorThreshold (code : W16) (value : W32) (s : State) : Host.Outcome State Fault Refusal :=
  .next (if s.power.sensors.any fun x => x.1 == code.toNat then s.sensorCross code.toNat value else s)

end Sys2Proof.Machine
end

