-- ==== Sys2Proof/Machine/Stream.lean ====
section
/-! DEFINITION. Stream programs at work: instructions, waits, granules, multicasts, deadlines and faults (R138-R161, R209). A
command of this part names an engine and a physical program slot. An instruction runs when it is the one the program stands
at, and nothing holds the program up. -/
namespace Sys2Proof.Machine

/-! ### Where a program stands -/

/-- The instruction at a program's place; past the last one, END (R138). -/
def Prog.instr? (x : Prog) : Option SInstr :=
  match (x.image[x.ip]? : Option W64) with
  | none => some .fin
  | some w => sInstr? w

/-- At the end of a REP block: the next repetition, or the way on; blocks that end together end one after the other (R142). -/
def Prog.endBlocks (x : Prog) : Nat → Prog
  | 0 => x
  | n + 1 => match x.reps with
    | b :: t =>
      if x.ip ≠ b.stop then x
      else
        let left := x.rc[b.ctr] - 1
        let x := { x with rc := vmod x.rc b.ctr fun _ => left }
        if 0 < left then { x with ip := b.start } else ({ x with reps := t }).endBlocks n
    | [] => x

/-- Go on to an instruction. -/
def Prog.goTo (x : Prog) (ip : Nat) : Prog := ({ x with ip, wait := .running }).endBlocks 4
def Prog.next (x : Prog) : Prog := x.goTo (x.ip + 1)

/-- The program may run an instruction: its slot holds one, nothing is awaited, its last MOVE has issued, its slice works. -/
def State.progReady (s : State) (e : EngineId) (p : Fin 16) : Bool :=
  let x := s.prog e p
  x.cid != 0 && x.wait == .running && x.todo.isEmpty && !(s.slice e).hung

/-- Run an instruction that the program stands at. -/
def State.stream (s : State) (e : EngineId) (p : Fin 16) (i : SInstr) (f : State → Cmd → Prog → State) : State :=
  if s.progReady e p && (s.prog e p).instr? == some i then
    (match s.cmd? (s.prog e p).cid with
     | some c => f s c (s.prog e p)
     | none => s)
  else s

/-- An instruction that only changes its own program. -/
def State.streamOwn (s : State) (e : EngineId) (p : Fin 16) (i : SInstr) (f : Prog → Prog) : Host.Outcome State Fault Refusal :=
  .next (s.stream e p i fun s _ _ => s.modProg e p f)

/-- An instruction that sets registers (R140). -/
def Prog.setRegs (i : SInstr) (x : Prog) : Prog := ({ x with regs := x.regs.apply i }).next

def execStreamAddr (e : EngineId) (p : Fin 16) (ar : Fin 4) (va : BitVec 52) (s : State) : Host.Outcome State Fault Refusal :=
  s.streamOwn e p (.addr ar va) (Prog.setRegs (.addr ar va))

def execStreamLoff (e : EngineId) (p : Fin 16) (lo : Fin 4) (off : BitVec 22) (s : State) : Host.Outcome State Fault Refusal :=
  s.streamOwn e p (.loff lo off) (Prog.setRegs (.loff lo off))

def execStreamDim (e : EngineId) (p : Fin 16) (lvl : Fin 4) (count : BitVec 22) (mstride : BitVec 36) (s : State) :
    Host.Outcome State Fault Refusal :=
  s.streamOwn e p (.dim lvl count mstride) (Prog.setRegs (.dim lvl count mstride))

def execStreamLdim (e : EngineId) (p : Fin 16) (lvl : Fin 4) (lstride : BitVec 23) (s : State) : Host.Outcome State Fault Refusal :=
  s.streamOwn e p (.ldim lvl lstride) (Prog.setRegs (.ldim lvl lstride))

def execStreamStep (e : EngineId) (p : Fin 16) (loff : Bool) (idx : Fin 4) (inc : BitVec 36) (s : State) : Host.Outcome State Fault Refusal :=
  s.streamOwn e p (.step loff idx inc) (Prog.setRegs (.step loff idx inc))

/-- BUFDEF: the buffer is defined, and EMPTY. -/
def execStreamBufdef (e : EngineId) (p : Fin 16) (buf : Fin 4) (first : Fin 16) (banks : BitVec 5) (s : State) : Host.Outcome State Fault Refusal :=
  s.streamOwn e p (.bufdef buf first banks) fun x =>
    ({ x with bufs := vmod x.bufs buf fun _ => { defined := true, first := first.val, banks := banks.toNat } }).next

/-- REP (R142). -/
def execStreamRep (e : EngineId) (p : Fin 16) (ctr : Fin 4) (len : BitVec 6) (count : BitVec 20) (s : State) : Host.Outcome State Fault Refusal :=
  s.streamOwn e p (.rep ctr len count) fun x =>
    if count = 0 then x.goTo (x.ip + 1 + len.toNat)
    else
      let b : RepBlk := { ctr, start := x.ip + 1, stop := x.ip + 1 + len.toNat }
      ({ x with rc := vmod x.rc ctr fun _ => count.toNat, reps := b :: x.reps }).goTo (x.ip + 1)

/-- END: the program ends once every granule of it has been delivered. -/
def Prog.finish (x : Prog) : Prog := { x with wait := if x.flight.isEmpty && x.todo.isEmpty then .ended else .closing }

def execStreamEnd (e : EngineId) (p : Fin 16) (s : State) : Host.Outcome State Fault Refusal := s.streamOwn e p .fin Prog.finish

/-! ### Buffers (R144) -/

/-- A granule of a direction into or out of a buffer is undelivered. -/
def Prog.moving (x : Prog) (toMem : Bool) (b : Fin 4) : Bool := (x.flight ++ x.todo).any fun g => g.toMem == toMem && decide (g.buf = b)

/-- A SIGNAL that waited for granules takes effect, and a program that has run END ends. -/
def Prog.settle (x : Prog) : Prog :=
  match x.wait with
  | .signalFull b => if x.moving false b then x else (x.setFull b).next
  | .signalEmpty b => if x.moving true b then x else (x.setEmpty b).next
  | .closing => x.finish
  | _ => x

/-- The units of a command are at work: it is not ahead of its tick, and a MATMUL has started a tile. -/
def Cmd.unitsRun (c : Cmd) : Bool := !c.runAhead && (!c.isMatmul || c.issuing)

/-- A consuming unit reads the input blocks up to the one in a buffer. -/
def Prog.readTo (x : Prog) (c : Cmd) (b : Fin 4) : Prog :=
  match c.rotOf (inputsOf c) x.rel b with
  | some t => if c.unitsRun && (x.bufs[b]).full then x.takeTurns t true b 4 else x
  | none => x

/-- A producing unit that has its inputs writes the output blocks up to the one in a buffer. -/
def Prog.writeTo (x : Prog) (c : Cmd) (fed : Bool) (b : Fin 4) : Prog :=
  match c.rotOf (outputsOf c) x.rel b with
  | some t => if c.unitsRun && fed && !(x.bufs[b]).full then x.takeTurns t false b 4 else x
  | none => x

/-- The unit that shares the buffer a program waits for takes its turn: it reads an input buffer and sets it EMPTY, or writes an
output buffer and sets it FULL, in the order of the rotation (R144). -/
def Prog.unitTurn (x : Prog) (c : Cmd) (fed : Bool) : Prog :=
  match x.wait with
  | .bufEmpty b => x.readTo c b
  | .recv b _ _ false => x.readTo c b
  | .bufFull b => x.writeTo c fed b
  | _ => x

/-- What a WAIT or a RECV waits for is there. -/
def State.waitOver (s : State) (x : Prog) : Bool :=
  match x.wait with
  | .bufEmpty b => !(x.bufs[b]).full
  | .bufFull b => (x.bufs[b]).full
  | .sem k v => decide (v ≤ s.semCount k)
  | .tick n => decide (n < s.tick.now)
  | _ => false

/-- What WAIT waits for (R140). -/
def State.waitFor (s : State) (kind buf : Fin 4) (sem : SemId) (value : W16) : PWait :=
  match kind.val with
  | 0 => .bufEmpty buf
  | 1 => .bufFull buf
  | 2 => .sem sem value.toNat
  | _ => .tick s.tick.now

/-- WAIT: the program goes on at once where the condition holds (R144, R145). -/
def execStreamWait (e : EngineId) (p : Fin 16) (kind : Fin 4) (buf : Fin 4) (sem : SemId) (value : W16) (s : State) :
    Host.Outcome State Fault Refusal :=
  .next (s.stream e p (.wait kind buf sem value) fun s _ x =>
    let y := { x with wait := s.waitFor kind buf sem value }
    s.modProg e p fun _ => if s.waitOver y then y.next else y)

/-- A RECV whose buffer is EMPTY posts (R147). -/
def Prog.post (x : Prog) : Prog :=
  match x.wait with
  | .recv b l k false => if (x.bufs[b]).full then x else { x with wait := .recv b l k true }
  | _ => x

/-- Multicasts of a leader to a member that a command has come to: whether each moves nothing. -/
def Cmd.castsTo (c : Cmd) (leader member : EngineId) : List Bool :=
  (c.mcasts.filter fun x => x.1 == leader && x.2.1 == member).map (·.2.2)

/-- A posted RECV whose multicast moves no granule (R141) is complete. -/
def Prog.recvNothing (x : Prog) (c : Cmd) (e : EngineId) : Prog :=
  match x.wait with
  | .recv b l k true => if (c.castsTo (Fin.ofNat 64 (octavePos e l.val)) e).getD k false then (x.setFull b).next else x
  | _ => x

/-- WAIT_RESUME: the unit that shares the buffer takes its turn, and the program goes on if what it awaits holds. -/
def execWaitResume (e : EngineId) (p : Fin 16) (s : State) : Host.Outcome State Fault Refusal :=
  .next (match s.cmd? (s.prog e p).cid with
    | none => s
    | some c =>
      if (s.slice e).hung then s
      else
        let x := (((s.prog e p).unitTurn c (s.inputsFed c e)).post).recvNothing c e
        s.modProg e p fun _ => if s.waitOver x then x.next else x)

/-- SIGNAL (R144, R145): FULL and EMPTY wait for the granules of earlier MOVEs; a semaphore is added to at commit. -/
def execStreamSignal (e : EngineId) (p : Fin 16) (kind : Fin 4) (buf : Fin 4) (sem : SemId) (value : W16) (s : State) :
    Host.Outcome State Fault Refusal :=
  .next (s.stream e p (.signal kind buf sem value) fun s c x =>
    if kind = 0 then s.modProg e p fun _ => ({ x with wait := .signalFull buf }).settle
    else if kind = 1 then s.modProg e p fun _ => ({ x with wait := .signalEmpty buf }).settle
    else (s.modCmd c.cid fun d => { d with semAdds := d.semAdds ++ [(sem, value.toNat, e, p)] }).modProg e p Prog.next)

/-- RECV (R147): waits for its buffer to be EMPTY, then posts. The n-th of an engine that names a leader takes the leader's n-th
multicast to it. -/
def execStreamRecv (e : EngineId) (p : Fin 16) (buf : Fin 4) (leader : Fin 8) (s : State) : Host.Outcome State Fault Refusal :=
  .next (s.stream e p (.recv buf leader) fun s c _ =>
    let l : EngineId := Fin.ofNat 64 (octavePos e leader.val)
    let n := (c.recvs.filter (· == (l, e))).length
    (s.modCmd c.cid fun d => { d with recvs := d.recvs ++ [(l, e)] }).modProg e p fun x => ({ x with wait := .recv buf leader n false }).post)

/-! ### Deadlines (R149-R151) -/

/-- DEADLINE: NS after the command's issue, the current tick, or the buffer's previous deadline. -/
def execStreamDeadline (e : EngineId) (p : Fin 16) (buf : Fin 4) (abort : Bool) (base : Fin 4) (ns : W32) (s : State) :
    Host.Outcome State Fault Refusal :=
  .next (s.stream e p (.deadline buf abort base ns) fun s c x =>
    let from_ := if base = 1 then s.tickNs s.tick.now
      else if base = 2 then ((x.bufs[buf]).lastDeadline).getD c.issueNs else c.issueNs
    let t := from_ + ns.toNat
    s.modProg e p fun x =>
      ({ x with bufs := vmod x.bufs buf fun b => { b with armed := some (t, if abort then .abort else .report), lastDeadline := some t } }).next)

/-- DETAIL of ST_DEADLINE_MISS (R151). -/
def missDetail (e : EngineId) (p : Fin 16) (buf : Fin 4) (late : W32) : W64 :=
  BitVec.ofNat 64 (e.val * 2 ^ 58 + p.val * 2 ^ 54 + buf.val * 2 ^ 52 + late.toNat)

/-- DEADLINE_EXPIRY: an armed deadline that no SIGNAL or RECV has met passes in the current tick or has passed. -/
def State.deadlinePassed (s : State) (e : EngineId) (p : Fin 16) (buf : Fin 4) (late : W32) : State :=
  let x := s.prog e p
  match s.cmd? x.cid, (x.bufs[buf]).armed with
  | some c, some (t, mode) =>
    if s.tickNs (s.tick.now + 1) < t then s
    else
      let s := (s.count offMiss e.val 1).modProg e p fun y => { y with bufs := vmod y.bufs buf fun b => { b with armed := none } }
      match mode with
      | .report => s.raise evDeadlineMiss (unitSlice (s.slotOfEng e)) (some c.ctx) none [c.seq, BitVec.ofNat 32 buf.val]
      | .abort => ((match s.weightFault c.cid with
          | some f => s.failPart c.cid stWeightUnavailable (s.heldDetail f)
          | none => s.failCid c.cid stDeadlineMiss (missDetail e p buf late)).placeAll).served
  | _, _ => s

def execDeadlineExpiry (e : EngineId) (p : Fin 16) (buf : Fin 4) (late : W32) (s : State) : Host.Outcome State Fault Refusal :=
  .next (s.deadlinePassed e p buf late)

/-- Commands on slices that serve rows with a deadline, on which the loop arms it (R496). -/
def State.armedRows (s : State) : List Cmd := s.sched.cmds.filter fun c => sliceOp (opCode c.op) && c.running && !c.fixed && c.dueTick.isSome

/-- The deadlines of rows pass with their tick (R150, R496): class 0 work under SERVE_LIVE and MIXED is killed, other work is
reported. Which program and buffer of the command the loop arms is not said: the miss is the lowest engine's, and the DETAIL names
its first program and buffer with a free lateness. DESIGN CHOICE. -/
def State.serveDeadlines (s : State) : State :=
  let aborts (c : Cmd) : Bool := decide (c.prio = 0) && (s.mode.roleNow == roleServeLive || s.mode.roleNow == roleMixed)
  s.armedRows.foldl (fun s c =>
    let e : EngineId := Fin.ofNat 64 c.firstEng
    if aborts c && c.dueTick.any (fun d => decide (d ≤ s.tick.now)) then
      let s := s.count offMiss e.val 1
      (match s.weightFault c.cid with
       | some f => s.failPart c.cid stWeightUnavailable (s.heldDetail f)
       | none => { s with free := s.free + 1 }.failCid c.cid stDeadlineMiss (missDetail e 0 0 (Config.freeWord s.free))).placeAll
    else if c.dueTick = some s.tick.now then
      (s.count offMiss e.val 1).raise evDeadlineMiss (unitSlice (s.slotOfEng e)) (some c.ctx) none [c.seq, 0]
    else s) s

/-! ### Granules (R141, R146, R147, R152-R154) -/

/-- Members of a multicast other than the leader. -/
def membersOf (e : EngineId) (mcast : Byte) : List EngineId :=
  ((List.range 8).filter fun k => mcast.getLsbD k).filterMap fun k =>
    let m := octavePos e k
    if m = e.val then none else some (Fin.ofNat 64 m)

/-- Granules of a MOVE, numbered from the program's next position. -/
def Prog.granules (x : Prog) (sl : Slice) (c : Cmd) (e : EngineId) (toMem : Bool) (ar lo : Fin 4) (gsz : Fin 8) (buf : Fin 4) (mcast : Byte)
    (alloc : Fin 4) : List Granule :=
  let gs := x.regs.nest ar lo
  let ep := sl.epochs ((x.bufs[buf]).physical (c.banksOn e))
  let nos := (membersOf e mcast).map fun m => (m, (c.castsTo e m).length)
  ((List.range gs.length).zip gs).map fun g =>
    { pos := x.nextPos + g.1, va := g.2.va, lst := g.2.lst.toNat, size := gszBytes gsz, buf, toMem, mcast, idx := g.2.idx,
      requested := mcast == 0, alloc, ip := x.ip, run := x.moves, epochs := ep, regs := x.regs, rc := x.rc, nos }

/-- MOVE: the loop nest's granules are issued, as credits and the window allow. -/
def execStreamMove (e : EngineId) (p : Fin 16) (toMem : Bool) (ar lo : Fin 4) (gsz : Fin 8) (buf : Fin 4) (mcast : Byte) (alloc : Fin 4) (s : State) :
    Host.Outcome State Fault Refusal :=
  .next (s.stream e p (.move toMem ar lo gsz buf mcast alloc) fun s c x =>
    let gs := x.granules (s.slice e) c e toMem ar lo gsz buf mcast alloc
    let s := if mcast = 0 then s
      else s.modCmd c.cid fun d => { d with mcasts := d.mcasts ++ (membersOf e mcast).map fun m => (e, m, gs.isEmpty) }
    (s.modProg e p fun x => ({ x with todo := gs, nextPos := x.nextPos + gs.length, moves := x.moves + 1 }).next).pumpEngine e)

/-- The slot of a member whose program has posted the RECV that a multicast granule goes to: of those that name the leader, the one
with the multicast's number (R147). -/
def State.postedBy (s : State) (m e : EngineId) (x : Prog) (g : Granule) : Option (Fin 16) :=
  (List.finRange 16).find? fun q =>
    let y := s.prog m q
    y.cid == x.cid && (match y.wait with
      | .recv _ l k true => decide (l.val = e.val % 8) && g.nos.contains (m, k)
      | _ => false)

/-- The buffer a member receives into. -/
def Prog.recvBuf (y : Prog) : Option (Fin 4) :=
  match y.wait with
  | .recv b _ _ _ => some b
  | _ => none

/-- Bytes of a buffer. -/
def Buffer.bytes (b : Buffer) : Nat := b.banks * 2 ^ 18

/-- MULTICAST_REQUEST (R147): the hub requests the leader's oldest multicast granules once every member has posted and the
leader's own buffer, if it is named, is EMPTY: its unit reads it first, if it is still FULL. A member's buffer that is too small kills
the command. -/
def State.multicast (s : State) (e : EngineId) (p : Fin 16) : State :=
  match (s.prog e p).flight.find? fun g => !g.requested with
  | none => s
  | some g =>
    let s : State := match s.cmd? (s.prog e p).cid with
      | some c => if g.mcast.getLsbD (e.val % 8) && !(s.slice e).hung then s.modProg e p fun y => y.readTo c g.buf else s
      | none => s
    let x := s.prog e p
    let ms := membersOf e g.mcast
    let run := (x.flight ++ x.todo).filter fun h => h.run == g.run
    let need := run.foldl (fun n h => max n (h.lst + h.size)) 0
    let earlier := (x.flight ++ x.todo).any fun h => decide (h.run < g.run) && h.mcast != 0
    if earlier || (s.slice e).hung || (g.mcast.getLsbD (e.val % 8) && (x.bufs[g.buf]).full) then s
    else
      let posts := ms.map fun m => (m, s.postedBy m e x g)
      if !posts.all fun q => q.2.isSome then s
      else if posts.any fun q => q.2.any fun k => (s.prog q.1 k).recvBuf.any fun b => decide (((s.prog q.1 k).bufs[b]).bytes < need) then
        ((s.failCid x.cid stBounds 0).placeAll).served
      else s.modProg e p fun y => { y with flight := y.flight.map fun h => if h.run = g.run then { h with requested := true } else h }

def execMulticastRequest (e : EngineId) (p : Fin 16) (s : State) : Host.Outcome State Fault Refusal := .next (s.multicast e p)

/-- Write bytes into a buffer of the local store. -/
def State.fillBuffer (s : State) (e : EngineId) (b : Buffer) (bs : List (Fin 16)) (off : Nat) (bytes : List Byte) : State :=
  s.setMem (((List.range bytes.length).zip bytes).foldl (fun m x => memWrite m (b.key e bs (off + x.1)) x.2) s.mem)

/-- A read granule lands in a buffer of an engine, where no unit has read it yet. -/
def State.landIn (s : State) (e : EngineId) (q : Fin 16) (c : Cmd) (b : Fin 4) (off : Nat) (bytes : List Byte) : State :=
  (s.fillBuffer e ((s.prog e q).bufs[b]) (c.banksOn e) off bytes).modProg e q fun y =>
    { y with bufs := vmod y.bufs b fun z => { z with unread := z.unread + bytes.length } }

/-- Read bytes of a buffer of the local store. -/
def State.bufferBytes (s : State) (e : EngineId) (b : Buffer) (bs : List (Fin 16)) (off n : Nat) : List Byte :=
  (List.range n).map fun k => memRead s.mem (b.key e bs (off + k))

/-- The granule may be delivered: its context is the one it was issued for, and its banks are the command's (R146). -/
def State.granuleLive (s : State) (e : EngineId) (c : Cmd) (x : Prog) (g : Granule) : Bool :=
  (s.ctx c.ctx).gen == c.gen && (s.slice e).epochs ((x.bufs[g.buf]).physical (c.banksOn e)) == g.epochs

/-- A read granule is written to the buffers it goes to; a written one leaves the local store. What the units of the command
produce goes to memory at its commit or as it lands; bytes of a buffer that no unit shares are the buffer's own. -/
def State.deliver (s : State) (e : EngineId) (p : Fin 16) (c : Cmd) (x : Prog) (g : Granule) : State :=
  if g.toMem then
    (if (c.rotOf (outputsOf c) x.rel g.buf).isSome then s
     else
       let cells := cellsAt g.va (s.bufferBytes e (x.bufs[g.buf]) (c.banksOn e) g.lst g.size)
       if c.fixed then s.writeCells c.ctx cells else s.modCmd c.cid fun d => { d with staged := d.staged ++ cells })
  else
    let bytes := s.seenBytes c g.va g.size
    let s := if g.mcast = 0 ∨ g.mcast.getLsbD (e.val % 8) then s.landIn e p c g.buf g.lst bytes else s
    (membersOf e g.mcast).foldl (fun s m => match s.postedBy m e x g with
      | some q => match (s.prog m q).recvBuf with
        | some b => s.landIn m q c b g.lst bytes
        | none => s
      | none => s) s

/-- The granule has been delivered. -/
def Prog.arrived (x : Prog) (g : Granule) : Prog :=
  let x := { x with flight := x.flight.filter fun h => h.pos != g.pos, ahead := x.ahead ++ [g.pos] }
  ({ x with ahead := x.ahead.filter fun k => decide (x.oldest < k) }).settle

/-- The last granule of a multicast has arrived: each member's RECV completes, and its buffer is FULL. -/
def State.endReceives (s : State) (e : EngineId) (x : Prog) (g : Granule) : State :=
  if g.mcast = 0 || (x.flight ++ x.todo).any fun h => h.run == g.run && h.pos != g.pos then s
  else (membersOf e g.mcast).foldl (fun s m => match s.postedBy m e x g with
    | some q => match (s.prog m q).recvBuf with
      | some b => s.modProg m q fun y => (y.setFull b).next
      | none => s
    | none => s) s

/-- Frame of T2 that holds an address of a context. -/
def State.frameOf (s : State) (c : CtxId) (va : Nat) : Option Nat :=
  (s.pageAt? c va).bind fun p => if p.tier = .t2 ∧ !p.zero then some (p.frame + (va - p.va) / 2 ^ 21) else none

/-- What ECC reports of a granule read from an address: an error of the stack that holds it; a page in no local frame has none here. -/
def State.granuleEcc (s : State) (c : CtxId) (va : Nat) (ecc : Ecc) : State :=
  match s.frameOf c va with
  | some f => s.eccEvent (Fin.ofNat 24 f) (some c) (some f) ecc
  | none => match ecc with
    | .ue .. => s.poisonPages fun p => p.inRange c va 1
    | _ => s

/-- A granule of a cancelled program arrives: it is discarded, its credit returns, and a read one is waste (R146, R152, R153). One
of a generation that is over is a drop of its context (R247). -/
def State.lateArrive (s : State) (e : EngineId) (p : Fin 16) (pos : Nat) (ecc : Ecc) : State :=
  match (s.slice e).late.find? fun l => decide (l.slot = p) && l.gran.pos == pos with
  | none => s
  | some l =>
    let s := if l.gran.toMem then s
      else (s.granuleEcc l.ctx l.gran.va ecc).count offWaste e.val (ceilDiv l.gran.size 64)
    let s := if l.gen == (s.ctx l.ctx).gen && s.live l.ctx then s else s.genDrop l.ctx
    (s.modSlice e fun x => { x with late := x.late.erase l }).pumpEngine e

/-- GRANULE_ARRIVAL: the granule at a nest position arrives. One read with an uncorrectable error is not delivered, and its
command ends (R158). -/
def State.granuleArrive (s : State) (e : EngineId) (p : Fin 16) (pos : Nat) (ecc : Ecc) : State :=
  let x := s.prog e p
  match s.cmd? x.cid, x.flight.find? fun g => g.pos == pos && g.requested with
  | some c, some g =>
    let s := if g.toMem then s else s.granuleEcc c.ctx g.va ecc
    let s := if g.toMem && !c.fixed then s else s.t1Access c.ctx c.gen g.va g.size g.alloc.val g.toMem
    let lost := !g.toMem && (match ecc with
      | .ue .. => true
      | _ => false)
    if lost then (((s.modProg e p fun y => { y with wait := .faulted }).failPart c.cid stUncorrectable (BitVec.ofNat 64 (e.val * 2 ^ 58 + p.val * 2 ^ 54 + g.va / 2 ^ 16 % 2 ^ 36))).placeAll).served
    else if !s.granuleLive e c x g then
      ((s.count offWaste e.val (ceilDiv g.size 64)).modProg e p fun y => { y with flight := y.flight.filter fun h => h.pos != pos }).pumpEngine e
    else (((s.deliver e p c x g).endReceives e x g).modProg e p fun y => y.arrived g).pumpEngine e
  | _, _ => s.lateArrive e p pos ecc

def execGranuleArrival (e : EngineId) (p : Fin 16) (pos : Nat) (ecc : Ecc) (s : State) : Host.Outcome State Fault Refusal :=
  .next (State.placeAll (s.granuleArrive e p pos ecc))

/-- A granule goes back to be requested again, in nest order. -/
def Prog.putBack (x : Prog) (g : Granule) : Prog :=
  { x with flight := x.flight.filter fun h => h.pos != g.pos, todo := insertBy (·.pos) { g with requested := g.mcast == 0 } x.todo }

/-- GRANULE_FAULT (R154-R157): TMU cannot serve a granule in flight. The program records its cursor and stops; one that is
FAULTED already asks for the granule again on resume. -/
def State.granuleFault (s : State) (e : EngineId) (p : Fin 16) (pos : Nat) : State :=
  let x := s.prog e p
  match s.cmd? x.cid, x.flight.find? fun g => g.pos == pos && g.requested with
  | some c, some g =>
    match s.access c.ctx g.va g.toMem with
    | none => s
    | some cause =>
      let s := (s.count offSteFault e.val 1).modProg e p fun y => y.putBack g
      if x.wait = .faulted then s
      else
        let (s, id) := s.fault { id := 0, ctx := c.ctx, gen := c.gen, cause, write := g.toMem, src := .ste, unit := e.val, prog := p.val,
                                 va := g.va, seq := c.seq, node := c.node, tick := s.tick.now, cid := c.cid, recorded := true }
        let s := s.modProg e p fun y => { y with wait := .faulted, held := x.wait, cursor := some g, faultId := id }
        if cause = .tierLost ∧ !(s.ctx c.ctx).inWeights g.va then ((s.failFault id .tierLost).placeAll).served else s
  | _, _ => s

def execGranuleFault (e : EngineId) (p : Fin 16) (pos : Nat) (s : State) : Host.Outcome State Fault Refusal := .next (s.granuleFault e p pos)

end Sys2Proof.Machine
end

