-- ==== Sys2Proof/Machine/TickRows.lean ====
section
/-! DEFINITION. The calends tick: what starts, is repaid, refilled or ended with it (R24, R304, R306-R309, R313, R316, R317, R348,
R351, R353, R373, R374). -/
namespace Sys2Proof.Machine

/-! ### Time (R348, R351, R374) -/

/-- A collective whose placements began keeps those up to now, and those beyond are made again with what it may hold of a tick. -/
def State.replaceRest (s : State) (c : Cmd) : State :=
  let mine := s.sched.plan.filter fun p => p.cid == c.cid && decide (s.tick.now < p.tick)
  let n := (mine.map (·.amt)).sum + c.planLeft
  let h := s.holdOf c
  let l := if h = 0 then [] else ((List.range (min 15 (ceilDiv n h))).map fun k => ({ cid := c.cid, tick := s.tick.now + 1 + k, amt := min h (n - k * h) } : Place))
  (s.modSched fun g => { g with plan := (g.plan.filter fun p => !(p.cid == c.cid && decide (s.tick.now < p.tick))) ++ l }).modCmd c.cid fun d =>
    { d with planLeft := n - (l.map (·.amt)).sum }

/-- Placements of collectives beyond the current tick are made again under the new capacity of the CLE row (R374). -/
def State.replaceColls (s : State) : State :=
  (s.sched.cmds.filter fun c => isColl (opCode c.op) && (rowsOf c).contains 64 && (c.state == .placed || c.running)).foldl (fun s c =>
    if c.state = .placed ∧ s.tick.now < c.tick then
      (s.unplace c.cid).modCmd c.cid fun d => { d with state := .ready, planLeft := 0 }
    else s.replaceRest c) s

/-- A change announced for this tick applies; a new TCAL starts a new base. -/
def State.applyTiming (s : State) : State :=
  match s.tick.change with
  | none => s
  | some c =>
    if c.at_ ≠ s.tick32 then s
    else
      let t := s.tick
      let start := t.startOf t.now
      let t := if c.tcal = t.tcal then t else { t with baseT := start, baseN := t.now, tcal := c.tcal }
      ({ s with tick := { t with len1 := c.len1, start1 := c.start1, len0 := c.len0, start0 := c.start0, change := none } }).replaceColls

/-- The next tick begins: fabric time reaches its start; windows of the last one are over. -/
def State.nextTick (s : State) : State :=
  let s := s.closeWindow
  let n := s.tick.now + 1
  let s := { s with tick := { s.tick with now := n, time := BitVec.ofNat 64 (s.tick.startOf n), window := false, winNo := 0 } }
  s.applyTiming

/-! ### Modes (R24) -/

/-- POWER and ROLE take effect at the first tick after their write; GUARD where no training context waits for a step
boundary. -/
def State.tickModes (s : State) : State :=
  let m := s.mode
  let powers := m.power != m.powerNow
  { s.guardEffect with
           mode := { s.guardEffect.mode with powerNow := m.power, roleNow := m.role }
           power := { s.power with changing := s.power.changing || powers } }

/-! ### Debt and reservations (R308, R313) -/

/-- Classes. -/
def classes4 : List PrioClass := [0, 1, 2, 3]

/-- A placement of a context and class lies in a row of the current tick that holds more of them than their capacity. -/
def State.overShare (s : State) (x : CtxId) (k : PrioClass) (c : Cmd) : Bool :=
  decide (c.ctx = x) && decide (c.prio = k) && (rowsOf c).any fun r =>
    decide (s.shareCap x k r s.tick.now < s.planned r s.tick.now (fun d => decide (d.ctx = x) && decide (d.prio = k)))

/-- The most recent such placement. -/
def State.nextOver (s : State) (x : CtxId) (k : PrioClass) : Option Cmd :=
  ((s.sched.plan.reverse.filter fun p => p.tick == s.tick.now).filterMap fun p => s.cmd? p.cid).find? fun c => s.overShare x k c

/-- Displace placements until the capacity holds: a command that has not issued is READY again, one in run-ahead is
withdrawn, a running one only loses its place. `n` bounds the displacements. -/
def State.repayRoom (s : State) (x : CtxId) (k : PrioClass) : Nat → State
  | 0 => s
  | n + 1 =>
    match s.nextOver x k with
    | none => s
    | some c =>
      if c.state = .issued ∧ !c.runAhead then
        (s.modSched fun g => { g with plan := g.plan.filter fun p => !(p.cid == c.cid && p.tick == s.tick.now) }).repayRoom x k n
      else if c.state = .issued then ((s.rollback c).unplace c.cid).repayRoom x k n
      else ((s.unplace c.cid).modCmd c.cid fun d => { d with state := .ready, planLeft := 0 }).repayRoom x k n

/-- Repay debt of one context and class. -/
def State.repay (s : State) (x : CtxId) (k : PrioClass) : State :=
  let r := min (s.ctx x).debt[k] (s.ctx x).share
  if r = 0 then s
  else
    let s := (s.modCtx x fun y => { y with debt := vmod y.debt k (· - r) }).modSched fun g => { g with repaid := (x, k, r) :: g.repaid }
    s.repayRoom x k s.sched.plan.length

/-- Commands placed over the whole horizon hold H, or what they still need, in the tick that enters it. -/
def State.reserve (s : State) : State :=
  (s.sched.cmds.filter fun c => decide (0 < c.planLeft)).foldl (fun s c =>
    let h := min (s.holdOf c) c.planLeft
    (s.modSched fun g => { g with plan := g.plan ++ [{ cid := c.cid, tick := s.tick.now + 15, amt := h }] }).modCmd c.cid fun d =>
      { d with planLeft := d.planLeft - h }) s

/-- The plan moves on: past ticks leave it, debt is repaid, long commands reserve, READY commands are placed. -/
def State.tickPlan (s : State) : State :=
  let s := s.modSched fun g => { g with plan := g.plan.filter fun p => decide (s.tick.now ≤ p.tick), repaid := [] }
  let s := allCtx.foldl (fun s x => classes4.foldl (fun s k => s.repay x k) s) s
  (s.reserve).placeAll

/-- Class 0 commands whose tick has come issue, with the kills they may ask for (R316). -/
def State.tickLive (s : State) : State :=
  (sortBy (·.readyNo) (s.sched.cmds.filter fun c => s.due c && decide (c.prio = 0))).foldl (fun s c => s.tryIssue c.cid) s

/-! ### RAS and the links (R353, R434, R454) -/

/-- Each UP link carries a BEAT of the tick, whose acknowledgment is awaited. -/
def State.beats (s : State) : State :=
  allLinks.foldl (fun s l => if (s.link l).state = .up then s.modLink l fun k => { k with awaiting := some s.tick32 } else s) s

/-- Buckets take the tokens of some microseconds. -/
def State.refills (s : State) (us : Nat) : State :=
  s.modRas fun a =>
    { a with mgtBuckets := a.mgtBuckets.map fun (b : Bucket) => b.refill us 1
             hostBuckets := Vector.ofFn fun (k : Fin 4) => (a.hostBuckets[k]).refill us (if k = 3 then 10 else 1) }

/-- What module time alone brings between two moments. -/
def State.elapse (s : State) (before : Nat) : State :=
  let now := s.nowUs
  let s := s.refills (now - before)
  let s := s.mirSettle
  let s := { s with ctxs := s.ctxs.map fun (x : Ctx) => { x with quar := if 1 < x.quar then x.quar - 1 else x.quar } }
  { s with boot := { s.boot with seconds := s.boot.seconds + (now / 1000000 - before / 1000000) }, fab := { s.fab with deadSent := [] } }

/-- TICK (R348): fabric time reaches the next calends tick. -/
def State.tickEdge (s : State) : State :=
  let before := s.nowUs
  let s := ((s.nextTick).tickModes).elapse before
  let s := s.beats
  if s.mainUp then (((s.tickPlan).tickLive).serveDeadlines).served else s

def execTick (s : State) : Host.Outcome State Fault Refusal := .next (if s.mainUp || s.inVigil then s.tickEdge else s)

end Sys2Proof.Machine
end

