-- ==== Sys2Proof/Machine/Services.lean ====
section
/-! DEFINITION. Messages between service images (R20, R235, R343, R379, R398, R399, R408, R412). -/
namespace Sys2Proof.Machine

/-! ### The job agent (R398, R399) -/

/-- A pending change of a job has a boundary no earlier than the one a member names. -/
def State.takeBoundary (s : State) (job : W64) (step : W32) : State :=
  { s with jobChanges := s.jobChanges.map fun (c : JobChange) =>
      if c.job = job then { c with boundary := c.boundary.map fun b => if b.toNat < step.toNat then step else b } else c }

/-- A member learns of a change and answers with its own boundary; a change of a replica that has one pending already is not new. -/
def State.takeChange (s : State) (job : W64) (release : Bool) (x y z : Nat) : State :=
  match s.job? job with
  | none => s
  | some j =>
    if (s.pendingChange job x y z).isSome then s
    else
      let s := s.noteChange j { cid := 0, job, release, x, y, z, ctx := j.ctx }
      s.tellJob j (svcBody 0 (le 8 job.toNat ++ le 4 (s.pv j.ctx).step.toNat))

/-- The permutes of the changes at a boundary have committed: leaving replicas first, then joining ones (R401). A context that leaves
is torn down. -/
def State.takeChanged (s : State) (job : W64) (step : W32) : State :=
  let due := s.jobChanges.filter fun c => c.job == job && decide (c.cid = 0) && decide (c.boundary.map (· + 1) = some step)
  ((due.filter (·.release)) ++ due.filter fun c => !c.release).foldl (fun s c =>
    let ctx := ((s.job? job).map (·.ctx))
    let s := s.applyChange c
    match ctx, s.job? job with
    | some x, none => s.enterFencing x
    | _, _ => s) s

/-- This module's own command for a job ends. -/
def State.endOwnChange (s : State) (job : W64) (status : W16) : State :=
  (s.jobChanges.filter fun c => c.job == job && decide (c.cid ≠ 0) && !c.release).foldl (fun s c =>
    let s := s.dropChange c
    match s.cmd? c.cid with
    | some k => s.endCmd k .killed status 0
    | none => s) s

/-- A joiner takes what a member tells of the job; SEED and tenant tag have to be its own. -/
def State.takeAdmitted (s : State) (job : W64) (plan : List Byte) (step epoch mepoch : W32) (seed tenant : W64) (scales : List Byte) : State :=
  match s.jobChanges.find? fun c => c.job == job && decide (c.cid ≠ 0) && !c.release with
  | none => s
  | some c =>
    if (s.ctx c.ctx).seed ≠ seed ∨ (s.ctx c.ctx).tenant ≠ tenant then s.endOwnChange job stPerm
    else
      let t : Told := { job, plan, pv := { step, epoch, mepoch }, seed, tenant, scales }
      { s with mir := { s.mir with told := t :: s.mir.told.filter fun k => k.job != job }
               jobChanges := s.jobChanges.map fun (k : JobChange) => if k = c then { k with boundary := some step } else k }

/-- The scale table of a context as it lies in the system window: records 0 to 4,094 (R127, R250). -/
def State.scaleTable (s : State) (x : CtxId) : List Byte := (List.range 4095).flatMap fun k => scaleBytes ((s.ctx x).scale k)

/-- A member is asked to take in a module. Once the TP modules of its sled have asked, the change begins and each is told of the job. -/
def State.admitJoiner (s : State) (job : W64) (src : W16) : State :=
  let no (st : W16) : State := s.send ptService src 0 0 (svcBody 4 (le 8 job.toNat ++ le 2 st.toNat))
  let x := identX src
  let y := identY src
  let z := identZ src
  match s.job? job with
  | none => no stBounds
  | some j =>
    if (j.replicaOf src).isSome ∨ j.tp ≤ identW src then no stBounds
    else if j.slots < j.count j.poorest + 1 then no stQuota
    else
      let before := (s.pendingChange job x y z).getD { cid := 0, job, release := false, x, y, z, ctx := j.ctx }
      if before.release ∨ before.issued.contains src ∨ j.tp ≤ before.issued.length then no stBounds
      else
        let c := { before with issued := before.issued ++ [src] }
        let s := s.dropChange before
        if c.issued.length < j.tp then { s with jobChanges := s.jobChanges ++ [c] }
        else
          let s := s.beginChange j c
          let pv := s.pv j.ctx
          c.issued.foldl (fun s i => s.send ptService i 0 0
            (svcBody 3 (le 8 job.toNat ++ le 4 pv.step.toNat ++ le 4 pv.epoch.toNat ++ le 4 pv.mepoch.toNat ++ le 8 j.seed.toNat ++ le 8 j.tenant.toNat ++
            le 4 j.plan.length ++ j.plan ++ s.scaleTable j.ctx))) s

/-- A founder compares the hash of another's plan with its own (R398). -/
def State.compareHash (s : State) (job : W64) (src : W16) (hash : List Byte) : State :=
  let s := { s with mir := { s.mir with plans := (job, src, hash) :: s.mir.plans.filter fun q => !(q.1 == job && q.2.1 == src) } }
  let own := s.sched.cmds.findSome? fun c => match c.op with
    | .jobJoin j member _ plan plen => if j = job ∧ member = noIdent ∧ (s.jobChanges.any fun k => k.cid == c.cid) then
        some (sha384 (s.ctxBytes 0 plan.toNat plen.toNat)) else none
    | _ => none
  if own.any (· != hash) then s.endOwnChange job stBounds else s

/-! ### The other services -/

/-- Membership names a member as failed: collectives and fence reductions with it end, the affected commands are killed, and the
incident is noted (R19, R379). -/
def State.takeFailed (s : State) (ident : W16) : State :=
  s.afterFailure (((s.memberLost ident 4).killAffected ident).noteFailed ident)

/-- A spare may be chosen: a sentinel has passed on it within the last hour (R412, R421). -/
def State.fitSpare (s : State) : Bool :=
  s.boot.hb == hbSpare && s.ras.slots.toList.any fun x => x.lastPass.any fun t => decide (s.tick.now ≤ t + s.usTicks 3600000000)

/-- The spare's own membership submits MIR_INTERCALATE on the lowest core ring that may carry a context 0 command (R412). -/
def State.takeIntercalate (s : State) (failed : W16) (source : Byte) (step : W32) (job : W64) (record : List Byte) : State :=
  if !(s.sched.cores.toList.any (· == .service .membership)) || !s.fitSpare then s
  else
    let s := { s with mir := { s.mir with records := (failed, record) :: s.mir.records.filter fun r => r.1 != failed } }
    match (List.finRange 65).find? fun r => (s.ring r).core && (s.ring r).state == .running && (s.ring r).admin with
    | none => s
    | some r => s.packet { ring := r, seq := (s.ring r).nextSeq.getD 0 } (.mirIntercalate failed 0 source step job)

/-- A sled peer holds chunks of a ROOT: VLT notes them and tries lost pages again (R230, R235). -/
def State.takeInstalled (s : State) (peer : Fin 9) (root : List Byte) (chunks : List (Nat × List Byte)) : State :=
  let old := s.vault.peerChunks.filter fun q => !(decide (q.1 = peer) && q.2.1 == root && chunks.any fun k => k.1 == q.2.2.1)
  let new := chunks.map fun k => (peer, root, k.1, k.2)
  let s := { s with vault := { s.vault with peerChunks := old ++ new } }
  s.retryWeights root

/-- A SERVICE message delivered to its service. The close of an incident tells membership that an
intercalation elsewhere has ended: changes that waited for it go on (R20). -/
def State.service (s : State) (src : W16) (msg : SvcMsg) : State :=
  match msg with
  | .boundary job step => s.takeBoundary job step
  | .change job release x y z => s.takeChange job release x.val y.val z.val
  | .changed job step => s.takeChanged job step
  | .admitted job plan step epoch mepoch seed tenant scales => s.takeAdmitted job plan step epoch mepoch seed tenant scales
  | .rejected job status => s.endOwnChange job status
  | .synced job step => { s with mir := { s.mir with peerSyncs := (job, src, step) :: s.mir.peerSyncs.filter fun q => !(q.1 == job && q.2.1 == src) } }
  | .failed ident => s.takeFailed ident
  | .intercalate failed source step job record => s.takeIntercalate failed source step job record
  | .installed peer root chunks => s.takeInstalled peer root chunks
  | .joining job planHash => if planHash = [] then s.admitJoiner job src else s.compareHash job src planHash
  | .incident record => if leAt record 5 1 = EvKind.incidentClose.code ∧ s.mir.settle.since.isNone ∧ s.mir.inter.isNone then s.resumeChanges else s

/-- SERVICE (R343). A message between service images arrives. -/
def execFabService (p : Pkt) (msg : SvcMsg) (s : State) : Host.Outcome State Fault Refusal :=
  .next (match s.arrive ptService p [] with
    | (s, false) => s
    | (s, true) => (s.service p.src msg).served)

end Sys2Proof.Machine
end

