-- ==== Sys2Proof/Machine/Side.lean ====
section
/-! DEFINITION. The management side bus and the test port: I3C, MCTP, SPDM, PLDM and JTAG (R223, R449, R465-R467, R474, R480,
R504-R511, R518, R526). -/
namespace Sys2Proof.Machine

/-- MGT has power: the always-on island runs. -/
def State.mgtUp (s : State) : Bool := s.boot.run != .off

/-- MGT answers a request: family and code, completion code, data. -/
def State.respond (s : State) (code : Nat) (cc : Byte) (data : List Byte := []) : State :=
  { s with mgt := { s.mgt with resps := { code, cc, data } :: s.mgt.resps } }

/-- Codes of answers: the PLDM type or MCTP type in the high byte, the command in the low one. -/
def famMctp : Nat := 0x0000
def famSpdm : Nat := 0x0500
def famPlatform : Nat := 0x0200
def famUpdate : Nat := 0x4500
def famRolmel : Nat := 0x3F00

/-- Completion codes: PLDM's own, and the OEM codes of R507. -/
def ccOk : Byte := 0x00
def ccError : Byte := 0x01
def ccInvalid : Byte := 0x02
def ccNeedSecure : Byte := 0x80
def ccOtpFull : Byte := 0x81
def ccSvnLower : Byte := 0x82
def ccLocked : Byte := 0x83
def ccNotReachable : Byte := 0x84
def ccNotInVigil : Byte := 0x85
def ccBusy : Byte := 0x86
/-- PLDM type 2: no such sensor. -/
def ccBadSensor : Byte := 0x80

/-- An answer, if MGT has power. -/
def State.answer (s : State) (t : State) : Host.Outcome State Fault Refusal := .next (if s.mgtUp then t else s)

/-- An answer to a secured command. -/
def State.answerSecured (s : State) (session : Option (Fin 2)) (code : Nat) (t : State) : Host.Outcome State Fault Refusal :=
  s.answer (if s.secured session then t else s.respond code ccNeedSecure)

/-! ### Addresses (R504, R505) -/

/-- Static I3C and SMBus address: 0x60 + p, 0x6F for a strap above 8. -/
def State.staticAddr (s : State) : BitVec 7 := if 8 < s.fab.pslot.val then 0x6F else BitVec.ofNat 7 (0x60 + s.fab.pslot.val)

/-- A dynamic address is assigned; SMBus answers stop. -/
def State.takeAddr (s : State) (a : BitVec 7) : State := { s with mgt := { s.mgt with i3cAddr := some a, smbus := false } }

def execEntdaa (addr : BitVec 7) (s : State) : Host.Outcome State Fault Refusal := s.answer (if s.mgt.i3cAddr.isNone then s.takeAddr addr else s)

def execSetdasa (static dynamic : BitVec 7) (s : State) : Host.Outcome State Fault Refusal :=
  s.answer (if s.mgt.i3cAddr.isNone && static == s.staticAddr then s.takeAddr dynamic else s)

def execSmbusFallback (s : State) : Host.Outcome State Fault Refusal :=
  s.answer (if s.mgt.i3cAddr.isNone then { s with mgt := { s.mgt with smbus := true } } else s)

/-- MCTP_CONTROL: the bus owner sets the EID, or asks for it. -/
def execMctpControl (setEid : Option Byte) (s : State) : Host.Outcome State Fault Refusal :=
  s.answer (match setEid with
    | some e =>
      let t := { s with mgt := { s.mgt with eid := e } }
      t.respond famMctp ccOk [e]
    | none => s.respond famMctp ccOk [s.mgt.eid])

/-! ### SPDM (R506) -/

/-- Every LOCK bit, in the order of the registers' offsets. -/
def State.lockBits (s : State) : List Bool :=
  [s.mode.lock, s.power.capLock, s.tick.lock, s.fab.dimsLock, s.fab.ctlLock, s.memUnit.lendLock, s.sched.preLock, s.vault.layoutLock, s.mir.lock,
   s.ras.wdogLock, s.ras.tbLock, s.ras.injLock]

/-- ROOTs of the services that run, in SVC order. -/
def State.serviceRoots (s : State) : List Byte :=
  ([0, 1, 2, 3] : List Byte).flatMap fun v => if (service? v).any s.serviceRuns then assocD s.sched.svcRoots v [] else []

/-- What a measurement index measures; none for an index without one. -/
def State.measured (s : State) (index : Nat) : Option (List Byte) :=
  let bank : Fin 2 := if s.boot.bank then 1 else 0
  match index with
  | 1 => some (Config.measurement 2)
  | 2 => some ((s.boot.active.bind fun k => s.boot.otp[k]).getD [])
  | 3 => some (sliceOf (s.boot.banks[bank]).image 0x20 48)
  | 4 => some s.serviceRoots
  | 5 => some (Config.measureMode (BitVec.ofNat 32 s.mode.stat) s.lockBits)
  | 6 => some (sha384 s.boot.almanac.flatten)
  | _ => none

/-- SPDM_MESSAGE: certificates of slots 0 and 1, measurements, and at most two sessions. -/
def State.spdm (s : State) (m : SpdmReq) : State :=
  match m with
  | .certificate slot =>
    if slot = 0 then s.respond famSpdm ccOk (Config.certChain 0)
    else if slot = 1 then s.respond famSpdm ccOk (Config.certChain (if s.boot.bank then 2 else 1))
    else s.respond famSpdm ccError
  | .measurement index =>
    match s.measured index.toNat with
    | some d => s.respond famSpdm ccOk d
    | none => s.respond famSpdm ccError
  | .keyExchange =>
    match (List.finRange 2).find? fun k => !s.mgt.sessions[k] && !s.mgt.shaking[k] with
    | some k => ({ s with mgt := { s.mgt with shaking := vmod s.mgt.shaking k fun _ => true } }).respond famSpdm ccOk [BitVec.ofNat 8 k.val]
    | none => s.respond famSpdm ccError
  | .finish k =>
    if s.mgt.shaking[k] then
      ({ s with mgt := { s.mgt with shaking := vmod s.mgt.shaking k fun _ => false, sessions := vmod s.mgt.sessions k fun _ => true } }).respond
        famSpdm ccOk
    else s.respond famSpdm ccError
  | .endSession k =>
    ({ s with mgt := { s.mgt with shaking := vmod s.mgt.shaking k fun _ => false, sessions := vmod s.mgt.sessions k fun _ => false } }).respond famSpdm
      ccOk

def execSpdmMessage (m : SpdmReq) (s : State) : Host.Outcome State Fault Refusal := s.answer (s.spdm m)

/-! ### Reading (R449, R467, R507, R518) -/

/-- GET_SENSOR_READING: sensor IDs are the code plus 0x0100. -/
def execGetSensorReading (id : W16) (s : State) : Host.Outcome State Fault Refusal :=
  let code := id.toNat - 0x100
  s.answer (if 0x100 ≤ id.toNat ∧ code ∈ sensorCodes then
      s.respond (famPlatform + 0x11) ccOk (BitVec.ofNat 8 (s.sensor code).2.code :: le 4 (s.sensor code).1.toNat)
    else s.respond (famPlatform + 0x11) ccBadSensor)

def execGetAlmanac (index count : Byte) (s : State) : Host.Outcome State Fault Refusal :=
  let n := count.toNat
  s.answer (if s.boot.almanac.isEmpty then s.respond (famRolmel + 1) ccNotReachable
    else if 1 ≤ n ∧ n ≤ 8 ∧ index.toNat + n ≤ 42 then s.respond (famRolmel + 1) ccOk ((s.boot.almanac.drop index.toNat).take n).flatten
    else s.respond (famRolmel + 1) ccInvalid)

def execEmberRead (src : Byte) (index : W16) (offset : W64) (len : W16) (s : State) : Host.Outcome State Fault Refusal :=
  let n := len.toNat
  s.answer (if 1024 < n then s.respond (famRolmel + 2) ccInvalid
    else if n = 0 then s.respond (famRolmel + 2) ccOk
    else match s.ras.emberAt src.toNat index.toNat with
      | some e =>
        if offset.toNat + n ≤ e.bytes.length then s.respond (famRolmel + 2) ccOk (sliceOf e.bytes offset.toNat n) else s.respond (famRolmel + 2) ccInvalid
      | none => s.respond (famRolmel + 2) ccInvalid)

/-- Management reaches an offset: no doorbell, and the register's domain is up. -/
def State.mgtReaches (s : State) (off : Nat) : Bool :=
  decide (off < 0x100000) && decide (off % 4 = 0) && (match regAt off with
    | some (_, d) => s.reaches .mgt off d
    | none => true)

def execRegRead (offset : BitVec 24) (s : State) : Host.Outcome State Fault Refusal :=
  s.answer (if s.mgtReaches offset.toNat then
      (let (v, t) := s.readAt .mgt offset.toNat
       t.respond (famRolmel + 3) ccOk (le 4 v))
    else s.respond (famRolmel + 3) ccNotReachable)

/-! ### Writing (R6, R507, R529) -/

/-- The kind of error that a management write of a register records; none when it is accepted. -/
def State.writeKind (s : State) (off : Nat) (v : W32) : Option CfgKind :=
  let t := ({ s with cfgErr := {} }).writeAt .mgt off v
  if t.cfgErr.valid then some t.cfgErr.kind else none

def State.mgtWrite (s : State) (off : Nat) (v : W32) : State :=
  if !s.mgtReaches off then s.respond (famRolmel + 4) ccNotReachable
  else
    let cc := match s.writeKind off v with
      | some .locked => ccLocked
      | some .path => ccNotReachable
      | _ => ccOk
    (s.respond (famRolmel + 4) cc).writeAt .mgt off v

def execRegWrite (session : Option (Fin 2)) (offset : BitVec 24) (value : W32) (s : State) : Host.Outcome State Fault Refusal :=
  s.answerSecured session (famRolmel + 4) (s.mgtWrite offset.toNat value)

/-- DEVICE_RESET: in vigil a release; BUSY while a reset is already under way. -/
def State.mgtReset (s : State) : State :=
  let done := s.respond (famRolmel + 5) ccOk
  if s.inVigil then done.releaseVigil
  else if s.ras.resetting then s.respond (famRolmel + 5) ccBusy
  else done.requestReset

def execDeviceReset (session : Option (Fin 2)) (s : State) : Host.Outcome State Fault Refusal := s.answerSecured session (famRolmel + 5) s.mgtReset

def execVigilRequest (session : Option (Fin 2)) (s : State) : Host.Outcome State Fault Refusal :=
  s.answerSecured session (famRolmel + 6) (s.respond (famRolmel + 6) ccOk).requestVigil

def execVigilRelease (session : Option (Fin 2)) (s : State) : Host.Outcome State Fault Refusal :=
  s.answerSecured session (famRolmel + 7) (if s.inVigil then (s.respond (famRolmel + 7) ccOk).releaseVigil
    else s.respond (famRolmel + 7) ccNotInVigil)

/-! ### OTP (R426, R465) -/

/-- An older valid edition than another. -/
def State.olderValid (s : State) (k : Fin 4) : Bool := (List.finRange 4).any fun j => decide (j < k) && ((s.boot.otp[j]).any (otpValid j))

/-- The image is the active edition with a KILL. -/
def State.killsActive (s : State) (image : List Byte) : Option (Fin 4) :=
  s.boot.active.bind fun k => if image.getD 0xFC 0 ≠ 0 ∧ some (image.set 0xFC 0) = s.boot.otp[k] then some k else none

/-- MIN_SVN of the active edition. -/
def State.minSvn (s : State) : Nat := s.otpField 0x70 4

def State.setOtp (s : State) (k : Fin 4) (image : List Byte) : State := { s with boot := { s.boot with otp := vmod s.boot.otp k fun _ => some image } }

/-- OTP_PROGRAM: into the lowest edition never programmed; what reads back decides. -/
def State.otpProgram (s : State) (image readback : List Byte) : State :=
  let out (s : State) (cc : Byte) : State := s.respond (famRolmel + 8) cc
  if image.length ≠ 256 then out s ccInvalid
  else match s.killsActive image with
    | some k => if s.olderValid k then out (s.setOtp k image) ccOk else out s ccInvalid
    | none =>
      match (List.finRange 4).find? fun k => (s.boot.otp[k]).isNone with
      | none => out s ccOtpFull
      | some k =>
        if leAt image 0x70 4 < s.minSvn then out s ccSvnLower
        else
          let s := if k = 0 then s else s.retirePart 5 (BitVec.ofNat 16 (k.val - 1)) 0
          if otpValid k readback then out (s.setOtp k readback) ccOk
          else out (s.setOtp k (if readback.getD 0xFC 0 = 0 then readback.set 0xFC 0xFF else readback)) ccError

def execOtpProgram (session : Option (Fin 2)) (image readback : List Byte) (s : State) : Host.Outcome State Fault Refusal :=
  s.answerSecured session (famRolmel + 8) (s.otpProgram image readback)

/-! ### Keys (R223, R480) -/

def execMacsecKey (session : Option (Fin 2)) (port : Fin 2) (ckn cak : List Byte) (s : State) : Host.Outcome State Fault Refusal :=
  s.answerSecured session (famRolmel + 9) (
    if !s.mainUp then s.respond (famRolmel + 9) ccNotReachable
    else if 1 ≤ ckn.length ∧ ckn.length ≤ 32 ∧ cak.length = 32 then
      (let t := { s with serve := { s.serve with ports := vmod s.serve.ports port fun (x : Port) => { x with cak := some (ckn, cak) } } }
       t.respond (famRolmel + 9) ccOk)
    else s.respond (famRolmel + 9) ccInvalid)

/-- PUBKEY_SLOT: KOP 0 adds, 1 revokes, as WGT_KEY. -/
def State.pubkey (s : State) (slot kop : Byte) (rec_ : List Byte) : State :=
  let out (s : State) (cc : Byte) : State := s.respond (famRolmel + 10) cc
  let k : Fin 8 := Fin.ofNat 8 slot.toNat
  if !s.mainUp then out s ccNotReachable
  else if 8 ≤ slot.toNat then out s ccInvalid
  else if kop = 0 then
    (if rec_.length ≠ 96 then out s ccInvalid
     else match s.addKey k rec_ with
       | some t => out t ccOk
       | none => out s ccInvalid)
  else if kop = 1 then out (s.dropKey k) ccOk
  else out s ccInvalid

def execPubkeySlot (session : Option (Fin 2)) (slot kop : Byte) (record : List Byte) (s : State) : Host.Outcome State Fault Refusal :=
  s.answerSecured session (famRolmel + 10) (s.pubkey slot kop record)

/-! ### The management ring (R508) -/

/-- The core that serves the management ring: that of the lowest-numbered enabled ring, or a free core. -/
def State.mgtServer (s : State) : CoreId :=
  match (List.finRange 65).find? fun r => decide (r ≠ mgtRing) && (s.ring r).enabled with
  | some r => (s.ring r).server
  | none => (s.leastCore none).getD 0

/-- CMD_SUBMIT: one packet, when fewer than 16 commands of the ring are outstanding. -/
def State.mgtSubmit (s : State) (bytes : List Byte) : State :=
  let out (s : State) (cc : Byte) : State := s.respond (famRolmel + 11) cc
  if s.boot.run ≠ .running then out s ccNotReachable
  else if bytes.length ≠ 64 then out s ccInvalid
  else if 16 ≤ s.outstanding mgtRing then out s ccBusy
  else
    let s := s.modRing mgtRing fun x => { x with server := s.mgtServer }
    let (h, op) := packetOf mgtRing bytes
    ((out s ccOk).packet h op).served

def execCmdSubmit (session : Option (Fin 2)) (packet : List Byte) (s : State) : Host.Outcome State Fault Refusal :=
  s.answerSecured session (famRolmel + 11) (s.mgtSubmit packet)

/-- CMD_RESULT: the reply of one of the last 16 commands. -/
def State.mgtResult (s : State) (seq : W32) : State :=
  let out (cc : Byte) (d : List Byte) : State := s.respond (famRolmel + 12) cc d
  if s.boot.run ≠ .running then out ccNotReachable []
  else if s.sched.cmds.any fun c => decide (c.ring = mgtRing) && c.run.isNone && c.seq == seq then out ccBusy []
  else match ((s.ring mgtRing).hist.take 16).find? fun h => h.seq == seq with
    | some h => out ccOk h.reply
    | none => out ccNotReachable []

def execCmdResult (seq : W32) (s : State) : Host.Outcome State Fault Refusal := s.answer (s.mgtResult seq)

/-! ### Firmware update (R466, R474, R510) -/

/-- The bank that did not boot. -/
def Boot.otherBank (b : Boot) : Fin 2 := if b.bank then 0 else 1

/-- The checks of R466 on a bank. -/
def State.bankPasses (s : State) (k : Fin 2) : Bool :=
  let b := s.boot.banks[k]
  (s.badFirmware 3 b.image).isNone && decide (leAt b.image 0x14 4 = b.svn.toNat) && decide (s.minSvn ≤ b.svn.toNat)

/-- UPDATE_COMPONENT: the firmware bank is component 0x0001. -/
def State.updateBank (s : State) (component : W16) (image : List Byte) (svn : W32) : State :=
  if component ≠ 1 then s.respond (famUpdate + 0x14) ccInvalid
  else
    let k := s.boot.otherBank
    let s := { s with boot := { s.boot with banks := vmod s.boot.banks k fun _ => { valid := true, svn, image }, written := true } }
    let ok := (s.badFirmware 3 image).isNone
    let s := { s with boot := { s.boot with banks := vmod s.boot.banks k fun (b : Bank16) => { b with valid := ok && decide (leAt image 0x14 4 = svn.toNat) } } }
    s.respond (famUpdate + 0x14) ccOk

def execUpdateComponent (component : W16) (image : List Byte) (svn : W32) (s : State) : Host.Outcome State Fault Refusal :=
  s.answer (s.updateBank component image svn)

/-- VERIFY_COMPLETE: 0 for a bank that passes, 1 for one that does not. -/
def execVerifyComplete (s : State) : Host.Outcome State Fault Refusal :=
  s.answer (if s.boot.written then s.respond (famUpdate + 0x17) ccOk [if s.bankPasses s.boot.otherBank then 0 else 1]
    else s.respond (famUpdate + 0x17) ccError)

/-- ACTIVATE_FIRMWARE: in vigil the bank is verified first, and a pass goes on as a release. -/
def State.activate (s : State) : State :=
  let out (s : State) (cc : Byte) : State := s.respond (famUpdate + 0x1A) cc
  if !s.boot.written then out s ccError
  else
    let k := s.boot.otherBank
    let named (s : State) : State := { s with boot := { s.boot with named := k == 1, written := false } }
    if s.inVigil then (if s.bankPasses k then (named (out s ccOk)).releaseVigil else out s ccError)
    else named (out s ccOk)

def execActivateFirmware (s : State) : Host.Outcome State Fault Refusal := s.answer s.activate

/-! ### The test port (R511) -/

/-- An instruction is loaded, and data shifts out. -/
def State.jtagLoad (s : State) (i : JtagIr) (out : List Byte) : State := { s with mgt := { s.mgt with jtag := i, tdo := out } }

def execBypass (s : State) : Host.Outcome State Fault Refusal := s.answer (s.jtagLoad .bypass [0])

def execIdcode (s : State) : Host.Outcome State Fault Refusal := s.answer (s.jtagLoad .idcode (le 4 0x22492EB5))

/-- The pins as the boundary-scan register samples them. -/
def State.scanned (s : State) (i : JtagIr) : State :=
  let t := s.jtagLoad i (Config.boundaryScan s.free)
  { t with free := s.free + 1 }

def execSamplePreload (s : State) : Host.Outcome State Fault Refusal := s.answer (s.scanned .sample)

/-- EXTEST, CLAMP and HIGHZ put the module in reset until Test-Logic-Reset. -/
def State.jtagReset (s : State) : State := ({ s with mgt := { s.mgt with jtagHold := true } }).holdReset

def execExtest (s : State) : Host.Outcome State Fault Refusal := s.answer (s.scanned .extest).jtagReset

def execClamp (s : State) : Host.Outcome State Fault Refusal := s.answer (s.jtagLoad .clamp [0]).jtagReset

def execHighz (s : State) : Host.Outcome State Fault Refusal := s.answer (s.jtagLoad .highz [0]).jtagReset

/-- BIST_RUN: the result of a level on a unit of R447 shifts out. -/
def execBistRun (unit : W16) (level : Byte) (pass : Bool) (s : State) : Host.Outcome State Fault Refusal :=
  s.answer (if unitExists unit && decide (level.toNat ≤ 1) then s.jtagLoad .bistRun [if pass then 1 else 0] else s.jtagLoad .bistRun [])

/-- DBG_RING: under JTAG_LOCK it is BYPASS. -/
def execDbgRing (unit : W16) (s : State) : Host.Outcome State Fault Refusal :=
  s.answer (if s.jtagLock then s.jtagLoad .bypass [0] else s.jtagLoad .dbgRing (Config.debugRead unit.toNat))

/-- TEST_LOGIC_RESET: a module held by the test port starts. -/
def execTestLogicReset (s : State) : Host.Outcome State Fault Refusal :=
  let t := { s with mgt := { s.mgt with jtag := .idcode, tdo := [], jtagHold := false } }
  s.answer (if s.boot.run = .held then t.beginStart else t)

end Sys2Proof.Machine
end

