-- ==== Sys2Proof/Machine/Dispatch.lean ====
section
/-! DEFINITION. One arm for each command: the call of its meaning, or its rejection by name. -/
namespace Sys2Proof.Machine

def exec (i : Instr) (s : State) : Host.Outcome State Fault Refusal :=
  match i with
  | .nop h => Sys2Proof.Machine.execNop h s
  | .admMode h mode => Sys2Proof.Machine.execAdmMode h mode s
  | .admServiceStart h svc va len => Sys2Proof.Machine.execAdmServiceStart h svc va len s
  | .admServiceStop h svc => Sys2Proof.Machine.execAdmServiceStop h svc s
  | .admIdentity h x y z w => Sys2Proof.Machine.execAdmIdentity h x y z w s
  | .ctxCreate h ctx classes semBase semCount tenant seed => Sys2Proof.Machine.execCtxCreate h ctx classes semBase semCount tenant seed s
  | .ctxFence h ctx mode => Sys2Proof.Machine.execCtxFence h ctx mode s
  | .ctxUnfence h ctx => Sys2Proof.Machine.execCtxUnfence h ctx s
  | .ctxDestroy h ctx => Sys2Proof.Machine.execCtxDestroy h ctx s
  | .fenceComplete ctx => Sys2Proof.Machine.execFenceComplete ctx s
  | .teardownFencingDone ctx => Sys2Proof.Machine.execTeardownFencingDone ctx s
  | .teardownDrainDone ctx => Sys2Proof.Machine.execTeardownDrainDone ctx s
  | .teardownForcedDrop ctx => Sys2Proof.Machine.execTeardownForcedDrop ctx s
  | .teardownScrubDone ctx => Sys2Proof.Machine.execTeardownScrubDone ctx s
  | .quarantineEnd ctx => Sys2Proof.Machine.execQuarantineEnd ctx s
  | .memMap h va len attr => Sys2Proof.Machine.execMemMap h va len attr s
  | .memUnmap h va len => Sys2Proof.Machine.execMemUnmap h va len s
  | .memHint h va len attr => Sys2Proof.Machine.execMemHint h va len attr s
  | .memQuota h ctx t2 t3 t4 shadow => Sys2Proof.Machine.execMemQuota h ctx t2 t3 t4 shadow s
  | .memResolveRetry h faultId => Sys2Proof.Machine.execMemResolveRetry h faultId s
  | .memResolveFail h faultId => Sys2Proof.Machine.execMemResolveFail h faultId s
  | .wgtInstallBegin h img va len => Sys2Proof.Machine.execWgtInstallBegin h img va len s
  | .wgtInstallChunks h img va first count => Sys2Proof.Machine.execWgtInstallChunks h img va first count s
  | .wgtInstallCommit h img => Sys2Proof.Machine.execWgtInstallCommit h img s
  | .wgtInstallAbort h img => Sys2Proof.Machine.execWgtInstallAbort h img s
  | .wgtErase h img => Sys2Proof.Machine.execWgtErase h img s
  | .wgtKeyAdd h slot va => Sys2Proof.Machine.execWgtKeyAdd h slot va s
  | .wgtKeyRevoke h slot => Sys2Proof.Machine.execWgtKeyRevoke h slot s
  | .wgtLoad h img slot group members lflags va len smap smapCount => Sys2Proof.Machine.execWgtLoad h img slot group members lflags va len smap smapCount s
  | .wgtPin h n => Sys2Proof.Machine.execWgtPin h n s
  | .wgtUnpin h slot n => Sys2Proof.Machine.execWgtUnpin h slot n s
  | .wgtSwitch h slot => Sys2Proof.Machine.execWgtSwitch h slot s
  | .wgtDrop h slot => Sys2Proof.Machine.execWgtDrop h slot s
  | .weightSlotEmpty ctx slot => Sys2Proof.Machine.execWeightSlotEmpty ctx slot s
  | .keelWrite h kslot smap smapCount job step => Sys2Proof.Machine.execKeelWrite h kslot smap smapCount job step s
  | .keelRead h kslot smap smapCount => Sys2Proof.Machine.execKeelRead h kslot smap smapCount s
  | .keelDrop h kslot => Sys2Proof.Machine.execKeelDrop h kslot s
  | .submitGraph h gslot gflags step gaddr glen => Sys2Proof.Machine.execSubmitGraph h gslot gflags step gaddr glen s
  | .graphRun h gslot step => Sys2Proof.Machine.execGraphRun h gslot step s
  | .graphRelease h gslot => Sys2Proof.Machine.execGraphRelease h gslot s
  | .matmul h kpb kpbLen => Sys2Proof.Machine.execMatmul h kpb kpbLen s
  | .vector h kpb kpbLen => Sys2Proof.Machine.execVector h kpb kpbLen s
  | .reduce h kpb kpbLen => Sys2Proof.Machine.execReduce h kpb kpbLen s
  | .attnFwd h kpb kpbLen => Sys2Proof.Machine.execAttnFwd h kpb kpbLen s
  | .attnBwd h kpb kpbLen => Sys2Proof.Machine.execAttnBwd h kpb kpbLen s
  | .optUpdate h kpb kpbLen => Sys2Proof.Machine.execOptUpdate h kpb kpbLen s
  | .stepFence h step => Sys2Proof.Machine.execStepFence h step s
  | .stepFenceClose ctx step => Sys2Proof.Machine.execStepFenceClose ctx step s
  | .semAcquire h sem value => Sys2Proof.Machine.execSemAcquire h sem value s
  | .semRelease h sem value => Sys2Proof.Machine.execSemRelease h sem value s
  | .semGrant sem => Sys2Proof.Machine.execSemGrant sem s
  | .dmaStart h desc qaddr count chan pacing low high rateCap holdTicks => Sys2Proof.Machine.execDmaStart h desc qaddr count chan pacing low high rateCap holdTicks s
  | .dmaAbort h chan => Sys2Proof.Machine.execDmaAbort h chan s
  | .collReduceScatter h kpb kpbLen => Sys2Proof.Machine.execCollReduceScatter h kpb kpbLen s
  | .collAllGather h kpb kpbLen => Sys2Proof.Machine.execCollAllGather h kpb kpbLen s
  | .collAllReduce h kpb kpbLen => Sys2Proof.Machine.execCollAllReduce h kpb kpbLen s
  | .collMulticast h kpb kpbLen => Sys2Proof.Machine.execCollMulticast h kpb kpbLen s
  | .collPermute h kpb kpbLen => Sys2Proof.Machine.execCollPermute h kpb kpbLen s
  | .mirPair h ctx gsize gpos partner ward guest gtab ptab pcount => Sys2Proof.Machine.execMirPair h ctx gsize gpos partner ward guest gtab ptab pcount s
  | .mirSync h step => Sys2Proof.Machine.execMirSync h step s
  | .mirIntercalate h failed method source step job => Sys2Proof.Machine.execMirIntercalate h failed method source step job s
  | .mirRestore h ctx source step => Sys2Proof.Machine.execMirRestore h ctx source step s
  | .mirSeal ctx step => Sys2Proof.Machine.execMirSeal ctx step s
  | .settleExpiry => Sys2Proof.Machine.execSettleExpiry s
  | .jobRelease h job ident => Sys2Proof.Machine.execJobRelease h job ident s
  | .jobJoin h job member ctx plan plen => Sys2Proof.Machine.execJobJoin h job member ctx plan plen s
  | .srvStart h svc ctx cfg => Sys2Proof.Machine.execSrvStart h svc ctx cfg s
  | .srvStop h svc mode => Sys2Proof.Machine.execSrvStop h svc mode s
  | .feQueue h queue ctx udp spread index => Sys2Proof.Machine.execFeQueue h queue ctx udp spread index s
  | .queryProgress h ring tseq va len => Sys2Proof.Machine.execQueryProgress h ring tseq va len s
  | .queryStatus h ring tseq va => Sys2Proof.Machine.execQueryStatus h ring tseq va s
  | .queryTelemetry h first count va len => Sys2Proof.Machine.execQueryTelemetry h first count va len s
  | .diagSentinel h engine pattern cond va len => Sys2Proof.Machine.execDiagSentinel h engine pattern cond va len s
  | .diagBist h unit level va len => Sys2Proof.Machine.execDiagBist h unit level va len s
  | .diagPrbs h link pattern duration va => Sys2Proof.Machine.execDiagPrbs h link pattern duration va s
  | .diagEmberRead h src index offset va len => Sys2Proof.Machine.execDiagEmberRead h src index offset va len s
  | .injectUnitHang h target count code => Sys2Proof.Machine.execInjectUnitHang h target count code s
  | .injectCheckFlip h target count code => Sys2Proof.Machine.execInjectCheckFlip h target count code s
  | .injectEccCe h target count code => Sys2Proof.Machine.execInjectEccCe h target count code s
  | .injectEccUe h target count code => Sys2Proof.Machine.execInjectEccUe h target count code s
  | .injectDeviceReset h target count code => Sys2Proof.Machine.execInjectDeviceReset h target count code s
  | .injectEventFlood h target count code => Sys2Proof.Machine.execInjectEventFlood h target count code s
  | .doorbell path ring tail => Sys2Proof.Machine.execDoorbell path ring tail s
  | .packetAdmit ring fetchError => Sys2Proof.Machine.execPacketAdmit ring fetchError s
  | .ringEnable path value => Sys2Proof.Machine.execRingEnable path value s
  | .ringDisable path value => Sys2Proof.Machine.execRingDisable path value s
  | .ringClosed ring => Sys2Proof.Machine.execRingClosed ring s
  | .cplHeadWrite path value => Sys2Proof.Machine.execCplHeadWrite path value s
  | .commandIssue cid => Sys2Proof.Machine.execCommandIssue cid s
  | .runAheadStart cid => Sys2Proof.Machine.execRunAheadStart cid s
  | .commit cid used => Sys2Proof.Machine.execCommit cid used s
  | .fixedCommandEnd cid used => Sys2Proof.Machine.execFixedCommandEnd cid used s
  | .tileStart e fault => Sys2Proof.Machine.execTileStart e fault s
  | .replayIssue cid ten => Sys2Proof.Machine.execReplayIssue cid ten s
  | .mismatchRerun cid => Sys2Proof.Machine.execMismatchRerun cid s
  | .fixedTileRecompute cid tile fault => Sys2Proof.Machine.execFixedTileRecompute cid tile fault s
  | .streamEnd e p => Sys2Proof.Machine.execStreamEnd e p s
  | .streamAddr e p ar va => Sys2Proof.Machine.execStreamAddr e p ar va s
  | .streamLoff e p lo off => Sys2Proof.Machine.execStreamLoff e p lo off s
  | .streamDim e p lvl count mstride => Sys2Proof.Machine.execStreamDim e p lvl count mstride s
  | .streamLdim e p lvl lstride => Sys2Proof.Machine.execStreamLdim e p lvl lstride s
  | .streamBufdef e p buf first banks => Sys2Proof.Machine.execStreamBufdef e p buf first banks s
  | .streamMove e p toMem ar lo gsz buf mcast alloc => Sys2Proof.Machine.execStreamMove e p toMem ar lo gsz buf mcast alloc s
  | .streamWait e p kind buf sem value => Sys2Proof.Machine.execStreamWait e p kind buf sem value s
  | .waitResume e p => Sys2Proof.Machine.execWaitResume e p s
  | .streamSignal e p kind buf sem value => Sys2Proof.Machine.execStreamSignal e p kind buf sem value s
  | .streamRep e p ctr len count => Sys2Proof.Machine.execStreamRep e p ctr len count s
  | .streamStep e p loff idx inc => Sys2Proof.Machine.execStreamStep e p loff idx inc s
  | .streamDeadline e p buf abort base ns => Sys2Proof.Machine.execStreamDeadline e p buf abort base ns s
  | .streamRecv e p buf leader => Sys2Proof.Machine.execStreamRecv e p buf leader s
  | .multicastRequest e p => Sys2Proof.Machine.execMulticastRequest e p s
  | .granuleArrival e p pos ecc => Sys2Proof.Machine.execGranuleArrival e p pos ecc s
  | .deadlineExpiry e p buf late => Sys2Proof.Machine.execDeadlineExpiry e p buf late s
  | .granuleFault e p pos => Sys2Proof.Machine.execGranuleFault e p pos s
  | .faultResolved id => Sys2Proof.Machine.execFaultResolved id s
  | .faultTimeout id => Sys2Proof.Machine.execFaultTimeout id s
  | .dmaBurstGrant mover credits elapsed => Sys2Proof.Machine.execDmaBurstGrant mover credits elapsed s
  | .dmaBurstLand chan k r => Sys2Proof.Machine.execDmaBurstLand chan k r s
  | .dmaKick path value => Sys2Proof.Machine.execDmaKick path value s
  | .dmaRingSample chan => Sys2Proof.Machine.execDmaRingSample chan s
  | .dmaHoldLimit chan => Sys2Proof.Machine.execDmaHoldLimit chan s
  | .dmaBurstFault chan k side => Sys2Proof.Machine.execDmaBurstFault chan k side s
  | .pageMigrationDone ctx va => Sys2Proof.Machine.execPageMigrationDone ctx va s
  | .idleDemotion ctx va => Sys2Proof.Machine.execIdleDemotion ctx va s
  | .backgroundPromotion ctx va => Sys2Proof.Machine.execBackgroundPromotion ctx va s
  | .eccPatrol stack found => Sys2Proof.Machine.execEccPatrol stack found s
  | .channelCopyDone stack chan unreadable => Sys2Proof.Machine.execChannelCopyDone stack chan unreadable s
  | .frameScrub => Sys2Proof.Machine.execFrameScrub s
  | .lendPoolWrite path value => Sys2Proof.Machine.execLendPoolWrite path value s
  | .wgtSourceTimeout cid peer => Sys2Proof.Machine.execWgtSourceTimeout cid peer s
  | .loadGroupHolderTimeout cid => Sys2Proof.Machine.execLoadGroupHolderTimeout cid s
  | .weightPageRecovery ctx va => Sys2Proof.Machine.execWeightPageRecovery ctx va s
  | .weightUnavailableTimeout cid => Sys2Proof.Machine.execWeightUnavailableTimeout cid s
  | .vaultPatrol bad badKeel => Sys2Proof.Machine.execVaultPatrol bad badKeel s
  | .tick => Sys2Proof.Machine.execTick s
  | .clockChangeDone => Sys2Proof.Machine.execClockChangeDone s
  | .collectiveWindowOpen => Sys2Proof.Machine.execCollectiveWindowOpen s
  | .collectiveWindowClose => Sys2Proof.Machine.execCollectiveWindowClose s
  | .budgetHang cid clock confirmed => Sys2Proof.Machine.execBudgetHang cid clock confirmed s
  | .hangStopTimeout cid unit => Sys2Proof.Machine.execHangStopTimeout cid unit s
  | .watchdogFire unit => Sys2Proof.Machine.execWatchdogFire unit s
  | .domainDrainEnd d => Sys2Proof.Machine.execDomainDrainEnd d s
  | .domainResetReturn d => Sys2Proof.Machine.execDomainResetReturn d s
  | .domainResetFailed d => Sys2Proof.Machine.execDomainResetFailed d s
  | .emberCaptureDone us => Sys2Proof.Machine.execEmberCaptureDone us s
  | .corePingTimeout core => Sys2Proof.Machine.execCorePingTimeout core s
  | .coreRestartDone core pass => Sys2Proof.Machine.execCoreRestartDone core pass s
  | .incidentClose id => Sys2Proof.Machine.execIncidentClose id s
  | .suppressedRecord path cls => Sys2Proof.Machine.execSuppressedRecord path cls s
  | .sentinelRun slot pattern cond temp vcore result chunk => Sys2Proof.Machine.execSentinelRun slot pattern cond temp vcore result chunk s
  | .sentinelRecheck slot pattern cond temp vcore result chunk => Sys2Proof.Machine.execSentinelRecheck slot pattern cond temp vcore result chunk s
  | .flitReceive link f => Sys2Proof.Machine.execFlitReceive link f s
  | .holdoverAlarm => Sys2Proof.Machine.execHoldoverAlarm s
  | .heartbeatMiss link => Sys2Proof.Machine.execHeartbeatMiss link s
  | .linkSignalFound link => Sys2Proof.Machine.execLinkSignalFound link s
  | .linkTrainDone link laneOk => Sys2Proof.Machine.execLinkTrainDone link laneOk s
  | .linkRetrainRetry link => Sys2Proof.Machine.execLinkRetrainRetry link s
  | .linkAuthDone link ok => Sys2Proof.Machine.execLinkAuthDone link ok s
  | .linkAlignUp link => Sys2Proof.Machine.execLinkAlignUp link s
  | .laneSoftFailure link lane => Sys2Proof.Machine.execLaneSoftFailure link lane s
  | .laneSwap link => Sys2Proof.Machine.execLaneSwap link s
  | .laneLoss link lane => Sys2Proof.Machine.execLaneLoss link lane s
  | .reconfigDone link => Sys2Proof.Machine.execReconfigDone link s
  | .fabLinkDisable path value => Sys2Proof.Machine.execFabLinkDisable path value s
  | .fabWrite p data => Sys2Proof.Machine.execFabWrite p data s
  | .fabReadReq p len => Sys2Proof.Machine.execFabReadReq p len s
  | .fabReadResp p data => Sys2Proof.Machine.execFabReadResp p data s
  | .collNode p rid level fmt index srank vals => Sys2Proof.Machine.execCollNode p rid level fmt index srank vals s
  | .collData p rid fmt srank vals => Sys2Proof.Machine.execCollData p rid fmt srank vals s
  | .collAbort p rid srank status => Sys2Proof.Machine.execCollAbort p rid srank status s
  | .collScalar p rid srank up skip amax => Sys2Proof.Machine.execCollScalar p rid srank up skip amax s
  | .collTimeout cid rank => Sys2Proof.Machine.execCollTimeout cid rank s
  | .fabChunk p root chunk data => Sys2Proof.Machine.execFabChunk p root chunk data s
  | .fabService p msg => Sys2Proof.Machine.execFabService p msg s
  | .fabCancel p victim => Sys2Proof.Machine.execFabCancel p victim s
  | .fabCtxDead p dead deadGen => Sys2Proof.Machine.execFabCtxDead p dead deadGen s
  | .fabCtxFenced p fenced fencedGen => Sys2Proof.Machine.execFabCtxFenced p fenced fencedGen s
  | .fabTeardown p old oldGen => Sys2Proof.Machine.execFabTeardown p old oldGen s
  | .fabTeardownAck p old oldGen => Sys2Proof.Machine.execFabTeardownAck p old oldGen s
  | .fabReclaim p pages => Sys2Proof.Machine.execFabReclaim p pages s
  | .fabLost p victim cause => Sys2Proof.Machine.execFabLost p victim cause s
  | .fabRoute p own seen => Sys2Proof.Machine.execFabRoute p own seen s
  | .fabTiming p at_ tcal len1 start1 len0 start0 => Sys2Proof.Machine.execFabTiming p at_ tcal len1 start1 len0 start0 s
  | .fabKey p ok done => Sys2Proof.Machine.execFabKey p ok done s
  | .powerInputUp => Sys2Proof.Machine.execPowerInputUp s
  | .startPhaseEnd r => Sys2Proof.Machine.execStartPhaseEnd r s
  | .startTimeout => Sys2Proof.Machine.execStartTimeout s
  | .startRetry => Sys2Proof.Machine.execStartRetry s
  | .powerInputStop => Sys2Proof.Machine.execPowerInputStop s
  | .overvoltage => Sys2Proof.Machine.execOvervoltage s
  | .presentNBreak => Sys2Proof.Machine.execPresentNBreak s
  | .hardResetN => Sys2Proof.Machine.execHardResetN s
  | .hardResetRelease => Sys2Proof.Machine.execHardResetRelease s
  | .perstN => Sys2Proof.Machine.execPerstN s
  | .pcieLinkLoss => Sys2Proof.Machine.execPcieLinkLoss s
  | .functionLevelReset => Sys2Proof.Machine.execFunctionLevelReset s
  | .pcieAerError uncorrectable ring reply => Sys2Proof.Machine.execPcieAerError uncorrectable ring reply s
  | .clockStep watts settled => Sys2Proof.Machine.execClockStep watts settled s
  | .sensorThreshold code value => Sys2Proof.Machine.execSensorThreshold code value s
  | .entdaa addr => Sys2Proof.Machine.execEntdaa addr s
  | .setdasa static dynamic => Sys2Proof.Machine.execSetdasa static dynamic s
  | .smbusFallback => Sys2Proof.Machine.execSmbusFallback s
  | .mctpControl setEid => Sys2Proof.Machine.execMctpControl setEid s
  | .spdmMessage m => Sys2Proof.Machine.execSpdmMessage m s
  | .getSensorReading id => Sys2Proof.Machine.execGetSensorReading id s
  | .getAlmanac index count => Sys2Proof.Machine.execGetAlmanac index count s
  | .emberRead src index offset len => Sys2Proof.Machine.execEmberRead src index offset len s
  | .regRead offset => Sys2Proof.Machine.execRegRead offset s
  | .regWrite session offset value => Sys2Proof.Machine.execRegWrite session offset value s
  | .deviceReset session => Sys2Proof.Machine.execDeviceReset session s
  | .vigilRequest session => Sys2Proof.Machine.execVigilRequest session s
  | .vigilRelease session => Sys2Proof.Machine.execVigilRelease session s
  | .vigilCtlRequest path => Sys2Proof.Machine.execVigilCtlRequest path s
  | .vigilCtlRelease path => Sys2Proof.Machine.execVigilCtlRelease path s
  | .otpProgram session image readback => Sys2Proof.Machine.execOtpProgram session image readback s
  | .macsecKey session port ckn cak => Sys2Proof.Machine.execMacsecKey session port ckn cak s
  | .pubkeySlot session slot kop record => Sys2Proof.Machine.execPubkeySlot session slot kop record s
  | .cmdSubmit session packet => Sys2Proof.Machine.execCmdSubmit session packet s
  | .cmdResult seq => Sys2Proof.Machine.execCmdResult seq s
  | .updateComponent component image svn => Sys2Proof.Machine.execUpdateComponent component image svn s
  | .verifyComplete => Sys2Proof.Machine.execVerifyComplete s
  | .activateFirmware => Sys2Proof.Machine.execActivateFirmware s
  | .bypass => Sys2Proof.Machine.execBypass s
  | .idcode => Sys2Proof.Machine.execIdcode s
  | .samplePreload => Sys2Proof.Machine.execSamplePreload s
  | .extest => Sys2Proof.Machine.execExtest s
  | .clamp => Sys2Proof.Machine.execClamp s
  | .highz => Sys2Proof.Machine.execHighz s
  | .bistRun unit level pass => Sys2Proof.Machine.execBistRun unit level pass s
  | .dbgRing unit => Sys2Proof.Machine.execDbgRing unit s
  | .testLogicReset => Sys2Proof.Machine.execTestLogicReset s
  | .frameReceive port f => Sys2Proof.Machine.execFrameReceive port f s
  | .eapolMka port live xpn => Sys2Proof.Machine.execEapolMka port live xpn s
  | .neighborSolicitation port src target mac secure => Sys2Proof.Machine.execNeighborSolicitation port src target mac secure s
  | .echoRequest port src dst body secure => Sys2Proof.Machine.execEchoRequest port src dst body secure s
  | .transmitRecord queue => Sys2Proof.Machine.execTransmitRecord queue s
  | .deushRequest r => Sys2Proof.Machine.execDeushRequest r s
  | .deushRequestMore client session req ack offset tokens => Sys2Proof.Machine.execDeushRequestMore client session req ack offset tokens s
  | .deushCancel client session req ack => Sys2Proof.Machine.execDeushCancel client session req ack s
  | .deushAck client session req ack => Sys2Proof.Machine.execDeushAck client session req ack s
  | .deushClose client session ack => Sys2Proof.Machine.execDeushClose client session ack s
  | .deushResend client session req seq => Sys2Proof.Machine.execDeushResend client session req seq s
  | .promptIncomplete client session req => Sys2Proof.Machine.execPromptIncomplete client session req s
  | .sessionIdleClose client session => Sys2Proof.Machine.execSessionIdleClose client session s
  | .bulkWaitExpiry svc => Sys2Proof.Machine.execBulkWaitExpiry svc s
  | .modeCtlWrite path value => Sys2Proof.Machine.execModeCtlWrite path value s
  | .tickAtWrite path value => Sys2Proof.Machine.execTickAtWrite path value s
  | .nanRecordClear path value => Sys2Proof.Machine.execNanRecordClear path value s
  | .configErrorClear path value => Sys2Proof.Machine.execConfigErrorClear path value s
  | .tickTimeRead path => Sys2Proof.Machine.execTickTimeRead path s
  | .rcFieldRead path offset => Sys2Proof.Machine.execRcFieldRead path offset s
  | .registerWrite path offset value => Sys2Proof.Machine.execRegisterWrite path offset value s
  | .throttleLift writeDay => Sys2Proof.Machine.execThrottleLift writeDay s
  | .pcieLinkUp gen width flit => Sys2Proof.Machine.execPcieLinkUp gen width flit s
  | .pcsLinkChange port up => Sys2Proof.Machine.execPcsLinkChange port up s
  | .alarmQueueSend => Sys2Proof.Machine.execAlarmQueueSend s
  | .eventInterruptHoldoff => Sys2Proof.Machine.execEventInterruptHoldoff s
  | .incidentUpdateHoldoff id => Sys2Proof.Machine.execIncidentUpdateHoldoff id s

end Sys2Proof.Machine
end

