-- ==== Sys2Proof/Machine/Step.lean ====
section
/-! DEFINITION. One step: the command that has waited longest takes effect. -/
namespace Sys2Proof.Machine

/-- Take the command at the front of the queue and run its meaning on the state with the rest of the queue; with no
command waiting the block idles. -/
def step (s : State) : Host.Outcome State Fault Refusal :=
  match s.pending with
  | [] => .next s
  | c :: rest => exec c { s with pending := rest }

/-- Put the command a table word spells at the front of the queue; the table gives no row any bits, so none is. -/
def State.withFetchWord (s : State) (nbits w : Nat) : State :=
  match Sys2Proof.decodeTableWord nbits w with
  | none => s
  | some c => { s with pending := c :: s.pending }

end Sys2Proof.Machine
end

