-- ==== Sys2Proof/WellFormed.lean ====
section
/-! DEFINITION. Which commands are well formed: the byte strings a row carries have the lengths the manual gives them. A field of
a fixed width has its width in its type; what a command's own checks refuse is its meaning's matter, not one of form. -/
namespace Sys2Proof

/-- A SHA-384 value (R221). -/
def hashLen : Nat := 48
/-- Data of one fabric packet: at most 64 slots of 64 bytes (R342). -/
def packetData : Nat := 4096
/-- A chunk of an image in the vault (R220). -/
def chunkLen : Nat := 65536

/-- A message between service images carries whole hashes and whole records (R221, R231, R452). -/
def SvcMsg.wf : SvcMsg → Bool
  | .installed _ root chunks => root.length == hashLen && chunks.all fun c => decide (c.2.length ≤ chunkLen)
  | .joining _ hash => hash.length == hashLen
  | .incident record => record.length == 32
  | _ => true

/-- The Almanac an ALMANAC phase read: 42 entries of 32 bytes, or none where it could not be read (R467). -/
def PhaseEnd.wf (r : PhaseEnd) : Bool := r.almanac.isEmpty || (r.almanac.length == 42 && r.almanac.all fun e => e.length == 32)

/-- A command's byte strings have the lengths the manual gives them. -/
def Instr.wf : Instr → Bool
  | .fabWrite _ data => decide (data.length ≤ packetData)
  | .fabReadReq _ len => decide (len.toNat ≤ packetData)
  | .fabReadResp _ data => decide (data.length ≤ packetData)
  | .collNode _ _ _ _ _ _ vals => decide (4 * vals.length ≤ packetData)
  | .collData _ _ _ _ vals => decide (4 * vals.length ≤ packetData)
  | .fabChunk _ root _ data => root.length == hashLen && decide (data.length ≤ chunkLen)
  | .fabService _ msg => msg.wf
  | .startPhaseEnd r => r.wf
  | .otpProgram _ image _ => image.length == 256
  | .macsecKey _ _ ckn cak => decide (1 ≤ ckn.length ∧ ckn.length ≤ 32) && cak.length == 32
  | .pubkeySlot _ _ _ record => record.length == 96
  | .cmdSubmit _ packet => packet.length == 64
  | _ => true

end Sys2Proof
end

