-- ==== Sys2Proof/Safety.lean ====
section
/-! DEFINITION. What a sound state is, and the terms in which statements about commands are made. -/
namespace Sys2Proof.Machine

/-- No context stands at generation 0 (R246). -/
def gensOk (v : Vector Ctx 64) : Prop := ∀ c : CtxId, (v[c]).gen ≠ 0

/-- The memory is in its canonical form and no context is at generation 0: what every step keeps. -/
structure State.Sound (s : State) : Prop where
  mem : memWf s.mem = true
  gens : gensOk s.ctxs

/-- A command's meaning answers a next state of which a property holds. -/
def Answers (i : Instr) (s : State) (p : State → Prop) : Prop := ∃ t, exec i s = .next t ∧ p t

/-- The packet a row carries, for the rows that are command packets (R279). -/
def packetRow (i : Instr) : Option (Hdr × Op) :=
  match i with
  | .nop h => some (h, .nop)
  | .admMode h mode => some (h, .admMode mode)
  | .admServiceStart h svc va len => some (h, .admServiceStart svc va len)
  | .admServiceStop h svc => some (h, .admServiceStop svc)
  | .admIdentity h x y z w => some (h, .admIdentity x y z w)
  | .ctxCreate h ctx classes semBase semCount tenant seed => some (h, .ctxCreate ctx classes semBase semCount tenant seed)
  | .ctxFence h ctx mode => some (h, .ctxFence ctx mode)
  | .ctxUnfence h ctx => some (h, .ctxUnfence ctx)
  | .ctxDestroy h ctx => some (h, .ctxDestroy ctx)
  | .memMap h va len attr => some (h, .memMap va len attr)
  | .memUnmap h va len => some (h, .memUnmap va len)
  | .memHint h va len attr => some (h, .memHint va len attr)
  | .memQuota h ctx t2 t3 t4 shadow => some (h, .memQuota ctx t2 t3 t4 shadow)
  | .memResolveRetry h faultId => some (h, .memResolveRetry faultId)
  | .memResolveFail h faultId => some (h, .memResolveFail faultId)
  | .wgtInstallBegin h img va len => some (h, .wgtInstallBegin img va len)
  | .wgtInstallChunks h img va first count => some (h, .wgtInstallChunks img va first count)
  | .wgtInstallCommit h img => some (h, .wgtInstallCommit img)
  | .wgtInstallAbort h img => some (h, .wgtInstallAbort img)
  | .wgtErase h img => some (h, .wgtErase img)
  | .wgtKeyAdd h slot va => some (h, .wgtKeyAdd slot va)
  | .wgtKeyRevoke h slot => some (h, .wgtKeyRevoke slot)
  | .wgtLoad h img slot group members lflags va len smap smapCount => some (h, .wgtLoad img slot group members lflags va len smap smapCount)
  | .wgtPin h n => some (h, .wgtPin n)
  | .wgtUnpin h slot n => some (h, .wgtUnpin slot n)
  | .wgtSwitch h slot => some (h, .wgtSwitch slot)
  | .wgtDrop h slot => some (h, .wgtDrop slot)
  | .keelWrite h kslot smap smapCount job step => some (h, .keelWrite kslot smap smapCount job step)
  | .keelRead h kslot smap smapCount => some (h, .keelRead kslot smap smapCount)
  | .keelDrop h kslot => some (h, .keelDrop kslot)
  | .submitGraph h gslot gflags step gaddr glen => some (h, .submitGraph gslot gflags step gaddr glen)
  | .graphRun h gslot step => some (h, .graphRun gslot step)
  | .graphRelease h gslot => some (h, .graphRelease gslot)
  | .matmul h kpb kpbLen => some (h, .matmul kpb kpbLen)
  | .vector h kpb kpbLen => some (h, .vector kpb kpbLen)
  | .reduce h kpb kpbLen => some (h, .reduce kpb kpbLen)
  | .attnFwd h kpb kpbLen => some (h, .attnFwd kpb kpbLen)
  | .attnBwd h kpb kpbLen => some (h, .attnBwd kpb kpbLen)
  | .optUpdate h kpb kpbLen => some (h, .optUpdate kpb kpbLen)
  | .stepFence h step => some (h, .stepFence step)
  | .semAcquire h sem value => some (h, .semAcquire sem value)
  | .semRelease h sem value => some (h, .semRelease sem value)
  | .dmaStart h desc qaddr count chan pacing low high rateCap holdTicks => some (h, .dmaStart desc qaddr count chan pacing low high rateCap holdTicks)
  | .dmaAbort h chan => some (h, .dmaAbort chan)
  | .collReduceScatter h kpb kpbLen => some (h, .collReduceScatter kpb kpbLen)
  | .collAllGather h kpb kpbLen => some (h, .collAllGather kpb kpbLen)
  | .collAllReduce h kpb kpbLen => some (h, .collAllReduce kpb kpbLen)
  | .collMulticast h kpb kpbLen => some (h, .collMulticast kpb kpbLen)
  | .collPermute h kpb kpbLen => some (h, .collPermute kpb kpbLen)
  | .mirPair h ctx gsize gpos partner ward guest gtab ptab pcount => some (h, .mirPair ctx gsize gpos partner ward guest gtab ptab pcount)
  | .mirSync h step => some (h, .mirSync step)
  | .mirIntercalate h failed method source step job => some (h, .mirIntercalate failed method source step job)
  | .mirRestore h ctx source step => some (h, .mirRestore ctx source step)
  | .jobRelease h job ident => some (h, .jobRelease job ident)
  | .jobJoin h job member ctx plan plen => some (h, .jobJoin job member ctx plan plen)
  | .srvStart h svc ctx cfg => some (h, .srvStart svc ctx cfg)
  | .srvStop h svc mode => some (h, .srvStop svc mode)
  | .feQueue h queue ctx udp spread index => some (h, .feQueue queue ctx udp spread index)
  | .queryProgress h ring tseq va len => some (h, .queryProgress ring tseq va len)
  | .queryStatus h ring tseq va => some (h, .queryStatus ring tseq va)
  | .queryTelemetry h first count va len => some (h, .queryTelemetry first count va len)
  | .diagSentinel h engine pattern cond va len => some (h, .diagSentinel engine pattern cond va len)
  | .diagBist h unit level va len => some (h, .diagBist unit level va len)
  | .diagPrbs h link pattern duration va => some (h, .diagPrbs link pattern duration va)
  | .diagEmberRead h src index offset va len => some (h, .diagEmberRead src index offset va len)
  | .injectUnitHang h target count code => some (h, .injectUnitHang target count code)
  | .injectCheckFlip h target count code => some (h, .injectCheckFlip target count code)
  | .injectEccCe h target count code => some (h, .injectEccCe target count code)
  | .injectEccUe h target count code => some (h, .injectEccUe target count code)
  | .injectDeviceReset h target count code => some (h, .injectDeviceReset target count code)
  | .injectEventFlood h target count code => some (h, .injectEventFlood target count code)
  | _ => none

/-- No command is under way, no request waits for the serving loop, and no hint for the end of a fault. -/
def State.alone (s : State) : Bool :=
  s.sched.cmds.isEmpty && s.sched.runs.isEmpty && s.serve.reqs.isEmpty && s.memUnit.pages.all fun p => p.nextHint.isNone

/-- A command that waits for something outside it: it is not doomed, and not one that would become READY. -/
def Cmd.settled (c : Cmd) : Bool := !c.doomed && !(c.state == .waiting && c.preds.isEmpty && !c.fenceWait && c.bad.isNone)

/-- Nothing is left to happen of itself: every command waits for something, no run of a graph has ended, and no request waits for the
serving loop. Ids of commands are those given so far. -/
def State.calm (s : State) : Bool :=
  s.sched.cmds.all (fun c => c.settled && decide (c.cid < s.sched.nextCid)) && s.sched.runs.all (fun r => !r.ends.all NodeEnd.isEnded) &&
    s.serve.reqs.isEmpty

/-- The packet before it on its ring is no semaphore acquire, nor guarded by one (R321). -/
def State.unguarded (s : State) (r : RingId) : Bool :=
  (s.ring r).lastCid != s.sched.nextCid && (match s.cmd? (s.ring r).lastCid with
    | none => true
    | some a => !isAcquire a.op && a.acquire.isNone)

/-- What CMD makes of a packet that it reads and admits in a calm state: the state, with what admission registers, and the
command, READY (R265, R281, R303). -/
def State.admitted? (s : State) (h : Hdr) (op : Op) : Option (State × Cmd) :=
  if s.calm && s.mayRead h.ring && s.unguarded h.ring then
    match s.admission h op with
    | .error _ => none
    | .ok (t, c) =>
      if t.calm && decide (t.sched.nextCid = s.sched.nextCid) && decide (t.sched.cmds = s.sched.cmds) && c.preds.isEmpty && !c.fenceWait && c.bad.isNone then
        some (t, { c with state := .ready, readyNo := t.sched.nextReady })
      else none
  else none

/-- The state in which a packet has been read, and its command is READY. -/
def State.held (s : State) (h : Hdr) (c : Cmd) : State :=
  (s.notePacket h c.cid).modSched fun g => { g with cmds := g.cmds ++ [c], nextCid := c.cid + 1, nextReady := g.nextReady + 1 }

/-- A command as it is issued. -/
def Cmd.started (s : State) (c : Cmd) : Cmd :=
  { c with state := .issued, issueNo := s.sched.nextIssue, attempt := s.sched.nextAttempt, issuing := true, tick := s.tick.now }

/-- Every page under a command's writable ranges is where R199 wants it: in T2, or in a lend pool that its hint pins it to, with a frame
of its own. -/
def State.atHand (s : State) (c : Cmd) : Bool :=
  s.memUnit.pages.all fun p =>
    !(decide (p.ctx = c.ctx) && c.ranges.any fun b => b.w && overlaps p.va p.size.bytes b.va b.len) || match s.pageAt? c.ctx p.va with
      | none => true
      | some q => !q.zero && (decide (s.effHint q = .pinT3) || !q.migrating && decide (q.tier = .t2))

/-- The memory a command names is ready for it: no slot that it reads is LOADING, and no page that it writes has to be brought in
(R199, R232). -/
def State.memReady (s : State) (c : Cmd) : Bool := (c.fixed || s.atHand c) && !s.readsLoading c

/-- The state in which the command of a packet starts as the packet is read, and that command, issued. None where the command
waits: a tick plan places it, a graph or a step waits on its admission, its shadow slots are not free (R198, R303, R310), or its
memory is not ready. -/
def State.starts? (s : State) (h : Hdr) (op : Op) : Option (State × Cmd) :=
  match s.admitted? h op with
  | none => none
  | some (t, c) =>
    if !planY (opCode op) && !(decide (0x0500 ≤ (opCode op).toNat) && decide ((opCode op).toNat ≤ 0x0520)) && !(t.vaultHot && vaultWrite op) &&
        (decide (c.ctx = 0) || decide (c.shNeed ≤ 32 * (t.ctx c.ctx).quotaSh)) && t.poolFits c && (t.held h c).writeOrderOk c && ((t.held h c).recheck c).isNone && (t.held h c).memReady c then
      some ((t.held h c).markIssued c, c.started t)
    else none

/-- The same of a graph command or a step fence, for which admission has made room: its gate is open (R295). -/
def State.opens? (s : State) (h : Hdr) (op : Op) : Option (State × Cmd) :=
  match s.admitted? h op with
  | none => none
  | some (t, c) =>
    if !planY (opCode op) && !(t.vaultHot && vaultWrite op) && (decide (c.ctx = 0) || decide (c.shNeed ≤ 32 * (t.ctx c.ctx).quotaSh)) &&
        t.poolFits c && (t.held h c).writeOrderOk c && (t.held h c).graphGate c && ((t.held h c).recheck c).isNone && (t.held h c).memReady c then
      some ((t.held h c).markIssued c, c.started t)
    else none

/-- A packet is read with nothing else under way, is admitted, and its command starts as it is read. -/
def State.runs (s : State) (h : Hdr) (op : Op) : Bool := s.alone && (s.starts? h op).isSome

/-! ### What a row leaves unchanged -/

/-- Where the next reply of a ring is written, in the byte store; no place on the management ring, whose replies the side bus
carries, after a failed write, or with the host away (R265, R267, R502, R508). -/
def State.replyKey? (s : State) (r : RingId) : Option Nat :=
  let x := s.ring r
  let a := x.cpl.toNat + 32 * (x.cplTail.toNat % x.size)
  if r = mgtRing ∨ x.err = 4 then none else if x.core then some (fwKey a) else if s.pcie.up then some (hostKey a) else none

/-- The parts of the state a statement about a row names: those the row may change are left out of its frame. -/
inductive Part where
  | mode | mem | memUnit | ctxs | vault | rings | sched | slices | dma | tick | fab | cle | jobs | jobChanges | pvs | mir | ras | boot | power
  | pcie | mgt | serve | cfgErr | banks | pending
deriving DecidableEq, Repr

/-- A part is the same after a packet of a ring has been read, and its command has ended, but for what every packet does: the reply
is written, the ring moves on, and what named the command is forgotten. -/
def Kept (h : Hdr) (s t : State) : Part → Prop
  | .mode => t.mode = s.mode
  | .mem => memWf s.mem = true → ∀ a, (∀ k, s.replyKey? h.ring = some k → a < k ∨ k + 32 ≤ a) → memRead t.mem a = memRead s.mem a
  | .memUnit => t.memUnit = s.memUnit.without s.sched.nextCid
  | .ctxs => ∀ k, t.ctx k = s.ctx k
  | .vault => t.vault = s.vault
  | .rings => ∀ r, r ≠ h.ring → t.ring r = s.ring r
  | .sched => t.sched = { s.sched with
      cmds := [], nextCid := s.sched.nextCid + 1, nextReady := s.sched.nextReady + 1, nextIssue := s.sched.nextIssue + 1,
      nextAttempt := s.sched.nextAttempt + 1, plan := s.sched.plan.filter fun p => p.cid != s.sched.nextCid,
      stopping := s.sched.stopping.filter fun p => p.2 != s.sched.nextCid }
  | .slices => ∀ e, ((s.slice e).progs.any fun p => p.cid == s.sched.nextCid) = false → ((s.slice e).banks.any fun b => b.cid == s.sched.nextCid) = false →
      ((s.slice e).tiles.any fun x => x.1 == s.sched.nextCid) = false → t.slice e = s.slice e
  | .dma => t.dma = s.dma
  | .tick => t.tick = s.tick
  | .fab => t.fab = s.fab
  | .cle => t.cle = { s.cle with colls := s.cle.colls.filter fun x => x.cid != s.sched.nextCid,
                                 fences := s.cle.fences.filter fun x => x.cid != s.sched.nextCid }
  | .jobs => t.jobs = s.jobs
  | .jobChanges => t.jobChanges = s.jobChanges
  | .pvs => t.pvs = s.pvs
  | .mir => t.mir = s.mir
  | .ras => t.ras = s.ras
  | .boot => t.boot = s.boot
  | .power => t.power = s.power
  | .pcie => { t.pcie with msix := s.pcie.msix } = s.pcie
  | .mgt => { t.mgt with events := s.mgt.events } = s.mgt
  | .serve => t.serve = s.serve
  | .cfgErr => t.cfgErr = s.cfgErr
  | .banks => t.hostBank = s.hostBank ∧ t.mgtBank = s.mgtBank ∧ t.fwBanks = s.fwBanks
  | .pending => t.pending = s.pending

/-- The ring's newest reply, which its packet's command left: SEQ, status and phase, and the 32 bytes as they are written. -/
structure Replied (h : Hdr) (code : W16) (s t : State) (phase : Phase) (refusal : Bool) (status : W16) (detail : W64) : Prop where
  head : (t.ring h.ring).head = (s.ring h.ring).head + 1
  seq : (t.ring h.ring).nextSeq = some (h.seq + 1)
  entry : ∃ e r, (t.ring h.ring).hist.head? = some e ∧ e.seq = h.seq ∧ e.ctx = h.ctx ∧ e.phase = phase ∧ e.status = status ∧
    e.reply = ReplyRec.bytes r ((s.ring h.ring).toggle) s.tick.now ∧
    r.seq = h.seq ∧ r.status = status ∧ r.phase = phase ∧ r.refusal = refusal ∧ r.detail = detail ∧ r.opcode = code ∧ r.ctx = h.ctx ∧ r.gen = (s.ctx h.ctx).gen ∧
    (memWf s.mem = true → ∀ k, s.replyKey? h.ring = some k → memReadList t.mem k 32 = e.reply)
  moves : ((s.ring h.ring).err = 4 ∧ h.ring ≠ mgtRing) ∨ (t.ring h.ring).cplTail = (s.ring h.ring).cplTail + 1

/-- A packet row runs to its end in one step: its command commits with a DETAIL, its reply is written, all but some parts of the
state is kept, and of those something holds. -/
def Commits (i : Instr) (h : Hdr) (code : W16) (detail : W64) (s : State) (changed : List Part) (p : State → Prop) : Prop :=
  Answers i s fun t => Replied h code s t .committed false stOk detail ∧ (∀ x, x ∉ changed → Kept h s t x) ∧ p t

/-- A packet row ends in one step without its effect: its command ends KILLED with a status and a DETAIL, its reply is written, and
every part of the state is kept. -/
def Fails (i : Instr) (h : Hdr) (code status : W16) (detail : W64) (s : State) : Prop :=
  Answers i s fun t => Replied h code s t .killed false status detail ∧ ∀ x, Kept h s t x

/-- A part is the same after an event. -/
def Same (s t : State) : Part → Prop
  | .mode => t.mode = s.mode
  | .mem => t.mem = s.mem
  | .memUnit => t.memUnit = s.memUnit
  | .ctxs => t.ctxs = s.ctxs
  | .vault => t.vault = s.vault
  | .rings => t.rings = s.rings
  | .sched => t.sched = s.sched
  | .slices => t.slices = s.slices
  | .dma => t.dma = s.dma
  | .tick => t.tick = s.tick
  | .fab => t.fab = s.fab
  | .cle => t.cle = s.cle
  | .jobs => t.jobs = s.jobs
  | .jobChanges => t.jobChanges = s.jobChanges
  | .pvs => t.pvs = s.pvs
  | .mir => t.mir = s.mir
  | .ras => t.ras = s.ras
  | .boot => t.boot = s.boot
  | .power => t.power = s.power
  | .pcie => t.pcie = s.pcie
  | .mgt => t.mgt = s.mgt
  | .serve => t.serve = s.serve
  | .cfgErr => t.cfgErr = s.cfgErr
  | .banks => t.hostBank = s.hostBank ∧ t.mgtBank = s.mgtBank ∧ t.fwBanks = s.fwBanks
  | .pending => t.pending = s.pending

/-- An event's row answers a next state: every part but some is the same, and of that state something holds. -/
def Changes (i : Instr) (s : State) (changed : List Part) (p : State → Prop) : Prop :=
  Answers i s fun t => (∀ x, x ∉ changed → Same s t x) ∧ p t

/-- What placing READY commands may change: their places in the plan, the tick's account, counts. -/
def placing : List Part := [.sched, .tick, .banks]

/-- What raising an event may change: the records of RAS, their ways out to the host and to management, and counts. -/
def telling : List Part := [.mem, .ras, .pcie, .mgt, .cfgErr, .banks]

/-- A program of a known command stands at an instruction, and nothing holds it up. -/
def State.standsAt (s : State) (e : EngineId) (p : Fin 16) (i : SInstr) : Bool :=
  s.progReady e p && decide ((s.prog e p).instr? = some i) && (s.cmd? (s.prog e p).cid).isSome

/-- A program has gone on past an instruction: to the one after it, or, at the end of a REP block with repetitions left, back to the
block's first one. -/
def Prog.WentOn (x y : Prog) : Prop :=
  y.wait = .running ∧ ((∀ b ∈ x.reps.head?, b.stop ≠ x.ip + 1) → y.ip = x.ip + 1 ∧ y.rc = x.rc ∧ y.reps = x.reps) ∧
  (∀ b l, x.reps = b :: l → b.stop = x.ip + 1 →
    (1 < x.rc[b.ctr] → y.ip = b.start ∧ y.rc[b.ctr] = x.rc[b.ctr] - 1 ∧ y.reps = x.reps) ∧
    (x.rc[b.ctr] ≤ 1 → (∀ b' ∈ l.head?, b'.stop ≠ x.ip + 1) → y.ip = x.ip + 1 ∧ y.rc[b.ctr] = 0 ∧ y.reps = l))

/-- Only one program is different. -/
def OnlyProg (s t : State) (e : EngineId) (p : Fin 16) : Prop := t = s.modProg e p fun _ => t.prog e p

/-! ### Terms of the statements -/

/-- The newest reply of a ring carries a DETAIL. -/
def DetailOf (t : State) (r : RingId) (d : W64) : Prop :=
  ∃ e x tog now, (t.ring r).hist.head? = some e ∧ e.reply = ReplyRec.bytes x tog now ∧ x.detail = d

/-- A command that is alone has ended with a phase and a status, and its ring's newest reply says so. -/
def EndedAlone (s t : State) (c : Cmd) (phase : Phase) (status : W16) : Prop :=
  t.sched.cmds = [] ∧ (t.ring c.ring).cplTail = (s.ring c.ring).cplTail + 1 ∧
    ∃ e, (t.ring c.ring).hist.head? = some e ∧ e.seq = c.seq ∧ e.phase = phase ∧ e.status = status

/-- A command stands alone: no other, no run, no section, no request; its ring takes replies. -/
def StandsAlone (s : State) (c : Cmd) : Prop :=
  s.sched.cmds = [c] ∧ s.sched.runs = [] ∧ s.serve.reqs = [] ∧ c.run = none ∧ c.acquire = none ∧ c.hold = none ∧ (s.ring c.ring).err ≠ 4

/-- No command is READY: there is nothing to place. -/
def NoneReady (s : State) : Prop := ∀ c ∈ s.sched.cmds, c.state ≠ .ready

/-- A packet is taken in here: the link carries it, its tag holds, it is neither stale nor of a cancelled attempt, and it is for this
module (R342, R346, R347). -/
def State.takes (s : State) (typ : Byte) (p : Pkt) : Bool :=
  !s.inVigil && ((s.link p.link).usable || (typ == ptKey && ((s.link p.link).state == .auth || (s.link p.link).state == .align))) &&
    (p.tagOk || !(s.link p.link).usable) && (linkLocal typ || decide (s.pktAge p ≤ 16)) &&
    !(p.attempt != 0 && s.fab.cancels.any fun c => c.1 == p.src && c.2.1 == p.attempt && decide (s.tick.now ≤ c.2.2 + 16)) &&
    (linkLocal typ || (p.dst == s.fab.ident && s.fab.ident != noIdent))

/-- A packet names a context that lives and is not fenced, by its generation (R247, R256). -/
def State.genLive (s : State) (p : Pkt) : Bool :=
  p.gen != 0 && p.gen == (s.ctx p.ctx).gen && s.live p.ctx && (s.ctx p.ctx).state != .fenced

/-- A path reaches a register (R5, R528). -/
def State.canReach (s : State) (p : Path) (r : Reg) : Bool :=
  match regAt r.off with
  | some (q, d) => decide (q = r) && s.reaches p r.off d
  | none => false

/-- A configuration error about a register has been recorded: the first one's particulars stay (R540). -/
def CfgRecorded (s t : State) (kind : CfgKind) (p : Path) (r : Reg) : Prop :=
  t.cfgErr.valid = true ∧ (s.cfgErr.valid = true → t.cfgErr = { s.cfgErr with more := true }) ∧
  (s.cfgErr.valid = false → t.cfgErr.kind = kind ∧ t.cfgErr.path = pathCfg p ∧ t.cfgErr.offset = BitVec.ofNat 21 r.off ∧ t.cfgErr.more = false)

/-- The rows of commands that tick plans place. -/
def plannedRow (i : Instr) : Option (Hdr × Op) :=
  match packetRow i with
  | some (h, op) => if planY (opCode op) then some (h, op) else none
  | none => none

/-- Bytes that a context reads at an address are as given, and every other byte of the store reads as before, but for the reply. -/
def Wrote (h : Hdr) (s t : State) (va : Nat) (bs : List Byte) : Prop :=
  memWf s.mem = true → t.ctxBytes h.ctx va bs.length = bs ∧ ∀ a, (∀ k, s.replyKey? h.ring = some k → a < k ∨ k + 32 ≤ a) →
    (a < ctxKey h.ctx va ∨ ctxKey h.ctx va + bs.length ≤ a) → memRead t.mem a = memRead s.mem a

/-- The packet of a fabric row: its type, and the bytes of its body. -/
def fabPacket (i : Instr) : Option (Byte × Pkt × Nat) :=
  match i with
  | .fabWrite p data => some (ptWrite, p, 8 + data.length)
  | .fabReadReq p _ => some (ptReadReq, p, 8)
  | .collNode p _ _ fmt _ _ vals => some (ptColl, p, 24 + collBytes fmt.val vals.length)
  | .collData p _ fmt _ vals => some (ptColl, p, 24 + collBytes fmt.val vals.length)
  | .collAbort p _ _ _ => some (ptColl, p, 24)
  | .collScalar p _ _ _ _ amax => some (ptColl, p, 24 + 6 * amax.length)
  | .fabChunk p root _ data => some (ptChunk, p, root.length + 4 + data.length)
  | .fabCancel p _ => some (ptCancel, p, 4)
  | .fabCtxDead p _ _ => some (ptCtxDead, p, 2)
  | .fabCtxFenced p _ _ => some (ptCtxFenced, p, 2)
  | .fabTeardown p _ _ => some (ptTeardown, p, 2)
  | .fabTeardownAck p _ _ => some (ptTeardownAck, p, 2)
  | .fabReclaim p _ => some (ptReclaim, p, 4)
  | .fabLost p _ _ => some (ptLost, p, 5)
  | .fabRoute p _ _ => some (ptRoute, p, 14)
  | .fabTiming p _ _ _ _ _ _ => some (ptTiming, p, 9)
  | .fabKey p _ _ => some (ptKey, p, 1)
  | _ => none

/-- Everything about a link but some fields named by a change of it is the same, and so is every other link. -/
def OnlyLink (s t : State) (l : LinkId) (k : Link) : Prop := t.link l = k ∧ ∀ j, j ≠ l → t.link j = s.link j

/-- The rows of the management side bus and of the test port. -/
def sideRow (i : Instr) : Bool :=
  match i with
  | .entdaa _ | .setdasa _ _ | .smbusFallback | .mctpControl _ | .spdmMessage _ | .getSensorReading _ | .getAlmanac _ _ | .emberRead _ _ _ _ | .regRead _
  | .regWrite _ _ _ | .deviceReset _ | .vigilRequest _ | .vigilRelease _ | .otpProgram _ _ _ | .macsecKey _ _ _ _ | .pubkeySlot _ _ _ _ | .cmdSubmit _ _
  | .cmdResult _ | .updateComponent _ _ _ | .verifyComplete | .activateFirmware | .bypass | .idcode | .samplePreload | .extest | .clamp | .highz | .bistRun _ _ _
  | .dbgRing _ | .testLogicReset => true
  | _ => false

/-- The session and the answer's code of a secured command (R507). -/
def securedRow (i : Instr) : Option (Option (Fin 2) × Nat) :=
  match i with
  | .regWrite x _ _ => some (x, famRolmel + 4)
  | .deviceReset x => some (x, famRolmel + 5)
  | .vigilRequest x => some (x, famRolmel + 6)
  | .vigilRelease x => some (x, famRolmel + 7)
  | .otpProgram x _ _ => some (x, famRolmel + 8)
  | .macsecKey x _ _ _ => some (x, famRolmel + 9)
  | .pubkeySlot x _ _ _ => some (x, famRolmel + 10)
  | .cmdSubmit x _ => some (x, famRolmel + 11)
  | _ => none

/-- Only an answer of the side bus is new. -/
def Responds (i : Instr) (s : State) (code : Nat) (cc : Byte) (data : List Byte) : Prop :=
  Changes i s [.mgt] fun t => t.mgt = { s.mgt with resps := { code, cc, data } :: s.mgt.resps }

/-- Only one Ethernet port is different. -/
def OnlyPort (s t : State) (p : Fin 2) (x : Port) : Prop := t.serve = { s.serve with ports := t.serve.ports } ∧ t.serve.ports[p] = x ∧ ∀ q, q ≠ p → t.serve.ports[q] = s.serve.ports[q]

/-- The serving loop has one request, that neither runs nor ends, and its instance lives. -/
def WaitsAlone (s : State) (r : Req) : Prop := s.serve.reqs = [r] ∧ ∃ x, s.inst r.svc = some x ∧ s.live x.ctx = true

end Sys2Proof.Machine
end

