-- ==== Sys2Proof/Certificates/Slice0/Obligations.lean ====
section
/-! DEFINITION. Statements about the block, for the provers. -/
open Sys2Proof Sys2Proof.Machine

/-- A step runs the command at the front of the queue. With a command at the front of its queue the block's step is that command's
effect on the state with the queue's rest; with an empty queue the step changes nothing (the block idles: the model's choice,
log entry 1). -/
def Obligations.StepRunsTheFrontCommand : Prop := ∀ (s : State) (c : Instr) (rest : List Instr),
  (s.pending = c :: rest → step s = exec c { s with pending := rest }) ∧ (s.pending = [] → step s = .next s)

/-- Every command answers a next state. From every state every command answers a next state, never a fault or a refusal; it leaves
the queue alone and takes back no draw of free values (the model's own counter, log entry 2). -/
def Obligations.EveryCommandAnswers : Prop := ∀ (c : Instr) (s : State), ∃ t, exec c s = .next t ∧ t.pending = s.pending ∧ s.free ≤ t.free

/-- Every step keeps the memory canonical and no context at generation 0. From every state whose byte store is in its canonical form
and in which no context stands at generation 0, every step leads to such a state again. -/
def Obligations.StepKeepsSound : Prop := ∀ s t : State, s.Sound → step s = .next t → t.Sound

/-- What reset leaves. The state after reset is sound and its queue, memory, commands and plan are empty; MODE_CTL and MODE_STAT
read 0x3001, every generation is 1, every share 16, rings are DISABLED, banks FREE, channels IDLE, links DOWN, ERR_CFG holds no
error, and the event buckets have the rates and depths of the manual. That reset memory lists nothing rests on log entry 4. -/
def Obligations.ResetState : Prop := State.reset.Sound ∧ State.reset.pending = [] ∧ State.reset.mem = [] ∧ (∀ c : CtxId, (State.reset.ctx c).gen = 1) ∧ (∀ c : CtxId, (State.reset.ctx c).share = 16) ∧
  (∀ p : Path, State.reset.regValue p .modeCtl = 0x3001 ∧ State.reset.regValue p .modeStat = 0x3001) ∧
  State.reset.sched.cmds = [] ∧ State.reset.sched.plan = [] ∧ (∀ r : RingId, (State.reset.ring r).state = .disabled) ∧ (∀ e : EngineId, ∀ b : Fin 16, ((State.reset.slice e).banks[b]).state = .free) ∧
  (∀ k : ChanId, (State.reset.chan k).state = .idle) ∧ (∀ l : LinkId, (State.reset.link l).state = .down) ∧ State.reset.cfgErr.valid = false ∧
  State.reset.ras.hostBuckets.toList.map (fun b => (b.rate, b.burst)) = [(10000, 1024), (10000, 1024), (2000, 256), (10000, 4096)] ∧
  State.reset.ras.mgtBuckets.toList.map (fun b => (b.rate, b.burst)) = [(100, 64), (50, 32), (10, 16)]

/-- MODE_STAT and writes of MODE_CTL. For every state MODE_STAT reads PENDING, CAPPED and the fields in effect at their bits, its
reserved bits 0, and 0x3001 after reset. A write of MODE_CTL with a reserved encoding in any field is ignored and recorded as a
configuration error; of two writes before the first takes effect each field takes the last value, and PENDING stays 1 while a
field is not in effect. (R22, R23) -/
def Obligations.ModeRegisters : Prop := ∀ s : State,
  (∀ p : Path, (s.regValue p .modeStat).testBit 31 = false ∧
    ((s.regValue p .modeStat).testBit 30 = true ↔ s.mode.role ≠ s.mode.roleNow ∨ s.mode.guardF ≠ s.mode.guardNow ∨ s.mode.check ≠ s.mode.checkNow ∨ s.mode.power ≠ s.mode.powerNow) ∧
    (s.regValue p .modeStat).testBit 29 = s.mode.capped ∧ s.regValue p .modeStat / 2 ^ 14 % 2 ^ 15 = 0 ∧ s.regValue p .modeStat / 2 ^ 12 % 4 = s.mode.roleNow.val ∧
    s.regValue p .modeStat / 2 ^ 10 % 4 = 0 ∧ s.regValue p .modeStat / 2 ^ 8 % 4 = s.mode.guardNow.val ∧ s.regValue p .modeStat / 2 ^ 6 % 4 = 0 ∧
    s.regValue p .modeStat / 2 ^ 4 % 4 = s.mode.checkNow.val ∧ s.regValue p .modeStat / 2 ^ 2 % 4 = 0 ∧ s.regValue p .modeStat % 4 = s.mode.powerNow.val ∧
    s.regValue p .modeStat < 2 ^ 31) ∧
  (∀ p : Path, State.reset.regValue p .modeStat = 0x3001) ∧
  (∀ (p : Path) (v : W32), s.canReach p .modeCtl = true → s.mode.lock = false → v.extractLsb' 8 2 = 3 ∨ v.extractLsb' 4 2 = 3 ∨ v.extractLsb' 0 2 = 3 →
    Changes (.modeCtlWrite p v) s [.cfgErr, .banks] fun t => CfgRecorded s t .encoding p .modeCtl ∧ t.regValue p .modeCtl = s.regValue p .modeCtl) ∧
  (∀ (p q : Path) (v w : W32), s.canReach p .modeCtl = true → s.canReach q .modeCtl = true → s.mode.lock = false → v.getLsbD 31 = false →
    v.extractLsb' 8 2 ≠ 3 → v.extractLsb' 4 2 ≠ 3 → v.extractLsb' 0 2 ≠ 3 → w.extractLsb' 8 2 ≠ 3 → w.extractLsb' 4 2 ≠ 3 → w.extractLsb' 0 2 ≠ 3 →
    Answers (.modeCtlWrite p v) s fun t => Answers (.modeCtlWrite q w) t fun u => u.mode.role.val = w.toNat / 2 ^ 12 % 4 ∧ u.mode.guardF.val = w.toNat / 2 ^ 8 % 4 ∧
      u.mode.check.val = w.toNat / 2 ^ 4 % 4 ∧ u.mode.power.val = w.toNat % 4 ∧ u.mode.roleNow = s.mode.roleNow ∧ u.mode.guardNow = s.mode.guardNow ∧ u.mode.powerNow = s.mode.powerNow)

/-- Packets that fail admission. A packet that fails admission has no side effect but its reply, written at once with PHASE KILLED,
ADMIT set and the failing check's status; the ring moves past it; a graph that no frame is left for raises an event too (R545). In vigil, a SEQ that breaks the rule, a reserved opcode, a
context outside the ring's rights and a fenced or inactive context give their statuses, in that order. A packet at a ring CMD
may not read waits (log entry 5). -/
def Obligations.RefusedPackets : Prop := ∀ (h : Hdr) (op : Op) (s : State),
  (∀ i, packetRow i = some (h, op) → s.alone = true →
    (s.mayRead h.ring = false → Answers i s fun t => t = s) ∧
    (∀ st, s.mayRead h.ring = true → s.admission h op = .error st → Answers i s fun t => Replied h (opCode op) s t .killed true st 0 ∧
      (∀ x, x ∉ .rings :: telling → Same s t x) ∧ (∀ r, r ≠ h.ring → t.ring r = s.ring r) ∧
      ((st = stQuota ∧ s.graphCramped (s.newCmd h op) = true) ∨ (Same s t .ras ∧ Same s t .cfgErr ∧ Same s t .banks ∧ Kept h s t .mem ∧ Kept h s t .pcie ∧ Kept h s t .mgt)))) ∧
  (s.inVigil = true → vigilOp (opCode op) = false → s.admission h op = .error stVigil) ∧
  (s.inVigil = false → (∃ q, (s.ring h.ring).nextSeq = some q ∧ q ≠ h.seq) → s.admission h op = .error stBounds) ∧
  (s.inVigil = false → (∀ q, (s.ring h.ring).nextSeq = some q → q = h.seq) →
    (opReserved op = true → s.admission h op = .error stBadOpcode) ∧
    (opReserved op = false → (s.ring h.ring).mayFor h.ring h.ctx = false → s.admission h op = .error stPerm) ∧
    (opReserved op = false → (s.ring h.ring).mayFor h.ring h.ctx = true → (s.ctx h.ctx).state = .fenced → s.admission h op = .error stCtxFenced) ∧
    (opReserved op = false → (s.ring h.ring).mayFor h.ring h.ctx = true → (s.ctx h.ctx).state ≠ .fenced → (s.ctx h.ctx).state ≠ .active → s.admission h op = .error stCtxDead))

/-- Sequence numbers of packets. The first packet after a ring is enabled may carry any SEQ. A later packet whose SEQ is not the one
expected fails admission with ST_BOUNDS, and the ring then expects that packet's SEQ + 1; after a packet that keeps the rule it
expects that packet's SEQ + 1 too. (R273) -/
def Obligations.SequenceNumbers : Prop := ∀ (s : State) (h : Hdr), s.alone = true →
  (∀ i op q, packetRow i = some (h, op) → s.mayRead h.ring = true → s.inVigil = false → (s.ring h.ring).nextSeq = some q → h.seq ≠ q →
    Answers i s fun t => Replied h (opCode op) s t .killed true stBounds 0 ∧ (t.ring h.ring).nextSeq = some (h.seq + 1)) ∧
  (s.runs h .nop = true → Answers (.nop h) s fun t => (t.ring h.ring).nextSeq = some (h.seq + 1)) ∧
  ((s.ring h.ring).nextSeq = none → h.dep = 0 → h.chain = false → s.runs h .nop = true → ∀ q : W32, Answers (.nop { h with seq := q }) s fun t =>
    Replied { h with seq := q } 0x0100 s t .committed false stOk 0 ∧ (t.ring h.ring).nextSeq = some (q + 1)) ∧
  (∀ (p : Path) (v : W32), s.canReach p .cmdqCfg = true → p ≠ .host → (s.ring (s.selRing p)).enabled = false → (s.ring (s.selRing p)).state ≠ .closing →
    4 ≤ v.toNat % 32 → v.toNat % 32 ≤ 16 → Answers (.ringEnable p v) s fun t => (t.ring (s.selRing p)).state = .running ∧ (t.ring (s.selRing p)).nextSeq = none)

/-- Where GSC places a READY command. A READY command of a class other than 0 with at most 16 sixteenths is placed in the earliest
tick of the horizon in which each of its rows has room under the row's capacity and under the capacity of its context and class;
without such a tick it stays READY and is tried again at the next tick. A placement never raises what a row holds in a tick above the row's capacity. -/
def Obligations.EarliestTickPlacement : Prop := ∀ (s : State) (c : Cmd), s.cmd? c.cid = some c → c.prio ≠ 0 → rowsOf c ≠ [] →
  (64 ∉ rowsOf c → c.budget ≤ 16 →
    let fits := fun n : Nat => ∀ r ∈ rowsOf c, s.planned r n (fun _ => true) + c.budget ≤ s.rowCap r ∧
      s.planned r n (fun d => decide (d.ctx = c.ctx) && decide (d.prio = c.prio)) + c.budget ≤ s.shareCap c.ctx c.prio r n;
    ((∀ n, s.tick.now ≤ n → n < s.tick.now + 16 → ¬ fits n) → s.placeCmd c = s.modCmd c.cid fun d => { d with tried := some s.tick.now }) ∧
    (∀ n, s.tick.now ≤ n → n < s.tick.now + 16 → fits n → (∀ m, s.tick.now ≤ m → m < n → ¬ fits m) →
      (s.placeCmd c).sched.plan = s.sched.plan ++ [{ cid := c.cid, tick := n, amt := c.budget }] ∧ (s.placeCmd c).cmd? c.cid = some { c with state := .placed, tick := n, planLeft := 0 } ∧
      s.placeCmd c = { s with sched := (s.placeCmd c).sched } ∧ ∀ d ∈ s.sched.cmds, d.cid ≠ c.cid → d ∈ (s.placeCmd c).sched.cmds)) ∧
  (∀ r n, (∀ p ∈ s.sched.plan, p.cid ≠ c.cid) → (∀ d ∈ s.sched.cmds, d.cid = c.cid → d = c) →
    (s.placeCmd c).planned r n (fun _ => true) ≤ max (s.planned r n (fun _ => true)) (s.rowCap r))

/-- DETAIL of stream, DMA and signature errors. The DETAIL words of ST_FAULT_UNRESOLVED raised by a stream engine, of BDM error
replies and of ST_SIGNATURE replies hold their fields at the manual's bits, with the reserved bits 0. (R159, R180, R238) -/
def Obligations.ErrorDetails : Prop := (∀ (s : State) (f : PFault) (cause : Nat), f.src = .ste → f.unit < 64 → f.prog < 16 → cause < 16 → f.va < 2 ^ 52 → let x := s.faultDetail f cause;
    (x.extractLsb' 58 6).toNat = f.unit ∧ (x.extractLsb' 54 4).toNat = f.prog ∧ x.getLsbD 53 = f.write ∧ (x.extractLsb' 49 4).toNat = cause ∧ x.extractLsb' 36 13 = 0 ∧
      (x.extractLsb' 0 36).toNat = f.va / 2 ^ 16) ∧
  (FCause.unmapped.code = 1 ∧ FCause.permission.code = 2 ∧ FCause.quota.code = 3 ∧ FCause.tierLost.code = 4) ∧
  (∀ (k : ChanId) (ch : Chan) (cause : Nat) (side : Bool) (b : Burst), cause < 16 → b.desc < 2 ^ 16 → b.off < 2 ^ 40 → let x := dmaDetail k ch cause side (some b);
    (x.extractLsb' 48 16).toNat = b.desc ∧ (x.extractLsb' 44 4).toNat = cause ∧ x.getLsbD 43 = side ∧ (x.extractLsb' 40 3).toNat = k.val % 8 ∧ (x.extractLsb' 0 40).toNat = b.off) ∧
  (dmaHostError = 6 ∧ dmaHoldLimit = 7 ∧ dmaAborted = 8 ∧ dmaUncorrectable = 9) ∧
  (∀ stage chunk : Nat, stage < 16 → chunk < 2 ^ 32 → ((sigDetail stage chunk).extractLsb' 60 4).toNat = stage ∧ (sigDetail stage chunk).extractLsb' 32 28 = 0 ∧
    ((sigDetail stage chunk).extractLsb' 0 32).toNat = chunk)

/-- ADM and CTX commands. NOP, ADM_MODE, ADM_SERVICE, ADM_IDENTITY, CTX_CREATE, CTX_FENCE, CTX_UNFENCE and CTX_DESTROY that are
admitted and start commit or go on in the cases that the clauses name, change what it says and keep every other part of the
state. -/
def Obligations.AdmAndContextCommands : Prop :=
  (∀ (s : State) (h : Hdr),
  (s.runs h .nop = true → Commits (.nop h) h 0x0100 0 s [] fun _ => True) ∧
  (∀ m : W32, s.runs h (.admMode m) = true → Commits (.admMode h m) h 0x0101 0 s [.mode] fun t =>
    t.mode.role.val = bitsOf m.toNat 13 12 ∧ t.mode.guardF.val = bitsOf m.toNat 9 8 ∧ t.mode.check.val = bitsOf m.toNat 5 4 ∧
    t.mode.power.val = bitsOf m.toNat 1 0 ∧ t.mode.lock = (s.mode.lock || bitOf m.toNat 31) ∧ t.mode.checkNow.val = bitsOf m.toNat 5 4 ∧
    t.mode.roleNow = s.mode.roleNow ∧ t.mode.guardNow = s.mode.guardNow ∧ t.mode.powerNow = s.mode.powerNow) ∧
  (∀ (svc : Byte) (va len : W64) (v : Service) (k : CoreId), s.runs h (.admServiceStart svc va len) = true → service? svc = some v →
    s.leastCore none = some k → match s.badFirmware 2 (s.ctxBytes h.ctx va.toNat len.toNat) with
    | none => Commits (.admServiceStart h svc va len) h 0x0102 0 s [.sched, .rings] fun t =>
      (∀ j : CoreId, t.sched.cores[j] = if j = k then .service v else s.sched.cores[j]) ∧
      (svc, sliceOf (s.ctxBytes h.ctx va.toNat 0x50) 0x20 48) ∈ t.sched.svcRoots
    | some (stage, chunk) => Fails (.admServiceStart h svc va len) h 0x0102 stSignature (sigDetail stage chunk) s) ∧
  (∀ (svc : Byte) (v : Service), s.runs h (.admServiceStop svc) = true → service? svc = some v →
    Commits (.admServiceStop h svc) h 0x0102 0 s [.sched, .serve] fun t =>
      (∀ k : CoreId, t.sched.cores[k] = if s.sched.cores[k] = .service v then .free else s.sched.cores[k]) ∧
      (v ≠ .servingLoop → t.serve = s.serve) ∧ (v = .servingLoop → t.serve.sessions = [] ∧ t.serve.reqs = [] ∧ ∀ k : Fin 16, t.serve.insts[k] = none)) ∧
  (∀ x y z w : Byte, s.runs h (.admIdentity x y z w) = true →
    Commits (.admIdentity h x y z w) h 0x0103 0 s [.mem, .tick, .fab, .ras, .boot, .pcie, .mgt, .banks] fun t =>
      t.fab.ident = identOf x.toNat y.toNat z.toNat w.toNat ∧
      (s.boot.hb = hbSpare → w.toNat ≤ 7 → s.mir.inter.isNone → t.boot.hb = hbActive))) ∧
  (∀ (s : State) (h : Hdr),
  (∀ (ctx classes : Byte) (base n : W16) (tenant seed : W64) (k : CtxId),
    s.runs h (.ctxCreate ctx classes base n tenant seed) = true → s.freeCtx? ctx = some k →
    let x : Ctx := { gen := (s.ctx k).gen, state := .active, classes := BitVec.ofNat 4 classes.toNat, semBase := base.toNat, semCount := n.toNat,
                     tenant, seed, forced := (s.ctx k).forced, key := true, keyDraw := s.free, recipes := defaultRecipes }
    (s.modCtx k fun _ => x).framesFit 0 = true →
    Commits (.ctxCreate h ctx classes base n tenant seed) h 0x0200 (BitVec.ofNat 64 (k.val + 256 * (s.ctx k).gen.toNat)) s [.ctxs, .sched] fun t =>
      t.ctx k = x ∧ (∀ j, j ≠ k → t.ctx j = s.ctx j) ∧ (∀ q : SemId, base.toNat ≤ q.val → q.val < base.toNat + n.toNat → t.semCount q = 0) ∧
      (∀ q : SemId, q.val < base.toNat ∨ base.toNat + n.toNat ≤ q.val → t.semCount q = s.semCount q) ∧ t.sched.cmds = []) ∧
  (∀ ctx mode : Byte, s.runs h (.ctxFence ctx mode) = true → Commits (.ctxFence h ctx mode) h 0x0201 0 s [.ctxs] fun t =>
    t.ctx (ctxOf ctx) = { s.ctx (ctxOf ctx) with state := .fenced } ∧ ∀ j, j ≠ ctxOf ctx → t.ctx j = s.ctx j) ∧
  (∀ ctx : Byte, s.runs h (.ctxUnfence ctx) = true → Commits (.ctxUnfence h ctx) h 0x0202 0 s [.ctxs] fun t =>
    t.ctx (ctxOf ctx) = { s.ctx (ctxOf ctx) with state := .active } ∧ ∀ j, j ≠ ctxOf ctx → t.ctx j = s.ctx j) ∧
  (∀ ctx : Byte, s.runs h (.ctxDestroy ctx) = true → Answers (.ctxDestroy h ctx) s fun t =>
    t.ctx (ctxOf ctx) = { s.ctx (ctxOf ctx) with state := .fencing, gen := nextGen (s.ctx (ctxOf ctx)).gen, endedKilled := 0, endedPartial := 0 } ∧
    t.sched.cmds.map (·.op) = [.ctxDestroy ctx] ∧ ∀ x, x ∉ [Part.ctxs, .sched, .memUnit, .cle] → Kept h s t x))

/-- MEM commands. MEM_MAP, MEM_UNMAP, MEM_HINT, MEM_QUOTA and MEM_RESOLVE that are admitted and start change pages, hints, quotas
and faults in the cases that the clauses name and keep every other part of the state. -/
def Obligations.MemoryCommands : Prop :=
  (∀ (s : State) (h : Hdr),
  (∀ (va len : W64) (attr : W32) (z : PSize) (r w : Bool) (hint : Hint), s.runs h (.memMap va len attr) = true →
    mapAttr? attr = some (z, r, w, hint) →
    let ps := (List.range (len.toNat / z.bytes)).map fun k =>
      ({ ctx := h.ctx, va := va.toNat + k * z.bytes, size := z, tier := hint.tier, hint, r, w, named := s.tick.now } : Page)
    let u := s.modMem fun m => { m with pages := m.pages ++ ps }
    let v := u.modPages (fun p => decide (p.ctx = h.ctx) && overlaps (p.va / 2 ^ 21 * 2 ^ 21) (2 ^ 21) va.toNat len.toNat) u.joinBlock
    (v.framesFit 0 = true ∨ v.tableFrames h.ctx = s.tableFrames h.ctx) → (hint = .pinT2 → v.roomT2 h.ctx 0 = true) →
    Commits (.memMap h va len attr) h 0x0300 0 s [.memUnit] fun t => t.memUnit.pages = v.memUnit.pages ∧
      (t.memUnit.pages.map fun p => (p.ctx, p.va, p.size, p.hint, p.r, p.w, p.zero)) =
        (s.memUnit.pages ++ ps).map fun p => (p.ctx, p.va, p.size, p.hint, p.r, p.w, p.zero)) ∧
  (∀ (va len : W64), s.runs h (.memUnmap va len) = true → s.faultIn h.ctx va.toNat len.toNat = false →
    Commits (.memUnmap h va len) h 0x0301 0 s [.memUnit, .mem] fun t =>
      t.memUnit.pages = (s.memUnit.pages.filter fun p => !p.inRange h.ctx va.toNat len.toNat) ∧
      (memWf s.mem = true → ∀ a, (∀ k, s.replyKey? h.ring = some k → a < k ∨ k + 32 ≤ a) →
        memRead t.mem a = if s.memUnit.pages.any (fun p => p.inRange h.ctx va.toNat len.toNat && decide (ctxKey h.ctx p.va ≤ a) &&
          decide (a < ctxKey h.ctx p.va + p.size.bytes)) then 0 else memRead s.mem a)) ∧
  (∀ (va len : W64) (attr : W32) (hint : Hint), s.runs h (.memHint va len attr) = true → hintAttr? attr = some (hint, false) →
    s.faultIn h.ctx va.toNat len.toNat = false → Answers (.memHint h va len attr) s fun t =>
      Replied h 0x0302 s t .committed false stOk (BitVec.ofNat 64 (t.outside h.ctx va.toNat len.toNat)) ∧
      (t.memUnit.pages.map fun p => (p.ctx, p.va, p.size, p.hint, p.r, p.w)) = (s.memUnit.pages.map fun p =>
        (p.ctx, p.va, p.size, if p.inRange h.ctx va.toNat len.toNat then hint else p.hint, p.r, p.w)) ∧
      ∀ x, x ∉ [Part.memUnit, .vault] → Kept h s t x) ∧
  (∀ (va len : W64) (attr : W32) (hint : Hint), s.runs h (.memHint va len attr) = true → hintAttr? attr = some (hint, true) →
    (∀ f ∈ s.memUnit.faults, f.ctx ≠ h.ctx) →
    let u := s.modPages (fun p => p.inRange h.ctx va.toNat len.toNat) fun p => { p with hint }
    (∀ p ∈ u.pagesIn h.ctx va.toNat len.toNat, p.migrating = false ∧ p.tier = (u.effHint p).tier ∧ p.tier = p.claim.tier) → (hint = .pinT2 → u.roomT2 h.ctx 0 = true) →
    Commits (.memHint h va len attr) h 0x0302 0 s [.memUnit] fun t => t.memUnit.pages = u.memUnit.pages) ∧
  (∀ (ctx : Byte) (t2 t3 t4 sh : W32), s.runs h (.memQuota ctx t2 t3 t4 sh) = true →
    Commits (.memQuota h ctx t2 t3 t4 sh) h 0x0303 0 s [.ctxs, .memUnit, .vault] fun t =>
      t.ctx (ctxOf ctx) = { s.ctx (ctxOf ctx) with quotaT2 := t2.toNat, quotaT3 := t3.toNat, quotaT4 := t4.toNat, quotaSh := sh.toNat } ∧
      ∀ j, j ≠ ctxOf ctx → t.ctx j = s.ctx j)) ∧
  (∀ (s u : State) (h : Hdr) (c : Cmd) (id : W32),
  (s.starts? h (.memResolveRetry id) = some (u, c) →
    exec (.memResolveRetry h id) s = .next ((State.finish c.cid none (doneOk (u.retryFault id))).served)) ∧
  (∀ f : PFault, s.faultsOf id = [f] → f.src = .bdm → f.cause ≠ .quota → s.access f.ctx f.va f.write = none →
    (s.chan (Fin.ofNat 32 f.unit)).cid = f.cid → (s.chan (Fin.ofNat 32 f.unit)).state = .faulted →
    (s.retryFault id).faultsOf id = [] ∧ ((s.retryFault id).chan (Fin.ofNat 32 f.unit)).state = .active) ∧
  (∀ f : PFault, s.starts? h (.memResolveFail id) = some (u, c) → u.recorded? h.ctx id = some f →
    exec (.memResolveFail h id) s = .next ((State.finish c.cid none (doneOk (u.failFault id f.cause))).served)) ∧
  (∀ cause : FCause, (s.failFault id cause).faultsOf id = [] ∧ ∀ f ∈ s.faultsOf id, (s.failFault id cause).cmd? f.cid = none))

/-- WGT commands. Image installation, erasure, keys, and the load, pin, unpin, switch and drop of weight slots change the vault and
the context's slots in the cases that the clauses name and keep every other part of the state. -/
def Obligations.WeightCommands : Prop :=
  (∀ (s : State) (h : Hdr),
  (∀ (img : Byte) (va len : W64), s.runs h (.wgtInstallBegin img va len) = true →
    let bs := s.ctxBytes h.ctx va.toNat len.toNat
    let used := (s.vault.images.toList.filter fun i => i.state != .empty).foldl (fun n i => n + i.man.chunks * chunkBytes) 0
    (s.image (imgOf img)).state = .empty → used + (manifestOf bs).chunks * chunkBytes ≤ s.vault.imageNow * 2 ^ 30 → s.vaultFull = false →
    match s.badManifest bs with
    | none => Commits (.wgtInstallBegin h img va len) h 0x0400 0 s [.vault] fun t =>
      t.vault = (s.modImage (imgOf img) fun _ => { state := .installing, man := manifestOf bs }).vault
    | some (st, stage) => Fails (.wgtInstallBegin h img va len) h 0x0400 st (if st = stSignature then sigDetail stage 0 else 0) s) ∧
  (∀ (img : Byte) (va : W64) (first count : W32), s.runs h (.wgtInstallChunks img va first count) = true →
    let i := s.image (imgOf img)
    let chunk (j : Nat) : List Byte := s.ctxBytes h.ctx (va.toNat + j * chunkBytes) (i.man.chunkLen (first.toNat + j))
    i.state ≠ .empty → first.toNat + count.toNat ≤ i.man.chunks → s.readable h.ctx va.toNat (i.man.span first.toNat count.toNat) = true →
    s.vaultFull = false → (∀ j, j < count.toNat → i.man.leaf.getD (first.toNat + j) [] = leafHash (first.toNat + j) (chunk j)) →
    (∀ p ∈ s.memUnit.pages, p.poison = false ∧ p.lost = false) →
    Commits (.wgtInstallChunks h img va first count) h 0x0400 0 s [.vault, .sched] fun t =>
      (t.image (imgOf img)).state = i.state ∧ (t.image (imgOf img)).man = i.man ∧ t.vault.keys = s.vault.keys ∧ t.vault.keels = s.vault.keels ∧
      (∀ j, j < count.toNat → ((t.image (imgOf img)).data.find? fun d => d.1 == first.toNat + j) = some (first.toNat + j, chunk j, chunk j)) ∧
      (∀ m, m < first.toNat ∨ first.toNat + count.toNat ≤ m →
        ((t.image (imgOf img)).data.find? fun d => d.1 == m) = i.data.find? fun d => d.1 == m) ∧
      ∀ k, k ≠ imgOf img → t.image k = s.image k) ∧
  (∀ img : Byte, s.runs h (.wgtInstallCommit img) = true → (s.image (imgOf img)).state ≠ .empty →
    Commits (.wgtInstallCommit h img) h 0x0400 0 s [.vault] fun t => t.vault = (s.modImage (imgOf img) fun i => { i with state := .ready }).vault) ∧
  (∀ img : Byte, s.runs h (.wgtInstallAbort img) = true →
    Commits (.wgtInstallAbort h img) h 0x0400 0 s [.vault] fun t => t.vault = (s.modImage (imgOf img) fun _ => {}).vault) ∧
  (∀ img : Byte, s.runs h (.wgtErase img) = true →
    Commits (.wgtErase h img) h 0x0401 0 s [.vault] fun t => t.vault = (s.modImage (imgOf img) fun _ => {}).vault) ∧
  (∀ (slot : Byte) (va : W64), s.runs h (.wgtKeyAdd slot va) = true → s.vault.keys[(Fin.ofNat 8 slot.toNat : Fin 8)] = none →
    Commits (.wgtKeyAdd h slot va) h 0x0402 0 s [.vault] fun t => ∀ k : Fin 8, t.vault.keys[k] =
      if k.val = slot.toNat then some (s.ctxBytes h.ctx va.toNat 48, s.ctxBytes h.ctx (va.toNat + 48) 48) else s.vault.keys[k]) ∧
  (∀ slot : Byte, s.runs h (.wgtKeyRevoke slot) = true → Commits (.wgtKeyRevoke h slot) h 0x0402 0 s [.vault] fun t => ∀ k : Fin 8,
    t.vault.keys[k] = if k.val = slot.toNat then none else s.vault.keys[k])) ∧
  (∀ (s : State) (h : Hdr),
  (∀ (img slot : Byte) (group members : W16) (lflags : Byte) (va len smap : W64) (n : W32), s.runs h (.wgtLoad img slot group members lflags va len smap n) = true →
    let m := (s.image (imgOf img)).man
    let chunks := shardChunks (s.shardMap h.ctx smap.toNat n.toNat)
    Answers (.wgtLoad h img slot group members lflags va len smap n) s fun t =>
      t.wslot h.ctx (slotOf slot) = { state := if chunks = [] then .ready else .loading, va := va.toNat, len := len.toNat, version := m.version,
                                      root := m.root, img, chunks, group, members := BitVec.ofNat 9 members.toNat,
                                      leaf := chunks.map fun x => (x.1, m.leaf.getD x.1 []) } ∧
      (∀ j, j ≠ slotOf slot → t.wslot h.ctx j = s.wslot h.ctx j) ∧ (chunks = [] ↔ t.sched.cmds = []) ∧ (∀ k, k ≠ h.ctx → t.ctx k = s.ctx k) ∧ t.slices = s.slices ∧ t.dma = s.dma ∧
      t.vault = s.vault ∧ t.memUnit.pages = s.memUnit.pages) ∧
  (∀ (n : W32) (k : WSlotId), s.runs h (.wgtPin n) = true → (s.ctx h.ctx).cur = some k → (s.wslot h.ctx k).pins + n.toNat ≤ maxPins →
    let p := (s.wslot h.ctx k).pins + n.toNat
    Commits (.wgtPin h n) h 0x0404 (BitVec.ofNat 64 ((s.wslot h.ctx k).version.toNat * 2 ^ 32 + p * 2 ^ 8 + k.val)) s [.ctxs] fun t =>
      ∀ x, t.ctx x = (s.modWslot h.ctx k fun w => { w with pins := p }).ctx x) ∧
  (∀ (slot : Byte) (n : W32), s.runs h (.wgtUnpin slot n) = true → n.toNat ≤ (s.wslot h.ctx (slotOf slot)).pins →
    Commits (.wgtUnpin h slot n) h 0x0405 0 s [.ctxs] fun t => ∀ x, t.ctx x = (s.modWslot h.ctx (slotOf slot) fun w => { w with pins := w.pins - n.toNat }).ctx x) ∧
  (∀ slot : Byte, s.runs h (.wgtSwitch slot) = true → (s.wslot h.ctx (slotOf slot)).state = .ready →
    Commits (.wgtSwitch h slot) h 0x0406 (BitVec.ofNat 64 (min (s.slotPoison h.ctx (s.wslot h.ctx (slotOf slot))) 0x1FFFF * 2 ^ 32)) s [.ctxs] fun t =>
      t.ctx h.ctx = { s.ctx h.ctx with cur := some (slotOf slot) } ∧ ∀ x, x ≠ h.ctx → t.ctx x = s.ctx x) ∧
  (∀ slot : Byte, s.runs h (.wgtDrop slot) = true → (s.wslot h.ctx (slotOf slot)).state = .ready → (s.ctx h.ctx).cur ≠ some (slotOf slot) →
    Commits (.wgtDrop h slot) h 0x0407 0 s [.ctxs] fun t => ∀ x, t.ctx x = (s.modWslot h.ctx (slotOf slot) fun w => { w with state := .retiring }).ctx x))

/-- KEEL commands. KEEL_WRITE, KEEL_READ and KEEL_DROP that are admitted and start take their slot, or drop it, in the cases that
the clauses name. -/
def Obligations.KeelCommands : Prop := ∀ (s : State) (h : Hdr) (kslot : Byte),
  (∀ (smap job : W64) (n step : W32), s.runs h (.keelWrite kslot smap n job step) = true → (s.keel kslot).state = .empty → s.vaultFull = false →
    Answers (.keelWrite h kslot smap n job step) s fun t =>
      (∃ c, t.sched.cmds = [c] ∧ c.state = .issued ∧ c.op = .keelWrite kslot smap n job step ∧
        c.chunks = (shardChunks (s.shardMap h.ctx smap.toNat n.toNat)).map fun x => (x.1, x.2, s.ctxBytes h.ctx x.2 chunkBytes)) ∧
      ∀ x, x ∉ [Part.ctxs, .sched, .memUnit, .cle] → Kept h s t x) ∧
  (∀ (smap : W64) (n : W32), s.runs h (.keelRead kslot smap n) = true →
    let sh := s.shardMap h.ctx smap.toNat n.toNat
    (s.keel kslot).state = .valid → (s.keel kslot).tenant = (s.ctx h.ctx).tenant → (∀ e ∈ sh, e.chunk + e.count ≤ (s.keel kslot).chunkCount) →
    Answers (.keelRead h kslot smap n) s fun t =>
      (∃ c, t.sched.cmds = [c] ∧ c.state = .issued ∧ c.op = .keelRead kslot smap n ∧
        c.chunks = (shardChunks sh).map fun x => (x.1, x.2, (s.keel kslot).chunk x.1)) ∧
      ∀ x, x ∉ [Part.ctxs, .sched, .memUnit, .cle] → Kept h s t x) ∧
  (s.runs h (.keelDrop kslot) = true → Commits (.keelDrop h kslot) h 0x040A 0 s [.vault] fun t =>
    t.vault = (s.modKeel (keelOf kslot) fun _ => {}).vault)

/-- Graph commands. SUBMIT_GRAPH, GRAPH_RUN and GRAPH_RELEASE with an open gate copy, run and release the graph slot in the cases
that the clauses name. -/
def Obligations.GraphCommands : Prop := ∀ (s u : State) (h : Hdr) (c : Cmd) (gslot : Byte), s.alone = true →
  (∀ (flags : Byte) (step : W32) (gaddr : W64) (glen : W32), s.opens? h (.submitGraph gslot flags step gaddr glen) = some (u, c) →
    bitOf flags.toNat 0 = false → Answers (.submitGraph h gslot flags step gaddr glen) s fun t =>
      Replied h 0x0500 s t .committed false stOk 0 ∧ t.sched.cmds = [] ∧ s.graph? h.ctx gslot = none ∧
      ∃ g, u.graph? h.ctx gslot = some g ∧ t.graph? h.ctx gslot = some { g with ready := true } ∧
        t.ctx h.ctx = (s.ctx h.ctx).override g.rcp ∧ ∀ k, k ≠ h.ctx → t.ctx k = s.ctx k) ∧
  (∀ (flags : Byte) (step : W32) (gaddr : W64) (glen : W32), s.opens? h (.submitGraph gslot flags step gaddr glen) = some (u, c) →
    bitOf flags.toNat 0 = true → exec (.submitGraph h gslot flags step gaddr glen) s =
      .next ((State.finish c.cid none (u.startGraph c)).served)) ∧
  (∀ (step : W32) (g : Graph) (ps : List Prep), s.opens? h (.graphRun gslot step) = some (u, c) → u.graph? h.ctx gslot = some g → g.nodes ≠ [] →
    (g.nodes.mapM fun n => u.checkCopied { c with prio := n.prio, fixed := n.fixed, chain := n.chain, budget := n.budget.toNat, op := n.op }
      { n.kb with step := if kernelOp (opCode n.op) then step else n.kb.step }) = .ok ps →
    u.fenceOrderOk h.ctx g step c.after = true → (∀ n ∈ g.nodes, opIsOpt n.op = false) →
    Answers (.graphRun h gslot step) s fun t =>
      t.sched.runs = [{ cid := c.cid, ctx := h.ctx, slot := g.slot, step, ends := g.nodes.map fun _ => .notEnded }] ∧
      t.sched.cmds.length = g.nodes.length + 1 ∧
      (∀ k n, g.nodes[k]? = some n → ∃ d ∈ t.sched.cmds, d.run = some c.cid ∧ d.node = k + 1 ∧ d.prio = n.prio ∧ d.fixed = n.fixed ∧
        d.budget = n.budget.toNat ∧ (d.state = .ready ↔ d.preds = []) ∧ opCode d.op = opCode n.op) ∧
      ∀ x, x ∉ [Part.ctxs, .sched, .memUnit, .cle] → Kept h s t x) ∧
  (s.opens? h (.graphRelease gslot) = some (u, c) → Commits (.graphRelease h gslot) h 0x0502 0 s [.sched, .memUnit] fun t =>
    t.graph? h.ctx gslot = none ∧ ∀ x k, (x ≠ h.ctx ∨ k ≠ gslot.toNat) →
      (t.sched.graphs.filter fun g => decide (g.ctx = x) && g.slot.val == k) = s.sched.graphs.filter fun g => decide (g.ctx = x) && g.slot.val == k)

/-- STEP_FENCE, SEM_ACQUIRE and SEM_RELEASE. An admitted step fence closes its step or joins the reduction of its job; an acquire
that is grantable takes the semaphore's value and a release adds to it, saturating. -/
def Obligations.StepFencesAndSemaphores : Prop := ∀ (s u : State) (h : Hdr) (c : Cmd), s.alone = true →
  (∀ step : W32, s.opens? h (.stepFence step) = some (u, c) → Answers (.stepFence h step) s fun t =>
    (t.ctx h.ctx).fenced = step :: (s.ctx h.ctx).fenced ∧ t.sched.cmds.map (fun d => (d.op, d.state)) = [(.stepFence step, .issued)] ∧
    ∀ x, x ∉ [Part.ctxs, .sched, .memUnit, .cle] → Kept h s t x) ∧
  (∀ k v : W16, s.admitted? h (.semRelease k v) = some (u, c) → Answers (.semRelease h k v) s fun t =>
    Replied h 0x0522 s t .committed false stOk 0 ∧ t.sched.cmds = [] ∧
    t.semCount (Fin.ofNat 4096 k.toNat) = min 65535 (s.semCount (Fin.ofNat 4096 k.toNat) + v.toNat) ∧
    (∀ j, j ≠ Fin.ofNat 4096 k.toNat → t.semCount j = s.semCount j)) ∧
  (∀ k v : W16, s.admitted? h (.semAcquire k v) = some (u, c) → Answers (.semAcquire h k v) s fun t =>
    t.sched.cmds.map (fun d => (d.op, d.state, d.tick)) = [(.semAcquire k v, .placed, s.tick.now)] ∧ (∀ j, t.semCount j = s.semCount j) ∧
    ∀ x, x ∉ [Part.sched, .memUnit, .cle] → Kept h s t x)

/-- Kernel, DMA and collective packets. A packet of a planned opcode that is admitted with nothing else under way becomes a command
of its ring in queue order, READY or placed, and changes no other part of the state but counts. -/
def Obligations.PlannedCommands : Prop := ∀ (i : Instr) (s t : State) (h : Hdr) (op : Op) (c : Cmd), plannedRow i = some (h, op) → s.alone = true →
  s.admitted? h op = some (t, c) →
  let p := (t.held h c).placeAll
  exec i s = .next ((p.tryIssue c.cid).served) ∧ (p.tryIssue c.cid).served = p.tryIssue c.cid ∧
  ((c.kb.engs.any fun d => (s.slice d.eng).out) = false → rowsOf c ≠ [] → c.prio ≠ 0 → c.budget ≤ (t.held h c).oneTick c →
    (t.held h c).tickFits c s.tick.now c.budget false = true →
    (∃ d, p.cmd? c.cid = some d ∧ d.state = .placed ∧ d.tick = s.tick.now) ∧
      p.sched.plan = s.sched.plan ++ [{ cid := c.cid, tick := s.tick.now, amt := c.budget }]) ∧
  (∀ d v, p.cmd? c.cid = some d → d.state = .placed → d.tick ≤ s.tick.now → isAcquire op = false → isRelease op = false → d.isEmpty = false →
    p.recordWaits d = false → p.allot d = some (.ok v) → p.tryIssue c.cid = v.begin c.cid)

/-- DMA_ABORT and what happens on DMA channels. DMA_ABORT ends the command of its channel; bursts land, fault, fail and are sampled,
held and kicked in the cases that the clauses name; a burst that lands moves its bytes and no others. -/
def Obligations.DmaEvents : Prop :=
  (∀ (s u : State) (h : Hdr) (c : Cmd) (chan : Byte), s.starts? h (.dmaAbort chan) = some (u, c) →
  let k : ChanId := Fin.ofNat 32 chan.toNat
  ((s.chan k).state = .idle ∨ (s.chan k).state = .ending → s.alone = true → Commits (.dmaAbort h chan) h 0x0601 0 s [] fun _ => True) ∧
  (∀ y : Cmd, (s.chan k).state ≠ .idle → (s.chan k).state ≠ .ending → s.cmd? (s.chan k).cid = some y → y.chan = some k → y.run = none → y.fixed = false →
    Answers (.dmaAbort h chan) s fun t => t.cmd? y.cid = none ∧ (t.chan k).state = .idle)) ∧
  (∀ (s : State) (k : ChanId), NoneReady s →
  (∀ (n : Nat) (r : BurstEnd), (s.chan k).flight[n]? = none → Answers (.dmaBurstLand k n r) s fun t => t = s) ∧
  (∀ (n : Nat) (c : Cmd) (b : Burst) (d : DmaDesc), s.cmd? (s.chan k).cid = some c → (s.chan k).flight[n]? = some b → (s.chan k).cursor ≠ some b → c.kb.descs[b.desc]? = some d →
    s.burstServed c (s.chan k) b = true → c.fixed = true → d.srcKind = kCtx → d.dstKind = kCtx → (s.chan k).pace = 0 → (s.chan k).early = [] → memWf s.mem = true →
    Changes (.dmaBurstLand k n .ok) s [.dma, .mem, .memUnit, .mir, .banks] fun t => t.memUnit.pages = s.memUnit.pages ∧
      t.ctxBytes c.ctx (d.dst + b.off) b.len = s.ctxBytes c.ctx (d.src + b.off) b.len ∧
      (∀ a, (a < ctxKey c.ctx (d.dst + b.off) ∨ ctxKey c.ctx (d.dst + b.off) + b.len ≤ a) → memRead t.mem a = memRead s.mem a) ∧
      (t.chan k).bytes = (s.chan k).bytes + b.len ∧ (∀ x ∈ (t.chan k).flight, x ∈ (s.chan k).flight ∧ ¬(x.desc = b.desc ∧ x.off = b.off)) ∧
      ∀ j, j ≠ k → t.chan j = s.chan j) ∧
  (∀ (n : Nat) (c : Cmd) (b : Burst), StandsAlone s c → c.cid = (s.chan k).cid → c.fixed = false → (s.chan k).flight[n]? = some b → (s.chan k).cursor ≠ some b →
    (Answers (.dmaBurstLand k n .uncorrectable) s fun t => EndedAlone s t c .killed stUncorrectable ∧ ∃ x : W64, DetailOf t c.ring x ∧
      x.extractLsb' 48 16 = BitVec.ofNat 16 b.desc ∧ x.extractLsb' 44 4 = 9 ∧ x.getLsbD 43 = false ∧ x.extractLsb' 40 3 = BitVec.ofNat 3 k.val ∧ x.extractLsb' 0 40 = BitVec.ofNat 40 b.off) ∧
    (Answers (.dmaBurstLand k n .hostError) s fun t => EndedAlone s t c .killed stFaultUnresolved ∧ ∃ x : W64, DetailOf t c.ring x ∧ x.extractLsb' 44 4 = 6)) ∧
  (∀ (path : Path) (v : W32), k.val = v.toNat % 32 → (s.chan k).state = .idle → Answers (.dmaKick path v) s fun t => t = s) ∧
  (∀ (path : Path) (v : W32), k.val = v.toNat % 32 → (s.chan k).state = .armed → (s.chan k).pace = 1 → (s.chan k).qkind = false →
    let h := s.ringHdr (s.chan k).ctx (s.chan k).qaddr
    let f := (s.chan k).prod + (s.chan k).ringGranted - h.cons
    Changes (.dmaKick path v) s [.dma] fun t => (t.chan k).cons = h.cons ∧ (t.chan k).closed = h.closed ∧ (t.chan k).level = f ∧
      (t.chan k).state = (if (s.chan k).low * 4096 < f then .armed else if (s.chanDescs k).length ≤ (s.chan k).desc then (if (s.chan k).flight = [] then .ending else .flushing)
        else .active) ∧ ∀ j, j ≠ k → t.chan j = s.chan j) ∧
  ((s.chan k).state = .armed ∨ (s.chan k).state = .held → ∀ path v, k.val = v.toNat % 32 → exec (.dmaRingSample k) s = exec (.dmaKick path v) s) ∧
  ((s.chan k).state ≠ .armed → (s.chan k).state ≠ .held → (Answers (.dmaRingSample k) s fun t => t = s) ∧ Answers (.dmaHoldLimit k) s fun t => t = s) ∧
  (∀ c : Cmd, StandsAlone s c → c.cid = (s.chan k).cid → c.fixed = true → c.state = .issued → ((s.chan k).state = .armed ∨ (s.chan k).state = .held) → (s.chan k).holdTicks ≠ 0 →
    (s.chan k).holdTicks ≤ s.tick.now - (s.chan k).holdFrom → (s.chan k).starts (s.fillOf (s.chan k)) = false → Answers (.dmaHoldLimit k) s fun t => EndedAlone s t c .partialEnd stDeadlineMiss ∧
      ∃ x : W64, DetailOf t c.ring x ∧ x.extractLsb' 44 4 = 7) ∧
  (∀ (n : Nat) (side : Bool) (c : Cmd) (b : Burst) (d : DmaDesc) (va : Nat), s.cmd? (s.chan k).cid = some c → (s.chan k).flight[n]? = some b → c.kb.descs[b.desc]? = some d →
    burstVa (s.chan k) d b side = some va →
    (s.access c.ctx va side = none → Answers (.dmaBurstFault k n side) s fun t => t = s) ∧
    (∀ cause, s.access c.ctx va side = some cause → cause ≠ .tierLost ∨ (s.ctx c.ctx).inWeights va = true → Answers (.dmaBurstFault k n side) s fun t =>
      (t.chan k).state = .faulted ∧ (t.chan k).cursor = some b ∧ (t.chan k).flight = (s.chan k).flight ∧
      (∃ f ∈ t.memUnit.faults, f.id = (t.chan k).faultId ∧ f.ctx = c.ctx ∧ f.cause = cause ∧ f.va = va ∧ f.write = side ∧ f.cid = c.cid) ∧
      (∀ j, j ≠ k → t.chan j = s.chan j) ∧ t.sched = s.sched ∧ t.slices = s.slices)))

/-- MIR commands. MIR_PAIR, MIR_SYNC, MIR_INTERCALATE and MIR_RESTORE that are admitted and start set the pairing, begin the copy,
the intercalation or the restoration in the cases that the clauses name. -/
def Obligations.MirrorCommands : Prop := ∀ (s : State) (h : Hdr),
  (∀ (ctx gsize gpos : Byte) (partner ward guest : W16) (gtab ptab : W64) (n : W16), s.runs h (.mirPair ctx gsize gpos partner ward guest gtab ptab n) = true →
    let q := s.pairingOf gsize gpos partner ward guest gtab.toNat ptab.toNat n.toNat
    Commits (.mirPair h ctx gsize gpos partner ward guest gtab ptab n) h 0x0800 0 s [.mir] fun t =>
      t.mirOf (ctxOf ctx) = (if (s.mirOf (ctxOf ctx)).state = .none then { (s.mirOf (ctxOf ctx)).pair q with state := .paired }
        else { s.mirOf (ctxOf ctx) with nextPair := some q }) ∧
      ∀ k, k ≠ ctxOf ctx → t.mirOf k = s.mirOf k) ∧
  (∀ step : W32, s.runs h (.mirSync step) = true → (s.mirOf h.ctx).state = .none → Commits (.mirSync h step) h 0x0801 0 s [] fun _ => True) ∧
  (∀ step : W32, s.runs h (.mirSync step) = true → (s.mirOf h.ctx).state ≠ .none → s.mode.guardF = guardOff →
    Commits (.mirSync h step) h 0x0801 0 s [.mir, .mode] fun t => (t.mirOf h.ctx).guardNow = guardOff ∧ (t.mirOf h.ctx).state = (s.mirOf h.ctx).state) ∧
  (∀ step : W32, s.runs h (.mirSync step) = true → (s.mirOf h.ctx).state ≠ .none → s.mode.guardF ≠ guardOff →
    Answers (.mirSync h step) s fun t => (t.mirOf h.ctx).state = .syncing ∧ (t.mirOf h.ctx).dirty = [] ∧
      (∀ v, v ∈ (t.mirOf h.ctx).sending ↔ v ∈ (s.mirOf h.ctx).sending ∨ v ∈ (s.mirOf h.ctx).dirty) ∧
      (∀ k, k ≠ h.ctx → t.mirOf k = s.mirOf k)) ∧
  (∀ (ctx : Byte) (step : W32), s.runs h (.mirRestore ctx 0 step) = true → (∀ o, (s.mirOf (ctxOf ctx)).own = some o → o.step ≠ step) →
    Commits (.mirRestore h ctx 0 step) h 0x0803 0 s [.ctxs, .pvs, .jobChanges, .mir, .fab] fun t =>
      t.mir = { s.mir with settle := { s.mir.settle with classes := [] } } ∧
      t.pv (ctxOf ctx) = { s.pv (ctxOf ctx) with step := step + 1, mepoch := (s.pv (ctxOf ctx)).mepoch + 1, epoch := (s.pv (ctxOf ctx)).mepoch + 1, lvalid := false } ∧
      (t.ctx (ctxOf ctx)).scales = (s.ctx (ctxOf ctx)).scales ∧ (∀ f ∈ (t.ctx (ctxOf ctx)).fenced, f.toNat ≤ step.toNat) ∧
      ∀ k, k ≠ ctxOf ctx → t.pv k = s.pv k ∧ t.ctx k = s.ctx k) ∧
  (∀ (ctx : Byte) (step : W32) (o : Sealed), s.runs h (.mirRestore ctx 0 step) = true → (s.mirOf (ctxOf ctx)).own = some o → o.step = step →
    Answers (.mirRestore h ctx 0 step) s fun t => Replied h 0x0803 s t .committed false stOk 0 ∧
      (t.ctx (ctxOf ctx)).scales = o.scales ∧ (t.ctx (ctxOf ctx)).recipes = o.recipes ∧ (t.pv (ctxOf ctx)).step = step + 1 ∧
      (t.pv (ctxOf ctx)).mepoch = (s.pv (ctxOf ctx)).mepoch + 1) ∧
  (∀ (ctx : Byte) (step : W32), s.runs h (.mirRestore ctx 1 step) = true → s.sourceHolds (ctxOf ctx) 1 step = true →
    Answers (.mirRestore h ctx 1 step) s fun t =>
      ((t.mirOf (ctxOf ctx)).state = .restoring ∧ t.sched.cmds.map (·.op) = [.mirRestore ctx 1 step]) ∨
      ((t.mirOf (ctxOf ctx)).state = .sealed ∧ t.sched.cmds = [])) ∧
  (∀ (step : W32) (method source : Byte) (f : W16) (job : W64), s.runs h (.mirIntercalate f method source step job) = true → s.mir.inter = none →
    (allLinks.all fun l => !((s.link l).nbrIdent == f && (s.link l).usable && (s.link l).nstate == .active)) = true →
    (s.mir.records.find? fun r => r.1 == f) = none →
    Answers (.mirIntercalate h f method source step job) s fun t =>
      (t.fab.ident = f ∧ ∃ i, t.mir.inter = some i ∧ i.failed = f ∧ i.step = step ∧ i.job = job ∧ i.source = sourceOf source ∧ i.hot = (method == 1) ∧ i.ctx = none) ∨
      (t.mir.inter = none ∧ t.sched.cmds = []))

/-- JOB, SRV and FE commands. JOB_RELEASE, JOB_JOIN, SRV_START, SRV_STOP and FE_QUEUE that are admitted and start note the change,
the instance or the queue in the cases that the clauses name. -/
def Obligations.JobAndServingCommands : Prop :=
  (∀ (s : State) (h : Hdr) (job : W64),
  (∀ (ident : W16) (j : Job), s.runs h (.jobRelease job ident) = true → s.job? job = some j → Answers (.jobRelease h job ident) s fun t =>
    (∃ c, t.jobChanges = s.jobChanges ++ [c] ∧ c.job = job ∧ c.release = true ∧ c.x = identX ident ∧ c.y = identY ident ∧ c.z = identZ ident ∧ c.ctx = j.ctx ∧
      c.boundary = (if s.incidentOpen then none else some (s.pv j.ctx).step)) ∧
    t.sched.cmds.map (·.op) = [.jobRelease job ident] ∧ t.jobs = s.jobs ∧ ∀ x, x ∉ [Part.ctxs, .sched, .memUnit, .cle, .fab, .jobChanges] → Kept h s t x) ∧
  (∀ (member : W16) (ctx : Byte) (plan : W64) (plen : W32), s.runs h (.jobJoin job member ctx plan plen) = true → member ≠ noIdent → Answers (.jobJoin h job member ctx plan plen) s fun t =>
    (∃ c, t.jobChanges = s.jobChanges ++ [c] ∧ c.job = job ∧ c.release = false ∧ c.x = identX s.fab.ident ∧ c.y = identY s.fab.ident ∧ c.z = identZ s.fab.ident ∧
      c.ctx = ctxOf ctx) ∧ t.sched.cmds.map (·.op) = [.jobJoin job member ctx plan plen] ∧
    ∀ x, x ∉ [Part.ctxs, .sched, .memUnit, .cle, .fab, .jobChanges] → Kept h s t x) ∧
  (∀ (ctx : Byte) (plan : W64) (plen : W32) (j : Job) (r : Replica), s.runs h (.jobJoin job noIdent ctx plan plen) = true →
    planOf? (s.ctxBytes 0 plan.toNat plen.toNat) = some j → j.replicaOf s.fab.ident = some r →
    (s.mir.plans.all fun q => !(q.1 == job && q.2.2 != sha384 (s.ctxBytes 0 plan.toNat plen.toNat))) = true →
    Answers (.jobJoin h job noIdent ctx plan plen) s fun t =>
    (∃ c, t.jobChanges = s.jobChanges ++ [c] ∧ c.job = job ∧ c.release = false ∧ c.x = r.x ∧ c.y = r.y ∧ c.z = r.z ∧ c.ctx = ctxOf ctx ∧ c.issued = [s.fab.ident]) ∧
    t.sched.cmds.map (·.op) = [.jobJoin job noIdent ctx plan plen])) ∧
  (∀ (s : State) (h : Hdr),
  (∀ (svc ctx : Byte) (cfg : W64) (x : SrvCfg), s.runs h (.srvStart svc ctx cfg) = true → srvCfg? (s.ctxBytes h.ctx cfg.toNat 64) = some x →
    Commits (.srvStart h svc ctx cfg) h 0x0900 0 s [.serve] fun t => t.inst (Fin.ofNat 16 svc.toNat) = some { ctx := ctxOf ctx, cfg := x } ∧
      (∀ k, k ≠ Fin.ofNat 16 svc.toNat → t.inst k = s.inst k) ∧ t.serve.queues = s.serve.queues ∧ t.serve.sessions = s.serve.sessions) ∧
  (∀ svc mode : Byte, s.runs h (.srvStop svc mode) = true → Commits (.srvStop h svc mode) h 0x0901 0 s [.serve] fun t =>
    t.inst (Fin.ofNat 16 svc.toNat) = none ∧ (∀ k, k ≠ Fin.ofNat 16 svc.toNat → t.inst k = s.inst k) ∧ t.serve.queues = s.serve.queues ∧
    t.serve.sessions = s.serve.sessions.filter fun x => decide (x.svc ≠ Fin.ofNat 16 svc.toNat)) ∧
  (∀ (queue ctx : Byte) (udp : W16) (spread index : Byte), s.runs h (.feQueue queue ctx udp spread index) = true →
    let k : Fin 64 := Fin.ofNat 64 queue.toNat
    Commits (.feQueue h queue ctx udp spread index) h 0x0902 0 s [.serve] fun t =>
      t.serve.queues[k] = (if ctx = 0xFF then {} else if queue.toNat < 32 then { s.serve.queues[k] with ctx := some (ctxOf ctx), gen := (s.ctx (ctxOf ctx)).gen }
        else { s.serve.queues[k] with ctx := some (ctxOf ctx), gen := (s.ctx (ctxOf ctx)).gen, udp, spread := spread.toNat, index := index.toNat }) ∧
      (∀ j : Fin 64, j ≠ k → t.serve.queues[j] = s.serve.queues[j]) ∧ t.serve.insts = s.serve.insts))

/-- QUERY commands. QUERY_PROGRESS, QUERY_STATUS and QUERY_TELEMETRY write what they report at their destination and commit, and
change no other byte. -/
def Obligations.QueryCommands : Prop :=
  (∀ (s : State) (h : Hdr) (ring : Byte) (tseq : W32) (r : RingId) (tg : Target),
  queryRing? h.ring ring = some r → (r ≠ h.ring ∨ tseq ≠ h.seq) → s.target? r tseq = some tg →
  (∀ (va : W64) (len : W32), s.runs h (.queryProgress ring tseq va len) = true →
    let on := (List.range tg.units).filter fun k => tg.done.contains k
    (∀ k, k < ceilDiv tg.units 8 → s.access h.ctx (va.toNat + k) true = none) →
    Commits (.queryProgress h ring tseq va len) h 0x0A00 (BitVec.ofNat 64 (tg.units % 2 ^ 32 * 2 ^ 32 + tg.state * 2 ^ 30 + tg.status.toNat)) s [.mem, .mir] fun t =>
      Wrote h s t va.toNat (bitmap tg.units on)) ∧
  (∀ va : W64, s.runs h (.queryStatus ring tseq va) = true → tg.reply.length = 32 → (∀ k, k < 32 → s.access h.ctx (va.toNat + k) true = none) →
    Commits (.queryStatus h ring tseq va) h 0x0A01 0 s [.mem, .mir] fun t => Wrote h s t va.toNat tg.reply)) ∧
  (∀ (s : State) (h : Hdr) (first count : W16) (va : W64) (len : W32), s.runs h (.queryTelemetry first count va len) = true →
  let bs := (List.range count.toNat).flatMap fun k => s.sensorRecord (first.toNat + k)
  (s.inVigil = false → (∀ k, k < 8 * count.toNat → s.access h.ctx (va.toNat + k) true = none) →
    Commits (.queryTelemetry h first count va len) h 0x0A02 s.telemetryDetail s [.mem, .mir] fun t => Wrote h s t va.toNat bs) ∧
  (s.inVigil = true → s.pcie.up = true → Commits (.queryTelemetry h first count va len) h 0x0A02 s.telemetryDetail s [.mem] fun t =>
    memWf s.mem = true → (∀ k, s.replyKey? h.ring = some k → k + 32 ≤ hostKey va.toNat ∨ hostKey va.toNat + bs.length ≤ k) →
      memReadList t.mem (hostKey va.toNat) bs.length = bs))

/-- DIAG and INJECT commands. Sentinels, self-tests, link patterns and ember reads write their results and commit; injections change
the unit they name. -/
def Obligations.DiagnosisCommands : Prop :=
  (∀ (s : State) (h : Hdr),
  (∀ (engine pattern cond : Byte) (va : W64) (len : W32), s.runs h (.diagSentinel engine pattern cond va len) = true →
    Answers (.diagSentinel h engine pattern cond va len) s fun t =>
      (∀ k x, (sentinelRuns engine pattern)[k]? = some x → s.runOutcome (s.slotOfEng x.1) x.2 (s.free + k) = 0) →
      Replied h 0x0F00 s t .committed false stOk 0 ∧ (∀ x, x ≠ Part.ras → Kept h s t x) ∧
      ∀ x ∈ sentinelRuns engine pattern, (s.ras.slots[s.slotOfEng x.1]).healthy = true → (t.ras.slots[s.slotOfEng x.1]).lastPass = some s.tick.now) ∧
  (∀ (u v : State) (c : Cmd) (unit : W16) (level : Byte) (va : W64) (len : W32), s.alone = true → s.starts? h (.diagBist unit level va len) = some (u, c) →
    u.yieldUnit unit = some v → (∀ k, k < min 64 len.toNat → v.access h.ctx (va.toNat + k) true = none) → let n := Config.bistFailures v.free
    Answers (.diagBist h unit level va len) s fun t =>
      (n = 0 ∨ unitClass unit = 2 → Replied h 0x0F01 s t (if n = 0 then .committed else .killed) false (if n = 0 then stOk else stCheckMismatch) (BitVec.ofNat 64 (sat32 n))) ∧
      (unitClass unit = 2 → t.sched.cores[(Fin.ofNat 16 (unitIndex unit) : CoreId)] = if n = 0 then .reserve else .retired) ∧
      (memWf s.mem = true → ∀ k, k < min 64 len.toNat → t.ctxByte h.ctx (va.toNat + k) = Config.freeByte (v.free + k))) ∧
  (∀ (link pattern : Byte) (duration : W16) (va : W64), s.runs h (.diagPrbs link pattern duration va) = true →
    (duration ≠ 0 → ∀ k, k < 144 → s.access h.ctx (va.toNat + k) true = none) →
    Commits (.diagPrbs h link pattern duration va) h 0x0F02 0 s [.mem, .mir] fun t =>
      Wrote h s t va.toNat (if duration = 0 then [] else (List.range 18).flatMap fun k => le 8 (Config.prbsErrors k s.free).toNat)) ∧
  (∀ (src : Byte) (index : W16) (off va : W64) (len : W32) (e : Ember), s.runs h (.diagEmberRead src index off va len) = true →
    s.ras.emberAt src.toNat index.toNat = some e → (∀ k, k < len.toNat → s.access h.ctx (va.toNat + k) true = none) →
    Commits (.diagEmberRead h src index off va len) h 0x0F03 (BitVec.ofNat 64 (e.bytes.length % 2 ^ 32 + e.kind.toNat * 2 ^ 32)) s [.mem, .mir] fun t =>
      Wrote h s t va.toNat (sliceOf e.bytes off.toNat len.toNat))) ∧
  (∀ (s : State) (h : Hdr) (target n code : W16),
  (s.runs h (.injectUnitHang target n code) = true → Commits (.injectUnitHang h target n code) h 0x0F04 0 s [.ras, .slices] fun t =>
    t.ras = { s.ras with hungUnits := target :: s.ras.hungUnits.filter (· != target) } ∧
    ∀ e, (t.slice e).flips = (s.slice e).flips ∧ (t.slice e).hung = ((s.slice e).hung || (decide (unitClass target = 5) && decide ((s.slotOfEng e).val = unitIndex target)))) ∧
  (s.runs h (.injectCheckFlip target n code) = true → Commits (.injectCheckFlip h target n code) h 0x0F04 0 s [.slices] fun t =>
    ∀ e, (t.slice e).flips = (s.slice e).flips + (if (s.slotOfEng e).val = unitIndex target then n.toNat else 0)) ∧
  (s.runs h (.injectEccCe target n code) = true → Commits (.injectEccCe h target n code) h 0x0F04 0 s [.banks] fun t =>
    t.hostBank.count offMemCe (unitIndex target / 32) = min (2 ^ 32 - 1) (s.hostBank.count offMemCe (unitIndex target / 32) + n.toNat)) ∧
  (s.runs h (.injectEccUe target n code) = true → Answers (.injectEccUe h target n code) s fun t =>
    Replied h 0x0F04 s t .committed false stOk 0 ∧
    t.hostBank.count offMemUe (unitIndex target / 32) = min (2 ^ 32 - 1) (s.hostBank.count offMemUe (unitIndex target / 32) + 1) ∧
    ∀ p ∈ t.memUnit.pages, p.poison = true ∨ p ∈ s.memUnit.pages) ∧
  (s.runs h (.injectDeviceReset target n code) = true → s.ras.resetting = false → Answers (.injectDeviceReset h target n code) s fun t =>
    Replied h 0x0F04 s t .committed false stOk 0 ∧ t.ras.resetting = true ∧
    ∀ k, (t.ctx k).state = if s.live k then .fenced else (s.ctx k).state) ∧
  (s.runs h (.injectEventFlood target n code) = true → Answers (.injectEventFlood h target n code) s fun t =>
    Replied h 0x0F04 s t .committed false stOk 0 ∧
    ∃ rs, rs.length = n.toNat ∧ t.ras.trace = (rs ++ s.ras.trace).take traceDepth ∧ ∀ r ∈ rs, r.code = code ∧ r.unit = target ∧ r.kind = .event))

/-- Teardown phases and weight loading. DRAINING and RECLAIM of a context, chunks of weight loads and their failures, slot
retirement and vault sensors go in the cases that the clauses name. -/
def Obligations.TeardownAndWeightEvents : Prop :=
  (∀ (s : State) (x : CtxId),
  (∀ c : Cmd, (s.ctx x).state = .fenced → (s.runningIn x).isEmpty = true → s.waitingFences x = [c] → s.cmd? c.cid = some c →
    Answers (.fenceComplete x) s fun t => t.cmd? c.cid = none ∧ ∀ k, (t.ctx k).state = (s.ctx k).state) ∧
  ((s.ctx x).state = .fencing → Answers (.teardownFencingDone x) s fun t =>
    t.ctx x = { s.ctx x with state := .draining, drainTick := s.tick.now, awaitAck := s.upLinks } ∧
    (∀ k, k ≠ x → t.ctx k = s.ctx k) ∧ t.memUnit = s.memUnit ∧ t.mem = s.mem ∧ t.rings = s.rings) ∧
  ((s.ctx x).state = .draining → s.underOld x = 0 → Answers (.teardownDrainDone x) s fun t =>
    t = s.modCtx x fun c => { c with state := .scrubbing, forced := false, awaitAck := [] }) ∧
  ((s.ctx x).state = .draining → s.underOld x ≠ 0 → Answers (.teardownDrainDone x) s fun t => t = s) ∧
  ((s.ctx x).state = .draining → s.tick.now < (s.ctx x).drainTick + 4 → Answers (.teardownForcedDrop x) s fun t => t = s) ∧
  ((s.ctx x).state = .draining → (s.ctx x).drainTick + 4 ≤ s.tick.now → s.underOld x = 0 → Answers (.teardownForcedDrop x) s fun t =>
    t = s.modCtx x fun c => { c with state := .scrubbing, forced := false, awaitAck := [] }) ∧
  ((s.ctx x).state = .draining → (s.ctx x).drainTick + 4 ≤ s.tick.now → s.underOld x ≠ 0 → Changes (.teardownForcedDrop x) s [.ctxs, .fab] fun t =>
    t.ctx x = { s.ctx x with state := .scrubbing, forced := true, awaitAck := [] } ∧ (∀ k, k ≠ x → t.ctx k = s.ctx k) ∧ (∀ l, t.link l = s.link l) ∧
    ∀ h, h ∈ t.fab.held ↔ h ∈ s.fab.held ∧ h.own ≠ some (x, prevGen (s.ctx x).gen) ∧
      ¬(h.typ = ptTeardown ∧ h.from? = none ∧ h.ctx = x ∧ h.gen = prevGen (s.ctx x).gen)) ∧
  ((s.ctx x).state = .scrubbing → Answers (.teardownScrubDone x) s fun t =>
    (t.ctx x).state = .free ∧ (t.ctx x).gen = (s.ctx x).gen ∧ (t.ctx x).forced = (s.ctx x).forced ∧ (t.ctx x).key = false ∧ (t.ctx x).tenant = 0 ∧
    (t.ctx x).quar = (if (s.ctx x).forced then 64 else 0) ∧ (∀ p ∈ t.memUnit.pages, p.ctx ≠ x) ∧ (∀ j ∈ t.jobs, j.ctx ≠ x) ∧ (∀ k i, t.inst k = some i → i.ctx ≠ x) ∧
    (∀ k, k ≠ x → (t.ctx k).state = (s.ctx k).state ∧ (t.ctx k).gen = (s.ctx k).gen)) ∧
  ((s.ctx x).state = .free → (s.ctx x).quar ≤ 1 → Answers (.quarantineEnd x) s fun t => t = s.modCtx x fun c => { c with quar := 0 })) ∧
  (∀ s : State,
  (∀ (x : CtxId) (k : WSlotId), (s.wslot x k).state = .retiring → (s.wslot x k).pins = 0 →
    ((s.busyRanges x).any fun r => overlaps r.1 r.2 (s.wslot x k).va (s.wslot x k).len) = false →
    Answers (.weightSlotEmpty x k) s fun t => t = s.modWslot x k fun _ => {}) ∧
  (∀ (x : CtxId) (k : WSlotId), (s.wslot x k).state ≠ .retiring ∨ (s.wslot x k).pins ≠ 0 → Answers (.weightSlotEmpty x k) s fun t => t = s) ∧
  (∀ (cid : Nat) (peer : Fin 9) (c : Cmd), s.cmd? cid = some c → c.deadPeers.contains peer = false → c.state ≠ .ready → Answers (.wgtSourceTimeout cid peer) s fun t =>
    ∃ d, t.cmd? cid = some d ∧ d.deadPeers = c.deadPeers ++ [peer] ∧ t.vault = s.vault ∧ t.ctxs = s.ctxs) ∧
  (∀ (cid : Nat) (c : Cmd), s.cmd? cid = some c → c.running = true →
    (c.chunkUs + 100000 ≤ s.nowUs → Answers (.loadGroupHolderTimeout cid) s fun t => t = (s.gather c true).placeAll ∧ t.vault = s.vault ∧ t.mem = s.mem) ∧
    (s.nowUs < c.chunkUs + 100000 → Answers (.loadGroupHolderTimeout cid) s fun t => t = s.placeAll)) ∧
  (∀ (x : CtxId) (va : BitVec 52) (p : Page) (k : WSlotId), s.pageAt? x va.toNat = some p → s.slotAt? x va.toNat = some k → p.poison = false → p.lost = false →
    Answers (.weightPageRecovery x va) s fun t => t = s) ∧
  (∀ (x : CtxId) (va : BitVec 52) (p : Page) (k : WSlotId), s.pageAt? x va.toNat = some p → s.slotAt? x va.toNat = some k → (p.poison || p.lost) = true →
    let cs := s.recoverChunks s.free (s.wslot x k) p
    (cs.any fun c => c.2.2.isNone) = true → Answers (.weightPageRecovery x va) s fun t =>
      t.memUnit = { s.memUnit with pages := s.memUnit.pages.map fun q => if p.sameBlock q then { q with poison := true } else q } ∧ t.ctxs = s.ctxs ∧ (∀ i : Fin 256, (t.image i).man = (s.image i).man ∧ (t.image i).state = (s.image i).state) ∧
      ∀ i, s.imageWith (s.wslot x k).root = some i → ∀ c ∈ cs, c.2.2 = none → ((t.image i).data.find? fun d => d.1 == c.1) = none) ∧
  (∀ (x : CtxId) (va : BitVec 52) (p : Page) (k : WSlotId), s.pageAt? x va.toNat = some p → s.slotAt? x va.toNat = some k → (p.poison || p.lost) = true →
    let cs := s.recoverChunks s.free (s.wslot x k) p
    (∀ c ∈ cs, c.2.2.isSome = true) → Answers (.weightPageRecovery x va) s fun t =>
      (∃ q, t.pageAt? x va.toNat = some q ∧ q.va = p.va ∧ q.poison = false ∧ q.lost = false ∧ q.zero = false ∧ q.tier = .t2) ∧
      t.mem = (cs.foldl (fun (u : State) c => u.writeCtx x c.2.1 (sliceOf (c.2.2.getD []) 0 chunkBytes)) s).mem ∧
      (∀ i : Fin 256, (t.image i).man = (s.image i).man ∧ (t.image i).state = (s.image i).state) ∧
      ∀ f ∈ t.memUnit.faults, f.ctx = x → f.cause = .poisoned ∨ f.cause = .tierLost → f.va < p.va ∨ p.va + p.size.bytes ≤ f.va) ∧
  (∀ (bad : List (Byte × Nat × Fin 2)) (k : Fin 2) (n : Nat), (s.vault.keels[k]).state = .valid → Answers (.vaultPatrol bad [(k, n)]) s fun t =>
    (t.vault.keels[k]).state = .invalid ∧ (t.vault.keels[k]).data = (s.vault.keels[k]).data ∧ t.vault.keys = s.vault.keys) ∧
  (∀ (b : Byte) (n : Nat) (c : Fin 2) (c0 c1 : List Byte), ((s.image (imgOf b)).data.find? fun d => d.1 == n) = some (n, c0, c1) →
    Answers (.vaultPatrol [(b, n, c)] []) s fun t =>
      ((t.image (imgOf b)).data.find? fun d => d.1 == n) = some (n, if c = 0 then c1 else c0, if c = 0 then c1 else c0)) ∧
  (∀ d : W32, Answers (.throttleLift d) s fun t =>
    t = { s with vault := { s.vault with writeDay := d.toNat * 2 ^ 30, throttled := s.vault.throttled && decide (s.vault.dailyAllowance ≤ d.toNat * 2 ^ 30) } }) ∧
  (∀ (cid : Nat) (c : Cmd) (f : PFault) (k : WSlotId), s.cmd? cid = some c →
    s.weightFault cid = some f → s.slotAt? f.ctx f.va = some k → f.tick + 128 ≤ s.tick.now → Answers (.weightUnavailableTimeout cid) s fun t => t.cmd? cid = none))

/-- Issue and commit of commands. COMMAND_ISSUE, SEM_GRANT, RUN_AHEAD_START, COMMIT and the ends of graph nodes issue and end
commands under the conditions of the manual. -/
def Obligations.IssueAndCommitRows : Prop :=
  (∀ (s : State) (cid : Nat),
  (∀ (c : Cmd) (k : SemId) (v : Nat), s.placeAll.cmd? cid = some c → isAcquire c.op = true → semOf c.op = some (k, v) → c.guarded = none → c.acquire = none → c.run = none →
    c.hold = none → s.placeAll.acquireWaits c = true → s.placeAll.grantable c = true → s.serve.reqs = [] → Answers (.commandIssue cid) s fun t =>
      t.cmd? cid = none ∧ (s.sched.cmds.length = 1 → ∀ j, t.semCount j = if j = k then s.semCount k - v else s.semCount j)) ∧
  (∀ c : Cmd, s.placeAll.cmd? cid = some c → planY (opCode c.op) = true → c.acquire = none → isAcquire c.op = false → s.tick.now < c.tick → c.state = .placed →
    s.serve.reqs = [] → Answers (.commandIssue cid) s fun t => t = s.placeAll) ∧
  (∀ (c : Cmd) (v : State), s.placeAll.cmd? cid = some c → planY (opCode c.op) = true → c.acquire = none → isAcquire c.op = false → isRelease c.op = false →
    c.state = .placed → c.tick ≤ s.tick.now → c.mismatch = false → c.isEmpty = false → s.placeAll.recordWaits c = false → s.placeAll.allot c = some (.ok v) →
    (v.begin cid).serve.reqs = [] → Answers (.commandIssue cid) s fun t => t = v.begin cid) ∧
  (∀ c : Cmd, s.cmd? cid = some c → c.state ≠ .placed → Answers (.runAheadStart cid) s fun t => t = s) ∧
  (∀ (c : Cmd) (v : State), s.cmd? cid = some c → s.mayRunAhead c = true → s.allot { c with tick := s.tick.now } = some (.ok v) → Answers (.runAheadStart cid) s fun t =>
    t = (v.modCmd cid fun d => { d with runAhead := d.state == .issued }).begin cid) ∧
  (∀ c : Cmd, s.cmd? cid = some c → c.mismatch = true → c.state = .ready → Answers (.mismatchRerun cid) s fun t =>
    t = ((s.modCmd cid fun d => { d with mismatch := false }).placeAll).tryIssue cid) ∧
  (∀ (k : SemId) (a : Cmd) (v : Nat), s.sched.cmds = [a] → s.sched.runs = [] → s.serve.reqs = [] → s.acquireWaits a = true → semOf a.op = some (k, v) →
    s.grantable a = true → a.guarded = none → a.acquire = none → a.hold = none → a.run = none → Answers (.semGrant k) s fun t =>
      t.sched.cmds = [] ∧ ∀ j, t.semCount j = if j = k then s.semCount k - v else s.semCount j) ∧
  (∀ k : SemId, (s.sched.cmds.all fun a => !(s.acquireWaits a && s.grantable a)) = true → Answers (.semGrant k) s fun t => t = s)) ∧
  (∀ (s : State) (c : Cmd) (used : Nat),
  (s.cmd? c.cid = some c → s.underWay c = false → Answers (.commit c.cid used) s (fun t => t = s) ∧ Answers (.fixedCommandEnd c.cid used) s fun t => t = s) ∧
  (StandsAlone s c → s.underWay c = true → sliceOp (opCode c.op) = true → c.fixed = false → s.workDone c = true → c.replays = [] → c.mismatch = false →
    c.closing = none → s.mergeBad c = true → Answers (.commit c.cid used) s fun t => EndedAlone s t c .killed stUncorrectable ∧
      ∀ a, (∀ k, s.replyKey? c.ring = some k → a < k ∨ k + 32 ≤ a) → memWf s.mem = true → memRead t.mem a = memRead s.mem a) ∧
  (StandsAlone s c → s.underWay c = true → sliceOp (opCode c.op) = true → c.fixed = false → s.workDone c = true → c.replays = [] → c.mismatch = false →
    c.semAdds = [] → c.closing = none → s.mergeBad c = false → memWf s.mem = true → Answers (.commit c.cid used) s fun t =>
      EndedAlone s t c .committed (s.commitStatus c).1 ∧
      ∀ a, (∀ k, s.replyKey? c.ring = some k → a < k ∨ k + 32 ≤ a) →
        memRead t.mem a = memRead (memApply s.mem (c.staged.map fun x => (ctxKey c.ctx x.1, x.2))) a) ∧
  (StandsAlone s c → s.underWay c = true → opIsRun c.op = false → opCode c.op = 0x0510 → c.fixed = true → s.workDone c = true → c.badTiles = [] → c.semAdds = [] → c.closing = none →
    Answers (.fixedCommandEnd c.cid used) s fun t =>
      EndedAlone s t c (if c.failedTiles.isEmpty then .committed else .partialEnd) (if c.failedTiles.isEmpty then stOk else stCheckMismatch)) ∧
  (∀ (kslot : Byte) (smap job : W64) (n step : W32), c.op = .keelWrite kslot smap n job step → s.cmd? c.cid = some c → s.underWay c = true → s.serve.reqs = [] → c.closing = none →
    Answers (.commit c.cid used) s fun t => t.cmd? c.cid = none ∧ (t.keel kslot).state = .valid ∧ (t.keel kslot).tenant = (s.ctx c.ctx).tenant ∧
      (t.keel kslot).job = job ∧ (t.keel kslot).step = step ∧ (t.keel kslot).data = (c.chunks.map fun x => (x.1, x.2.2)) ∧
      (t.keel kslot).root = (t.keel kslot).rootNow ∧ ∀ k : Fin 2, k ≠ keelOf kslot → t.vault.keels[k] = s.vault.keels[k]) ∧
  (∀ (kslot : Byte) (smap : W64) (n : W32), c.op = .keelRead kslot smap n → s.cmd? c.cid = some c → s.underWay c = true → s.serve.reqs = [] → c.closing = none →
    (s.keel kslot).rootNow ≠ (s.keel kslot).root → Answers (.commit c.cid used) s fun t =>
      t.cmd? c.cid = none ∧ (t.keel kslot).state = .invalid ∧ ∀ k : Fin 2, k ≠ keelOf kslot → t.vault.keels[k] = s.vault.keels[k]) ∧
  (∀ (img slot : Byte) (group members : W16) (lflags : Byte) (va len smap : W64) (n : W32), c.op = .wgtLoad img slot group members lflags va len smap n →
    StandsAlone s c → s.underWay c = true → c.closing = none → c.missing = [] → (s.memUnit.pages.all fun p => decide (p.ctx ≠ c.ctx) || !p.zero) = true → memWf s.mem = true →
    Answers (.commit c.cid used) s fun t => EndedAlone s t c .committed stOk ∧ (t.wslot c.ctx (slotOf slot)).state = .ready ∧
      (t.wslot c.ctx (slotOf slot)).version = (s.wslot c.ctx (slotOf slot)).version ∧ ∀ k, k ≠ slotOf slot → t.wslot c.ctx k = s.wslot c.ctx k))

/-- Register instructions of stream programs. ADDR, LOFF, DIM, LDIM, STEP, BUFDEF, REP and END set the program's
registers in the cases that the clauses name, go on to the instruction that follows, and change nothing else. -/
def Obligations.StreamRegisterInstructions : Prop := ∀ (s : State) (e : EngineId) (p : Fin 16),
  let x := s.prog e p
  (∀ ar va, s.standsAt e p (.addr ar va) = true → Answers (.streamAddr e p ar va) s fun t => OnlyProg s t e p ∧
    x.WentOn (t.prog e p) ∧ (t.prog e p).regs.ar[ar] = va ∧ (∀ k, k ≠ ar → (t.prog e p).regs.ar[k] = x.regs.ar[k]) ∧
    { (t.prog e p).regs with ar := x.regs.ar } = x.regs ∧ (t.prog e p).bufs = x.bufs) ∧
  (∀ lo off, s.standsAt e p (.loff lo off) = true → Answers (.streamLoff e p lo off) s fun t => OnlyProg s t e p ∧
    x.WentOn (t.prog e p) ∧ (t.prog e p).regs.loff[lo] = off.toNat ∧ (∀ k, k ≠ lo → (t.prog e p).regs.loff[k] = x.regs.loff[k]) ∧
    { (t.prog e p).regs with loff := x.regs.loff } = x.regs ∧ (t.prog e p).bufs = x.bufs) ∧
  (∀ lvl count mstride, s.standsAt e p (.dim lvl count mstride) = true → Answers (.streamDim e p lvl count mstride) s fun t => OnlyProg s t e p ∧
    x.WentOn (t.prog e p) ∧ (t.prog e p).regs.count[lvl] = count.toNat ∧ (t.prog e p).regs.mstride[lvl] = mstride.toInt ∧
    (∀ k, k ≠ lvl → (t.prog e p).regs.count[k] = x.regs.count[k] ∧ (t.prog e p).regs.mstride[k] = x.regs.mstride[k]) ∧
    { (t.prog e p).regs with count := x.regs.count, mstride := x.regs.mstride } = x.regs ∧ (t.prog e p).bufs = x.bufs) ∧
  (∀ lvl lstride, s.standsAt e p (.ldim lvl lstride) = true → Answers (.streamLdim e p lvl lstride) s fun t => OnlyProg s t e p ∧
    x.WentOn (t.prog e p) ∧ (t.prog e p).regs.lstride[lvl] = lstride.toInt ∧ (∀ k, k ≠ lvl → (t.prog e p).regs.lstride[k] = x.regs.lstride[k]) ∧
    { (t.prog e p).regs with lstride := x.regs.lstride } = x.regs ∧ (t.prog e p).bufs = x.bufs) ∧
  (∀ (idx : Fin 4) inc, s.standsAt e p (.step false idx inc) = true → Answers (.streamStep e p false idx inc) s fun t => OnlyProg s t e p ∧
    x.WentOn (t.prog e p) ∧ (t.prog e p).regs.ar[idx] = BitVec.ofInt 52 (x.regs.ar[idx].toNat + inc.toInt) ∧
    (∀ k, k ≠ idx → (t.prog e p).regs.ar[k] = x.regs.ar[k]) ∧ { (t.prog e p).regs with ar := x.regs.ar } = x.regs ∧ (t.prog e p).bufs = x.bufs) ∧
  (∀ (idx : Fin 4) inc, s.standsAt e p (.step true idx inc) = true → Answers (.streamStep e p true idx inc) s fun t =>
    OnlyProg s t e p ∧ x.WentOn (t.prog e p) ∧ (t.prog e p).regs.loff[idx] = x.regs.loff[idx] + inc.toInt ∧
    (∀ k, k ≠ idx → (t.prog e p).regs.loff[k] = x.regs.loff[k]) ∧ { (t.prog e p).regs with loff := x.regs.loff } = x.regs ∧ (t.prog e p).bufs = x.bufs) ∧
  (∀ buf first banks, s.standsAt e p (.bufdef buf first banks) = true → Answers (.streamBufdef e p buf first banks) s fun t => OnlyProg s t e p ∧
    x.WentOn (t.prog e p) ∧ (t.prog e p).regs = x.regs ∧ (t.prog e p).bufs[buf].defined = true ∧ (t.prog e p).bufs[buf].full = false ∧
    (t.prog e p).bufs[buf].first = first.val ∧ (t.prog e p).bufs[buf].banks = banks.toNat ∧ ∀ k, k ≠ buf → (t.prog e p).bufs[k] = x.bufs[k]) ∧
  (∀ ctr len count, s.standsAt e p (.rep ctr len count) = true → count ≠ 0 → len ≠ 0 → Answers (.streamRep e p ctr len count) s fun t => OnlyProg s t e p ∧
    (t.prog e p).ip = x.ip + 1 ∧ (t.prog e p).rc[ctr] = count.toNat ∧ (∀ k, k ≠ ctr → (t.prog e p).rc[k] = x.rc[k]) ∧
    (t.prog e p).reps = { ctr, start := x.ip + 1, stop := x.ip + 1 + len.toNat } :: x.reps ∧ (t.prog e p).regs = x.regs) ∧
  (∀ ctr len, s.standsAt e p (.rep ctr len 0) = true → (∀ b ∈ x.reps.head?, b.stop ≠ x.ip + 1 + len.toNat) → Answers (.streamRep e p ctr len 0) s fun t =>
    OnlyProg s t e p ∧ (t.prog e p).ip = x.ip + 1 + len.toNat ∧ (t.prog e p).rc = x.rc ∧ (t.prog e p).reps = x.reps ∧ (t.prog e p).regs = x.regs) ∧
  (s.standsAt e p .fin = true → Answers (.streamEnd e p) s fun t => OnlyProg s t e p ∧ (t.prog e p).ip = x.ip ∧
    (x.flight = [] → (t.prog e p).wait = .ended) ∧ (x.flight ≠ [] → (t.prog e p).wait = .closing)) ∧
  (x.image.length ≤ x.ip → x.instr? = some .fin)

/-- Waits and signals of stream programs. WAIT and SIGNAL of buffers, semaphores and ticks and RECV hold or release their program in
the cases that the clauses name. -/
def Obligations.StreamWaitsAndSignals : Prop := ∀ (s : State) (e : EngineId) (p : Fin 16) (buf : Fin 4) (sem : SemId) (v : W16),
  let x := s.prog e p
  (∀ (kind : Fin 4) (w : PWait), kind.val < 2 → w = (if kind = 0 then .bufEmpty buf else .bufFull buf) → s.standsAt e p (.wait kind buf sem v) = true →
    Answers (.streamWait e p kind buf sem v) s fun t => OnlyProg s t e p ∧ (t.prog e p).bufs = x.bufs ∧ (t.prog e p).regs = x.regs ∧
      ((x.bufs[buf].full = decide (kind = 1)) → x.WentOn (t.prog e p)) ∧
      ((x.bufs[buf].full ≠ decide (kind = 1)) → t.prog e p = { x with wait := w })) ∧
  (s.standsAt e p (.wait 2 buf sem v) = true → Answers (.streamWait e p 2 buf sem v) s fun t => OnlyProg s t e p ∧
    (v.toNat ≤ s.semCount sem → x.WentOn (t.prog e p)) ∧ (s.semCount sem < v.toNat → t.prog e p = { x with wait := .sem sem v.toNat })) ∧
  (s.standsAt e p (.wait 3 buf sem v) = true → Answers (.streamWait e p 3 buf sem v) s fun t => OnlyProg s t e p ∧
    t.prog e p = { x with wait := .tick s.tick.now }) ∧
  (∀ c : Cmd, s.cmd? x.cid = some c → (s.slice e).hung = false →
    (∀ n, x.wait = .tick n → Answers (.waitResume e p) s fun t => OnlyProg s t e p ∧ (t.prog e p).bufs = x.bufs ∧
      (n < s.tick.now → x.WentOn (t.prog e p)) ∧ (s.tick.now ≤ n → t = s)) ∧
    (∀ k n, x.wait = .sem k n → Answers (.waitResume e p) s fun t => OnlyProg s t e p ∧ t.sched.sems = s.sched.sems ∧
      (n ≤ s.semCount k → x.WentOn (t.prog e p)) ∧ (s.semCount k < n → t = s)) ∧
    (∀ b, x.wait = .bufEmpty b → Answers (.waitResume e p) s fun t => OnlyProg s t e p ∧
      (x.bufs[b].full = false → x.WentOn (t.prog e p) ∧ (t.prog e p).bufs = x.bufs) ∧
      (∀ r, x.bufs[b].full = true → c.unitsRun = true → c.rotOf (inputsOf c) x.rel b = some r → x.nextBuf r = b →
        x.WentOn (t.prog e p) ∧ (t.prog e p).bufs[b].full = false ∧ ∀ k, k ≠ b → (t.prog e p).bufs[k] = x.bufs[k]) ∧
      (x.bufs[b].full = true → c.unitsRun = false ∨ c.rotOf (inputsOf c) x.rel b = none → t = s)) ∧
    (∀ b, x.wait = .bufFull b → Answers (.waitResume e p) s fun t => OnlyProg s t e p ∧
      (x.bufs[b].full = true → x.WentOn (t.prog e p) ∧ (t.prog e p).bufs = x.bufs) ∧
      (∀ r, x.bufs[b].full = false → c.unitsRun = true → s.inputsFed c e = true → c.rotOf (outputsOf c) x.rel b = some r → x.nextBuf r = b →
        x.WentOn (t.prog e p) ∧ (t.prog e p).bufs[b].full = true ∧ ∀ k, k ≠ b → (t.prog e p).bufs[k] = x.bufs[k]) ∧
      (x.bufs[b].full = false → c.unitsRun = false ∨ s.inputsFed c e = false ∨ c.rotOf (outputsOf c) x.rel b = none → t = s)) ∧
    (∀ b l n posted, x.wait = .recv b l n posted → posted = true ∨ x.bufs[b].full = false ∨ c.unitsRun = false ∨ c.rotOf (inputsOf c) x.rel b = none →
      let post := posted || !x.bufs[b].full
      let nothing := (c.castsTo (Fin.ofNat 64 (octavePos e l.val)) e).getD n false
      Answers (.waitResume e p) s fun t => OnlyProg s t e p ∧
        (post = false ∨ nothing = false → t.prog e p = { x with wait := .recv b l n post }) ∧
        (post = true → nothing = true → x.WentOn (t.prog e p) ∧ (t.prog e p).bufs[b] = { x.bufs[b] with full := true, armed := none } ∧
          ∀ k, k ≠ b → (t.prog e p).bufs[k] = x.bufs[k]))) ∧
  (s.standsAt e p (.signal 0 buf sem v) = true → Answers (.streamSignal e p 0 buf sem v) s fun t => OnlyProg s t e p ∧
    (x.moving false buf = true → t.prog e p = { x with wait := .signalFull buf }) ∧
    (x.moving false buf = false → x.WentOn (t.prog e p) ∧ (t.prog e p).bufs[buf] = { x.bufs[buf] with full := true, armed := none } ∧
      ∀ k, k ≠ buf → (t.prog e p).bufs[k] = x.bufs[k])) ∧
  (s.standsAt e p (.signal 1 buf sem v) = true → Answers (.streamSignal e p 1 buf sem v) s fun t => OnlyProg s t e p ∧
    (x.moving true buf = true → t.prog e p = { x with wait := .signalEmpty buf }) ∧
    (x.moving true buf = false → x.WentOn (t.prog e p) ∧ (t.prog e p).bufs[buf] = { x.bufs[buf] with full := false } ∧
      ∀ k, k ≠ buf → (t.prog e p).bufs[k] = x.bufs[k])) ∧
  (∀ c : Cmd, s.cmd? x.cid = some c → s.standsAt e p (.signal 2 buf sem v) = true → Answers (.streamSignal e p 2 buf sem v) s fun t =>
    x.WentOn (t.prog e p) ∧ (∀ k, t.semCount k = s.semCount k) ∧ t.cmd? x.cid = some { c with semAdds := c.semAdds ++ [(sem, v.toNat, e, p)] }) ∧
  (∀ (leader : Fin 8) (c : Cmd), s.cmd? x.cid = some c → s.standsAt e p (.recv buf leader) = true →
    let l : EngineId := Fin.ofNat 64 (octavePos e leader.val)
    Changes (.streamRecv e p buf leader) s [.slices, .sched] fun t =>
      t.prog e p = { x with wait := .recv buf leader (c.recvs.filter (· == (l, e))).length (!x.bufs[buf].full) } ∧
      t.cmd? x.cid = some { c with recvs := c.recvs ++ [(l, e)] } ∧ t.sched.plan = s.sched.plan ∧
      (∀ q, q ≠ p → t.prog e q = s.prog e q) ∧ ∀ k, k ≠ e → t.slice k = s.slice k)

/-- Moves and deadlines of stream programs. A MOVE makes its granules in nest order; an armed deadline that passes is counted and
acts by its mode. -/
def Obligations.StreamMovesAndDeadlines : Prop := ∀ (s : State) (e : EngineId) (p : Fin 16),
  let x := s.prog e p
  (∀ (c : Cmd) (toMem : Bool) (ar lo buf alloc : Fin 4) (gsz : Fin 8) (mcast : Byte), s.cmd? x.cid = some c → s.standsAt e p (.move toMem ar lo gsz buf mcast alloc) = true →
    Changes (.streamMove e p toMem ar lo gsz buf mcast alloc) s (if mcast = 0 then [.slices] else [.slices, .sched]) fun t =>
      t.cmd? x.cid = some (if mcast = 0 then c else { c with mcasts := c.mcasts ++ (membersOf e mcast).map fun m => (e, m, (x.regs.nest ar lo).isEmpty) }) ∧
      t.sched.plan = s.sched.plan ∧ x.WentOn (t.prog e p) ∧ (t.prog e p).bufs = x.bufs ∧ (t.prog e p).regs = x.regs ∧
      ((t.prog e p).flight ++ (t.prog e p).todo).map (fun g => (g.va, g.size, g.buf, g.toMem)) = x.flight.map (fun g => (g.va, g.size, g.buf, g.toMem)) ++
        ((List.range x.regs.count[3]).flatMap fun i3 => (List.range x.regs.count[2]).flatMap fun i2 =>
          (List.range x.regs.count[1]).flatMap fun i1 => (List.range x.regs.count[0]).map fun i0 =>
            ((BitVec.ofInt 52 (x.regs.ar[ar].toNat + (i0 * x.regs.mstride[0] + i1 * x.regs.mstride[1] + i2 * x.regs.mstride[2] + i3 * x.regs.mstride[3]))).toNat,
              64 * 2 ^ gsz.val, buf, toMem)) ∧
      (∀ g ∈ (t.prog e p).flight, g ∈ x.flight ∨ g.pos ≤ (t.prog e p).oldest + 64) ∧
      (∀ k, k ≠ e → t.slice k = s.slice k)) ∧
  (∀ (buf : Fin 4) (abort : Bool) (base : Fin 4) (ns : W32) (c : Cmd), s.cmd? x.cid = some c → base.val < 3 → s.standsAt e p (.deadline buf abort base ns) = true →
    Answers (.streamDeadline e p buf abort base ns) s fun t => OnlyProg s t e p ∧ x.WentOn (t.prog e p) ∧
      (∀ d, d = ns.toNat + (if base = 0 then c.issueNs else if base = 1 then s.tickNs s.tick.now else (x.bufs[buf].lastDeadline).getD c.issueNs) →
        (t.prog e p).bufs[buf] = { x.bufs[buf] with armed := some (d, if abort then .abort else .report), lastDeadline := some d }) ∧
      ∀ k, k ≠ buf → (t.prog e p).bufs[k] = x.bufs[k]) ∧
  (∀ (buf : Fin 4) (late : W32), (∀ d m, x.bufs[buf].armed = some (d, m) → s.tickNs (s.tick.now + 1) < d) → Answers (.deadlineExpiry e p buf late) s fun t => t = s) ∧
  (∀ (buf : Fin 4) (late : W32) (d : Nat) (c : Cmd), s.cmd? x.cid = some c → x.bufs[buf].armed = some (d, .report) →
    d ≤ s.tickNs (s.tick.now + 1) → Changes (.deadlineExpiry e p buf late) s (.slices :: telling) fun t =>
      (∀ k, k ≠ e → t.slice k = s.slice k) ∧ (∀ q, q ≠ p → t.prog e q = s.prog e q) ∧ (t.prog e p).bufs[buf] = { x.bufs[buf] with armed := none } ∧
      (∀ k, k ≠ buf → (t.prog e p).bufs[k] = x.bufs[k]) ∧ (t.prog e p).wait = x.wait)

/-- The reply of an aborting deadline. When an ABORT deadline of a killable command that is still armed passes the command ends
KILLED with ST_DEADLINE_MISS, and DETAIL holds engine, program slot, buffer and the nanoseconds past the deadline,
the reserved bits 0; one held on a lost weight page ends with ST_WEIGHT_UNAVAILABLE instead. (R151) -/
def Obligations.DeadlineAbortKills : Prop := ∀ (s : State) (e : EngineId) (p : Fin 16) (buf : Fin 4) (late : W32) (d : Nat) (c : Cmd),
  StandsAlone s c → c.cid = (s.prog e p).cid → c.fixed = false → ((s.prog e p).bufs[buf]).armed = some (d, .abort) →
  d ≤ s.tickNs (s.tick.now + 1) →
  (s.weightFault c.cid = none → Answers (.deadlineExpiry e p buf late) s fun t => EndedAlone s t c .killed stDeadlineMiss ∧
    ∃ x : W64, DetailOf t c.ring x ∧ x.extractLsb' 58 6 = BitVec.ofNat 6 e.val ∧ x.extractLsb' 54 4 = BitVec.ofNat 4 p.val ∧ x.extractLsb' 52 2 = BitVec.ofNat 2 buf.val ∧
      x.extractLsb' 32 20 = 0 ∧ x.extractLsb' 0 32 = late) ∧
  (∀ f, s.weightFault c.cid = some f → Answers (.deadlineExpiry e p buf late) s fun t => EndedAlone s t c .killed stWeightUnavailable)

/-- Granules of stream programs. Multicast requests, arrivals, ends and faults of granules move bytes, fill buffers and record
faults in the cases that the clauses name. -/
def Obligations.GranulesAndMulticasts : Prop :=
  (∀ (s : State) (e : EngineId) (p : Fin 16) (g : Granule),
  let x := s.prog e p
  let run := (x.flight ++ x.todo).filter fun h => h.run == g.run
  ((x.flight.all fun h => h.requested) = true → Answers (.multicastRequest e p) s fun t => t = s) ∧
  (x.flight.find? (fun h => !h.requested) = some g →
    (g.mcast.getLsbD (e.val % 8) = false ∨ x.bufs[g.buf].full = false → ∀ m ∈ membersOf e g.mcast, s.postedBy m e x g = none →
      Answers (.multicastRequest e p) s fun t => t = s) ∧
    (∀ c : Cmd, s.cmd? x.cid = some c → g.mcast.getLsbD (e.val % 8) = true → x.bufs[g.buf].full = true →
      (c.unitsRun = false ∨ c.rotOf (inputsOf c) x.rel g.buf = none → Answers (.multicastRequest e p) s fun t => t = s) ∧
      (∀ r, c.unitsRun = true → (s.slice e).hung = false → c.rotOf (inputsOf c) x.rel g.buf = some r → x.nextBuf r = g.buf →
        (∃ m ∈ membersOf e g.mcast, s.postedBy m e x g = none) → Answers (.multicastRequest e p) s fun t => OnlyProg s t e p ∧
          (t.prog e p).bufs[g.buf].full = false ∧ (t.prog e p).flight = x.flight ∧ (t.prog e p).wait = x.wait ∧ ∀ k, k ≠ g.buf → (t.prog e p).bufs[k] = x.bufs[k])) ∧
    (((x.flight ++ x.todo).all fun h => decide (g.run ≤ h.run) || h.mcast == 0) = true → (s.slice e).hung = false →
      (g.mcast.getLsbD (e.val % 8) = true → x.bufs[g.buf].full = false) → (∀ m ∈ membersOf e g.mcast, (s.postedBy m e x g).isSome = true) →
      ((∀ m ∈ membersOf e g.mcast, ∀ q, s.postedBy m e x g = some q → ∀ b, (s.prog m q).recvBuf = some b →
          ∀ h ∈ run, h.lst + h.size ≤ ((s.prog m q).bufs[b]).banks * 2 ^ 18) →
        Answers (.multicastRequest e p) s fun t => OnlyProg s t e p ∧ (t.prog e p).flight = x.flight.map fun h => { h with requested := h.requested || h.run == g.run }) ∧
      (∀ m ∈ membersOf e g.mcast, ∀ q, s.postedBy m e x g = some q → ∀ b, (s.prog m q).recvBuf = some b →
        ∀ h ∈ run, ((s.prog m q).bufs[b]).banks * 2 ^ 18 < h.lst + h.size → ∀ c : Cmd, c.cid = x.cid → c.fixed = false → StandsAlone s c →
          Answers (.multicastRequest e p) s fun t => EndedAlone s t c .killed stBounds)))) ∧
  (∀ (s : State) (e : EngineId) (p : Fin 16) (pos : Nat) (c : Cmd) (g : Granule),
  let x := s.prog e p
  let b := x.bufs[g.buf]
  (x.flight.find? (fun h => h.pos == pos && h.requested) = none →
    ((s.slice e).late.find? (fun l => decide (l.slot = p) && l.gran.pos == pos) = none → ∀ ecc, Answers (.granuleArrival e p pos ecc) s fun t => t = s.placeAll) ∧
    (∀ l, (s.slice e).late.find? (fun l => decide (l.slot = p) && l.gran.pos == pos) = some l → Changes (.granuleArrival e p pos .ok) s (.slices :: placing) fun t =>
      (t.slice e).late = (s.slice e).late.erase l ∧ (∀ q, (t.prog e q).bufs = (s.prog e q).bufs) ∧ (∀ k, k ≠ e → t.slice k = s.slice k) ∧
      t.hostBank.count offGenDrop l.ctx.val = if l.gen = (s.ctx l.ctx).gen ∧ s.live l.ctx = true then s.hostBank.count offGenDrop l.ctx.val
        else min (2 ^ 32 - 1) (s.hostBank.count offGenDrop l.ctx.val + 1))) ∧
  (s.cmd? x.cid = some c → x.flight.find? (fun h => h.pos == pos && h.requested) = some g →
    (g.toMem = false → g.mcast = 0 → s.granuleLive e c x g = true → memWf s.mem = true → (b.physical (c.banksOn e)).Nodup → (b.physical (c.banksOn e)) ≠ [] →
      g.lst + g.size ≤ (b.physical (c.banksOn e)).length * 2 ^ 18 → Changes (.granuleArrival e p pos .ok) s (.slices :: .mem :: .memUnit :: placing) fun t =>
        t.bufferBytes e b (c.banksOn e) g.lst g.size = s.seenBytes c g.va g.size ∧ t.memUnit.pages = s.memUnit.pages ∧
        (∀ a, (∀ i, i < g.size → a ≠ b.key e (c.banksOn e) (g.lst + i)) → memRead t.mem a = memRead s.mem a) ∧
        (∀ h, h ∈ (t.prog e p).flight → h ∈ x.flight ∧ h.pos ≠ pos ∨ h ∈ x.todo) ∧ ∀ k, k ≠ e → t.slice k = s.slice k) ∧
    (g.toMem = true → c.fixed = false → s.granuleLive e c x g = true → c.rotOf (outputsOf c) x.rel g.buf = none → c.state = .issued →
      (s.sched.cmds.all fun d => decide (d.state ≠ .ready)) = true →
      Changes (.granuleArrival e p pos .ok) s [.slices, .sched] fun t =>
        (∃ d, t.cmd? c.cid = some d ∧ d.staged = c.staged ++ cellsAt g.va (s.bufferBytes e b (c.banksOn e) g.lst g.size))) ∧
    (s.granuleLive e c x g = false → Changes (.granuleArrival e p pos .ok) s (.slices :: .memUnit :: placing) fun t =>
      t.memUnit.pages = s.memUnit.pages ∧ (∀ h, h ∈ (t.prog e p).flight → h ∈ x.flight ∧ h.pos ≠ pos ∨ h ∈ x.todo) ∧ (t.prog e p).bufs = x.bufs) ∧
    (g.toMem = false → c.fixed = false → StandsAlone s c → ∀ (ch : Fin 32) (row : Nat),
      Answers (.granuleArrival e p pos (.ue ch row)) s fun t => EndedAlone s t c .killed stUncorrectable))) ∧
  (∀ (s : State) (e : EngineId) (p : Fin 16) (pos : Nat) (c : Cmd) (g : Granule),
  let x := s.prog e p
  s.cmd? x.cid = some c → x.flight.find? (fun h => h.pos == pos && h.requested) = some g →
  (s.access c.ctx g.va g.toMem = none → Answers (.granuleFault e p pos) s fun t => t = s) ∧
  (∀ cause, s.access c.ctx g.va g.toMem = some cause → x.wait ≠ .faulted → cause ≠ .tierLost ∨ (s.ctx c.ctx).inWeights g.va = true →
    Changes (.granuleFault e p pos) s [.slices, .memUnit, .mem, .ctxs, .mir, .pcie, .banks] fun t =>
      (t.prog e p).wait = .faulted ∧ (t.prog e p).held = x.wait ∧ (t.prog e p).cursor = some g ∧ (t.prog e p).bufs = x.bufs ∧ (t.prog e p).regs = x.regs ∧
      (t.prog e p).ip = x.ip ∧ (t.prog e p).flight = x.flight.filter (fun h => h.pos != pos) ∧ (∃ h ∈ (t.prog e p).todo, h.pos = g.pos ∧ h.va = g.va ∧ h.lst = g.lst) ∧
      (∃ f ∈ t.memUnit.faults, f.id = (t.prog e p).faultId ∧ f.ctx = c.ctx ∧ f.cause = cause ∧ f.va = g.va ∧ f.write = g.toMem ∧ f.cid = c.cid) ∧
      (∀ q, q ≠ p → t.prog e q = s.prog e q) ∧ (∀ k, k ≠ e → t.slice k = s.slice k) ∧
      (memWf s.mem = true → ∀ a, (a < ctxKey c.ctx (windowBase + 0x100000) ∨ ctxKey c.ctx (windowBase + 0x110000) ≤ a) → memRead t.mem a = memRead s.mem a)))

/-- Tiles, replays and recomputation. Tile starts take a tile slot, replays and recomputations of tiles go on in the cases that the
clauses name. -/
def Obligations.TileRows : Prop := ∀ (s : State) (e : EngineId) (c : Cmd) (t0 : Nat),
  (s.power.changing = true ∨ (s.slice e).hung = true ∨ s.nextTile e = none ∧ ((s.tileQueue e).any fun d => (d.tileOn e).isSome) = false →
    ∀ f, Answers (.tileStart e f) s fun t => t = s.placeAll) ∧
  (s.power.changing = false → (s.slice e).hung = false → s.nextTile e = none → ((s.tileQueue e).any fun d => (d.tileOn e).isSome) = true →
    ∀ f, Answers (.tileStart e f) s fun t => t = (s.starve e).placeAll) ∧
  (s.power.changing = false → (s.slice e).hung = false → s.nextTile e = some (c, t0) → s.cmd? c.cid = some c → NoneReady s →
    ((s.slice e).flips = 0 → c.fixed = false → ∀ f : Option Nat, s.tileReport c e t0 f = none →
      Changes (.tileStart e f) s [.slices, .sched, .ras, .banks] fun t =>
        (∃ d, t.cmd? c.cid = some d ∧ d = { c with done := c.done ++ [t0], issuing := true, runAhead := false }) ∧
        (t.slice e).tiles.getLast? = some (c.cid, t0, c.footprint) ∧ (t.slice e).tiles.length ≤ 4 ∧
        (c.footprint ≤ 32 → ((t.slice e).tiles.map (·.2.2)).sum ≤ 32) ∧ (∀ k, k ≠ e → t.slice k = s.slice k)) ∧
    (c.fixed = false → ∀ f v inj, s.tileReport c e t0 f = some (v, inj) →
      (c.reruns = 0 → (s.ras.slots[s.slotFor c e]).recent = [] → Answers (.tileStart e f) s fun t => ∃ d, t.cmd? c.cid = some d ∧ d.mismatch = true ∧ d.reruns = 1 ∧
        d.missSlot = some (s.slotFor c e) ∧ d.done = [] ∧ d.staged = [] ∧ d.banks = [] ∧ (d.state = .ready ∨ d.state = .placed)) ∧
      (c.reruns = 1 → c.missSlot = some (s.slotFor c e) → inj = false → Answers (.tileStart e f) s fun t => (t.ras.slots[s.slotFor c e]).healthy = false) ∧
      (c.reruns = 2 → (s.ras.slots[s.slotFor c e]).recent = [] → StandsAlone s c → Answers (.tileStart e f) s fun t =>
        EndedAlone s t c .killed stCheckMismatch ∧ DetailOf t c.ring (mismatchDetail e 3 v))) ∧
    (c.fixed = true → ∀ f v inj, s.tileReport c e t0 f = some (v, inj) → (s.ras.slots[s.slotFor c e]).recent = [] → Answers (.tileStart e f) s fun t =>
      ∃ d, t.cmd? c.cid = some d ∧ d.badTiles = c.badTiles ++ [t0] ∧ d.done = c.done ∧ d.failedTiles = c.failedTiles ∧
        (c.badTiles = [] → c.failedTiles = [] → c.detail = 0 → d.detail = mismatchDetail e 1 v) ∧ (c.badTiles ≠ [] → d.detail = c.detail))) ∧
  (∀ v inj f, s.tileReport c e t0 f = some (v, inj) → f ≠ none → inj = false → ∃ w, f = some w ∧ v = tidyReport w) ∧
  (∀ (cid ten : Nat), s.cmd? cid = some c → NoneReady s → isColl (opCode c.op) = false → c.state = .issued → c.fixed = false → s.workDone c = true → (c.replays.any fun r => r.1 == ten) = true →
    Changes (.replayIssue cid ten) s [.mem, .slices, .sched, .banks] fun t => ∃ d, t.cmd? cid = some d ∧ d.rescaled = true ∧ d.replays = [] ∧ d.deltas = c.deltas ∧ d.done = [] ∧ d.semAdds = [] ∧
      d.charge = c.charge + Config.freeNat s.free ∧ d.state = .issued) ∧
  (∀ (cid ten : Nat), s.cmd? cid = some c → (c.replays.any fun r => r.1 == ten) = false → Answers (.replayIssue cid ten) s fun t => t = s.placeAll) ∧
  (∀ cid : Nat, s.cmd? cid = some c → c.fixed = true → c.state = .issued → c.tilesLeft = [] → c.badTiles.contains t0 = true → NoneReady s →
    s.power.changing = false → let g : EngineId := Fin.ofNat 64 (c.mat.first + t0 % max 1 c.mat.cnt)
    (∀ f, s.tileReport c g t0 f = none → Answers (.fixedTileRecompute cid t0 f) s fun t =>
      ∃ d, t.cmd? cid = some d ∧ d.done = c.done ++ [t0] ∧ d.badTiles = c.badTiles.filter (· != t0) ∧ d.failedTiles = c.failedTiles ∧
        d.charge = c.charge + Config.freeNat s.free) ∧
    (s.sched.cmds = [c] → s.ras.reserveFor (octOf (s.slotFor c g)) ≠ none → ∀ f v inj, s.tileReport c g t0 f = some (v, inj) → Answers (.fixedTileRecompute cid t0 f) s fun t =>
      (∃ d, t.cmd? cid = some d ∧ d.done = c.done ∧ d.badTiles = c.badTiles.filter (· != t0) ∧ d.failedTiles = c.failedTiles ++ [t0] ∧ d.detail = c.detail) ∧
        (inj = false → (t.ras.slots[s.slotFor c g]).healthy = false))) ∧
  (∀ (cid : Nat) (f : Option Nat), s.power.changing = true → Answers (.fixedTileRecompute cid t0 f) s fun t => t = s.placeAll) ∧
  (∀ (cid : Nat) (f : Option Nat), s.cmd? cid = none → Answers (.fixedTileRecompute cid t0 f) s fun t => t = s.placeAll)

/-- What a fabric packet must pass. A packet that no usable link carries, with a tag that does not hold, that is stale, of a
cancelled attempt, or for another module is ignored, ends the session, is dropped with its credits returned, or goes on, in the
cases that the clauses name. -/
def Obligations.FabricPacketChecks : Prop := ∀ (i : Instr) (s : State) (typ : Byte) (p : Pkt) (n : Nat), fabPacket i = some (typ, p, n) → NoneReady s →
  (s.inVigil = true ∨ ((s.link p.link).usable = false ∧ (typ ≠ ptKey ∨ (s.link p.link).state ≠ .auth ∧ (s.link p.link).state ≠ .align)) → Answers i s fun t => t = s) ∧
  (s.inVigil = false → (s.link p.link).usable = true →
    (p.tagOk = false → Answers i s fun t => (t.link p.link).state = .auth ∧ t.cle = s.cle ∧ t.memUnit = s.memUnit ∧ t.mir = s.mir ∧ t.vault = s.vault ∧
      t.sched.cmds = s.sched.cmds ∧ t.slices = s.slices ∧ (∀ k, (t.ctx k).state = (s.ctx k).state) ∧ ∀ k, k ≠ p.link → (t.link k).state = (s.link k).state) ∧
    (p.tagOk = true → linkLocal typ = false → 16 < s.pktAge p → Changes i s [.fab, .banks] fun t =>
      (∀ v, (t.link p.link).freed[v] = (s.link p.link).freed[v] + if v = vcOf typ p.cls then pktSlots typ n else 0) ∧ t.fab.deadSent = s.fab.deadSent) ∧
    (p.tagOk = true → p.attempt ≠ 0 → (linkLocal typ = true ∨ s.pktAge p ≤ 16) → ∀ u, (p.src, p.attempt, u) ∈ s.fab.cancels → s.tick.now ≤ u + 16 →
      Answers i s fun t => t = s.freeSlots p typ n) ∧
    (p.tagOk = true → linkLocal typ = false → s.pktAge p ≤ 16 → p.attempt = 0 → p.dst ≠ s.fab.ident → (s.boot.hb = hbSpare ∨ s.boot.hb = hbActive) →
      ∀ l, s.routeLink p.dst p.src (some p.link) = some l → s.linkTakes l (vcOf typ p.cls) p.dst = true → Changes i s [.fab] fun t =>
        ∃ h, (h ∈ t.fab.held ∨ h ∈ t.fab.sent) ∧ h.typ = typ ∧ h.dst = p.dst ∧ h.src = p.src ∧ h.out = l ∧ h.from? = some p.link ∧ h.body.length = n))

/-- Packets that read and write memory. WRITE, READ_REQ, RECLAIM and CHUNK packets that are taken in write, read and give back lent
pages, shadow copies and weight chunks in the cases that the clauses name. -/
def Obligations.RemoteMemoryPackets : Prop := ∀ (s : State) (p : Pkt),
  let f := p.addr.toNat / 2 ^ 21
  (∀ data : List Byte, s.takes ptWrite p = true → bitOf p.addr.toNat mirrorBit = false →
    (∀ x w, s.memUnit.lent.find? (fun x => x.frame == f) = some x → peerW p.src = some w → x.peer = w → x.ctx = p.ctx → x.gen = p.gen →
      memWf s.mem = true → p.addr.toNat % 2 ^ 21 + data.length ≤ 2 ^ 21 → Changes (.fabWrite p data) s [.mem, .fab] fun t =>
        memReadList t.mem (lentKey f (p.addr.toNat % 2 ^ 21)) data.length = data ∧
        (∀ a, a < lentKey f (p.addr.toNat % 2 ^ 21) ∨ lentKey f (p.addr.toNat % 2 ^ 21) + data.length ≤ a → memRead t.mem a = memRead s.mem a) ∧
        t.fab.held = s.fab.held ∧ t.fab.sent = s.fab.sent) ∧
    (∀ x w, s.memUnit.lent.find? (fun x => x.frame == f) = some x → peerW p.src = some w → (x.peer ≠ w ∨ x.ctx ≠ p.ctx ∨ x.gen ≠ p.gen) →
      Changes (.fabWrite p data) s [.fab, .banks, .ctxs] fun t => t.mem = s.mem ∧ t.memUnit = s.memUnit ∧ (p.src, p.ctx) ∈ t.fab.deadSent) ∧
    (∀ w, s.memUnit.lent.find? (fun x => x.frame == f) = none → peerW p.src = some w → f < s.memUnit.lendPages → s.lentFrames < s.memUnit.lendPages → p.gen ≠ 0 →
      Changes (.fabWrite p data) s [.mem, .memUnit, .fab] fun t =>
        t.memUnit = { s.memUnit with lent := s.memUnit.lent ++ [{ frame := f, peer := w, ctx := p.ctx, gen := p.gen }] })) ∧
  (∀ data : List Byte, s.takes ptWrite p = true → bitOf p.addr.toNat mirrorBit = true → bitOf p.addr.toNat recordBit = false → bitOf p.addr.toNat parityBit = false →
    (allCtx.any fun c => (s.mirOf c).ward == p.src) = true → Changes (.fabWrite p data) s (.mir :: .fab :: .memUnit :: telling) fun t =>
      ∃ h, t.heldCopy? p.src p.ctx false = some h ∧ h.shadow = some (memWriteList (((s.heldCopy? p.src p.ctx false).bind fun h => h.shadow.orElse fun _ => h.bytes).getD [])
        (p.addr.toNat % 2 ^ 48) data) ∧ t.mir.ctxs = s.mir.ctxs) ∧
  (∀ (len : W16) (l : LinkId) (x : Lent) (w : Fin 9), s.takes ptReadReq p = true → bitOf p.addr.toNat mirrorBit = false →
    s.memUnit.lent.find? (fun x => x.frame == f) = some x → peerW p.src = some w → x.peer = w → x.ctx = p.ctx → x.gen = p.gen →
    s.routeLink p.src s.fab.ident none = some l → s.linkTakes l (vcOf ptReadResp p.cls) p.src = true → Changes (.fabReadReq p len) s [.fab] fun t =>
      ∃ h, (h ∈ t.fab.held ∨ h ∈ t.fab.sent) ∧ h.typ = ptReadResp ∧ h.dst = p.src ∧ h.ctx = p.ctx ∧ h.gen = p.gen ∧ h.attempt = p.attempt ∧
        h.body = le 8 p.addr.toNat ++ memReadList s.mem (lentKey f (p.addr.toNat % 2 ^ 21)) len.toNat) ∧
  (∀ pages : Nat, s.takes ptReclaim p = true → ∀ w, peerW p.src = some w → Answers (.fabReclaim p pages) s fun t =>
    t.memUnit.peerRoom[w] = 0 ∧ (∀ k, k ≠ w → t.memUnit.peerRoom[k] ≤ s.memUnit.peerRoom[k]) ∧
      ((∀ q ∈ s.memUnit.pages, q.tier ≠ .t3 ∨ q.peer ≠ w) → t.memUnit.pages = s.memUnit.pages ∧ t.mem = s.mem)) ∧
  (∀ (root data : List Byte) (chunk : Nat), s.takes ptChunk p = true → s.genLive p = true → NoneReady s →
    (s.sched.cmds = [] → Answers (.fabChunk p root chunk data) s fun t => t = s.freeSlots p ptChunk (root.length + 4 + data.length)) ∧
    (∀ (c : Cmd) img slot group members lflags va len smap n, s.sched.cmds = [c] → c.op = .wgtLoad img slot group members lflags va len smap n → c.ctx = p.ctx → c.running = true →
      ((s.image (imgOf img)).man.root = root → leafHash chunk data = (s.image (imgOf img)).man.leaf.getD chunk [] → Changes (.fabChunk p root chunk data) s [.fab, .sched] fun t =>
        t.sched.cmds = [{ c with chunkUs := s.nowUs, chunks := c.chunks ++ ((c.missing.filter fun y => y.1 == chunk).map fun y => (chunk, y.2, data)) }]) ∧
      ((s.image (imgOf img)).man.root ≠ root ∨ leafHash chunk data ≠ (s.image (imgOf img)).man.leaf.getD chunk [] →
        Answers (.fabChunk p root chunk data) s fun t => t = s.freeSlots p ptChunk (root.length + 4 + data.length))))

/-- Notices about contexts and attempts. CTX_DEAD, CTX_FENCED, TEARDOWN and its acknowledgment, LOST and CANCEL packets end senders,
drop packets and answer in the cases that the clauses name. -/
def Obligations.ContextNotices : Prop := ∀ (s : State) (p : Pkt) (old : CtxId) (g : Byte), NoneReady s →
  (s.takes ptCtxDead p = true → s.sendersTo p.attempt p.src old g = [] → Answers (.fabCtxDead p old g) s fun t => t = s.freeSlots p ptCtxDead 2) ∧
  (∀ c : Cmd, s.takes ptCtxDead p = true → StandsAlone s c → c.running = true → c.fixed = false → p.attempt ≠ 0 → BitVec.ofNat 32 c.attempt = p.attempt →
    Answers (.fabCtxDead p old g) s fun t => EndedAlone s t c .killed stCtxDead) ∧
  (s.takes ptCtxFenced p = true → s.sendersTo p.attempt p.src old g = [] → Answers (.fabCtxFenced p old g) s fun t => t = s.freeSlots p ptCtxFenced 2) ∧
  (∀ c : Cmd, s.takes ptCtxFenced p = true → StandsAlone s c → c.running = true → c.fixed = false → p.attempt ≠ 0 → BitVec.ofNat 32 c.attempt = p.attempt →
    Answers (.fabCtxFenced p old g) s fun t => EndedAlone s t c .killed stCtxFenced) ∧
  (s.takes ptTeardown p = true → s.sendersTo 0 p.src old g = [] → Changes (.fabTeardown p old g) s [.fab, .mem, .memUnit, .mir] fun t =>
    (∀ h ∈ t.fab.held, h.src = p.src → h.ctx = old → h.gen = g → h.typ = ptTeardownAck) ∧
    (∀ w, peerW p.src = some w → sameSled p.src s.sledIdent = true → t.memUnit.lent = s.memUnit.lent.filter fun x => !(decide (x.peer = w) && decide (x.ctx = old) && x.gen == g)) ∧
    (∀ h, h ∈ t.mir.held ↔ h ∈ s.mir.held ∧ ¬(h.ident = p.src ∧ h.ctx = old ∧ h.parity = false)) ∧
    ∃ h, (h ∈ t.fab.held ∨ h ∈ t.fab.sent) ∧ h.typ = ptTeardownAck ∧ h.dst = p.src ∧ h.out = p.link ∧ h.body = [BitVec.ofNat 8 old.val, g]) ∧
  (s.takes ptTeardownAck p = true → (s.ctx old).state = .draining → prevGen (s.ctx old).gen = g → p.link ∈ (s.ctx old).awaitAck →
    Changes (.fabTeardownAck p old g) s [.ctxs, .fab] fun t => t.ctx old = { s.ctx old with awaitAck := (s.ctx old).awaitAck.filter (· != p.link) } ∧
      ∀ k, k ≠ old → t.ctx k = s.ctx k) ∧
  (s.takes ptTeardownAck p = true → ((s.ctx old).state ≠ .draining ∨ prevGen (s.ctx old).gen ≠ g ∨ p.link ∉ (s.ctx old).awaitAck) →
    Answers (.fabTeardownAck p old g) s fun t => t = s.freeSlots p ptTeardownAck 2) ∧
  (∀ (c : Cmd) (cause : Byte), s.takes ptLost p = true → StandsAlone s c → c.running = true → c.fixed = false → c.attempt % 2 ^ 32 ≠ 0 → isColl (opCode c.op) = false →
    Answers (.fabLost p (BitVec.ofNat 32 c.attempt) cause) s fun t => EndedAlone s t c .killed stFaultUnresolved ∧
      DetailOf t c.ring (BitVec.ofNat 64 ((if cause = 0 then 4 else cause.toNat) % 16 * 2 ^ 44))) ∧
  (∀ (victim : W32) (cause : Byte), s.takes ptLost p = true → victim ≠ 0 → (∀ c ∈ s.sched.cmds, c.running = true → BitVec.ofNat 32 c.attempt ≠ victim) →
    Answers (.fabLost p victim cause) s fun t => t = s.freeSlots p ptLost 5) ∧
  (∀ victim : W32, s.takes ptCancel p = true → victim ≠ 0 → Changes (.fabCancel p victim) s [.fab, .cle] fun t =>
    (∀ h ∈ t.fab.held, ¬(h.src = p.src ∧ h.attempt = victim)) ∧ (∀ e, e ∈ t.cle.early ↔ e ∈ s.cle.early ∧ ¬(e.src = p.src ∧ e.attempt = victim)) ∧ t.fab.cancels.head? = some (p.src, victim, s.tick.now))

/-- ROUTE, TIMING and KEY packets. ROUTE, TIMING and KEY packets set the neighbour and adoption, the next change of the tick and the
session of a link in the cases that the clauses name. -/
def Obligations.LinkControlPackets : Prop := ∀ (s : State) (p : Pkt),
  (∀ (own : W16) (seen : List W16), s.takes ptRoute p = true → Changes (.fabRoute p own seen) s [.fab] fun t =>
    (t.link p.link).nbrIdent = own ∧ (∀ k, k ≠ p.link → t.link k = s.link k) ∧ t.fab.ident = s.fab.ident ∧
    ((s.link p.link).nbrSlot ≠ 8 ∨ 8 ≤ p.link.val → t.fab.adopt = s.fab.adopt ∧ t.fab.adoptOwn = s.fab.adoptOwn) ∧
    ((s.link p.link).nbrSlot = 8 → p.link.val < 8 →
      t.fab.adoptOwn.val = (if own = noIdent ∨ identW own = 8 then 15 else identW own) ∧
      ∀ k : Fin 6, (t.fab.adopt[k]).val = if seen.getD k.val noIdent = noIdent ∨ identW (seen.getD k.val noIdent) = 8 then 15 else identW (seen.getD k.val noIdent))) ∧
  (∀ (at_ : W32) (tcal len1 start1 len0 start0 : Nat), s.takes ptTiming p = true →
    (s.tick.state = .master → Answers (.fabTiming p at_ tcal len1 start1 len0 start0) s fun t => t = s.freeSlots p ptTiming 9) ∧
    (s.tick.state ≠ .master → Changes (.fabTiming p at_ tcal len1 start1 len0 start0) s [.tick, .fab] fun t =>
      t.tick = { s.tick with change := some { at_, tcal, len1, start1, len0, start0 } } ∧
      (s.tick.change ≠ some { at_, tcal, len1, start1, len0, start0 } → ∀ l ∈ s.upLinks, l ≠ p.link →
        ∃ h, (h ∈ t.fab.held ∨ h ∈ t.fab.sent) ∧ h.typ = ptTiming ∧ h.out = l ∧ h.body = ({ at_, tcal, len1, start1, len0, start0 } : TickChange).body))) ∧
  (∀ ok done : Bool, s.takes ptKey p = true →
    ((s.link p.link).state = .auth → ok = true → done = true → Changes (.fabKey p ok done) s [.fab] fun t =>
      (t.link p.link).state = .align ∧ (t.link p.link).session = true ∧ (t.link p.link).packets = 0 ∧ ∀ k, k ≠ p.link → t.link k = s.link k) ∧
    ((s.link p.link).state = .auth → ok = false → Changes (.fabKey p ok done) s (.fab :: telling) fun t => (t.link p.link).state = .auth ∧ ∀ k, k ≠ p.link → t.link k = s.link k) ∧
    ((s.link p.link).state = .auth → ok = true → done = false → Answers (.fabKey p ok done) s fun t => t = s.freeSlots p ptKey 1) ∧
    ((s.link p.link).state = .up → ok = true → done = true → Changes (.fabKey p ok done) s [.fab] fun t =>
      (t.link p.link).packets = 0 ∧ (t.link p.link).keyUpdates = (s.link p.link).keyUpdates + 1 ∧ (t.link p.link).state = .up ∧ ∀ k, k ≠ p.link → t.link k = s.link k))

/-- Packets of collectives. Nodes, data, aborts and fence scalars of collectives are kept until their command comes, or join, end or
close it, in the cases that the clauses name. -/
def Obligations.CollectivePackets : Prop := ∀ (s : State) (p : Pkt) (rid : W32), NoneReady s → s.takes ptColl p = true → s.genLive p = true →
  (s.collBy? p.ctx rid = none → ∀ (level : Byte) (fmt : Fin 16) (index : W32) (srank : W16) (vals : List W32),
    (Changes (.collNode p rid level fmt index srank vals) s [.cle, .banks] fun t => t.cle = { s.cle with early := s.cle.early ++
      [{ ctx := p.ctx, src := p.src, attempt := p.attempt, link := p.link, slots := pktSlots ptColl (24 + collBytes fmt.val vals.length), rid,
         node := true, level := level.toNat, index := index.toNat, first := p.addr.toNat % 2 ^ 48, vals }] }) ∧
    (Changes (.collData p rid fmt srank vals) s [.cle, .banks] fun t => t.cle = { s.cle with early := s.cle.early ++
      [{ ctx := p.ctx, src := p.src, attempt := p.attempt, link := p.link, slots := pktSlots ptColl (24 + collBytes fmt.val vals.length), rid,
         node := false, level := 0, index := 0, first := p.addr.toNat % 2 ^ 48, vals }] })) ∧
  (∀ (k : Coll) (c : Cmd) (fmt : Fin 16) (srank : W16) (vals : List W32), s.collBy? p.ctx rid = some k → s.cmd? k.cid = some c → s.sched.cmds = [c] → s.cle.colls = [k] →
    c.fixed = false → s.tick.window = false → Changes (.collData p rid fmt srank vals) s [.cle, .fab, .sched, .banks] fun t =>
      (∃ d, t.cmd? k.cid = some d ∧ c.staged <+: d.staged ∧ d.state = c.state) ∧
      ∃ k', t.coll? k.cid = some k' ∧ k'.waited = 0 ∧ ∀ n, n < vals.length → c.outElems.contains (p.addr.toNat % 2 ^ 48 + n) = true → p.addr.toNat % 2 ^ 48 + n ∈ k'.written) ∧
  (∀ (k : Coll) (c : Cmd) (level : Byte) (fmt : Fin 16) (index : W32) (srank : W16) (vals : List W32), s.collBy? p.ctx rid = some k → s.cmd? k.cid = some c →
    s.sched.cmds = [c] → s.cle.colls = [k] → c.fixed = false → s.tick.window = false → vals ≠ [] →
    (∀ n, n < vals.length → (k.nodes.any fun x => x.level == level.toNat && x.index == index.toNat && x.elem == p.addr.toNat % 2 ^ 48 + n) = true) →
    Answers (.collNode p rid level fmt index srank vals) s fun t => ∃ k', t.coll? k.cid = some k' ∧ k'.waited = 0 ∧ k'.nodes = k.nodes) ∧
  (∀ srank status : W16, s.collBy? p.ctx rid = none → Changes (.collAbort p rid srank status) s [.cle, .fab] fun t =>
    t.cle.aborts.head? = some ((p.ctx, rid), srank, status, s.tick.now) ∧ t.cle.colls = s.cle.colls ∧ t.cle.early = s.cle.early) ∧
  (∀ (k : Coll) (c : Cmd) (srank status : W16), s.collBy? p.ctx rid = some k → k.cid = c.cid → StandsAlone s c → c.fixed = false → Answers (.collAbort p rid srank status) s fun t =>
    EndedAlone s t c .killed stKilled ∧ DetailOf t c.ring (BitVec.ofNat 64 (srank.toNat * 2 ^ 48 + status.toNat))) ∧
  (∀ (srank : W16) (up skip : Bool) (amax : List (Nat × W32)), (s.cle.fences.all fun f => decide (f.ctx ≠ p.ctx) || f.step != rid) = true →
    Changes (.collScalar p rid srank up skip amax) s [.cle, .fab] fun t => t.cle = { s.cle with earlyScalars := s.cle.earlyScalars ++
      [{ ctx := p.ctx, step := rid, sender := srank.toNat, up, skip, amax }] }) ∧
  (∀ (srank : W16) (skip : Bool) (amax : List (Nat × W32)) (f : FenceRed) (rank : Nat) (ms : List Member),
    s.cle.fences.find? (fun f => decide (f.ctx = p.ctx) && f.step == rid) = some f → s.jobRank p.ctx = some (rank, ms) → srank.toNat ∈ fenceKids ms.length rank →
    srank.toNat ∉ f.got → (∃ r ∈ fenceKids ms.length rank, r ≠ srank.toNat ∧ r ∉ f.got) → Changes (.collScalar p rid srank true skip amax) s [.cle, .fab] fun t =>
      ∃ g ∈ t.cle.fences, g.cid = f.cid ∧ g.got = srank.toNat :: f.got ∧ g.skip = (f.skip || skip) ∧
        ∀ k, (assocD g.amax k 0).toNat = (amax.filter (·.1 == k)).foldl (fun m a => max m a.2.toNat) (assocD f.amax k 0).toNat)

/-- Timeouts, windows and step fences. A collective that waits 128 ticks of window time ends, the collective window opens and closes, and the last
scalar of a fence closes the step. -/
def Obligations.CollectivesAndFences : Prop :=
  (∀ s : State,
  (∀ (cid : Nat) (rank : W16) (c : Cmd) (k : Coll), c.cid = cid → StandsAlone s c → c.fixed = false → s.coll? cid = some k →
    (128 * 16 ≤ k.waited → c.outElems.all k.written.contains = false → Answers (.collTimeout cid rank) s fun t =>
      EndedAlone s t c .killed stFaultUnresolved ∧ DetailOf t c.ring (BitVec.ofNat 64 (rank.toNat * 2 ^ 48 + 5 * 2 ^ 44))) ∧
    (k.waited < 128 * 16 → NoneReady s → Answers (.collTimeout cid rank) s fun t => t = s)) ∧
  (NoneReady s → s.cle.colls = [] →
    (s.tick.window = false → s.tick.winNo < (if s.tick.len0 = 0 then 0 else 1) + (if s.tick.len1 = 0 then 0 else 1) → Changes .collectiveWindowOpen s [.tick, .fab] fun t =>
      t.tick = { s.tick with window := true, winNo := s.tick.winNo + 1 }) ∧
    (s.tick.window = true → Answers .collectiveWindowOpen s fun t => t = s)) ∧
  (s.tick.window = false → Answers .collectiveWindowClose s fun t => t = s) ∧
  (s.tick.window = true → Changes .collectiveWindowClose s [.tick, .cle, .banks] fun t => t.tick = { s.tick with window := false } ∧
    let n := (s.tick.windows[s.tick.winNo - 1]?).getD 0
    t.cle = { s.cle with colls := s.cle.colls.map (fun k => { k with waited := k.waited + n }), fences := s.cle.fences.map fun f => { f with waited := f.waited + n } })) ∧
  (∀ (s : State) (x : CtxId) (step : W32) (c : Cmd), c.ctx = x → c.op = .stepFence step → c.running = true →
  (∀ d : Cmd, s.cmd? c.cid = some c → s.sched.cmds = [c, d] → d.cid ≠ c.cid → d.ctx = x → d.state ≠ .ready → d.step? = some step → opIsOpt d.op = false → (x, step) ∉ d.after →
    Answers (.stepFenceClose x step) s fun t => t = s) ∧
  (∀ (n : Nat) (q : Nat) (seq : W32) (st : W16), StandsAlone s c → (s.cle.fences.any fun f => f.cid == c.cid) = false → (s.ctx x).steps.find? (fun e => e.1 == step) = some (step, n, some (q, seq, st)) →
    Answers (.stepFenceClose x step) s fun t => EndedAlone s t c .killed stKilled ∧ (t.ctx x).scales = (s.ctx x).scales ∧ t.pv x = s.pv x ∧
      DetailOf t c.ring (BitVec.ofNat 64 (seq.toNat * 2 ^ 32 + st.toNat))) ∧
  (∀ (n : Nat), StandsAlone s c → (s.cle.fences.any fun f => f.cid == c.cid) = false → (s.ctx x).steps.find? (fun e => e.1 == step) = some (step, n, none) → s.jobRank x = none →
    (((s.ctx x).scales.map (·.1)).Nodup) → Answers (.stepFenceClose x step) s fun t => EndedAlone s t c .committed stOk ∧
      DetailOf t c.ring (BitVec.ofNat 64 (min n (2 ^ 32 - 1) * 2 ^ 32 + if (s.ctx x).skip.contains step then 1 else 0)) ∧
      (t.pv x).step = step + 1 ∧ (∀ k, k ≠ x → t.pv k = s.pv k) ∧ (t.ctx x).skip.contains step = (s.ctx x).skip.contains step ∧
      ∀ k ∈ (s.ctx x).scales.map (·.1), ((t.ctx x).scale k).step = step + 1 ∧ ((t.ctx x).scale k).stepAmax = 0 ∧ ((t.ctx x).scale k).deltas = [] ∧
        ((t.ctx x).scale k).hcount = min 16 (((s.ctx x).scale k).hcount + 1) ∧
        ((t.ctx x).scale k).hhead = (if ((s.ctx x).scale k).hcount = 0 then ((s.ctx x).scale k).hhead else (((s.ctx x).scale k).hhead + 1) % 16) ∧
        (∀ j, j < 16 → ((s.ctx x).scale k).hist.length = 16 → ((t.ctx x).scale k).hist.getD j 0 =
          if j = ((t.ctx x).scale k).hhead then ((s.ctx x).scale k).stepAmax else ((s.ctx x).scale k).hist.getD j 0)))

/-- Seals and settlement. A seal completes the copy of a step, settlement expiry classes the incident, and answers of remote reads
fill what waits for them. -/
def Obligations.MirrorEvents : Prop := ∀ s : State,
  (∀ (x : CtxId) (step : W32), NoneReady s → (s.mirOf x).synced = some step → s.allSynced x step = true → Changes (.mirSeal x step) s [.mir] fun t =>
    (s.mirOf x).nextPair = none → (t.mirOf x).state = .sealed ∧ (t.mirOf x).sealStep = step ∧ (t.mirOf x).synced = none ∧ (t.mirOf x).sending = [] ∧
      (∃ o, (t.mirOf x).own = some o ∧ o.step = step ∧ o.scales = (s.ctx x).scales ∧ o.recipes = (s.ctx x).recipes ∧ o.bytes = s.rangeCells x (s.mirOf x).ranges 0) ∧
      (∀ h ∈ s.mir.held, h.ident = (s.mirOf x).ward → h.seal ∈ t.mir.held) ∧ (∀ k, k ≠ x → t.mirOf k = s.mirOf k)) ∧
  (∀ (x : CtxId) (step : W32) (q), NoneReady s → (s.mirOf x).synced = some step → s.allSynced x step = true → (s.mirOf x).nextPair = some q →
    Answers (.mirSeal x step) s fun t => (t.mirOf x).state = .paired ∧ (t.mirOf x).partner = q.partner ∧ (t.mirOf x).ranges = q.ranges) ∧
  (∀ (x : CtxId) (step : W32), NoneReady s → (s.mirOf x).synced ≠ some step ∨ s.allSynced x step = false → Answers (.mirSeal x step) s fun t => t = s) ∧
  (s.mir.settle.since = none → Answers .settleExpiry s fun t => t = s) ∧
  (s.mir.settle.since ≠ none → Changes .settleExpiry s [.mir, .fab] fun t => t.mir.settle.since = none ∧ t.mir.settle.failed = s.mir.settle.failed ∧
    (∀ f c, (f, c) ∈ t.mir.settle.classes ↔ f ∈ s.mir.settle.failed ∧ c = s.classify f) ∧
    t.mir.settle.classes.Pairwise (fun a b => b.2 = .mirror → a.2 = .mirror) ∧
    (∀ h ∈ t.mir.held, h.ident ∈ s.mir.settle.failed → h.parity = false → h.shadow = none ∧ h.shadowRecord = []) ∧ t.mir.ctxs = s.mir.ctxs) ∧
  (∀ (p : Pkt) (data : List Byte), NoneReady s → s.takes ptReadResp p = true → bitOf p.addr.toNat mirrorBit = true →
    ((s.sched.cmds.all fun c => !(c.running && c.lostChunks.any fun q => q.1 == p.addr.toNat)) = true → Answers (.fabReadResp p data) s fun t => t = s.freeSlots p ptReadResp (8 + data.length)) ∧
    (∀ c : Cmd, s.sched.cmds = [c] → c.running = true → (c.lostChunks.any fun q => q.1 == p.addr.toNat) = true → bitOf p.addr.toNat recordBit = false →
      bitOf p.addr.toNat parityBit = false → Changes (.fabReadResp p data) s [.sched, .fab] fun t =>
        t.sched.cmds = [{ c with lostChunks := c.lostChunks.filter (fun q => q.1 != p.addr.toNat), staged := c.staged ++ cellsAt (p.addr.toNat % (if bitOf p.addr.toNat keelBit then 2 ^ 42 else 2 ^ 48)) data }]))

/-- Messages between services. Messages of the membership service, the job agent and the checkpoint agent change what the manual
says they change. The layout of these messages is the model's choice (log entry 30). -/
def Obligations.ServiceMessages : Prop := ∀ (s : State) (p : Pkt), s.takes ptService p = true → s.serve.reqs = [] →
  (∀ (job : W64) (step : W32), Changes (.fabService p (.boundary job step)) s [.jobChanges, .fab] fun t =>
    t.jobChanges.length = s.jobChanges.length ∧ ∀ (n : Nat) (c d : JobChange), s.jobChanges[n]? = some c → t.jobChanges[n]? = some d →
      d = { c with boundary := d.boundary } ∧ (c.job ≠ job → d = c) ∧ (c.job = job → ∀ b, c.boundary = some b → ∃ e, d.boundary = some e ∧ e.toNat = max b.toNat step.toNat)) ∧
  (∀ (job : W64) (step : W32), Changes (.fabService p (.synced job step)) s [.mir, .fab] fun t =>
    (job, p.src, step) ∈ t.mir.peerSyncs ∧ (∀ u, (job, p.src, u) ∈ t.mir.peerSyncs → u = step) ∧
    ∀ q, q.1 ≠ job ∨ q.2.1 ≠ p.src → (q ∈ t.mir.peerSyncs ↔ q ∈ s.mir.peerSyncs)) ∧
  (∀ r : List Byte, leAt r 5 1 ≠ 5 → Answers (.fabService p (.incident r)) s fun t => t = s.freeSlots p ptService 0) ∧
  (∀ r : List Byte, leAt r 5 1 = 5 → s.mir.settle.since = none → s.mir.inter = none → Changes (.fabService p (.incident r)) s [.mir, .jobChanges, .fab] fun t =>
    t.mir = { s.mir with settle := { s.mir.settle with classes := [] } } ∧
    ∀ (n : Nat) (c : JobChange), s.jobChanges[n]? = some c → t.jobChanges[n]? = some { c with boundary := some (c.boundary.getD (s.pv c.ctx).step) }) ∧
  (∀ (job : W64) (rel : Bool) (x y z : Fin 16), s.job? job = none → Answers (.fabService p (.change job rel x y z)) s fun t => t = s.freeSlots p ptService 0) ∧
  (∀ (job : W64) (status : W16) (k : JobChange) (c : Cmd), s.jobChanges = [k] → k.job = job → k.cid ≠ 0 → k.release = false → k.cid = c.cid → StandsAlone s c →
    Answers (.fabService p (.rejected job status)) s fun t => EndedAlone s t c .killed status ∧ t.jobChanges = []) ∧
  (∀ (job : W64) (plan : List Byte) (step epoch mepoch : W32) (seed tenant : W64) (scales : List Byte) (k : JobChange), s.jobChanges = [k] → k.job = job → k.cid ≠ 0 → k.release = false →
    (s.ctx k.ctx).seed = seed → (s.ctx k.ctx).tenant = tenant → Changes (.fabService p (.admitted job plan step epoch mepoch seed tenant scales)) s [.mir, .jobChanges, .fab] fun t =>
      t.jobChanges = [{ k with boundary := some step }] ∧ ∃ q ∈ t.mir.told, q.job = job ∧ q.plan = plan ∧ q.scales = scales ∧ q.pv.step = step ∧ q.pv.epoch = epoch ∧ q.pv.mepoch = mepoch) ∧
  (∀ ident : W16, s.cle.colls = [] → s.cle.fences = [] → s.cle.jobTables = [] → s.mir.inter = none → s.jobChanges = [] → ident ≠ noIdent → ident ∉ s.mir.settle.failed →
    Changes (.fabService p (.failed ident)) s [.mir, .fab] fun t => t.mir.settle.failed = s.mir.settle.failed ++ [ident] ∧
      t.mir.settle.since = (if s.mir.settle.since.isSome then s.mir.settle.since else some s.tick.now)) ∧
  (∀ (peer : Fin 9) (root : List Byte) (chunks : List (Nat × List Byte)), (∀ q ∈ s.memUnit.pages, q.poison = false ∧ q.lost = false) →
    Changes (.fabService p (.installed peer root chunks)) s [.vault, .fab] fun t =>
      ∀ c ∈ chunks, (peer, root, c.1, c.2) ∈ t.vault.peerChunks) ∧
  (∀ (job : W64), s.job? job = none → ∀ l, s.routeLink p.src s.fab.ident none = some l → s.linkTakes l 0 p.src = true → Changes (.fabService p (.joining job [])) s [.fab] fun t =>
    ∃ h, (h ∈ t.fab.held ∨ h ∈ t.fab.sent) ∧ h.typ = ptService ∧ h.dst = p.src ∧ h.body = svcBody 4 (le 8 job.toNat ++ le 2 stBounds.toNat))

/-- Doorbells and ring registers. Doorbells, the enabling, disabling and closing of rings, packets at the head and CPL_HEAD do what
the manual says, errors included. -/
def Obligations.RingRegisters : Prop := ∀ (s : State) (path : Path),
  (∀ (n : Fin 64) (tail : W32), s.canReach path (.cmdqDb n) = true →
    let r : RingId := n.castSucc
    (path = .host → (s.ring r).core = false) →
    ((s.ring r).state = .running → (tail - (s.ring r).head).toNat ≤ 2 ^ (s.ring r).log2sz → Changes (.doorbell path n tail) s [.rings] fun t =>
      t.ring r = { s.ring r with tail } ∧ ∀ k, k ≠ r → t.ring k = s.ring k) ∧
    ((s.ring r).state = .running → 2 ^ (s.ring r).log2sz < (tail - (s.ring r).head).toNat → Changes (.doorbell path n tail) s [.rings, .pcie] fun t =>
      t.ring r = { s.ring r with state := .error, err := 1 } ∧ (∀ k, k ≠ r → t.ring k = s.ring k) ∧
      (s.pcie.up = true → (s.ring r).core = false → t.pcie = { s.pcie with msix := s.pcie.msix ++ [n.val] })) ∧
    ((s.ring r).state ≠ .running → Answers (.doorbell path n tail) s fun t => t = s)) ∧
  (∀ (n : Fin 64) (tail : W32), s.canReach .host (.cmdqDb n) = true → (s.ring n.castSucc).core = true → Changes (.doorbell .host n tail) s [.cfgErr, .banks] fun t =>
    CfgRecorded s t .path .host (.cmdqDb n)) ∧
  (s.canReach path .cmdqCfg = true → ∀ v : W32,
    let r := s.selRing path
    (path ≠ .host → (s.ring r).enabled = false → (s.ring r).state ≠ .closing → 4 ≤ v.toNat % 32 → v.toNat % 32 ≤ 16 → Changes (.ringEnable path v) s [.rings] fun t =>
      (t.ring r).state = .running ∧ (t.ring r).head = 0 ∧ (t.ring r).tail = 0 ∧ (t.ring r).cplTail = 0 ∧ (t.ring r).cplHead = 0 ∧ (t.ring r).nextSeq = none ∧
      (t.ring r).err = 0 ∧ (t.ring r).admin = v.getLsbD 30 ∧ (t.ring r).core = v.getLsbD 29 ∧ (t.ring r).log2sz = v.toNat % 32 ∧ (t.ring r).base = (s.ring r).base ∧
      (t.ring r).cpl = (s.ring r).cpl ∧ (t.ring r).mask = (s.ring r).mask ∧ ∀ k, k ≠ r → t.ring k = s.ring k) ∧
    ((s.ring r).enabled = true → (path = .host → (s.ring r).core = false) → v.getLsbD 30 = (s.ring r).admin → v.getLsbD 29 = (s.ring r).core → v.toNat % 32 = (s.ring r).log2sz →
      Changes (.ringDisable path v) s [.rings] fun t =>
        t.ring r = { s.ring r with state := if s.outstanding r = 0 then .disabled else .closing } ∧ ∀ k, k ≠ r → t.ring k = s.ring k)) ∧
  (∀ r : RingId, (s.outstanding r = 0 → (s.ring r).state = .closing → Changes (.ringClosed r) s [.rings, .pcie] fun t =>
      t.ring r = { s.ring r with state := .disabled } ∧ ∀ k, k ≠ r → t.ring k = s.ring k) ∧
    (s.outstanding r ≠ 0 → Answers (.ringClosed r) s fun t => t = s)) ∧
  (s.canReach path .cmdqCplHead = true → ∀ v : W32,
    let r := s.selRing path
    (path = .host → (s.ring r).core = false) →
    ((v - (s.ring r).cplHead).toNat ≤ ((s.ring r).cplTail - (s.ring r).cplHead).toNat → Changes (.cplHeadWrite path v) s [.rings] fun t =>
      t.ring r = { s.ring r with cplHead := v } ∧ ∀ k, k ≠ r → t.ring k = s.ring k) ∧
    (((s.ring r).cplTail - (s.ring r).cplHead).toNat < (v - (s.ring r).cplHead).toNat → (s.ring r).state = .running → Changes (.cplHeadWrite path v) s [.rings, .pcie] fun t =>
      t.ring r = { s.ring r with state := .error, err := 3 } ∧ ∀ k, k ≠ r → t.ring k = s.ring k)) ∧
  (∀ r : RingId, r ≠ mgtRing →
    ((s.ring r).head = (s.ring r).tail → ∀ f, Answers (.packetAdmit r f) s fun t => t = s) ∧
    ((s.ring r).head ≠ (s.ring r).tail → (s.ring r).state = .running → s.mainUp = true → Changes (.packetAdmit r true) s [.rings, .pcie] fun t =>
      t.ring r = { s.ring r with state := .error, err := 2 } ∧ ∀ k, k ≠ r → t.ring k = s.ring k) ∧
    ((s.ring r).head ≠ (s.ring r).tail → ∀ (i : Instr) (h : Hdr) (op : Op), packetRow i = some (h, op) →
      packetOf r (memReadList s.mem ((if (s.ring r).core then fwKey else hostKey) ((s.ring r).base.toNat + 64 * ((s.ring r).head.toNat % 2 ^ (s.ring r).log2sz))) 64) = (h, op) →
      exec (.packetAdmit r false) s = exec i s) ∧
    ((s.ring r).head ≠ (s.ring r).tail → ∀ (h : Hdr) (op : Op),
      packetOf r (memReadList s.mem ((if (s.ring r).core then fwKey else hostKey) ((s.ring r).base.toNat + 64 * ((s.ring r).head.toNat % 2 ^ (s.ring r).log2sz))) 64) = (h, op) →
      h.ring = r ∧ exec (.packetAdmit r false) s = .next ((s.packet h op).served) ∧
      (op = .nop → s.runs h op = true → Answers (.packetAdmit r false) s fun t => Replied h 0x0100 s t .committed false stOk 0 ∧ ∀ x, Kept h s t x)))

/-- Writes of registers. Writes of mode, tick, error, lending and link registers take effect, are ignored, or are recorded as
configuration errors, in the cases that the clauses name. -/
def Obligations.RegisterWrites : Prop := ∀ (s : State) (path : Path) (v : W32),
  (s.canReach path .modeCtl = true →
    (s.mode.lock = true → Changes (.modeCtlWrite path v) s [.cfgErr, .banks] fun t => CfgRecorded s t .locked path .modeCtl) ∧
    (s.mode.lock = false → (v.extractLsb' 8 2 = 3 ∨ v.extractLsb' 4 2 = 3 ∨ v.extractLsb' 0 2 = 3) → Changes (.modeCtlWrite path v) s [.cfgErr, .banks] fun t =>
      CfgRecorded s t .encoding path .modeCtl) ∧
    (s.mode.lock = false → v.extractLsb' 8 2 ≠ 3 → v.extractLsb' 4 2 ≠ 3 → v.extractLsb' 0 2 ≠ 3 → Changes (.modeCtlWrite path v) s [.mode] fun t =>
      t.mode = { s.mode with lock := v.getLsbD 31, role := ⟨v.toNat / 2 ^ 12 % 4, by omega⟩, guardF := ⟨v.toNat / 2 ^ 8 % 4, by omega⟩,
                             check := ⟨v.toNat / 2 ^ 4 % 4, by omega⟩, checkNow := ⟨v.toNat / 2 ^ 4 % 4, by omega⟩, power := ⟨v.toNat % 4, by omega⟩ })) ∧
  (s.canReach path .tickAt = true → s.tick.lock = false →
    ((v - s.tick32).toNat < 16 ∨ 2 ^ 31 ≤ (v - s.tick32).toNat → Changes (.tickAtWrite path v) s [.cfgErr, .banks] fun t => CfgRecorded s t .state path .tickAt) ∧
    (16 ≤ (v - s.tick32).toNat → (v - s.tick32).toNat < 2 ^ 31 → s.tick.state ≠ .master → Changes (.tickAtWrite path v) s [.tick] fun t => t.tick = { s.tick with tickAt := v }) ∧
    (16 ≤ (v - s.tick32).toNat → (v - s.tick32).toNat < 2 ^ 31 → s.tick.state = .master → Changes (.tickAtWrite path v) s [.tick, .fab] fun t =>
      t.tick = { s.tick with tickAt := v, change := some { at_ := v, tcal := s.tick.tcalNext, len1 := s.tick.collLen1, start1 := s.tick.collStart1,
                                                           len0 := s.tick.collLen0, start0 := s.tick.collStart0 } })) ∧
  (s.canReach path .tickAt = true → s.tick.lock = true → Changes (.tickAtWrite path v) s [.cfgErr, .banks] fun t => CfgRecorded s t .locked path .tickAt) ∧
  (s.canReach path .errNanRec0 = true →
    (v.getLsbD 31 = true → Changes (.nanRecordClear path v) s [.ctxs] fun t => t.ctx (s.selCtx path .errNanSel) = { s.ctx (s.selCtx path .errNanSel) with nan := {} } ∧
      ∀ k, k ≠ s.selCtx path .errNanSel → t.ctx k = s.ctx k) ∧
    (v.getLsbD 31 = false → Answers (.nanRecordClear path v) s fun t => t = s)) ∧
  (s.canReach path .errCfg = true → Changes (.configErrorClear path v) s [.cfgErr] fun t =>
    t.cfgErr = if v.getLsbD 31 then { s.cfgErr with valid := false, more := false } else s.cfgErr) ∧
  (s.canReach path .glbMemLend = true → s.memUnit.lendLock = true → Changes (.lendPoolWrite path v) s [.cfgErr, .banks] fun t => CfgRecorded s t .locked path .glbMemLend) ∧
  (s.canReach path .glbMemLend = true → s.memUnit.lendLock = false → Changes (.lendPoolWrite path v) s [.memUnit, .fab] fun t =>
    t.memUnit = { s.memUnit with lendLock := v.getLsbD 31, lendPages := v.toNat % 2 ^ 20 } ∧ (s.lentFrames ≤ v.toNat % 2 ^ 20 → t.fab = s.fab)) ∧
  (s.canReach path .fabLinkCtl = true → s.fab.ctlLock = false → Answers (.fabLinkDisable path v) s fun t =>
    t.fab.disable = v.extractLsb' 0 14 ∧ t.fab.ctlLock = v.getLsbD 31 ∧ ∀ l : LinkId, (v.getLsbD l.val = true → (t.link l).state = .disabled) ∧
      (v.getLsbD l.val = false → (t.link l).state = if (s.link l).state = .disabled then .down else (s.link l).state)) ∧
  (s.canReach path .fabLinkCtl = true → s.fab.ctlLock = true → Changes (.fabLinkDisable path v) s [.cfgErr, .banks] fun t => CfgRecorded s t .locked path .fabLinkCtl)

/-- Reads that clear, selectors and read-only registers. A read of TICK_TIME_LO latches the high half in its own bank, a read of an
RC field clears it in its own bank only, selectors are banked, and writes of read-only and unassigned offsets change nothing. -/
def Obligations.RegisterAccesses : Prop := ∀ (s : State) (path : Path),
  (s.canReach path .tickTimeLo = true → Changes (.tickTimeRead path) s [.banks] fun t => t.bank path = { s.bank path with latch := BitVec.ofNat 32 (s.tick.time.toNat / 2 ^ 32) } ∧
    (∀ q, q ≠ path → t.bank q = s.bank q) ∧ t.regValue path .tickTimeHi = s.tick.time.toNat / 2 ^ 32 % 2 ^ 32) ∧
  (∀ (off : BitVec 24) (r : Reg) (d : RegDom) (k : Nat), regAt off.toNat = some (r, d) → s.canReach path r = true → r ≠ .tickTimeLo → s.rcKey path r = some k → r.off = off.toNat →
    Changes (.rcFieldRead path off) s [.banks] fun t => t.rcValue path r = 0 ∧ (∀ q, q ≠ path → t.bank q = s.bank q) ∧
      ∀ o j, (o, j) ≠ (r.off, k) → (t.bank path).count o j = (s.bank path).count o j) ∧
  (∀ (off : BitVec 24) (v : W32),
    (regAt off.toNat = none → (Answers (.registerWrite path off v) s fun t => t = s) ∧ Answers (.rcFieldRead path off) s fun t => t = s) ∧
    (∀ (r : Reg) (d : RegDom), regAt off.toNat = some (r, d) → s.reaches path off.toNat d = false →
      (Answers (.registerWrite path off v) s fun t => t = s) ∧ Answers (.rcFieldRead path off) s fun t => t = s)) ∧
  (∀ (r : Reg) (v : W32), s.canReach path r = true →
    (r ∈ [Reg.glbTmuSel, .glbCtxSel, .glbGscSel, .glbJobSel, .glbSteSel, .mirSel, .errNanSel, .cmdqSel] → Changes (.registerWrite path (BitVec.ofNat 24 r.off) v) s [.banks] fun t =>
      t.sel path r = v.toNat % 64 ∧ ∀ q, q ≠ path → t.bank q = s.bank q) ∧
    (r ∈ [Reg.glbId, .glbBootStat, .glbBootTime, .glbIncarn, .modeStat, .otpStat, .cmdqStat, .cmdqHead, .cmdqTail, .cmdqCplTail, .tickNow, .tickStat, .fabIdent, .fabLinkStat,
          .glbMemCap, .glbCtxStat, .glbDmaStat, .glbDmaBytes, .vltStat, .mirStat, .mirSeal, .errNanRec1, .errMemStat, .errHangLast, .errEvtProd, .snsPwr, .snsVal, .glbPcieStat] →
      Answers (.registerWrite path (BitVec.ofNat 24 r.off) v) s fun t => t = s) ∧
    (r = .glbGscShare → s.selCtx path .glbGscSel ≠ 0 → 1 ≤ v.toNat % 32 → v.toNat % 32 ≤ 16 → Changes (.registerWrite path (BitVec.ofNat 24 r.off) v) s [.ctxs] fun t =>
      (t.ctx (s.selCtx path .glbGscSel)).share = v.toNat % 32 ∧ ∀ k, k ≠ s.selCtx path .glbGscSel → t.ctx k = s.ctx k) ∧
    (r = .tickColl → s.tick.lock = false → (let (s0, l0, s1, l1) := (v.toNat / 2 ^ 8 % 16, v.toNat / 2 ^ 12 % 32, v.toNat / 2 ^ 17 % 16, v.toNat / 2 ^ 21 % 32)
      (s0 + l0 ≤ 16 ∧ s1 + l1 ≤ 16 ∧ (l0 = 0 ∨ l1 = 0 ∨ s0 + l0 ≤ s1 ∨ s1 + l1 ≤ s0) → Changes (.registerWrite path (BitVec.ofNat 24 r.off) v) s [.tick] fun t =>
        t.tick = { s.tick with collStart0 := s0, collLen0 := l0, collStart1 := s1, collLen1 := l1 }) ∧
      (16 < s0 + l0 ∨ 16 < s1 + l1 → Changes (.registerWrite path (BitVec.ofNat 24 r.off) v) s [.cfgErr, .banks] fun t => CfgRecorded s t .encoding path .tickColl))) ∧
    (r = .glbPvStep → (path = .host → Changes (.registerWrite path (BitVec.ofNat 24 r.off) v) s [.cfgErr, .banks] fun t => CfgRecorded s t .path path .glbPvStep) ∧
      (path ≠ .host → Changes (.registerWrite path (BitVec.ofNat 24 r.off) v) s [.pvs] fun t =>
        t.pv (s.selCtx path .glbJobSel) = { s.pv (s.selCtx path .glbJobSel) with step := v } ∧ ∀ k, k ≠ s.selCtx path .glbJobSel → t.pv k = s.pv k)) ∧
    (r = .errEvtCons → Changes (.registerWrite path (BitVec.ofNat 24 r.off) v) s [.ras] fun t => t.ras = { s.ras with evtCons := v }))

/-- Page faults and migrations. A fault that is resolved lets its access go on, one that is not within 128 ticks ends its command,
and pages move between tiers in the cases that the clauses name. -/
def Obligations.FaultsAndMigrations : Prop := ∀ s : State, NoneReady s →
  (∀ id : W32, s.faultsOf id = [] → (Answers (.faultResolved id) s fun t => t = s) ∧ Answers (.faultTimeout id) s fun t => t = s) ∧
  (∀ (id : W32) (f : PFault), s.faultsOf id = [f] → f.cause.silent = true → (s.pageAt? f.ctx f.va = none ∨ ∃ p u, s.pageAt? f.ctx f.va = some p ∧ s.resolvePage p = some u) →
    (f.src = .ste → (s.prog (Fin.ofNat 64 f.unit) (Fin.ofNat 16 f.prog)).cid = f.cid → (s.prog (Fin.ofNat 64 f.unit) (Fin.ofNat 16 f.prog)).wait = .faulted →
      Answers (.faultResolved id) s fun t => t.faultsOf id = [] ∧
        (t.prog (Fin.ofNat 64 f.unit) (Fin.ofNat 16 f.prog)).wait = (s.prog (Fin.ofNat 64 f.unit) (Fin.ofNat 16 f.prog)).held ∧
        (t.prog (Fin.ofNat 64 f.unit) (Fin.ofNat 16 f.prog)).bufs = (s.prog (Fin.ofNat 64 f.unit) (Fin.ofNat 16 f.prog)).bufs) ∧
    (f.src = .bdm → (s.chan (Fin.ofNat 32 f.unit)).cid = f.cid → (s.chan (Fin.ofNat 32 f.unit)).state = .faulted → Answers (.faultResolved id) s fun t => t.faultsOf id = [] ∧
      (t.chan (Fin.ofNat 32 f.unit)).state = .active ∧ (t.chan (Fin.ofNat 32 f.unit)).cursor = none ∧ (t.chan (Fin.ofNat 32 f.unit)).flight = (s.chan (Fin.ofNat 32 f.unit)).flight)) ∧
  (∀ (id : W32) (f : PFault), s.faultsOf id = [f] → f.cause.silent = false → Answers (.faultResolved id) s fun t => t = s) ∧
  (∀ (id : W32) (f : PFault), s.faultsOf id = [f] → s.tick.now < f.tick + 128 → Answers (.faultTimeout id) s fun t => t = s) ∧
  (∀ (id : W32) (f : PFault) (c : Cmd), s.faultsOf id = [f] → f.tick + 128 ≤ s.tick.now → (s.ctx f.ctx).inWeights f.va = false → f.cid = c.cid → StandsAlone s c → c.fixed = false →
    f.src = .ste → Answers (.faultTimeout id) s fun t => EndedAlone s t c .killed stFaultUnresolved ∧ t.faultsOf id = [] ∧
      ∃ x : W64, DetailOf t c.ring x ∧ x.extractLsb' 58 6 = BitVec.ofNat 6 f.unit ∧ x.extractLsb' 54 4 = BitVec.ofNat 4 f.prog ∧ x.getLsbD 53 = f.write ∧
        x.extractLsb' 49 4 = 5 ∧ x.extractLsb' 0 36 = BitVec.ofNat 36 (f.va / 2 ^ 16)) ∧
  (∀ (c : CtxId) (va : BitVec 52) (p : Page), s.pageAt? c va.toNat = some p → s.mayMove p = true →
    (∀ w : Fin 9, p.tier = .t2 → s.effHint p = .preferT3 → (∀ q ∈ s.blockOf p, q.named + 1024 ≤ s.tick.now) → s.roomIn p .t3 = some w → Changes (.idleDemotion c va) s [.memUnit] fun t =>
      t.memUnit = { s.memUnit with
        pages := s.memUnit.pages.map fun q => if p.sameBlock q then { q with migrating := true, dest := some (.t3, w) } else q, peerRoom := t.memUnit.peerRoom } ∧
      (∀ v, v ≠ w → t.memUnit.peerRoom[v] = s.memUnit.peerRoom[v]) ∧
      t.memUnit.peerRoom[w] = if (s.blockOf p).any (!·.zero) then s.memUnit.peerRoom[w] - p.frames else s.memUnit.peerRoom[w]) ∧
    (p.tier ≠ .t2 → s.effHint p = .preferT2 → s.roomT2 c (s.moveUnits p false) = true → Changes (.backgroundPromotion c va) s [.memUnit] fun t =>
      t.memUnit = { s.memUnit with pages := s.memUnit.pages.map fun q => if p.sameBlock q then { q with migrating := true, dest := some (.t2, 0) } else q }) ∧
    (p.tier = (s.effHint p).tier → (Answers (.idleDemotion c va) s fun t => t = s))) ∧
  (∀ (c : CtxId) (va : BitVec 52), (∀ p, s.pageAt? c va.toNat = some p → s.mayMove p = false) →
    (Answers (.idleDemotion c va) s fun t => t = s) ∧ Answers (.backgroundPromotion c va) s fun t => t = s) ∧
  (∀ (c : CtxId) (va : BitVec 52) (p : Page), s.pageAt? c va.toNat = some p →
    (p.migrating = false → Answers (.pageMigrationDone c va) s fun t => t = s) ∧
    (p.migrating = true → Answers (.pageMigrationDone c va) s fun t =>
      (∀ q ∈ t.memUnit.pages, p.sameBlock q = true → q.migrating = false ∧ ∀ d, p.dest = some d → q.tier = d.1 ∧ q.peer = d.2 ∧ q.dest = none) ∧
      (∀ q ∈ s.memUnit.pages, p.sameBlock q = false → ∃ r ∈ t.memUnit.pages, r = { q with hint := r.hint, nextHint := r.nextHint }) ∧
      ∀ f ∈ t.memUnit.faults, f.ctx = c → f.cause = .migrating → if p.size = .k64 then f.va / 2 ^ 21 ≠ p.va / 2 ^ 21 else f.va < p.va ∨ p.va + p.size.bytes ≤ f.va))

/-- Errors of HBM. Corrected and uncorrected errors count, retire rows and poison pages, channel copies end and frames are scrubbed
in the cases that the clauses name. -/
def Obligations.HbmEvents : Prop := ∀ (s : State) (k : StackId) (ch : Fin 32), NoneReady s →
  (∀ found, (s.memUnit.hbm[k]).out = true ∨ found = [] → Answers (.eccPatrol k found) s fun t => t = s) ∧
  (∀ row : Nat, (s.memUnit.hbm[k]).out = false → (s.within dayUs ((s.memUnit.hbm[k]).rowRec ch row).ces).length < 4 →
    (((s.memUnit.hbm[k]).hourCe.filter fun e => decide (s.nowUs < e.2 + hourUs)).filter fun e => decide (e.1 = ch)).length < 1000 →
    ((s.memUnit.hbm[k]).rows.filter fun r => decide (r.channel = ch) && r.failed).length ≤ 64 → ((s.memUnit.hbm[k]).rowRec ch row).failed = false →
    Changes (.eccPatrol k [.ce ch row]) s [.memUnit, .banks] fun t =>
      ((t.memUnit.hbm[k]).rowRec ch row).ces = s.within dayUs ((s.memUnit.hbm[k]).rowRec ch row).ces ∧ ((t.memUnit.hbm[k]).rowRec ch row).failed = false ∧
      (t.memUnit.hbm[k]).hourCe = (ch, s.nowUs) :: (s.memUnit.hbm[k]).hourCe.filter (fun e => decide (s.nowUs < e.2 + hourUs)) ∧ t.memUnit.pages = s.memUnit.pages ∧
      (∃ x, t.memUnit.seen = x :: s.memUnit.seen ∧ x.stack = k ∧ x.channel = ch ∧ x.row = row ∧ x.ctx = none ∧ x.ue = false) ∧
      t.memUnit.retiredFrames = s.memUnit.retiredFrames ∧ ∀ j, j ≠ k → t.memUnit.hbm[j] = s.memUnit.hbm[j]) ∧
  (∀ row : Nat, (s.memUnit.hbm[k]).out = false → ((s.memUnit.hbm[k]).rowRec ch row).failed = false → (s.memUnit.hbm[k]).reserve ≠ 0 →
    Answers (.eccPatrol k [.ue ch row]) s fun t => ((t.memUnit.hbm[k]).rowRec ch row).failed = true ∧
      (∀ n ∈ (Config.rowFrames k.val ch.val row).take 4, 24 * n + k.val ∈ t.memUnit.retiredFrames) ∧
      ((Config.rowFrames k.val ch.val row = [] ∧ t.memUnit.pages = s.memUnit.pages) ∨ ∃ n ∈ (Config.rowFrames k.val ch.val row).take 4,
        (∀ p ∈ s.memUnit.pages, p.holds (24 * n + k.val) = true → ∃ q ∈ t.memUnit.pages, q.ctx = p.ctx ∧ q.va = p.va ∧ q.poison = true) ∧
        ∀ q ∈ t.memUnit.pages, ∃ p ∈ s.memUnit.pages, q.ctx = p.ctx ∧ q.va = p.va ∧ (q.poison = true → p.poison = true ∨ p.holds (24 * n + k.val) = true))) ∧
  ((s.memUnit.hbm[k]).copying.contains ch = false → ∀ l, Answers (.channelCopyDone k ch l) s fun t => t = s) ∧
  ((s.memUnit.hbm[k]).copying.contains ch = true → (s.memUnit.hbm[k]).out = false → Changes (.channelCopyDone k ch []) s [.memUnit] fun t =>
    (t.memUnit.hbm[k]).copying.contains ch = false ∧ (∀ r ∈ (t.memUnit.hbm[k]).rows, r.channel ≠ ch) ∧ t.memUnit.pages = s.memUnit.pages ∧
    (∀ f, f ∈ t.memUnit.retiredFrames ↔ f ∈ s.memUnit.retiredFrames ∧
      ((∀ r ∈ (s.memUnit.hbm[k]).rows, r.channel = ch → r.failed = true → f ∉ r.frames) ∨ ∃ r ∈ (s.memUnit.hbm[k]).rows, r.channel ≠ ch ∧ r.failed = true ∧ f ∈ r.frames))) ∧
  (Changes .frameScrub s [.memUnit] fun t => t.memUnit = { s.memUnit with scrub := s.memUnit.scrub - 1 })

/-- Grants of DMA bursts. Token buckets of rate-capped channels fill to 65,536 bytes at four bytes a nanosecond for each unit of
RATE_CAP, a burst is granted only from a bucket that holds its bytes, and the grant removes them, the channel staying ACTIVE
while it waits. A mover's slot goes, once in sixteen grants, to the eligible channel that has waited longest, else to the lowest
PRI, round robin. (R173) -/
def Obligations.DmaArbitration : Prop := ∀ (s : State) (mover : Fin 4) (credits : BitVec 32) (elapsed : Nat),
  (∀ k : ChanId, ((s.fillTokens elapsed).chan k).tokens = if (s.chan k).rateCap = 0 then (s.chan k).tokens else min 65536 ((s.chan k).tokens + (s.chan k).rateCap * 4 * elapsed)) ∧
  (∀ k : ChanId, ((s.fillTokens elapsed).chan k).state = (s.chan k).state) ∧
  (∀ k : ChanId, s.eligible credits k = true → (s.chan k).state = .active ∧ (s.chan k).flight.length < 16 ∧ credits.getLsbD k.val = true ∧
    ∃ b, s.nextBurst (s.chan k) (s.chanDescs k) = some b ∧ ((s.chan k).rateCap = 0 ∨ b.len ≤ (s.chan k).tokens)) ∧
  ((∀ k, (s.fillTokens elapsed).eligible credits k = false) → Answers (.dmaBurstGrant mover credits elapsed) s fun t => t = s.fillTokens elapsed) ∧
  (∀ k, (s.fillTokens elapsed).eligible credits k = true → Changes (.dmaBurstGrant mover credits elapsed) s [.dma, .sched, .serve, .banks] fun t =>
    ∃ j b, (s.fillTokens elapsed).eligible credits j = true ∧ (s.fillTokens elapsed).nextBurst ((s.fillTokens elapsed).chan j) (s.chanDescs j) = some b ∧
      (t.chan j).flight = (s.chan j).flight ++ [{ b with mover }] ∧ b.len ≤ 4096 ∧ b.len ≠ 0 ∧
      (s.dma.grants[mover] % 16 = 15 → ∀ i, (s.fillTokens elapsed).eligible credits i = true → (s.chan j).lastGrant ≤ (s.chan i).lastGrant ∧
        ((s.chan j).lastGrant = (s.chan i).lastGrant → j ≤ i)) ∧
      (s.dma.grants[mover] % 16 ≠ 15 → ∀ i, (s.fillTokens elapsed).eligible credits i = true → (s.chan j).pri ≤ (s.chan i).pri ∧
        ((s.chan j).pri = (s.chan i).pri → s.dma.lastAt[(s.chan j).pri] < i.val → s.dma.lastAt[(s.chan j).pri] < j.val ∧ j ≤ i) ∧
        ((s.chan j).pri = (s.chan i).pri → j.val ≤ s.dma.lastAt[(s.chan j).pri] → j ≤ i)) ∧
      ((s.chan j).rateCap ≠ 0 → (t.chan j).tokens = ((s.fillTokens elapsed).chan j).tokens - b.len) ∧
      t.dma.grants[mover] = s.dma.grants[mover] + 1 ∧ (∀ m, m ≠ mover → t.dma.grants[m] = s.dma.grants[m]) ∧
      (∀ i, i ≠ j → (t.chan i).flight = (s.chan i).flight ∧ (t.chan i).state = (s.chan i).state))

/-- The calends tick. At a tick the count rises by one, module time follows it, mode fields take effect, a change of the tick's
settings comes in at its tick, links expect their heartbeat, debts are repaid and past placements are forgotten. -/
def Obligations.TickEdge : Prop := ∀ s : State,
  (s.mainUp = false → s.inVigil = false → Answers .tick s fun t => t = s) ∧
  (s.mainUp = true → s.sched.cmds = [] → s.serve.reqs = [] → (∀ c, s.tick.change = some c → c.at_ ≠ BitVec.ofNat 32 (s.tick.now + 1)) →
    Changes .tick s (.mode :: .power :: .tick :: .ctxs :: .sched :: .memUnit :: .boot :: .fab :: telling) fun t =>
      t.tick.now = s.tick.now + 1 ∧ t.tick.time = BitVec.ofNat 64 (s.tick.baseT + (s.tick.now + 1 - s.tick.baseN) * s.tick.tcal * 400000) ∧
      t.tick.window = false ∧ t.tick.winNo = 0 ∧ t.tick.change = s.tick.change ∧
      t.mode.roleNow = s.mode.role ∧ t.mode.powerNow = s.mode.power ∧ t.mode.role = s.mode.role ∧ t.mode.lock = s.mode.lock ∧
      (t.power.changing = (s.power.changing || s.mode.power != s.mode.powerNow)) ∧
      (∀ l : LinkId, (t.link l).state = (s.link l).state ∧ (t.link l).awaiting = if (s.link l).state = .up then some (BitVec.ofNat 32 (s.tick.now + 1)) else (s.link l).awaiting) ∧
      t.fab.deadSent = [] ∧ (∀ p, p ∈ t.sched.plan ↔ p ∈ s.sched.plan ∧ s.tick.now + 1 ≤ p.tick) ∧
      (∀ (x : CtxId) (k : PrioClass), (t.ctx x).debt[k] = (s.ctx x).debt[k] - (s.ctx x).share) ∧
      (∀ x : CtxId, (t.ctx x).quar = if 1 < (s.ctx x).quar then (s.ctx x).quar - 1 else (s.ctx x).quar)) ∧
  (s.inVigil = true → s.mainUp = false → (∀ c, s.tick.change = some c → c.at_ ≠ BitVec.ofNat 32 (s.tick.now + 1)) → Answers .tick s fun t =>
    t.tick.now = s.tick.now + 1 ∧ t.sched = s.sched ∧ (s.framesFit s.allLeaving = true → t.mem = s.mem)) ∧
  (∀ c : TickChange, s.mainUp = true → s.sched.cmds = [] → s.serve.reqs = [] → s.tick.change = some c → c.at_ = BitVec.ofNat 32 (s.tick.now + 1) → Answers .tick s fun t =>
    t.tick.tcal = c.tcal ∧ t.tick.len0 = c.len0 ∧ t.tick.start0 = c.start0 ∧ t.tick.len1 = c.len1 ∧ t.tick.start1 = c.start1 ∧ t.tick.change = none ∧
    (c.tcal ≠ s.tick.tcal → t.tick.baseN = s.tick.now + 1 ∧ t.tick.baseT = s.tick.baseT + (s.tick.now + 1 - s.tick.baseN) * s.tick.tcal * 400000))

/-- Clock steps and sensors. The clock falls and rises with power against the limit and with the thermal state, and sensors change
state at their limits, with refresh, throttling and the thermal shutdown that follow. -/
def Obligations.ClockAndSensors : Prop := ∀ s : State,
  (s.power.changing = false → Answers .clockChangeDone s fun t => t = s) ∧
  (s.power.changing = true → Changes .clockChangeDone s [.power, .mode, .slices] fun t => t.power.changing = false ∧
    t.power.mhz = (if s.mode.capped then min s.power.mhz (modeMhz s.mode.powerNow.val) else modeMhz s.mode.powerNow.val) ∧
    t.mode = { s.mode with capped := decide (t.power.mhz < modeMhz s.mode.powerNow.val) }) ∧
  (∀ (w : W16) (settled : Bool), s.boot.run ≠ .running → Answers (.clockStep w settled) s fun t => t = s) ∧
  (∀ (w : W16) (settled : Bool), s.boot.run = .running → Changes (.clockStep w settled) s [.power, .mode] fun t =>
    (s.powerLimit < w.toNat ∨ s.thermal = true → t.power.mhz = max 1000 (s.power.mhz - 50)) ∧
    (w.toNat ≤ s.powerLimit → s.powerLimit ≤ w.toNat + 50 → s.thermal = false → t.power.mhz = s.power.mhz) ∧
    (w.toNat + 50 < s.powerLimit → settled = true → s.thermal = false →
      t.power.mhz = min (modeMhz s.mode.powerNow.val) (s.power.mhz + 50)) ∧
    (t.power.mhz ≠ s.power.mhz → t.mode.capped = decide (t.power.mhz < modeMhz s.mode.powerNow.val)) ∧
    t.power.avg = Config.freeNat s.free % 2 ^ 16 ∧ t.power.sensors = s.power.sensors) ∧
  (∀ (code : W16) (v : W32), (s.power.sensors.any fun x => x.1 == code.toNat) = false → Answers (.sensorThreshold code v) s fun t => t = s) ∧
  (∀ (k : StackId) (v : W32) (old : W32), s.power.sensors.find? (fun x => x.1 == 0x20 + k.val) = some (0x20 + k.val, old, .ok) →
    (v.toInt ≤ 850 → Answers (.sensorThreshold (BitVec.ofNat 16 (0x20 + k.val)) v) s fun t => t.sensor (0x20 + k.val) = (v, .ok) ∧ t.power.refresh2.getLsbD k.val = false) ∧
    (850 < v.toInt → v.toInt ≤ 900 → Answers (.sensorThreshold (BitVec.ofNat 16 (0x20 + k.val)) v) s fun t => t.sensor (0x20 + k.val) = (v, .warn) ∧ t.boot = s.boot ∧
      t.power.refresh2.getLsbD k.val = false ∧ t.mgt.events.length = s.mgt.events.length + 1) ∧
    (900 < v.toInt → v.toInt ≤ 1000 → Answers (.sensorThreshold (BitVec.ofNat 16 (0x20 + k.val)) v) s fun t => t.sensor (0x20 + k.val) = (v, .throttle) ∧ t.boot = s.boot ∧
      t.power.refresh2.getLsbD k.val = true ∧ t.thermal = true) ∧
    (1000 < v.toInt → s.boot.run = .running → s.mgt.hardReset = false → s.mgt.jtagHold = false → Answers (.sensorThreshold (BitVec.ofNat 16 (0x20 + k.val)) v) s fun t =>
      t.power.thermN = true ∧ t.power.mainOn = false ∧ t.boot.run = .starting .power ∧ t.ras.capturing = [] ∧ t.ras.devArchive = s.ras.devArchive)) ∧
  (∀ (v old : W32), s.power.sensors.find? (fun x => x.1 == 0x38) = some (0x38, old, .throttle) →
    (720 < v.toInt → v.toInt ≤ 850 → Answers (.sensorThreshold 0x38 v) s fun t => t.vaultHot = true) ∧
    (v.toInt ≤ 670 → Answers (.sensorThreshold 0x38 v) s fun t => t.sensor 0x38 = (v, .ok)))

/-- Phases of a start. Each phase of a start leads to the next, fails with its reason or ends in vigil; timeouts and retries go in
the cases that the clauses name. -/
def Obligations.StartPhases : Prop := ∀ (s : State) (r : PhaseEnd),
  (∀ p n, (p, n) ∈ [(StartPhase.power, StartPhase.root), (.archive, .bist)] → s.boot.run = .starting p → r.ok = true → r.ledgerOk = true →
    Answers (.startPhaseEnd r) s fun t => t.boot.run = .starting n ∧ t.boot.bootMs = BitVec.ofNat 32 r.ms ∧ t.boot.fails = s.boot.fails ∧ t.boot.incarn = s.boot.incarn) ∧
  (∀ p rsn, (p, rsn) ∈ [(StartPhase.power, rsnRail), (.firmware, rsnFwSig), (.mainPower, rsnRail), (.bist, rsnBist), (.vault, rsnVault)] → s.boot.run = .starting p → r.ok = false →
    Answers (.startPhaseEnd r) s fun t => (t.boot.run = .waiting ∨ t.boot.run = .vigil) ∧ t.boot.reason = rsn ∧ (t.boot.fails.head?).map (·.2) = some rsn ∧
      (t.boot.run = .vigil → 3 ≤ t.boot.recentFails ∧ t.boot.vigilState = some rsn)) ∧
  (∀ rsn, s.boot.run = .starting .root → s.boot.vigilState = some rsn → Answers (.startPhaseEnd r) s fun t => t.boot.run = .vigil ∧ t.boot.reason = rsn ∧ t.boot.fails = s.boot.fails) ∧
  (s.boot.run = .starting .mainPower → r.ok = true → Answers (.startPhaseEnd r) s fun t => t.boot.run = .starting .almanac ∧ t.power.mainOn = true ∧ t.mem = s.mem) ∧
  (s.boot.run = .starting .sliceMap → 64 ≤ ((List.finRange 72).filter s.slotGood).length → Answers (.startPhaseEnd r) s fun t => t.boot.run = .starting .vault ∧
    (t.ctx 0).state = .active ∧ (t.ctx 0).gen = 1 ∧ (∀ o : Fin 8, ∀ j : Fin 8, ∀ p, (s.homeSlots o.val)[j.val]? = some p →
      t.slotOfEng ⟨8 * o.val + j.val, by omega⟩ = p) ∧ ∀ p : SlotId, (t.ras.slots[p]).healthy = s.slotGood p) ∧
  (s.boot.run = .starting .sliceMap → ((List.finRange 72).filter s.slotGood).length < 64 → Answers (.startPhaseEnd r) s fun t => t.boot.reason = rsnSlice) ∧
  (s.boot.run = .starting .links → s.linksSettled = true → Answers (.startPhaseEnd r) s fun t => t.boot.run = .running ∧
    t.boot.hb = hbAtDone s.fab.ident ∧ t.power.mhz = modeMhz s.mode.powerNow.val ∧ (t.ring mgtRing).state = .running ∧ t.boot.fails = s.boot.fails) ∧
  (s.boot.run = .running → Answers (.startPhaseEnd r) s fun t => t = s) ∧
  (∀ p, s.boot.run = .starting p → Answers .startTimeout s fun t => t.boot.reason = rsnTimeout ∧ (t.boot.run = .waiting ∨ t.boot.run = .vigil)) ∧
  (s.boot.run = .running → Answers .startTimeout s fun t => t = s) ∧
  (s.boot.run = .waiting → s.mgt.hardReset = false → s.mgt.jtagHold = false → Changes .startRetry s [.boot] fun t =>
    t.boot.run = .starting .power ∧ t.boot.incarn = s.boot.incarn + 1 ∧ t.boot.seconds = s.boot.seconds + 10 ∧ t.boot.fails = s.boot.fails) ∧
  (s.boot.run ≠ .waiting → Answers .startRetry s fun t => t = s)

/-- Power, resets and vigil. Input power, hard reset, the capture before a device reset and the vigil register lead to the states of
the manual and keep what is non-volatile. -/
def Obligations.PowerAndResets : Prop := ∀ s : State,
  (s.boot.run = .off → s.mgt.hardReset = false → s.mgt.jtagHold = false → Changes .powerInputUp s [.power, .boot] fun t =>
    t.boot.run = .starting .power ∧ t.boot.incarn = s.boot.incarn + 1 ∧ t.power.inputOn = true) ∧
  (s.boot.run ≠ .off → Answers .powerInputUp s fun t => t = s) ∧
  (∀ i ∈ [Instr.powerInputStop, .overvoltage, .presentNBreak], s.boot.run ≠ .off → Answers i s fun t =>
    t.boot.run = .off ∧ t.power.inputOn = false ∧ t.sched.cmds = [] ∧ (∀ c, (t.ctx c).state = .free) ∧ t.vault.images = s.vault.images ∧ t.vault.keels = s.vault.keels ∧
    t.vault.keys = s.vault.keys ∧ t.boot.otp = s.boot.otp ∧ t.boot.fails = s.boot.fails ∧ t.boot.vigilState = s.boot.vigilState ∧ t.ras.ledger = s.ras.ledger ∧
    t.ras.devArchive = s.ras.devArchive ∧ (i = .presentNBreak → t.power.presentN = false) ∧ t.mem = hostCells s.mem) ∧
  (∀ i ∈ [Instr.powerInputStop, .overvoltage], s.boot.run = .off → Answers i s fun t => t = s) ∧
  (s.boot.run = .held → s.mgt.jtagHold = false → Answers .hardResetRelease s fun t => t.boot.run = .starting .power ∧ t.mgt.hardReset = false) ∧
  (s.boot.run = .waiting → Answers .hardResetN s fun t => t.boot.run = .held ∧ t.mgt.hardReset = true) ∧
  (s.boot.run = .running → s.ras.resetting = false → Answers .hardResetN s fun t =>
    t.ras.resetting = true ∧ ∃ c, c ∈ t.ras.capturing ∧ c.resets = true ∧ c.trigger = trigExternal) ∧
  (∀ us : W32, ∀ c l, s.ras.capturing = c :: l → c.resets = true → s.boot.vigilPending = false → s.mgt.hardReset = false → s.mgt.jtagHold = false → l = [] →
    Answers (.emberCaptureDone us) s fun t => t.boot.run = .starting .power ∧ t.sched.cmds = [] ∧ t.vault.images = s.vault.images ∧ t.boot.otp = s.boot.otp) ∧
  (s.inVigil = true → s.mgt.hardReset = false → s.mgt.jtagHold = false → s.boot.run ≠ .off → Answers (.vigilCtlRelease .mgt) s fun t =>
    t.boot.run = .starting .power ∧ t.boot.fails = [] ∧ t.boot.vigilState = none) ∧
  (∀ p, s.boot.run = .starting p → Answers (.vigilCtlRequest .mgt) s fun t => t.boot.run = .vigil ∧ t.boot.vigilState = some rsnManual ∧ t.boot.fails = s.boot.fails) ∧
  (s.boot.run ≠ .off → ∀ q, q = true ∨ q = false → Changes (if q then .vigilCtlRequest .host else .vigilCtlRelease .host) s [.cfgErr, .banks] fun t => t.cfgErr.valid = true)

/-- States and lanes of links. Links train, authenticate, align and come up, lose, swap and retire lanes, and reconfigure in the
cases that the clauses name; only the link named changes. -/
def Obligations.LinkStates : Prop := ∀ (s : State) (l : LinkId),
  (∀ i ∈ [Instr.linkSignalFound l, .linkRetrainRetry l],
    ((s.link l).state ≠ .down ∨ s.linkUsed l = false → Answers i s fun t => t = s) ∧
    ((s.link l).state = .down → s.linkUsed l = true → Changes i s [.fab] fun t => OnlyLink s t l { s.link l with state := .train })) ∧
  (∀ ok : BitVec 18,
    ((s.link l).state ≠ .train → Answers (.linkTrainDone l ok) s fun t => t = s) ∧
    ((s.link l).state = .train → s.inVigil = false →
      (16 ≤ goodLanes ok → Changes (.linkTrainDone l ok) s [.fab] fun t => OnlyLink s t l { s.link l with state := .auth, lanes := 16, laneOk := ok }) ∧
      (8 ≤ goodLanes ok → goodLanes ok < 16 → Changes (.linkTrainDone l ok) s (.fab :: telling) fun t =>
        OnlyLink s t l { s.link l with state := .auth, lanes := 8, laneOk := ok } ∧ ∃ r, t.ras.trace.head? = some r ∧ r.code = evLinkDegraded ∧ r.unit = unitLink l) ∧
      (goodLanes ok < 8 → Changes (.linkTrainDone l ok) s [.fab] fun t => OnlyLink s t l { s.link l with state := .down, lanes := 0, laneOk := ok })) ∧
    ((s.link l).state = .train → s.inVigil = true → 8 ≤ goodLanes ok →
      Changes (.linkTrainDone l ok) s [.fab] fun t => OnlyLink s t l { s.link l with state := .align, lanes := 8, laneOk := ok })) ∧
  (∀ ok : Bool, (s.link l).state ≠ .auth → Answers (.linkAuthDone l ok) s fun t => t = s) ∧
  ((s.link l).state = .auth → Changes (.linkAuthDone l true) s [.fab] fun t => OnlyLink s t l { s.link l with state := .align, session := true, packets := 0 }) ∧
  ((s.link l).state = .auth → Changes (.linkAuthDone l false) s telling fun t => ∃ r, t.ras.trace.head? = some r ∧ r.code = evLinkAuth ∧ r.cls = .alarm ∧ r.unit = unitLink l) ∧
  ((s.link l).state ≠ .align ∨ (s.tick.state ≠ .locked ∧ s.tick.state ≠ .master) → Answers (.linkAlignUp l) s fun t => t = s) ∧
  ((s.link l).state = .align → s.tick.state = .locked ∨ s.tick.state = .master → Changes (.linkAlignUp l) s [.fab] fun t =>
    (t.link l).state = .up ∧ (t.link l).misses = 0 ∧ ∀ j, (t.link j).nbrIdent = (s.link j).nbrIdent ∧ (j ≠ l → (t.link j).state = (s.link j).state)) ∧
  (∀ lane : Fin 18,
    ((s.link l).state = .up → 16 < goodLanes (s.link l).laneOk → (s.link l).laneOk.getLsbD lane.val = true →
      Changes (.laneSoftFailure l lane) s [.fab] fun t => OnlyLink s t l { s.link l with swapReq := some lane.val }) ∧
    ((s.link l).state ≠ .up → (Answers (.laneSoftFailure l lane) s fun t => t = s) ∧ Answers (.laneLoss l lane) s fun t => t = s) ∧
    ((s.link l).state = .up → (s.link l).laneOk.getLsbD lane.val = true → Changes (.laneLoss l lane) s (.fab :: telling) fun t =>
      (t.link l).state = .reconfig ∧ (t.link l).replay = (s.link l).replay ∧ (t.link l).lanes = (s.link l).lanes ∧
      (∀ n : Nat, (t.link l).laneOk.getLsbD n = ((s.link l).laneOk.getLsbD n && n != lane.val)) ∧ (∀ j, j ≠ l → t.link j = s.link j) ∧
      ∃ x ∈ t.ras.ledger, x.kind = 4 ∧ x.event = 1 ∧ x.unit = BitVec.ofNat 16 (18 * l.val + lane.val) ∧ x.tick = s.tick.now) ∧
    (∀ new at_, (s.link l).swap = some (lane.val, new, at_) → (s.link l).laneOk.getLsbD lane.val = true → Changes (.laneSwap l) s (.fab :: telling) fun t =>
      (t.link l).swap = none ∧ (t.link l).state = (s.link l).state ∧ (t.link l).lanes = (s.link l).lanes ∧
      (∀ n : Nat, (t.link l).laneOk.getLsbD n = ((s.link l).laneOk.getLsbD n && n != lane.val)) ∧ ∀ j, j ≠ l → t.link j = s.link j)) ∧
  ((s.link l).swap = none → Answers (.laneSwap l) s fun t => t = s) ∧
  ((s.link l).state ≠ .reconfig → Answers (.reconfigDone l) s fun t => t = s) ∧
  ((s.link l).state = .reconfig → 8 ≤ goodLanes (s.link l).laneOk → Changes (.reconfigDone l) s (.fab :: telling) fun t =>
    (t.link l).state = .up ∧ (t.link l).lanes = (if 16 ≤ goodLanes (s.link l).laneOk then 16 else 8) ∧ (t.link l).lostLane = none ∧
      ∀ j, j ≠ l → (t.link j).state = (s.link j).state) ∧
  ((s.link l).state = .reconfig → goodLanes (s.link l).laneOk < 8 → Answers (.reconfigDone l) s fun t =>
    (t.link l).state = .down ∧ (t.link l).lanes = 0 ∧ ∀ h ∈ t.fab.held, h.out ≠ l ∧ h.from? ≠ some l) ∧
  (s.tick.state ≠ .holdover ∨ s.tick.now - s.tick.holdFrom < s.usTicks 100000 → Answers .holdoverAlarm s fun t => t = s) ∧
  (s.tick.state = .holdover → s.usTicks 100000 ≤ s.tick.now - s.tick.holdFrom → Changes .holdoverAlarm s telling fun t =>
    ∃ r, t.ras.trace.head? = some r ∧ r.code = evTickHoldover ∧ r.cls = .alarm)

/-- Flits and heartbeats. A flit names its neighbour, returns credits and answers heartbeats; a bad one is refused; a new
incarnation retrains the link; the third missed heartbeat fails the neighbour. -/
def Obligations.FlitsAndHeartbeats : Prop := ∀ (s : State) (l : LinkId), NoneReady s →
  (∀ f : Flit,
    ((s.link l).state ∈ [LinkState.disabled, .down, .train] → Answers (.flitReceive l f) s fun t => t = s) ∧
    ((s.link l).state = .failed → f.crcOk = false ∨ f.incarn = (s.link l).nbrInc → Answers (.flitReceive l f) s fun t => t = s) ∧
    ((s.link l).state = .failed → f.crcOk = true → f.incarn ≠ (s.link l).nbrInc → Answers (.flitReceive l f) s fun t =>
      (t.link l).state = .train ∧ (t.link l).nbrInc = f.incarn ∧ (t.link l).misses = 0 ∧ t.sched.cmds = s.sched.cmds ∧ t.mir = s.mir ∧
        (∀ j, j ≠ l → t.link j = s.link j) ∧ ∀ h ∈ t.fab.held, h.from? ≠ some l) ∧
    ((s.link l).usable = true → f.crcOk = false → Changes (.flitReceive l f) s [.fab, .banks] fun t => OnlyLink s t l { s.link l with nakked := true }) ∧
    ((s.link l).usable = true → f.crcOk = true → (s.link l).nakked = true → f.fseq ≠ (s.link l).rseq + 1 → Changes (.flitReceive l f) s [.banks] fun _ => True) ∧
    ((s.link l).state = .up → f.crcOk = true → (s.link l).nakked = false → f.incarn = (s.link l).nbrInc →
      (f.ack = false ∨ ((s.link l).nstate = .active → f.hbState ≠ hbStarting ∧ f.hbState ≠ hbSpare)) → (f.hbState ≠ hbVigil ∨ f.ack = false) →
      Changes (.flitReceive l f) s (.fab :: .tick :: telling) fun t =>
        (t.link l).state = .up ∧ (t.link l).nbrIdent = f.ident ∧ (t.link l).nbrSlot = f.pslot ∧ (t.link l).nstate = hbOf f.hbState ∧ (t.link l).rseq = f.fseq ∧
        (t.link l).adv = some (f.gmPrio, f.gmIdent, f.stratum.toNat) ∧
        (f.beat = true → s.ras.resetting = false → (t.link l).ackDue = some f.hbTick) ∧ (f.beat = false ∨ s.ras.resetting = true → (t.link l).ackDue = (s.link l).ackDue) ∧
        (f.ack = true → (s.link l).awaiting = some f.hbTick → (t.link l).misses = 0 ∧ (t.link l).awaiting = none) ∧
        (f.ack = false ∨ (s.link l).awaiting ≠ some f.hbTick → (t.link l).misses = (s.link l).misses ∧ (t.link l).awaiting = (s.link l).awaiting) ∧
        (∀ j, j ≠ l → (t.link j).state = (s.link j).state ∧ (t.link j).nbrIdent = (s.link j).nbrIdent)) ∧
    ((s.link l).usable = true → f.crcOk = true → (s.link l).nakked = false → f.incarn ≠ (s.link l).nbrInc → Answers (.flitReceive l f) s fun t =>
      (t.link l).state = .train ∧ (t.link l).nbrInc = f.incarn ∧ (∀ h ∈ t.fab.held, h.from? ≠ some l) ∧
      ((s.link l).nbrIdent ≠ noIdent → (s.link l).nbrIdent ∈ t.mir.settle.failed))) ∧
  ((s.link l).awaiting = none → (s.link l).state = .up → Answers (.heartbeatMiss l) s fun t => t = s) ∧
  ((s.link l).state = .up → (s.link l).awaiting ≠ none → (s.link l).misses < 2 → Changes (.heartbeatMiss l) s [.fab] fun t =>
    OnlyLink s t l { s.link l with misses := (s.link l).misses + 1, awaiting := none }) ∧
  ((s.link l).state = .up → (s.link l).awaiting ≠ none → 2 ≤ (s.link l).misses → Answers (.heartbeatMiss l) s fun t =>
    (t.link l).state = .failed ∧ (t.link l).misses = 3 ∧ (∀ h ∈ t.fab.held, h.out ≠ l ∧ h.from? ≠ some l) ∧ (∀ c, l ∉ (t.ctx c).awaitAck) ∧
    ((s.link l).nbrIdent ≠ noIdent → (s.link l).nbrIdent ∈ t.mir.settle.failed))

/-- The PCI Express function. Link loss and function-level reset put host rings in ERROR and end them; errors are counted in
GLB_PCIE_ERR and passed to RAS, an uncorrectable one on a ring's fetch or reply puts that ring in ERROR, and none resets any
part; a link comes up only at a legal rate and width. The class RAS gives such an error is a free value (log entry 26). (R503) -/
def Obligations.PcieFunction : Prop := ∀ s : State,
  (∀ i ∈ [Instr.perstN, .pcieLinkLoss, .functionLevelReset], s.pciePowered = false → Answers i s fun t => t = s) ∧
  (∀ (u : Bool) (r : Option (Fin 64)) (y : Bool), s.pciePowered = false → Answers (.pcieAerError u r y) s fun t => t = s) ∧
  (∀ i ∈ [Instr.perstN, .pcieLinkLoss], s.pciePowered = true → (∀ k, (s.chan k).state = .idle ∨ s.hostChan k = false) → Changes i s [.pcie, .rings] fun t =>
    t.pcie.up = false ∧ t.pcie.msix = s.pcie.msix ∧
    ∀ r, t.ring r = if r ≠ mgtRing ∧ (s.ring r).core = false ∧ (s.ring r).state = .running then { s.ring r with state := .error, err := 2 } else s.ring r) ∧
  (s.pciePowered = true → s.sched.cmds = [] → (∀ k, (s.chan k).state = .idle ∨ s.hostChan k = false) → Answers .functionLevelReset s fun t =>
    t.pcie.up = false ∧ t.pcie.msix = [] ∧ t.sched.cmds = [] ∧ t.memUnit = s.memUnit ∧ t.vault = s.vault ∧
    (∀ r, r ≠ mgtRing → (s.ring r).core = false → (t.ring r).state = .disabled) ∧ ∀ r, (s.ring r).core = true → r ≠ mgtRing → t.ring r = s.ring r) ∧
  (s.pciePowered = true → ∀ r y, Changes (.pcieAerError false r y) s telling fun t => t.rings = s.rings ∧
    t.hostBank.count offPcieErr 0 = min (2 ^ 32 - 1) (s.hostBank.count offPcieErr 0 + 1) ∧ ∃ r, t.ras.trace.head? = some r ∧ r.tick = s.tick.now) ∧
  (∀ (r : Fin 64) (y : Bool), s.pciePowered = true → (s.ring r.castSucc).state = .running → (s.ring r.castSucc).core = false →
    Changes (.pcieAerError true (some r) y) s (.rings :: telling) fun t => (t.ring r.castSucc).state = .error ∧ (t.ring r.castSucc).err = (if y then 4 else 2) ∧ t.boot = s.boot ∧
      t.hostBank.count offPcieErr 0 = min (2 ^ 32 - 1) (s.hostBank.count offPcieErr 0 + 1) ∧ (∃ x, t.ras.trace.head? = some x ∧ x.tick = s.tick.now) ∧
      ∀ q, q ≠ r.castSucc → t.ring q = s.ring q) ∧
  (∀ (gen : Fin 8) (width : Fin 32) (flit : Bool),
    (s.pciePowered = true → linkLegal gen width flit = true → Changes (.pcieLinkUp gen width flit) s [.pcie] fun t =>
      t.pcie = { s.pcie with up := true, gen, width, flit }) ∧
    (s.pciePowered = false ∨ linkLegal gen width flit = false → Answers (.pcieLinkUp gen width flit) s fun t => t = s))

/-- Hangs and domain resets. Budget hangs and watchdogs name a context, stop commands and fence a domain; the drain, the record, the
return or the failure of its reset go in the cases that the clauses name. -/
def Obligations.HangsAndDomainResets : Prop := ∀ s : State, NoneReady s →
  (∀ (cid clock : Nat) (ok : Bool), (∀ c, s.cmd? cid = some c → c.running = false ∨ clock < budgetLimit c ∨ s.clockStands c = true ∨ s.stopping cid = true) →
    Answers (.budgetHang cid clock ok) s fun t => t = s) ∧
  (∀ (c : Cmd) (clock : Nat), StandsAlone s c → c.running = true → budgetLimit c ≤ clock → s.clockStands c = false → s.ras.stops = [] → c.ctx ≠ 0 → (s.within hourUs (s.ctx c.ctx).guilty).length < 3 →
    (Answers (.budgetHang c.cid clock true) s fun t => EndedAlone s t c (if c.fixed then .partialEnd else .killed) stHang ∧
      (∃ x : W64, DetailOf t c.ring x ∧ x.extractLsb' 60 4 = 0xF ∧ x.extractLsb' 32 16 = 0xFFFF) ∧ (t.ctx c.ctx).guilty = s.within hourUs (s.ctx c.ctx).guilty ∧
      t.ras.hangValid = true ∧ t.ras.hangCtx = c.ctx ∧ t.ras.hangSeq = c.seq ∧ t.ras.hangDomain = 15 ∧ t.ras.resets = s.ras.resets) ∧
    (Changes (.budgetHang c.cid clock false) s telling fun t => t.ras.stops = [(c.cid, clock)] ∧ t.ras.hangValid = true ∧ t.ras.hangCtx = c.ctx ∧ t.ras.hangUnit = 0xFFFF)) ∧
  (∀ (cid : Nat) (u : W16), (s.ras.stops.any fun p => p.1 == cid) = false → Answers (.hangStopTimeout cid u) s fun t => t = s) ∧
  (∀ (c : Cmd) (clock : Nat) (u : W16) (p : SlotId), StandsAlone s c → c.running = true → s.ras.stops = [(c.cid, clock)] → s.ras.resets = [] → c.ctx ≠ 0 → (s.within hourUs (s.ctx c.ctx).guilty).length < 3 →
    domainOf u = some (.slice p) → Answers (.hangStopTimeout c.cid u) s fun t => EndedAlone s t c (if c.fixed then .partialEnd else .killed) stHang ∧ t.ras.stops = [] ∧
      (∃ x : W64, DetailOf t c.ring x ∧ x.extractLsb' 60 4 = 0 ∧ x.extractLsb' 32 16 = u) ∧
      (∃ r, t.ras.resets = [r] ∧ r.d = .slice p ∧ r.phase = .fenced ∧ r.budget = true ∧ r.named = c.ctx ∧ r.unit = u) ∧
      (s.live c.ctx = true → (t.ctx c.ctx).state = .fenced) ∧ ∀ e, s.slotOfEng e = p → (t.slice e).out = true) ∧
  (∀ (c : Cmd) (clock : Nat) (u : W16) (r : DomReset), StandsAlone s c → c.running = true → s.ras.stops = [(c.cid, clock)] → s.ras.resets = [r] → domainOf u = some r.d → c.ctx ≠ 0 →
    (s.within hourUs (s.ctx c.ctx).guilty).length < 3 → Answers (.hangStopTimeout c.cid u) s fun t => EndedAlone s t c (if c.fixed then .partialEnd else .killed) stHang ∧
      t.ras.stops = [] ∧ (s.live c.ctx = true → (t.ctx c.ctx).state = .fenced)) ∧
  (∀ u : W16, watched u = false ∨ s.ras.wdogOff u = true → Answers (.watchdogFire u) s fun t => t = s) ∧
  (∀ (u : W16) (d : Domain), watched u = true → s.ras.wdogOff u = false → domainOf u = some d → s.ras.resets = [] → s.sched.cmds = [] → s.fab.held = [] →
    Changes (.watchdogFire u) s (.slices :: telling) fun t => t.ras.hangValid = true ∧ t.ras.hangTrigger = 2 ∧ t.ras.hangUnit = u ∧ t.ras.hangDomain.val = domainCode d ∧
      (∃ r, t.ras.resets = [r] ∧ r.d = d ∧ r.phase = .fenced ∧ r.budget = false ∧ r.named = 0 ∧ r.unit = u) ∧
      (∀ e, (t.slice e).out = ((s.slice e).out || (domainSlots d).contains (s.slotOfEng e))) ∧ ∃ x, t.ras.trace.head? = some x ∧ x.code = evHangUnit ∧ x.unit = u) ∧
  (∀ u : W16, watched u = true → s.ras.wdogOff u = false → domainOf u = none → s.ras.resetting = false → s.sched.cmds = [] → Answers (.watchdogFire u) s fun t =>
    t.ras.resetting = true ∧ (∃ c ∈ t.ras.capturing, c.resets = true ∧ c.trigger = 2 ∧ c.unit = u) ∧ ∀ k, s.live k = true → (t.ctx k).state = .fenced) ∧
  (∀ d : Domain, (∀ r ∈ s.ras.resets, r.d ≠ d) → (Answers (.domainDrainEnd d) s fun t => t = s) ∧ (Answers (.domainResetReturn d) s fun t => t = s) ∧
    Answers (.domainResetFailed d) s fun t => t = s) ∧
  (∀ (d : Domain) (r : DomReset), s.ras.resets = [r] → r.d = d →
    (r.phase = .fenced → s.sched.cmds = [] → (∀ l, d = .link l → (s.link l).usable = false) → Changes (.domainDrainEnd d) s [.ras] fun t =>
      t.ras.resets = [{ r with phase := .drained }] ∧ ∃ c, t.ras.capturing = s.ras.capturing ++ [c] ∧ c.domain = some d ∧ c.trigger = (if r.budget then 1 else 2) ∧
        c.ctx = some (r.named, r.namedGen) ∧ c.unit = r.unit ∧ c.resets = false) ∧
    (∀ (c : Cmd) (p : SlotId), d = .slice p → r.phase = .fenced → StandsAlone s c → c.running = true → (c.kb.engs.any fun e => decide (s.slotOfEng e.eng = p)) = true →
      (c.fixed = true → r.budget = false → Answers (.domainDrainEnd d) s fun t => EndedAlone s t c .partialEnd stReset) ∧
      (c.fixed = false → r.budget = false → (c.cid, d) ∈ s.ras.caught → (s.within hourUs (s.ctx c.ctx).guilty).length < 3 → Answers (.domainDrainEnd d) s fun t => EndedAlone s t c .killed stHang) ∧
      (c.fixed = false → r.budget = false → (c.cid, d) ∉ s.ras.caught → Answers (.domainDrainEnd d) s fun t =>
        (c.cid, d) ∈ t.ras.rerun ∧ (c.cid, d) ∈ t.ras.caught ∧ (t.cmd? c.cid).isSome ∧ (t.ring c.ring).cplTail = (s.ring c.ring).cplTail)) ∧
    (∀ (us : W32) (c : Capture), s.ras.capturing = [c] → c.domain = some d → c.resets = false → s.ras.domRing.length = s.ras.ringCount → s.ras.ringCount < 64 →
      Answers (.emberCaptureDone us) s fun t => t.ras.capturing = [] ∧ t.ras.resets = [{ r with phase := .captured }] ∧
        (∃ e, t.ras.domRing = s.ras.domRing ++ [e] ∧ e.kind = 0 ∧ e.copied = false ∧ e.bytes.length ≤ 65536 ∧ leAt e.bytes 0 4 = 0x5A48454D) ∧
        ∀ e ∈ s.domainEngines d, ∀ b : Fin 16, ((t.slice e).banks[b]).owner = none) ∧
    (r.phase = .captured → s.sched.cmds = [] → (∀ l, d = .link l → (s.link l).state ≠ .reconfig) → Changes (.domainResetReturn d) s (.slices :: telling) fun t => t.ras.resets = [] ∧
      (∀ e, (t.slice e).out = ((s.slice e).out && !(domainSlots d).contains (s.slotOfEng e))) ∧ ∃ x, t.ras.trace.head? = some x ∧ x.code = evDomainReset ∧ x.unit = r.unit) ∧
    (∀ l : LinkId, d = .link l → r.phase = .captured → s.sched.cmds = [] → (s.link l).state = .reconfig → Changes (.domainResetReturn d) s (.fab :: telling) fun t =>
      t.ras.resets = [] ∧ (t.link l).state = .up) ∧
    (∀ p : SlotId, d = .slice p → s.ras.resetting = false → Answers (.domainResetFailed d) s fun t => (t.ras.slots[p]).healthy = false ∧ t.ras.resetting = true ∧ t.ras.resets = [] ∧
      ∃ c ∈ t.ras.capturing, c.resets = true ∧ c.trigger = 3 ∧ c.unit = r.unit) ∧
    (∀ l : LinkId, d = .link l → Answers (.domainResetFailed d) s fun t => (t.link l).state = .down ∧ t.ras.resets = [] ∧ ∀ h ∈ t.fab.held, h.out ≠ l) ∧
    (∀ (k : StackId) (ch : Fin 32), d = .channel k ch → (s.memUnit.hbm[k]).out = false → (s.memUnit.hbm[k]).reserve ≠ 0 → Answers (.domainResetFailed d) s fun t =>
      (t.memUnit.hbm[k]).reserve = (s.memUnit.hbm[k]).reserve - 1 ∧ t.ras.resets = [] ∧ t.ras.resetting = s.ras.resetting))

/-- Control cores. A core that does not answer its ping stops, its rings move and a record is captured; a second hang or a failed
test retires it. -/
def Obligations.ControlCores : Prop := ∀ (s : State) (k : CoreId),
  ((s.coreState k = .stopped ∨ s.coreState k = .retired ∨ s.coreState k = .reserve) → Answers (.corePingTimeout k) s fun t => t = s) ∧
  (s.coreState k = .free → (s.within dayUs s.ras.coreHangs[k] = [s.nowUs] ∨ s.ras.hungUnits.contains (unitCore k) = true) → (∃ j, j ≠ k ∧ s.coreState j = .free) →
    Changes (.corePingTimeout k) s (.sched :: .rings :: telling) fun t => t.coreState k = .stopped ∧
      t.ras.coreHangs[k] = (if s.ras.hungUnits.contains (unitCore k) then s.ras.coreHangs[k] else [s.nowUs]) ∧
      (∀ r, (t.ring r).state = (s.ring r).state) ∧ (∀ r, (s.ring r).state ≠ .disabled → (t.ring r).server ≠ k) ∧
      ∃ c, t.ras.capturing = s.ras.capturing ++ [c] ∧ c.coreId = some k ∧ c.trigger = 6 ∧ c.unit = unitCore k ∧ c.resets = false) ∧
  (s.coreState k = .free → s.within dayUs s.ras.coreHangs[k] ≠ [s.nowUs] → s.ras.hungUnits.contains (unitCore k) = false → Changes (.corePingTimeout k) s (.sched :: .rings :: telling) fun t =>
    t.coreState k = .retired ∧ ∃ x ∈ t.ras.ledger, x.kind = 5 ∧ x.event = 1 ∧ x.unit = BitVec.ofNat 16 k.val) ∧
  (∀ ok : Bool, s.coreState k ≠ .stopped → Answers (.coreRestartDone k ok) s fun t => t = s) ∧
  (s.coreState k = .stopped → Changes (.coreRestartDone k true) s [.sched, .ras] fun t => t.coreState k = .free ∧ unitCore k ∉ t.ras.hungUnits ∧ ∀ j, j ≠ k → t.coreState j = s.coreState j) ∧
  (s.coreState k = .stopped → Changes (.coreRestartDone k false) s (.sched :: telling) fun t => t.coreState k = .retired ∧
    (∃ x ∈ t.ras.ledger, x.kind = 5 ∧ x.event = 1 ∧ x.unit = BitVec.ofNat 16 k.val) ∧ ∀ j, j ≠ k → t.coreState j = s.coreState j)

/-- Event records and sentinel runs. Incidents close and update, suppressed events are reported, ALARMs leave their queue, the event
interrupt is held off; sentinel runs pass, are recorded, and retire a slice when a mismatch recurs. -/
def Obligations.EventsAndSentinels : Prop :=
  (∀ s : State,
  (∀ id : W32, (∀ i ∈ s.ras.incidents, i.id ≠ id) → (Answers (.incidentClose id) s fun t => t = s) ∧ Answers (.incidentUpdateHoldoff id) s fun t => t = s) ∧
  (∀ i ∈ s.ras.incidents, (∀ j ∈ s.ras.incidents, j.id = i.id → j = i) → (∀ j ∈ s.ras.incidents, j.unit = i.unit → j = i) →
    (Changes (.incidentClose i.id) s [.ras, .mgt, .banks] fun t => (∀ j, j ∈ t.ras.incidents ↔ j ∈ s.ras.incidents ∧ j.id ≠ i.id) ∧
      ∃ r, t.ras.fabOut = r :: s.ras.fabOut ∧ r.kind = .incidentClose ∧ r.root = i.id ∧ r.unit = i.unit ∧ r.count = i.alarms + i.faults + i.warns ∧
        r.data = [BitVec.ofNat 32 i.alarms, BitVec.ofNat 32 i.faults, BitVec.ofNat 32 i.warns]) ∧
    (i.held = true → Changes (.incidentUpdateHoldoff i.id) s [.ras] fun t => { i with held := false } ∈ t.ras.incidents ∧
      ∃ r, t.ras.fabOut = r :: s.ras.fabOut ∧ r.kind = .incidentUpdate ∧ r.root = i.id ∧ r.unit = i.unit) ∧
    (i.held = false → Changes (.incidentUpdateHoldoff i.id) s [.ras] fun t => { i with holdoff := false } ∈ t.ras.incidents ∧ t.ras.fabOut = s.ras.fabOut)) ∧
  (∀ cls : Fin 4, let b := s.ras.hostBuckets[cls];
    (b.pend = 0 ∨ b.tokens < 1000000 ∨ s.ras.evtEnable = false ∨ s.ras.evtRoom = false → Answers (.suppressedRecord 1 cls) s fun t => t = s) ∧
    (b.pend ≠ 0 → 1000000 ≤ b.tokens → s.ras.evtEnable = true → s.ras.evtRoom = true → s.ras.evtCore = false → memWf s.mem = true →
      Changes (.suppressedRecord 1 cls) s [.mem, .ras, .pcie] fun t => t.ras.hostBuckets[cls] = { b with pend := 0 } ∧ t.ras.evtProd = s.ras.evtProd + 1 ∧
        (let r := memReadList t.mem (hostKey (s.ras.evtBase.toNat + 32 * (s.ras.evtProd.toNat % 2 ^ s.ras.evtLog2))) 32;
          leAt r 0 4 = s.tick.now % 2 ^ 32 ∧ leAt r 4 1 = cls.val ∧ leAt r 5 1 = (if cls = 3 then 2 else 1) ∧ leAt r 16 4 = (sat32 b.pend) ∧ leAt r 20 4 = b.first % 2 ^ 32) ∧
        (s.ras.evtHoldoff = false → t.pcie.msix = if s.pcie.up then s.pcie.msix ++ [160] else s.pcie.msix))) ∧
  (Answers (.suppressedRecord 0 3) s fun t => t = s) ∧
  (∀ cls : Fin 3, let b := s.ras.mgtBuckets[cls];
    (b.pend = 0 ∨ b.tokens < 1000000 → Answers (.suppressedRecord 0 cls.castSucc) s fun t => t = s) ∧
    (b.pend ≠ 0 → 1000000 ≤ b.tokens → Changes (.suppressedRecord 0 cls.castSucc) s [.ras, .mgt] fun t => t.ras.mgtBuckets[cls] = { b with pend := 0 } ∧
      ∃ r : List Byte, t.mgt.events = (pldmEventClass, r) :: s.mgt.events ∧ leAt r 5 1 = 1 ∧ leAt r 16 4 = sat32 b.pend ∧ leAt r 20 4 = b.first % 2 ^ 32)) ∧
  (s.ras.alarmQ = [] → Answers .alarmQueueSend s fun t => t = s) ∧
  (∀ r l, s.ras.alarmQ = r :: l → Changes .alarmQueueSend s [.ras, .mgt] fun t => t.ras.alarmQ = l ∧ t.mgt.events = (pldmEventClass, r.bytes) :: s.mgt.events) ∧
  (s.ras.evtHeld = true → Changes .eventInterruptHoldoff s [.ras, .pcie] fun t => t.ras.evtHeld = false ∧ t.ras.evtHoldoff = s.ras.evtHoldoff ∧ t.pcie.msix = if s.pcie.up then s.pcie.msix ++ [160] else s.pcie.msix) ∧
  (s.ras.evtHeld = false → Changes .eventInterruptHoldoff s [.ras] fun t => t.ras.evtHoldoff = false)) ∧
  (∀ (s : State) (p : SlotId) (pat cond temp : Byte) (vcore : W16) (chunk : W32),
  let f := fun r : Fin 4 => s.sentinelFinger p pat cond temp vcore r chunk;
  (∀ r, pat = 0 ∨ 8 < pat.toNat ∨ 2 < cond.toNat → Answers (.sentinelRun p pat cond temp vcore r chunk) s fun t => t = s) ∧
  (∀ r, (s.ras.slots[p]).recheck ≠ some (f r).key → Answers (.sentinelRecheck p pat cond temp vcore r chunk) s fun t => t = s) ∧
  ((∀ e, s.slotOfEng e = p → (s.slice e).flips = 0) → 1 ≤ pat.toNat → pat.toNat ≤ 8 → cond.toNat ≤ 2 → (s.ras.slots[p]).healthy = true →
    (Changes (.sentinelRun p pat cond temp vcore 0 chunk) s [.ras] fun t => f 0 ∈ t.ras.passes ∧ ((f 0).cell, s.nowUs) ∈ (t.ras.slots[p]).cells ∧
      (t.ras.slots[p]).lastPass = some s.tick.now ∧ (t.ras.slots[p]).healthy = true ∧ (t.ras.slots[p]).recent = (s.ras.slots[p]).recent ∧
      ∀ q, q ≠ p → t.ras.slots[q] = s.ras.slots[q]) ∧
    (∀ r, r ≠ 0 → s.within dayUs (s.ras.slots[p]).recent = [s.nowUs] → (s.ras.slots[p]).recheck ≠ some (f r).key → Changes (.sentinelRun p pat cond temp vcore r chunk) s [.ras, .banks] fun t =>
      (t.ras.slots[p]).healthy = true ∧ (t.ras.slots[p]).recent = [s.nowUs] ∧ (t.ras.slots[p]).recheck = some (f r).key ∧
      (∃ x, t.ras.ledger = s.ras.ledger ++ [x] ∧ x.kind = 1 ∧ x.event = 2 ∧ x.unit = BitVec.ofNat 16 p.val ∧ x.data = (f r).bytes) ∧ ∀ q, q ≠ p → t.ras.slots[q] = s.ras.slots[q]) ∧
    (∀ r, r ≠ 0 → (s.ras.slots[p]).recheck = some (f r).key → Answers (.sentinelRecheck p pat cond temp vcore r chunk) s fun t =>
      (t.ras.slots[p]).healthy = false ∧ (∀ q, q ≠ p → (t.ras.slots[q]).healthy = (s.ras.slots[q]).healthy) ∧
      (∀ e q, s.slotOfEng e = p → (∀ e', s.slotOfEng e' = p → e' = e) → s.ras.reserveFor (octOf p) = some q → q ≠ p → t.slotOfEng e = q ∧ t.ras.resetting = s.ras.resetting)) ∧
    ((s.ras.slots[p]).recheck = some (f 0).key → Changes (.sentinelRecheck p pat cond temp vcore 0 chunk) s [.ras] fun t =>
      (t.ras.slots[p]).recheck = none ∧ (t.ras.slots[p]).healthy = true ∧ (t.ras.slots[p]).recent = (s.ras.slots[p]).recent)))

/-- The side bus: addresses, SPDM and reads. The rows of the side bus do nothing without power; secured commands outside a session
answer 0x80; addresses, SPDM messages and reads answer what the manual says and change nothing else. PLDM's own completion codes
are presumed (log entry 28). -/
def Obligations.SideBusAccess : Prop := ∀ s : State,
  (∀ i, sideRow i = true → s.boot.run = .off → Answers i s fun t => t = s) ∧
  (∀ i x code, securedRow i = some (x, code) → s.boot.run ≠ .off → (x = none ∨ ∃ k, x = some k ∧ s.mgt.sessions[k] = false) → Responds i s code 0x80 []) ∧
  (s.boot.run ≠ .off →
    (∀ a : BitVec 7, s.mgt.i3cAddr = none → Changes (.entdaa a) s [.mgt] fun t => t.mgt = { s.mgt with i3cAddr := some a, smbus := false }) ∧
    (∀ st a : BitVec 7, s.mgt.i3cAddr = none → (st.toNat = (if 8 < s.fab.pslot.val then 0x6F else 0x60 + s.fab.pslot.val) →
        Changes (.setdasa st a) s [.mgt] fun t => t.mgt = { s.mgt with i3cAddr := some a, smbus := false }) ∧
      (st.toNat ≠ (if 8 < s.fab.pslot.val then 0x6F else 0x60 + s.fab.pslot.val) → Answers (.setdasa st a) s fun t => t = s)) ∧
    (s.mgt.i3cAddr = none → Changes .smbusFallback s [.mgt] fun t => t.mgt = { s.mgt with smbus := true }) ∧
    (s.mgt.i3cAddr ≠ none → Answers .smbusFallback s fun t => t = s) ∧
    (∀ e : Byte, Changes (.mctpControl (some e)) s [.mgt] fun t => t.mgt = { s.mgt with eid := e, resps := { code := famMctp, cc := 0, data := [e] } :: s.mgt.resps }) ∧
    Responds (.mctpControl none) s famMctp 0 [s.mgt.eid] ∧
    (∀ k : Fin 8, 2 ≤ k.val → Responds (.spdmMessage (.certificate k)) s famSpdm 1 []) ∧
    Responds (.spdmMessage (.certificate 0)) s famSpdm 0 (Config.certChain 0) ∧
    Responds (.spdmMessage (.certificate 1)) s famSpdm 0 (Config.certChain (if s.boot.bank then 2 else 1)) ∧
    Responds (.spdmMessage (.measurement 6)) s famSpdm 0 (sha384 s.boot.almanac.flatten) ∧
    (∀ n : Byte, n = 0 ∨ 6 < n.toNat → Responds (.spdmMessage (.measurement n)) s famSpdm 1 []) ∧
    ((s.mgt.sessions[0] = false ∧ s.mgt.shaking[0] = false → Changes (.spdmMessage .keyExchange) s [.mgt] fun t => t.mgt.shaking[0] = true ∧
        t.mgt.shaking[1] = s.mgt.shaking[1] ∧ t.mgt.sessions = s.mgt.sessions) ∧
      ((∀ k : Fin 2, s.mgt.sessions[k] = true ∨ s.mgt.shaking[k] = true) → Responds (.spdmMessage .keyExchange) s famSpdm 1 [])) ∧
    (∀ k : Fin 2, (s.mgt.shaking[k] = true → Changes (.spdmMessage (.finish k)) s [.mgt] fun t => t.mgt.sessions[k] = true ∧ t.mgt.shaking[k] = false ∧
        ∀ j, j ≠ k → t.mgt.sessions[j] = s.mgt.sessions[j]) ∧
      (s.mgt.shaking[k] = false → Responds (.spdmMessage (.finish k)) s famSpdm 1 []) ∧
      Changes (.spdmMessage (.endSession k)) s [.mgt] fun t => t.mgt.sessions[k] = false ∧ ∀ j, j ≠ k → t.mgt.sessions[j] = s.mgt.sessions[j]) ∧
    (∀ id : W16, (0x100 ≤ id.toNat ∧ id.toNat - 0x100 ∈ sensorCodes → Responds (.getSensorReading id) s (famPlatform + 0x11) 0
        (BitVec.ofNat 8 (s.sensor (id.toNat - 0x100)).2.code :: le 4 (s.sensor (id.toNat - 0x100)).1.toNat)) ∧
      (¬(0x100 ≤ id.toNat ∧ id.toNat - 0x100 ∈ sensorCodes) → Responds (.getSensorReading id) s (famPlatform + 0x11) 0x80 [])) ∧
    (∀ k n : Byte, (s.boot.almanac = [] → Responds (.getAlmanac k n) s (famRolmel + 1) 0x84 []) ∧
      (s.boot.almanac ≠ [] → 1 ≤ n.toNat → n.toNat ≤ 8 → k.toNat + n.toNat ≤ 42 → Responds (.getAlmanac k n) s (famRolmel + 1) 0 ((s.boot.almanac.drop k.toNat).take n.toNat).flatten) ∧
      (s.boot.almanac ≠ [] → n = 0 ∨ 8 < n.toNat ∨ 42 < k.toNat + n.toNat → Responds (.getAlmanac k n) s (famRolmel + 1) 0x02 [])) ∧
    (∀ (src : Byte) (k : W16) (off : W64) (n : W16),
      (1024 < n.toNat ∨ n ≠ 0 ∧ s.ras.emberAt src.toNat k.toNat = none → Responds (.emberRead src k off n) s (famRolmel + 2) 0x02 []) ∧
      (n = 0 → Responds (.emberRead src k off n) s (famRolmel + 2) 0 []) ∧
      (∀ e, s.ras.emberAt src.toNat k.toNat = some e → n ≠ 0 → n.toNat ≤ 1024 → off.toNat + n.toNat ≤ e.bytes.length →
        Responds (.emberRead src k off n) s (famRolmel + 2) 0 (sliceOf e.bytes off.toNat n.toNat)) ∧
      (∀ e, s.ras.emberAt src.toNat k.toNat = some e → n ≠ 0 → e.bytes.length < off.toNat + n.toNat → Responds (.emberRead src k off n) s (famRolmel + 2) 0x02 [])) ∧
    (∀ off : BitVec 24, (s.mgtReaches off.toNat = false → Responds (.regRead off) s (famRolmel + 3) 0x84 []) ∧
      (s.mgtReaches off.toNat = true → Changes (.regRead off) s [.mgt, .banks] fun t =>
        t.mgt = { s.mgt with resps := { code := famRolmel + 3, cc := 0, data := le 4 (s.readAt .mgt off.toNat).1 } :: s.mgt.resps } ∧
          t.hostBank = s.hostBank ∧ t.fwBanks = s.fwBanks)))

/-- Secured commands of the side bus. In a session, register writes, resets, vigil, OTP, keys and command packets take effect or
answer their completion codes in the cases that the clauses name. -/
def Obligations.SecuredCommands : Prop := ∀ (s : State) (k : Fin 2), s.boot.run ≠ .off → s.mgt.sessions[k] = true →
  (∀ (off : BitVec 24) (v : W32), s.mgtReaches off.toNat = false → Responds (.regWrite (some k) off v) s (famRolmel + 4) 0x84 []) ∧
  (∀ v : W32, s.mode.lock = true → s.mgtReaches 0x1000 = true → Answers (.regWrite (some k) 0x1000 v) s fun t =>
    t.mgt.resps = { code := famRolmel + 4, cc := 0x83, data := [] } :: s.mgt.resps ∧ t.mode = s.mode) ∧
  (∀ v : W32, s.mode.lock = false → s.mgtReaches 0x1000 = true → v.extractLsb' 8 2 ≠ 3 → v.extractLsb' 4 2 ≠ 3 → v.extractLsb' 0 2 ≠ 3 → Answers (.regWrite (some k) 0x1000 v) s fun t =>
    t.mgt.resps = { code := famRolmel + 4, cc := 0, data := [] } :: s.mgt.resps ∧ t.mode.role.val = v.toNat / 2 ^ 12 % 4 ∧ t.mode.guardF.val = v.toNat / 2 ^ 8 % 4 ∧
      t.mode.check.val = v.toNat / 2 ^ 4 % 4 ∧ t.mode.power.val = v.toNat % 4 ∧ t.mode.lock = v.getLsbD 31) ∧
  (∀ (off : BitVec 24) (v : W32), s.mgtReaches off.toNat = true → ∃ cc : Byte, (cc = 0 ∨ cc = 0x83 ∨ cc = 0x84) ∧
    exec (.regWrite (some k) off v) s = exec (.registerWrite .mgt off v) { s with mgt := { s.mgt with resps := { code := famRolmel + 4, cc, data := [] } :: s.mgt.resps } }) ∧
  (s.inVigil = true → s.mgt.hardReset = false → s.mgt.jtagHold = false → (∀ i ∈ [Instr.deviceReset (some k), .vigilRelease (some k)], Answers i s fun t =>
    t.boot.run = .starting .power ∧ t.boot.fails = [] ∧ t.boot.vigilState = none)) ∧
  (s.boot.run = .running → s.ras.resetting = false → Answers (.deviceReset (some k)) s fun t => t.ras.resetting = true ∧
    (∃ c ∈ t.ras.capturing, c.resets = true ∧ c.trigger = 4) ∧ { code := famRolmel + 5, cc := 0, data := [] } ∈ t.mgt.resps) ∧
  (s.inVigil = false → s.ras.resetting = true → Responds (.deviceReset (some k)) s (famRolmel + 5) 0x86 []) ∧
  (s.inVigil = false → Responds (.vigilRelease (some k)) s (famRolmel + 7) 0x85 []) ∧
  (s.inVigil = true → Responds (.vigilRequest (some k)) s (famRolmel + 6) 0 []) ∧
  (s.boot.run = .running → s.ras.resetting = false → Answers (.vigilRequest (some k)) s fun t => t.boot.vigilPending = true ∧ t.ras.resetting = true ∧
    { code := famRolmel + 6, cc := 0, data := [] } ∈ t.mgt.resps) ∧
  (∀ image readback : List Byte,
    (image.length ≠ 256 → Responds (.otpProgram (some k) image readback) s (famRolmel + 8) 0x02 []) ∧
    (image.length = 256 → s.killsActive image = none → (∀ j : Fin 4, s.boot.otp[j] ≠ none) → Responds (.otpProgram (some k) image readback) s (famRolmel + 8) 0x81 []) ∧
    (image.length = 256 → s.killsActive image = none → s.boot.otp[0] = none → leAt image 0x70 4 < s.minSvn → Responds (.otpProgram (some k) image readback) s (famRolmel + 8) 0x82 []) ∧
    (image.length = 256 → s.killsActive image = none → s.boot.otp[0] = none → s.minSvn ≤ leAt image 0x70 4 → Changes (.otpProgram (some k) image readback) s [.boot, .mgt] fun t =>
      (∀ j : Fin 4, j ≠ 0 → t.boot.otp[j] = s.boot.otp[j]) ∧ (otpValid 0 readback = true → t.boot.otp[0] = some readback ∧
        t.mgt.resps = { code := famRolmel + 8, cc := 0, data := [] } :: s.mgt.resps))) ∧
  (∀ (port : Fin 2) (ckn cak : List Byte),
    (s.mainUp = false → Responds (.macsecKey (some k) port ckn cak) s (famRolmel + 9) 0x84 []) ∧
    (s.mainUp = true → 1 ≤ ckn.length → ckn.length ≤ 32 → cak.length = 32 → Changes (.macsecKey (some k) port ckn cak) s [.serve, .mgt] fun t =>
      t.serve.ports[port] = { s.serve.ports[port] with cak := some (ckn, cak) } ∧ (∀ j, j ≠ port → t.serve.ports[j] = s.serve.ports[j]) ∧
        t.serve = { s.serve with ports := t.serve.ports } ∧ t.mgt.resps = { code := famRolmel + 9, cc := 0, data := [] } :: s.mgt.resps) ∧
    (s.mainUp = true → ckn = [] ∨ 32 < ckn.length ∨ cak.length ≠ 32 → Responds (.macsecKey (some k) port ckn cak) s (famRolmel + 9) 0x02 [])) ∧
  (∀ (slot : Fin 8) (rec_ : List Byte), s.mainUp = true →
    (rec_.length = 96 → s.vault.keys[slot] = none → Changes (.pubkeySlot (some k) (BitVec.ofNat 8 slot.val) 0 rec_) s [.vault, .mgt] fun t =>
      t.vault.keys[slot] = some (rec_.take 48, rec_.drop 48) ∧ (∀ j, j ≠ slot → t.vault.keys[j] = s.vault.keys[j]) ∧ t.vault = { s.vault with keys := t.vault.keys }) ∧
    (s.vault.keys[slot] ≠ none ∨ rec_.length ≠ 96 → Responds (.pubkeySlot (some k) (BitVec.ofNat 8 slot.val) 0 rec_) s (famRolmel + 10) 0x02 []) ∧
    (Changes (.pubkeySlot (some k) (BitVec.ofNat 8 slot.val) 1 rec_) s [.vault, .mgt] fun t => t.vault.keys[slot] = none ∧ (∀ j, j ≠ slot → t.vault.keys[j] = s.vault.keys[j]) ∧
      t.vault = { s.vault with keys := t.vault.keys })) ∧
  (∀ bs : List Byte,
    (s.boot.run ≠ .running → Responds (.cmdSubmit (some k) bs) s (famRolmel + 11) 0x84 []) ∧
    (s.boot.run = .running → bs.length ≠ 64 → Responds (.cmdSubmit (some k) bs) s (famRolmel + 11) 0x02 []) ∧
    (s.boot.run = .running → bs.length = 64 → 16 ≤ s.outstanding mgtRing → Responds (.cmdSubmit (some k) bs) s (famRolmel + 11) 0x86 []) ∧
    (∀ h op, s.boot.run = .running → bs.length = 64 → s.outstanding mgtRing < 16 → packetOf mgtRing bs = (h, op) → Answers (.cmdSubmit (some k) bs) s fun t =>
      { code := famRolmel + 11, cc := 0, data := [] } ∈ t.mgt.resps ∧
      t = ((({ s with mgt := { s.mgt with resps := { code := famRolmel + 11, cc := 0, data := [] } :: s.mgt.resps } } : State).modRing mgtRing fun x =>
        { x with server := s.mgtServer }).packet h op).served)) ∧
  (∀ seq : W32,
    (s.boot.run ≠ .running → Responds (.cmdResult seq) s (famRolmel + 12) 0x84 []) ∧
    (∀ c ∈ s.sched.cmds, s.boot.run = .running → c.ring = mgtRing → c.run = none → c.seq = seq → Responds (.cmdResult seq) s (famRolmel + 12) 0x86 []) ∧
    (∀ e, s.boot.run = .running → (∀ c ∈ s.sched.cmds, c.ring ≠ mgtRing) → (s.ring mgtRing).hist.head? = some e → e.seq = seq → Responds (.cmdResult seq) s (famRolmel + 12) 0 e.reply) ∧
    (s.boot.run = .running → (∀ c ∈ s.sched.cmds, c.ring ≠ mgtRing) → (∀ e ∈ (s.ring mgtRing).hist.take 16, e.seq ≠ seq) → Responds (.cmdResult seq) s (famRolmel + 12) 0x84 []))

/-- Firmware updates and the test port. Updates write the bank that did not boot, are verified and activated; instructions of the
test port load their registers and hold the module in reset in the cases that the clauses name. -/
def Obligations.UpdatesAndTestPort : Prop := ∀ s : State, s.boot.run ≠ .off →
  (∀ (comp : W16) (image : List Byte) (svn : W32), comp ≠ 1 → Responds (.updateComponent comp image svn) s (famUpdate + 0x14) 0x02 []) ∧
  (∀ (image : List Byte) (svn : W32), Changes (.updateComponent 1 image svn) s [.boot, .mgt] fun t =>
    (let k : Fin 2 := if s.boot.bank then 0 else 1
     (t.boot.banks[k]).image = image ∧ (t.boot.banks[k]).svn = svn ∧ (∀ j, j ≠ k → t.boot.banks[j] = s.boot.banks[j])) ∧
    t.boot.written = true ∧ t.boot.named = s.boot.named ∧ t.boot.run = s.boot.run ∧ t.mgt.resps = { code := famUpdate + 0x14, cc := 0, data := [] } :: s.mgt.resps) ∧
  (s.boot.written = false → Responds .verifyComplete s (famUpdate + 0x17) 0x01 [] ∧ Responds .activateFirmware s (famUpdate + 0x1A) 0x01 []) ∧
  (s.boot.written = true → Responds .verifyComplete s (famUpdate + 0x17) 0 [if s.bankPasses (if s.boot.bank then 0 else 1) then 0 else 1]) ∧
  (s.boot.written = true → s.inVigil = false → Changes .activateFirmware s [.boot, .mgt] fun t =>
    t.boot = { s.boot with named := !s.boot.bank, written := false } ∧ t.mgt.resps = { code := famUpdate + 0x1A, cc := 0, data := [] } :: s.mgt.resps) ∧
  (s.boot.written = true → s.inVigil = true → s.bankPasses (if s.boot.bank then 0 else 1) = false → Responds .activateFirmware s (famUpdate + 0x1A) 0x01 []) ∧
  (s.boot.written = true → s.inVigil = true → s.mgt.hardReset = false → s.mgt.jtagHold = false → Answers .activateFirmware s fun t =>
    s.bankPasses (if s.boot.bank then 0 else 1) = true → t.boot.run = .starting .power ∧ t.boot.named = !s.boot.bank) ∧
  (Changes .bypass s [.mgt] fun t => t.mgt = { s.mgt with jtag := .bypass, tdo := [0] }) ∧
  (Changes .idcode s [.mgt] fun t => t.mgt = { s.mgt with jtag := .idcode, tdo := le 4 0x22492EB5 }) ∧
  (Changes .samplePreload s [.mgt] fun t => t.mgt = { s.mgt with jtag := .sample, tdo := Config.boundaryScan s.free }) ∧
  (∀ i ir, (i, ir) ∈ [(Instr.extest, JtagIr.extest), (.clamp, .clamp), (.highz, .highz)] →
    (s.boot.run = .running → s.ras.resetting = false → Answers i s fun t => t.mgt.jtag = ir ∧ t.mgt.jtagHold = true ∧ t.ras.resetting = true ∧ ∃ c ∈ t.ras.capturing, c.resets = true) ∧
    (s.boot.run = .waiting → Answers i s fun t => t.mgt.jtag = ir ∧ t.mgt.jtagHold = true ∧ t.boot.run = .held)) ∧
  (∀ (u : W16) (level : Byte) (ok : Bool), unitExists u = true → level.toNat ≤ 1 → Changes (.bistRun u level ok) s [.mgt] fun t =>
    t.mgt = { s.mgt with jtag := .bistRun, tdo := [if ok then 1 else 0] }) ∧
  (∀ u : W16, (s.jtagLock = true → Changes (.dbgRing u) s [.mgt] fun t => t.mgt = { s.mgt with jtag := .bypass, tdo := [0] }) ∧
    (s.jtagLock = false → Changes (.dbgRing u) s [.mgt] fun t => t.mgt = { s.mgt with jtag := .dbgRing, tdo := Config.debugRead u.toNat })) ∧
  (s.boot.run = .held → s.mgt.hardReset = false → Answers .testLogicReset s fun t => t.mgt.jtag = .idcode ∧ t.mgt.jtagHold = false ∧ t.boot.run = .starting .power) ∧
  (s.boot.run ≠ .held → Changes .testLogicReset s [.mgt] fun t => t.mgt = { s.mgt with jtag := .idcode, tdo := [], jtagHold := false })

/-- Frames and transmit records of the Ethernet front end. A frame passes MACsec, length, address, queue and owner checks and is queued
for its owner, or is counted as dropped; a record at the front of a transmit queue is sent, or is discarded and counted. -/
def Obligations.FramesAndTransmitRecords : Prop := ∀ (s : State) (p : Fin 2),
  (∀ f : Frame,
    ((s.serve.ports[p]).link = false → Answers (.frameReceive p f) s fun t => t = s) ∧
    ((s.serve.ports[p]).link = true → (s.serve.ports[p]).secure = false ∨ f.secure = false → Answers (.frameReceive p f) s fun t => t = s.count offSecDrop p.val 1) ∧
    ((s.serve.ports[p]).link = true → (s.serve.ports[p]).secure = true → f.secure = true →
      (f.bytes < 64 ∨ 9216 < f.bytes ∨ f.ext = true ∨ f.dstIp ≠ (s.serve.ports[p]).ip ∨ f.next = 17 ∧ (f.udpOk = false ∨ s.rxQueue p f = none)) →
      Answers (.frameReceive p f) s fun t => t = s.count offRxDrop p.val 1) ∧
    (∀ (q : Fin 64) (c : CtxId), (s.serve.ports[p]).link = true → (s.serve.ports[p]).secure = true → f.secure = true → 64 ≤ f.bytes → f.bytes ≤ 9216 → f.ext = false →
      f.dstIp = (s.serve.ports[p]).ip → f.next = 17 → f.udpOk = true → s.rxQueue p f = some q → (s.serve.queues[q]).ctx = some c →
      (s.live c = false ∨ (s.ctx c).gen ≠ (s.serve.queues[q]).gen → Answers (.frameReceive p f) s fun t => t = s.count offGenDrop c.val 1) ∧
      (s.live c = true → (s.ctx c).gen = (s.serve.queues[q]).gen →
        (queueBytes < (s.serve.queues[q]).bytes.length + (rxRecord p s.tick32 f.packet).length → Answers (.frameReceive p f) s fun t => t = s.count offRxDrop p.val 1) ∧
        ((s.serve.queues[q]).bytes.length + (rxRecord p s.tick32 f.packet).length ≤ queueBytes →
          exec (.frameReceive p f) s = .next ((s.queuePush q.val (rxRecord p s.tick32 f.packet)).queueMoved q.val) ∧ Changes (.frameReceive p f) s [.serve, .dma, .banks] fun t =>
          (t.serve.queues[q]).bytes = (s.serve.queues[q]).bytes ++ rxRecord p s.tick32 f.packet ∧ (rxRecord p s.tick32 f.packet).length % 64 = 0 ∧
          leAt (rxRecord p s.tick32 f.packet) 0 2 = f.packet.length % 65536 ∧ leAt (rxRecord p s.tick32 f.packet) 2 1 = p.val ∧ leAt (rxRecord p s.tick32 f.packet) 4 4 = s.tick32.toNat ∧
          t.serve.ports = s.serve.ports ∧ ∀ j, j ≠ q → t.serve.queues[j] = s.serve.queues[j])))) ∧
  (∀ q : Fin 32, portOf q.val = p → let bs := (s.serve.queues[(Fin.ofNat 64 q.val : Fin 64)]).bytes;
    ((s.serve.ports[p]).link = false ∨ (s.serve.ports[p]).secure = false ∨ bs.length < 64 → Answers (.transmitRecord q) s fun t => t = s) ∧
    ((s.serve.ports[p]).link = true → (s.serve.ports[p]).secure = true → 64 ≤ bs.length →
      leAt bs 0 2 < 40 ∨ 9000 < leAt bs 0 2 ∨ (sliceOf bs 24 16).reverse ≠ le 16 (s.serve.ports[p]).ip.toNat →
      Changes (.transmitRecord q) s [.serve, .dma, .banks] fun t => t.serve.ports = s.serve.ports ∧
        (t.serve.queues[(Fin.ofNat 64 q.val : Fin 64)]).bytes = bs.drop (min (roundUp (16 + leAt bs 0 2) 64) bs.length)) ∧
    ((s.serve.ports[p]).link = true → (s.serve.ports[p]).secure = true → 40 ≤ leAt bs 0 2 → leAt bs 0 2 ≤ 9000 → leAt bs 3 1 = 0 → leAt bs 4 4 = 0 → leAt bs 8 8 = 0 →
      roundUp (16 + leAt bs 0 2) 64 ≤ bs.length → (sliceOf bs 24 16).reverse = le 16 (s.serve.ports[p]).ip.toNat → leAt bs 22 1 ≠ 17 →
      Changes (.transmitRecord q) s [.serve, .dma, .banks] fun t =>
        t.serve.ports[p] = { s.serve.ports[p] with sent := sliceOf bs 16 (leAt bs 0 2) :: (s.serve.ports[p]).sent } ∧ (∀ j, j ≠ p → t.serve.ports[j] = s.serve.ports[j]) ∧
        (t.serve.queues[(Fin.ofNat 64 q.val : Fin 64)]).bytes = bs.drop (roundUp (16 + leAt bs 0 2) 64)))

/-- Keys, solicitations, echo and links of an Ethernet port. Key agreement makes or ends the secure channel of a port that has a CAK; the
port answers solicitations and echo requests for its address; its link goes up and down; only that port changes. -/
def Obligations.PortEvents : Prop := ∀ (s : State) (p : Fin 2),
  (∀ live xpn : Bool, ((s.serve.ports[p]).link = false ∨ (s.serve.ports[p]).cak = none → Answers (.eapolMka p live xpn) s fun t => t = s) ∧
    ((s.serve.ports[p]).link = true → (s.serve.ports[p]).cak ≠ none → Changes (.eapolMka p live xpn) s [.serve] fun t => OnlyPort s t p
      (if live then { s.serve.ports[p] with secure := true, suite := xpn, sas := (((s.serve.ports[p]).sas.headD 0 + 1) :: (s.serve.ports[p]).sas).take 4 }
       else { s.serve.ports[p] with secure := false }))) ∧
  (∀ (src target : BitVec 128) (mac : BitVec 48) (sec : Bool),
    ((s.serve.ports[p]).link = true → (s.serve.ports[p]).secure = true → sec = true → target = (s.serve.ports[p]).ip →
      Changes (.neighborSolicitation p src target mac sec) s [.serve] fun t => ∃ l pk,
        OnlyPort s t p { s.serve.ports[p] with neighbors := (src, mac) :: l, sent := pk :: (s.serve.ports[p]).sent } ∧
        (∀ n ∈ l, n ∈ (s.serve.ports[p]).neighbors ∧ n.1 ≠ src) ∧ l.length ≤ 1023 ∧
        pk.take 8 = [0x60, 0, 0, 0, 0, 32, 58, 255] ∧ sliceOf pk 8 16 = be 16 (s.serve.ports[p]).ip.toNat ∧ sliceOf pk 24 16 = be 16 src.toNat ∧ leAt pk 40 1 = 136 ∧
        sliceOf pk 48 16 = be 16 target.toNat) ∧
    ((s.serve.ports[p]).link = true → (s.serve.ports[p]).secure = false ∨ sec = false →
      Answers (.neighborSolicitation p src target mac sec) s fun t => t = s.count offSecDrop p.val 1) ∧
    ((s.serve.ports[p]).link = false ∨ ((s.serve.ports[p]).secure = true ∧ sec = true ∧ target ≠ (s.serve.ports[p]).ip) →
      Answers (.neighborSolicitation p src target mac sec) s fun t => t = s)) ∧
  (∀ (src dst : BitVec 128) (body : List Byte) (sec : Bool),
    ((s.serve.ports[p]).link = true → (s.serve.ports[p]).secure = true → sec = true → dst = (s.serve.ports[p]).ip →
      Changes (.echoRequest p src dst body sec) s [.serve] fun t => ∃ pk, OnlyPort s t p { s.serve.ports[p] with sent := pk :: (s.serve.ports[p]).sent } ∧
        leAt pk 6 1 = 58 ∧ leAt pk 7 1 = 64 ∧ sliceOf pk 8 16 = be 16 (s.serve.ports[p]).ip.toNat ∧ sliceOf pk 24 16 = be 16 src.toNat ∧ leAt pk 40 1 = 129 ∧ pk.drop 44 = body) ∧
    ((s.serve.ports[p]).link = true → (s.serve.ports[p]).secure = true → sec = true → dst ≠ (s.serve.ports[p]).ip →
      Answers (.echoRequest p src dst body sec) s fun t => t = s.count offRxDrop p.val 1) ∧
    ((s.serve.ports[p]).link = true → (s.serve.ports[p]).secure = false ∨ sec = false → Answers (.echoRequest p src dst body sec) s fun t => t = s.count offSecDrop p.val 1)) ∧
  (∀ up : Bool, Changes (.pcsLinkChange p up) s [.serve] fun t => OnlyPort s t p { s.serve.ports[p] with link := up })

/-- Messages of Deush. Requests, their continuations, cancellations, acknowledgments, resends and time limits, and the end of
sessions, go in the cases that the clauses name. -/
def Obligations.DeushMessages : Prop := ∀ s : State,
  (∀ i : Request, s.serviceRuns .servingLoop = false ∨ (∀ k, s.inst k = none) ∨ i.ok = false ∧ s.serve.reqs = [] → Answers (.deushRequest i) s fun t => t = s) ∧
  (∀ (i : Request) (x : Instance), s.serviceRuns .servingLoop = true → i.ok = true → s.serve.reqs = [] → s.inst (Fin.ofNat 16 i.service.toNat) = some x → s.live x.ctx = true → i.service.toNat < 16 →
    (badRequest x.cfg i = true → Changes (.deushRequest i) s [.serve] fun t => ∃ r body, t.serve.reqs = [r] ∧ r.client = i.client ∧ r.session = i.session ∧ r.req = i.req ∧ r.state = .ended ∧
      r.answer = some (6, 3 :: body) ∧ t.serve.sessions = s.serve.sessions.filter fun z => (s.inst z.svc).any fun y => s.live y.ctx) ∧
    (badRequest x.cfg i = false → i.tokens.length < i.prompt.toNat → Changes (.deushRequest i) s [.serve] fun t => ∃ r, t.serve.reqs = [r] ∧ r.client = i.client ∧ r.session = i.session ∧
      r.req = i.req ∧ r.svc = Fin.ofNat 16 i.service.toNat ∧ r.state = .incomplete ∧ r.answer = none ∧ r.got.map (·.2) = i.tokens ∧ t.serve.queues = s.serve.queues)) ∧
  (∀ (c : BitVec 128) (z : W64) (q a : W32), s.req? c z q = none → (∀ off toks, Answers (.deushRequestMore c z q a off toks) s fun t => t = s) ∧
    (Answers (.deushCancel c z q a) s fun t => t = s) ∧ (Answers (.deushAck c z q a) s fun t => t = s) ∧ (Answers (.deushResend c z q a) s fun t => t = s) ∧
    Answers (.promptIncomplete c z q) s fun t => t = s) ∧
  (∀ (r : Req) (ack : W32), WaitsAlone s r → r.state = .incomplete →
    (∀ (x : Instance) (off : W32) (toks : List W32), s.inst r.svc = some x → off.toNat + toks.length ≤ r.info.prompt.toNat → toks.length ≤ 2229 → (∀ k ∈ toks, k.toNat < x.cfg.vocab) →
      (∃ n, n < r.info.prompt.toNat ∧ (∀ g ∈ r.got, g.1 ≠ n) ∧ (n < off.toNat ∨ off.toNat + toks.length ≤ n)) → Changes (.deushRequestMore r.client r.session r.req ack off toks) s [.serve] fun t =>
        ∃ y, t.serve.reqs = [y] ∧ y.state = .incomplete ∧ (∀ n (h : n < toks.length), (∀ g ∈ r.got, g.1 ≠ off.toNat + n) → (off.toNat + n, toks[n]) ∈ y.got) ∧ (∀ g ∈ r.got, g ∈ y.got)) ∧
    (∀ (off : W32) (toks : List W32), r.info.prompt.toNat < off.toNat + toks.length ∨ 2229 < toks.length → Changes (.deushRequestMore r.client r.session r.req ack off toks) s [.serve] fun t =>
      ∃ y body, t.serve.reqs = [y] ∧ y.state = .ended ∧ y.answer = some (6, 3 :: body)) ∧
    (Changes (.deushCancel r.client r.session r.req ack) s [.serve] fun t => t.serve.reqs = []) ∧
    (s.nowUs < r.info.at_ + 100000 → Answers (.promptIncomplete r.client r.session r.req) s fun t => t = s) ∧
    (r.info.at_ + 100000 ≤ s.nowUs → Changes (.promptIncomplete r.client r.session r.req) s [.serve] fun t =>
      ∃ y body, t.serve.reqs = [y] ∧ y.state = .ended ∧ y.answer = some (6, rjIncomplete :: body) ∧ t.serve.sessions = s.serve.sessions)) ∧
  (∀ (r : Req) (ack : W32), WaitsAlone s r → r.state = .ended →
    (Changes (.deushAck r.client r.session r.req ack) s [.serve] fun t => t.serve.reqs = [{ r with unacked := r.unacked.filter fun m => decide (ack.toNat < m.seq.toNat) }] ∧
      t.serve.queues = s.serve.queues) ∧
    (∀ m, r.unacked = [m] → m.resends < 8 → Changes (.deushResend r.client r.session r.req m.seq) s [.serve] fun t =>
      t.serve.reqs = [{ r with unacked := [{ m with resends := m.resends + 1 }] }]) ∧
    (∀ m, r.unacked = [m] → 8 ≤ m.resends → Changes (.deushResend r.client r.session r.req m.seq) s [.serve] fun t =>
      t.serve.reqs = [{ r with unacked := [] }] ∧ t.serve.queues = s.serve.queues)) ∧
  (∀ (z : Session) (ack : W32), s.serve.reqs = [] → s.serve.sessions = [z] → z.kvLen = 0 → Changes (.deushClose z.client z.session ack) s [.serve] fun t =>
    t.serve = { s.serve with sessions := [] }) ∧
  (∀ (c : BitVec 128) (k : W64) (ack : W32), s.serve.reqs = [] → s.session? c k = none → (Answers (.deushClose c k ack) s fun t => t = s) ∧ Answers (.sessionIdleClose c k) s fun t => t = s) ∧
  (∀ (z : Session) (x : Instance), s.serve.reqs = [] → s.serve.sessions = [z] → z.kvLen = 0 → s.inst z.svc = some x →
    (z.busy = false → z.idleSince + 1000000 * x.cfg.idleLimit ≤ s.nowUs → Changes (.sessionIdleClose z.client z.session) s [.serve] fun t => t.serve = { s.serve with sessions := [] }) ∧
    (z.busy = true ∨ s.nowUs < z.idleSince + 1000000 * x.cfg.idleLimit → Answers (.sessionIdleClose z.client z.session) s fun t => t = s)) ∧
  (∀ k : Fin 16, (s.inst k = none ∨ ∀ x, s.inst k = some x → s.overdueSlot k x = none) → Answers (.bulkWaitExpiry k) s fun t => t = s) ∧
  (∀ (k : Fin 16) (x : Instance),
    (s.overdueSlot k x = none ↔ ∀ w, ∀ q ∈ s.batch k false w, s.tick.now < q.readyTick + x.cfg.bulkWait) ∧
    (∀ (w : WSlotId) (live : Bool), (s.batch k live w).length ≤ (if live then 8 else 128) ∧ (∀ q ∈ s.batch k live w, q ∈ s.serve.reqs ∧ q.svc = k ∧ q.live = live ∧ q.slot = w)) ∧
    (∀ (w : WSlotId) (r : Req) (l : List Req), s.inst k = some x → s.overdueSlot k x = some w → s.batch k false w = r :: l → Answers (.bulkWaitExpiry k) s fun t =>
      t = (s.runRows x (r :: l) (x.cfg.gslots.getD 1 0) 1 true 0).served))

/-- Coordinates of a job's modules. The job agent's coordinates follow the rule's formulas; consecutive stages lie one Y hop apart but
where the pipeline folds onto Z, ring neighbours of a sequence group and neighbouring data ranks of a Z digit lie next to each other on
Z, and no two modules of a job get the same coordinates. -/
def Obligations.JobPlacement : Prop := ∀ (j : Job) (t s q d : Nat), 0 < j.py → 0 < j.dpz → 0 < j.sp →
  j.place t s q d = (t, d / j.dpz, (if s / j.py % 2 = 0 then s % j.py else j.py - 1 - s % j.py), q + j.sp * (d % j.dpz + j.dpz * (s / j.py))) ∧
  (s % j.py + 1 < j.py → (j.place t (s + 1) q d).1 = (j.place t s q d).1 ∧ (j.place t (s + 1) q d).2.1 = (j.place t s q d).2.1 ∧
    (j.place t (s + 1) q d).2.2.2 = (j.place t s q d).2.2.2 ∧
    ((j.place t (s + 1) q d).2.2.1 = (j.place t s q d).2.2.1 + 1 ∨ (j.place t s q d).2.2.1 = (j.place t (s + 1) q d).2.2.1 + 1)) ∧
  (s % j.py + 1 = j.py → (j.place t (s + 1) q d).2.2 = ((j.place t s q d).2.2.1, (j.place t s q d).2.2.2 + j.sp * j.dpz)) ∧
  (j.place t s (q + 1) d = ((j.place t s q d).1, (j.place t s q d).2.1, (j.place t s q d).2.2.1, (j.place t s q d).2.2.2 + 1)) ∧
  (d % j.dpz + 1 < j.dpz → j.place t s q (d + 1) = ((j.place t s q d).1, (j.place t s q d).2.1, (j.place t s q d).2.2.1, (j.place t s q d).2.2.2 + j.sp)) ∧
  (∀ t' s' q' d' : Nat, q < j.sp → q' < j.sp → j.place t s q d = j.place t' s' q' d' → t' = t ∧ s' = s ∧ q' = q ∧ d' = d)
end

