-- ==== Sys2Proof/Laws/Memory.lean ====
section
/-! SUPPORT. Laws of the byte store: what a read after a write gives, and that every operation keeps the canonical form. -/
namespace Sys2Proof.Machine

/-- Every entry of a store lies above an address. -/
def memAbove (a : Nat) (m : List Host.Cell) : Prop := ∀ c ∈ m, a < c.1

/-- The canonical form, entry by entry. -/
theorem memWf_cons (x : Nat) (b : Byte) (t : List Host.Cell) :
    memWf ((x, b) :: t) = true ↔ b ≠ blank ∧ memAbove x t ∧ memWf t = true := by
  induction t generalizing x b with
  | nil => simp [memWf, memAbove]
  | cons y u ih =>
    obtain ⟨y, c⟩ := y
    have h : memWf ((x, b) :: (y, c) :: u) = true ↔ b ≠ blank ∧ x < y ∧ memWf ((y, c) :: u) = true := by
      simp [memWf, and_assoc]
    rw [h, ih]
    constructor
    · rintro ⟨h1, h2, h3, h4, h5⟩
      refine ⟨h1, ?_, h3, h4, h5⟩
      intro z hz
      rcases List.mem_cons.mp hz with rfl | hz
      · exact h2
      · exact Nat.lt_trans h2 (h4 z hz)
    · rintro ⟨h1, h2, h3, h4, h5⟩
      exact ⟨h1, h2 _ (List.mem_cons_self ..), h3, h4, h5⟩

theorem memAbove_write (x : Nat) {m : List Host.Cell} (h : memAbove x m) {a : Nat} (ha : x < a) (b : Byte) :
    memAbove x (memWrite m a b) := by
  induction m with
  | nil => intro c hc; unfold memWrite at hc; split at hc <;> simp_all
  | cons y t ih =>
    obtain ⟨y, c⟩ := y
    have ht : memAbove x t := fun z hz => h z (List.mem_cons_of_mem _ hz)
    have hy : x < y := h _ (List.mem_cons_self ..)
    intro z hz
    unfold memWrite at hz
    repeat' split at hz
    all_goals try simp only [List.mem_cons] at hz
    all_goals first
      | exact ht z hz
      | (rcases hz with rfl | rfl | hz <;> first | assumption | exact ht z hz)
      | (rcases hz with rfl | hz <;> first | assumption | exact ht z hz | exact ih ht z hz)

/-- A write keeps the canonical form. -/
theorem memWf_memWrite {m : List Host.Cell} (h : memWf m = true) (a : Nat) (b : Byte) : memWf (memWrite m a b) = true := by
  induction m with
  | nil => unfold memWrite; split <;> simp_all [memWf]
  | cons y t ih =>
    obtain ⟨y, c⟩ := y
    obtain ⟨hc, hy, ht⟩ := (memWf_cons y c t).mp h
    unfold memWrite
    split
    · rename_i hlt
      split
      · exact h
      · rename_i hb
        refine (memWf_cons a b _).mpr ⟨hb, ?_, h⟩
        intro z hz
        rcases List.mem_cons.mp hz with rfl | hz
        · exact hlt
        · exact Nat.lt_trans hlt (hy z hz)
    · split
      · rename_i heq
        subst heq
        split
        · exact ht
        · rename_i hb
          exact (memWf_cons _ b t).mpr ⟨hb, hy, ht⟩
      · rename_i h1 h2
        exact (memWf_cons y c _).mpr ⟨hc, memAbove_write y hy (by omega) b, ih ht⟩

theorem memWf_memWriteList {m : List Host.Cell} (h : memWf m = true) (a : Nat) (bs : List Byte) : memWf (memWriteList m a bs) = true := by
  induction bs generalizing m a with
  | nil => exact h
  | cons b bs ih => exact ih (memWf_memWrite h a b) _

theorem memWf_memApply {m : List Host.Cell} (h : memWf m = true) (l : List Host.Cell) : memWf (memApply m l) = true := by
  induction l generalizing m with
  | nil => exact h
  | cons x t ih => obtain ⟨a, b⟩ := x; exact ih (memWf_memWrite h a b)

theorem memWf_filter {m : List Host.Cell} (h : memWf m = true) (p : Host.Cell → Bool) : memWf (m.filter p) = true := by
  induction m with
  | nil => rfl
  | cons x t ih =>
    obtain ⟨x, b⟩ := x
    obtain ⟨hb, hx, ht⟩ := (memWf_cons x b t).mp h
    rw [List.filter_cons]
    split
    · exact (memWf_cons x b _).mpr ⟨hb, fun z hz => hx z (List.mem_of_mem_filter hz), ih ht⟩
    · exact ih ht

theorem memWf_memClear {m : List Host.Cell} (h : memWf m = true) (a n : Nat) : memWf (memClear m a n) = true := memWf_filter h _

theorem memRead_above {a : Nat} {m : List Host.Cell} (h : memAbove a m) : memRead m a = blank := by
  cases m with
  | nil => rfl
  | cons y t =>
    have hy : a < y.1 := h _ (List.mem_cons_self ..)
    obtain ⟨y, c⟩ := y
    unfold memRead
    simp only at hy
    rw [if_neg (by omega), if_pos hy]

/-- What a read after a write gives: the byte written there, and what was there before everywhere else. -/
theorem memRead_memWrite {m : List Host.Cell} (h : memWf m = true) (a : Nat) (b : Byte) (x : Nat) :
    memRead (memWrite m a b) x = if x = a then b else memRead m x := by
  induction m with
  | nil =>
    unfold memWrite
    split
    · subst b; simp [memRead]
    · by_cases hx : x = a
      · subst hx; simp [memRead]
      · have : ¬ a = x := fun h => hx h.symm
        simp [memRead, hx, this]
  | cons y t ih =>
    obtain ⟨y, c⟩ := y
    obtain ⟨hc, hy, ht⟩ := (memWf_cons y c t).mp h
    have iht := ih ht
    have hab : memRead t y = blank := memRead_above hy
    unfold memWrite
    by_cases h1 : a < y
    · rw [if_pos h1]
      split
      · subst b
        by_cases hx : x = a
        · subst hx; rw [if_pos rfl]; unfold memRead; rw [if_neg (by omega), if_pos h1]
        · rw [if_neg hx]
      · by_cases hx : x = a
        · subst hx; rw [if_pos rfl]; simp [memRead]
        · rw [if_neg hx]
          have hax : ¬ a = x := fun h => hx h.symm
          conv_lhs => unfold memRead
          rw [if_neg hax]
          split
          · unfold memRead; rw [if_neg (by omega), if_pos (by omega)]
          · rfl
    · rw [if_neg h1]
      by_cases h2 : a = y
      · rw [if_pos h2]
        subst h2
        by_cases hx : x = a
        · subst hx
          rw [if_pos rfl]
          split
          · subst b; exact hab
          · simp [memRead]
        · rw [if_neg hx]
          have hax : ¬ a = x := fun h => hx h.symm
          have hr : memRead ((a, c) :: t) x = if x < a then blank else memRead t x := by
            conv_lhs => unfold memRead
            rw [if_neg hax]
          split
          · rw [hr]
            split
            · rename_i hlt
              exact memRead_above fun z hz => Nat.lt_trans hlt (hy z hz)
            · rfl
          · rw [hr]
            conv_lhs => unfold memRead
            rw [if_neg hax]
      · rw [if_neg h2]
        have hr : ∀ u : List Host.Cell, memRead ((y, c) :: u) x = if y = x then c else if x < y then blank else memRead u x := fun u => by
          conv_lhs => unfold memRead
        rw [hr, hr, iht]
        by_cases hx : x = a
        · subst hx
          rw [if_neg (by omega), if_neg (by omega), if_pos rfl, if_pos rfl]
        · rw [if_neg hx, if_neg hx]

/-- What a read after a run of bytes has been written gives. -/
theorem memRead_memWriteList {m : List Host.Cell} (h : memWf m = true) (a : Nat) (bs : List Byte) (x : Nat) :
    memRead (memWriteList m a bs) x = if a ≤ x ∧ x < a + bs.length then bs.getD (x - a) 0 else memRead m x := by
  induction bs generalizing m a with
  | nil => simp [memWriteList]
  | cons b bs ih =>
    rw [memWriteList, ih (memWf_memWrite h a b), memRead_memWrite h]
    by_cases e : x = a
    · subst e
      simp
    · by_cases e1 : a + 1 ≤ x ∧ x < a + 1 + bs.length
      · rw [if_pos e1, if_pos (by simp; omega)]
        obtain ⟨k, hk⟩ : ∃ k, x - a = k + 1 := ⟨x - a - 1, by omega⟩
        rw [show x - (a + 1) = k by omega, hk]
        simp
      · rw [if_neg e1, if_neg e, if_neg (by simp; omega)]

/-- A run of bytes reads back as it was written. -/
theorem memReadList_memWriteList {m : List Host.Cell} (h : memWf m = true) (a : Nat) (bs : List Byte) :
    memReadList (memWriteList m a bs) a bs.length = bs := by
  apply List.ext_getElem
  · simp [memReadList]
  · intro k h1 h2
    simp only [memReadList, List.getElem_map, List.getElem_range]
    rw [memRead_memWriteList h, if_pos (by omega)]
    simp [List.getElem?_eq_getElem h2]

end Sys2Proof.Machine
end

