-- ==== Sys2Proof/Laws/State.lean ====
section
/-! SUPPORT. What each named update of the state leaves in each of its fields, and what the accessors read after an update. -/
namespace Sys2Proof.Machine

variable (s : State)

/-! ### Vectors -/

@[simp] theorem vmod_get_self {α : Type} {n : Nat} (v : Vector α n) (k : Fin n) (f : α → α) : (vmod v k f)[k] = f v[k] := by
  show (v.set k.val (f v[k]) k.isLt)[k.val]'k.isLt = f v[k]
  rw [Vector.getElem_set]; simp

theorem vmod_get_ne {α : Type} {n : Nat} (v : Vector α n) {k l : Fin n} (f : α → α) (h : k ≠ l) : (vmod v k f)[l] = v[l] := by
  show (v.set k.val (f v[k]) k.isLt)[l.val]'l.isLt = v[l]
  rw [Vector.getElem_set, if_neg]; · rfl
  · exact fun e => h (Fin.ext e)

/-! ### modCtx -/

section
variable (c : CtxId) (f : Ctx → Ctx)
@[simp] theorem modCtx_mode : (s.modCtx c f).mode = s.mode := rfl
@[simp] theorem modCtx_mem : (s.modCtx c f).mem = s.mem := rfl
@[simp] theorem modCtx_memUnit : (s.modCtx c f).memUnit = s.memUnit := rfl
@[simp] theorem modCtx_ctxs : (s.modCtx c f).ctxs = vmod s.ctxs c f := rfl
@[simp] theorem modCtx_vault : (s.modCtx c f).vault = s.vault := rfl
@[simp] theorem modCtx_rings : (s.modCtx c f).rings = s.rings := rfl
@[simp] theorem modCtx_sched : (s.modCtx c f).sched = s.sched := rfl
@[simp] theorem modCtx_slices : (s.modCtx c f).slices = s.slices := rfl
@[simp] theorem modCtx_dma : (s.modCtx c f).dma = s.dma := rfl
@[simp] theorem modCtx_tick : (s.modCtx c f).tick = s.tick := rfl
@[simp] theorem modCtx_fab : (s.modCtx c f).fab = s.fab := rfl
@[simp] theorem modCtx_cle : (s.modCtx c f).cle = s.cle := rfl
@[simp] theorem modCtx_jobs : (s.modCtx c f).jobs = s.jobs := rfl
@[simp] theorem modCtx_jobChanges : (s.modCtx c f).jobChanges = s.jobChanges := rfl
@[simp] theorem modCtx_pvs : (s.modCtx c f).pvs = s.pvs := rfl
@[simp] theorem modCtx_mir : (s.modCtx c f).mir = s.mir := rfl
@[simp] theorem modCtx_ras : (s.modCtx c f).ras = s.ras := rfl
@[simp] theorem modCtx_boot : (s.modCtx c f).boot = s.boot := rfl
@[simp] theorem modCtx_power : (s.modCtx c f).power = s.power := rfl
@[simp] theorem modCtx_pcie : (s.modCtx c f).pcie = s.pcie := rfl
@[simp] theorem modCtx_mgt : (s.modCtx c f).mgt = s.mgt := rfl
@[simp] theorem modCtx_serve : (s.modCtx c f).serve = s.serve := rfl
@[simp] theorem modCtx_cfgErr : (s.modCtx c f).cfgErr = s.cfgErr := rfl
@[simp] theorem modCtx_hostBank : (s.modCtx c f).hostBank = s.hostBank := rfl
@[simp] theorem modCtx_mgtBank : (s.modCtx c f).mgtBank = s.mgtBank := rfl
@[simp] theorem modCtx_fwBanks : (s.modCtx c f).fwBanks = s.fwBanks := rfl
@[simp] theorem modCtx_free : (s.modCtx c f).free = s.free := rfl
@[simp] theorem modCtx_pending : (s.modCtx c f).pending = s.pending := rfl
end

@[simp] theorem ctx_modCtx_self (c : CtxId) (f) : (s.modCtx c f).ctx c = f (s.ctx c) := vmod_get_self _ _ _
theorem ctx_modCtx_ne {c d : CtxId} (f) (h : c ≠ d) : (s.modCtx c f).ctx d = s.ctx d := vmod_get_ne _ _ h

/-! ### modRing -/

section
variable (r : RingId) (f : Ring → Ring)
@[simp] theorem modRing_mode : (s.modRing r f).mode = s.mode := rfl
@[simp] theorem modRing_mem : (s.modRing r f).mem = s.mem := rfl
@[simp] theorem modRing_memUnit : (s.modRing r f).memUnit = s.memUnit := rfl
@[simp] theorem modRing_ctxs : (s.modRing r f).ctxs = s.ctxs := rfl
@[simp] theorem modRing_vault : (s.modRing r f).vault = s.vault := rfl
@[simp] theorem modRing_rings : (s.modRing r f).rings = vmod s.rings r f := rfl
@[simp] theorem modRing_sched : (s.modRing r f).sched = s.sched := rfl
@[simp] theorem modRing_slices : (s.modRing r f).slices = s.slices := rfl
@[simp] theorem modRing_dma : (s.modRing r f).dma = s.dma := rfl
@[simp] theorem modRing_tick : (s.modRing r f).tick = s.tick := rfl
@[simp] theorem modRing_fab : (s.modRing r f).fab = s.fab := rfl
@[simp] theorem modRing_cle : (s.modRing r f).cle = s.cle := rfl
@[simp] theorem modRing_jobs : (s.modRing r f).jobs = s.jobs := rfl
@[simp] theorem modRing_jobChanges : (s.modRing r f).jobChanges = s.jobChanges := rfl
@[simp] theorem modRing_pvs : (s.modRing r f).pvs = s.pvs := rfl
@[simp] theorem modRing_mir : (s.modRing r f).mir = s.mir := rfl
@[simp] theorem modRing_ras : (s.modRing r f).ras = s.ras := rfl
@[simp] theorem modRing_boot : (s.modRing r f).boot = s.boot := rfl
@[simp] theorem modRing_power : (s.modRing r f).power = s.power := rfl
@[simp] theorem modRing_pcie : (s.modRing r f).pcie = s.pcie := rfl
@[simp] theorem modRing_mgt : (s.modRing r f).mgt = s.mgt := rfl
@[simp] theorem modRing_serve : (s.modRing r f).serve = s.serve := rfl
@[simp] theorem modRing_cfgErr : (s.modRing r f).cfgErr = s.cfgErr := rfl
@[simp] theorem modRing_hostBank : (s.modRing r f).hostBank = s.hostBank := rfl
@[simp] theorem modRing_mgtBank : (s.modRing r f).mgtBank = s.mgtBank := rfl
@[simp] theorem modRing_fwBanks : (s.modRing r f).fwBanks = s.fwBanks := rfl
@[simp] theorem modRing_free : (s.modRing r f).free = s.free := rfl
@[simp] theorem modRing_pending : (s.modRing r f).pending = s.pending := rfl
end

@[simp] theorem ring_modRing_self (r : RingId) (f) : (s.modRing r f).ring r = f (s.ring r) := vmod_get_self _ _ _
theorem ring_modRing_ne {r d : RingId} (f) (h : r ≠ d) : (s.modRing r f).ring d = s.ring d := vmod_get_ne _ _ h

/-! ### modSlice -/

section
variable (e : EngineId) (f : Slice → Slice)
@[simp] theorem modSlice_mode : (s.modSlice e f).mode = s.mode := rfl
@[simp] theorem modSlice_mem : (s.modSlice e f).mem = s.mem := rfl
@[simp] theorem modSlice_memUnit : (s.modSlice e f).memUnit = s.memUnit := rfl
@[simp] theorem modSlice_ctxs : (s.modSlice e f).ctxs = s.ctxs := rfl
@[simp] theorem modSlice_vault : (s.modSlice e f).vault = s.vault := rfl
@[simp] theorem modSlice_rings : (s.modSlice e f).rings = s.rings := rfl
@[simp] theorem modSlice_sched : (s.modSlice e f).sched = s.sched := rfl
@[simp] theorem modSlice_slices : (s.modSlice e f).slices = vmod s.slices e f := rfl
@[simp] theorem modSlice_dma : (s.modSlice e f).dma = s.dma := rfl
@[simp] theorem modSlice_tick : (s.modSlice e f).tick = s.tick := rfl
@[simp] theorem modSlice_fab : (s.modSlice e f).fab = s.fab := rfl
@[simp] theorem modSlice_cle : (s.modSlice e f).cle = s.cle := rfl
@[simp] theorem modSlice_jobs : (s.modSlice e f).jobs = s.jobs := rfl
@[simp] theorem modSlice_jobChanges : (s.modSlice e f).jobChanges = s.jobChanges := rfl
@[simp] theorem modSlice_pvs : (s.modSlice e f).pvs = s.pvs := rfl
@[simp] theorem modSlice_mir : (s.modSlice e f).mir = s.mir := rfl
@[simp] theorem modSlice_ras : (s.modSlice e f).ras = s.ras := rfl
@[simp] theorem modSlice_boot : (s.modSlice e f).boot = s.boot := rfl
@[simp] theorem modSlice_power : (s.modSlice e f).power = s.power := rfl
@[simp] theorem modSlice_pcie : (s.modSlice e f).pcie = s.pcie := rfl
@[simp] theorem modSlice_mgt : (s.modSlice e f).mgt = s.mgt := rfl
@[simp] theorem modSlice_serve : (s.modSlice e f).serve = s.serve := rfl
@[simp] theorem modSlice_cfgErr : (s.modSlice e f).cfgErr = s.cfgErr := rfl
@[simp] theorem modSlice_hostBank : (s.modSlice e f).hostBank = s.hostBank := rfl
@[simp] theorem modSlice_mgtBank : (s.modSlice e f).mgtBank = s.mgtBank := rfl
@[simp] theorem modSlice_fwBanks : (s.modSlice e f).fwBanks = s.fwBanks := rfl
@[simp] theorem modSlice_free : (s.modSlice e f).free = s.free := rfl
@[simp] theorem modSlice_pending : (s.modSlice e f).pending = s.pending := rfl
end

@[simp] theorem slice_modSlice_self (e : EngineId) (f) : (s.modSlice e f).slice e = f (s.slice e) := vmod_get_self _ _ _
theorem slice_modSlice_ne {e d : EngineId} (f) (h : e ≠ d) : (s.modSlice e f).slice d = s.slice d := vmod_get_ne _ _ h

/-! ### modProg -/

section
variable (e : EngineId) (p : Fin 16) (f : Prog → Prog)
@[simp] theorem modProg_mode : (s.modProg e p f).mode = s.mode := rfl
@[simp] theorem modProg_mem : (s.modProg e p f).mem = s.mem := rfl
@[simp] theorem modProg_memUnit : (s.modProg e p f).memUnit = s.memUnit := rfl
@[simp] theorem modProg_ctxs : (s.modProg e p f).ctxs = s.ctxs := rfl
@[simp] theorem modProg_vault : (s.modProg e p f).vault = s.vault := rfl
@[simp] theorem modProg_rings : (s.modProg e p f).rings = s.rings := rfl
@[simp] theorem modProg_sched : (s.modProg e p f).sched = s.sched := rfl
@[simp] theorem modProg_slices : (s.modProg e p f).slices = vmod s.slices e fun x => { x with progs := vmod x.progs p f } := rfl
@[simp] theorem modProg_dma : (s.modProg e p f).dma = s.dma := rfl
@[simp] theorem modProg_tick : (s.modProg e p f).tick = s.tick := rfl
@[simp] theorem modProg_fab : (s.modProg e p f).fab = s.fab := rfl
@[simp] theorem modProg_cle : (s.modProg e p f).cle = s.cle := rfl
@[simp] theorem modProg_jobs : (s.modProg e p f).jobs = s.jobs := rfl
@[simp] theorem modProg_jobChanges : (s.modProg e p f).jobChanges = s.jobChanges := rfl
@[simp] theorem modProg_pvs : (s.modProg e p f).pvs = s.pvs := rfl
@[simp] theorem modProg_mir : (s.modProg e p f).mir = s.mir := rfl
@[simp] theorem modProg_ras : (s.modProg e p f).ras = s.ras := rfl
@[simp] theorem modProg_boot : (s.modProg e p f).boot = s.boot := rfl
@[simp] theorem modProg_power : (s.modProg e p f).power = s.power := rfl
@[simp] theorem modProg_pcie : (s.modProg e p f).pcie = s.pcie := rfl
@[simp] theorem modProg_mgt : (s.modProg e p f).mgt = s.mgt := rfl
@[simp] theorem modProg_serve : (s.modProg e p f).serve = s.serve := rfl
@[simp] theorem modProg_cfgErr : (s.modProg e p f).cfgErr = s.cfgErr := rfl
@[simp] theorem modProg_hostBank : (s.modProg e p f).hostBank = s.hostBank := rfl
@[simp] theorem modProg_mgtBank : (s.modProg e p f).mgtBank = s.mgtBank := rfl
@[simp] theorem modProg_fwBanks : (s.modProg e p f).fwBanks = s.fwBanks := rfl
@[simp] theorem modProg_free : (s.modProg e p f).free = s.free := rfl
@[simp] theorem modProg_pending : (s.modProg e p f).pending = s.pending := rfl
end

/-! ### modLink -/

section
variable (l : LinkId) (f : Link → Link)
@[simp] theorem modLink_mode : (s.modLink l f).mode = s.mode := rfl
@[simp] theorem modLink_mem : (s.modLink l f).mem = s.mem := rfl
@[simp] theorem modLink_memUnit : (s.modLink l f).memUnit = s.memUnit := rfl
@[simp] theorem modLink_ctxs : (s.modLink l f).ctxs = s.ctxs := rfl
@[simp] theorem modLink_vault : (s.modLink l f).vault = s.vault := rfl
@[simp] theorem modLink_rings : (s.modLink l f).rings = s.rings := rfl
@[simp] theorem modLink_sched : (s.modLink l f).sched = s.sched := rfl
@[simp] theorem modLink_slices : (s.modLink l f).slices = s.slices := rfl
@[simp] theorem modLink_dma : (s.modLink l f).dma = s.dma := rfl
@[simp] theorem modLink_tick : (s.modLink l f).tick = s.tick := rfl
@[simp] theorem modLink_fab : (s.modLink l f).fab = { s.fab with links := vmod s.fab.links l f } := rfl
@[simp] theorem modLink_cle : (s.modLink l f).cle = s.cle := rfl
@[simp] theorem modLink_jobs : (s.modLink l f).jobs = s.jobs := rfl
@[simp] theorem modLink_jobChanges : (s.modLink l f).jobChanges = s.jobChanges := rfl
@[simp] theorem modLink_pvs : (s.modLink l f).pvs = s.pvs := rfl
@[simp] theorem modLink_mir : (s.modLink l f).mir = s.mir := rfl
@[simp] theorem modLink_ras : (s.modLink l f).ras = s.ras := rfl
@[simp] theorem modLink_boot : (s.modLink l f).boot = s.boot := rfl
@[simp] theorem modLink_power : (s.modLink l f).power = s.power := rfl
@[simp] theorem modLink_pcie : (s.modLink l f).pcie = s.pcie := rfl
@[simp] theorem modLink_mgt : (s.modLink l f).mgt = s.mgt := rfl
@[simp] theorem modLink_serve : (s.modLink l f).serve = s.serve := rfl
@[simp] theorem modLink_cfgErr : (s.modLink l f).cfgErr = s.cfgErr := rfl
@[simp] theorem modLink_hostBank : (s.modLink l f).hostBank = s.hostBank := rfl
@[simp] theorem modLink_mgtBank : (s.modLink l f).mgtBank = s.mgtBank := rfl
@[simp] theorem modLink_fwBanks : (s.modLink l f).fwBanks = s.fwBanks := rfl
@[simp] theorem modLink_free : (s.modLink l f).free = s.free := rfl
@[simp] theorem modLink_pending : (s.modLink l f).pending = s.pending := rfl
end

@[simp] theorem link_modLink_self (l : LinkId) (f) : (s.modLink l f).link l = f (s.link l) := vmod_get_self _ _ _
theorem link_modLink_ne {l d : LinkId} (f) (h : l ≠ d) : (s.modLink l f).link d = s.link d := vmod_get_ne _ _ h

/-! ### modChan -/

section
variable (c : ChanId) (f : Chan → Chan)
@[simp] theorem modChan_mode : (s.modChan c f).mode = s.mode := rfl
@[simp] theorem modChan_mem : (s.modChan c f).mem = s.mem := rfl
@[simp] theorem modChan_memUnit : (s.modChan c f).memUnit = s.memUnit := rfl
@[simp] theorem modChan_ctxs : (s.modChan c f).ctxs = s.ctxs := rfl
@[simp] theorem modChan_vault : (s.modChan c f).vault = s.vault := rfl
@[simp] theorem modChan_rings : (s.modChan c f).rings = s.rings := rfl
@[simp] theorem modChan_sched : (s.modChan c f).sched = s.sched := rfl
@[simp] theorem modChan_slices : (s.modChan c f).slices = s.slices := rfl
@[simp] theorem modChan_dma : (s.modChan c f).dma = { s.dma with chans := vmod s.dma.chans c f } := rfl
@[simp] theorem modChan_tick : (s.modChan c f).tick = s.tick := rfl
@[simp] theorem modChan_fab : (s.modChan c f).fab = s.fab := rfl
@[simp] theorem modChan_cle : (s.modChan c f).cle = s.cle := rfl
@[simp] theorem modChan_jobs : (s.modChan c f).jobs = s.jobs := rfl
@[simp] theorem modChan_jobChanges : (s.modChan c f).jobChanges = s.jobChanges := rfl
@[simp] theorem modChan_pvs : (s.modChan c f).pvs = s.pvs := rfl
@[simp] theorem modChan_mir : (s.modChan c f).mir = s.mir := rfl
@[simp] theorem modChan_ras : (s.modChan c f).ras = s.ras := rfl
@[simp] theorem modChan_boot : (s.modChan c f).boot = s.boot := rfl
@[simp] theorem modChan_power : (s.modChan c f).power = s.power := rfl
@[simp] theorem modChan_pcie : (s.modChan c f).pcie = s.pcie := rfl
@[simp] theorem modChan_mgt : (s.modChan c f).mgt = s.mgt := rfl
@[simp] theorem modChan_serve : (s.modChan c f).serve = s.serve := rfl
@[simp] theorem modChan_cfgErr : (s.modChan c f).cfgErr = s.cfgErr := rfl
@[simp] theorem modChan_hostBank : (s.modChan c f).hostBank = s.hostBank := rfl
@[simp] theorem modChan_mgtBank : (s.modChan c f).mgtBank = s.mgtBank := rfl
@[simp] theorem modChan_fwBanks : (s.modChan c f).fwBanks = s.fwBanks := rfl
@[simp] theorem modChan_free : (s.modChan c f).free = s.free := rfl
@[simp] theorem modChan_pending : (s.modChan c f).pending = s.pending := rfl
end

@[simp] theorem chan_modChan_self (c : ChanId) (f) : (s.modChan c f).chan c = f (s.chan c) := vmod_get_self _ _ _
theorem chan_modChan_ne {c d : ChanId} (f) (h : c ≠ d) : (s.modChan c f).chan d = s.chan d := vmod_get_ne _ _ h

/-! ### modMir -/

section
variable (c : CtxId) (f : Mir → Mir)
@[simp] theorem modMir_mode : (s.modMir c f).mode = s.mode := rfl
@[simp] theorem modMir_mem : (s.modMir c f).mem = s.mem := rfl
@[simp] theorem modMir_memUnit : (s.modMir c f).memUnit = s.memUnit := rfl
@[simp] theorem modMir_ctxs : (s.modMir c f).ctxs = s.ctxs := rfl
@[simp] theorem modMir_vault : (s.modMir c f).vault = s.vault := rfl
@[simp] theorem modMir_rings : (s.modMir c f).rings = s.rings := rfl
@[simp] theorem modMir_sched : (s.modMir c f).sched = s.sched := rfl
@[simp] theorem modMir_slices : (s.modMir c f).slices = s.slices := rfl
@[simp] theorem modMir_dma : (s.modMir c f).dma = s.dma := rfl
@[simp] theorem modMir_tick : (s.modMir c f).tick = s.tick := rfl
@[simp] theorem modMir_fab : (s.modMir c f).fab = s.fab := rfl
@[simp] theorem modMir_cle : (s.modMir c f).cle = s.cle := rfl
@[simp] theorem modMir_jobs : (s.modMir c f).jobs = s.jobs := rfl
@[simp] theorem modMir_jobChanges : (s.modMir c f).jobChanges = s.jobChanges := rfl
@[simp] theorem modMir_pvs : (s.modMir c f).pvs = s.pvs := rfl
@[simp] theorem modMir_mir : (s.modMir c f).mir = { s.mir with ctxs := vmod s.mir.ctxs c f } := rfl
@[simp] theorem modMir_ras : (s.modMir c f).ras = s.ras := rfl
@[simp] theorem modMir_boot : (s.modMir c f).boot = s.boot := rfl
@[simp] theorem modMir_power : (s.modMir c f).power = s.power := rfl
@[simp] theorem modMir_pcie : (s.modMir c f).pcie = s.pcie := rfl
@[simp] theorem modMir_mgt : (s.modMir c f).mgt = s.mgt := rfl
@[simp] theorem modMir_serve : (s.modMir c f).serve = s.serve := rfl
@[simp] theorem modMir_cfgErr : (s.modMir c f).cfgErr = s.cfgErr := rfl
@[simp] theorem modMir_hostBank : (s.modMir c f).hostBank = s.hostBank := rfl
@[simp] theorem modMir_mgtBank : (s.modMir c f).mgtBank = s.mgtBank := rfl
@[simp] theorem modMir_fwBanks : (s.modMir c f).fwBanks = s.fwBanks := rfl
@[simp] theorem modMir_free : (s.modMir c f).free = s.free := rfl
@[simp] theorem modMir_pending : (s.modMir c f).pending = s.pending := rfl
end

@[simp] theorem mirOf_modMir_self (c : CtxId) (f) : (s.modMir c f).mirOf c = f (s.mirOf c) := vmod_get_self _ _ _
theorem mirOf_modMir_ne {c d : CtxId} (f) (h : c ≠ d) : (s.modMir c f).mirOf d = s.mirOf d := vmod_get_ne _ _ h

/-! ### modPv -/

section
variable (c : CtxId) (f : Pv → Pv)
@[simp] theorem modPv_mode : (s.modPv c f).mode = s.mode := rfl
@[simp] theorem modPv_mem : (s.modPv c f).mem = s.mem := rfl
@[simp] theorem modPv_memUnit : (s.modPv c f).memUnit = s.memUnit := rfl
@[simp] theorem modPv_ctxs : (s.modPv c f).ctxs = s.ctxs := rfl
@[simp] theorem modPv_vault : (s.modPv c f).vault = s.vault := rfl
@[simp] theorem modPv_rings : (s.modPv c f).rings = s.rings := rfl
@[simp] theorem modPv_sched : (s.modPv c f).sched = s.sched := rfl
@[simp] theorem modPv_slices : (s.modPv c f).slices = s.slices := rfl
@[simp] theorem modPv_dma : (s.modPv c f).dma = s.dma := rfl
@[simp] theorem modPv_tick : (s.modPv c f).tick = s.tick := rfl
@[simp] theorem modPv_fab : (s.modPv c f).fab = s.fab := rfl
@[simp] theorem modPv_cle : (s.modPv c f).cle = s.cle := rfl
@[simp] theorem modPv_jobs : (s.modPv c f).jobs = s.jobs := rfl
@[simp] theorem modPv_jobChanges : (s.modPv c f).jobChanges = s.jobChanges := rfl
@[simp] theorem modPv_pvs : (s.modPv c f).pvs = vmod s.pvs c f := rfl
@[simp] theorem modPv_mir : (s.modPv c f).mir = s.mir := rfl
@[simp] theorem modPv_ras : (s.modPv c f).ras = s.ras := rfl
@[simp] theorem modPv_boot : (s.modPv c f).boot = s.boot := rfl
@[simp] theorem modPv_power : (s.modPv c f).power = s.power := rfl
@[simp] theorem modPv_pcie : (s.modPv c f).pcie = s.pcie := rfl
@[simp] theorem modPv_mgt : (s.modPv c f).mgt = s.mgt := rfl
@[simp] theorem modPv_serve : (s.modPv c f).serve = s.serve := rfl
@[simp] theorem modPv_cfgErr : (s.modPv c f).cfgErr = s.cfgErr := rfl
@[simp] theorem modPv_hostBank : (s.modPv c f).hostBank = s.hostBank := rfl
@[simp] theorem modPv_mgtBank : (s.modPv c f).mgtBank = s.mgtBank := rfl
@[simp] theorem modPv_fwBanks : (s.modPv c f).fwBanks = s.fwBanks := rfl
@[simp] theorem modPv_free : (s.modPv c f).free = s.free := rfl
@[simp] theorem modPv_pending : (s.modPv c f).pending = s.pending := rfl
end

@[simp] theorem pv_modPv_self (c : CtxId) (f) : (s.modPv c f).pv c = f (s.pv c) := vmod_get_self _ _ _
theorem pv_modPv_ne {c d : CtxId} (f) (h : c ≠ d) : (s.modPv c f).pv d = s.pv d := vmod_get_ne _ _ h

/-! ### modSched -/

section
variable (f : Sched → Sched)
@[simp] theorem modSched_mode : (s.modSched f).mode = s.mode := rfl
@[simp] theorem modSched_mem : (s.modSched f).mem = s.mem := rfl
@[simp] theorem modSched_memUnit : (s.modSched f).memUnit = s.memUnit := rfl
@[simp] theorem modSched_ctxs : (s.modSched f).ctxs = s.ctxs := rfl
@[simp] theorem modSched_vault : (s.modSched f).vault = s.vault := rfl
@[simp] theorem modSched_rings : (s.modSched f).rings = s.rings := rfl
@[simp] theorem modSched_sched : (s.modSched f).sched = f s.sched := rfl
@[simp] theorem modSched_slices : (s.modSched f).slices = s.slices := rfl
@[simp] theorem modSched_dma : (s.modSched f).dma = s.dma := rfl
@[simp] theorem modSched_tick : (s.modSched f).tick = s.tick := rfl
@[simp] theorem modSched_fab : (s.modSched f).fab = s.fab := rfl
@[simp] theorem modSched_cle : (s.modSched f).cle = s.cle := rfl
@[simp] theorem modSched_jobs : (s.modSched f).jobs = s.jobs := rfl
@[simp] theorem modSched_jobChanges : (s.modSched f).jobChanges = s.jobChanges := rfl
@[simp] theorem modSched_pvs : (s.modSched f).pvs = s.pvs := rfl
@[simp] theorem modSched_mir : (s.modSched f).mir = s.mir := rfl
@[simp] theorem modSched_ras : (s.modSched f).ras = s.ras := rfl
@[simp] theorem modSched_boot : (s.modSched f).boot = s.boot := rfl
@[simp] theorem modSched_power : (s.modSched f).power = s.power := rfl
@[simp] theorem modSched_pcie : (s.modSched f).pcie = s.pcie := rfl
@[simp] theorem modSched_mgt : (s.modSched f).mgt = s.mgt := rfl
@[simp] theorem modSched_serve : (s.modSched f).serve = s.serve := rfl
@[simp] theorem modSched_cfgErr : (s.modSched f).cfgErr = s.cfgErr := rfl
@[simp] theorem modSched_hostBank : (s.modSched f).hostBank = s.hostBank := rfl
@[simp] theorem modSched_mgtBank : (s.modSched f).mgtBank = s.mgtBank := rfl
@[simp] theorem modSched_fwBanks : (s.modSched f).fwBanks = s.fwBanks := rfl
@[simp] theorem modSched_free : (s.modSched f).free = s.free := rfl
@[simp] theorem modSched_pending : (s.modSched f).pending = s.pending := rfl
end

/-! ### modRas -/

section
variable (f : Ras → Ras)
@[simp] theorem modRas_mode : (s.modRas f).mode = s.mode := rfl
@[simp] theorem modRas_mem : (s.modRas f).mem = s.mem := rfl
@[simp] theorem modRas_memUnit : (s.modRas f).memUnit = s.memUnit := rfl
@[simp] theorem modRas_ctxs : (s.modRas f).ctxs = s.ctxs := rfl
@[simp] theorem modRas_vault : (s.modRas f).vault = s.vault := rfl
@[simp] theorem modRas_rings : (s.modRas f).rings = s.rings := rfl
@[simp] theorem modRas_sched : (s.modRas f).sched = s.sched := rfl
@[simp] theorem modRas_slices : (s.modRas f).slices = s.slices := rfl
@[simp] theorem modRas_dma : (s.modRas f).dma = s.dma := rfl
@[simp] theorem modRas_tick : (s.modRas f).tick = s.tick := rfl
@[simp] theorem modRas_fab : (s.modRas f).fab = s.fab := rfl
@[simp] theorem modRas_cle : (s.modRas f).cle = s.cle := rfl
@[simp] theorem modRas_jobs : (s.modRas f).jobs = s.jobs := rfl
@[simp] theorem modRas_jobChanges : (s.modRas f).jobChanges = s.jobChanges := rfl
@[simp] theorem modRas_pvs : (s.modRas f).pvs = s.pvs := rfl
@[simp] theorem modRas_mir : (s.modRas f).mir = s.mir := rfl
@[simp] theorem modRas_ras : (s.modRas f).ras = f s.ras := rfl
@[simp] theorem modRas_boot : (s.modRas f).boot = s.boot := rfl
@[simp] theorem modRas_power : (s.modRas f).power = s.power := rfl
@[simp] theorem modRas_pcie : (s.modRas f).pcie = s.pcie := rfl
@[simp] theorem modRas_mgt : (s.modRas f).mgt = s.mgt := rfl
@[simp] theorem modRas_serve : (s.modRas f).serve = s.serve := rfl
@[simp] theorem modRas_cfgErr : (s.modRas f).cfgErr = s.cfgErr := rfl
@[simp] theorem modRas_hostBank : (s.modRas f).hostBank = s.hostBank := rfl
@[simp] theorem modRas_mgtBank : (s.modRas f).mgtBank = s.mgtBank := rfl
@[simp] theorem modRas_fwBanks : (s.modRas f).fwBanks = s.fwBanks := rfl
@[simp] theorem modRas_free : (s.modRas f).free = s.free := rfl
@[simp] theorem modRas_pending : (s.modRas f).pending = s.pending := rfl
end

/-! ### modMem -/

section
variable (f : MemUnit → MemUnit)
@[simp] theorem modMem_mode : (s.modMem f).mode = s.mode := rfl
@[simp] theorem modMem_mem : (s.modMem f).mem = s.mem := rfl
@[simp] theorem modMem_memUnit : (s.modMem f).memUnit = f s.memUnit := rfl
@[simp] theorem modMem_ctxs : (s.modMem f).ctxs = s.ctxs := rfl
@[simp] theorem modMem_vault : (s.modMem f).vault = s.vault := rfl
@[simp] theorem modMem_rings : (s.modMem f).rings = s.rings := rfl
@[simp] theorem modMem_sched : (s.modMem f).sched = s.sched := rfl
@[simp] theorem modMem_slices : (s.modMem f).slices = s.slices := rfl
@[simp] theorem modMem_dma : (s.modMem f).dma = s.dma := rfl
@[simp] theorem modMem_tick : (s.modMem f).tick = s.tick := rfl
@[simp] theorem modMem_fab : (s.modMem f).fab = s.fab := rfl
@[simp] theorem modMem_cle : (s.modMem f).cle = s.cle := rfl
@[simp] theorem modMem_jobs : (s.modMem f).jobs = s.jobs := rfl
@[simp] theorem modMem_jobChanges : (s.modMem f).jobChanges = s.jobChanges := rfl
@[simp] theorem modMem_pvs : (s.modMem f).pvs = s.pvs := rfl
@[simp] theorem modMem_mir : (s.modMem f).mir = s.mir := rfl
@[simp] theorem modMem_ras : (s.modMem f).ras = s.ras := rfl
@[simp] theorem modMem_boot : (s.modMem f).boot = s.boot := rfl
@[simp] theorem modMem_power : (s.modMem f).power = s.power := rfl
@[simp] theorem modMem_pcie : (s.modMem f).pcie = s.pcie := rfl
@[simp] theorem modMem_mgt : (s.modMem f).mgt = s.mgt := rfl
@[simp] theorem modMem_serve : (s.modMem f).serve = s.serve := rfl
@[simp] theorem modMem_cfgErr : (s.modMem f).cfgErr = s.cfgErr := rfl
@[simp] theorem modMem_hostBank : (s.modMem f).hostBank = s.hostBank := rfl
@[simp] theorem modMem_mgtBank : (s.modMem f).mgtBank = s.mgtBank := rfl
@[simp] theorem modMem_fwBanks : (s.modMem f).fwBanks = s.fwBanks := rfl
@[simp] theorem modMem_free : (s.modMem f).free = s.free := rfl
@[simp] theorem modMem_pending : (s.modMem f).pending = s.pending := rfl
end

/-! ### setMem -/

section
variable (m : List Host.Cell)
@[simp] theorem setMem_mode : (s.setMem m).mode = s.mode := rfl
@[simp] theorem setMem_mem : (s.setMem m).mem = m := rfl
@[simp] theorem setMem_memUnit : (s.setMem m).memUnit = s.memUnit := rfl
@[simp] theorem setMem_ctxs : (s.setMem m).ctxs = s.ctxs := rfl
@[simp] theorem setMem_vault : (s.setMem m).vault = s.vault := rfl
@[simp] theorem setMem_rings : (s.setMem m).rings = s.rings := rfl
@[simp] theorem setMem_sched : (s.setMem m).sched = s.sched := rfl
@[simp] theorem setMem_slices : (s.setMem m).slices = s.slices := rfl
@[simp] theorem setMem_dma : (s.setMem m).dma = s.dma := rfl
@[simp] theorem setMem_tick : (s.setMem m).tick = s.tick := rfl
@[simp] theorem setMem_fab : (s.setMem m).fab = s.fab := rfl
@[simp] theorem setMem_cle : (s.setMem m).cle = s.cle := rfl
@[simp] theorem setMem_jobs : (s.setMem m).jobs = s.jobs := rfl
@[simp] theorem setMem_jobChanges : (s.setMem m).jobChanges = s.jobChanges := rfl
@[simp] theorem setMem_pvs : (s.setMem m).pvs = s.pvs := rfl
@[simp] theorem setMem_mir : (s.setMem m).mir = s.mir := rfl
@[simp] theorem setMem_ras : (s.setMem m).ras = s.ras := rfl
@[simp] theorem setMem_boot : (s.setMem m).boot = s.boot := rfl
@[simp] theorem setMem_power : (s.setMem m).power = s.power := rfl
@[simp] theorem setMem_pcie : (s.setMem m).pcie = s.pcie := rfl
@[simp] theorem setMem_mgt : (s.setMem m).mgt = s.mgt := rfl
@[simp] theorem setMem_serve : (s.setMem m).serve = s.serve := rfl
@[simp] theorem setMem_cfgErr : (s.setMem m).cfgErr = s.cfgErr := rfl
@[simp] theorem setMem_hostBank : (s.setMem m).hostBank = s.hostBank := rfl
@[simp] theorem setMem_mgtBank : (s.setMem m).mgtBank = s.mgtBank := rfl
@[simp] theorem setMem_fwBanks : (s.setMem m).fwBanks = s.fwBanks := rfl
@[simp] theorem setMem_free : (s.setMem m).free = s.free := rfl
@[simp] theorem setMem_pending : (s.setMem m).pending = s.pending := rfl
end

end Sys2Proof.Machine
end

