-- ==== Sys2Proof/Laws/Frames.lean ====
section
/-! SUPPORT. What shared operations leave unchanged: ends of commands (`Ends`), placing (`Places`), events, counts and records
(`Tells`), and fabric packets sent (`Sends`). -/
namespace Sys2Proof.Machine

/-- What the end of a command leaves of a context: all but its use of the shadow pool, its debt, its weight slots and
its records of steps. -/
def Ctx.core (x : Ctx) : Ctx := { x with shUse := 0, debt := 0, steps := [], fenceEnds := [], wslots := Vector.replicate 8 {} }

/-- What the end of a command leaves of GSC: the cores and the settings, not commands, plan, semaphores, graphs and runs. -/
def Sched.core (g : Sched) : Sched :=
  { preLock := g.preLock, protectK := g.protectK, liveMax := g.liveMax, preWait := g.preWait, cores := g.cores, svcRoots := g.svcRoots }

/-- What the end of a command leaves of a page. -/
def Page.shape (p : Page) : Page := { p with zero := true, poison := false, lost := false, hint := .preferT2, nextHint := none }

/-- What the end of a command leaves of TMU: all but the frames to scrub, the frames still read, the pending faults with the hints
that wait for them, and the frames of graphs. -/
def MemUnit.core (m : MemUnit) : MemUnit := { m with scrub := 0, faults := [], held := [], fwGraphs := 0, pages := m.pages.map Page.shape }

theorem core_settle (m : MemUnit) : m.settle.core = m.core := by
  have e : (m.settle.pages).map Page.shape = m.pages.map Page.shape := by
    unfold MemUnit.settle
    rw [List.map_map]
    apply List.map_congr_left
    intro p _
    dsimp only [Function.comp]
    split <;> rfl
  unfold MemUnit.core
  rw [e]; rfl

theorem core_without (m : MemUnit) (cid : Nat) : (m.without cid).core = m.core :=
  (core_settle { m with faults := m.faults.filter fun f => f.cid != cid })

/-- What the end of a command leaves of a front-end queue: its owner and its place, not its bytes. -/
def FeQueue.owned (q : FeQueue) : FeQueue := { q with prod := 0, cons := 0, bytes := [], pend := [] }

/-- What the end of a command leaves of the front end and the serving loop: all but the bytes in the queues. -/
def Serve.core (v : Serve) : Serve := { v with queues := v.queues.map FeQueue.owned }

/-- Ends of commands, with all that follows, leave these unchanged. -/
structure Ends (s t : State) : Prop where
  mode : t.mode = s.mode
  vault : t.vault = s.vault
  tick : t.tick = s.tick
  jobs : t.jobs = s.jobs
  jobChanges : t.jobChanges = s.jobChanges
  pvs : t.pvs = s.pvs
  mir : t.mir = s.mir
  boot : t.boot = s.boot
  power : t.power = s.power
  serve : t.serve.core = s.serve.core
  cfgErr : t.cfgErr = s.cfgErr
  pending : t.pending = s.pending
  ctx : ∀ c, (t.ctx c).core = (s.ctx c).core
  sched : t.sched.core = s.sched.core
  memUnit : t.memUnit.core = s.memUnit.core

theorem Ends.rfl' (s : State) : Ends s s := ⟨rfl, rfl, rfl, rfl, rfl, rfl, rfl, rfl, rfl, rfl, rfl, rfl, fun _ => rfl, rfl, rfl⟩
theorem Ends.trans {s t u : State} (h : Ends s t) (k : Ends t u) : Ends s u :=
  ⟨k.mode.trans h.mode, k.vault.trans h.vault, k.tick.trans h.tick, k.jobs.trans h.jobs, k.jobChanges.trans h.jobChanges, k.pvs.trans h.pvs, k.mir.trans h.mir, k.boot.trans h.boot, k.power.trans h.power, k.serve.trans h.serve, k.cfgErr.trans h.cfgErr, k.pending.trans h.pending, fun c => (k.ctx c).trans (h.ctx c), k.sched.trans h.sched, k.memUnit.trans h.memUnit⟩
theorem Ends.put {s t : State} (h : Ends s t) {x1 x5 x7 x8 x10 x11 x16 x19 x20 x23 x24 x25 x26} :
    Ends s (State.mk t.mode x1 t.memUnit t.ctxs t.vault x5 t.sched x7 x8 t.tick x10 x11 t.jobs t.jobChanges t.pvs t.mir x16 t.boot t.power x19 x20 t.serve t.cfgErr x23 x24 x25 x26 t.pending) :=
  ⟨h.mode, h.vault, h.tick, h.jobs, h.jobChanges, h.pvs, h.mir, h.boot, h.power, h.serve, h.cfgErr, h.pending, h.ctx, h.sched, h.memUnit⟩
theorem ends_modCtx {s t : State} (h : Ends s t) (c : CtxId) (f : Ctx → Ctx) (hf : ∀ x, (f x).core = x.core) : Ends s (t.modCtx c f) :=
  ⟨h.mode, h.vault, h.tick, h.jobs, h.jobChanges, h.pvs, h.mir, h.boot, h.power, h.serve, h.cfgErr, h.pending, fun d => by
    by_cases e : c = d
    · subst e; rw [ctx_modCtx_self, hf]; exact h.ctx c
    · rw [ctx_modCtx_ne t f e]; exact h.ctx d, h.sched, h.memUnit⟩
theorem ends_modSched {s t : State} (h : Ends s t) (f : Sched → Sched) (hf : ∀ g, (f g).core = g.core) : Ends s (t.modSched f) :=
  ⟨h.mode, h.vault, h.tick, h.jobs, h.jobChanges, h.pvs, h.mir, h.boot, h.power, h.serve, h.cfgErr, h.pending, h.ctx,
    (hf _).trans h.sched, h.memUnit⟩
theorem ends_modMem {s t : State} (h : Ends s t) (f : MemUnit → MemUnit) (hf : ∀ g, (f g).core = g.core) : Ends s (t.modMem f) :=
  ⟨h.mode, h.vault, h.tick, h.jobs, h.jobChanges, h.pvs, h.mir, h.boot, h.power, h.serve, h.cfgErr, h.pending, h.ctx,
    h.sched, (hf _).trans h.memUnit⟩
theorem ends_modPages {s t : State} (h : Ends s t) (q : Page → Bool) (f : Page → Page) (hf : ∀ p, (f p).shape = p.shape) :
    Ends s (t.modPages q f) :=
  ends_modMem h _ fun m => by
    have e : (m.pages.map fun p => if q p then f p else p).map Page.shape = m.pages.map Page.shape := by
      rw [List.map_map]
      apply List.map_congr_left
      intro p _
      dsimp only [Function.comp]
      split
      · exact hf p
      · rfl
    simp [MemUnit.core, e]
/-- A state that has a name on the way. -/
theorem Ends.named {s z : State} {p : Prop} (h : Ends s z) (k : Ends s z → p) : p := k h
theorem ends_setMem {s t : State} (h : Ends s t) (m) : Ends s (t.setMem m) := h.put

theorem Ends.foldl {s t : State} {α : Type} {f : State → α → State} {l : List α} (h : Ends s t)
    (hf : ∀ a x, Ends s a → Ends s (f a x)) : Ends s (l.foldl f t) := by
  induction l generalizing t with
  | nil => exact h
  | cons x l ih => exact ih (hf _ _ h)
/-- The same of a state with something beside it. -/
def EndsP {β : Type} (s : State) (p : State × β) : Prop := Ends s p.1
/-- The same of a state behind something. -/
def EndsQ {β : Type} (s : State) (p : β × State) : Prop := Ends s p.2
/-- The same of a state, if there is one. -/
def EndsO (s : State) (o : Option State) : Prop := ∀ u, o = some u → Ends s u
theorem EndsP.mk {β : Type} {s u : State} {i : β} (h : Ends s u) : EndsP s (u, i) := h
theorem EndsP.elim {β : Type} {s u : State} {p : State × β} {i : β} (e : p = (u, i)) (h : EndsP s p) : Ends s u := by subst e; exact h
theorem EndsP.fst {β : Type} {s : State} {p : State × β} (h : EndsP s p) : Ends s p.1 := h
theorem EndsP.foldl {s : State} {α β : Type} {f : State × β → α → State × β} {l : List α} {p : State × β} (h : EndsP s p)
    (hf : ∀ a x, EndsP s a → EndsP s (f a x)) : EndsP s (l.foldl f p) := by
  induction l generalizing p with
  | nil => exact h
  | cons x l ih => exact ih (hf _ _ h)
theorem EndsQ.mk {β : Type} {s u : State} {i : β} (h : Ends s u) : EndsQ s (i, u) := h
theorem EndsQ.elim {β : Type} {s u : State} {p : β × State} {i : β} (e : p = (i, u)) (h : EndsQ s p) : Ends s u := by subst e; exact h
theorem EndsQ.snd {β : Type} {s : State} {p : β × State} (h : EndsQ s p) : Ends s p.2 := h
theorem EndsO.none {s : State} : EndsO s Option.none := fun _ h => nomatch h
theorem EndsO.some {s u : State} (h : Ends s u) : EndsO s (Option.some u) := fun _ e => by cases e; exact h
theorem EndsO.elim {s u : State} {o : Option State} (e : o = Option.some u) (h : EndsO s o) : Ends s u := h u e
theorem EndsO.getD {s t : State} {o : Option State} (h : EndsO s o) (k : Ends s t) : Ends s (o.getD t) := by
  cases o with
  | none => exact k
  | some u => exact h u rfl

/-- Placing READY commands leaves these unchanged. -/
structure Places (s t : State) : Prop where
  mode : t.mode = s.mode
  mem : t.mem = s.mem
  memUnit : t.memUnit = s.memUnit
  ctxs : t.ctxs = s.ctxs
  vault : t.vault = s.vault
  rings : t.rings = s.rings
  slices : t.slices = s.slices
  dma : t.dma = s.dma
  fab : t.fab = s.fab
  cle : t.cle = s.cle
  jobs : t.jobs = s.jobs
  jobChanges : t.jobChanges = s.jobChanges
  pvs : t.pvs = s.pvs
  mir : t.mir = s.mir
  ras : t.ras = s.ras
  boot : t.boot = s.boot
  power : t.power = s.power
  pcie : t.pcie = s.pcie
  mgt : t.mgt = s.mgt
  serve : t.serve = s.serve
  cfgErr : t.cfgErr = s.cfgErr
  free : t.free = s.free
  pending : t.pending = s.pending

theorem Places.rfl' (s : State) : Places s s := ⟨rfl, rfl, rfl, rfl, rfl, rfl, rfl, rfl, rfl, rfl, rfl, rfl, rfl, rfl, rfl, rfl, rfl, rfl, rfl, rfl, rfl, rfl, rfl⟩
theorem Places.trans {s t u : State} (h : Places s t) (k : Places t u) : Places s u :=
  ⟨k.mode.trans h.mode, k.mem.trans h.mem, k.memUnit.trans h.memUnit, k.ctxs.trans h.ctxs, k.vault.trans h.vault, k.rings.trans h.rings, k.slices.trans h.slices, k.dma.trans h.dma, k.fab.trans h.fab, k.cle.trans h.cle, k.jobs.trans h.jobs, k.jobChanges.trans h.jobChanges, k.pvs.trans h.pvs, k.mir.trans h.mir, k.ras.trans h.ras, k.boot.trans h.boot, k.power.trans h.power, k.pcie.trans h.pcie, k.mgt.trans h.mgt, k.serve.trans h.serve, k.cfgErr.trans h.cfgErr, k.free.trans h.free, k.pending.trans h.pending⟩
theorem Places.put {s t : State} (h : Places s t) {x6 x9 x23 x24 x25} :
    Places s (State.mk t.mode t.mem t.memUnit t.ctxs t.vault t.rings x6 t.slices t.dma x9 t.fab t.cle t.jobs t.jobChanges t.pvs t.mir t.ras t.boot t.power t.pcie t.mgt t.serve t.cfgErr x23 x24 x25 t.free t.pending) :=
  ⟨h.mode, h.mem, h.memUnit, h.ctxs, h.vault, h.rings, h.slices, h.dma, h.fab, h.cle, h.jobs, h.jobChanges, h.pvs, h.mir, h.ras, h.boot, h.power, h.pcie, h.mgt, h.serve, h.cfgErr, h.free, h.pending⟩


theorem Places.foldl {s t : State} {α : Type} {f : State → α → State} {l : List α} (h : Places s t)
    (hf : ∀ a x, Places s a → Places s (f a x)) : Places s (l.foldl f t) := by
  induction l generalizing t with
  | nil => exact h
  | cons x l ih => exact ih (hf _ _ h)
/-- The same of a state with something beside it. -/
def PlacesP {β : Type} (s : State) (p : State × β) : Prop := Places s p.1
/-- The same of a state behind something. -/
def PlacesQ {β : Type} (s : State) (p : β × State) : Prop := Places s p.2
/-- The same of a state, if there is one. -/
def PlacesO (s : State) (o : Option State) : Prop := ∀ u, o = some u → Places s u
theorem PlacesP.mk {β : Type} {s u : State} {i : β} (h : Places s u) : PlacesP s (u, i) := h
theorem PlacesP.elim {β : Type} {s u : State} {p : State × β} {i : β} (e : p = (u, i)) (h : PlacesP s p) : Places s u := by subst e; exact h
theorem PlacesP.fst {β : Type} {s : State} {p : State × β} (h : PlacesP s p) : Places s p.1 := h
theorem PlacesP.foldl {s : State} {α β : Type} {f : State × β → α → State × β} {l : List α} {p : State × β} (h : PlacesP s p)
    (hf : ∀ a x, PlacesP s a → PlacesP s (f a x)) : PlacesP s (l.foldl f p) := by
  induction l generalizing p with
  | nil => exact h
  | cons x l ih => exact ih (hf _ _ h)
theorem PlacesQ.mk {β : Type} {s u : State} {i : β} (h : Places s u) : PlacesQ s (i, u) := h
theorem PlacesQ.elim {β : Type} {s u : State} {p : β × State} {i : β} (e : p = (i, u)) (h : PlacesQ s p) : Places s u := by subst e; exact h
theorem PlacesQ.snd {β : Type} {s : State} {p : β × State} (h : PlacesQ s p) : Places s p.2 := h
theorem PlacesO.none {s : State} : PlacesO s Option.none := fun _ h => nomatch h
theorem PlacesO.some {s u : State} (h : Places s u) : PlacesO s (Option.some u) := fun _ e => by cases e; exact h
theorem PlacesO.elim {s u : State} {o : Option State} (e : o = Option.some u) (h : PlacesO s o) : Places s u := h u e
theorem PlacesO.getD {s t : State} {o : Option State} (h : PlacesO s o) (k : Places s t) : Places s (o.getD t) := by
  cases o with
  | none => exact k
  | some u => exact h u rfl

/-- Events, counts, alarms and recorded errors leave these unchanged. -/
structure Tells (s t : State) : Prop where
  mode : t.mode = s.mode
  memUnit : t.memUnit = s.memUnit
  ctxs : t.ctxs = s.ctxs
  vault : t.vault = s.vault
  rings : t.rings = s.rings
  sched : t.sched = s.sched
  slices : t.slices = s.slices
  dma : t.dma = s.dma
  tick : t.tick = s.tick
  fab : t.fab = s.fab
  cle : t.cle = s.cle
  jobs : t.jobs = s.jobs
  jobChanges : t.jobChanges = s.jobChanges
  pvs : t.pvs = s.pvs
  mir : t.mir = s.mir
  boot : t.boot = s.boot
  power : t.power = s.power
  serve : t.serve = s.serve
  pending : t.pending = s.pending

theorem Tells.rfl' (s : State) : Tells s s := ⟨rfl, rfl, rfl, rfl, rfl, rfl, rfl, rfl, rfl, rfl, rfl, rfl, rfl, rfl, rfl, rfl, rfl, rfl, rfl⟩
theorem Tells.trans {s t u : State} (h : Tells s t) (k : Tells t u) : Tells s u :=
  ⟨k.mode.trans h.mode, k.memUnit.trans h.memUnit, k.ctxs.trans h.ctxs, k.vault.trans h.vault, k.rings.trans h.rings, k.sched.trans h.sched, k.slices.trans h.slices, k.dma.trans h.dma, k.tick.trans h.tick, k.fab.trans h.fab, k.cle.trans h.cle, k.jobs.trans h.jobs, k.jobChanges.trans h.jobChanges, k.pvs.trans h.pvs, k.mir.trans h.mir, k.boot.trans h.boot, k.power.trans h.power, k.serve.trans h.serve, k.pending.trans h.pending⟩
theorem Tells.put {s t : State} (h : Tells s t) {x1 x16 x19 x20 x22 x23 x24 x25 x26} :
    Tells s (State.mk t.mode x1 t.memUnit t.ctxs t.vault t.rings t.sched t.slices t.dma t.tick t.fab t.cle t.jobs t.jobChanges t.pvs t.mir x16 t.boot t.power x19 x20 t.serve x22 x23 x24 x25 x26 t.pending) :=
  ⟨h.mode, h.memUnit, h.ctxs, h.vault, h.rings, h.sched, h.slices, h.dma, h.tick, h.fab, h.cle, h.jobs, h.jobChanges, h.pvs, h.mir, h.boot, h.power, h.serve, h.pending⟩
theorem tells_setMem {s t : State} (h : Tells s t) (m) : Tells s (t.setMem m) := h.put

theorem Tells.foldl {s t : State} {α : Type} {f : State → α → State} {l : List α} (h : Tells s t)
    (hf : ∀ a x, Tells s a → Tells s (f a x)) : Tells s (l.foldl f t) := by
  induction l generalizing t with
  | nil => exact h
  | cons x l ih => exact ih (hf _ _ h)
/-- The same of a state with something beside it. -/
def TellsP {β : Type} (s : State) (p : State × β) : Prop := Tells s p.1
/-- The same of a state behind something. -/
def TellsQ {β : Type} (s : State) (p : β × State) : Prop := Tells s p.2
/-- The same of a state, if there is one. -/
def TellsO (s : State) (o : Option State) : Prop := ∀ u, o = some u → Tells s u
theorem TellsP.mk {β : Type} {s u : State} {i : β} (h : Tells s u) : TellsP s (u, i) := h
theorem TellsP.elim {β : Type} {s u : State} {p : State × β} {i : β} (e : p = (u, i)) (h : TellsP s p) : Tells s u := by subst e; exact h
theorem TellsP.fst {β : Type} {s : State} {p : State × β} (h : TellsP s p) : Tells s p.1 := h
theorem TellsP.foldl {s : State} {α β : Type} {f : State × β → α → State × β} {l : List α} {p : State × β} (h : TellsP s p)
    (hf : ∀ a x, TellsP s a → TellsP s (f a x)) : TellsP s (l.foldl f p) := by
  induction l generalizing p with
  | nil => exact h
  | cons x l ih => exact ih (hf _ _ h)
theorem TellsQ.mk {β : Type} {s u : State} {i : β} (h : Tells s u) : TellsQ s (i, u) := h
theorem TellsQ.elim {β : Type} {s u : State} {p : β × State} {i : β} (e : p = (i, u)) (h : TellsQ s p) : Tells s u := by subst e; exact h
theorem TellsQ.snd {β : Type} {s : State} {p : β × State} (h : TellsQ s p) : Tells s p.2 := h
theorem TellsO.none {s : State} : TellsO s Option.none := fun _ h => nomatch h
theorem TellsO.some {s u : State} (h : Tells s u) : TellsO s (Option.some u) := fun _ e => by cases e; exact h
theorem TellsO.elim {s u : State} {o : Option State} (e : o = Option.some u) (h : TellsO s o) : Tells s u := h u e
theorem TellsO.getD {s t : State} {o : Option State} (h : TellsO s o) (k : Tells s t) : Tells s (o.getD t) := by
  cases o with
  | none => exact k
  | some u => exact h u rfl

/-- Packets sent leave all but the fabric unchanged. -/
structure Sends (s t : State) : Prop where
  mode : t.mode = s.mode
  mem : t.mem = s.mem
  memUnit : t.memUnit = s.memUnit
  ctxs : t.ctxs = s.ctxs
  vault : t.vault = s.vault
  rings : t.rings = s.rings
  sched : t.sched = s.sched
  slices : t.slices = s.slices
  dma : t.dma = s.dma
  tick : t.tick = s.tick
  cle : t.cle = s.cle
  jobs : t.jobs = s.jobs
  jobChanges : t.jobChanges = s.jobChanges
  pvs : t.pvs = s.pvs
  mir : t.mir = s.mir
  ras : t.ras = s.ras
  boot : t.boot = s.boot
  power : t.power = s.power
  pcie : t.pcie = s.pcie
  mgt : t.mgt = s.mgt
  serve : t.serve = s.serve
  cfgErr : t.cfgErr = s.cfgErr
  hostBank : t.hostBank = s.hostBank
  mgtBank : t.mgtBank = s.mgtBank
  fwBanks : t.fwBanks = s.fwBanks
  free : t.free = s.free
  pending : t.pending = s.pending

theorem Sends.rfl' (s : State) : Sends s s := ⟨rfl, rfl, rfl, rfl, rfl, rfl, rfl, rfl, rfl, rfl, rfl, rfl, rfl, rfl, rfl, rfl, rfl, rfl, rfl, rfl, rfl, rfl, rfl, rfl, rfl, rfl, rfl⟩
theorem Sends.trans {s t u : State} (h : Sends s t) (k : Sends t u) : Sends s u :=
  ⟨k.mode.trans h.mode, k.mem.trans h.mem, k.memUnit.trans h.memUnit, k.ctxs.trans h.ctxs, k.vault.trans h.vault, k.rings.trans h.rings, k.sched.trans h.sched, k.slices.trans h.slices, k.dma.trans h.dma, k.tick.trans h.tick, k.cle.trans h.cle, k.jobs.trans h.jobs, k.jobChanges.trans h.jobChanges, k.pvs.trans h.pvs, k.mir.trans h.mir, k.ras.trans h.ras, k.boot.trans h.boot, k.power.trans h.power, k.pcie.trans h.pcie, k.mgt.trans h.mgt, k.serve.trans h.serve, k.cfgErr.trans h.cfgErr, k.hostBank.trans h.hostBank, k.mgtBank.trans h.mgtBank, k.fwBanks.trans h.fwBanks, k.free.trans h.free, k.pending.trans h.pending⟩
theorem Sends.put {s t : State} (h : Sends s t) {x10} :
    Sends s (State.mk t.mode t.mem t.memUnit t.ctxs t.vault t.rings t.sched t.slices t.dma t.tick x10 t.cle t.jobs t.jobChanges t.pvs t.mir t.ras t.boot t.power t.pcie t.mgt t.serve t.cfgErr t.hostBank t.mgtBank t.fwBanks t.free t.pending) :=
  ⟨h.mode, h.mem, h.memUnit, h.ctxs, h.vault, h.rings, h.sched, h.slices, h.dma, h.tick, h.cle, h.jobs, h.jobChanges, h.pvs, h.mir, h.ras, h.boot, h.power, h.pcie, h.mgt, h.serve, h.cfgErr, h.hostBank, h.mgtBank, h.fwBanks, h.free, h.pending⟩


theorem Sends.foldl {s t : State} {α : Type} {f : State → α → State} {l : List α} (h : Sends s t)
    (hf : ∀ a x, Sends s a → Sends s (f a x)) : Sends s (l.foldl f t) := by
  induction l generalizing t with
  | nil => exact h
  | cons x l ih => exact ih (hf _ _ h)
/-- The same of a state with something beside it. -/
def SendsP {β : Type} (s : State) (p : State × β) : Prop := Sends s p.1
/-- The same of a state behind something. -/
def SendsQ {β : Type} (s : State) (p : β × State) : Prop := Sends s p.2
/-- The same of a state, if there is one. -/
def SendsO (s : State) (o : Option State) : Prop := ∀ u, o = some u → Sends s u
theorem SendsP.mk {β : Type} {s u : State} {i : β} (h : Sends s u) : SendsP s (u, i) := h
theorem SendsP.elim {β : Type} {s u : State} {p : State × β} {i : β} (e : p = (u, i)) (h : SendsP s p) : Sends s u := by subst e; exact h
theorem SendsP.fst {β : Type} {s : State} {p : State × β} (h : SendsP s p) : Sends s p.1 := h
theorem SendsP.foldl {s : State} {α β : Type} {f : State × β → α → State × β} {l : List α} {p : State × β} (h : SendsP s p)
    (hf : ∀ a x, SendsP s a → SendsP s (f a x)) : SendsP s (l.foldl f p) := by
  induction l generalizing p with
  | nil => exact h
  | cons x l ih => exact ih (hf _ _ h)
theorem SendsQ.mk {β : Type} {s u : State} {i : β} (h : Sends s u) : SendsQ s (i, u) := h
theorem SendsQ.elim {β : Type} {s u : State} {p : β × State} {i : β} (e : p = (i, u)) (h : SendsQ s p) : Sends s u := by subst e; exact h
theorem SendsQ.snd {β : Type} {s : State} {p : β × State} (h : SendsQ s p) : Sends s p.2 := h
theorem SendsO.none {s : State} : SendsO s Option.none := fun _ h => nomatch h
theorem SendsO.some {s u : State} (h : Sends s u) : SendsO s (Option.some u) := fun _ e => by cases e; exact h
theorem SendsO.elim {s u : State} {o : Option State} (e : o = Option.some u) (h : SendsO s o) : Sends s u := h u e
theorem SendsO.getD {s t : State} {o : Option State} (h : SendsO s o) (k : Sends s t) : Sends s (o.getD t) := by
  cases o with
  | none => exact k
  | some u => exact h u rfl


/-! ### Ends -/

theorem ends_modChan {s t : State} (h : Ends s t) (x1) (x2) : Ends s (State.modChan t x1 x2) := by
  unfold State.modChan
  lift_lets; (with_reducible intro; with_reducible intros; try beta_reduce; try lift_lets); with_reducible (apply Ends.put; assumption)
theorem ends_modQ {s t : State} (h : Ends s t) (n : Nat) (f : FeQueue → FeQueue) (hf : ∀ q, (f q).owned = q.owned) : Ends s (t.modQ n f) :=
  ⟨h.mode, h.vault, h.tick, h.jobs, h.jobChanges, h.pvs, h.mir, h.boot, h.power, by
    have e : (vmod t.serve.queues (Fin.ofNat 64 n) f).map FeQueue.owned = t.serve.queues.map FeQueue.owned := by
      apply Vector.ext
      intro i hi
      rw [Vector.getElem_map, Vector.getElem_map]
      show (((t.serve.queues.set (Fin.ofNat 64 n).val _ (Fin.ofNat 64 n).isLt)[i]'hi)).owned = _
      rw [Vector.getElem_set]
      split
      · rename_i e; subst e; exact hf _
      · rfl
    refine Eq.trans ?_ h.serve
    show Serve.core { t.serve with queues := _ } = _
    unfold Serve.core
    rw [e], h.cfgErr, h.pending, h.ctx, h.sched, h.memUnit⟩
theorem ends_queuePush {s t : State} (h : Ends s t) (n : Nat) (b) : Ends s (t.queuePush n b) := ends_modQ h n _ fun _ => rfl
theorem ends_queueTake {s t : State} (h : Ends s t) (n : Nat) (b) : Ends s (t.queueTake n b) := ends_modQ h n _ fun _ => rfl
theorem ends_writeHost {s t : State} (h : Ends s t) (x1) (x2) : Ends s (State.writeHost t x1 x2) := by
  unfold State.writeHost
  with_reducible (apply ends_setMem; assumption)
theorem ends_clockOf {s t : State} (h : Ends s t) (x1) (x2) : EndsQ s (State.clockOf t x1 x2) := by
  unfold State.clockOf
  with_reducible apply EndsQ.mk; split; with_reducible assumption; split; split; with_reducible (assumption; apply EndsQ.snd; apply EndsQ.mk)
  lift_lets; with_reducible (apply Ends.put; assumption; assumption)
theorem ends_count {s t : State} (h : Ends s t) (x1) (x2) (x3) : Ends s (State.count t x1 x2 x3) := by
  unfold State.count
  with_reducible (apply Ends.put; assumption)
theorem ends_countCancels {s t : State} (h : Ends s t) (x1) : Ends s (State.countCancels t x1) := by
  unfold State.countCancels
  repeat' first
    | with_reducible assumption | with_reducible apply ends_count | with_reducible apply Ends.foldl | with_reducible apply EndsP.foldl
    | (with_reducible apply EndsP.fst; with_reducible apply EndsP.foldl) | (intros; rfl) | (intro m; exact core_without m _) | split
    | ((try lift_lets); intro z; refine Ends.named (s := s) (z := z) ?_ ?_; (try subst z); rotate_left; intro hz; clear_value z)
    | ((try lift_lets); intro z; clear_value z) | (with_reducible intro; with_reducible intros; try beta_reduce) | dsimp only
theorem ends_freePrograms {s t : State} (h : Ends s t) (x1) : Ends s (State.freePrograms t x1) := by
  unfold State.freePrograms
  with_reducible (apply Ends.put; assumption)
theorem ends_advanceQueue {s t : State} (h : Ends s t) (x1) (x2) : Ends s (State.advanceQueue t x1 x2) := by
  induction x2 generalizing t x1 with
  | zero =>
    unfold State.advanceQueue
    repeat' first
      | with_reducible assumption | with_reducible apply ends_modQ | with_reducible apply ends_queuePush | with_reducible apply ends_queueTake
      | (intros; rfl) | (intro m; exact core_without m _) | split
      | ((try lift_lets); intro z; refine Ends.named (s := s) (z := z) ?_ ?_; (try subst z); rotate_left; intro hz; clear_value z)
      | ((try lift_lets); intro z; clear_value z) | (with_reducible intro; with_reducible intros; try beta_reduce) | dsimp only
  | succ n ih =>
    unfold State.advanceQueue
    repeat' first
      | with_reducible assumption | with_reducible apply ends_modQ | with_reducible apply ends_queuePush | with_reducible apply ends_queueTake
      | with_reducible apply ih | (intros; rfl) | (intro m; exact core_without m _) | split
      | ((try lift_lets); intro z; refine Ends.named (s := s) (z := z) ?_ ?_; (try subst z); rotate_left; intro hz; clear_value z)
      | ((try lift_lets); intro z; clear_value z) | (with_reducible intro; with_reducible intros; try beta_reduce) | dsimp only
theorem ends_dropSlots {s t : State} (h : Ends s t) (x1) : Ends s (State.dropSlots t x1) := by
  unfold State.dropSlots
  repeat' first
    | with_reducible assumption | with_reducible apply ends_advanceQueue | with_reducible apply ends_modQ | with_reducible apply Ends.foldl
    | with_reducible apply EndsP.foldl | (with_reducible apply EndsP.fst; with_reducible apply EndsP.foldl) | (intros; rfl)
    | (intro m; exact core_without m _) | split
    | ((try lift_lets); intro z; refine Ends.named (s := s) (z := z) ?_ ?_; (try subst z); rotate_left; intro hz; clear_value z)
    | ((try lift_lets); intro z; clear_value z) | (with_reducible intro; with_reducible intros; try beta_reduce) | dsimp only
theorem ends_releaseCmd {s t : State} (h : Ends s t) (x1) : Ends s (State.releaseCmd t x1) := by
  unfold State.releaseCmd
  repeat' first
    | with_reducible assumption | with_reducible apply ends_freePrograms | with_reducible apply ends_dropSlots | with_reducible apply ends_modChan
    | with_reducible apply ends_modCtx | with_reducible apply ends_modMem | with_reducible apply ends_modSched
    | (with_reducible apply Ends.put; with_reducible assumption)
    | (with_reducible apply Ends.put; first | with_reducible apply ends_freePrograms | with_reducible apply ends_dropSlots | with_reducible apply ends_modChan | with_reducible apply ends_modCtx | with_reducible apply ends_modMem | with_reducible apply ends_modSched)
    | (intros; rfl) | (intro m; exact core_without m _) | split
    | ((try lift_lets); intro z; refine Ends.named (s := s) (z := z) ?_ ?_; (try subst z); rotate_left; intro hz; clear_value z)
    | ((try lift_lets); intro z; clear_value z) | (with_reducible intro; with_reducible intros; try beta_reduce) | dsimp only
theorem ends_unload {s t : State} (h : Ends s t) (x1) : Ends s (State.unload t x1) := by
  unfold State.unload
  split; (dsimp +zetaDelta only; split)
  with_reducible (apply ends_modSched; apply ends_modPages; apply ends_modMem; apply ends_setMem; apply ends_modCtx; assumption)
  (with_reducible intro; with_reducible intros; try beta_reduce; try lift_lets); (show Ctx.core _ = Ctx.core _; rfl)
  (with_reducible intro; with_reducible intros; try beta_reduce; try lift_lets); (show MemUnit.core _ = MemUnit.core _; rfl)
  (with_reducible intro; with_reducible intros; try beta_reduce; try lift_lets); (show Page.shape _ = Page.shape _; rfl)
  (with_reducible intro; with_reducible intros; try beta_reduce; try lift_lets); (show Sched.core _ = Sched.core _; rfl)
  with_reducible (assumption; assumption)
theorem ends_modLink {s t : State} (h : Ends s t) (x1) (x2) : Ends s (State.modLink t x1 x2) := by
  unfold State.modLink
  lift_lets; (with_reducible intro; with_reducible intros; try beta_reduce; try lift_lets); with_reducible (apply Ends.put; assumption)
theorem ends_giveBack {s t : State} (h : Ends s t) (x1) (x2) (x3) : Ends s (State.giveBack t x1 x2 x3) := by
  unfold State.giveBack
  repeat' first
    | with_reducible assumption | with_reducible apply ends_modLink | (intros; rfl) | (intro m; exact core_without m _) | split
    | ((try lift_lets); intro z; refine Ends.named (s := s) (z := z) ?_ ?_; (try subst z); rotate_left; intro hz; clear_value z)
    | ((try lift_lets); intro z; clear_value z) | (with_reducible intro; with_reducible intros; try beta_reduce) | dsimp only
theorem ends_grantSlot {s t : State} (h : Ends s t) (x1) (x2) (x3) : Ends s (State.grantSlot t x1 x2 x3) := by
  unfold State.grantSlot
  repeat' first
    | with_reducible assumption | with_reducible apply ends_modLink | with_reducible apply ends_giveBack
    | (with_reducible apply Ends.put; with_reducible assumption)
    | (with_reducible apply Ends.put; first | with_reducible apply ends_modLink | with_reducible apply ends_giveBack) | (intros; rfl)
    | (intro m; exact core_without m _) | split
    | ((try lift_lets); intro z; refine Ends.named (s := s) (z := z) ?_ ?_; (try subst z); rotate_left; intro hz; clear_value z)
    | ((try lift_lets); intro z; clear_value z) | (with_reducible intro; with_reducible intros; try beta_reduce) | dsimp only
theorem ends_pumpSlots {s t : State} (h : Ends s t) (x1) (x2) (x3) : EndsP s (State.pumpSlots t x1 x2 x3) := by
  induction x3 generalizing t x1 x2 with
  | zero => exact h
  | succ n ih =>
    unfold State.pumpSlots
    split
    · exact h
    split
    · exact h
    · exact ih (ends_grantSlot h _ _ _) _ _
theorem ends_pump {s t : State} (h : Ends s t) (x1) : Ends s (State.pump t x1) := by
  unfold State.pump
  repeat' first
    | with_reducible assumption | with_reducible apply EndsP.mk | (with_reducible apply EndsP.fst; with_reducible apply ends_pumpSlots)
    | with_reducible apply ends_pumpSlots | with_reducible apply ends_modLink | (with_reducible apply Ends.put; with_reducible assumption)
    | (with_reducible apply Ends.put; first | (with_reducible apply EndsP.fst; with_reducible apply ends_pumpSlots) | with_reducible apply ends_pumpSlots | with_reducible apply ends_modLink)
    | (intros; rfl) | (intro m; exact core_without m _) | split
    | ((try lift_lets); intro z; refine Ends.named (s := s) (z := z) ?_ ?_; (try subst z); rotate_left; intro hz; clear_value z)
    | ((try lift_lets); intro z; refine EndsP.named (s := s) (z := z) ?_ ?_; (try subst z); rotate_left; intro hz; clear_value z)
    | (with_reducible apply EndsP.fst; with_reducible apply EndsP.mk) | (with_reducible apply EndsP.fst; with_reducible assumption)
    | ((try lift_lets); intro z; clear_value z) | (with_reducible intro; with_reducible intros; try beta_reduce)
    | (refine EndsP.elim (by with_reducible assumption) ?_) | dsimp only
theorem ends_sendOn {s t : State} (h : Ends s t) (x1) (x2) (x3) (x4) (x5) (x6) (x7) (x8) (x9) : Ends s (State.sendOn t x1 x2 x3 x4 x5 x6 x7 x8 x9) := by
  unfold State.sendOn
  split; with_reducible (assumption; apply ends_pump); lift_lets; (with_reducible intro; with_reducible intros; try beta_reduce; try lift_lets)
  with_reducible (apply Ends.put; assumption)
theorem ends_dropEarly {s t : State} (h : Ends s t) (x1) : Ends s (State.dropEarly t x1) := by
  unfold State.dropEarly
  repeat' first
    | with_reducible assumption | with_reducible apply ends_giveBack | with_reducible apply Ends.foldl | with_reducible apply EndsP.foldl
    | (with_reducible apply EndsP.fst; with_reducible apply EndsP.foldl) | (with_reducible apply Ends.put; with_reducible assumption)
    | (with_reducible apply Ends.put; first | with_reducible apply ends_giveBack | with_reducible apply Ends.foldl) | (intros; rfl)
    | (intro m; exact core_without m _) | split
    | ((try lift_lets); intro z; refine Ends.named (s := s) (z := z) ?_ ?_; (try subst z); rotate_left; intro hz; clear_value z)
    | ((try lift_lets); intro z; clear_value z) | (with_reducible intro; with_reducible intros; try beta_reduce) | dsimp only
theorem ends_dropAttempt {s t : State} (h : Ends s t) (x1) (x2) : Ends s (State.dropAttempt t x1 x2) := by
  unfold State.dropAttempt
  repeat' first
    | with_reducible assumption | with_reducible apply ends_giveBack | with_reducible apply ends_dropEarly | with_reducible apply Ends.foldl
    | with_reducible apply EndsP.foldl | (with_reducible apply EndsP.fst; with_reducible apply EndsP.foldl)
    | (with_reducible apply Ends.put; with_reducible assumption)
    | (with_reducible apply Ends.put; first | with_reducible apply ends_giveBack | with_reducible apply ends_dropEarly | with_reducible apply Ends.foldl)
    | (intros; rfl) | (intro m; exact core_without m _) | split
    | ((try lift_lets); intro z; refine Ends.named (s := s) (z := z) ?_ ?_; (try subst z); rotate_left; intro hz; clear_value z)
    | ((try lift_lets); intro z; clear_value z) | (with_reducible intro; with_reducible intros; try beta_reduce) | dsimp only
theorem ends_cancelAttempt {s t : State} (h : Ends s t) (x1) : Ends s (State.cancelAttempt t x1) := by
  unfold State.cancelAttempt
  split; with_reducible (assumption; apply Ends.foldl; apply ends_dropAttempt; assumption)
  (with_reducible intro; with_reducible intros; try beta_reduce; try lift_lets); with_reducible (apply ends_sendOn; assumption)
theorem ends_trySend {s t : State} (h : Ends s t) (x1) (x2) (x3) (x4) (x5) (x6) (x7) (x8) : EndsP s (State.trySend t x1 x2 x3 x4 x5 x6 x7 x8) := by
  unfold State.trySend
  with_reducible apply EndsP.mk; split; with_reducible assumption; split; with_reducible (apply ends_sendOn; assumption; assumption)
theorem ends_sendAborts {s t : State} (h : Ends s t) (x1) (x2) : Ends s (State.sendAborts t x1 x2) := by
  unfold State.sendAborts
  split; with_reducible (assumption; apply Ends.foldl; assumption)
  (with_reducible intro; with_reducible intros; try beta_reduce; try lift_lets)
  with_reducible (apply EndsP.fst; apply ends_trySend; assumption)
theorem ends_freeBanks {s t : State} (h : Ends s t) (x1) (x2) : Ends s (State.freeBanks t x1 x2) := by
  unfold State.freeBanks
  with_reducible (apply Ends.put; assumption)
theorem ends_chargeDebt {s t : State} (h : Ends s t) (x1) (x2) : Ends s (State.chargeDebt t x1 x2) := by
  unfold State.chargeDebt
  split; (dsimp +zetaDelta only; split); with_reducible (assumption; apply ends_count; apply ends_modCtx; assumption)
  (with_reducible intro; with_reducible intros; try beta_reduce; try lift_lets); (show Ctx.core _ = Ctx.core _; rfl); with_reducible assumption
theorem ends_dropGraphs {s t : State} (h : Ends s t) (x1) (x2) : Ends s (State.dropGraphs t x1 x2) := by
  unfold State.dropGraphs
  with_reducible (apply ends_modMem; apply ends_modSched; assumption)
  (with_reducible intro; with_reducible intros; try beta_reduce; try lift_lets); (show Sched.core _ = Sched.core _; rfl)
  (with_reducible intro; with_reducible intros; try beta_reduce; try lift_lets); (show MemUnit.core _ = MemUnit.core _; rfl)
theorem ends_noteNode {s t : State} (h : Ends s t) (x1) (x2) (x3) : Ends s (State.noteNode t x1 x2 x3) := by
  unfold State.noteNode
  with_reducible (apply ends_modSched; assumption); (with_reducible intro; with_reducible intros; try beta_reduce; try lift_lets)
  (show Sched.core _ = Sched.core _; rfl)
theorem ends_modRing {s t : State} (h : Ends s t) (x1) (x2) : Ends s (State.modRing t x1 x2) := by
  unfold State.modRing
  with_reducible (apply Ends.put; assumption)
theorem ends_writeFw {s t : State} (h : Ends s t) (x1) (x2) : Ends s (State.writeFw t x1 x2) := by
  unfold State.writeFw
  with_reducible (apply ends_setMem; assumption)
theorem ends_msix {s t : State} (h : Ends s t) (x1) : Ends s (State.msix t x1) := by
  unfold State.msix
  split; lift_lets; (with_reducible intro; with_reducible intros; try beta_reduce; try lift_lets)
  with_reducible (apply Ends.put; assumption; assumption)
theorem ends_ringEvent {s t : State} (h : Ends s t) (x1) (x2) : Ends s (State.ringEvent t x1 x2) := by
  unfold State.ringEvent
  repeat' first
    | with_reducible assumption | with_reducible apply ends_modRing | with_reducible apply ends_msix | (intros; rfl)
    | (intro m; exact core_without m _) | split
    | ((try lift_lets); intro z; refine Ends.named (s := s) (z := z) ?_ ?_; (try subst z); rotate_left; intro hz; clear_value z)
    | ((try lift_lets); intro z; clear_value z) | (with_reducible intro; with_reducible intros; try beta_reduce) | dsimp only
theorem ends_putReply {s t : State} (h : Ends s t) (x1) (x2) (x3) (x4) : Ends s (State.putReply t x1 x2 x3 x4) := by
  unfold State.putReply
  repeat' first
    | with_reducible assumption | with_reducible apply ends_modRing | with_reducible apply ends_writeFw | with_reducible apply ends_ringEvent
    | with_reducible apply ends_writeHost | (with_reducible apply Ends.put; with_reducible assumption)
    | (with_reducible apply Ends.put; first | with_reducible apply ends_modRing | with_reducible apply ends_writeFw | with_reducible apply ends_ringEvent | with_reducible apply ends_writeHost)
    | (intros; rfl) | (intro m; exact core_without m _) | split
    | ((try lift_lets); intro z; refine Ends.named (s := s) (z := z) ?_ ?_; (try subst z); rotate_left; intro hz; clear_value z)
    | ((try lift_lets); intro z; clear_value z) | (with_reducible intro; with_reducible intros; try beta_reduce) | dsimp only
theorem ends_reply {s t : State} (h : Ends s t) (x1) (x2) (x3) (x4) (x5) (x6) (x7) : Ends s (State.reply t x1 x2 x3 x4 x5 x6 x7) := by
  unfold State.reply
  with_reducible (apply ends_modRing; apply ends_putReply; assumption)
theorem ends_endOne {s t : State} (h : Ends s t) (x1) (x2) (x3) (x4) (x5) : Ends s (State.endOne t x1 x2 x3 x4 x5) := by
  unfold State.endOne
  repeat' first
    | with_reducible assumption
    | with_reducible exact Nat.le_refl _
    | with_reducible exact Nat.le_succ _
    | with_reducible exact Nat.le_add_right _ _
    | (with_reducible intro; with_reducible intros; try beta_reduce; try lift_lets)
    | with_reducible apply ends_cancelAttempt
    | with_reducible apply ends_chargeDebt
    | with_reducible apply ends_clockOf
    | with_reducible apply ends_countCancels
    | with_reducible apply ends_dropGraphs
    | with_reducible apply ends_freeBanks
    | with_reducible apply ends_modCtx
    | with_reducible apply ends_modSched
    | with_reducible apply ends_noteNode
    | with_reducible apply ends_releaseCmd
    | with_reducible apply ends_reply
    | with_reducible apply ends_sendAborts
    | with_reducible apply ends_unload
    | with_reducible apply EndsP.mk
    | with_reducible apply EndsO.some
    | with_reducible exact EndsO.none
    | with_reducible apply EndsQ.mk
    | with_reducible exact EndsE.error
    | with_reducible apply EndsE.ok
    | with_reducible exact EndsA.none
    | with_reducible exact EndsA.error
    | with_reducible apply EndsA.ok
    | with_reducible apply EndsP.foldl
    | with_reducible apply Ends.foldl
    | with_reducible apply EndsO.getD
    | with_reducible apply EndsO.map
    | with_reducible apply EndsO.mapVal
    | (show Ctx.core _ = Ctx.core _; rfl)
    | (show Sched.core _ = Sched.core _; rfl)
    | (show MemUnit.core _ = MemUnit.core _; rfl)
    | (show Page.shape _ = Page.shape _; rfl)
    | split
    | (dsimp +zetaDelta only; split)
    | lift_lets
    | refine EndsP.elim (by with_reducible assumption) ?_
    | refine EndsQ.elim (by with_reducible assumption) ?_
    | refine EndsO.elim (by with_reducible assumption) ?_
    | refine EndsE.elim (by with_reducible assumption) ?_
    | refine EndsA.elim (by with_reducible assumption) ?_
    | with_reducible apply EndsP.fst
    | with_reducible apply EndsQ.snd
    | with_reducible apply Ends.put
    | (with_reducible refine Ne.trans_eq ?_ rfl; assumption)
    | assumption
theorem ends_endPartner {s t : State} (h : Ends s t) (x1) (x2) (x3) (x4) : Ends s (State.endPartner t x1 x2 x3 x4) := by
  unfold State.endPartner
  split; with_reducible (apply ends_endOne; assumption; assumption)
theorem ends_setSem {s t : State} (h : Ends s t) (x1) (x2) : Ends s (State.setSem t x1 x2) := by
  unfold State.setSem
  with_reducible (apply ends_modSched; assumption); (with_reducible intro; with_reducible intros; try beta_reduce; try lift_lets)
  (show Sched.core _ = Sched.core _; rfl)
theorem ends_modRas {s t : State} (h : Ends s t) (x1) : Ends s (State.modRas t x1) := by
  unfold State.modRas
  with_reducible (apply Ends.put; assumption)
theorem ends_fabRecord {s t : State} (h : Ends s t) (x1) : Ends s (State.fabRecord t x1) := by
  unfold State.fabRecord
  with_reducible (apply ends_modRas; assumption)
theorem ends_modIncident {s t : State} (h : Ends s t) (x1) (x2) : Ends s (State.modIncident t x1 x2) := by
  unfold State.modIncident
  with_reducible (apply ends_modRas; assumption)
theorem ends_touchIncident {s t : State} (h : Ends s t) (x1) (x2) (x3) : EndsP s (State.touchIncident t x1 x2 x3) := by
  unfold State.touchIncident
  with_reducible apply EndsP.mk; split; with_reducible (apply ends_fabRecord; apply ends_modRas; assumption); (dsimp +zetaDelta only; split)
  with_reducible (apply ends_modIncident; assumption; apply ends_fabRecord; apply ends_modIncident; assumption)
theorem ends_hostWrite {s t : State} (h : Ends s t) (x1) : Ends s (State.hostWrite t x1) := by
  unfold State.hostWrite
  (dsimp +zetaDelta only; split); with_reducible apply ends_modRas; split
  with_reducible (apply ends_writeFw; assumption; apply ends_writeHost; assumption; apply ends_msix; apply ends_modRas); split
  with_reducible (apply ends_writeFw; assumption; apply ends_writeHost; assumption)
theorem ends_hostRecord {s t : State} (h : Ends s t) (x1) : Ends s (State.hostRecord t x1) := by
  unfold State.hostRecord
  (dsimp +zetaDelta only; split); with_reducible assumption; split
  with_reducible (apply ends_hostWrite; apply ends_modRas; assumption; apply ends_count; apply ends_modRas; assumption)
theorem ends_traceRecord {s t : State} (h : Ends s t) (x1) : Ends s (State.traceRecord t x1) := by
  unfold State.traceRecord
  with_reducible (apply ends_modRas; assumption)
theorem ends_mgtSend {s t : State} (h : Ends s t) (x1) : Ends s (State.mgtSend t x1) := by
  unfold State.mgtSend
  lift_lets; (with_reducible intro; with_reducible intros; try beta_reduce; try lift_lets); with_reducible (apply Ends.put; assumption)
theorem ends_mgtRecord {s t : State} (h : Ends s t) (x1) : Ends s (State.mgtRecord t x1) := by
  unfold State.mgtRecord
  repeat' first
    | with_reducible assumption | with_reducible apply ends_mgtSend | with_reducible apply ends_modRas | with_reducible apply ends_count
    | (intros; rfl) | (intro m; exact core_without m _) | split
    | ((try lift_lets); intro z; refine Ends.named (s := s) (z := z) ?_ ?_; (try subst z); rotate_left; intro hz; clear_value z)
    | ((try lift_lets); intro z; clear_value z) | (with_reducible intro; with_reducible intros; try beta_reduce) | dsimp only
theorem ends_raise {s t : State} (h : Ends s t) (x1) (x2) (x3) (x4) (x5) : Ends s (State.raise t x1 x2 x3 x4 x5) := by
  unfold State.raise
  split; with_reducible assumption; split; split; with_reducible (apply ends_hostRecord; apply ends_traceRecord); lift_lets
  refine EndsP.elim (by with_reducible assumption) ?_; with_reducible apply EndsP.mk; split
  with_reducible (assumption; apply EndsP.fst; apply ends_touchIncident; assumption; apply ends_mgtRecord; apply ends_hostRecord)
  with_reducible (apply ends_traceRecord); lift_lets; refine EndsP.elim (by with_reducible assumption) ?_; with_reducible apply EndsP.mk; split
  with_reducible (assumption; apply EndsP.fst; apply ends_touchIncident; assumption)
theorem ends_addSem {s t : State} (h : Ends s t) (x1) (x2) (x3) : Ends s (State.addSem t x1 x2 x3) := by
  unfold State.addSem
  (dsimp +zetaDelta only; split); with_reducible (apply ends_setSem; assumption; apply ends_raise; apply ends_setSem; assumption)
theorem ends_subSem {s t : State} (h : Ends s t) (x1) (x2) : Ends s (State.subSem t x1 x2) := by
  unfold State.subSem
  with_reducible (apply ends_setSem; assumption)
theorem ends_endPartners {s t : State} (h : Ends s t) (x1) (x2) (x3) (x4) : Ends s (State.endPartners t x1 x2 x3 x4) := by
  induction x4 generalizing t x1 x2 x3 with
  | zero =>
    unfold State.endPartners
    with_reducible assumption
  | succ n ih =>
    unfold State.endPartners
    split; split; with_reducible (apply ends_endPartner; apply ends_addSem; assumption; assumption); split
    with_reducible (apply ih; apply ends_endPartner; apply ends_endPartner); split
    with_reducible (assumption; apply ends_subSem; assumption; assumption; apply ih; apply ends_endPartner; assumption)
theorem ends_endBoth {s t : State} (h : Ends s t) (x1) (x2) (x3) (x4) (x5) : Ends s (State.endBoth t x1 x2 x3 x4 x5) := by
  unfold State.endBoth
  with_reducible (apply ends_endPartners; apply ends_endOne; assumption)
theorem ends_endDoomed {s t : State} (h : Ends s t) (x1) : Ends s (State.endDoomed t x1) := by
  induction x1 generalizing t with
  | zero =>
    unfold State.endDoomed
    with_reducible assumption
  | succ n ih =>
    unfold State.endDoomed
    split; with_reducible assumption; split
    with_reducible (apply ih; apply ends_endBoth; assumption; assumption; apply ih; apply ends_endBoth; assumption)
theorem ends_readyAll {s t : State} (h : Ends s t)  : Ends s (State.readyAll t) := by
  unfold State.readyAll
  with_reducible (apply ends_modSched; assumption); (with_reducible intro; with_reducible intros; try beta_reduce; try lift_lets)
  (show Sched.core _ = Sched.core _; rfl)
theorem ends_endRuns {s t : State} (h : Ends s t)  : Ends s (State.endRuns t) := by
  unfold State.endRuns
  with_reducible (apply Ends.foldl; assumption); (with_reducible intro; with_reducible intros; try beta_reduce; try lift_lets)
  (with_reducible intro; with_reducible intros; try beta_reduce; try lift_lets); split; with_reducible (apply ends_modSched; assumption)
  (with_reducible intro; with_reducible intros; try beta_reduce; try lift_lets); (show Sched.core _ = Sched.core _; rfl)
  with_reducible (apply ends_endOne; apply ends_modSched; assumption)
  (with_reducible intro; with_reducible intros; try beta_reduce; try lift_lets); (show Sched.core _ = Sched.core _; rfl)
theorem ends_endCmd {s t : State} (h : Ends s t) (x1) (x2) (x3) (x4) (x5) : Ends s (State.endCmd t x1 x2 x3 x4 x5) := by
  unfold State.endCmd
  with_reducible (apply ends_readyAll; apply ends_endDoomed; apply ends_endRuns; apply ends_endDoomed; apply ends_endBoth; assumption)
theorem ends_endAll {s t : State} (h : Ends s t) (x1) (x2) : Ends s (State.endAll t x1 x2) := by
  unfold State.endAll
  with_reducible (apply ends_readyAll; apply ends_endDoomed; apply ends_endRuns; apply ends_endDoomed; apply Ends.foldl; apply ends_modSched)
  with_reducible (assumption); (with_reducible intro; with_reducible intros; try beta_reduce; try lift_lets)
  (show Sched.core _ = Sched.core _; rfl); (with_reducible intro; with_reducible intros; try beta_reduce; try lift_lets); split
  with_reducible (assumption; apply ends_endBoth; apply ends_modSched; assumption)
  (with_reducible intro; with_reducible intros; try beta_reduce; try lift_lets); (show Sched.core _ = Sched.core _; rfl)

/-! ### Places -/

theorem places_modSched {s t : State} (h : Places s t) (x1) : Places s (State.modSched t x1) := by
  unfold State.modSched
  with_reducible (apply Places.put; assumption)
theorem places_modCmd {s t : State} (h : Places s t) (x1) (x2) : Places s (State.modCmd t x1 x2) := by
  unfold State.modCmd
  with_reducible (apply places_modSched; assumption)
theorem places_count {s t : State} (h : Places s t) (x1) (x2) (x3) : Places s (State.count t x1 x2 x3) := by
  unfold State.count
  with_reducible (apply Places.put; assumption)
theorem places_place {s t : State} (h : Places s t) (x1) (x2) : Places s (State.place t x1 x2) := by
  unfold State.place
  with_reducible (apply places_modCmd; apply places_modSched; assumption)
theorem places_unplace {s t : State} (h : Places s t) (x1) : Places s (State.unplace t x1) := by
  unfold State.unplace
  with_reducible (apply places_modSched; assumption)
theorem places_displace {s t : State} (h : Places s t) (x1) (x2) (x3) (x4) (x5) : PlacesP s (State.displace t x1 x2 x3 x4 x5) := by
  induction x4 generalizing t x1 x2 x3 x5 with
  | zero =>
    unfold State.displace
    with_reducible (apply PlacesP.mk; assumption)
  | succ n ih =>
    unfold State.displace
    with_reducible apply PlacesP.mk; split; with_reducible assumption; split
    with_reducible (apply PlacesP.fst; apply ih; apply places_modCmd; apply places_unplace; assumption; apply PlacesP.fst; apply ih)
    with_reducible (apply places_modSched; assumption)
theorem places_unplaced {s t : State} (h : Places s t) (x1) : Places s (State.unplaced t x1) := by
  unfold State.unplaced
  exact places_modCmd h _ _
theorem places_placeFrom {s t : State} (h : Places s t) (x1) (x2) : Places s (State.placeFrom t x1 x2) := by
  unfold State.placeFrom
  repeat' first
    | with_reducible assumption | with_reducible apply places_place | with_reducible apply places_unplaced | (intros; rfl)
    | (intro m; exact core_without m _) | split
    | ((try lift_lets); intro z; refine Places.named (s := s) (z := z) ?_ ?_; (try subst z); rotate_left; intro hz; clear_value z)
    | ((try lift_lets); intro z; clear_value z) | (with_reducible intro; with_reducible intros; try beta_reduce) | dsimp only
theorem places_placeLive {s t : State} (h : Places s t) (x1) (x2) : Places s (State.placeLive t x1 x2) := by
  unfold State.placeLive
  split
  rename_i s' out e
  have hp := PlacesP.elim e (PlacesP.foldl (PlacesP.mk h) (by
    intro a x ha
    exact PlacesP.fst (PlacesP.fst (places_displace ha x1 x.1 x.2 _ [])) : ∀ a x, PlacesP s a → PlacesP s _))
  refine Places.foldl (places_place hp x1 x2) fun a x ha => ?_
  split
  · split
    · exact places_placeFrom ha ..
    · exact ha
  · exact ha
theorem places_placeCmd {s t : State} (h : Places s t) (x1) : Places s (State.placeCmd t x1) := by
  unfold State.placeCmd
  repeat' first
    | with_reducible assumption | with_reducible apply places_place | with_reducible apply places_placeLive | with_reducible apply places_count
    | with_reducible apply places_unplaced | with_reducible apply places_placeFrom | (intros; rfl) | (intro m; exact core_without m _) | split
    | ((try lift_lets); intro z; refine Places.named (s := s) (z := z) ?_ ?_; (try subst z); rotate_left; intro hz; clear_value z)
    | ((try lift_lets); intro z; clear_value z) | (with_reducible intro; with_reducible intros; try beta_reduce) | dsimp only
theorem places_placeAll {s t : State} (h : Places s t)  : Places s (State.placeAll t) := by
  unfold State.placeAll
  with_reducible (apply Places.foldl; assumption); (with_reducible intro; with_reducible intros; try beta_reduce; try lift_lets)
  with_reducible (apply Places.foldl; assumption); (with_reducible intro; with_reducible intros; try beta_reduce; try lift_lets); split; split
  with_reducible (apply places_placeCmd; assumption; assumption; assumption)

/-! ### Tells -/

theorem tells_writeHost {s t : State} (h : Tells s t) (x1) (x2) : Tells s (State.writeHost t x1 x2) := by
  unfold State.writeHost
  with_reducible (apply tells_setMem; assumption)
theorem tells_count {s t : State} (h : Tells s t) (x1) (x2) (x3) : Tells s (State.count t x1 x2 x3) := by
  unfold State.count
  with_reducible (apply Tells.put; assumption)
theorem tells_writeFw {s t : State} (h : Tells s t) (x1) (x2) : Tells s (State.writeFw t x1 x2) := by
  unfold State.writeFw
  with_reducible (apply tells_setMem; assumption)
theorem tells_msix {s t : State} (h : Tells s t) (x1) : Tells s (State.msix t x1) := by
  unfold State.msix
  split; lift_lets; (with_reducible intro; with_reducible intros; try beta_reduce; try lift_lets)
  with_reducible (apply Tells.put; assumption; assumption)
theorem tells_modRas {s t : State} (h : Tells s t) (x1) : Tells s (State.modRas t x1) := by
  unfold State.modRas
  with_reducible (apply Tells.put; assumption)
theorem tells_fabRecord {s t : State} (h : Tells s t) (x1) : Tells s (State.fabRecord t x1) := by
  unfold State.fabRecord
  with_reducible (apply tells_modRas; assumption)
theorem tells_modIncident {s t : State} (h : Tells s t) (x1) (x2) : Tells s (State.modIncident t x1 x2) := by
  unfold State.modIncident
  with_reducible (apply tells_modRas; assumption)
theorem tells_touchIncident {s t : State} (h : Tells s t) (x1) (x2) (x3) : TellsP s (State.touchIncident t x1 x2 x3) := by
  unfold State.touchIncident
  with_reducible apply TellsP.mk; split; with_reducible (apply tells_fabRecord; apply tells_modRas; assumption); (dsimp +zetaDelta only; split)
  with_reducible (apply tells_modIncident; assumption; apply tells_fabRecord; apply tells_modIncident; assumption)
theorem tells_hostWrite {s t : State} (h : Tells s t) (x1) : Tells s (State.hostWrite t x1) := by
  unfold State.hostWrite
  (dsimp +zetaDelta only; split); with_reducible apply tells_modRas; split
  with_reducible (apply tells_writeFw; assumption; apply tells_writeHost; assumption; apply tells_msix; apply tells_modRas); split
  with_reducible (apply tells_writeFw; assumption; apply tells_writeHost; assumption)
theorem tells_hostRecord {s t : State} (h : Tells s t) (x1) : Tells s (State.hostRecord t x1) := by
  unfold State.hostRecord
  (dsimp +zetaDelta only; split); with_reducible assumption; split
  with_reducible (apply tells_hostWrite; apply tells_modRas; assumption; apply tells_count; apply tells_modRas; assumption)
theorem tells_traceRecord {s t : State} (h : Tells s t) (x1) : Tells s (State.traceRecord t x1) := by
  unfold State.traceRecord
  with_reducible (apply tells_modRas; assumption)
theorem tells_mgtSend {s t : State} (h : Tells s t) (x1) : Tells s (State.mgtSend t x1) := by
  unfold State.mgtSend
  lift_lets; (with_reducible intro; with_reducible intros; try beta_reduce; try lift_lets); with_reducible (apply Tells.put; assumption)
theorem tells_mgtRecord {s t : State} (h : Tells s t) (x1) : Tells s (State.mgtRecord t x1) := by
  unfold State.mgtRecord
  split
  · split
    · exact tells_mgtSend (tells_modRas h _) _
    · exact tells_modRas h _
  · exact h
  · dsimp only
    split
    · exact tells_mgtSend (tells_modRas h _) _
    · exact tells_count (tells_modRas h _) _ _ _
theorem tells_raise {s t : State} (h : Tells s t) (x1) (x2) (x3) (x4) (x5) : Tells s (State.raise t x1 x2 x3 x4 x5) := by
  unfold State.raise
  split; with_reducible assumption; split; split; with_reducible (apply tells_hostRecord; apply tells_traceRecord); lift_lets
  refine TellsP.elim (by with_reducible assumption) ?_; with_reducible apply TellsP.mk; split
  with_reducible (assumption; apply TellsP.fst; apply tells_touchIncident; assumption; apply tells_mgtRecord; apply tells_hostRecord)
  with_reducible (apply tells_traceRecord); lift_lets; refine TellsP.elim (by with_reducible assumption) ?_; with_reducible apply TellsP.mk
  split; with_reducible (assumption; apply TellsP.fst; apply tells_touchIncident; assumption)
theorem tells_raiseOpen {s t : State} (h : Tells s t) (x1) (x2) (x3) : Tells s (State.raiseOpen t x1 x2 x3) := by
  unfold State.raiseOpen
  with_reducible (apply tells_mgtRecord; apply tells_hostRecord; apply tells_traceRecord); lift_lets
  with_reducible (apply Tells.put; assumption)
theorem tells_cfgError {s t : State} (h : Tells s t) (x1) (x2) (x3) : Tells s (State.cfgError t x1 x2 x3) := by
  unfold State.cfgError
  (dsimp +zetaDelta only; split)
  with_reducible (apply Tells.put; apply tells_count; assumption; apply Tells.put; apply tells_count; assumption)

/-! ### Sends -/

theorem sends_modLink {s t : State} (h : Sends s t) (x1) (x2) : Sends s (State.modLink t x1 x2) := by
  unfold State.modLink
  lift_lets; (with_reducible intro; with_reducible intros; try beta_reduce; try lift_lets); with_reducible (apply Sends.put; assumption)
theorem sends_giveBack {s t : State} (h : Sends s t) (x1) (x2) (x3) : Sends s (State.giveBack t x1 x2 x3) := by
  unfold State.giveBack
  split
  · exact sends_modLink h _ _
  · exact h
theorem sends_grantSlot {s t : State} (h : Sends s t) (x1) (x2) (x3) : Sends s (State.grantSlot t x1 x2 x3) := by
  have k : Sends s ((t.modLink x1 fun x => { x with credits := vmod x.credits x2 (· - 1), grants := x.grants + 1, vcLast := vmod x.vcLast x2 fun _ => x.grants + 1 }).giveBack x3.from? x2 1) :=
    sends_giveBack (sends_modLink h _ _) _ _ _
  unfold State.grantSlot
  split
  · exact sends_modLink (Sends.put k) _ _
  · exact Sends.put k
theorem sends_pumpSlots {s t : State} (h : Sends s t) (x1) (x2) (x3) : SendsP s (State.pumpSlots t x1 x2 x3) := by
  induction x3 generalizing t x1 x2 with
  | zero => exact h
  | succ n ih =>
    unfold State.pumpSlots
    split
    · exact h
    split
    · exact h
    · exact ih (sends_grantSlot h _ _ _) _ _
theorem sends_pump {s t : State} (h : Sends s t) (x1) : Sends s (State.pump t x1) := by
  unfold State.pump
  repeat' first
    | with_reducible assumption | with_reducible apply SendsP.mk | (with_reducible apply SendsP.fst; with_reducible apply sends_pumpSlots)
    | with_reducible apply sends_pumpSlots | with_reducible apply sends_modLink | (with_reducible apply Sends.put; with_reducible assumption)
    | (with_reducible apply Sends.put; first | (with_reducible apply SendsP.fst; with_reducible apply sends_pumpSlots) | with_reducible apply sends_pumpSlots | with_reducible apply sends_modLink)
    | (intros; rfl) | (intro m; exact core_without m _) | split
    | ((try lift_lets); intro z; refine Sends.named (s := s) (z := z) ?_ ?_; (try subst z); rotate_left; intro hz; clear_value z)
    | ((try lift_lets); intro z; refine SendsP.named (s := s) (z := z) ?_ ?_; (try subst z); rotate_left; intro hz; clear_value z)
    | (with_reducible apply SendsP.fst; with_reducible apply SendsP.mk) | (with_reducible apply SendsP.fst; with_reducible assumption)
    | ((try lift_lets); intro z; clear_value z) | (with_reducible intro; with_reducible intros; try beta_reduce)
    | (refine SendsP.elim (by with_reducible assumption) ?_) | dsimp only
theorem sends_sendOn {s t : State} (h : Sends s t) (x1) (x2) (x3) (x4) (x5) (x6) (x7) (x8) (x9) : Sends s (State.sendOn t x1 x2 x3 x4 x5 x6 x7 x8 x9) := by
  unfold State.sendOn
  repeat' first
    | with_reducible assumption | with_reducible apply sends_pump | (with_reducible apply Sends.put; with_reducible assumption)
    | (with_reducible apply Sends.put; first | with_reducible apply sends_pump) | (intros; rfl) | (intro m; exact core_without m _) | split
    | ((try lift_lets); intro z; refine Sends.named (s := s) (z := z) ?_ ?_; (try subst z); rotate_left; intro hz; clear_value z)
    | ((try lift_lets); intro z; clear_value z) | (with_reducible intro; with_reducible intros; try beta_reduce) | dsimp only
theorem sends_trySend {s t : State} (h : Sends s t) (x1) (x2) (x3) (x4) (x5) (x6) (x7) (x8) : SendsP s (State.trySend t x1 x2 x3 x4 x5 x6 x7 x8) := by
  unfold State.trySend
  with_reducible apply SendsP.mk; split; with_reducible assumption; split; with_reducible (apply sends_sendOn; assumption; assumption)
theorem sends_broadcastRoute {s t : State} (h : Sends s t)  : Sends s (State.broadcastRoute t) := by
  unfold State.broadcastRoute
  with_reducible apply Sends.foldl; split; split; lift_lets; (with_reducible intro; with_reducible intros; try beta_reduce; try lift_lets)
  with_reducible (apply Sends.put; assumption); lift_lets; (with_reducible intro; with_reducible intros; try beta_reduce; try lift_lets)
  with_reducible (apply Sends.put; assumption; assumption); (with_reducible intro; with_reducible intros; try beta_reduce; try lift_lets)
  with_reducible (apply sends_sendOn; assumption)
theorem sends_send {s t : State} (h : Sends s t) (x1) (x2) (x3) (x4) (x5) : Sends s (State.send t x1 x2 x3 x4 x5) := by
  unfold State.send
  with_reducible (apply SendsP.fst; apply sends_trySend; assumption)
theorem sends_sendBytes {s t : State} (h : Sends s t) (x1) (x2) (x3) (x4) (x5) : SendsP s (State.sendBytes t x1 x2 x3 x4 x5) := by
  unfold State.sendBytes
  refine SendsP.foldl (SendsP.mk h) fun a x ha => ?_
  split
  · exact ha
  · exact sends_trySend ha ..

/-! ### As rewriting rules -/

section
variable (s : State) 
@[simp] theorem placeAll_mode : (s.placeAll).mode = s.mode := (places_placeAll (Places.rfl' s)).mode
@[simp] theorem placeAll_mem : (s.placeAll).mem = s.mem := (places_placeAll (Places.rfl' s)).mem
@[simp] theorem placeAll_memUnit : (s.placeAll).memUnit = s.memUnit := (places_placeAll (Places.rfl' s)).memUnit
@[simp] theorem placeAll_ctxs : (s.placeAll).ctxs = s.ctxs := (places_placeAll (Places.rfl' s)).ctxs
@[simp] theorem placeAll_vault : (s.placeAll).vault = s.vault := (places_placeAll (Places.rfl' s)).vault
@[simp] theorem placeAll_rings : (s.placeAll).rings = s.rings := (places_placeAll (Places.rfl' s)).rings
@[simp] theorem placeAll_slices : (s.placeAll).slices = s.slices := (places_placeAll (Places.rfl' s)).slices
@[simp] theorem placeAll_dma : (s.placeAll).dma = s.dma := (places_placeAll (Places.rfl' s)).dma
@[simp] theorem placeAll_fab : (s.placeAll).fab = s.fab := (places_placeAll (Places.rfl' s)).fab
@[simp] theorem placeAll_cle : (s.placeAll).cle = s.cle := (places_placeAll (Places.rfl' s)).cle
@[simp] theorem placeAll_jobs : (s.placeAll).jobs = s.jobs := (places_placeAll (Places.rfl' s)).jobs
@[simp] theorem placeAll_jobChanges : (s.placeAll).jobChanges = s.jobChanges := (places_placeAll (Places.rfl' s)).jobChanges
@[simp] theorem placeAll_pvs : (s.placeAll).pvs = s.pvs := (places_placeAll (Places.rfl' s)).pvs
@[simp] theorem placeAll_mir : (s.placeAll).mir = s.mir := (places_placeAll (Places.rfl' s)).mir
@[simp] theorem placeAll_ras : (s.placeAll).ras = s.ras := (places_placeAll (Places.rfl' s)).ras
@[simp] theorem placeAll_boot : (s.placeAll).boot = s.boot := (places_placeAll (Places.rfl' s)).boot
@[simp] theorem placeAll_power : (s.placeAll).power = s.power := (places_placeAll (Places.rfl' s)).power
@[simp] theorem placeAll_pcie : (s.placeAll).pcie = s.pcie := (places_placeAll (Places.rfl' s)).pcie
@[simp] theorem placeAll_mgt : (s.placeAll).mgt = s.mgt := (places_placeAll (Places.rfl' s)).mgt
@[simp] theorem placeAll_serve : (s.placeAll).serve = s.serve := (places_placeAll (Places.rfl' s)).serve
@[simp] theorem placeAll_cfgErr : (s.placeAll).cfgErr = s.cfgErr := (places_placeAll (Places.rfl' s)).cfgErr
@[simp] theorem placeAll_free : (s.placeAll).free = s.free := (places_placeAll (Places.rfl' s)).free
@[simp] theorem placeAll_pending : (s.placeAll).pending = s.pending := (places_placeAll (Places.rfl' s)).pending
end

section
variable (s : State) (c : Cmd) (ph : Phase) (st : W16) (d : W64) (u : Option Nat)
@[simp] theorem endCmd_mode : (s.endCmd c ph st d u).mode = s.mode := (ends_endCmd (Ends.rfl' s) c ph st d u).mode
@[simp] theorem endCmd_vault : (s.endCmd c ph st d u).vault = s.vault := (ends_endCmd (Ends.rfl' s) c ph st d u).vault
@[simp] theorem endCmd_tick : (s.endCmd c ph st d u).tick = s.tick := (ends_endCmd (Ends.rfl' s) c ph st d u).tick
@[simp] theorem endCmd_jobs : (s.endCmd c ph st d u).jobs = s.jobs := (ends_endCmd (Ends.rfl' s) c ph st d u).jobs
@[simp] theorem endCmd_jobChanges : (s.endCmd c ph st d u).jobChanges = s.jobChanges := (ends_endCmd (Ends.rfl' s) c ph st d u).jobChanges
@[simp] theorem endCmd_pvs : (s.endCmd c ph st d u).pvs = s.pvs := (ends_endCmd (Ends.rfl' s) c ph st d u).pvs
@[simp] theorem endCmd_mir : (s.endCmd c ph st d u).mir = s.mir := (ends_endCmd (Ends.rfl' s) c ph st d u).mir
@[simp] theorem endCmd_boot : (s.endCmd c ph st d u).boot = s.boot := (ends_endCmd (Ends.rfl' s) c ph st d u).boot
@[simp] theorem endCmd_power : (s.endCmd c ph st d u).power = s.power := (ends_endCmd (Ends.rfl' s) c ph st d u).power
@[simp] theorem endCmd_ports : (s.endCmd c ph st d u).serve.ports = s.serve.ports := by
  have h : (Serve.core _).ports = (Serve.core _).ports := congrArg Serve.ports (ends_endCmd (Ends.rfl' s) c ph st d u).serve
  exact h
@[simp] theorem endCmd_insts : (s.endCmd c ph st d u).serve.insts = s.serve.insts := by
  have h : (Serve.core _).insts = (Serve.core _).insts := congrArg Serve.insts (ends_endCmd (Ends.rfl' s) c ph st d u).serve
  exact h
@[simp] theorem endCmd_sessions : (s.endCmd c ph st d u).serve.sessions = s.serve.sessions := by
  have h : (Serve.core _).sessions = (Serve.core _).sessions := congrArg Serve.sessions (ends_endCmd (Ends.rfl' s) c ph st d u).serve
  exact h
@[simp] theorem endCmd_reqs : (s.endCmd c ph st d u).serve.reqs = s.serve.reqs := by
  have h : (Serve.core _).reqs = (Serve.core _).reqs := congrArg Serve.reqs (ends_endCmd (Ends.rfl' s) c ph st d u).serve
  exact h
@[simp] theorem endCmd_cfgErr : (s.endCmd c ph st d u).cfgErr = s.cfgErr := (ends_endCmd (Ends.rfl' s) c ph st d u).cfgErr
@[simp] theorem endCmd_pending : (s.endCmd c ph st d u).pending = s.pending := (ends_endCmd (Ends.rfl' s) c ph st d u).pending
@[simp] theorem endCmd_ctx_state (k : CtxId) : ((s.endCmd c ph st d u).ctx k).state = (s.ctx k).state := by
  have h : (Ctx.core _).state = (Ctx.core _).state := congrArg Ctx.state ((ends_endCmd (Ends.rfl' s) c ph st d u).ctx k)
  exact h
@[simp] theorem endCmd_ctx_gen (k : CtxId) : ((s.endCmd c ph st d u).ctx k).gen = (s.ctx k).gen := by
  have h : (Ctx.core _).gen = (Ctx.core _).gen := congrArg Ctx.gen ((ends_endCmd (Ends.rfl' s) c ph st d u).ctx k)
  exact h
@[simp] theorem endCmd_ctx_classes (k : CtxId) : ((s.endCmd c ph st d u).ctx k).classes = (s.ctx k).classes := by
  have h : (Ctx.core _).classes = (Ctx.core _).classes := congrArg Ctx.classes ((ends_endCmd (Ends.rfl' s) c ph st d u).ctx k)
  exact h
@[simp] theorem endCmd_ctx_semBase (k : CtxId) : ((s.endCmd c ph st d u).ctx k).semBase = (s.ctx k).semBase := by
  have h : (Ctx.core _).semBase = (Ctx.core _).semBase := congrArg Ctx.semBase ((ends_endCmd (Ends.rfl' s) c ph st d u).ctx k)
  exact h
@[simp] theorem endCmd_ctx_semCount (k : CtxId) : ((s.endCmd c ph st d u).ctx k).semCount = (s.ctx k).semCount := by
  have h : (Ctx.core _).semCount = (Ctx.core _).semCount := congrArg Ctx.semCount ((ends_endCmd (Ends.rfl' s) c ph st d u).ctx k)
  exact h
@[simp] theorem endCmd_ctx_tenant (k : CtxId) : ((s.endCmd c ph st d u).ctx k).tenant = (s.ctx k).tenant := by
  have h : (Ctx.core _).tenant = (Ctx.core _).tenant := congrArg Ctx.tenant ((ends_endCmd (Ends.rfl' s) c ph st d u).ctx k)
  exact h
@[simp] theorem endCmd_ctx_seed (k : CtxId) : ((s.endCmd c ph st d u).ctx k).seed = (s.ctx k).seed := by
  have h : (Ctx.core _).seed = (Ctx.core _).seed := congrArg Ctx.seed ((ends_endCmd (Ends.rfl' s) c ph st d u).ctx k)
  exact h
@[simp] theorem endCmd_ctx_forced (k : CtxId) : ((s.endCmd c ph st d u).ctx k).forced = (s.ctx k).forced := by
  have h : (Ctx.core _).forced = (Ctx.core _).forced := congrArg Ctx.forced ((ends_endCmd (Ends.rfl' s) c ph st d u).ctx k)
  exact h
@[simp] theorem endCmd_ctx_quar (k : CtxId) : ((s.endCmd c ph st d u).ctx k).quar = (s.ctx k).quar := by
  have h : (Ctx.core _).quar = (Ctx.core _).quar := congrArg Ctx.quar ((ends_endCmd (Ends.rfl' s) c ph st d u).ctx k)
  exact h
@[simp] theorem endCmd_ctx_key (k : CtxId) : ((s.endCmd c ph st d u).ctx k).key = (s.ctx k).key := by
  have h : (Ctx.core _).key = (Ctx.core _).key := congrArg Ctx.key ((ends_endCmd (Ends.rfl' s) c ph st d u).ctx k)
  exact h
@[simp] theorem endCmd_ctx_drainTick (k : CtxId) : ((s.endCmd c ph st d u).ctx k).drainTick = (s.ctx k).drainTick := by
  have h : (Ctx.core _).drainTick = (Ctx.core _).drainTick := congrArg Ctx.drainTick ((ends_endCmd (Ends.rfl' s) c ph st d u).ctx k)
  exact h
@[simp] theorem endCmd_ctx_awaitAck (k : CtxId) : ((s.endCmd c ph st d u).ctx k).awaitAck = (s.ctx k).awaitAck := by
  have h : (Ctx.core _).awaitAck = (Ctx.core _).awaitAck := congrArg Ctx.awaitAck ((ends_endCmd (Ends.rfl' s) c ph st d u).ctx k)
  exact h
@[simp] theorem endCmd_ctx_endedKilled (k : CtxId) : ((s.endCmd c ph st d u).ctx k).endedKilled = (s.ctx k).endedKilled := by
  have h : (Ctx.core _).endedKilled = (Ctx.core _).endedKilled := congrArg Ctx.endedKilled ((ends_endCmd (Ends.rfl' s) c ph st d u).ctx k)
  exact h
@[simp] theorem endCmd_ctx_endedPartial (k : CtxId) : ((s.endCmd c ph st d u).ctx k).endedPartial = (s.ctx k).endedPartial := by
  have h : (Ctx.core _).endedPartial = (Ctx.core _).endedPartial := congrArg Ctx.endedPartial ((ends_endCmd (Ends.rfl' s) c ph st d u).ctx k)
  exact h
@[simp] theorem endCmd_ctx_quotaT2 (k : CtxId) : ((s.endCmd c ph st d u).ctx k).quotaT2 = (s.ctx k).quotaT2 := by
  have h : (Ctx.core _).quotaT2 = (Ctx.core _).quotaT2 := congrArg Ctx.quotaT2 ((ends_endCmd (Ends.rfl' s) c ph st d u).ctx k)
  exact h
@[simp] theorem endCmd_ctx_quotaT3 (k : CtxId) : ((s.endCmd c ph st d u).ctx k).quotaT3 = (s.ctx k).quotaT3 := by
  have h : (Ctx.core _).quotaT3 = (Ctx.core _).quotaT3 := congrArg Ctx.quotaT3 ((ends_endCmd (Ends.rfl' s) c ph st d u).ctx k)
  exact h
@[simp] theorem endCmd_ctx_quotaT4 (k : CtxId) : ((s.endCmd c ph st d u).ctx k).quotaT4 = (s.ctx k).quotaT4 := by
  have h : (Ctx.core _).quotaT4 = (Ctx.core _).quotaT4 := congrArg Ctx.quotaT4 ((ends_endCmd (Ends.rfl' s) c ph st d u).ctx k)
  exact h
@[simp] theorem endCmd_ctx_quotaSh (k : CtxId) : ((s.endCmd c ph st d u).ctx k).quotaSh = (s.ctx k).quotaSh := by
  have h : (Ctx.core _).quotaSh = (Ctx.core _).quotaSh := congrArg Ctx.quotaSh ((ends_endCmd (Ends.rfl' s) c ph st d u).ctx k)
  exact h
@[simp] theorem endCmd_ctx_recipes (k : CtxId) : ((s.endCmd c ph st d u).ctx k).recipes = (s.ctx k).recipes := by
  have h : (Ctx.core _).recipes = (Ctx.core _).recipes := congrArg Ctx.recipes ((ends_endCmd (Ends.rfl' s) c ph st d u).ctx k)
  exact h
@[simp] theorem endCmd_ctx_scales (k : CtxId) : ((s.endCmd c ph st d u).ctx k).scales = (s.ctx k).scales := by
  have h : (Ctx.core _).scales = (Ctx.core _).scales := congrArg Ctx.scales ((ends_endCmd (Ends.rfl' s) c ph st d u).ctx k)
  exact h
@[simp] theorem endCmd_ctx_tmpl (k : CtxId) : ((s.endCmd c ph st d u).ctx k).tmpl = (s.ctx k).tmpl := by
  have h : (Ctx.core _).tmpl = (Ctx.core _).tmpl := congrArg Ctx.tmpl ((ends_endCmd (Ends.rfl' s) c ph st d u).ctx k)
  exact h
@[simp] theorem endCmd_ctx_nan (k : CtxId) : ((s.endCmd c ph st d u).ctx k).nan = (s.ctx k).nan := by
  have h : (Ctx.core _).nan = (Ctx.core _).nan := congrArg Ctx.nan ((ends_endCmd (Ends.rfl' s) c ph st d u).ctx k)
  exact h
@[simp] theorem endCmd_ctx_skip (k : CtxId) : ((s.endCmd c ph st d u).ctx k).skip = (s.ctx k).skip := by
  have h : (Ctx.core _).skip = (Ctx.core _).skip := congrArg Ctx.skip ((ends_endCmd (Ends.rfl' s) c ph st d u).ctx k)
  exact h
@[simp] theorem endCmd_ctx_cur (k : CtxId) : ((s.endCmd c ph st d u).ctx k).cur = (s.ctx k).cur := by
  have h : (Ctx.core _).cur = (Ctx.core _).cur := congrArg Ctx.cur ((ends_endCmd (Ends.rfl' s) c ph st d u).ctx k)
  exact h
@[simp] theorem endCmd_ctx_share (k : CtxId) : ((s.endCmd c ph st d u).ctx k).share = (s.ctx k).share := by
  have h : (Ctx.core _).share = (Ctx.core _).share := congrArg Ctx.share ((ends_endCmd (Ends.rfl' s) c ph st d u).ctx k)
  exact h
@[simp] theorem endCmd_ctx_fenced (k : CtxId) : ((s.endCmd c ph st d u).ctx k).fenced = (s.ctx k).fenced := by
  have h : (Ctx.core _).fenced = (Ctx.core _).fenced := congrArg Ctx.fenced ((ends_endCmd (Ends.rfl' s) c ph st d u).ctx k)
  exact h
@[simp] theorem endCmd_preLock : (s.endCmd c ph st d u).sched.preLock = s.sched.preLock := by
  have h : (Sched.core _).preLock = (Sched.core _).preLock := congrArg Sched.preLock (ends_endCmd (Ends.rfl' s) c ph st d u).sched
  exact h
@[simp] theorem endCmd_protectK : (s.endCmd c ph st d u).sched.protectK = s.sched.protectK := by
  have h : (Sched.core _).protectK = (Sched.core _).protectK := congrArg Sched.protectK (ends_endCmd (Ends.rfl' s) c ph st d u).sched
  exact h
@[simp] theorem endCmd_liveMax : (s.endCmd c ph st d u).sched.liveMax = s.sched.liveMax := by
  have h : (Sched.core _).liveMax = (Sched.core _).liveMax := congrArg Sched.liveMax (ends_endCmd (Ends.rfl' s) c ph st d u).sched
  exact h
@[simp] theorem endCmd_preWait : (s.endCmd c ph st d u).sched.preWait = s.sched.preWait := by
  have h : (Sched.core _).preWait = (Sched.core _).preWait := congrArg Sched.preWait (ends_endCmd (Ends.rfl' s) c ph st d u).sched
  exact h
@[simp] theorem endCmd_cores : (s.endCmd c ph st d u).sched.cores = s.sched.cores := by
  have h : (Sched.core _).cores = (Sched.core _).cores := congrArg Sched.cores (ends_endCmd (Ends.rfl' s) c ph st d u).sched
  exact h
@[simp] theorem endCmd_svcRoots : (s.endCmd c ph st d u).sched.svcRoots = s.sched.svcRoots := by
  have h : (Sched.core _).svcRoots = (Sched.core _).svcRoots := congrArg Sched.svcRoots (ends_endCmd (Ends.rfl' s) c ph st d u).sched
  exact h
@[simp] theorem endCmd_cap : (s.endCmd c ph st d u).memUnit.cap = s.memUnit.cap := by
  have h : (MemUnit.core _).cap = (MemUnit.core _).cap := congrArg MemUnit.cap (ends_endCmd (Ends.rfl' s) c ph st d u).memUnit
  exact h
@[simp] theorem endCmd_fwReserved : (s.endCmd c ph st d u).memUnit.fwReserved = s.memUnit.fwReserved := by
  have h : (MemUnit.core _).fwReserved = (MemUnit.core _).fwReserved := congrArg MemUnit.fwReserved (ends_endCmd (Ends.rfl' s) c ph st d u).memUnit
  exact h
@[simp] theorem endCmd_lendLock : (s.endCmd c ph st d u).memUnit.lendLock = s.memUnit.lendLock := by
  have h : (MemUnit.core _).lendLock = (MemUnit.core _).lendLock := congrArg MemUnit.lendLock (ends_endCmd (Ends.rfl' s) c ph st d u).memUnit
  exact h
@[simp] theorem endCmd_lendPages : (s.endCmd c ph st d u).memUnit.lendPages = s.memUnit.lendPages := by
  have h : (MemUnit.core _).lendPages = (MemUnit.core _).lendPages := congrArg MemUnit.lendPages (ends_endCmd (Ends.rfl' s) c ph st d u).memUnit
  exact h
@[simp] theorem endCmd_migRate : (s.endCmd c ph st d u).memUnit.migRate = s.memUnit.migRate := by
  have h : (MemUnit.core _).migRate = (MemUnit.core _).migRate := congrArg MemUnit.migRate (ends_endCmd (Ends.rfl' s) c ph st d u).memUnit
  exact h
@[simp] theorem endCmd_hbm : (s.endCmd c ph st d u).memUnit.hbm = s.memUnit.hbm := by
  have h : (MemUnit.core _).hbm = (MemUnit.core _).hbm := congrArg MemUnit.hbm (ends_endCmd (Ends.rfl' s) c ph st d u).memUnit
  exact h
@[simp] theorem endCmd_lent : (s.endCmd c ph st d u).memUnit.lent = s.memUnit.lent := by
  have h : (MemUnit.core _).lent = (MemUnit.core _).lent := congrArg MemUnit.lent (ends_endCmd (Ends.rfl' s) c ph st d u).memUnit
  exact h
@[simp] theorem endCmd_peerRoom : (s.endCmd c ph st d u).memUnit.peerRoom = s.memUnit.peerRoom := by
  have h : (MemUnit.core _).peerRoom = (MemUnit.core _).peerRoom := congrArg MemUnit.peerRoom (ends_endCmd (Ends.rfl' s) c ph st d u).memUnit
  exact h
@[simp] theorem endCmd_retiredFrames : (s.endCmd c ph st d u).memUnit.retiredFrames = s.memUnit.retiredFrames := by
  have h : (MemUnit.core _).retiredFrames = (MemUnit.core _).retiredFrames := congrArg MemUnit.retiredFrames (ends_endCmd (Ends.rfl' s) c ph st d u).memUnit
  exact h
@[simp] theorem endCmd_nextFault : (s.endCmd c ph st d u).memUnit.nextFault = s.memUnit.nextFault := by
  have h : (MemUnit.core _).nextFault = (MemUnit.core _).nextFault := congrArg MemUnit.nextFault (ends_endCmd (Ends.rfl' s) c ph st d u).memUnit
  exact h
end

section
variable (s : State) (cs : List Cmd) (f : Cmd → Phase × W16 × W64)
@[simp] theorem endAll_mode : (s.endAll cs f).mode = s.mode := (ends_endAll (Ends.rfl' s) cs f).mode
@[simp] theorem endAll_vault : (s.endAll cs f).vault = s.vault := (ends_endAll (Ends.rfl' s) cs f).vault
@[simp] theorem endAll_tick : (s.endAll cs f).tick = s.tick := (ends_endAll (Ends.rfl' s) cs f).tick
@[simp] theorem endAll_jobs : (s.endAll cs f).jobs = s.jobs := (ends_endAll (Ends.rfl' s) cs f).jobs
@[simp] theorem endAll_jobChanges : (s.endAll cs f).jobChanges = s.jobChanges := (ends_endAll (Ends.rfl' s) cs f).jobChanges
@[simp] theorem endAll_pvs : (s.endAll cs f).pvs = s.pvs := (ends_endAll (Ends.rfl' s) cs f).pvs
@[simp] theorem endAll_mir : (s.endAll cs f).mir = s.mir := (ends_endAll (Ends.rfl' s) cs f).mir
@[simp] theorem endAll_boot : (s.endAll cs f).boot = s.boot := (ends_endAll (Ends.rfl' s) cs f).boot
@[simp] theorem endAll_power : (s.endAll cs f).power = s.power := (ends_endAll (Ends.rfl' s) cs f).power
@[simp] theorem endAll_ports : (s.endAll cs f).serve.ports = s.serve.ports := by
  have h : (Serve.core _).ports = (Serve.core _).ports := congrArg Serve.ports (ends_endAll (Ends.rfl' s) cs f).serve
  exact h
@[simp] theorem endAll_insts : (s.endAll cs f).serve.insts = s.serve.insts := by
  have h : (Serve.core _).insts = (Serve.core _).insts := congrArg Serve.insts (ends_endAll (Ends.rfl' s) cs f).serve
  exact h
@[simp] theorem endAll_sessions : (s.endAll cs f).serve.sessions = s.serve.sessions := by
  have h : (Serve.core _).sessions = (Serve.core _).sessions := congrArg Serve.sessions (ends_endAll (Ends.rfl' s) cs f).serve
  exact h
@[simp] theorem endAll_reqs : (s.endAll cs f).serve.reqs = s.serve.reqs := by
  have h : (Serve.core _).reqs = (Serve.core _).reqs := congrArg Serve.reqs (ends_endAll (Ends.rfl' s) cs f).serve
  exact h
@[simp] theorem endAll_cfgErr : (s.endAll cs f).cfgErr = s.cfgErr := (ends_endAll (Ends.rfl' s) cs f).cfgErr
@[simp] theorem endAll_pending : (s.endAll cs f).pending = s.pending := (ends_endAll (Ends.rfl' s) cs f).pending
@[simp] theorem endAll_ctx_state (k : CtxId) : ((s.endAll cs f).ctx k).state = (s.ctx k).state := by
  have h : (Ctx.core _).state = (Ctx.core _).state := congrArg Ctx.state ((ends_endAll (Ends.rfl' s) cs f).ctx k)
  exact h
@[simp] theorem endAll_ctx_gen (k : CtxId) : ((s.endAll cs f).ctx k).gen = (s.ctx k).gen := by
  have h : (Ctx.core _).gen = (Ctx.core _).gen := congrArg Ctx.gen ((ends_endAll (Ends.rfl' s) cs f).ctx k)
  exact h
@[simp] theorem endAll_ctx_classes (k : CtxId) : ((s.endAll cs f).ctx k).classes = (s.ctx k).classes := by
  have h : (Ctx.core _).classes = (Ctx.core _).classes := congrArg Ctx.classes ((ends_endAll (Ends.rfl' s) cs f).ctx k)
  exact h
@[simp] theorem endAll_ctx_semBase (k : CtxId) : ((s.endAll cs f).ctx k).semBase = (s.ctx k).semBase := by
  have h : (Ctx.core _).semBase = (Ctx.core _).semBase := congrArg Ctx.semBase ((ends_endAll (Ends.rfl' s) cs f).ctx k)
  exact h
@[simp] theorem endAll_ctx_semCount (k : CtxId) : ((s.endAll cs f).ctx k).semCount = (s.ctx k).semCount := by
  have h : (Ctx.core _).semCount = (Ctx.core _).semCount := congrArg Ctx.semCount ((ends_endAll (Ends.rfl' s) cs f).ctx k)
  exact h
@[simp] theorem endAll_ctx_tenant (k : CtxId) : ((s.endAll cs f).ctx k).tenant = (s.ctx k).tenant := by
  have h : (Ctx.core _).tenant = (Ctx.core _).tenant := congrArg Ctx.tenant ((ends_endAll (Ends.rfl' s) cs f).ctx k)
  exact h
@[simp] theorem endAll_ctx_seed (k : CtxId) : ((s.endAll cs f).ctx k).seed = (s.ctx k).seed := by
  have h : (Ctx.core _).seed = (Ctx.core _).seed := congrArg Ctx.seed ((ends_endAll (Ends.rfl' s) cs f).ctx k)
  exact h
@[simp] theorem endAll_ctx_forced (k : CtxId) : ((s.endAll cs f).ctx k).forced = (s.ctx k).forced := by
  have h : (Ctx.core _).forced = (Ctx.core _).forced := congrArg Ctx.forced ((ends_endAll (Ends.rfl' s) cs f).ctx k)
  exact h
@[simp] theorem endAll_ctx_quar (k : CtxId) : ((s.endAll cs f).ctx k).quar = (s.ctx k).quar := by
  have h : (Ctx.core _).quar = (Ctx.core _).quar := congrArg Ctx.quar ((ends_endAll (Ends.rfl' s) cs f).ctx k)
  exact h
@[simp] theorem endAll_ctx_key (k : CtxId) : ((s.endAll cs f).ctx k).key = (s.ctx k).key := by
  have h : (Ctx.core _).key = (Ctx.core _).key := congrArg Ctx.key ((ends_endAll (Ends.rfl' s) cs f).ctx k)
  exact h
@[simp] theorem endAll_ctx_drainTick (k : CtxId) : ((s.endAll cs f).ctx k).drainTick = (s.ctx k).drainTick := by
  have h : (Ctx.core _).drainTick = (Ctx.core _).drainTick := congrArg Ctx.drainTick ((ends_endAll (Ends.rfl' s) cs f).ctx k)
  exact h
@[simp] theorem endAll_ctx_awaitAck (k : CtxId) : ((s.endAll cs f).ctx k).awaitAck = (s.ctx k).awaitAck := by
  have h : (Ctx.core _).awaitAck = (Ctx.core _).awaitAck := congrArg Ctx.awaitAck ((ends_endAll (Ends.rfl' s) cs f).ctx k)
  exact h
@[simp] theorem endAll_ctx_endedKilled (k : CtxId) : ((s.endAll cs f).ctx k).endedKilled = (s.ctx k).endedKilled := by
  have h : (Ctx.core _).endedKilled = (Ctx.core _).endedKilled := congrArg Ctx.endedKilled ((ends_endAll (Ends.rfl' s) cs f).ctx k)
  exact h
@[simp] theorem endAll_ctx_endedPartial (k : CtxId) : ((s.endAll cs f).ctx k).endedPartial = (s.ctx k).endedPartial := by
  have h : (Ctx.core _).endedPartial = (Ctx.core _).endedPartial := congrArg Ctx.endedPartial ((ends_endAll (Ends.rfl' s) cs f).ctx k)
  exact h
@[simp] theorem endAll_ctx_quotaT2 (k : CtxId) : ((s.endAll cs f).ctx k).quotaT2 = (s.ctx k).quotaT2 := by
  have h : (Ctx.core _).quotaT2 = (Ctx.core _).quotaT2 := congrArg Ctx.quotaT2 ((ends_endAll (Ends.rfl' s) cs f).ctx k)
  exact h
@[simp] theorem endAll_ctx_quotaT3 (k : CtxId) : ((s.endAll cs f).ctx k).quotaT3 = (s.ctx k).quotaT3 := by
  have h : (Ctx.core _).quotaT3 = (Ctx.core _).quotaT3 := congrArg Ctx.quotaT3 ((ends_endAll (Ends.rfl' s) cs f).ctx k)
  exact h
@[simp] theorem endAll_ctx_quotaT4 (k : CtxId) : ((s.endAll cs f).ctx k).quotaT4 = (s.ctx k).quotaT4 := by
  have h : (Ctx.core _).quotaT4 = (Ctx.core _).quotaT4 := congrArg Ctx.quotaT4 ((ends_endAll (Ends.rfl' s) cs f).ctx k)
  exact h
@[simp] theorem endAll_ctx_quotaSh (k : CtxId) : ((s.endAll cs f).ctx k).quotaSh = (s.ctx k).quotaSh := by
  have h : (Ctx.core _).quotaSh = (Ctx.core _).quotaSh := congrArg Ctx.quotaSh ((ends_endAll (Ends.rfl' s) cs f).ctx k)
  exact h
@[simp] theorem endAll_ctx_recipes (k : CtxId) : ((s.endAll cs f).ctx k).recipes = (s.ctx k).recipes := by
  have h : (Ctx.core _).recipes = (Ctx.core _).recipes := congrArg Ctx.recipes ((ends_endAll (Ends.rfl' s) cs f).ctx k)
  exact h
@[simp] theorem endAll_ctx_scales (k : CtxId) : ((s.endAll cs f).ctx k).scales = (s.ctx k).scales := by
  have h : (Ctx.core _).scales = (Ctx.core _).scales := congrArg Ctx.scales ((ends_endAll (Ends.rfl' s) cs f).ctx k)
  exact h
@[simp] theorem endAll_ctx_tmpl (k : CtxId) : ((s.endAll cs f).ctx k).tmpl = (s.ctx k).tmpl := by
  have h : (Ctx.core _).tmpl = (Ctx.core _).tmpl := congrArg Ctx.tmpl ((ends_endAll (Ends.rfl' s) cs f).ctx k)
  exact h
@[simp] theorem endAll_ctx_nan (k : CtxId) : ((s.endAll cs f).ctx k).nan = (s.ctx k).nan := by
  have h : (Ctx.core _).nan = (Ctx.core _).nan := congrArg Ctx.nan ((ends_endAll (Ends.rfl' s) cs f).ctx k)
  exact h
@[simp] theorem endAll_ctx_skip (k : CtxId) : ((s.endAll cs f).ctx k).skip = (s.ctx k).skip := by
  have h : (Ctx.core _).skip = (Ctx.core _).skip := congrArg Ctx.skip ((ends_endAll (Ends.rfl' s) cs f).ctx k)
  exact h
@[simp] theorem endAll_ctx_cur (k : CtxId) : ((s.endAll cs f).ctx k).cur = (s.ctx k).cur := by
  have h : (Ctx.core _).cur = (Ctx.core _).cur := congrArg Ctx.cur ((ends_endAll (Ends.rfl' s) cs f).ctx k)
  exact h
@[simp] theorem endAll_ctx_share (k : CtxId) : ((s.endAll cs f).ctx k).share = (s.ctx k).share := by
  have h : (Ctx.core _).share = (Ctx.core _).share := congrArg Ctx.share ((ends_endAll (Ends.rfl' s) cs f).ctx k)
  exact h
@[simp] theorem endAll_ctx_fenced (k : CtxId) : ((s.endAll cs f).ctx k).fenced = (s.ctx k).fenced := by
  have h : (Ctx.core _).fenced = (Ctx.core _).fenced := congrArg Ctx.fenced ((ends_endAll (Ends.rfl' s) cs f).ctx k)
  exact h
@[simp] theorem endAll_preLock : (s.endAll cs f).sched.preLock = s.sched.preLock := by
  have h : (Sched.core _).preLock = (Sched.core _).preLock := congrArg Sched.preLock (ends_endAll (Ends.rfl' s) cs f).sched
  exact h
@[simp] theorem endAll_protectK : (s.endAll cs f).sched.protectK = s.sched.protectK := by
  have h : (Sched.core _).protectK = (Sched.core _).protectK := congrArg Sched.protectK (ends_endAll (Ends.rfl' s) cs f).sched
  exact h
@[simp] theorem endAll_liveMax : (s.endAll cs f).sched.liveMax = s.sched.liveMax := by
  have h : (Sched.core _).liveMax = (Sched.core _).liveMax := congrArg Sched.liveMax (ends_endAll (Ends.rfl' s) cs f).sched
  exact h
@[simp] theorem endAll_preWait : (s.endAll cs f).sched.preWait = s.sched.preWait := by
  have h : (Sched.core _).preWait = (Sched.core _).preWait := congrArg Sched.preWait (ends_endAll (Ends.rfl' s) cs f).sched
  exact h
@[simp] theorem endAll_cores : (s.endAll cs f).sched.cores = s.sched.cores := by
  have h : (Sched.core _).cores = (Sched.core _).cores := congrArg Sched.cores (ends_endAll (Ends.rfl' s) cs f).sched
  exact h
@[simp] theorem endAll_svcRoots : (s.endAll cs f).sched.svcRoots = s.sched.svcRoots := by
  have h : (Sched.core _).svcRoots = (Sched.core _).svcRoots := congrArg Sched.svcRoots (ends_endAll (Ends.rfl' s) cs f).sched
  exact h
@[simp] theorem endAll_cap : (s.endAll cs f).memUnit.cap = s.memUnit.cap := by
  have h : (MemUnit.core _).cap = (MemUnit.core _).cap := congrArg MemUnit.cap (ends_endAll (Ends.rfl' s) cs f).memUnit
  exact h
@[simp] theorem endAll_fwReserved : (s.endAll cs f).memUnit.fwReserved = s.memUnit.fwReserved := by
  have h : (MemUnit.core _).fwReserved = (MemUnit.core _).fwReserved := congrArg MemUnit.fwReserved (ends_endAll (Ends.rfl' s) cs f).memUnit
  exact h
@[simp] theorem endAll_lendLock : (s.endAll cs f).memUnit.lendLock = s.memUnit.lendLock := by
  have h : (MemUnit.core _).lendLock = (MemUnit.core _).lendLock := congrArg MemUnit.lendLock (ends_endAll (Ends.rfl' s) cs f).memUnit
  exact h
@[simp] theorem endAll_lendPages : (s.endAll cs f).memUnit.lendPages = s.memUnit.lendPages := by
  have h : (MemUnit.core _).lendPages = (MemUnit.core _).lendPages := congrArg MemUnit.lendPages (ends_endAll (Ends.rfl' s) cs f).memUnit
  exact h
@[simp] theorem endAll_migRate : (s.endAll cs f).memUnit.migRate = s.memUnit.migRate := by
  have h : (MemUnit.core _).migRate = (MemUnit.core _).migRate := congrArg MemUnit.migRate (ends_endAll (Ends.rfl' s) cs f).memUnit
  exact h
@[simp] theorem endAll_hbm : (s.endAll cs f).memUnit.hbm = s.memUnit.hbm := by
  have h : (MemUnit.core _).hbm = (MemUnit.core _).hbm := congrArg MemUnit.hbm (ends_endAll (Ends.rfl' s) cs f).memUnit
  exact h
@[simp] theorem endAll_lent : (s.endAll cs f).memUnit.lent = s.memUnit.lent := by
  have h : (MemUnit.core _).lent = (MemUnit.core _).lent := congrArg MemUnit.lent (ends_endAll (Ends.rfl' s) cs f).memUnit
  exact h
@[simp] theorem endAll_peerRoom : (s.endAll cs f).memUnit.peerRoom = s.memUnit.peerRoom := by
  have h : (MemUnit.core _).peerRoom = (MemUnit.core _).peerRoom := congrArg MemUnit.peerRoom (ends_endAll (Ends.rfl' s) cs f).memUnit
  exact h
@[simp] theorem endAll_retiredFrames : (s.endAll cs f).memUnit.retiredFrames = s.memUnit.retiredFrames := by
  have h : (MemUnit.core _).retiredFrames = (MemUnit.core _).retiredFrames := congrArg MemUnit.retiredFrames (ends_endAll (Ends.rfl' s) cs f).memUnit
  exact h
@[simp] theorem endAll_nextFault : (s.endAll cs f).memUnit.nextFault = s.memUnit.nextFault := by
  have h : (MemUnit.core _).nextFault = (MemUnit.core _).nextFault := congrArg MemUnit.nextFault (ends_endAll (Ends.rfl' s) cs f).memUnit
  exact h
end

section
variable (s : State) (off k n : Nat)
@[simp] theorem count_mode : (s.count off k n).mode = s.mode := (tells_count (Tells.rfl' s) off k n).mode
@[simp] theorem count_memUnit : (s.count off k n).memUnit = s.memUnit := (tells_count (Tells.rfl' s) off k n).memUnit
@[simp] theorem count_ctxs : (s.count off k n).ctxs = s.ctxs := (tells_count (Tells.rfl' s) off k n).ctxs
@[simp] theorem count_vault : (s.count off k n).vault = s.vault := (tells_count (Tells.rfl' s) off k n).vault
@[simp] theorem count_rings : (s.count off k n).rings = s.rings := (tells_count (Tells.rfl' s) off k n).rings
@[simp] theorem count_sched : (s.count off k n).sched = s.sched := (tells_count (Tells.rfl' s) off k n).sched
@[simp] theorem count_slices : (s.count off k n).slices = s.slices := (tells_count (Tells.rfl' s) off k n).slices
@[simp] theorem count_dma : (s.count off k n).dma = s.dma := (tells_count (Tells.rfl' s) off k n).dma
@[simp] theorem count_tick : (s.count off k n).tick = s.tick := (tells_count (Tells.rfl' s) off k n).tick
@[simp] theorem count_fab : (s.count off k n).fab = s.fab := (tells_count (Tells.rfl' s) off k n).fab
@[simp] theorem count_cle : (s.count off k n).cle = s.cle := (tells_count (Tells.rfl' s) off k n).cle
@[simp] theorem count_jobs : (s.count off k n).jobs = s.jobs := (tells_count (Tells.rfl' s) off k n).jobs
@[simp] theorem count_jobChanges : (s.count off k n).jobChanges = s.jobChanges := (tells_count (Tells.rfl' s) off k n).jobChanges
@[simp] theorem count_pvs : (s.count off k n).pvs = s.pvs := (tells_count (Tells.rfl' s) off k n).pvs
@[simp] theorem count_mir : (s.count off k n).mir = s.mir := (tells_count (Tells.rfl' s) off k n).mir
@[simp] theorem count_boot : (s.count off k n).boot = s.boot := (tells_count (Tells.rfl' s) off k n).boot
@[simp] theorem count_power : (s.count off k n).power = s.power := (tells_count (Tells.rfl' s) off k n).power
@[simp] theorem count_serve : (s.count off k n).serve = s.serve := (tells_count (Tells.rfl' s) off k n).serve
@[simp] theorem count_pending : (s.count off k n).pending = s.pending := (tells_count (Tells.rfl' s) off k n).pending
end

section
variable (s : State) (code unit : W16) (c : Option CtxId) (root : Option W16) (data : List W32)
@[simp] theorem raise_mode : (s.raise code unit c root data).mode = s.mode := (tells_raise (Tells.rfl' s) code unit c root data).mode
@[simp] theorem raise_memUnit : (s.raise code unit c root data).memUnit = s.memUnit := (tells_raise (Tells.rfl' s) code unit c root data).memUnit
@[simp] theorem raise_ctxs : (s.raise code unit c root data).ctxs = s.ctxs := (tells_raise (Tells.rfl' s) code unit c root data).ctxs
@[simp] theorem raise_vault : (s.raise code unit c root data).vault = s.vault := (tells_raise (Tells.rfl' s) code unit c root data).vault
@[simp] theorem raise_rings : (s.raise code unit c root data).rings = s.rings := (tells_raise (Tells.rfl' s) code unit c root data).rings
@[simp] theorem raise_sched : (s.raise code unit c root data).sched = s.sched := (tells_raise (Tells.rfl' s) code unit c root data).sched
@[simp] theorem raise_slices : (s.raise code unit c root data).slices = s.slices := (tells_raise (Tells.rfl' s) code unit c root data).slices
@[simp] theorem raise_dma : (s.raise code unit c root data).dma = s.dma := (tells_raise (Tells.rfl' s) code unit c root data).dma
@[simp] theorem raise_tick : (s.raise code unit c root data).tick = s.tick := (tells_raise (Tells.rfl' s) code unit c root data).tick
@[simp] theorem raise_fab : (s.raise code unit c root data).fab = s.fab := (tells_raise (Tells.rfl' s) code unit c root data).fab
@[simp] theorem raise_cle : (s.raise code unit c root data).cle = s.cle := (tells_raise (Tells.rfl' s) code unit c root data).cle
@[simp] theorem raise_jobs : (s.raise code unit c root data).jobs = s.jobs := (tells_raise (Tells.rfl' s) code unit c root data).jobs
@[simp] theorem raise_jobChanges : (s.raise code unit c root data).jobChanges = s.jobChanges := (tells_raise (Tells.rfl' s) code unit c root data).jobChanges
@[simp] theorem raise_pvs : (s.raise code unit c root data).pvs = s.pvs := (tells_raise (Tells.rfl' s) code unit c root data).pvs
@[simp] theorem raise_mir : (s.raise code unit c root data).mir = s.mir := (tells_raise (Tells.rfl' s) code unit c root data).mir
@[simp] theorem raise_boot : (s.raise code unit c root data).boot = s.boot := (tells_raise (Tells.rfl' s) code unit c root data).boot
@[simp] theorem raise_power : (s.raise code unit c root data).power = s.power := (tells_raise (Tells.rfl' s) code unit c root data).power
@[simp] theorem raise_serve : (s.raise code unit c root data).serve = s.serve := (tells_raise (Tells.rfl' s) code unit c root data).serve
@[simp] theorem raise_pending : (s.raise code unit c root data).pending = s.pending := (tells_raise (Tells.rfl' s) code unit c root data).pending
end

section
variable (s : State) (cls : EvClass) (unit : W16) (data : List W32)
@[simp] theorem raiseOpen_mode : (s.raiseOpen cls unit data).mode = s.mode := (tells_raiseOpen (Tells.rfl' s) cls unit data).mode
@[simp] theorem raiseOpen_memUnit : (s.raiseOpen cls unit data).memUnit = s.memUnit := (tells_raiseOpen (Tells.rfl' s) cls unit data).memUnit
@[simp] theorem raiseOpen_ctxs : (s.raiseOpen cls unit data).ctxs = s.ctxs := (tells_raiseOpen (Tells.rfl' s) cls unit data).ctxs
@[simp] theorem raiseOpen_vault : (s.raiseOpen cls unit data).vault = s.vault := (tells_raiseOpen (Tells.rfl' s) cls unit data).vault
@[simp] theorem raiseOpen_rings : (s.raiseOpen cls unit data).rings = s.rings := (tells_raiseOpen (Tells.rfl' s) cls unit data).rings
@[simp] theorem raiseOpen_sched : (s.raiseOpen cls unit data).sched = s.sched := (tells_raiseOpen (Tells.rfl' s) cls unit data).sched
@[simp] theorem raiseOpen_slices : (s.raiseOpen cls unit data).slices = s.slices := (tells_raiseOpen (Tells.rfl' s) cls unit data).slices
@[simp] theorem raiseOpen_dma : (s.raiseOpen cls unit data).dma = s.dma := (tells_raiseOpen (Tells.rfl' s) cls unit data).dma
@[simp] theorem raiseOpen_tick : (s.raiseOpen cls unit data).tick = s.tick := (tells_raiseOpen (Tells.rfl' s) cls unit data).tick
@[simp] theorem raiseOpen_fab : (s.raiseOpen cls unit data).fab = s.fab := (tells_raiseOpen (Tells.rfl' s) cls unit data).fab
@[simp] theorem raiseOpen_cle : (s.raiseOpen cls unit data).cle = s.cle := (tells_raiseOpen (Tells.rfl' s) cls unit data).cle
@[simp] theorem raiseOpen_jobs : (s.raiseOpen cls unit data).jobs = s.jobs := (tells_raiseOpen (Tells.rfl' s) cls unit data).jobs
@[simp] theorem raiseOpen_jobChanges : (s.raiseOpen cls unit data).jobChanges = s.jobChanges := (tells_raiseOpen (Tells.rfl' s) cls unit data).jobChanges
@[simp] theorem raiseOpen_pvs : (s.raiseOpen cls unit data).pvs = s.pvs := (tells_raiseOpen (Tells.rfl' s) cls unit data).pvs
@[simp] theorem raiseOpen_mir : (s.raiseOpen cls unit data).mir = s.mir := (tells_raiseOpen (Tells.rfl' s) cls unit data).mir
@[simp] theorem raiseOpen_boot : (s.raiseOpen cls unit data).boot = s.boot := (tells_raiseOpen (Tells.rfl' s) cls unit data).boot
@[simp] theorem raiseOpen_power : (s.raiseOpen cls unit data).power = s.power := (tells_raiseOpen (Tells.rfl' s) cls unit data).power
@[simp] theorem raiseOpen_serve : (s.raiseOpen cls unit data).serve = s.serve := (tells_raiseOpen (Tells.rfl' s) cls unit data).serve
@[simp] theorem raiseOpen_pending : (s.raiseOpen cls unit data).pending = s.pending := (tells_raiseOpen (Tells.rfl' s) cls unit data).pending
end

section
variable (s : State) (kind : CfgKind) (path : CfgPath) (off : Nat)
@[simp] theorem cfgError_mode : (s.cfgError kind path off).mode = s.mode := (tells_cfgError (Tells.rfl' s) kind path off).mode
@[simp] theorem cfgError_memUnit : (s.cfgError kind path off).memUnit = s.memUnit := (tells_cfgError (Tells.rfl' s) kind path off).memUnit
@[simp] theorem cfgError_ctxs : (s.cfgError kind path off).ctxs = s.ctxs := (tells_cfgError (Tells.rfl' s) kind path off).ctxs
@[simp] theorem cfgError_vault : (s.cfgError kind path off).vault = s.vault := (tells_cfgError (Tells.rfl' s) kind path off).vault
@[simp] theorem cfgError_rings : (s.cfgError kind path off).rings = s.rings := (tells_cfgError (Tells.rfl' s) kind path off).rings
@[simp] theorem cfgError_sched : (s.cfgError kind path off).sched = s.sched := (tells_cfgError (Tells.rfl' s) kind path off).sched
@[simp] theorem cfgError_slices : (s.cfgError kind path off).slices = s.slices := (tells_cfgError (Tells.rfl' s) kind path off).slices
@[simp] theorem cfgError_dma : (s.cfgError kind path off).dma = s.dma := (tells_cfgError (Tells.rfl' s) kind path off).dma
@[simp] theorem cfgError_tick : (s.cfgError kind path off).tick = s.tick := (tells_cfgError (Tells.rfl' s) kind path off).tick
@[simp] theorem cfgError_fab : (s.cfgError kind path off).fab = s.fab := (tells_cfgError (Tells.rfl' s) kind path off).fab
@[simp] theorem cfgError_cle : (s.cfgError kind path off).cle = s.cle := (tells_cfgError (Tells.rfl' s) kind path off).cle
@[simp] theorem cfgError_jobs : (s.cfgError kind path off).jobs = s.jobs := (tells_cfgError (Tells.rfl' s) kind path off).jobs
@[simp] theorem cfgError_jobChanges : (s.cfgError kind path off).jobChanges = s.jobChanges := (tells_cfgError (Tells.rfl' s) kind path off).jobChanges
@[simp] theorem cfgError_pvs : (s.cfgError kind path off).pvs = s.pvs := (tells_cfgError (Tells.rfl' s) kind path off).pvs
@[simp] theorem cfgError_mir : (s.cfgError kind path off).mir = s.mir := (tells_cfgError (Tells.rfl' s) kind path off).mir
@[simp] theorem cfgError_boot : (s.cfgError kind path off).boot = s.boot := (tells_cfgError (Tells.rfl' s) kind path off).boot
@[simp] theorem cfgError_power : (s.cfgError kind path off).power = s.power := (tells_cfgError (Tells.rfl' s) kind path off).power
@[simp] theorem cfgError_serve : (s.cfgError kind path off).serve = s.serve := (tells_cfgError (Tells.rfl' s) kind path off).serve
@[simp] theorem cfgError_pending : (s.cfgError kind path off).pending = s.pending := (tells_cfgError (Tells.rfl' s) kind path off).pending
end

section
variable (s : State) (l : LinkId) (typ : Byte) (cls : PrioClass) (dst : W16) (x : CtxId) (gen : Byte) (a : W32) (b : List Byte) (cid : Nat)
@[simp] theorem sendOn_mode : (s.sendOn l typ cls dst x gen a b cid).mode = s.mode := (sends_sendOn (Sends.rfl' s) l typ cls dst x gen a b cid).mode
@[simp] theorem sendOn_mem : (s.sendOn l typ cls dst x gen a b cid).mem = s.mem := (sends_sendOn (Sends.rfl' s) l typ cls dst x gen a b cid).mem
@[simp] theorem sendOn_memUnit : (s.sendOn l typ cls dst x gen a b cid).memUnit = s.memUnit := (sends_sendOn (Sends.rfl' s) l typ cls dst x gen a b cid).memUnit
@[simp] theorem sendOn_ctxs : (s.sendOn l typ cls dst x gen a b cid).ctxs = s.ctxs := (sends_sendOn (Sends.rfl' s) l typ cls dst x gen a b cid).ctxs
@[simp] theorem sendOn_vault : (s.sendOn l typ cls dst x gen a b cid).vault = s.vault := (sends_sendOn (Sends.rfl' s) l typ cls dst x gen a b cid).vault
@[simp] theorem sendOn_rings : (s.sendOn l typ cls dst x gen a b cid).rings = s.rings := (sends_sendOn (Sends.rfl' s) l typ cls dst x gen a b cid).rings
@[simp] theorem sendOn_sched : (s.sendOn l typ cls dst x gen a b cid).sched = s.sched := (sends_sendOn (Sends.rfl' s) l typ cls dst x gen a b cid).sched
@[simp] theorem sendOn_slices : (s.sendOn l typ cls dst x gen a b cid).slices = s.slices := (sends_sendOn (Sends.rfl' s) l typ cls dst x gen a b cid).slices
@[simp] theorem sendOn_dma : (s.sendOn l typ cls dst x gen a b cid).dma = s.dma := (sends_sendOn (Sends.rfl' s) l typ cls dst x gen a b cid).dma
@[simp] theorem sendOn_tick : (s.sendOn l typ cls dst x gen a b cid).tick = s.tick := (sends_sendOn (Sends.rfl' s) l typ cls dst x gen a b cid).tick
@[simp] theorem sendOn_cle : (s.sendOn l typ cls dst x gen a b cid).cle = s.cle := (sends_sendOn (Sends.rfl' s) l typ cls dst x gen a b cid).cle
@[simp] theorem sendOn_jobs : (s.sendOn l typ cls dst x gen a b cid).jobs = s.jobs := (sends_sendOn (Sends.rfl' s) l typ cls dst x gen a b cid).jobs
@[simp] theorem sendOn_jobChanges : (s.sendOn l typ cls dst x gen a b cid).jobChanges = s.jobChanges := (sends_sendOn (Sends.rfl' s) l typ cls dst x gen a b cid).jobChanges
@[simp] theorem sendOn_pvs : (s.sendOn l typ cls dst x gen a b cid).pvs = s.pvs := (sends_sendOn (Sends.rfl' s) l typ cls dst x gen a b cid).pvs
@[simp] theorem sendOn_mir : (s.sendOn l typ cls dst x gen a b cid).mir = s.mir := (sends_sendOn (Sends.rfl' s) l typ cls dst x gen a b cid).mir
@[simp] theorem sendOn_ras : (s.sendOn l typ cls dst x gen a b cid).ras = s.ras := (sends_sendOn (Sends.rfl' s) l typ cls dst x gen a b cid).ras
@[simp] theorem sendOn_boot : (s.sendOn l typ cls dst x gen a b cid).boot = s.boot := (sends_sendOn (Sends.rfl' s) l typ cls dst x gen a b cid).boot
@[simp] theorem sendOn_power : (s.sendOn l typ cls dst x gen a b cid).power = s.power := (sends_sendOn (Sends.rfl' s) l typ cls dst x gen a b cid).power
@[simp] theorem sendOn_pcie : (s.sendOn l typ cls dst x gen a b cid).pcie = s.pcie := (sends_sendOn (Sends.rfl' s) l typ cls dst x gen a b cid).pcie
@[simp] theorem sendOn_mgt : (s.sendOn l typ cls dst x gen a b cid).mgt = s.mgt := (sends_sendOn (Sends.rfl' s) l typ cls dst x gen a b cid).mgt
@[simp] theorem sendOn_serve : (s.sendOn l typ cls dst x gen a b cid).serve = s.serve := (sends_sendOn (Sends.rfl' s) l typ cls dst x gen a b cid).serve
@[simp] theorem sendOn_cfgErr : (s.sendOn l typ cls dst x gen a b cid).cfgErr = s.cfgErr := (sends_sendOn (Sends.rfl' s) l typ cls dst x gen a b cid).cfgErr
@[simp] theorem sendOn_hostBank : (s.sendOn l typ cls dst x gen a b cid).hostBank = s.hostBank := (sends_sendOn (Sends.rfl' s) l typ cls dst x gen a b cid).hostBank
@[simp] theorem sendOn_mgtBank : (s.sendOn l typ cls dst x gen a b cid).mgtBank = s.mgtBank := (sends_sendOn (Sends.rfl' s) l typ cls dst x gen a b cid).mgtBank
@[simp] theorem sendOn_fwBanks : (s.sendOn l typ cls dst x gen a b cid).fwBanks = s.fwBanks := (sends_sendOn (Sends.rfl' s) l typ cls dst x gen a b cid).fwBanks
@[simp] theorem sendOn_free : (s.sendOn l typ cls dst x gen a b cid).free = s.free := (sends_sendOn (Sends.rfl' s) l typ cls dst x gen a b cid).free
@[simp] theorem sendOn_pending : (s.sendOn l typ cls dst x gen a b cid).pending = s.pending := (sends_sendOn (Sends.rfl' s) l typ cls dst x gen a b cid).pending
end

section
variable (s : State) (l : LinkId)
@[simp] theorem pump_mode : (s.pump l).mode = s.mode := (sends_pump (Sends.rfl' s) l).mode
@[simp] theorem pump_mem : (s.pump l).mem = s.mem := (sends_pump (Sends.rfl' s) l).mem
@[simp] theorem pump_memUnit : (s.pump l).memUnit = s.memUnit := (sends_pump (Sends.rfl' s) l).memUnit
@[simp] theorem pump_ctxs : (s.pump l).ctxs = s.ctxs := (sends_pump (Sends.rfl' s) l).ctxs
@[simp] theorem pump_vault : (s.pump l).vault = s.vault := (sends_pump (Sends.rfl' s) l).vault
@[simp] theorem pump_rings : (s.pump l).rings = s.rings := (sends_pump (Sends.rfl' s) l).rings
@[simp] theorem pump_sched : (s.pump l).sched = s.sched := (sends_pump (Sends.rfl' s) l).sched
@[simp] theorem pump_slices : (s.pump l).slices = s.slices := (sends_pump (Sends.rfl' s) l).slices
@[simp] theorem pump_dma : (s.pump l).dma = s.dma := (sends_pump (Sends.rfl' s) l).dma
@[simp] theorem pump_tick : (s.pump l).tick = s.tick := (sends_pump (Sends.rfl' s) l).tick
@[simp] theorem pump_cle : (s.pump l).cle = s.cle := (sends_pump (Sends.rfl' s) l).cle
@[simp] theorem pump_jobs : (s.pump l).jobs = s.jobs := (sends_pump (Sends.rfl' s) l).jobs
@[simp] theorem pump_jobChanges : (s.pump l).jobChanges = s.jobChanges := (sends_pump (Sends.rfl' s) l).jobChanges
@[simp] theorem pump_pvs : (s.pump l).pvs = s.pvs := (sends_pump (Sends.rfl' s) l).pvs
@[simp] theorem pump_mir : (s.pump l).mir = s.mir := (sends_pump (Sends.rfl' s) l).mir
@[simp] theorem pump_ras : (s.pump l).ras = s.ras := (sends_pump (Sends.rfl' s) l).ras
@[simp] theorem pump_boot : (s.pump l).boot = s.boot := (sends_pump (Sends.rfl' s) l).boot
@[simp] theorem pump_power : (s.pump l).power = s.power := (sends_pump (Sends.rfl' s) l).power
@[simp] theorem pump_pcie : (s.pump l).pcie = s.pcie := (sends_pump (Sends.rfl' s) l).pcie
@[simp] theorem pump_mgt : (s.pump l).mgt = s.mgt := (sends_pump (Sends.rfl' s) l).mgt
@[simp] theorem pump_serve : (s.pump l).serve = s.serve := (sends_pump (Sends.rfl' s) l).serve
@[simp] theorem pump_cfgErr : (s.pump l).cfgErr = s.cfgErr := (sends_pump (Sends.rfl' s) l).cfgErr
@[simp] theorem pump_hostBank : (s.pump l).hostBank = s.hostBank := (sends_pump (Sends.rfl' s) l).hostBank
@[simp] theorem pump_mgtBank : (s.pump l).mgtBank = s.mgtBank := (sends_pump (Sends.rfl' s) l).mgtBank
@[simp] theorem pump_fwBanks : (s.pump l).fwBanks = s.fwBanks := (sends_pump (Sends.rfl' s) l).fwBanks
@[simp] theorem pump_free : (s.pump l).free = s.free := (sends_pump (Sends.rfl' s) l).free
@[simp] theorem pump_pending : (s.pump l).pending = s.pending := (sends_pump (Sends.rfl' s) l).pending
end

section
variable (s : State) 
@[simp] theorem broadcastRoute_mode : (s.broadcastRoute).mode = s.mode := (sends_broadcastRoute (Sends.rfl' s)).mode
@[simp] theorem broadcastRoute_mem : (s.broadcastRoute).mem = s.mem := (sends_broadcastRoute (Sends.rfl' s)).mem
@[simp] theorem broadcastRoute_memUnit : (s.broadcastRoute).memUnit = s.memUnit := (sends_broadcastRoute (Sends.rfl' s)).memUnit
@[simp] theorem broadcastRoute_ctxs : (s.broadcastRoute).ctxs = s.ctxs := (sends_broadcastRoute (Sends.rfl' s)).ctxs
@[simp] theorem broadcastRoute_vault : (s.broadcastRoute).vault = s.vault := (sends_broadcastRoute (Sends.rfl' s)).vault
@[simp] theorem broadcastRoute_rings : (s.broadcastRoute).rings = s.rings := (sends_broadcastRoute (Sends.rfl' s)).rings
@[simp] theorem broadcastRoute_sched : (s.broadcastRoute).sched = s.sched := (sends_broadcastRoute (Sends.rfl' s)).sched
@[simp] theorem broadcastRoute_slices : (s.broadcastRoute).slices = s.slices := (sends_broadcastRoute (Sends.rfl' s)).slices
@[simp] theorem broadcastRoute_dma : (s.broadcastRoute).dma = s.dma := (sends_broadcastRoute (Sends.rfl' s)).dma
@[simp] theorem broadcastRoute_tick : (s.broadcastRoute).tick = s.tick := (sends_broadcastRoute (Sends.rfl' s)).tick
@[simp] theorem broadcastRoute_cle : (s.broadcastRoute).cle = s.cle := (sends_broadcastRoute (Sends.rfl' s)).cle
@[simp] theorem broadcastRoute_jobs : (s.broadcastRoute).jobs = s.jobs := (sends_broadcastRoute (Sends.rfl' s)).jobs
@[simp] theorem broadcastRoute_jobChanges : (s.broadcastRoute).jobChanges = s.jobChanges := (sends_broadcastRoute (Sends.rfl' s)).jobChanges
@[simp] theorem broadcastRoute_pvs : (s.broadcastRoute).pvs = s.pvs := (sends_broadcastRoute (Sends.rfl' s)).pvs
@[simp] theorem broadcastRoute_mir : (s.broadcastRoute).mir = s.mir := (sends_broadcastRoute (Sends.rfl' s)).mir
@[simp] theorem broadcastRoute_ras : (s.broadcastRoute).ras = s.ras := (sends_broadcastRoute (Sends.rfl' s)).ras
@[simp] theorem broadcastRoute_boot : (s.broadcastRoute).boot = s.boot := (sends_broadcastRoute (Sends.rfl' s)).boot
@[simp] theorem broadcastRoute_power : (s.broadcastRoute).power = s.power := (sends_broadcastRoute (Sends.rfl' s)).power
@[simp] theorem broadcastRoute_pcie : (s.broadcastRoute).pcie = s.pcie := (sends_broadcastRoute (Sends.rfl' s)).pcie
@[simp] theorem broadcastRoute_mgt : (s.broadcastRoute).mgt = s.mgt := (sends_broadcastRoute (Sends.rfl' s)).mgt
@[simp] theorem broadcastRoute_serve : (s.broadcastRoute).serve = s.serve := (sends_broadcastRoute (Sends.rfl' s)).serve
@[simp] theorem broadcastRoute_cfgErr : (s.broadcastRoute).cfgErr = s.cfgErr := (sends_broadcastRoute (Sends.rfl' s)).cfgErr
@[simp] theorem broadcastRoute_hostBank : (s.broadcastRoute).hostBank = s.hostBank := (sends_broadcastRoute (Sends.rfl' s)).hostBank
@[simp] theorem broadcastRoute_mgtBank : (s.broadcastRoute).mgtBank = s.mgtBank := (sends_broadcastRoute (Sends.rfl' s)).mgtBank
@[simp] theorem broadcastRoute_fwBanks : (s.broadcastRoute).fwBanks = s.fwBanks := (sends_broadcastRoute (Sends.rfl' s)).fwBanks
@[simp] theorem broadcastRoute_free : (s.broadcastRoute).free = s.free := (sends_broadcastRoute (Sends.rfl' s)).free
@[simp] theorem broadcastRoute_pending : (s.broadcastRoute).pending = s.pending := (sends_broadcastRoute (Sends.rfl' s)).pending
end

end Sys2Proof.Machine
end

