-- ==== Sys2Proof/Laws/Start.lean ====
section
/-! SUPPORT. A packet that is read with nothing else under way and may start at once: what its row does is what starting its
command does, and then its end. -/
namespace Sys2Proof.Machine

/-- What a packet fixes of its command. -/
structure FromPacket (s : State) (h : Hdr) (op : Op) (c : Cmd) : Prop where
  cid : c.cid = s.sched.nextCid
  ring : c.ring = h.ring
  seq : c.seq = h.seq
  ctx : c.ctx = h.ctx
  gen : c.gen = (s.ctx h.ctx).gen
  prio : c.prio = h.prio
  fixed : c.fixed = h.fixed
  notify : c.notify = h.notify
  op : c.op = op
  run : c.run = none
  guarded : c.guarded = none
  acquire : c.acquire = none
  hold : c.hold = none
  state : c.state = .waiting
  doom : c.doom = none
  chan : c.chan = none

theorem fromPacket_newCmd (s : State) (h : Hdr) (op : Op) : FromPacket s h op (s.newCmd h op) := by
  constructor <;> rfl

theorem fromPacket_linkDeps {s : State} {h : Hdr} {op : Op} {c : Cmd} (k : FromPacket s h op c) : FromPacket s h op (s.linkDeps h op c) := by
  unfold State.linkDeps
  dsimp only
  generalize depSeqs h = l
  induction l generalizing c with
  | nil => exact k
  | cons q l ih =>
    refine ih ?_
    beta_reduce
    repeat' split
    all_goals first
      | exact k
      | exact ⟨k.cid, k.ring, k.seq, k.ctx, k.gen, k.prio, k.fixed, k.notify, k.op, k.run, k.guarded, k.acquire, k.hold, k.state, k.doom, k.chan⟩

theorem fromPacket_prepared {s : State} {h : Hdr} {op : Op} {c : Cmd} (k : FromPacket s h op c) (p) : FromPacket s h op (c.prepared p) :=
  ⟨k.cid, k.ring, k.seq, k.ctx, k.gen, k.prio, k.fixed, k.notify, k.op, k.run, k.guarded, k.acquire, k.hold, k.state, k.doom, k.chan⟩

theorem fromPacket_linkFence {s u : State} {h : Hdr} {op : Op} {c : Cmd} (k : FromPacket s h op c) : FromPacket s h op (u.linkFence c) := by
  unfold State.linkFence
  split
  · exact k
  · split
    · exact ⟨k.cid, k.ring, k.seq, k.ctx, k.gen, k.prio, k.fixed, k.notify, k.op, k.run, k.guarded, k.acquire, k.hold, k.state, k.doom, k.chan⟩
    · split
      · exact k
      · exact ⟨k.cid, k.ring, k.seq, k.ctx, k.gen, k.prio, k.fixed, k.notify, k.op, k.run, k.guarded, k.acquire, k.hold, k.state, k.doom, k.chan⟩

/-- What admission gives of a command is what the packet says. -/
theorem fromPacket_admission {s t : State} {h : Hdr} {op : Op} {c : Cmd} (e : s.admission h op = .ok (t, c)) : FromPacket s h op c := by
  unfold State.admission at e
  dsimp only at e
  split at e
  · cases e
  · split at e
    · cases e
    · split at e
      · cases e
      · split at e
        · cases e
        · split at e
          · cases e
          · rename_i t' p _ _
            have k := fromPacket_linkFence (u := t') (fromPacket_prepared (fromPacket_linkDeps (fromPacket_newCmd s h op)) p)
            split at e
            · cases e
              exact ⟨k.cid, k.ring, k.seq, k.ctx, k.gen, k.prio, k.fixed, k.notify, k.op, k.run, k.guarded, k.acquire, k.hold, k.state, k.doom, k.chan⟩
            · cases e; exact k


/-! ### A packet whose command starts at once -/

/-- What a packet that is admitted in a calm state gives. -/
theorem admitted?_spec {s t : State} {h : Hdr} {op : Op} {c : Cmd} (e : s.admitted? h op = some (t, c)) :
    s.calm = true ∧ t.calm = true ∧ s.mayRead h.ring = true ∧ s.unguarded h.ring = true ∧ t.sched.nextCid = s.sched.nextCid ∧
      t.sched.cmds = s.sched.cmds ∧
      ∃ d, s.admission h op = .ok (t, d) ∧ c = { d with state := .ready, readyNo := t.sched.nextReady } ∧
        d.preds = [] ∧ d.fenceWait = false ∧ d.bad = none := by
  unfold State.admitted? at e
  split at e
  · rename_i g
    simp only [Bool.and_eq_true] at g
    split at e
    · cases e
    · rename_i t d e2
      split at e
      · rename_i g2
        simp only [Bool.and_eq_true, List.isEmpty_iff, Bool.not_eq_true', Option.isNone_iff_eq_none, decide_eq_true_eq] at g2
        cases e
        exact ⟨g.1.1, g2.1.1.1.1.1, g.1.2, g.2, g2.1.1.1.1.2, g2.1.1.1.2, d, e2, rfl, g2.1.1.2, g2.1.2, g2.2⟩
      · cases e
  · cases e

theorem alone_spec {s : State} (h : s.alone = true) : s.sched.cmds = [] ∧ s.sched.runs = [] ∧ s.serve.reqs = [] := by
  simp only [State.alone, Bool.and_eq_true, List.isEmpty_iff] at h
  exact ⟨h.1.1.1, h.1.1.2, h.1.2⟩

theorem calm_spec {s : State} (h : s.calm = true) : (∀ c ∈ s.sched.cmds, c.settled = true) ∧ (∀ c ∈ s.sched.cmds, c.cid < s.sched.nextCid) ∧
    (∀ r ∈ s.sched.runs, r.ends.all NodeEnd.isEnded = false) ∧ s.serve.reqs = [] := by
  simp only [State.calm, Bool.and_eq_true, List.isEmpty_iff, List.all_eq_true, decide_eq_true_eq, Bool.not_eq_true'] at h
  exact ⟨fun c hc => (h.1.1 c hc).1, fun c hc => (h.1.1 c hc).2, h.1.2, h.2⟩

/-- Commands that wait for something stay as they are when those that may become READY do. -/
theorem readyFold_settled {l : List Cmd} (hl : ∀ c ∈ l, c.settled = true) (acc : List Cmd) (n : Nat) :
    l.foldl (fun (acc : List Cmd × Nat) (c : Cmd) =>
      if c.state = .waiting ∧ c.preds = [] ∧ !c.fenceWait ∧ c.bad = none then ({ c with state := .ready, readyNo := acc.2 } :: acc.1, acc.2 + 1)
      else (c :: acc.1, acc.2)) (acc, n) = (l.reverse ++ acc, n) := by
  induction l generalizing acc with
  | nil => rfl
  | cons c l ih =>
    have hc := hl c (List.mem_cons_self ..)
    have : ¬(c.state = .waiting ∧ c.preds = [] ∧ (!c.fenceWait) = true ∧ c.bad = none) := by
      rintro ⟨h1, h2, h3, h4⟩
      simp [Cmd.settled, h1, h2, h4] at hc
      simp [hc.2] at h3
    simp only [List.foldl_cons, if_neg this]
    rw [ih (fun d hd => hl d (List.mem_cons_of_mem _ hd))]
    simp

/-- Admission of a command that no graph and no step waits on changes no state. -/
theorem admission_same {s t : State} {h : Hdr} {op : Op} {c : Cmd} (e : s.admission h op = .ok (t, c))
    (g : (decide (0x0500 ≤ (opCode op).toNat) && decide ((opCode op).toNat ≤ 0x0520)) = false) : t = s := by
  have k := (fromPacket_linkDeps (fromPacket_newCmd s h op)).op
  unfold State.admission at e
  dsimp only at e
  split at e
  · cases e
  · split at e
    · cases e
    · split at e
      · cases e
      · split at e
        · cases e
        · rename_i t' p e3
          split at e
          · cases e
          · have : t' = s := by
              revert e3
              generalize s.linkDeps h op (s.newCmd h op) = d at k
              unfold State.admitOp
              split
              all_goals first
                | (rename_i q; rw [k] at q; subst q; simp [opCode] at g)
                | (split
                   · intro e; cases e
                   · intro e; cases e; rfl)
            subst this
            split at e <;> (cases e; rfl)


/-- A command is found among others by an id that none of them has. -/
theorem find_append_new {l : List Cmd} {n : Nat} (hl : ∀ c ∈ l, c.cid < n) {d : Cmd} (hd : d.cid = n) :
    (l ++ [d]).find? (fun c => c.cid == n) = some d := by
  rw [List.find?_append]
  have : l.find? (fun c => c.cid == n) = none := by
    rw [List.find?_eq_none]
    intro c hc
    have := hl c hc
    simp; omega
  simp [this, hd]

/-- CMD reads a packet in a calm state, and its command is READY. -/
theorem submit_held {r s : State} {h : Hdr} {op : Op} {c d : Cmd} (hs : s.calm = true) (hcm : s.sched.cmds = r.sched.cmds)
    (hu : r.unguarded h.ring = true) (k : FromPacket r h op d)
    (hcd : c = { d with state := .ready, readyNo := s.sched.nextReady }) (hpre : d.preds = []) (hfw : d.fenceWait = false) (hbad : d.bad = none)
    (hadm : r.admission h op = .ok (s, d)) : r.submit h op = (s.held h c).launch c.cid := by
  obtain ⟨h1, h2, h3, h4⟩ := calm_spec hs
  unfold State.submit
  rw [hadm]
  dsimp only
  simp only [State.unguarded, Bool.and_eq_true, bne_iff_ne] at hu
  obtain ⟨hu1, hu2⟩ := hu
  have e1 : ((s.notePacket h d.cid).modSched fun g => { g with cmds := g.cmds ++ [d], nextCid := d.cid + 1 }).bindLast
      (r.ring h.ring).lastCid h op (some d.cid) 0 = (s.notePacket h d.cid).modSched fun g => { g with cmds := g.cmds ++ [d], nextCid := d.cid + 1 } := by
    have e0 : (s.notePacket h d.cid).sched.cmds = r.sched.cmds := hcm
    unfold State.bindLast State.cmd?
    simp only [modSched_sched, e0]
    unfold State.cmd? at hu2
    rw [List.find?_append]
    cases hf : r.sched.cmds.find? (fun c => c.cid == (r.ring h.ring).lastCid) with
    | none =>
      have : [d].find? (fun c => c.cid == (r.ring h.ring).lastCid) = none := by
        rw [List.find?_cons_of_neg (by simpa [k.cid] using fun e => hu1 e.symm)]; rfl
      simp [this]
    | some a =>
      rw [hf] at hu2
      simp only [Bool.and_eq_true, Bool.not_eq_true', Option.isNone_iff_eq_none] at hu2
      simp [hu2.1, hu2.2]
  rw [e1]
  have e2 : ∀ n, State.endDoomed ((s.notePacket h d.cid).modSched fun g => { g with cmds := g.cmds ++ [d], nextCid := d.cid + 1 }) n
      = (s.notePacket h d.cid).modSched fun g => { g with cmds := g.cmds ++ [d], nextCid := d.cid + 1 } := by
    intro n
    cases n with
    | zero => rfl
    | succ n =>
      rw [State.endDoomed]
      have : (s.sched.cmds ++ [d]).find? Cmd.doomed = none := by
        rw [List.find?_eq_none]
        intro x hx
        rcases List.mem_append.1 hx with hx | hx
        · have := h1 x hx
          simp only [Cmd.settled, Bool.and_eq_true, Bool.not_eq_true'] at this
          simp [this.1]
        · rw [List.mem_singleton.1 hx]
          simp [Cmd.doomed, hbad, k.doom]
      have e0 : ((s.notePacket h d.cid).modSched fun g => { g with cmds := g.cmds ++ [d], nextCid := d.cid + 1 }).sched.cmds = s.sched.cmds ++ [d] := rfl
      rw [e0, this]
  rw [e2]
  have e3 : State.endRuns ((s.notePacket h d.cid).modSched fun g => { g with cmds := g.cmds ++ [d], nextCid := d.cid + 1 })
      = (s.notePacket h d.cid).modSched fun g => { g with cmds := g.cmds ++ [d], nextCid := d.cid + 1 } := by
    have : s.sched.runs.filter (fun r => r.ends.all NodeEnd.isEnded) = [] := by
      rw [List.filter_eq_nil_iff]
      intro r hr
      simp [h3 r hr]
    unfold State.endRuns
    show List.foldl _ _ (s.sched.runs.filter (fun r => r.ends.all NodeEnd.isEnded)) = _
    rw [this]; rfl
  rw [e3]
  have e4 : State.readyAll ((s.notePacket h d.cid).modSched fun g => { g with cmds := g.cmds ++ [d], nextCid := d.cid + 1 }) = s.held h c := by
    subst hcd
    unfold State.readyAll
    dsimp only
    have : ((s.notePacket h d.cid).modSched fun g => { g with cmds := g.cmds ++ [d], nextCid := d.cid + 1 }).sched.cmds = s.sched.cmds ++ [d] := rfl
    rw [this, List.foldl_append, readyFold_settled h1]
    simp [State.held, k.state, hpre, hfw, hbad, State.modSched, State.notePacket, State.modRing]
  rw [e4, hcd]

/-- CMD reads a packet that is admitted in a calm state, and its command, READY, is placed or starts. -/
theorem packet_launches {s t : State} {h : Hdr} {op : Op} {c : Cmd} (e : s.admitted? h op = some (t, c)) :
    s.packet h op = (t.held h c).launch c.cid := by
  obtain ⟨hs, ht, hread, hlast, hn, hcm, d, hadm, hcd, hpre, hfw, hbad⟩ := admitted?_spec e
  unfold State.packet
  rw [if_pos hread, submit_held ht hcm hlast (fromPacket_admission hadm) hcd hpre hfw hbad hadm]

theorem foldl_same {α β : Type} {f : β → α → β} {b : β} {l : List α} (h : ∀ x ∈ l, f b x = b) : l.foldl f b = b := by
  induction l with
  | nil => rfl
  | cons x l ih => rw [List.foldl_cons, h x (List.mem_cons_self ..)]; exact ih fun y hy => h y (List.mem_cons_of_mem _ hy)

/-- No page is brought in for a command whose pages are at hand. -/
theorem bringRanges_atHand {s : State} {c : Cmd} (h : s.atHand c = true) : s.bringRanges c = (s, none) := by
  unfold State.bringRanges
  refine foldl_same fun p hp => ?_
  obtain ⟨hp1, hp2⟩ := List.mem_filter.mp hp
  have h := List.all_eq_true.mp h p hp1
  rw [hp2] at h
  simp only [Bool.not_true, Bool.false_or] at h
  dsimp only
  split
  · rfl
  · rename_i q e
    rw [e] at h
    simp only [Bool.and_eq_true, Bool.not_eq_true', Bool.or_eq_true, decide_eq_true_eq] at h
    obtain ⟨hz, hh⟩ := h
    split
    · simp [hz]
    · rename_i ne
      obtain ⟨hm, ht⟩ := hh.resolve_left ne
      have e2 : s.bringT2 q true c.bufRanges = some s := by unfold State.bringT2; simp [ht, hz]
      simp [hm, e2]

theorem memReady_spec {s : State} {c : Cmd} (h : s.memReady c = true) :
    (if c.fixed then (s, none) else s.bringRanges c) = (s, none) ∧ s.readsLoading c = false := by
  simp only [State.memReady, Bool.and_eq_true, Bool.or_eq_true, Bool.not_eq_true'] at h
  refine ⟨?_, h.2⟩
  split
  · rfl
  · rename_i hf; exact bringRanges_atHand (h.1.resolve_left hf)

/-- CMD reads a packet, admits it and starts its command at once. -/
theorem packet_starts {s u : State} {h : Hdr} {op : Op} {d : Cmd} (g : s.starts? h op = some (u, d)) :
    ∃ c, s.admitted? h op = some (s, c) ∧ FromPacket s h op { c with state := .waiting } ∧ d = c.started s ∧ u = (s.held h c).markIssued c ∧
      s.packet h op = State.finish d.cid none (u.startOp d) := by
  unfold State.starts? at g
  split at g
  · cases g
  · rename_i t c hc
    split at g
    case isFalse => cases g
    rename_i g0
    cases g
    obtain ⟨hs, ht, hread, hlast, hn, hcm, d, hadm, hcd, hpre, hfw, hbad⟩ := admitted?_spec hc
    simp only [Bool.and_eq_true, Bool.not_eq_true', Option.isNone_iff_eq_none] at g0
    obtain ⟨⟨⟨⟨⟨⟨⟨gY, gG⟩, gV⟩, gQ⟩, gP⟩, gW⟩, gR⟩, gM⟩ := g0
    obtain ⟨gB, gL⟩ := memReady_spec gM
    have hts : t = s := admission_same hadm gG
    subst hts
    have k := fromPacket_admission hadm
    have hk : FromPacket t h op { c with state := .waiting } := by
      subst hcd; exact ⟨k.cid, k.ring, k.seq, k.ctx, k.gen, k.prio, k.fixed, k.notify, k.op, k.run, k.guarded, k.acquire, k.hold, rfl, k.doom, k.chan⟩
    refine ⟨c, hc, hk, rfl, rfl, ?_⟩
    have hop : c.op = op := by rw [hcd]; exact k.op
    have hcid : c.cid = t.sched.nextCid := by rw [hcd]; exact k.cid
    obtain ⟨h1, h2, h3, h4⟩ := calm_spec ht
    rw [packet_launches hc]
    have hcmd : (t.held h c).cmd? c.cid = some c := by
      unfold State.cmd?
      show (t.sched.cmds ++ [c]).find? _ = _
      rw [hcid]
      exact find_append_new h2 hcid
    have hst : c.state = .ready := by rw [hcd]
    unfold State.launch
    rw [hcmd]
    dsimp only
    rw [hop, gY, if_neg (by simp)]
    unfold State.startN
    have hvh : (t.held h c).vaultHot = t.vaultHot := rfl
    have hctx : (t.held h c).ctx = t.ctx := rfl
    have hpf : (t.held h c).poolFits c = t.poolFits c := rfl
    have hgg : (t.held h c).graphGate c = true := by
      unfold State.graphGate
      rw [hop]
      dsimp only
      split
      · simp [opCode] at gG
      · simp [opCode] at gG
      · rfl
    rw [hst, hvh, hop, gV, hctx, hpf, gP, gW, hgg, gR, gL, gB]
    rw [if_neg (by simp), if_neg (by simp at gQ; rcases gQ with gQ | gQ <;> simp [gQ]), if_neg (by simp)]
    have hiss : ((t.held h c).markIssued c).cmd? c.cid = some (c.started t) := by
      have e0 : ((t.held h c).markIssued c).sched.cmds = t.sched.cmds ++ [c.started t] := by
        show (t.sched.cmds ++ [c]).map _ = _
        rw [List.map_append]
        congr 1
        · rw [← List.map_id t.sched.cmds]
          simp only [List.map_id]
          conv_rhs => rw [← List.map_id t.sched.cmds]
          apply List.map_congr_left
          intro x hx
          have := h2 x hx
          rw [if_neg (by omega)]; rfl
        · simp [Cmd.started]
          exact ⟨rfl, rfl, rfl⟩
      unfold State.cmd?
      rw [e0, hcid]
      exact find_append_new h2 hcid
    dsimp only
    rw [hiss]
    dsimp only
    have hcid : (c.started t).cid = c.cid := rfl
    have hop2 : (c.started t).op = op := hop
    rw [hcid]
    congr 1
    rw [hop2]
    split
    · simp [opCode] at gG
    · simp [opCode] at gG
    · simp [opCode] at gG
    · rfl

/-- What holds of the state in which a packet's command starts, beside the state before the packet. -/
structure Begun (s u : State) (h : Hdr) (op : Op) (c : Cmd) : Prop where
  mode : u.mode = s.mode
  mem : u.mem = s.mem
  memUnit : u.memUnit = s.memUnit
  vault : u.vault = s.vault
  slices : u.slices = s.slices
  dma : u.dma = s.dma
  tick : u.tick = s.tick
  fab : u.fab = s.fab
  cle : u.cle = s.cle
  jobs : u.jobs = s.jobs
  jobChanges : u.jobChanges = s.jobChanges
  pvs : u.pvs = s.pvs
  mir : u.mir = s.mir
  ras : u.ras = s.ras
  boot : u.boot = s.boot
  power : u.power = s.power
  pcie : u.pcie = s.pcie
  mgt : u.mgt = s.mgt
  serve : u.serve = s.serve
  cfgErr : u.cfgErr = s.cfgErr
  hostBank : u.hostBank = s.hostBank
  mgtBank : u.mgtBank = s.mgtBank
  fwBanks : u.fwBanks = s.fwBanks
  free : u.free = s.free
  pending : u.pending = s.pending
  ctx : ∀ k, (u.ctx k).core = (s.ctx k).core
  wslots : ∀ k, (u.ctx k).wslots = (s.ctx k).wslots
  head : (u.ring h.ring).head = (s.ring h.ring).head + 1
  rings : ∀ r, r ≠ h.ring → u.ring r = s.ring r
  sched : u.sched = { s.sched with cmds := s.sched.cmds ++ [c], nextCid := s.sched.nextCid + 1, nextReady := s.sched.nextReady + 1,
                                   nextIssue := s.sched.nextIssue + 1, nextAttempt := s.sched.nextAttempt + 1 }
  reqs : s.serve.reqs = []
  calm : s.calm = true
  op : c.op = op
  cx : c.ctx = h.ctx
  cid : c.cid = s.sched.nextCid
  ring : c.ring = h.ring
  seq : c.seq = h.seq
  gen : c.gen = (s.ctx h.ctx).gen
  fixed : c.fixed = h.fixed
  state : c.state = .issued
  run : c.run = none
  acquire : c.acquire = none
  hold : c.hold = none
  chan : c.chan = none
  others : ∀ k, k ≠ h.ctx → u.ctx k = s.ctx k
  own : u.ctx h.ctx = { s.ctx h.ctx with shUse := (s.ctx h.ctx).shUse + c.shNeed }
  nextSeq : (u.ring h.ring).nextSeq = some (h.seq + 1)
  cplOf : (u.ring h.ring).cpl = (s.ring h.ring).cpl ∧ (u.ring h.ring).cplTail = (s.ring h.ring).cplTail ∧
    (u.ring h.ring).log2sz = (s.ring h.ring).log2sz ∧ (u.ring h.ring).err = (s.ring h.ring).err ∧ (u.ring h.ring).core = (s.ring h.ring).core

theorem Begun.cmd {s u : State} {h : Hdr} {op : Op} {c : Cmd} (b : Begun s u h op c) : u.cmd? c.cid = some c := by
  obtain ⟨-, h2, -, -⟩ := calm_spec b.calm
  unfold State.cmd?
  rw [b.sched, b.cid]
  exact find_append_new h2 b.cid

/-- The meaning of a packet row is the packet, and what the serving loop then does. -/
theorem row_packet {i : Instr} {h : Hdr} {op : Op} (hr : packetRow i = some (h, op)) (s : State) :
    exec i s = .next ((s.packet h op).served) := by
  cases i <;> simp only [packetRow, Option.some.injEq, Prod.mk.injEq, reduceCtorEq] at hr <;> (obtain ⟨rfl, rfl⟩ := hr; rfl)

/-- What holds of the state in which a packet's command starts. -/
theorem begun {s u : State} {h : Hdr} {op : Op} {d : Cmd} (g : s.starts? h op = some (u, d)) : Begun s u h op d := by
  obtain ⟨c, hc, k, rfl, rfl, -⟩ := packet_starts g
  obtain ⟨-, h2, -, hreqs⟩ := calm_spec (admitted?_spec hc).1
  have hcid : c.cid = s.sched.nextCid := k.cid
  constructor
  case ctx =>
    intro x
    unfold State.markIssued
    show ((State.modCtx _ c.ctx _).ctx x).core = _
    by_cases e : c.ctx = x
    · subst e; rw [ctx_modCtx_self]; rfl
    · rw [ctx_modCtx_ne _ _ e]; rfl
  case wslots =>
    intro x
    unfold State.markIssued
    show ((State.modCtx _ c.ctx _).ctx x).wslots = _
    by_cases e : c.ctx = x
    · subst e; rw [ctx_modCtx_self]; rfl
    · rw [ctx_modCtx_ne _ _ e]; rfl
  case head =>
    show ((s.modRing h.ring _).ring h.ring).head = _
    rw [ring_modRing_self]
  case others =>
    intro x hx
    unfold State.markIssued
    show (State.modCtx _ c.ctx _).ctx x = _
    rw [ctx_modCtx_ne _ _ (by rw [show c.ctx = h.ctx from k.ctx]; exact Ne.symm hx)]; rfl
  case own =>
    unfold State.markIssued
    show (State.modCtx _ c.ctx _).ctx h.ctx = _
    rw [show c.ctx = h.ctx from k.ctx, ctx_modCtx_self]; rfl
  case nextSeq =>
    show ((s.modRing h.ring _).ring h.ring).nextSeq = _
    rw [ring_modRing_self]
  case cplOf =>
    show ((s.modRing h.ring _).ring h.ring).cpl = _ ∧ ((s.modRing h.ring _).ring h.ring).cplTail = _ ∧
      ((s.modRing h.ring _).ring h.ring).log2sz = _ ∧ ((s.modRing h.ring _).ring h.ring).err = _ ∧ ((s.modRing h.ring _).ring h.ring).core = _
    rw [ring_modRing_self]
    exact ⟨rfl, rfl, rfl, rfl, rfl⟩
  case rings =>
    intro r hr
    show (s.modRing h.ring _).ring r = _
    exact ring_modRing_ne _ _ (Ne.symm hr)
  case sched =>
    have e0 : ((s.held h c).markIssued c).sched.cmds = s.sched.cmds ++ [c.started s] := by
      show (s.sched.cmds ++ [c]).map _ = _
      rw [List.map_append]
      congr 1
      · conv_rhs => rw [← List.map_id s.sched.cmds]
        apply List.map_congr_left
        intro x hx
        have := h2 x hx
        rw [if_neg (by omega)]; rfl
      · simp [Cmd.started]
        exact ⟨rfl, rfl, rfl⟩
    have e1 : ((s.held h c).markIssued c).sched = { s.sched with cmds := ((s.held h c).markIssued c).sched.cmds, nextCid := c.cid + 1, nextReady := s.sched.nextReady + 1, nextIssue := s.sched.nextIssue + 1, nextAttempt := s.sched.nextAttempt + 1 } := rfl
    rw [e1, e0, hcid]
  case reqs => exact hreqs
  case calm => exact (admitted?_spec hc).1
  case op => exact k.op
  case cx => exact k.ctx
  case cid => exact k.cid
  case ring => exact k.ring
  case seq => exact k.seq
  case gen => exact k.gen
  case fixed => exact k.fixed
  case run => exact k.run
  case acquire => exact k.acquire
  case hold => exact k.hold
  case chan => exact k.chan
  all_goals rfl

/-- A packet row whose command may start at once runs what starting that command does. -/
theorem row_starts {i : Instr} {s u : State} {h : Hdr} {op : Op} {c : Cmd} (hr : packetRow i = some (h, op)) (g : s.starts? h op = some (u, c)) :
    exec i s = .next ((State.finish c.cid none (u.startOp c)).served) := by
  obtain ⟨-, -, -, -, -, e⟩ := packet_starts g
  rw [row_packet hr, e]


theorem served_nil {t : State} (h : t.serve.reqs = []) : t.served = t := by simp [State.served, h]

theorem finish_doneOk {v : State} {cid : Nat} {c : Cmd} {d : W64} (h : v.cmd? cid = some c) :
    State.finish cid none (doneOk v d) = v.endCmd c .committed stOk d none := by
  simp [State.finish, doneOk, h]

/-- A row whose command completes as it starts. -/
theorem row_done {i : Instr} {s u v : State} {h : Hdr} {op : Op} {c : Cmd} {d : W64} (hr : packetRow i = some (h, op))
    (g : s.starts? h op = some (u, c)) (e : u.startOp c = doneOk v d) (hc : (v.cmd? c.cid).isSome) (hs : v.serve.reqs = u.serve.reqs) :
    ∃ y, v.cmd? c.cid = some y ∧ exec i s = .next (v.endCmd y .committed stOk d) := by
  have b := begun g
  obtain ⟨y, hy⟩ := Option.isSome_iff_exists.1 hc
  refine ⟨y, hy, ?_⟩
  rw [row_starts hr g, e, finish_doneOk hy]
  have ends := ends_endCmd (Ends.rfl' v) y .committed stOk d none
  rw [served_nil (by rw [endCmd_reqs, hs, b.serve, b.reqs])]

/-- A row whose command goes on after its start. -/
theorem row_goes {i : Instr} {s u v : State} {h : Hdr} {op : Op} {c : Cmd} (hr : packetRow i = some (h, op))
    (g : s.starts? h op = some (u, c)) (e : u.startOp c = (v, none)) (hs : v.serve.reqs = u.serve.reqs) : exec i s = .next v := by
  have b := begun g
  rw [row_starts hr g, e]
  show Host.Outcome.next (State.served v) = _
  rw [served_nil (by rw [hs, b.serve, b.reqs])]

end Sys2Proof.Machine
end

