-- ==== Sys2Proof/Laws/Ended.lean ====
section
/-! SUPPORT. The end of a command that is alone, and with it what a packet row that runs to its end in one step leaves. -/
namespace Sys2Proof.Machine

/-- Opcodes of commands that commit with nothing but a reply: no placement, step, graph or collective goes with their end. -/
def plainEnd (op : Op) : Bool :=
  !planY (opCode op) && !kernelOp (opCode op) && !isColl (opCode op) && !opIsRun op &&
    match op with
    | .stepFence _ => false
    | .graphRelease _ => false
    | _ => true

/-- What is left once a command that is alone has given back what it held. -/
def State.gone (v : State) (c : Cmd) : State :=
  let v := { v with free := v.free + 1 }
  let v := v.releaseCmd c
  let v := v.freeBanks c.cid false
  v.modSched fun g => { g with cmds := [] }

/-- The reply of a command that commits. -/
def Cmd.okReply (c : Cmd) (d : W64) (used : Nat) : ReplyRec :=
  { seq := c.seq, status := stOk, phase := .committed, detail := d, progress := progressOf c .committed, opcode := opCode c.op, ctx := c.ctx,
    gen := c.gen, used }

/-- What writing a reply leaves of the state. -/
structure Writes (s t : State) : Prop where
  mode : t.mode = s.mode
  memUnit : t.memUnit = s.memUnit
  ctxs : t.ctxs = s.ctxs
  vault : t.vault = s.vault
  sched : t.sched = s.sched
  slices : t.slices = s.slices
  dma : t.dma = s.dma
  tick : t.tick = s.tick
  fab : t.fab = s.fab
  cle : t.cle = s.cle
  jobs : t.jobs = s.jobs
  jobChanges : t.jobChanges = s.jobChanges
  pvs : t.pvs = s.pvs
  mir : t.mir = s.mir
  ras : t.ras = s.ras
  boot : t.boot = s.boot
  power : t.power = s.power
  serve : t.serve = s.serve
  cfgErr : t.cfgErr = s.cfgErr
  hostBank : t.hostBank = s.hostBank
  mgtBank : t.mgtBank = s.mgtBank
  fwBanks : t.fwBanks = s.fwBanks
  free : t.free = s.free
  pending : t.pending = s.pending
  pcie : { t.pcie with msix := s.pcie.msix } = s.pcie
  mgt : { t.mgt with events := s.mgt.events } = s.mgt

theorem Writes.rfl' (s : State) : Writes s s := by constructor <;> rfl
theorem writes_modRing {s t : State} (h : Writes s t) (r : RingId) (f : Ring → Ring) : Writes s (t.modRing r f) :=
  ⟨h.mode, h.memUnit, h.ctxs, h.vault, h.sched, h.slices, h.dma, h.tick, h.fab, h.cle, h.jobs, h.jobChanges, h.pvs, h.mir, h.ras, h.boot, h.power, h.serve, h.cfgErr, h.hostBank, h.mgtBank, h.fwBanks, h.free, h.pending, h.pcie, h.mgt⟩
theorem writes_setMem {s t : State} (h : Writes s t) (m : List Host.Cell) : Writes s (t.setMem m) :=
  ⟨h.mode, h.memUnit, h.ctxs, h.vault, h.sched, h.slices, h.dma, h.tick, h.fab, h.cle, h.jobs, h.jobChanges, h.pvs, h.mir, h.ras, h.boot, h.power, h.serve, h.cfgErr, h.hostBank, h.mgtBank, h.fwBanks, h.free, h.pending, h.pcie, h.mgt⟩
theorem writes_msix {s t : State} (h : Writes s t) (v : Nat) : Writes s (t.msix v) := by
  unfold State.msix
  split
  · exact ⟨h.mode, h.memUnit, h.ctxs, h.vault, h.sched, h.slices, h.dma, h.tick, h.fab, h.cle, h.jobs, h.jobChanges, h.pvs, h.mir, h.ras, h.boot, h.power, h.serve, h.cfgErr, h.hostBank, h.mgtBank, h.fwBanks, h.free, h.pending, h.pcie, h.mgt⟩
  · exact h
theorem writes_ringEvent {s t : State} (h : Writes s t) (r : RingId) (v : Nat) : Writes s (t.ringEvent r v) := by
  unfold State.ringEvent
  split
  · exact writes_modRing h r _
  · exact writes_msix h v
@[simp] theorem msix_mem (w : State) (n : Nat) : (w.msix n).mem = w.mem := by unfold State.msix; split <;> rfl
@[simp] theorem ringEvent_mem (w : State) (r : RingId) (n : Nat) : (w.ringEvent r n).mem = w.mem := by
  unfold State.ringEvent; split
  · rfl
  · exact msix_mem w n
theorem msix_ring (w : State) (n : Nat) (k : RingId) : (w.msix n).ring k = w.ring k := by unfold State.msix; split <;> rfl
theorem ringEvent_ring_ne (w : State) {r k : RingId} (hk : k ≠ r) (n : Nat) : (w.ringEvent r n).ring k = w.ring k := by
  unfold State.ringEvent; split
  · exact ring_modRing_ne _ _ (Ne.symm hk)
  · exact msix_ring w n k
theorem ringEvent_ring (w : State) (r : RingId) (n : Nat) :
    ((w.ringEvent r n).ring r).head = (w.ring r).head ∧ ((w.ringEvent r n).ring r).nextSeq = (w.ring r).nextSeq ∧
      ((w.ringEvent r n).ring r).cplTail = (w.ring r).cplTail := by
  unfold State.ringEvent; split
  · rw [ring_modRing_self]; exact ⟨rfl, rfl, rfl⟩
  · rw [msix_ring]; exact ⟨rfl, rfl, rfl⟩
theorem writes_putReply {s t : State} (h : Writes s t) (ring : RingId) (nt : Bool) (vec : Nat) (bs : List Byte) :
    Writes s (t.putReply ring nt vec bs) := by
  unfold State.putReply State.writeFw State.writeHost
  dsimp only
  split
  · split
    · have k := writes_modRing h ring fun r => { r with cplTail := r.cplTail + 1, cplHead := r.cplTail + 1 }
      exact ⟨k.mode, k.memUnit, k.ctxs, k.vault, k.sched, k.slices, k.dma, k.tick, k.fab, k.cle, k.jobs, k.jobChanges, k.pvs, k.mir, k.ras, k.boot, k.power, k.serve, k.cfgErr, k.hostBank, k.mgtBank, k.fwBanks, k.free, k.pending, k.pcie, k.mgt⟩
    · exact writes_modRing h ring _
  · split
    · exact h
    · have k := fun m => writes_modRing (writes_setMem h m) ring fun r => { r with cplTail := r.cplTail + 1 }
      split
      · split
        · exact writes_ringEvent (k _) ring vec
        · exact k _
      · split
        · split
          · exact writes_ringEvent (k _) ring vec
          · exact k _
        · exact writes_modRing h ring _
theorem writes_reply (s : State) (ring : RingId) (nt : Bool) (vec : Nat) (r : ReplyRec) (u : Nat) (dn : List Nat) (af : List (CtxId × W32)) :
    Writes s (s.reply ring nt vec r u dn af) :=
  writes_modRing (writes_putReply (Writes.rfl' s) ring nt vec _) ring _

theorem endCmd_alone {v : State} {c : Cmd} {d : W64} (hc : v.sched.cmds = [c]) (hr : v.sched.runs = []) (hst : c.state = .issued)
    (hrun : c.run = none) (hacq : c.acquire = none) (hhold : c.hold = none) (hchan : c.chan = none) (hp : plainEnd c.op = true) :
    v.endCmd c .committed stOk d none =
      (v.gone c).reply c.ring c.notify c.ring.val (c.okReply d (Config.freeNat v.free)) c.units c.done c.after := by
  have one : v.endOne c .committed stOk d none =
      (v.gone c).reply c.ring c.notify c.ring.val (c.okReply d (Config.freeNat v.free)) c.units c.done c.after := by
    simp only [plainEnd, Bool.and_eq_true, Bool.not_eq_true'] at hp
    obtain ⟨⟨⟨⟨h1, h2⟩, h3⟩, h4⟩, h5⟩ := hp
    have hw : v.withDone c = c := by simp [State.withDone, hchan]
    unfold State.endOne State.clockOf
    simp only [hw, hst, true_or, if_true, h1, Bool.false_and, Bool.false_eq_true, if_false]
    have hs : ∀ w : State, w.sendAborts c stOk = w := by intro w; simp [State.sendAborts, h3]
    have hd : ∀ (w : State) n, w.chargeDebt c n = w := by intro w n; simp [State.chargeDebt, h1]
    have hstep : c.step? = none := by simp [Cmd.step?, h2]
    simp only [hs, hd, hstep, hrun, hchan]
    have hf : ∀ w : State, w.sched.cmds = [c] → (w.modSched fun g => { g with cmds := (g.cmds.filter fun x => x.cid != c.cid).map fun e => e.afterEnd c .committed stOk })
        = w.modSched fun g => { g with cmds := [] } := by
      intro w hw; simp [State.modSched, hw]
    rw [hf _ (by
      show (State.releaseCmd _ c).sched.cmds = _
      simp [State.releaseCmd, State.freePrograms, hchan, State.modSched, State.modMem, State.modCtx, hc])]
    have hph : (decide (Phase.committed = Phase.killed) && !opIsRun c.op) = false := by simp
    simp only [hph]
    split
    · rename_i q; rw [q] at h5; simp at h5
    · rename_i q; rw [q] at h4; simp [opIsRun] at h4
    · rename_i q; rw [q] at h5; simp at h5
    · rfl
  have hcm : (v.endOne c .committed stOk d none).sched.cmds = [] := by
    rw [one, (writes_reply _ _ _ _ _ _ _ _).sched]; rfl
  have hrm : (v.endOne c .committed stOk d none).sched.runs = [] := by
    rw [one, (writes_reply _ _ _ _ _ _ _ _).sched]; exact (show (v.gone c).sched.runs = [] by simp [State.gone, State.releaseCmd, State.freePrograms, State.freeBanks, hchan, State.modSched, State.modMem, State.modCtx, hr])
  rw [← one]
  unfold State.endCmd State.endBoth State.endPartners
  simp only [hacq, Option.bind_none, hhold]
  generalize v.endOne c .committed stOk d none = w at hcm hrm
  have e1 : ∀ n, w.endDoomed n = w := by
    intro n; cases n with
    | zero => rfl
    | succ n => rw [State.endDoomed, hcm]; rfl
  have e2 : w.endRuns = w := by unfold State.endRuns; rw [hrm]; rfl
  have e3 : w.readyAll = w := by
    unfold State.readyAll State.modSched
    rw [hcm]
    show { w with sched := { w.sched with cmds := [] } } = w
    rw [← hcm]
  rw [e1, e2, e1, e3]

theorem le_length (n v : Nat) : (le n v).length = n := by
  induction n generalizing v with
  | zero => rfl
  | succ n ih => simp [le, ih]

theorem replyBytes_length (r : ReplyRec) (tg : Bool) (n : Nat) : (r.bytes tg n).length = 32 := by
  simp [ReplyRec.bytes, le_length]

/-- A reply leaves the store as it was but for its place, which holds its bytes. -/
theorem reply_mem (s : State) (ring : RingId) (nt : Bool) (vec : Nat) (r : ReplyRec) (u : Nat) (dn : List Nat) (af : List (CtxId × W32)) :
    (s.reply ring nt vec r u dn af).mem = match s.replyKey? ring with
      | some k => memWriteList s.mem k (r.bytes (s.ring ring).toggle s.tick.now)
      | none => s.mem := by
  have em : ∀ (w : State) r n, (w.ringEvent r n).mem = w.mem := ringEvent_mem
  have ew : ∀ (w : State) a b, (w.writeHost a b).mem = memWriteList w.mem (hostKey a) b := fun _ _ _ => rfl
  have ef : ∀ (w : State) a b, (w.writeFw a b).mem = memWriteList w.mem (fwKey a) b := fun _ _ _ => rfl
  have eg : ∀ (w : State) (g : Mgt), ({ w with mgt := g } : State).mem = w.mem := fun _ _ => rfl
  unfold State.reply State.replyKey? State.putReply
  dsimp only [modRing_mem]
  by_cases h1 : ring = mgtRing
  · rw [if_pos h1, if_pos (Or.inl h1)]
    split <;> simp only [modRing_mem]
  · rw [if_neg h1]
    by_cases h2 : (s.ring ring).err = 4
    · rw [if_pos h2, if_pos (Or.inr h2)]
    · by_cases h3 : (s.ring ring).core = true
      · simp only [h1, h2, h3, or_self, if_false, if_true]
        split <;> simp only [modRing_mem, ef, em]
      · by_cases h4 : s.pcie.up = true
        · simp only [h1, h2, h3, h4, or_self, if_false, if_true, Bool.false_eq_true]
          split <;> simp only [modRing_mem, ew, em]
        · simp only [h1, h2, h3, h4, or_self, if_false, modRing_mem, Bool.false_eq_true]

theorem reply_ring_ne (s : State) (ring : RingId) (nt : Bool) (vec : Nat) (r : ReplyRec) (u : Nat) (dn : List Nat) (af : List (CtxId × W32))
    {k : RingId} (hk : k ≠ ring) : (s.reply ring nt vec r u dn af).ring k = s.ring k := by
  unfold State.reply State.putReply
  dsimp only
  rw [ring_modRing_ne _ _ (Ne.symm hk)]
  have e : ∀ (w : State) f, (w.modRing ring f).ring k = w.ring k := fun w f => ring_modRing_ne _ _ (Ne.symm hk)
  have em : ∀ (w : State) n, (w.ringEvent ring n).ring k = w.ring k := fun w n => ringEvent_ring_ne w hk n
  have ew : ∀ (w : State) a b, (w.writeHost a b).ring k = w.ring k := fun _ _ _ => rfl
  have ef : ∀ (w : State) a b, (w.writeFw a b).ring k = w.ring k := fun _ _ _ => rfl
  have eg : ∀ (w : State) (g : Mgt), ({ w with mgt := g } : State).ring k = w.ring k := fun _ _ => rfl
  repeat' split
  all_goals simp only [e, em, ew, ef, eg]

/-- The ring a reply goes to: its newest entry, and the tail moves on unless a write has failed. -/
theorem reply_ring (s : State) (ring : RingId) (nt : Bool) (vec : Nat) (r : ReplyRec) (u : Nat) (dn : List Nat) (af : List (CtxId × W32)) :
    (((s.reply ring nt vec r u dn af).ring ring).head = (s.ring ring).head ∧ ((s.reply ring nt vec r u dn af).ring ring).nextSeq = (s.ring ring).nextSeq) ∧
    ((s.reply ring nt vec r u dn af).ring ring).hist.head? = some { seq := r.seq, ctx := r.ctx, phase := r.phase, status := r.status, units := u, done := dn, reply := r.bytes (s.ring ring).toggle s.tick.now } ∧
    (((s.ring ring).err = 4 ∧ ring ≠ mgtRing) ∨ ((s.reply ring nt vec r u dn af).ring ring).cplTail = (s.ring ring).cplTail + 1) := by
  have hsz : ∀ x : Ring, x.size ≠ 0 := fun x => by unfold Ring.size; exact Nat.pos_iff_ne_zero.1 (Nat.pow_pos (by decide))
  have hh : ∀ (x : Ring) (a : Hist) l, ((a :: l).take x.size).head? = some a := by
    intro x a l
    obtain ⟨n, hn⟩ := Nat.exists_eq_succ_of_ne_zero (hsz x)
    rw [hn]; rfl
  have e1 : ∀ (w : State) n, ((w.ringEvent ring n).ring ring).head = (w.ring ring).head := fun w n => (ringEvent_ring w ring n).1
  have e2 : ∀ (w : State) n, ((w.ringEvent ring n).ring ring).nextSeq = (w.ring ring).nextSeq := fun w n => (ringEvent_ring w ring n).2.1
  have e3 : ∀ (w : State) n, ((w.ringEvent ring n).ring ring).cplTail = (w.ring ring).cplTail := fun w n => (ringEvent_ring w ring n).2.2
  have ew : ∀ (w : State) a b, (w.writeHost a b).ring ring = w.ring ring := fun _ _ _ => rfl
  have ef : ∀ (w : State) a b, (w.writeFw a b).ring ring = w.ring ring := fun _ _ _ => rfl
  have eg : ∀ (w : State) (g : Mgt), ({ w with mgt := g } : State).ring ring = w.ring ring := fun _ _ => rfl
  unfold State.reply State.putReply
  dsimp only
  rw [ring_modRing_self]
  dsimp only
  rw [hh]
  refine ⟨?_, rfl, ?_⟩
  · repeat' split
    all_goals simp only [e1, e2, ew, ef, eg, ring_modRing_self, and_self]
  · by_cases h1 : ring = mgtRing
    · right
      rw [if_pos h1]
      split <;> simp only [eg, ring_modRing_self]
    · rw [if_neg h1]
      by_cases h2 : (s.ring ring).err = 4
      · left; exact ⟨h2, h1⟩
      · right
        rw [if_neg h2]
        repeat' split
        all_goals simp only [e3, ew, ef, ring_modRing_self]

/-! ### What a row that runs to its end in one step leaves -/

/-- What a row leaves, against the state in which its operation had taken effect. -/
structure After (h : Hdr) (v t : State) (cid : Nat) : Prop where
  mode : t.mode = v.mode
  mem : t.mem = v.mem ∨ ∃ k bs, v.replyKey? h.ring = some k ∧ bs.length = 32 ∧ t.mem = memWriteList v.mem k bs
  memUnit : t.memUnit = v.memUnit.without cid
  ctxs : ∀ k, k ≠ h.ctx → t.ctx k = v.ctx k
  own : t.ctx h.ctx = { v.ctx h.ctx with shUse := (t.ctx h.ctx).shUse }
  vault : t.vault = v.vault
  rings : ∀ r, r ≠ h.ring → t.ring r = v.ring r
  sched : t.sched = { v.sched with cmds := [], plan := v.sched.plan.filter fun p => p.cid != cid, stopping := v.sched.stopping.filter fun p => p.2 != cid }
  slices : ∀ e, ((v.slice e).progs.any fun p => p.cid == cid) = false → ((v.slice e).banks.any fun b => b.cid == cid) = false →
      ((v.slice e).tiles.any fun x => x.1 == cid) = false → t.slice e = v.slice e
  dma : t.dma = v.dma
  tick : t.tick = v.tick
  fab : t.fab = v.fab
  cle : t.cle = { v.cle with colls := v.cle.colls.filter fun x => x.cid != cid, fences := v.cle.fences.filter fun x => x.cid != cid }
  jobs : t.jobs = v.jobs
  jobChanges : t.jobChanges = v.jobChanges
  pvs : t.pvs = v.pvs
  mir : t.mir = v.mir
  ras : t.ras = v.ras
  boot : t.boot = v.boot
  power : t.power = v.power
  pcie : { t.pcie with msix := v.pcie.msix } = v.pcie
  mgt : { t.mgt with events := v.mgt.events } = v.mgt
  serve : t.serve = v.serve
  cfgErr : t.cfgErr = v.cfgErr
  banks : t.hostBank = v.hostBank ∧ t.mgtBank = v.mgtBank ∧ t.fwBanks = v.fwBanks
  pending : t.pending = v.pending

theorem gone_ctx_ne (v : State) (c : Cmd) {k : CtxId} (hk : c.ctx ≠ k) (hch : c.chan = none) : (v.gone c).ctx k = v.ctx k := by
  unfold State.gone State.releaseCmd
  rw [hch]
  show ((State.modCtx _ c.ctx _).ctx k) = _
  rw [ctx_modCtx_ne _ _ hk]; rfl

theorem gone_ctx_self (v : State) (c : Cmd) (hch : c.chan = none) (hst : c.state = .issued) :
    (v.gone c).ctx c.ctx = { v.ctx c.ctx with shUse := (v.ctx c.ctx).shUse - c.shNeed } := by
  unfold State.gone State.releaseCmd
  rw [hch]
  show ((State.modCtx _ c.ctx _).ctx c.ctx) = _
  rw [ctx_modCtx_self]
  simp only [hst, true_or, if_true]; rfl

theorem gone_slice (v : State) (c : Cmd) (hch : c.chan = none) (e : EngineId) (h1 : ((v.slice e).progs.any fun p => p.cid == c.cid) = false)
    (h2 : ((v.slice e).banks.any fun b => b.cid == c.cid) = false) (h3 : ((v.slice e).tiles.any fun x => x.1 == c.cid) = false) :
    (v.gone c).slice e = v.slice e := by
  unfold State.gone State.releaseCmd
  rw [hch]
  unfold State.freePrograms State.freeBanks State.modSched State.modMem State.modCtx State.slice at *
  simp only [Fin.getElem_fin, Vector.getElem_map] at *
  simp [h1, h3, h2]

theorem replyKey?_eq {s t : State} {r : RingId} (h1 : (t.ring r).cpl = (s.ring r).cpl) (h2 : (t.ring r).cplTail = (s.ring r).cplTail)
    (h3 : (t.ring r).log2sz = (s.ring r).log2sz) (h4 : (t.ring r).err = (s.ring r).err) (h5 : (t.ring r).core = (s.ring r).core)
    (h6 : t.pcie.up = s.pcie.up) : t.replyKey? r = s.replyKey? r := by
  unfold State.replyKey? Ring.size
  dsimp only
  rw [h1, h2, h3, h4, h5, h6]

section
variable {v : State} {c : Cmd} (h : c.chan = none)
include h
theorem gone_mode : (v.gone c).mode = v.mode := by unfold State.gone State.releaseCmd; rw [h]; rfl
theorem gone_mem : (v.gone c).mem = v.mem := by unfold State.gone State.releaseCmd; rw [h]; rfl
theorem gone_vault : (v.gone c).vault = v.vault := by unfold State.gone State.releaseCmd; rw [h]; rfl
theorem gone_rings : (v.gone c).rings = v.rings := by unfold State.gone State.releaseCmd; rw [h]; rfl
theorem gone_dma : (v.gone c).dma = v.dma := by unfold State.gone State.releaseCmd; rw [h]; rfl
theorem gone_tick : (v.gone c).tick = v.tick := by unfold State.gone State.releaseCmd; rw [h]; rfl
theorem gone_fab : (v.gone c).fab = v.fab := by unfold State.gone State.releaseCmd; rw [h]; rfl
theorem gone_jobs : (v.gone c).jobs = v.jobs := by unfold State.gone State.releaseCmd; rw [h]; rfl
theorem gone_jobChanges : (v.gone c).jobChanges = v.jobChanges := by unfold State.gone State.releaseCmd; rw [h]; rfl
theorem gone_pvs : (v.gone c).pvs = v.pvs := by unfold State.gone State.releaseCmd; rw [h]; rfl
theorem gone_mir : (v.gone c).mir = v.mir := by unfold State.gone State.releaseCmd; rw [h]; rfl
theorem gone_ras : (v.gone c).ras = v.ras := by unfold State.gone State.releaseCmd; rw [h]; rfl
theorem gone_boot : (v.gone c).boot = v.boot := by unfold State.gone State.releaseCmd; rw [h]; rfl
theorem gone_power : (v.gone c).power = v.power := by unfold State.gone State.releaseCmd; rw [h]; rfl
theorem gone_pcie : (v.gone c).pcie = v.pcie := by unfold State.gone State.releaseCmd; rw [h]; rfl
theorem gone_mgt : (v.gone c).mgt = v.mgt := by unfold State.gone State.releaseCmd; rw [h]; rfl
theorem gone_serve : (v.gone c).serve = v.serve := by unfold State.gone State.releaseCmd; rw [h]; rfl
theorem gone_cfgErr : (v.gone c).cfgErr = v.cfgErr := by unfold State.gone State.releaseCmd; rw [h]; rfl
theorem gone_hostBank : (v.gone c).hostBank = v.hostBank := by unfold State.gone State.releaseCmd; rw [h]; rfl
theorem gone_mgtBank : (v.gone c).mgtBank = v.mgtBank := by unfold State.gone State.releaseCmd; rw [h]; rfl
theorem gone_fwBanks : (v.gone c).fwBanks = v.fwBanks := by unfold State.gone State.releaseCmd; rw [h]; rfl
theorem gone_pending : (v.gone c).pending = v.pending := by unfold State.gone State.releaseCmd; rw [h]; rfl
theorem gone_memUnit : (v.gone c).memUnit = v.memUnit.without c.cid := by unfold State.gone State.releaseCmd; rw [h]; rfl
theorem gone_cle : (v.gone c).cle = { v.cle with colls := v.cle.colls.filter fun x => x.cid != c.cid, fences := v.cle.fences.filter fun x => x.cid != c.cid } := by unfold State.gone State.releaseCmd; rw [h]; rfl
theorem gone_sched : (v.gone c).sched = { v.sched with cmds := [], plan := v.sched.plan.filter fun p => p.cid != c.cid, stopping := v.sched.stopping.filter fun p => p.2 != c.cid } := by unfold State.gone State.releaseCmd; rw [h]; rfl
theorem gone_ring (r : RingId) : (v.gone c).ring r = v.ring r := by unfold State.ring; rw [gone_rings h]
end

/-- A row whose command commits as it starts: the reply, and what is left. -/
theorem row_commits {i : Instr} {s u v : State} {h : Hdr} {op : Op} {c : Cmd} {d : W64} (hr : packetRow i = some (h, op))
    (g : s.starts? h op = some (u, c)) (e : u.startOp c = doneOk v d) (hp : plainEnd op = true) (hcmds : v.sched.cmds = [c])
    (hruns : v.sched.runs = []) (hreqs : v.serve.reqs = []) (hring : { v.ring h.ring with server := 0 } = { u.ring h.ring with server := 0 }) (hup : v.pcie.up = s.pcie.up)
    (htick : v.tick.now = s.tick.now) (hmem : memWf s.mem = true → memWf v.mem = true) :
    ∃ t, exec i s = .next t ∧ Replied h (opCode op) s t .committed false stOk d ∧ After h v t s.sched.nextCid ∧
      (t.ctx h.ctx).shUse = (v.ctx h.ctx).shUse - c.shNeed := by
  have b := begun g
  have hrf : ∀ {α : Type} (f : Ring → α), (∀ x : Ring, f { x with server := 0 } = f x) → f (v.ring h.ring) = f (u.ring h.ring) := by
    intro α f hf
    rw [← hf (v.ring h.ring), hring, hf]
  have hc : v.cmd? c.cid = some c := by simp [State.cmd?, hcmds]
  obtain ⟨y, hy, he⟩ := row_done hr g e (by rw [hc]; rfl) (by rw [hreqs, b.serve, b.reqs])
  rw [hc] at hy
  cases hy
  refine ⟨_, he, ?_, ?_, ?_⟩
  all_goals rw [endCmd_alone hcmds hruns b.state b.run b.acquire b.hold b.chan (by rw [b.op]; exact hp)]
  all_goals (have w := writes_reply (v.gone c) c.ring c.notify c.ring.val (c.okReply d (Config.freeNat v.free)) c.units c.done c.after)
  · have hgr : (v.gone c).ring c.ring = v.ring h.ring := by
      rw [b.ring]; exact gone_ring b.chan _
    obtain ⟨q1, q2, q3⟩ := reply_ring (v.gone c) c.ring c.notify c.ring.val (c.okReply d (Config.freeNat v.free)) c.units c.done c.after
    rw [hgr, b.ring] at q1 q3
    rw [hgr] at q2
    obtain ⟨k1, k2, k3, k4, k5⟩ := b.cplOf
    rw [← hrf (·.cpl) fun _ => rfl] at k1
    rw [← hrf (·.cplTail) fun _ => rfl] at k2
    rw [← hrf (·.log2sz) fun _ => rfl] at k3
    rw [← hrf (·.err) fun _ => rfl] at k4
    rw [← hrf (·.core) fun _ => rfl] at k5
    have hhead := b.head
    have hnseq := b.nextSeq
    rw [← hrf (·.head) fun _ => rfl] at hhead
    rw [← hrf (·.nextSeq) fun _ => rfl] at hnseq
    have hsz : (v.ring h.ring).toggle = (s.ring h.ring).toggle := by unfold Ring.toggle Ring.size; rw [k2, k3]
    have hnow : (v.gone c).tick.now = s.tick.now := by rw [← htick, gone_tick b.chan]
    have hgup : (v.gone c).pcie.up = s.pcie.up := by rw [← hup, gone_pcie b.chan]
    have hgm : (v.gone c).mem = v.mem := gone_mem b.chan
    rw [b.ring] at q2 hgr ⊢
    refine ⟨by rw [q1.1]; exact hhead, by rw [q1.2]; exact hnseq, ⟨_, c.okReply d (Config.freeNat v.free), q2, b.seq, b.cx, rfl, rfl, ?_, b.seq, rfl, rfl, rfl, rfl, ?_, b.cx, b.gen, ?_⟩, ?_⟩
    · show ReplyRec.bytes _ _ _ = _
      rw [hsz, hnow]
    · show opCode c.op = _
      rw [b.op]
    · intro hw k hk
      rw [reply_mem, replyKey?_eq (s := s) (by rw [hgr]; exact k1) (by rw [hgr]; exact k2) (by rw [hgr]; exact k3) (by rw [hgr]; exact k4) (by rw [hgr]; exact k5) hgup, hk]
      dsimp only
      rw [hgr, hgm]
      have := memReadList_memWriteList (hmem hw) k ((c.okReply d (Config.freeNat v.free)).bytes (v.ring h.ring).toggle (v.gone c).tick.now)
      rw [replyBytes_length] at this
      exact this
    · rw [k4, k2] at q3
      exact q3
  · have hgr : (v.gone c).replyKey? h.ring = v.replyKey? h.ring := by
      unfold State.replyKey?
      rw [gone_ring b.chan, gone_pcie b.chan]
    constructor
    case mem =>
      rw [reply_mem, b.ring, hgr]
      have hgm : (v.gone c).mem = v.mem := gone_mem b.chan
      split
      · rename_i k hk
        right
        refine ⟨k, _, hk, replyBytes_length _ _ _, by rw [hgm]⟩
      · left; exact hgm
    case ctxs =>
      intro k hk
      have e0 : ∀ w : State, w.ctxs = (v.gone c).ctxs → w.ctx k = (v.gone c).ctx k := fun w hw => by unfold State.ctx; rw [hw]
      rw [e0 _ w.ctxs, gone_ctx_ne v c (by rw [b.cx]; exact Ne.symm hk) b.chan]
    case own =>
      have e0 : ∀ w : State, w.ctxs = (v.gone c).ctxs → w.ctx h.ctx = (v.gone c).ctx h.ctx := fun w hw => by unfold State.ctx; rw [hw]
      rw [e0 _ w.ctxs]
      have := gone_ctx_self v c b.chan b.state
      rw [b.cx] at this
      rw [this]
    case rings =>
      intro r hr
      rw [reply_ring_ne _ _ _ _ _ _ _ _ (by rw [b.ring]; exact hr), gone_ring b.chan]
    case slices =>
      intro e h1 h2 h3
      have e0 : ∀ w : State, w.slices = (v.gone c).slices → w.slice e = (v.gone c).slice e := fun w hw => by unfold State.slice; rw [hw]
      rw [e0 _ w.slices]
      rw [← b.cid] at h1 h2 h3
      exact gone_slice v c b.chan e h1 h2 h3
    case sched =>
      rw [w.sched, ← b.cid, gone_sched b.chan]
    case memUnit =>
      rw [w.memUnit, ← b.cid, gone_memUnit b.chan]
    case cle =>
      rw [w.cle, ← b.cid, gone_cle b.chan]
    case banks =>
      rw [w.hostBank, w.mgtBank, w.fwBanks, gone_hostBank b.chan, gone_mgtBank b.chan, gone_fwBanks b.chan]
      exact ⟨rfl, rfl, rfl⟩
    case pcie =>
      have k := w.pcie
      rw [gone_pcie b.chan] at k
      exact k
    case mgt =>
      have k := w.mgt
      rw [gone_mgt b.chan] at k
      exact k
    all_goals first
      | exact w.mode.trans (gone_mode b.chan)
      | exact w.vault.trans (gone_vault b.chan)
      | exact w.dma.trans (gone_dma b.chan)
      | exact w.tick.trans (gone_tick b.chan)
      | exact w.fab.trans (gone_fab b.chan)
      | exact w.jobs.trans (gone_jobs b.chan)
      | exact w.jobChanges.trans (gone_jobChanges b.chan)
      | exact w.pvs.trans (gone_pvs b.chan)
      | exact w.mir.trans (gone_mir b.chan)
      | exact w.ras.trans (gone_ras b.chan)
      | exact w.boot.trans (gone_boot b.chan)
      | exact w.power.trans (gone_power b.chan)
      | exact w.serve.trans (gone_serve b.chan)
      | exact w.cfgErr.trans (gone_cfgErr b.chan)
      | exact w.pending.trans (gone_pending b.chan)
  · have e0 : ∀ w : State, w.ctxs = (v.gone c).ctxs → w.ctx h.ctx = (v.gone c).ctx h.ctx := fun w hw => by unfold State.ctx; rw [hw]
    rw [e0 _ w.ctxs]
    have := gone_ctx_self v c b.chan b.state
    rw [b.cx] at this
    rw [this]

/-- The operation left a part as it found it. -/
def Untouched (h : Hdr) (s u v : State) : Part → Prop
  | .mode => v.mode = u.mode
  | .mem => v.mem = u.mem ∧ v.replyKey? h.ring = s.replyKey? h.ring
  | .memUnit => v.memUnit = u.memUnit
  | .ctxs => v.ctxs = u.ctxs
  | .vault => v.vault = u.vault
  | .rings => v.rings = u.rings
  | .sched => v.sched = u.sched
  | .slices => v.slices = u.slices
  | .dma => v.dma = u.dma
  | .tick => v.tick = u.tick
  | .fab => v.fab = u.fab
  | .cle => v.cle = u.cle
  | .jobs => v.jobs = u.jobs
  | .jobChanges => v.jobChanges = u.jobChanges
  | .pvs => v.pvs = u.pvs
  | .mir => v.mir = u.mir
  | .ras => v.ras = u.ras
  | .boot => v.boot = u.boot
  | .power => v.power = u.power
  | .pcie => v.pcie = u.pcie
  | .mgt => v.mgt = u.mgt
  | .serve => v.serve = u.serve
  | .cfgErr => v.cfgErr = u.cfgErr
  | .banks => v.hostBank = u.hostBank ∧ v.mgtBank = u.mgtBank ∧ v.fwBanks = u.fwBanks
  | .pending => v.pending = u.pending

/-- A part that the operation leaves is kept by the row. -/
theorem kept_after {s u v t : State} {h : Hdr} {op : Op} {c : Cmd} (b : Begun s u h op c) (a : After h v t s.sched.nextCid)
    (hsh : (t.ctx h.ctx).shUse = (v.ctx h.ctx).shUse - c.shNeed) {x : Part} (k : Untouched h s u v x) : Kept h s t x := by
  cases x
  case mem =>
    obtain ⟨k1, k2⟩ := k
    intro hw q hq
    rcases a.mem with e | ⟨n, bs, hn, hl, e⟩
    · rw [e, k1, b.mem]
    · rw [e, k1, b.mem, memRead_memWriteList hw, if_neg]
      rw [k2] at hn
      have := hq n hn
      omega
  case ctxs =>
    intro q
    have k : v.ctxs = u.ctxs := k
    have e0 : ∀ q, v.ctx q = u.ctx q := fun q => by unfold State.ctx; rw [k]
    by_cases hq : q = h.ctx
    · subst hq
      rw [a.own, hsh, e0, b.own]
      simp
    · rw [a.ctxs q hq, e0, b.others q hq]
  case rings =>
    intro r hr
    have k : v.rings = u.rings := k
    rw [a.rings r hr, show v.ring r = u.ring r by unfold State.ring; rw [k], b.rings r hr]
  case slices =>
    intro e h1 h2 h3
    have k : v.slices = u.slices := k
    have hk : v.slice e = s.slice e := by unfold State.slice; rw [k, b.slices]
    rw [← hk] at h1 h2 h3
    rw [a.slices e h1 h2 h3, hk]
  case sched =>
    have k : v.sched = u.sched := k
    show t.sched = _
    rw [a.sched, k, b.sched]
  case memUnit => exact a.memUnit.trans (by rw [show v.memUnit = u.memUnit from k, b.memUnit])
  case cle => exact a.cle.trans (by rw [show v.cle = u.cle from k, b.cle])
  case pcie =>
    have e := a.pcie
    rw [show v.pcie = u.pcie from k, b.pcie] at e
    exact e
  case mgt =>
    have e := a.mgt
    rw [show v.mgt = u.mgt from k, b.mgt] at e
    exact e
  case banks => exact ⟨a.banks.1.trans (k.1.trans b.hostBank), a.banks.2.1.trans (k.2.1.trans b.mgtBank), a.banks.2.2.trans (k.2.2.trans b.fwBanks)⟩
  case mode => exact a.mode.trans (Eq.trans k b.mode)
  case vault => exact a.vault.trans (Eq.trans k b.vault)
  case dma => exact a.dma.trans (Eq.trans k b.dma)
  case tick => exact a.tick.trans (Eq.trans k b.tick)
  case fab => exact a.fab.trans (Eq.trans k b.fab)
  case jobs => exact a.jobs.trans (Eq.trans k b.jobs)
  case jobChanges => exact a.jobChanges.trans (Eq.trans k b.jobChanges)
  case pvs => exact a.pvs.trans (Eq.trans k b.pvs)
  case mir => exact a.mir.trans (Eq.trans k b.mir)
  case ras => exact a.ras.trans (Eq.trans k b.ras)
  case boot => exact a.boot.trans (Eq.trans k b.boot)
  case power => exact a.power.trans (Eq.trans k b.power)
  case serve => exact a.serve.trans (Eq.trans k b.serve)
  case cfgErr => exact a.cfgErr.trans (Eq.trans k b.cfgErr)
  case pending => exact a.pending.trans (Eq.trans k b.pending)

/-- A row whose operation takes effect at its start and leaves all but some parts commits. -/
theorem commits_row {i : Instr} {s u v : State} {h : Hdr} {op : Op} {c : Cmd} {d : W64} {ch : List Part} {p : State → Prop}
    (hr : packetRow i = some (h, op)) (hal : s.alone = true) (g : s.starts? h op = some (u, c)) (e : u.startOp c = doneOk v d) (hp : plainEnd op = true)
    (hcmds : v.sched.cmds = u.sched.cmds) (hruns : v.sched.runs = u.sched.runs) (hreqs : v.serve.reqs = u.serve.reqs) (hring : { v.ring h.ring with server := 0 } = { u.ring h.ring with server := 0 })
    (hup : v.pcie.up = u.pcie.up) (htick : v.tick.now = u.tick.now) (hmem : memWf u.mem = true → memWf v.mem = true)
    (hsame : ∀ x, x ∉ ch → Untouched h s u v x) (hpt : ∀ t, After h v t s.sched.nextCid → p t) : Commits i h (opCode op) d s ch p := by
  have b := begun g
  obtain ⟨t, ht, hrep, ha, hsh⟩ := row_commits hr g e hp (by rw [hcmds, b.sched, (alone_spec hal).1]; rfl) (by rw [hruns, b.sched]; exact (alone_spec hal).2.1)
    (by rw [hreqs, b.serve, b.reqs]) hring (by rw [hup, b.pcie]) (by rw [htick, b.tick]) (by rw [← b.mem]; exact hmem)
  exact ⟨t, ht, hrep, fun x hx => kept_after b ha hsh (hsame x hx), hpt t ha⟩

/-- The next reply of the packet's ring is written where it was before the packet. -/
theorem Begun.replyKey {s u : State} {h : Hdr} {op : Op} {c : Cmd} (b : Begun s u h op c) : u.replyKey? h.ring = s.replyKey? h.ring := by
  obtain ⟨k1, k2, k3, k4, k5⟩ := b.cplOf
  exact replyKey?_eq k1 k2 k3 k4 k5 (by rw [b.pcie])

theorem runs_spec {s : State} {h : Hdr} {op : Op} (g : s.runs h op = true) : s.alone = true ∧ ∃ u c, s.starts? h op = some (u, c) := by
  simp only [State.runs, Bool.and_eq_true, Option.isSome_iff_exists, Prod.exists] at g
  exact g

end Sys2Proof.Machine
end

