-- ==== Sys2Proof/Laws/Keeps.lean ====
section
/-! SUPPORT. What every operation of the module keeps between two states, and how the relation passes through updates, folds and
answers of every shape. -/
namespace Sys2Proof.Machine

/-- The second state keeps the queue of the first, the canonical form of memory and generations other than 0, and it has drawn no
fewer free values. -/
structure Keeps (s t : State) : Prop where
  queue : t.pending = s.pending
  mem : memWf s.mem = true → memWf t.mem = true
  gens : gensOk s.ctxs → gensOk t.ctxs
  free : s.free ≤ t.free

theorem Keeps.rfl' (s : State) : Keeps s s := ⟨rfl, id, id, Nat.le_refl _⟩

theorem Keeps.trans {s t u : State} (h : Keeps s t) (k : Keeps t u) : Keeps s u :=
  ⟨k.queue.trans h.queue, k.mem ∘ h.mem, k.gens ∘ h.gens, Nat.le_trans h.free k.free⟩

/-- An update of other fields, with draws. -/
theorem Keeps.put {s t : State} (h : Keeps s t) {x0 x2 x4 x5 x6 x7 x8 x9 x10 x11 x12 x13 x14 x15 x16 x17 x18 x19 x20 x21 x22 x23 x24 x25 n} (hn : t.free ≤ n) :
    Keeps s (State.mk x0 t.mem x2 t.ctxs x4 x5 x6 x7 x8 x9 x10 x11 x12 x13 x14 x15 x16 x17 x18 x19 x20 x21 x22 x23 x24 x25 n t.pending) :=
  ⟨h.queue, h.mem, h.gens, Nat.le_trans h.free hn⟩

/-- An update of the contexts, too. -/
theorem Keeps.putCtxs {s t : State} (h : Keeps s t) {x0 x2 x4 x5 x6 x7 x8 x9 x10 x11 x12 x13 x14 x15 x16 x17 x18 x19 x20 x21 x22 x23 x24 x25 v} (hv : gensOk t.ctxs → gensOk v) :
    Keeps s (State.mk x0 t.mem x2 v x4 x5 x6 x7 x8 x9 x10 x11 x12 x13 x14 x15 x16 x17 x18 x19 x20 x21 x22 x23 x24 x25 t.free t.pending) :=
  ⟨h.queue, h.mem, hv ∘ h.gens, h.free⟩

theorem gensOk_vmod {v : Vector Ctx 64} (h : gensOk v) (c : CtxId) (f : Ctx → Ctx) (hf : ∀ x, x.gen ≠ 0 → (f x).gen ≠ 0) :
    gensOk (vmod v c f) := by
  intro d
  show (((v.set c.val (f v[c]) c.isLt)[d.val]'d.isLt)).gen ≠ 0
  rw [Vector.getElem_set]
  split
  · exact hf _ (h c)
  · exact h d

theorem gensOk_map {v : Vector Ctx 64} (h : gensOk v) (f : Ctx → Ctx) (hf : ∀ x, x.gen ≠ 0 → (f x).gen ≠ 0) : gensOk (v.map f) := by
  intro d
  show ((v.map f)[d.val]'d.isLt).gen ≠ 0
  rw [Vector.getElem_map]
  exact hf _ (h d)

theorem keeps_modCtx {s t : State} (h : Keeps s t) (c : CtxId) (f : Ctx → Ctx) (hf : ∀ x, x.gen ≠ 0 → (f x).gen ≠ 0) :
    Keeps s (t.modCtx c f) :=
  ⟨h.queue, h.mem, fun g => gensOk_vmod (h.gens g) c f hf, h.free⟩

theorem keeps_setMem {s t : State} (h : Keeps s t) {m : List Host.Cell} (hm : memWf t.mem = true → memWf m = true) :
    Keeps s (t.setMem m) :=
  ⟨h.queue, hm ∘ h.mem, h.gens, h.free⟩

/-- A state that has a name on the way. -/
theorem Keeps.named {s z : State} {p : Prop} (h : Keeps s z) (k : Keeps s z → p) : p := k h

/-! ### Folds -/

theorem Keeps.foldl {s t : State} {α : Type} {f : State → α → State} {l : List α} (h : Keeps s t)
    (hf : ∀ a x, Keeps s a → Keeps s (f a x)) : Keeps s (l.foldl f t) := by
  induction l generalizing t with
  | nil => exact h
  | cons x l ih => exact ih (hf _ _ h)

theorem memWf_foldl {α : Type} {m : List Host.Cell} (h : memWf m = true) {f : List Host.Cell → α → List Host.Cell} {l : List α}
    (hf : ∀ a x, memWf a = true → memWf (f a x) = true) : memWf (l.foldl f m) = true := by
  induction l generalizing m with
  | nil => exact h
  | cons x l ih => exact ih (hf _ _ h)

/-! ### Answers -/

/-- A state with something beside it. -/
def KeepsP {β : Type} (s : State) (p : State × β) : Prop := Keeps s p.1
/-- Something with a state beside it. -/
def KeepsQ {β : Type} (s : State) (p : β × State) : Prop := Keeps s p.2
/-- A state, if there is one. -/
def KeepsO (s : State) (o : Option State) : Prop := ∀ u, o = some u → Keeps s u
/-- What an admission answers, if it succeeds. -/
def KeepsE {ε β : Type} (s : State) (o : Except ε (State × β)) : Prop := ∀ u, o = .ok u → Keeps s u.1
/-- What allotment answers, if it gives a state. -/
def KeepsA {ε : Type} (s : State) (o : Option (Except ε State)) : Prop := ∀ u, o = some (.ok u) → Keeps s u
/-- The outcome of a meaning, if it is a next state. -/
def KeepsX {φ ρ : Type} (s : State) (o : Host.Outcome State φ ρ) : Prop := ∀ u, o = .next u → Keeps s u

theorem KeepsP.mk {β : Type} {s u : State} {i : β} (h : Keeps s u) : KeepsP s (u, i) := h
theorem KeepsP.elim {β : Type} {s u : State} {p : State × β} {i : β} (e : p = (u, i)) (h : KeepsP s p) : Keeps s u := by subst e; exact h
theorem KeepsP.fst {β : Type} {s : State} {p : State × β} (h : KeepsP s p) : Keeps s p.1 := h
theorem KeepsP.foldl {s : State} {α β : Type} {f : State × β → α → State × β} {l : List α} {p : State × β} (h : KeepsP s p)
    (hf : ∀ a x, KeepsP s a → KeepsP s (f a x)) : KeepsP s (l.foldl f p) := by
  induction l generalizing p with
  | nil => exact h
  | cons x l ih => exact ih (hf _ _ h)
theorem KeepsP.named {β : Type} {s : State} {z : State × β} {p : Prop} (h : KeepsP s z) (k : KeepsP s z → p) : p := k h
theorem KeepsP.map {β γ : Type} {s : State} {p : State × β} {g : State × β → State × γ} (h : KeepsP s p) (hg : ∀ a, KeepsP s a → KeepsP s (g a)) :
    KeepsP s (g p) := hg _ h

theorem KeepsQ.mk {β : Type} {s u : State} {i : β} (h : Keeps s u) : KeepsQ s (i, u) := h
theorem KeepsQ.elim {β : Type} {s u : State} {p : β × State} {i : β} (e : p = (i, u)) (h : KeepsQ s p) : Keeps s u := by subst e; exact h
theorem KeepsQ.snd {β : Type} {s : State} {p : β × State} (h : KeepsQ s p) : Keeps s p.2 := h

theorem KeepsO.none {s : State} : KeepsO s Option.none := fun _ h => nomatch h
theorem KeepsO.some {s u : State} (h : Keeps s u) : KeepsO s (Option.some u) := fun _ e => by cases e; exact h
theorem KeepsO.elim {s u : State} {o : Option State} (e : o = Option.some u) (h : KeepsO s o) : Keeps s u := h u e
theorem KeepsO.named {s : State} {z : Option State} {p : Prop} (h : KeepsO s z) (k : KeepsO s z → p) : p := k h
theorem KeepsO.map {s : State} {o : Option State} {g : State → State} (h : KeepsO s o) (hg : ∀ a, Keeps s a → Keeps s (g a)) :
    KeepsO s (o.map g) := by
  cases o with
  | none => exact KeepsO.none
  | some u => exact KeepsO.some (hg _ (h u rfl))
theorem KeepsO.mapVal {s : State} {β : Type} {o : Option β} {g : β → State} (hg : ∀ a, Keeps s (g a)) : KeepsO s (o.map g) := by
  cases o with
  | none => exact KeepsO.none
  | some u => exact KeepsO.some (hg u)
theorem KeepsO.getD {s t : State} {o : Option State} (h : KeepsO s o) (k : Keeps s t) : Keeps s (o.getD t) := by
  cases o with
  | none => exact k
  | some u => exact h u rfl

theorem KeepsE.error {ε β : Type} {s : State} {x : ε} : KeepsE s (Except.error x : Except ε (State × β)) := fun _ h => nomatch h
theorem KeepsE.ok {ε β : Type} {s u : State} {i : β} (h : Keeps s u) : KeepsE s (Except.ok (u, i) : Except ε (State × β)) :=
  fun _ e => by cases e; exact h
theorem KeepsE.elim {ε β : Type} {s u : State} {i : β} {o : Except ε (State × β)} (e : o = Except.ok (u, i)) (h : KeepsE s o) : Keeps s u := h _ e

theorem KeepsA.none {ε : Type} {s : State} : KeepsA s (Option.none : Option (Except ε State)) := fun _ h => nomatch h
theorem KeepsA.error {ε : Type} {s : State} {x : ε} : KeepsA s (Option.some (Except.error x) : Option (Except ε State)) := fun _ h => nomatch h
theorem KeepsA.ok {ε : Type} {s u : State} (h : Keeps s u) : KeepsA s (Option.some (Except.ok u) : Option (Except ε State)) :=
  fun _ e => by cases e; exact h
theorem KeepsA.elim {ε : Type} {s u : State} {o : Option (Except ε State)} (e : o = Option.some (Except.ok u)) (h : KeepsA s o) : Keeps s u := h _ e

theorem KeepsX.next {φ ρ : Type} {s u : State} (h : Keeps s u) : KeepsX s (Host.Outcome.next u : Host.Outcome State φ ρ) :=
  fun _ e => by cases e; exact h
theorem KeepsX.refused {φ ρ : Type} {s : State} {x : ρ} : KeepsX s (Host.Outcome.refused x : Host.Outcome State φ ρ) := fun _ h => nomatch h
theorem KeepsX.fault {φ ρ : Type} {s : State} {x : φ} : KeepsX s (Host.Outcome.fault x : Host.Outcome State φ ρ) := fun _ h => nomatch h

end Sys2Proof.Machine
end

