-- ==== Sys2Proof/Laws/KeepsOps.lean ====
section
/-! SUPPORT. Every operation of memory, pages, events, replies and the plan keeps the queue, the canonical form of memory and the
generations of contexts, and takes back no draw (`Keeps`). The proofs follow the operations' own shape. -/
namespace Sys2Proof.Machine

/-! ### Ops -/

theorem keeps_modChan {s t : State} (h : Keeps s t) (x1) (x2) : Keeps s (State.modChan t x1 x2) := by
  unfold State.modChan
  lift_lets; (with_reducible intro; with_reducible intros; try beta_reduce; try lift_lets)
  with_reducible (apply Keeps.put; assumption; exact Nat.le_refl _)
theorem keeps_modMir {s t : State} (h : Keeps s t) (x1) (x2) : Keeps s (State.modMir t x1 x2) := by
  unfold State.modMir
  lift_lets; (with_reducible intro; with_reducible intros; try beta_reduce; try lift_lets)
  with_reducible (apply Keeps.put; assumption; exact Nat.le_refl _)
theorem keeps_markDirty {s t : State} (h : Keeps s t) (x1) (x2) : Keeps s (State.markDirty t x1 x2) := by
  unfold State.markDirty
  split; with_reducible (apply keeps_modMir; assumption; assumption)
theorem keeps_writeCtx {s t : State} (h : Keeps s t) (x1) (x2) (x3) : Keeps s (State.writeCtx t x1 x2 x3) := by
  unfold State.writeCtx
  with_reducible (apply keeps_markDirty; apply keeps_setMem; assumption)
  (with_reducible intro; with_reducible intros; try beta_reduce; try lift_lets); exact memWf_memWriteList (by with_reducible assumption) _ _
theorem keeps_modSched {s t : State} (h : Keeps s t) (x1) : Keeps s (State.modSched t x1) := by
  unfold State.modSched
  with_reducible (apply Keeps.put; assumption; exact Nat.le_refl _)
theorem keeps_modCmd {s t : State} (h : Keeps s t) (x1) (x2) : Keeps s (State.modCmd t x1 x2) := by
  unfold State.modCmd
  with_reducible (apply keeps_modSched; assumption)
theorem keeps_writeHost {s t : State} (h : Keeps s t) (x1) (x2) : Keeps s (State.writeHost t x1 x2) := by
  unfold State.writeHost
  with_reducible (apply keeps_setMem; assumption); (with_reducible intro; with_reducible intros; try beta_reduce; try lift_lets)
  exact memWf_memWriteList (by with_reducible assumption) _ _
theorem keeps_modMem {s t : State} (h : Keeps s t) (x1) : Keeps s (State.modMem t x1) := by
  unfold State.modMem
  with_reducible (apply Keeps.put; assumption; exact Nat.le_refl _)
theorem keeps_modPages {s t : State} (h : Keeps s t) (x1) (x2) : Keeps s (State.modPages t x1 x2) := by
  unfold State.modPages
  with_reducible (apply keeps_modMem; assumption)
theorem keeps_modLink {s t : State} (h : Keeps s t) (x1) (x2) : Keeps s (State.modLink t x1 x2) := by
  unfold State.modLink
  lift_lets; (with_reducible intro; with_reducible intros; try beta_reduce; try lift_lets)
  with_reducible (apply Keeps.put; assumption; exact Nat.le_refl _)
theorem keeps_modRing {s t : State} (h : Keeps s t) (x1) (x2) : Keeps s (State.modRing t x1 x2) := by
  unfold State.modRing
  with_reducible (apply Keeps.put; assumption; exact Nat.le_refl _)
theorem keeps_writeFw {s t : State} (h : Keeps s t) (x1) (x2) : Keeps s (State.writeFw t x1 x2) := by
  unfold State.writeFw
  with_reducible (apply keeps_setMem; assumption); (with_reducible intro; with_reducible intros; try beta_reduce; try lift_lets)
  exact memWf_memWriteList (by with_reducible assumption) _ _
theorem keeps_modRas {s t : State} (h : Keeps s t) (x1) : Keeps s (State.modRas t x1) := by
  unfold State.modRas
  with_reducible (apply Keeps.put; assumption; exact Nat.le_refl _)
theorem keeps_modSlice {s t : State} (h : Keeps s t) (x1) (x2) : Keeps s (State.modSlice t x1 x2) := by
  unfold State.modSlice
  with_reducible (apply Keeps.put; assumption; exact Nat.le_refl _)
theorem keeps_modPv {s t : State} (h : Keeps s t) (x1) (x2) : Keeps s (State.modPv t x1 x2) := by
  unfold State.modPv
  with_reducible (apply Keeps.put; assumption; exact Nat.le_refl _)
theorem keeps_writeCells {s t : State} (h : Keeps s t) (x1) (x2) : Keeps s (State.writeCells t x1 x2) := by
  unfold State.writeCells
  with_reducible (apply keeps_markDirty; apply keeps_setMem; assumption)
  (with_reducible intro; with_reducible intros; try beta_reduce; try lift_lets); exact memWf_memApply (by with_reducible assumption) _
theorem keeps_modProg {s t : State} (h : Keeps s t) (x1) (x2) (x3) : Keeps s (State.modProg t x1 x2 x3) := by
  unfold State.modProg
  with_reducible (apply keeps_modSlice; assumption)
theorem keeps_draw {s t : State} (h : Keeps s t)  : KeepsQ s (State.draw t) := by
  unfold State.draw
  with_reducible apply KeepsQ.mk; lift_lets; with_reducible (apply Keeps.put; assumption; exact Nat.le_succ _)
theorem keeps_retainOwn {s t : State} (h : Keeps s t) (x1) : Keeps s (State.retainOwn t x1) := by
  unfold State.retainOwn
  split; with_reducible (assumption; apply keeps_modMir; assumption)

/-! ### Flags -/

theorem keeps_count {s t : State} (h : Keeps s t) (x1) (x2) (x3) : Keeps s (State.count t x1 x2 x3) := by
  unfold State.count
  with_reducible (apply Keeps.put; assumption; exact Nat.le_refl _)
theorem keeps_msix {s t : State} (h : Keeps s t) (x1) : Keeps s (State.msix t x1) := by
  unfold State.msix
  split; lift_lets; (with_reducible intro; with_reducible intros; try beta_reduce; try lift_lets)
  with_reducible (apply Keeps.put; assumption; exact Nat.le_refl _; assumption)
theorem keeps_cfgError {s t : State} (h : Keeps s t) (x1) (x2) (x3) : Keeps s (State.cfgError t x1 x2 x3) := by
  unfold State.cfgError
  (dsimp +zetaDelta only; split)
  with_reducible (apply Keeps.put; apply keeps_count; assumption; exact Nat.le_refl _; apply Keeps.put; apply keeps_count; assumption)
  with_reducible (exact Nat.le_refl _)
theorem keeps_genDrop {s t : State} (h : Keeps s t) (x1) : Keeps s (State.genDrop t x1) := by
  unfold State.genDrop
  with_reducible (apply keeps_count; assumption)

/-! ### Pages -/

theorem keeps_programmed {s t : State} (h : Keeps s t) (x1) : Keeps s (State.programmed t x1) := by
  unfold State.programmed
  lift_lets; (with_reducible intro; with_reducible intros; try beta_reduce; try lift_lets)
  with_reducible (apply Keeps.put; assumption; exact Nat.le_refl _)
theorem keeps_unroom {s t : State} (h : Keeps s t) (x1) : Keeps s (State.unroom t x1) := by
  unfold State.unroom
  repeat' first
    | with_reducible assumption | with_reducible apply keeps_modMem | split
    | ((try lift_lets); intro z; refine Keeps.named (s := s) (z := z) ?_ ?_; (try subst z); rotate_left; intro hz; clear_value z)
    | ((try lift_lets); intro z; clear_value z) | (with_reducible intro; with_reducible intros; try beta_reduce)
theorem keeps_placeBlock {s t : State} (h : Keeps s t) (x1) (x2) (x3) (x4) : Keeps s (State.placeBlock t x1 x2 x3 x4) := by
  unfold State.placeBlock
  repeat' first
    | with_reducible assumption | exact Nat.le_refl _ | exact Nat.le_succ _ | with_reducible apply keeps_unroom | with_reducible apply keeps_modMem
    | with_reducible apply keeps_modPages | with_reducible apply keeps_programmed | (with_reducible apply Keeps.put; with_reducible assumption)
    | (with_reducible apply Keeps.putCtxs; with_reducible assumption)
    | (with_reducible apply Keeps.put; first | with_reducible apply keeps_unroom | with_reducible apply keeps_modMem | with_reducible apply keeps_modPages | with_reducible apply keeps_programmed)
    | (intro x hx; exact hx) | split
    | ((try lift_lets); intro z; refine Keeps.named (s := s) (z := z) ?_ ?_; (try subst z); rotate_left; intro hz; clear_value z)
    | ((try lift_lets); intro z; clear_value z) | (with_reducible intro; with_reducible intros; try beta_reduce)
theorem keeps_makeRoom {s t : State} (h : Keeps s t) (x1) (x2) (x3) (x4) : KeepsO s (State.makeRoom t x1 x2 x3 x4) := by
  induction x4 generalizing t x1 x2 x3 with
  | zero =>
    unfold State.makeRoom
    repeat' first
      | with_reducible assumption | exact KeepsO.none | with_reducible apply KeepsO.some | with_reducible apply keeps_placeBlock | split
      | ((try lift_lets); intro z; refine Keeps.named (s := s) (z := z) ?_ ?_; (try subst z); rotate_left; intro hz; clear_value z)
      | ((try lift_lets); intro z; refine KeepsO.named (s := s) (z := z) ?_ ?_; (try subst z); rotate_left; intro hz; clear_value z)
      | ((try lift_lets); intro z; clear_value z) | (with_reducible intro; with_reducible intros; try beta_reduce)
      | (refine KeepsO.elim (by with_reducible assumption) ?_)
  | succ n ih =>
    unfold State.makeRoom
    repeat' first
      | with_reducible assumption | exact KeepsO.none | with_reducible apply KeepsO.some | with_reducible apply keeps_placeBlock
      | with_reducible apply ih | split
      | ((try lift_lets); intro z; refine Keeps.named (s := s) (z := z) ?_ ?_; (try subst z); rotate_left; intro hz; clear_value z)
      | ((try lift_lets); intro z; refine KeepsO.named (s := s) (z := z) ?_ ?_; (try subst z); rotate_left; intro hz; clear_value z)
      | ((try lift_lets); intro z; clear_value z) | (with_reducible intro; with_reducible intros; try beta_reduce)
      | (refine KeepsO.elim (by with_reducible assumption) ?_)
theorem keeps_bringT2 {s t : State} (h : Keeps s t) (x1) (x2) (x3) : KeepsO s (State.bringT2 t x1 x2 x3) := by
  unfold State.bringT2
  repeat' first
    | with_reducible assumption | exact KeepsO.none | with_reducible apply KeepsO.some | with_reducible apply keeps_placeBlock
    | with_reducible apply keeps_makeRoom | with_reducible apply KeepsO.map | with_reducible apply KeepsO.mapVal | split
    | ((try lift_lets); intro z; refine Keeps.named (s := s) (z := z) ?_ ?_; (try subst z); rotate_left; intro hz; clear_value z)
    | ((try lift_lets); intro z; refine KeepsO.named (s := s) (z := z) ?_ ?_; (try subst z); rotate_left; intro hz; clear_value z)
    | ((try lift_lets); intro z; clear_value z) | (with_reducible intro; with_reducible intros; try beta_reduce)
    | (refine KeepsO.elim (by with_reducible assumption) ?_)
theorem keeps_finishCopy {s t : State} (h : Keeps s t) (x1) : Keeps s (State.finishCopy t x1) := by
  unfold State.finishCopy
  repeat' first
    | with_reducible assumption | with_reducible apply keeps_placeBlock | with_reducible apply keeps_modPages | split
    | ((try lift_lets); intro z; refine Keeps.named (s := s) (z := z) ?_ ?_; (try subst z); rotate_left; intro hz; clear_value z)
    | ((try lift_lets); intro z; clear_value z) | (with_reducible intro; with_reducible intros; try beta_reduce)
theorem keeps_resolvePage {s t : State} (h : Keeps s t) (x1) (x2) : KeepsO s (State.resolvePage t x1 x2) := by
  unfold State.resolvePage
  repeat' first
    | with_reducible assumption | exact KeepsO.none | with_reducible apply KeepsO.some | with_reducible apply keeps_placeBlock
    | with_reducible apply keeps_finishCopy | with_reducible apply keeps_bringT2 | with_reducible apply KeepsO.map
    | with_reducible apply KeepsO.mapVal | split
    | ((try lift_lets); intro z; refine Keeps.named (s := s) (z := z) ?_ ?_; (try subst z); rotate_left; intro hz; clear_value z)
    | ((try lift_lets); intro z; refine KeepsO.named (s := s) (z := z) ?_ ?_; (try subst z); rotate_left; intro hz; clear_value z)
    | ((try lift_lets); intro z; clear_value z) | (with_reducible intro; with_reducible intros; try beta_reduce)
    | (refine KeepsO.elim (by with_reducible assumption) ?_)
theorem keeps_writeFault {s t : State} (h : Keeps s t) (x1) : KeepsP s (State.writeFault t x1) := by
  unfold State.writeFault
  with_reducible apply KeepsP.mk; split; with_reducible (apply keeps_msix; apply keeps_modCtx; apply keeps_writeCtx; assumption)
  (with_reducible intro; with_reducible intros; try beta_reduce; try lift_lets)
  with_reducible (assumption; apply keeps_msix; apply keeps_modCtx; assumption)
  (with_reducible intro; with_reducible intros; try beta_reduce; try lift_lets); with_reducible assumption
theorem keeps_fault {s t : State} (h : Keeps s t) (x1) : KeepsP s (State.fault t x1) := by
  unfold State.fault
  with_reducible apply KeepsP.mk; split; with_reducible (apply keeps_modMem; apply keeps_count; assumption; apply keeps_modMem); split
  with_reducible (apply keeps_modMem; apply keeps_count; assumption; apply KeepsP.fst; apply keeps_writeFault; apply keeps_modMem; apply keeps_count)
  with_reducible (assumption)
theorem keeps_touch {s t : State} (h : Keeps s t) (x1) (x2) : Keeps s (State.touch t x1 x2) := by
  unfold State.touch
  with_reducible (apply keeps_modPages; assumption)
theorem keeps_freePages {s t : State} (h : Keeps s t) (x1) (x2) : Keeps s (State.freePages t x1 x2) := by
  unfold State.freePages
  repeat' first
    | with_reducible assumption | with_reducible apply memWf_memClear | with_reducible apply memWf_foldl | with_reducible apply keeps_modMem
    | with_reducible apply keeps_setMem | with_reducible apply keeps_unroom | with_reducible apply Keeps.foldl | with_reducible apply KeepsP.foldl
    | split | ((try lift_lets); intro z; refine Keeps.named (s := s) (z := z) ?_ ?_; (try subst z); rotate_left; intro hz; clear_value z)
    | ((try lift_lets); intro z; clear_value z) | (with_reducible intro; with_reducible intros; try beta_reduce)
theorem keeps_settleHints {s t : State} (h : Keeps s t) : Keeps s (State.settleHints t) := by
  unfold State.settleHints
  repeat' first
    | with_reducible assumption | with_reducible apply keeps_modMem | split
    | ((try lift_lets); intro z; refine Keeps.named (s := s) (z := z) ?_ ?_; (try subst z); rotate_left; intro hz; clear_value z)
    | ((try lift_lets); intro z; clear_value z) | (with_reducible intro; with_reducible intros; try beta_reduce) | dsimp only
theorem keeps_dropFault {s t : State} (h : Keeps s t) (x1) : Keeps s (State.dropFault t x1) := by
  unfold State.dropFault
  repeat' first
    | with_reducible assumption | with_reducible apply keeps_settleHints | with_reducible apply keeps_modMem | split
    | ((try lift_lets); intro z; refine Keeps.named (s := s) (z := z) ?_ ?_; (try subst z); rotate_left; intro hz; clear_value z)
    | ((try lift_lets); intro z; clear_value z) | (with_reducible intro; with_reducible intros; try beta_reduce)
theorem keeps_guardEffect {s t : State} (h : Keeps s t)  : Keeps s (State.guardEffect t) := by
  unfold State.guardEffect
  (dsimp +zetaDelta only; split); with_reducible (apply Keeps.put; assumption; exact Nat.le_refl _; assumption)
theorem keeps_guardBoundary {s t : State} (h : Keeps s t) (x1) : Keeps s (State.guardBoundary t x1) := by
  unfold State.guardBoundary
  with_reducible (apply keeps_guardEffect; apply keeps_modMir; assumption)

/-! ### Events -/

theorem keeps_fabRecord {s t : State} (h : Keeps s t) (x1) : Keeps s (State.fabRecord t x1) := by
  unfold State.fabRecord
  with_reducible (apply keeps_modRas; assumption)
theorem keeps_modIncident {s t : State} (h : Keeps s t) (x1) (x2) : Keeps s (State.modIncident t x1 x2) := by
  unfold State.modIncident
  with_reducible (apply keeps_modRas; assumption)
theorem keeps_touchIncident {s t : State} (h : Keeps s t) (x1) (x2) (x3) : KeepsP s (State.touchIncident t x1 x2 x3) := by
  unfold State.touchIncident
  with_reducible apply KeepsP.mk; split; with_reducible (apply keeps_fabRecord; apply keeps_modRas; assumption); (dsimp +zetaDelta only; split)
  with_reducible (apply keeps_modIncident; assumption; apply keeps_fabRecord; apply keeps_modIncident; assumption)
theorem keeps_hostWrite {s t : State} (h : Keeps s t) (x1) : Keeps s (State.hostWrite t x1) := by
  unfold State.hostWrite
  (dsimp +zetaDelta only; split); with_reducible apply keeps_modRas; split
  with_reducible (apply keeps_writeFw; assumption; apply keeps_writeHost; assumption; apply keeps_msix; apply keeps_modRas); split
  with_reducible (apply keeps_writeFw; assumption; apply keeps_writeHost; assumption)
theorem keeps_hostRecord {s t : State} (h : Keeps s t) (x1) : Keeps s (State.hostRecord t x1) := by
  unfold State.hostRecord
  (dsimp +zetaDelta only; split); with_reducible assumption; split
  with_reducible (apply keeps_hostWrite; apply keeps_modRas; assumption; apply keeps_count; apply keeps_modRas; assumption)
theorem keeps_traceRecord {s t : State} (h : Keeps s t) (x1) : Keeps s (State.traceRecord t x1) := by
  unfold State.traceRecord
  with_reducible (apply keeps_modRas; assumption)
theorem keeps_mgtSend {s t : State} (h : Keeps s t) (x1) : Keeps s (State.mgtSend t x1) := by
  unfold State.mgtSend
  lift_lets; (with_reducible intro; with_reducible intros; try beta_reduce; try lift_lets)
  with_reducible (apply Keeps.put; assumption; exact Nat.le_refl _)
theorem keeps_mgtRecord {s t : State} (h : Keeps s t) (x1) : Keeps s (State.mgtRecord t x1) := by
  unfold State.mgtRecord
  repeat' first
    | with_reducible assumption | with_reducible apply keeps_mgtSend | with_reducible apply keeps_modRas | with_reducible apply keeps_count | split
    | ((try lift_lets); intro z; refine Keeps.named (s := s) (z := z) ?_ ?_; (try subst z); rotate_left; intro hz; clear_value z)
    | ((try lift_lets); intro z; clear_value z) | (with_reducible intro; with_reducible intros; try beta_reduce) | dsimp only
theorem keeps_raise {s t : State} (h : Keeps s t) (x1) (x2) (x3) (x4) (x5) : Keeps s (State.raise t x1 x2 x3 x4 x5) := by
  unfold State.raise
  split; with_reducible assumption; split; split; with_reducible (apply keeps_hostRecord; apply keeps_traceRecord); lift_lets
  refine KeepsP.elim (by with_reducible assumption) ?_; with_reducible apply KeepsP.mk; split
  with_reducible (assumption; apply KeepsP.fst; apply keeps_touchIncident; assumption; apply keeps_mgtRecord; apply keeps_hostRecord)
  with_reducible (apply keeps_traceRecord); lift_lets; refine KeepsP.elim (by with_reducible assumption) ?_; with_reducible apply KeepsP.mk
  split; with_reducible (assumption; apply KeepsP.fst; apply keeps_touchIncident; assumption)
theorem keeps_raiseRoot {s t : State} (h : Keeps s t) (x1) (x2) (x3) (x4) : Keeps s (State.raiseRoot t x1 x2 x3 x4) := by
  unfold State.raiseRoot
  with_reducible (apply keeps_raise; assumption)
theorem keeps_raiseOpen {s t : State} (h : Keeps s t) (x1) (x2) (x3) : Keeps s (State.raiseOpen t x1 x2 x3) := by
  unfold State.raiseOpen
  with_reducible (apply keeps_mgtRecord; apply keeps_hostRecord; apply keeps_traceRecord); lift_lets
  with_reducible (apply Keeps.put; assumption; exact Nat.le_succ _)
theorem keeps_closeIncident {s t : State} (h : Keeps s t) (x1) : Keeps s (State.closeIncident t x1) := by
  unfold State.closeIncident
  split; with_reducible (assumption; apply keeps_mgtRecord; apply keeps_fabRecord; apply keeps_modRas; assumption)
theorem keeps_suppressed {s t : State} (h : Keeps s t) (x1) (x2) : Keeps s (State.suppressed t x1 x2) := by
  unfold State.suppressed
  split; split; split; with_reducible assumption; (dsimp +zetaDelta only; split)
  with_reducible (assumption; apply keeps_mgtSend; apply keeps_modRas; assumption); (dsimp +zetaDelta only; split)
  with_reducible (assumption; apply keeps_hostWrite; apply keeps_modRas; assumption); split; split; with_reducible assumption
  (dsimp +zetaDelta only; split); with_reducible (assumption; apply keeps_mgtSend; apply keeps_modRas; assumption)
  (dsimp +zetaDelta only; split); with_reducible (assumption; apply keeps_hostWrite; apply keeps_modRas; assumption)
theorem keeps_updateHoldoff {s t : State} (h : Keeps s t) (x1) : Keeps s (State.updateHoldoff t x1) := by
  unfold State.updateHoldoff
  split; with_reducible assumption; split
  with_reducible (apply keeps_fabRecord; apply keeps_modIncident; assumption; apply keeps_modIncident; assumption)
theorem keeps_execIncidentClose {s t : State} (h : Keeps s t) (x1) : KeepsX s (execIncidentClose x1 t) := by
  unfold execIncidentClose
  repeat' first
    | with_reducible assumption | exact KeepsX.refused | exact KeepsX.fault | with_reducible apply KeepsX.next
    | with_reducible apply keeps_closeIncident | split
    | ((try lift_lets); intro z; refine Keeps.named (s := s) (z := z) ?_ ?_; (try subst z); rotate_left; intro hz; clear_value z)
    | ((try lift_lets); intro z; clear_value z) | (with_reducible intro; with_reducible intros; try beta_reduce)
theorem keeps_execSuppressedRecord {s t : State} (h : Keeps s t) (x1) (x2) : KeepsX s (execSuppressedRecord x1 x2 t) := by
  unfold execSuppressedRecord
  repeat' first
    | with_reducible assumption | exact KeepsX.refused | exact KeepsX.fault | with_reducible apply KeepsX.next | with_reducible apply keeps_suppressed
    | split | ((try lift_lets); intro z; refine Keeps.named (s := s) (z := z) ?_ ?_; (try subst z); rotate_left; intro hz; clear_value z)
    | ((try lift_lets); intro z; clear_value z) | (with_reducible intro; with_reducible intros; try beta_reduce)
theorem keeps_execAlarmQueueSend {s t : State} (h : Keeps s t)  : KeepsX s (execAlarmQueueSend t) := by
  unfold execAlarmQueueSend
  split; with_reducible (apply KeepsX.next; assumption; apply KeepsX.next; apply keeps_mgtSend; apply keeps_modRas; assumption)
theorem keeps_execEventInterruptHoldoff {s t : State} (h : Keeps s t)  : KeepsX s (execEventInterruptHoldoff t) := by
  unfold execEventInterruptHoldoff
  split
  with_reducible (apply KeepsX.next; apply keeps_msix; apply keeps_modRas; assumption; apply KeepsX.next; apply keeps_modRas; assumption)
theorem keeps_execIncidentUpdateHoldoff {s t : State} (h : Keeps s t) (x1) : KeepsX s (execIncidentUpdateHoldoff x1 t) := by
  unfold execIncidentUpdateHoldoff
  repeat' first
    | with_reducible assumption | exact KeepsX.refused | exact KeepsX.fault | with_reducible apply KeepsX.next
    | with_reducible apply keeps_updateHoldoff | split
    | ((try lift_lets); intro z; refine Keeps.named (s := s) (z := z) ?_ ?_; (try subst z); rotate_left; intro hz; clear_value z)
    | ((try lift_lets); intro z; clear_value z) | (with_reducible intro; with_reducible intros; try beta_reduce)

/-! ### Route -/

theorem keeps_giveBack {s t : State} (h : Keeps s t) (x1) (x2) (x3) : Keeps s (State.giveBack t x1 x2 x3) := by
  unfold State.giveBack
  repeat' first
    | with_reducible assumption | with_reducible apply keeps_modLink | split
    | ((try lift_lets); intro z; refine Keeps.named (s := s) (z := z) ?_ ?_; (try subst z); rotate_left; intro hz; clear_value z)
    | ((try lift_lets); intro z; clear_value z) | (with_reducible intro; with_reducible intros; try beta_reduce) | dsimp only
theorem keeps_grantSlot {s t : State} (h : Keeps s t) (x1) (x2) (x3) : Keeps s (State.grantSlot t x1 x2 x3) := by
  unfold State.grantSlot
  repeat' first
    | with_reducible assumption | exact Nat.le_refl _ | exact Nat.le_succ _ | with_reducible apply keeps_modLink | with_reducible apply keeps_giveBack
    | (with_reducible apply Keeps.put; with_reducible assumption) | (with_reducible apply Keeps.putCtxs; with_reducible assumption)
    | (with_reducible apply Keeps.put; first | with_reducible apply keeps_modLink | with_reducible apply keeps_giveBack)
    | (intro x hx; (try dsimp only); (repeat' split) <;> first | exact hx | decide) | split
    | ((try lift_lets); intro z; refine Keeps.named (s := s) (z := z) ?_ ?_; (try subst z); rotate_left; intro hz; clear_value z)
    | ((try lift_lets); intro z; (have _ : z = t.free := by subst z; rfl); subst z) | ((try lift_lets); intro z; clear_value z)
    | (with_reducible intro; with_reducible intros; try beta_reduce) | dsimp only
theorem keeps_pumpSlots {s t : State} (h : Keeps s t) (x1) (x2) (x3) : KeepsP s (State.pumpSlots t x1 x2 x3) := by
  induction x3 generalizing t x1 x2 with
  | zero => exact h
  | succ n ih =>
    unfold State.pumpSlots
    split
    · exact h
    split
    · exact h
    · exact ih (keeps_grantSlot h _ _ _) _ _
theorem keeps_pump {s t : State} (h : Keeps s t) (x1) : Keeps s (State.pump t x1) := by
  unfold State.pump
  repeat' first
    | with_reducible assumption | exact Nat.le_refl _ | exact Nat.le_succ _ | with_reducible apply KeepsP.mk
    | (with_reducible apply KeepsP.fst; with_reducible apply keeps_pumpSlots) | with_reducible apply keeps_pumpSlots
    | with_reducible apply keeps_modLink | (with_reducible apply Keeps.put; with_reducible assumption)
    | (with_reducible apply Keeps.putCtxs; with_reducible assumption)
    | (with_reducible apply Keeps.put; first | (with_reducible apply KeepsP.fst; with_reducible apply keeps_pumpSlots) | with_reducible apply keeps_pumpSlots | with_reducible apply keeps_modLink)
    | (intro g; exact gensOk_map g _ (by intro x hx; exact hx)) | (intro x hx; (try dsimp only); (repeat' split) <;> first | exact hx | decide)
    | split | ((try lift_lets); intro z; refine Keeps.named (s := s) (z := z) ?_ ?_; (try subst z); rotate_left; intro hz; clear_value z)
    | ((try lift_lets); intro z; refine KeepsP.named (s := s) (z := z) ?_ ?_; (try subst z); rotate_left; intro hz; clear_value z)
    | (with_reducible apply KeepsP.fst; with_reducible apply KeepsP.mk) | (with_reducible apply KeepsP.fst; with_reducible assumption)
    | ((try lift_lets); intro z; (have _ : z = t.free := by subst z; rfl); subst z) | ((try lift_lets); intro z; clear_value z)
    | (with_reducible intro; with_reducible intros; try beta_reduce) | (refine KeepsP.elim (by with_reducible assumption) ?_) | dsimp only
theorem keeps_sendOn {s t : State} (h : Keeps s t) (x1) (x2) (x3) (x4) (x5) (x6) (x7) (x8) (x9) : Keeps s (State.sendOn t x1 x2 x3 x4 x5 x6 x7 x8 x9) := by
  unfold State.sendOn
  split; with_reducible (assumption; apply keeps_pump); lift_lets
  (with_reducible intro; with_reducible intros; try beta_reduce; try lift_lets)
  with_reducible (apply Keeps.put; assumption; exact Nat.le_refl _)
theorem keeps_dropEarly {s t : State} (h : Keeps s t) (x1) : Keeps s (State.dropEarly t x1) := by
  unfold State.dropEarly
  repeat' first
    | with_reducible assumption | exact Nat.le_refl _ | exact Nat.le_succ _ | with_reducible apply keeps_giveBack | with_reducible apply Keeps.foldl
    | with_reducible apply KeepsP.foldl | (with_reducible apply KeepsP.fst; with_reducible apply KeepsP.foldl)
    | (with_reducible apply Keeps.put; with_reducible assumption) | (with_reducible apply Keeps.putCtxs; with_reducible assumption)
    | (with_reducible apply Keeps.put; first | with_reducible apply keeps_giveBack | with_reducible apply Keeps.foldl)
    | (intro x hx; (try dsimp only); (repeat' split) <;> first | exact hx | decide) | split
    | ((try lift_lets); intro z; refine Keeps.named (s := s) (z := z) ?_ ?_; (try subst z); rotate_left; intro hz; clear_value z)
    | ((try lift_lets); intro z; (have _ : z = t.free := by subst z; rfl); subst z) | ((try lift_lets); intro z; clear_value z)
    | (with_reducible intro; with_reducible intros; try beta_reduce) | dsimp only
theorem keeps_dropAttempt {s t : State} (h : Keeps s t) (x1) (x2) : Keeps s (State.dropAttempt t x1 x2) := by
  unfold State.dropAttempt
  repeat' first
    | with_reducible assumption | exact Nat.le_refl _ | exact Nat.le_succ _ | with_reducible apply keeps_giveBack
    | with_reducible apply keeps_dropEarly | with_reducible apply Keeps.foldl | with_reducible apply KeepsP.foldl
    | (with_reducible apply KeepsP.fst; with_reducible apply KeepsP.foldl) | (with_reducible apply Keeps.put; with_reducible assumption)
    | (with_reducible apply Keeps.putCtxs; with_reducible assumption)
    | (with_reducible apply Keeps.put; first | with_reducible apply keeps_giveBack | with_reducible apply keeps_dropEarly | with_reducible apply Keeps.foldl)
    | (intro x hx; (try dsimp only); (repeat' split) <;> first | exact hx | decide) | split
    | ((try lift_lets); intro z; refine Keeps.named (s := s) (z := z) ?_ ?_; (try subst z); rotate_left; intro hz; clear_value z)
    | ((try lift_lets); intro z; (have _ : z = t.free := by subst z; rfl); subst z) | ((try lift_lets); intro z; clear_value z)
    | (with_reducible intro; with_reducible intros; try beta_reduce) | dsimp only
theorem keeps_cancelAttempt {s t : State} (h : Keeps s t) (x1) : Keeps s (State.cancelAttempt t x1) := by
  unfold State.cancelAttempt
  split; with_reducible (assumption; apply Keeps.foldl; apply keeps_dropAttempt; assumption)
  (with_reducible intro; with_reducible intros; try beta_reduce; try lift_lets); with_reducible (apply keeps_sendOn; assumption)
theorem keeps_trySend {s t : State} (h : Keeps s t) (x1) (x2) (x3) (x4) (x5) (x6) (x7) (x8) : KeepsP s (State.trySend t x1 x2 x3 x4 x5 x6 x7 x8) := by
  unfold State.trySend
  with_reducible apply KeepsP.mk; split; with_reducible assumption; split; with_reducible (apply keeps_sendOn; assumption; assumption)
theorem keeps_send {s t : State} (h : Keeps s t) (x1) (x2) (x3) (x4) (x5) : Keeps s (State.send t x1 x2 x3 x4 x5) := by
  unfold State.send
  with_reducible (apply KeepsP.fst; apply keeps_trySend; assumption)
theorem keeps_sendBytes {s t : State} (h : Keeps s t) (x1) (x2) (x3) (x4) (x5) : KeepsP s (State.sendBytes t x1 x2 x3 x4 x5) := by
  unfold State.sendBytes
  refine KeepsP.foldl (KeepsP.mk h) fun a x ha => ?_
  split
  · exact ha
  · exact keeps_trySend ha ..

/-! ### Reply -/

theorem keeps_clockOf {s t : State} (h : Keeps s t) (x1) (x2) : KeepsQ s (State.clockOf t x1 x2) := by
  unfold State.clockOf
  with_reducible apply KeepsQ.mk; split; with_reducible assumption; split; split
  with_reducible (assumption; apply KeepsQ.snd; apply KeepsQ.mk); lift_lets
  with_reducible (apply Keeps.put; assumption; exact Nat.le_succ _; assumption)
theorem keeps_countCancels {s t : State} (h : Keeps s t) (x1) : Keeps s (State.countCancels t x1) := by
  unfold State.countCancels
  repeat' first
    | with_reducible assumption | with_reducible apply keeps_count | with_reducible apply Keeps.foldl | with_reducible apply KeepsP.foldl | split
    | ((try lift_lets); intro z; refine Keeps.named (s := s) (z := z) ?_ ?_; (try subst z); rotate_left; intro hz; clear_value z)
    | ((try lift_lets); intro z; clear_value z) | (with_reducible intro; with_reducible intros; try beta_reduce)
theorem keeps_freePrograms {s t : State} (h : Keeps s t) (x1) : Keeps s (State.freePrograms t x1) := by
  unfold State.freePrograms
  with_reducible (apply Keeps.put; assumption; exact Nat.le_refl _)
theorem keeps_modQ {s t : State} (h : Keeps s t) (x1) (x2) : Keeps s (State.modQ t x1 x2) := by
  unfold State.modQ
  repeat' first
    | with_reducible assumption | exact Nat.le_refl _ | exact Nat.le_succ _ | (with_reducible apply Keeps.put; with_reducible assumption)
    | (with_reducible apply Keeps.putCtxs; with_reducible assumption) | (intro x hx; exact hx) | split
    | ((try lift_lets); intro z; refine Keeps.named (s := s) (z := z) ?_ ?_; (try subst z); rotate_left; intro hz; clear_value z)
    | ((try lift_lets); intro z; clear_value z) | (with_reducible intro; with_reducible intros; try beta_reduce)
theorem keeps_queuePush {s t : State} (h : Keeps s t) (x1) (x2) : Keeps s (State.queuePush t x1 x2) := by
  unfold State.queuePush
  lift_lets; (with_reducible intro; with_reducible intros; try beta_reduce; try lift_lets)
  with_reducible (apply Keeps.put; assumption; exact Nat.le_refl _)
theorem keeps_queueTake {s t : State} (h : Keeps s t) (x1) (x2) : Keeps s (State.queueTake t x1 x2) := by
  unfold State.queueTake
  lift_lets; (with_reducible intro; with_reducible intros; try beta_reduce; try lift_lets)
  with_reducible (apply Keeps.put; assumption; exact Nat.le_refl _)
theorem keeps_advanceQueue {s t : State} (h : Keeps s t) (x1) (x2) : Keeps s (State.advanceQueue t x1 x2) := by
  induction x2 generalizing t x1 with
  | zero =>
    unfold State.advanceQueue
    repeat' first
      | with_reducible assumption | with_reducible apply keeps_modQ | with_reducible apply keeps_queuePush | with_reducible apply keeps_queueTake
      | split | ((try lift_lets); intro z; refine Keeps.named (s := s) (z := z) ?_ ?_; (try subst z); rotate_left; intro hz; clear_value z)
      | ((try lift_lets); intro z; clear_value z) | (with_reducible intro; with_reducible intros; try beta_reduce)
  | succ n ih =>
    unfold State.advanceQueue
    repeat' first
      | with_reducible assumption | with_reducible apply keeps_modQ | with_reducible apply keeps_queuePush | with_reducible apply keeps_queueTake
      | with_reducible apply ih | split
      | ((try lift_lets); intro z; refine Keeps.named (s := s) (z := z) ?_ ?_; (try subst z); rotate_left; intro hz; clear_value z)
      | ((try lift_lets); intro z; clear_value z) | (with_reducible intro; with_reducible intros; try beta_reduce)
theorem keeps_dropSlots {s t : State} (h : Keeps s t) (x1) : Keeps s (State.dropSlots t x1) := by
  unfold State.dropSlots
  repeat' first
    | with_reducible assumption | with_reducible apply keeps_advanceQueue | with_reducible apply keeps_modQ | with_reducible apply Keeps.foldl
    | with_reducible apply KeepsP.foldl | split
    | ((try lift_lets); intro z; refine Keeps.named (s := s) (z := z) ?_ ?_; (try subst z); rotate_left; intro hz; clear_value z)
    | ((try lift_lets); intro z; clear_value z) | (with_reducible intro; with_reducible intros; try beta_reduce)
theorem keeps_releaseCmd {s t : State} (h : Keeps s t) (x1) : Keeps s (State.releaseCmd t x1) := by
  unfold State.releaseCmd
  repeat' first
    | with_reducible assumption | exact Nat.le_refl _ | exact Nat.le_succ _ | with_reducible apply keeps_freePrograms
    | with_reducible apply keeps_dropSlots | with_reducible apply keeps_modChan | with_reducible apply keeps_modCtx
    | with_reducible apply keeps_settleHints | with_reducible apply keeps_modMem | with_reducible apply keeps_modSched
    | (with_reducible apply Keeps.put; with_reducible assumption) | (with_reducible apply Keeps.putCtxs; with_reducible assumption)
    | (with_reducible apply Keeps.put; first | with_reducible apply keeps_freePrograms | with_reducible apply keeps_dropSlots | with_reducible apply keeps_modChan | with_reducible apply keeps_modCtx | with_reducible apply keeps_settleHints | with_reducible apply keeps_modMem | with_reducible apply keeps_modSched)
    | (intro x hx; exact hx) | split
    | ((try lift_lets); intro z; refine Keeps.named (s := s) (z := z) ?_ ?_; (try subst z); rotate_left; intro hz; clear_value z)
    | ((try lift_lets); intro z; clear_value z) | (with_reducible intro; with_reducible intros; try beta_reduce)
theorem keeps_unload {s t : State} (h : Keeps s t) (x1) : Keeps s (State.unload t x1) := by
  unfold State.unload
  split; (dsimp +zetaDelta only; split)
  with_reducible (apply keeps_modSched; apply keeps_modPages; apply keeps_modMem; apply keeps_setMem; apply keeps_modCtx; assumption)
  (with_reducible intro; with_reducible intros; try beta_reduce; try lift_lets); with_reducible assumption
  (with_reducible intro; with_reducible intros; try beta_reduce; try lift_lets); exact memWf_memClear (by with_reducible assumption) _ _
  with_reducible (assumption; assumption)
theorem keeps_sendAborts {s t : State} (h : Keeps s t) (x1) (x2) : Keeps s (State.sendAborts t x1 x2) := by
  unfold State.sendAborts
  split; with_reducible (assumption; apply Keeps.foldl; assumption)
  (with_reducible intro; with_reducible intros; try beta_reduce; try lift_lets)
  with_reducible (apply KeepsP.fst; apply keeps_trySend; assumption)
theorem keeps_freeBanks {s t : State} (h : Keeps s t) (x1) (x2) : Keeps s (State.freeBanks t x1 x2) := by
  unfold State.freeBanks
  with_reducible (apply Keeps.put; assumption; exact Nat.le_refl _)
theorem keeps_chargeDebt {s t : State} (h : Keeps s t) (x1) (x2) : Keeps s (State.chargeDebt t x1 x2) := by
  unfold State.chargeDebt
  split; (dsimp +zetaDelta only; split); with_reducible (assumption; apply keeps_count; apply keeps_modCtx; assumption)
  (with_reducible intro; with_reducible intros; try beta_reduce; try lift_lets); with_reducible (assumption; assumption)
theorem keeps_dropGraphs {s t : State} (h : Keeps s t) (x1) (x2) : Keeps s (State.dropGraphs t x1 x2) := by
  unfold State.dropGraphs
  with_reducible (apply keeps_modMem; apply keeps_modSched; assumption)
theorem keeps_noteNode {s t : State} (h : Keeps s t) (x1) (x2) (x3) : Keeps s (State.noteNode t x1 x2 x3) := by
  unfold State.noteNode
  with_reducible (apply keeps_modSched; assumption)
theorem keeps_ringEvent {s t : State} (h : Keeps s t) (x1) (x2) : Keeps s (State.ringEvent t x1 x2) := by
  unfold State.ringEvent
  repeat' first
    | with_reducible assumption | with_reducible apply keeps_modRing | with_reducible apply keeps_msix | split
    | ((try lift_lets); intro z; refine Keeps.named (s := s) (z := z) ?_ ?_; (try subst z); rotate_left; intro hz; clear_value z)
    | ((try lift_lets); intro z; clear_value z) | (with_reducible intro; with_reducible intros; try beta_reduce)
theorem keeps_putReply {s t : State} (h : Keeps s t) (x1) (x2) (x3) (x4) : Keeps s (State.putReply t x1 x2 x3 x4) := by
  unfold State.putReply
  repeat' first
    | with_reducible assumption | exact Nat.le_refl _ | exact Nat.le_succ _ | with_reducible apply keeps_modRing | with_reducible apply keeps_writeFw
    | with_reducible apply keeps_ringEvent | with_reducible apply keeps_writeHost | (with_reducible apply Keeps.put; with_reducible assumption)
    | (with_reducible apply Keeps.putCtxs; with_reducible assumption)
    | (with_reducible apply Keeps.put; first | with_reducible apply keeps_modRing | with_reducible apply keeps_writeFw | with_reducible apply keeps_ringEvent | with_reducible apply keeps_writeHost)
    | (intro x hx; exact hx) | split
    | ((try lift_lets); intro z; refine Keeps.named (s := s) (z := z) ?_ ?_; (try subst z); rotate_left; intro hz; clear_value z)
    | ((try lift_lets); intro z; clear_value z) | (with_reducible intro; with_reducible intros; try beta_reduce)
theorem keeps_reply {s t : State} (h : Keeps s t) (x1) (x2) (x3) (x4) (x5) (x6) (x7) : Keeps s (State.reply t x1 x2 x3 x4 x5 x6 x7) := by
  unfold State.reply
  with_reducible (apply keeps_modRing; apply keeps_putReply; assumption)
theorem keeps_endOne {s t : State} (h : Keeps s t) (x1) (x2) (x3) (x4) (x5) : Keeps s (State.endOne t x1 x2 x3 x4 x5) := by
  unfold State.endOne
  repeat' first
    | with_reducible assumption | with_reducible apply KeepsQ.mk | (with_reducible apply KeepsQ.snd; with_reducible apply keeps_clockOf)
    | with_reducible apply keeps_clockOf | with_reducible apply keeps_countCancels | with_reducible apply keeps_releaseCmd
    | with_reducible apply keeps_unload | with_reducible apply keeps_cancelAttempt | with_reducible apply keeps_sendAborts
    | with_reducible apply keeps_freeBanks | with_reducible apply keeps_modSched | with_reducible apply keeps_chargeDebt
    | with_reducible apply keeps_modCtx | with_reducible apply keeps_dropGraphs | with_reducible apply keeps_noteNode
    | with_reducible apply keeps_reply | (intro x hx; exact hx) | split
    | ((try lift_lets); intro z; refine Keeps.named (s := s) (z := z) ?_ ?_; (try subst z); rotate_left; intro hz; clear_value z)
    | ((try lift_lets); intro z; clear_value z) | (with_reducible intro; with_reducible intros; try beta_reduce)
    | (refine KeepsQ.elim (by with_reducible assumption) ?_)
theorem keeps_endPartner {s t : State} (h : Keeps s t) (x1) (x2) (x3) (x4) : Keeps s (State.endPartner t x1 x2 x3 x4) := by
  unfold State.endPartner
  split; with_reducible (apply keeps_endOne; assumption; assumption)
theorem keeps_setSem {s t : State} (h : Keeps s t) (x1) (x2) : Keeps s (State.setSem t x1 x2) := by
  unfold State.setSem
  with_reducible (apply keeps_modSched; assumption)
theorem keeps_addSem {s t : State} (h : Keeps s t) (x1) (x2) (x3) : Keeps s (State.addSem t x1 x2 x3) := by
  unfold State.addSem
  (dsimp +zetaDelta only; split); with_reducible (apply keeps_setSem; assumption; apply keeps_raise; apply keeps_setSem; assumption)
theorem keeps_subSem {s t : State} (h : Keeps s t) (x1) (x2) : Keeps s (State.subSem t x1 x2) := by
  unfold State.subSem
  with_reducible (apply keeps_setSem; assumption)
theorem keeps_endPartners {s t : State} (h : Keeps s t) (x1) (x2) (x3) (x4) : Keeps s (State.endPartners t x1 x2 x3 x4) := by
  induction x4 generalizing t x1 x2 x3 with
  | zero =>
    unfold State.endPartners
    with_reducible assumption
  | succ n ih =>
    unfold State.endPartners
    split; split; with_reducible (apply keeps_endPartner; apply keeps_addSem; assumption; assumption); split
    with_reducible (apply ih; apply keeps_endPartner; apply keeps_endPartner); split
    with_reducible (assumption; apply keeps_subSem; assumption; assumption; apply ih; apply keeps_endPartner; assumption)
theorem keeps_endBoth {s t : State} (h : Keeps s t) (x1) (x2) (x3) (x4) (x5) : Keeps s (State.endBoth t x1 x2 x3 x4 x5) := by
  unfold State.endBoth
  with_reducible (apply keeps_endPartners; apply keeps_endOne; assumption)
theorem keeps_endDoomed {s t : State} (h : Keeps s t) (x1) : Keeps s (State.endDoomed t x1) := by
  induction x1 generalizing t with
  | zero =>
    unfold State.endDoomed
    with_reducible assumption
  | succ n ih =>
    unfold State.endDoomed
    split; with_reducible assumption; split
    with_reducible (apply ih; apply keeps_endBoth; assumption; assumption; apply ih; apply keeps_endBoth; assumption)
theorem keeps_readyAll {s t : State} (h : Keeps s t)  : Keeps s (State.readyAll t) := by
  unfold State.readyAll
  with_reducible (apply keeps_modSched; assumption)
theorem keeps_endRuns {s t : State} (h : Keeps s t)  : Keeps s (State.endRuns t) := by
  unfold State.endRuns
  with_reducible (apply Keeps.foldl; assumption); (with_reducible intro; with_reducible intros; try beta_reduce; try lift_lets)
  (with_reducible intro; with_reducible intros; try beta_reduce; try lift_lets); split
  with_reducible (apply keeps_modSched; assumption; apply keeps_endOne; apply keeps_modSched; assumption)
theorem keeps_endCmd {s t : State} (h : Keeps s t) (x1) (x2) (x3) (x4) (x5) : Keeps s (State.endCmd t x1 x2 x3 x4 x5) := by
  unfold State.endCmd
  with_reducible (apply keeps_readyAll; apply keeps_endDoomed; apply keeps_endRuns; apply keeps_endDoomed; apply keeps_endBoth; assumption)
theorem keeps_failCmd {s t : State} (h : Keeps s t) (x1) (x2) (x3) (x4) : Keeps s (State.failCmd t x1 x2 x3 x4) := by
  unfold State.failCmd
  with_reducible (apply keeps_endCmd; assumption)
theorem keeps_failCid {s t : State} (h : Keeps s t) (x1) (x2) (x3) : Keeps s (State.failCid t x1 x2 x3) := by
  unfold State.failCid
  split; with_reducible (assumption; apply keeps_failCmd; assumption)
theorem keeps_lostOwn {s t : State} (h : Keeps s t) (x1) (x2) : Keeps s (State.lostOwn t x1 x2) := by
  unfold State.lostOwn
  with_reducible (apply keeps_failCid; assumption)

/-! ### Sched -/

theorem keeps_bringRanges {s t : State} (h : Keeps s t) (x1) : KeepsP s (State.bringRanges t x1) := by
  unfold State.bringRanges
  refine KeepsP.foldl (KeepsP.mk h) fun a x ha => ?_
  repeat' first
    | exact ha
    | split
    | exact KeepsP.mk (KeepsO.elim (by assumption) (keeps_resolvePage ha _ _))
    | (refine KeepsP.mk (KeepsO.elim (by assumption) (keeps_bringT2 ?_ _ _ _)))
    | exact keeps_finishCopy ha _
theorem keeps_quotaFault {s t : State} (h : Keeps s t) (x1) (x2) (x3) : Keeps s (State.quotaFault t x1 x2 x3) := by
  unfold State.quotaFault
  split; with_reducible assumption; split; with_reducible (apply KeepsP.fst; apply keeps_fault; assumption); split
  with_reducible (apply KeepsP.fst; apply keeps_fault; assumption; apply KeepsP.fst; apply keeps_fault; assumption)
theorem keeps_zeroBank {s t : State} (h : Keeps s t) (x1) (x2) : Keeps s (State.zeroBank t x1 x2) := by
  unfold State.zeroBank
  with_reducible (apply keeps_setMem; assumption); (with_reducible intro; with_reducible intros; try beta_reduce; try lift_lets)
  exact memWf_memClear (by with_reducible assumption) _ _
theorem keeps_takeEngine {s t : State} (h : Keeps s t) (x1) (x2) : Keeps s (State.takeEngine t x1 x2) := by
  unfold State.takeEngine
  with_reducible (apply keeps_modCmd; apply keeps_modSlice; apply keeps_modSlice; apply Keeps.foldl; assumption)
  (with_reducible intro; with_reducible intros; try beta_reduce; try lift_lets); split
  with_reducible (assumption; apply keeps_zeroBank; assumption)
theorem keeps_allot {s t : State} (h : Keeps s t) (x1) : KeepsA s (State.allot t x1) := by
  unfold State.allot
  repeat' first
    | with_reducible assumption | exact Nat.le_refl _ | exact Nat.le_succ _ | exact KeepsA.none | exact KeepsA.error | with_reducible apply KeepsP.mk
    | with_reducible apply KeepsA.ok | (with_reducible apply KeepsP.fst; with_reducible apply keeps_bringRanges)
    | with_reducible apply keeps_bringRanges | with_reducible apply keeps_quotaFault | with_reducible apply keeps_takeEngine
    | with_reducible apply keeps_touch | with_reducible apply keeps_modCtx | with_reducible apply keeps_modSched | with_reducible apply keeps_modCmd
    | with_reducible apply Keeps.foldl | with_reducible apply KeepsP.foldl | (with_reducible apply KeepsP.fst; with_reducible apply KeepsP.foldl)
    | with_reducible apply KeepsO.map | with_reducible apply KeepsO.mapVal | (with_reducible apply Keeps.put; with_reducible assumption)
    | (with_reducible apply Keeps.putCtxs; with_reducible assumption)
    | (with_reducible apply Keeps.put; first | (with_reducible apply KeepsP.fst; with_reducible apply keeps_bringRanges) | with_reducible apply keeps_bringRanges | with_reducible apply keeps_quotaFault | with_reducible apply keeps_takeEngine | with_reducible apply keeps_touch | with_reducible apply keeps_modCtx | with_reducible apply keeps_modSched | with_reducible apply keeps_modCmd)
    | (intro x hx; exact hx) | split
    | ((try lift_lets); intro z; refine Keeps.named (s := s) (z := z) ?_ ?_; (try subst z); rotate_left; intro hz; clear_value z)
    | ((try lift_lets); intro z; refine KeepsP.named (s := s) (z := z) ?_ ?_; (try subst z); rotate_left; intro hz; clear_value z)
    | (with_reducible apply KeepsP.fst; with_reducible apply KeepsP.mk) | (with_reducible apply KeepsP.fst; with_reducible assumption)
    | ((try lift_lets); intro z; clear_value z) | (with_reducible intro; with_reducible intros; try beta_reduce)
    | (refine KeepsP.elim (by with_reducible assumption) ?_) | (refine KeepsA.elim (by with_reducible assumption) ?_)
theorem keeps_rollback {s t : State} (h : Keeps s t) (x1) : Keeps s (State.rollback t x1) := by
  unfold State.rollback
  repeat' first
    | with_reducible assumption | with_reducible apply keeps_cancelAttempt | with_reducible apply keeps_releaseCmd
    | with_reducible apply keeps_countCancels | with_reducible apply keeps_freeBanks | with_reducible apply keeps_modSched
    | with_reducible apply keeps_modCmd | split
    | ((try lift_lets); intro z; refine Keeps.named (s := s) (z := z) ?_ ?_; (try subst z); rotate_left; intro hz; clear_value z)
    | ((try lift_lets); intro z; clear_value z) | (with_reducible intro; with_reducible intros; try beta_reduce)
theorem keeps_preemptKill {s t : State} (h : Keeps s t) (x1) : Keeps s (State.preemptKill t x1) := by
  unfold State.preemptKill
  with_reducible (apply keeps_count; apply keeps_count; apply keeps_modCmd; apply keeps_rollback); lift_lets
  with_reducible (apply KeepsQ.snd; apply keeps_clockOf; assumption)
theorem keeps_preemptAll {s t : State} (h : Keeps s t) (x1) : Keeps s (State.preemptAll t x1) := by
  unfold State.preemptAll
  repeat' first
    | with_reducible assumption | with_reducible apply keeps_preemptKill | with_reducible apply Keeps.foldl | with_reducible apply KeepsP.foldl
    | (with_reducible apply KeepsP.fst; with_reducible apply KeepsP.foldl) | split
    | ((try lift_lets); intro z; refine Keeps.named (s := s) (z := z) ?_ ?_; (try subst z); rotate_left; intro hz; clear_value z)
    | ((try lift_lets); intro z; clear_value z) | (with_reducible intro; with_reducible intros; try beta_reduce) | dsimp only
theorem keeps_clearChannel {s t : State} (h : Keeps s t) (x1) : Keeps s (State.clearChannel t x1) := by
  unfold State.clearChannel
  repeat' first
    | with_reducible assumption | with_reducible apply keeps_preemptAll | split
    | ((try lift_lets); intro z; refine Keeps.named (s := s) (z := z) ?_ ?_; (try subst z); rotate_left; intro hz; clear_value z)
    | ((try lift_lets); intro z; clear_value z) | (with_reducible intro; with_reducible intros; try beta_reduce) | dsimp only
theorem keeps_clearEngine {s t : State} (h : Keeps s t) (x1) (x2) : Keeps s (State.clearEngine t x1 x2) := by
  unfold State.clearEngine
  repeat' first
    | with_reducible assumption | with_reducible apply keeps_preemptAll | split
    | ((try lift_lets); intro z; refine Keeps.named (s := s) (z := z) ?_ ?_; (try subst z); rotate_left; intro hz; clear_value z)
    | ((try lift_lets); intro z; clear_value z) | (with_reducible intro; with_reducible intros; try beta_reduce) | dsimp only
theorem keeps_allotLive {s t : State} (h : Keeps s t) (x1) : KeepsA s (State.allotLive t x1) := by
  unfold State.allotLive
  split
  · rename_i r e
    rw [← e]; exact keeps_allot h x1
  · split
    · exact KeepsA.none
    · exact keeps_allot (keeps_clearChannel (Keeps.foldl h fun a x ha => keeps_clearEngine ha ..) x1) x1
theorem keeps_place {s t : State} (h : Keeps s t) (x1) (x2) : Keeps s (State.place t x1 x2) := by
  unfold State.place
  with_reducible (apply keeps_modCmd; apply keeps_modSched; assumption)
theorem keeps_unplace {s t : State} (h : Keeps s t) (x1) : Keeps s (State.unplace t x1) := by
  unfold State.unplace
  with_reducible (apply keeps_modSched; assumption)
theorem keeps_displace {s t : State} (h : Keeps s t) (x1) (x2) (x3) (x4) (x5) : KeepsP s (State.displace t x1 x2 x3 x4 x5) := by
  induction x4 generalizing t x1 x2 x3 x5 with
  | zero =>
    unfold State.displace
    with_reducible (apply KeepsP.mk; assumption)
  | succ n ih =>
    unfold State.displace
    with_reducible apply KeepsP.mk; split; with_reducible assumption; split
    with_reducible (apply KeepsP.fst; apply ih; apply keeps_modCmd; apply keeps_unplace; assumption; apply KeepsP.fst; apply ih; apply keeps_modSched)
    with_reducible (assumption)
theorem keeps_unplaced {s t : State} (h : Keeps s t) (x1) : Keeps s (State.unplaced t x1) := by
  unfold State.unplaced
  repeat' first
    | with_reducible assumption | with_reducible apply keeps_modCmd | split
    | ((try lift_lets); intro z; refine Keeps.named (s := s) (z := z) ?_ ?_; (try subst z); rotate_left; intro hz; clear_value z)
    | ((try lift_lets); intro z; clear_value z) | (with_reducible intro; with_reducible intros; try beta_reduce) | dsimp only
theorem keeps_placeFrom {s t : State} (h : Keeps s t) (x1) (x2) : Keeps s (State.placeFrom t x1 x2) := by
  unfold State.placeFrom
  repeat' first
    | with_reducible assumption | with_reducible apply keeps_place | with_reducible apply keeps_unplaced | split
    | ((try lift_lets); intro z; refine Keeps.named (s := s) (z := z) ?_ ?_; (try subst z); rotate_left; intro hz; clear_value z)
    | ((try lift_lets); intro z; clear_value z) | (with_reducible intro; with_reducible intros; try beta_reduce) | dsimp only
theorem keeps_placeLive {s t : State} (h : Keeps s t) (x1) (x2) : Keeps s (State.placeLive t x1 x2) := by
  unfold State.placeLive
  split
  rename_i s' out e
  have hp := KeepsP.elim e (KeepsP.foldl (KeepsP.mk h) (by
    intro a x ha
    exact KeepsP.fst (KeepsP.fst (keeps_displace ha x1 x.1 x.2 _ [])) : ∀ a x, KeepsP s a → KeepsP s _))
  refine Keeps.foldl (keeps_place hp x1 x2) fun a x ha => ?_
  split
  · split
    · exact keeps_placeFrom ha ..
    · exact ha
  · exact ha
theorem keeps_placeCmd {s t : State} (h : Keeps s t) (x1) : Keeps s (State.placeCmd t x1) := by
  unfold State.placeCmd
  repeat' first
    | with_reducible assumption | with_reducible apply keeps_place | with_reducible apply keeps_placeLive | with_reducible apply keeps_count
    | with_reducible apply keeps_unplaced | with_reducible apply keeps_placeFrom | split
    | ((try lift_lets); intro z; refine Keeps.named (s := s) (z := z) ?_ ?_; (try subst z); rotate_left; intro hz; clear_value z)
    | ((try lift_lets); intro z; clear_value z) | (with_reducible intro; with_reducible intros; try beta_reduce) | dsimp only
theorem keeps_placeAll {s t : State} (h : Keeps s t)  : Keeps s (State.placeAll t) := by
  unfold State.placeAll
  with_reducible (apply Keeps.foldl; assumption); (with_reducible intro; with_reducible intros; try beta_reduce; try lift_lets)
  with_reducible (apply Keeps.foldl; assumption); (with_reducible intro; with_reducible intros; try beta_reduce; try lift_lets); split; split
  with_reducible (apply keeps_placeCmd; assumption; assumption; assumption)

/-! ### Granules -/

theorem keeps_issueGranules {s t : State} (h : Keeps s t) (x1) (x2) : Keeps s (State.issueGranules t x1 x2) := by
  induction x2 generalizing t x1 with
  | zero =>
    unfold State.issueGranules
    with_reducible assumption
  | succ n ih =>
    unfold State.issueGranules
    split; with_reducible assumption; split; with_reducible (assumption; apply ih; apply keeps_modSlice; apply keeps_modProg; assumption)
theorem keeps_pumpEngine {s t : State} (h : Keeps s t) (x1) : Keeps s (State.pumpEngine t x1) := by
  unfold State.pumpEngine
  with_reducible (apply keeps_issueGranules; assumption)

/-! ### Faults -/

theorem keeps_resumeAccess {s t : State} (h : Keeps s t) (x1) : Keeps s (State.resumeAccess t x1) := by
  unfold State.resumeAccess
  split; (dsimp +zetaDelta only; split); with_reducible (apply keeps_pumpEngine; apply keeps_modProg; assumption; assumption)
  (dsimp +zetaDelta only; split); with_reducible (apply keeps_modChan; assumption; assumption; apply keeps_modCmd; assumption)
theorem keeps_renameFault {s t : State} (h : Keeps s t) (x1) (x2) : Keeps s (State.renameFault t x1 x2) := by
  unfold State.renameFault
  split; with_reducible (apply keeps_modProg; assumption; apply keeps_modChan; assumption; apply keeps_modCmd; assumption)
theorem keeps_resolveFault {s t : State} (h : Keeps s t) (x1) : Keeps s (State.resolveFault t x1) := by
  unfold State.resolveFault
  split; with_reducible assumption; split; with_reducible assumption; split
  with_reducible (apply Keeps.foldl; apply keeps_dropFault; assumption)
  (with_reducible intro; with_reducible intros; try beta_reduce; try lift_lets); with_reducible (apply keeps_resumeAccess; assumption)
  (dsimp +zetaDelta only; split); with_reducible (apply Keeps.foldl; apply keeps_dropFault); lift_lets
  refine KeepsO.elim (by with_reducible assumption) ?_; with_reducible (apply keeps_resolvePage; assumption)
  (with_reducible intro; with_reducible intros; try beta_reduce; try lift_lets)
  with_reducible (apply keeps_resumeAccess; assumption; apply Keeps.foldl; apply keeps_dropFault; assumption)
  (with_reducible intro; with_reducible intros; try beta_reduce; try lift_lets); with_reducible apply keeps_renameFault; lift_lets
  with_reducible (apply KeepsP.fst; apply keeps_fault; assumption)
theorem keeps_resumeMigrated {s t : State} (h : Keeps s t) (x1) (x2) : Keeps s (State.resumeMigrated t x1 x2) := by
  unfold State.resumeMigrated
  with_reducible (apply Keeps.foldl; apply Keeps.foldl; assumption)
  (with_reducible intro; with_reducible intros; try beta_reduce; try lift_lets); with_reducible (apply keeps_dropFault; assumption)
  (with_reducible intro; with_reducible intros; try beta_reduce; try lift_lets); with_reducible (apply keeps_resumeAccess; assumption)
theorem keeps_retryAccess {s t : State} (h : Keeps s t) (x1) : Keeps s (State.retryAccess t x1) := by
  unfold State.retryAccess
  split; with_reducible (apply keeps_resumeAccess; assumption); split
  with_reducible (apply keeps_resumeAccess; assumption; apply keeps_renameFault); lift_lets
  with_reducible (apply KeepsP.fst; apply keeps_fault; assumption)
theorem keeps_retryFault {s t : State} (h : Keeps s t) (x1) : Keeps s (State.retryFault t x1) := by
  unfold State.retryFault
  with_reducible (apply Keeps.foldl; apply keeps_dropFault; assumption)
  (with_reducible intro; with_reducible intros; try beta_reduce; try lift_lets)
  (with_reducible intro; with_reducible intros; try beta_reduce; try lift_lets); with_reducible apply keeps_retryAccess
  (dsimp +zetaDelta only; split); with_reducible (apply KeepsO.getD; apply keeps_resolvePage; assumption; assumption; assumption)
theorem keeps_landAll {s t : State} (h : Keeps s t) (x1) (x2) : KeepsP s (State.landAll t x1 x2) := by
  unfold State.landAll
  refine KeepsP.foldl (KeepsP.mk h) fun a x ha => ?_
  have k : Keeps s a.1 := ha
  exact KeepsP.mk (k.put (Nat.le_add_right _ _))
theorem keeps_stageLst {s t : State} (h : Keeps s t) (x1) (x2) : Keeps s (State.stageLst t x1 x2) := by
  unfold State.stageLst
  refine KeepsP.fst (KeepsP.foldl (KeepsP.mk h) fun a x ha => ?_)
  exact KeepsP.mk (keeps_setMem (keeps_modSlice ha _ _) fun hm => memWf_memApply hm _)
theorem gen_foldl {α : Type} {f : Ctx → α → Ctx} (hf : ∀ x a, (f x a).gen = x.gen) (l : List α) (x : Ctx) : (l.foldl f x).gen = x.gen := by
  induction l generalizing x with
  | nil => rfl
  | cons a l ih => exact (ih _).trans (hf x a)
theorem mergeAmax_gen (x : Ctx) (l) : (x.mergeAmax l).gen = x.gen := by
  unfold Ctx.mergeAmax; exact gen_foldl (by intros; rfl) _ _
theorem mergeDeltas_gen (x : Ctx) (l) : (x.mergeDeltas l).gen = x.gen := by
  unfold Ctx.mergeDeltas; exact gen_foldl (by intros; rfl) _ _
theorem keeps_mergeRecords {s t : State} (h : Keeps s t) (x1) (x2) (x3) (x4) (x5) : Keeps s (State.mergeRecords t x1 x2 x3 x4 x5) := by
  unfold State.mergeRecords
  refine keeps_modCtx h _ _ fun x hx => ?_
  show ((x.mergeAmax _).mergeDeltas _).gen ≠ 0
  rw [mergeDeltas_gen, mergeAmax_gen]; exact hx
theorem keeps_flipBanks {s t : State} (h : Keeps s t) (x1) : Keeps s (State.flipBanks t x1) := by
  unfold State.flipBanks
  with_reducible (apply keeps_modRas; apply Keeps.foldl; assumption)
  (with_reducible intro; with_reducible intros; try beta_reduce; try lift_lets); split
  with_reducible (apply keeps_modSlice; assumption; assumption)
theorem keeps_landRest {s t : State} (h : Keeps s t) (x1) : Keeps s (State.landRest t x1) := by
  unfold State.landRest
  repeat' first
    | with_reducible assumption | with_reducible apply KeepsP.mk | (with_reducible apply KeepsP.fst; with_reducible apply keeps_landAll)
    | with_reducible apply keeps_landAll | with_reducible apply keeps_writeCells | with_reducible apply keeps_stageLst
    | with_reducible apply keeps_modCmd | with_reducible apply keeps_mergeRecords | with_reducible apply keeps_addSem
    | with_reducible apply keeps_flipBanks | with_reducible apply Keeps.foldl | with_reducible apply KeepsP.foldl
    | (with_reducible apply KeepsP.fst; with_reducible apply KeepsP.foldl) | split
    | ((try lift_lets); intro z; refine Keeps.named (s := s) (z := z) ?_ ?_; (try subst z); rotate_left; intro hz; clear_value z)
    | ((try lift_lets); intro z; refine KeepsP.named (s := s) (z := z) ?_ ?_; (try subst z); rotate_left; intro hz; clear_value z)
    | (with_reducible apply KeepsP.fst; with_reducible assumption) | ((try lift_lets); intro z; clear_value z)
    | (with_reducible intro; with_reducible intros; try beta_reduce) | (refine KeepsP.elim (by with_reducible assumption) ?_)
theorem keeps_failPart {s t : State} (h : Keeps s t) (x1) (x2) (x3) : Keeps s (State.failPart t x1 x2 x3) := by
  unfold State.failPart
  repeat' first
    | with_reducible assumption | with_reducible apply keeps_failCid | with_reducible apply keeps_landRest | split
    | ((try lift_lets); intro z; refine Keeps.named (s := s) (z := z) ?_ ?_; (try subst z); rotate_left; intro hz; clear_value z)
    | ((try lift_lets); intro z; clear_value z) | (with_reducible intro; with_reducible intros; try beta_reduce)
theorem keeps_failFault {s t : State} (h : Keeps s t) (x1) (x2) : Keeps s (State.failFault t x1 x2) := by
  unfold State.failFault
  repeat' first
    | with_reducible assumption | with_reducible apply keeps_failPart | with_reducible apply keeps_dropFault | with_reducible apply Keeps.foldl
    | with_reducible apply KeepsP.foldl | split
    | ((try lift_lets); intro z; refine Keeps.named (s := s) (z := z) ?_ ?_; (try subst z); rotate_left; intro hz; clear_value z)
    | ((try lift_lets); intro z; clear_value z) | (with_reducible intro; with_reducible intros; try beta_reduce)

end Sys2Proof.Machine
end

