-- ==== Sys2Proof/Laws/KeepsCmd.lean ====
section
/-! SUPPORT. Every operation of DMA, memory commands, contexts, kernels and the vault keeps the queue, the canonical form of memory and the
generations of contexts, and takes back no draw (`Keeps`). The proofs follow the operations' own shape. -/
namespace Sys2Proof.Machine

/-! ### Dma -/

theorem keeps_writeCounter {s t : State} (h : Keeps s t) (x1) : Keeps s (State.writeCounter t x1) := by
  unfold State.writeCounter
  (dsimp +zetaDelta only; split); with_reducible assumption; split
  with_reducible (apply keeps_writeCtx; assumption; apply keeps_writeCtx; assumption)
theorem keeps_advanceStream {s t : State} (h : Keeps s t) (x1) (x2) : Keeps s (State.advanceStream t x1 x2) := by
  induction x2 generalizing t x1 with
  | zero =>
    unfold State.advanceStream
    repeat' first
      | with_reducible assumption | with_reducible apply keeps_modChan | split
      | ((try lift_lets); intro z; refine Keeps.named (s := s) (z := z) ?_ ?_; (try subst z); rotate_left; intro hz; clear_value z)
      | ((try lift_lets); intro z; clear_value z) | (with_reducible intro; with_reducible intros; try beta_reduce)
  | succ n ih =>
    unfold State.advanceStream
    repeat' first
      | with_reducible assumption | with_reducible apply keeps_modChan | with_reducible apply ih | split
      | ((try lift_lets); intro z; refine Keeps.named (s := s) (z := z) ?_ ?_; (try subst z); rotate_left; intro hz; clear_value z)
      | ((try lift_lets); intro z; clear_value z) | (with_reducible intro; with_reducible intros; try beta_reduce)
theorem keeps_t1Access {s t : State} (h : Keeps s t) (x1) (x2) (x3) (x4) (x5) (x6) : Keeps s (State.t1Access t x1 x2 x3 x4 x5 x6) := by
  unfold State.t1Access
  repeat' first
    | with_reducible assumption | with_reducible apply keeps_modMem | with_reducible apply Keeps.foldl | with_reducible apply KeepsP.foldl
    | (with_reducible apply KeepsP.fst; with_reducible apply KeepsP.foldl) | split
    | ((try lift_lets); intro z; refine Keeps.named (s := s) (z := z) ?_ ?_; (try subst z); rotate_left; intro hz; clear_value z)
    | ((try lift_lets); intro z; clear_value z) | (with_reducible intro; with_reducible intros; try beta_reduce) | dsimp only
theorem keeps_failDma {s t : State} (h : Keeps s t) (x1) (x2) (x3) : Keeps s (State.failDma t x1 x2 x3) := by
  unfold State.failDma
  split; with_reducible (assumption; apply keeps_failCmd; assumption)
theorem keeps_chanReact {s t : State} (h : Keeps s t) (x1) (x2) : Keeps s (State.chanReact t x1 x2) := by
  unfold State.chanReact
  repeat' first
    | with_reducible assumption | with_reducible apply keeps_modChan | with_reducible apply keeps_count | split
    | ((try lift_lets); intro z; refine Keeps.named (s := s) (z := z) ?_ ?_; (try subst z); rotate_left; intro hz; clear_value z)
    | ((try lift_lets); intro z; clear_value z) | (with_reducible intro; with_reducible intros; try beta_reduce)
theorem keeps_queueMoved {s t : State} (h : Keeps s t) (x1) : Keeps s (State.queueMoved t x1) := by
  unfold State.queueMoved
  repeat' first
    | with_reducible assumption | with_reducible apply keeps_chanReact | with_reducible apply Keeps.foldl | with_reducible apply KeepsP.foldl
    | (with_reducible apply KeepsP.fst; with_reducible apply KeepsP.foldl) | split
    | ((try lift_lets); intro z; refine Keeps.named (s := s) (z := z) ?_ ?_; (try subst z); rotate_left; intro hz; clear_value z)
    | ((try lift_lets); intro z; clear_value z) | (with_reducible intro; with_reducible intros; try beta_reduce)
theorem keeps_landQueue {s t : State} (h : Keeps s t) (x1) (x2) (x3) (x4) : Keeps s (State.landQueue t x1 x2 x3 x4) := by
  unfold State.landQueue
  repeat' first
    | with_reducible assumption | with_reducible apply keeps_modQ | with_reducible apply keeps_queueMoved | with_reducible apply keeps_advanceQueue
    | split | ((try lift_lets); intro z; refine Keeps.named (s := s) (z := z) ?_ ?_; (try subst z); rotate_left; intro hz; clear_value z)
    | ((try lift_lets); intro z; clear_value z) | (with_reducible intro; with_reducible intros; try beta_reduce)
theorem keeps_landBurst {s t : State} (h : Keeps s t) (x1) (x2) (x3) : Keeps s (State.landBurst t x1 x2 x3) := by
  unfold State.landBurst
  repeat' first
    | with_reducible assumption | with_reducible apply keeps_t1Access | with_reducible apply keeps_modChan | with_reducible apply keeps_writeCtx
    | with_reducible apply keeps_modCmd | with_reducible apply keeps_writeHost | with_reducible apply keeps_writeCounter
    | with_reducible apply keeps_advanceStream | with_reducible apply keeps_landQueue | with_reducible apply Keeps.foldl
    | with_reducible apply KeepsP.foldl | (with_reducible apply KeepsP.fst; with_reducible apply KeepsP.foldl) | split
    | ((try lift_lets); intro z; refine Keeps.named (s := s) (z := z) ?_ ?_; (try subst z); rotate_left; intro hz; clear_value z)
    | ((try lift_lets); intro z; clear_value z) | (with_reducible intro; with_reducible intros; try beta_reduce)
theorem keeps_abortChan {s t : State} (h : Keeps s t) (x1) : Keeps s (State.abortChan t x1) := by
  unfold State.abortChan
  repeat' first
    | with_reducible assumption | with_reducible apply keeps_modChan | with_reducible apply keeps_landBurst | with_reducible apply keeps_failDma
    | with_reducible apply Keeps.foldl | with_reducible apply KeepsP.foldl | (with_reducible apply KeepsP.fst; with_reducible apply KeepsP.foldl)
    | split | ((try lift_lets); intro z; refine Keeps.named (s := s) (z := z) ?_ ?_; (try subst z); rotate_left; intro hz; clear_value z)
    | ((try lift_lets); intro z; clear_value z) | (with_reducible intro; with_reducible intros; try beta_reduce)
theorem keeps_startDma {s t : State} (h : Keeps s t) (x1) (x2) : Keeps s (State.startDma t x1 x2) := by
  unfold State.startDma
  split; with_reducible (assumption; apply keeps_chanReact); split
  with_reducible (apply keeps_modChan; assumption; apply keeps_modCmd; apply keeps_modChan; assumption)
theorem keeps_burstFault {s t : State} (h : Keeps s t) (x1) (x2) (x3) : Keeps s (State.burstFault t x1 x2 x3) := by
  unfold State.burstFault
  (dsimp +zetaDelta only; split); split; with_reducible assumption; split; with_reducible assumption; split; with_reducible assumption; split
  with_reducible (apply keeps_failFault; apply keeps_modChan); lift_lets
  with_reducible (apply KeepsP.fst; apply keeps_fault; assumption; apply keeps_modChan); lift_lets
  with_reducible (apply KeepsP.fst; apply keeps_fault; assumption; assumption)
theorem keeps_sampleRing {s t : State} (h : Keeps s t) (x1) : Keeps s (State.sampleRing t x1) := by
  unfold State.sampleRing
  repeat' first
    | with_reducible assumption | with_reducible apply keeps_modChan | split
    | ((try lift_lets); intro z; refine Keeps.named (s := s) (z := z) ?_ ?_; (try subst z); rotate_left; intro hz; clear_value z)
    | ((try lift_lets); intro z; clear_value z) | (with_reducible intro; with_reducible intros; try beta_reduce)
theorem keeps_poisonBurst {s t : State} (h : Keeps s t) (x1) (x2) (x3) : Keeps s (State.poisonBurst t x1 x2 x3) := by
  unfold State.poisonBurst
  repeat' first
    | with_reducible assumption | with_reducible apply keeps_modPages | split
    | ((try lift_lets); intro z; refine Keeps.named (s := s) (z := z) ?_ ?_; (try subst z); rotate_left; intro hz; clear_value z)
    | ((try lift_lets); intro z; clear_value z) | (with_reducible intro; with_reducible intros; try beta_reduce)
theorem keeps_burstLand {s t : State} (h : Keeps s t) (x1) (x2) (x3) : Keeps s (State.burstLand t x1 x2 x3) := by
  unfold State.burstLand
  repeat' first
    | with_reducible assumption | with_reducible apply keeps_failDma | with_reducible apply keeps_poisonBurst | with_reducible apply keeps_chanReact
    | with_reducible apply keeps_sampleRing | with_reducible apply keeps_landBurst | split
    | ((try lift_lets); intro z; refine Keeps.named (s := s) (z := z) ?_ ?_; (try subst z); rotate_left; intro hz; clear_value z)
    | ((try lift_lets); intro z; clear_value z) | (with_reducible intro; with_reducible intros; try beta_reduce)
theorem keeps_fillTokens {s t : State} (h : Keeps s t) (x1) : Keeps s (State.fillTokens t x1) := by
  unfold State.fillTokens
  lift_lets; (with_reducible intro; with_reducible intros; try beta_reduce; try lift_lets)
  with_reducible (apply Keeps.put; assumption; exact Nat.le_refl _)
theorem keeps_grantBurst {s t : State} (h : Keeps s t) (x1) (x2) (x3) : Keeps s (State.grantBurst t x1 x2 x3) := by
  unfold State.grantBurst
  repeat' first
    | with_reducible assumption | exact Nat.le_refl _ | exact Nat.le_succ _ | with_reducible apply keeps_fillTokens
    | with_reducible apply keeps_modChan | with_reducible apply keeps_modQ | with_reducible apply keeps_chanReact | with_reducible apply keeps_modCmd
    | with_reducible apply Keeps.foldl | with_reducible apply KeepsP.foldl | (with_reducible apply KeepsP.fst; with_reducible apply KeepsP.foldl)
    | (with_reducible apply Keeps.put; with_reducible assumption) | (with_reducible apply Keeps.putCtxs; with_reducible assumption)
    | (with_reducible apply Keeps.put; first | with_reducible apply keeps_fillTokens | with_reducible apply keeps_modChan | with_reducible apply keeps_modQ | with_reducible apply keeps_chanReact | with_reducible apply keeps_modCmd | with_reducible apply Keeps.foldl)
    | (intro x hx; (try dsimp only); (repeat' split) <;> exact hx) | split
    | ((try lift_lets); intro z; refine Keeps.named (s := s) (z := z) ?_ ?_; (try subst z); rotate_left; intro hz; clear_value z)
    | ((try lift_lets); intro z; clear_value z) | (with_reducible intro; with_reducible intros; try beta_reduce) | dsimp only
theorem keeps_holdLimit {s t : State} (h : Keeps s t) (x1) : Keeps s (State.holdLimit t x1) := by
  unfold State.holdLimit
  (dsimp +zetaDelta only; split); split; with_reducible (apply keeps_chanReact; assumption; apply keeps_failDma; assumption; assumption)
theorem keeps_kick {s t : State} (h : Keeps s t) (x1) : Keeps s (State.kick t x1) := by
  unfold State.kick
  split; with_reducible (assumption; apply keeps_chanReact; apply keeps_sampleRing; assumption)
theorem keeps_execDmaBurstGrant {s t : State} (h : Keeps s t) (x1) (x2) (x3) : KeepsX s (execDmaBurstGrant x1 x2 x3 t) := by
  unfold execDmaBurstGrant
  repeat' first
    | with_reducible assumption | exact KeepsX.refused | exact KeepsX.fault | with_reducible apply KeepsX.next | with_reducible apply keeps_grantBurst
    | split | ((try lift_lets); intro z; refine Keeps.named (s := s) (z := z) ?_ ?_; (try subst z); rotate_left; intro hz; clear_value z)
    | ((try lift_lets); intro z; clear_value z) | (with_reducible intro; with_reducible intros; try beta_reduce)
theorem keeps_execDmaBurstLand {s t : State} (h : Keeps s t) (x1) (x2) (x3) : KeepsX s (execDmaBurstLand x1 x2 x3 t) := by
  unfold execDmaBurstLand
  repeat' first
    | with_reducible assumption | exact KeepsX.refused | exact KeepsX.fault | with_reducible apply KeepsX.next | with_reducible apply keeps_placeAll
    | with_reducible apply keeps_burstLand | split
    | ((try lift_lets); intro z; refine Keeps.named (s := s) (z := z) ?_ ?_; (try subst z); rotate_left; intro hz; clear_value z)
    | ((try lift_lets); intro z; clear_value z) | (with_reducible intro; with_reducible intros; try beta_reduce)
theorem keeps_execDmaKick {s t : State} (h : Keeps s t) (x1) (x2) : KeepsX s (execDmaKick x1 x2 t) := by
  unfold execDmaKick
  repeat' first
    | with_reducible assumption | exact KeepsX.refused | exact KeepsX.fault | with_reducible apply KeepsX.next | with_reducible apply keeps_kick
    | split | ((try lift_lets); intro z; refine Keeps.named (s := s) (z := z) ?_ ?_; (try subst z); rotate_left; intro hz; clear_value z)
    | ((try lift_lets); intro z; clear_value z) | (with_reducible intro; with_reducible intros; try beta_reduce)
theorem keeps_execDmaRingSample {s t : State} (h : Keeps s t) (x1) : KeepsX s (execDmaRingSample x1 t) := by
  unfold execDmaRingSample
  repeat' first
    | with_reducible assumption | exact KeepsX.refused | exact KeepsX.fault | with_reducible apply KeepsX.next | with_reducible apply keeps_kick
    | split | ((try lift_lets); intro z; refine Keeps.named (s := s) (z := z) ?_ ?_; (try subst z); rotate_left; intro hz; clear_value z)
    | ((try lift_lets); intro z; clear_value z) | (with_reducible intro; with_reducible intros; try beta_reduce)
theorem keeps_execDmaHoldLimit {s t : State} (h : Keeps s t) (x1) : KeepsX s (execDmaHoldLimit x1 t) := by
  unfold execDmaHoldLimit
  repeat' first
    | with_reducible assumption | exact KeepsX.refused | exact KeepsX.fault | with_reducible apply KeepsX.next | with_reducible apply keeps_placeAll
    | with_reducible apply keeps_holdLimit | split
    | ((try lift_lets); intro z; refine Keeps.named (s := s) (z := z) ?_ ?_; (try subst z); rotate_left; intro hz; clear_value z)
    | ((try lift_lets); intro z; clear_value z) | (with_reducible intro; with_reducible intros; try beta_reduce)
theorem keeps_execDmaBurstFault {s t : State} (h : Keeps s t) (x1) (x2) (x3) : KeepsX s (execDmaBurstFault x1 x2 x3 t) := by
  unfold execDmaBurstFault
  repeat' first
    | with_reducible assumption | exact KeepsX.refused | exact KeepsX.fault | with_reducible apply KeepsX.next | with_reducible apply keeps_placeAll
    | with_reducible apply keeps_burstFault | split
    | ((try lift_lets); intro z; refine Keeps.named (s := s) (z := z) ?_ ?_; (try subst z); rotate_left; intro hz; clear_value z)
    | ((try lift_lets); intro z; clear_value z) | (with_reducible intro; with_reducible intros; try beta_reduce)

/-! ### Reserve -/

theorem keeps_doneBad {s t : State} (h : Keeps s t) (x1) (x2) : KeepsP s (doneBad t x1 x2) := by
  unfold doneBad
  with_reducible (apply KeepsP.mk; assumption)
theorem keeps_doneOk {s t : State} (h : Keeps s t) (x1) : KeepsP s (doneOk t x1) := by
  unfold doneOk
  with_reducible (apply KeepsP.mk; assumption)
theorem keeps_ledgerAdd {s t : State} (h : Keeps s t) (x1) (x2) (x3) (x4) (x5) : Keeps s (State.ledgerAdd t x1 x2 x3 x4 x5) := by
  unfold State.ledgerAdd
  with_reducible (apply keeps_modRas; assumption)
theorem keeps_degrade {s t : State} (h : Keeps s t) (x1) (x2) : Keeps s (State.degrade t x1 x2) := by
  unfold State.degrade
  with_reducible (apply keeps_raise; apply keeps_ledgerAdd; apply keeps_modRas; assumption)
theorem keeps_retirePart {s t : State} (h : Keeps s t) (x1) (x2) (x3) (x4) : Keeps s (State.retirePart t x1 x2 x3 x4) := by
  unfold State.retirePart
  split; with_reducible (apply keeps_ledgerAdd; assumption); (dsimp +zetaDelta only; split)
  with_reducible (apply keeps_degrade; apply keeps_ledgerAdd; apply keeps_modRas; apply keeps_ledgerAdd; assumption; apply keeps_modRas)
  with_reducible (apply keeps_ledgerAdd; assumption)

/-! ### Memory -/

theorem keeps_fwSettle {s t : State} (h : Keeps s t) (x1) (x2) : KeepsO s (State.fwSettle t x1 x2) := by
  induction x2 generalizing t x1 with
  | zero =>
    unfold State.fwSettle
    repeat' first
      | with_reducible assumption | exact KeepsO.none | with_reducible apply KeepsO.some | with_reducible apply keeps_placeBlock | split
      | ((try lift_lets); intro z; refine Keeps.named (s := s) (z := z) ?_ ?_; (try subst z); rotate_left; intro hz; clear_value z)
      | ((try lift_lets); intro z; refine KeepsO.named (s := s) (z := z) ?_ ?_; (try subst z); rotate_left; intro hz; clear_value z)
      | ((try lift_lets); intro z; clear_value z) | (with_reducible intro; with_reducible intros; try beta_reduce)
      | (refine KeepsO.elim (by with_reducible assumption) ?_)
  | succ n ih =>
    unfold State.fwSettle
    repeat' first
      | with_reducible assumption | exact KeepsO.none | with_reducible apply KeepsO.some | with_reducible apply keeps_placeBlock
      | with_reducible apply ih | split
      | ((try lift_lets); intro z; refine Keeps.named (s := s) (z := z) ?_ ?_; (try subst z); rotate_left; intro hz; clear_value z)
      | ((try lift_lets); intro z; refine KeepsO.named (s := s) (z := z) ?_ ?_; (try subst z); rotate_left; intro hz; clear_value z)
      | ((try lift_lets); intro z; clear_value z) | (with_reducible intro; with_reducible intros; try beta_reduce)
      | (refine KeepsO.elim (by with_reducible assumption) ?_)
theorem keeps_growFw {s t : State} (h : Keeps s t) {new : State} (k : Keeps s new) (x2) : KeepsP s (State.growFw t new x2) := by
  unfold State.growFw
  split
  · rename_i e
    exact keeps_doneOk (KeepsO.elim e (keeps_fwSettle k _ _)) _
  · exact keeps_doneBad (keeps_raise h ..) ..
theorem keeps_startUnmap {s t : State} (h : Keeps s t) (x1) (x2) (x3) : KeepsP s (State.startUnmap t x1 x2 x3) := by
  unfold State.startUnmap
  with_reducible apply KeepsP.mk; split; with_reducible (assumption; apply KeepsP.fst; apply keeps_doneOk; apply keeps_freePages; assumption)
theorem keeps_resolveIn {s t : State} (h : Keeps s t) (x1) (x2) (x3) : Keeps s (State.resolveIn t x1 x2 x3) := by
  unfold State.resolveIn
  with_reducible (apply Keeps.foldl; assumption); (with_reducible intro; with_reducible intros; try beta_reduce; try lift_lets)
  with_reducible (apply keeps_resolveFault; assumption)
theorem keeps_moveTo {s t : State} (h : Keeps s t) (x1) (x2) : KeepsO s (State.moveTo t x1 x2) := by
  unfold State.moveTo
  repeat' first
    | with_reducible assumption | exact KeepsO.none | with_reducible apply KeepsO.some | with_reducible apply keeps_finishCopy
    | with_reducible apply keeps_bringT2 | with_reducible apply keeps_placeBlock | with_reducible apply KeepsO.map
    | with_reducible apply KeepsO.mapVal | split
    | ((try lift_lets); intro z; refine Keeps.named (s := s) (z := z) ?_ ?_; (try subst z); rotate_left; intro hz; clear_value z)
    | ((try lift_lets); intro z; refine KeepsO.named (s := s) (z := z) ?_ ?_; (try subst z); rotate_left; intro hz; clear_value z)
    | ((try lift_lets); intro z; clear_value z) | (with_reducible intro; with_reducible intros; try beta_reduce)
    | (refine KeepsO.elim (by with_reducible assumption) ?_)
theorem keeps_resumePages {s t : State} (h : Keeps s t) (x1) : Keeps s (State.resumePages t x1) := by
  unfold State.resumePages
  split; split; with_reducible (assumption; apply keeps_resumeMigrated; assumption; assumption)
theorem keeps_moveAll {s t : State} (h : Keeps s t) (x1) (x2) (x3) : KeepsP s (State.moveAll t x1 x2 x3) := by
  unfold State.moveAll
  refine KeepsP.foldl (KeepsP.mk h) fun a x ha => ?_
  split
  · exact ha
  · split
    · rename_i u e
      exact KeepsP.mk (keeps_resumePages (KeepsO.elim e (keeps_moveTo (KeepsP.fst ha) _ _)) _)
    · exact ha
theorem keeps_startRetry {s t : State} (h : Keeps s t) (x1) : KeepsP s (State.startRetry t x1) := by
  unfold State.startRetry
  with_reducible (apply keeps_doneOk; apply keeps_retryFault; assumption)
theorem keeps_startFail {s t : State} (h : Keeps s t) (x1) (x2) : KeepsP s (State.startFail t x1 x2) := by
  unfold State.startFail
  with_reducible apply KeepsP.mk; split
  with_reducible (apply KeepsP.fst; apply keeps_doneBad; assumption; apply KeepsP.fst; apply keeps_doneOk; apply keeps_failFault; assumption)
theorem keeps_modStack {s t : State} (h : Keeps s t) (x1) (x2) : Keeps s (State.modStack t x1 x2) := by
  unfold State.modStack
  with_reducible (apply keeps_modMem; assumption)
theorem keeps_poisonPages {s t : State} (h : Keeps s t) (x1) : Keeps s (State.poisonPages t x1) := by
  unfold State.poisonPages
  with_reducible (apply keeps_modPages; assumption)
theorem keeps_freeLent {s t : State} (h : Keeps s t) (x1) : Keeps s (State.freeLent t x1) := by
  unfold State.freeLent
  with_reducible (apply keeps_modMem; apply keeps_setMem; assumption)
  (with_reducible intro; with_reducible intros; try beta_reduce; try lift_lets); with_reducible (apply memWf_foldl; assumption)
  (with_reducible intro; with_reducible intros; try beta_reduce; try lift_lets); exact memWf_memClear (by with_reducible assumption) _ _
theorem keeps_lenderLost {s t : State} (h : Keeps s t) (x1) : Keeps s (State.lenderLost t x1) := by
  unfold State.lenderLost
  repeat' first
    | with_reducible assumption | with_reducible apply keeps_modPages | with_reducible apply keeps_modMem | with_reducible apply keeps_resumeMigrated
    | with_reducible apply Keeps.foldl | with_reducible apply KeepsP.foldl | (with_reducible apply KeepsP.fst; with_reducible apply KeepsP.foldl)
    | split | ((try lift_lets); intro z; refine Keeps.named (s := s) (z := z) ?_ ?_; (try subst z); rotate_left; intro hz; clear_value z)
    | ((try lift_lets); intro z; clear_value z) | (with_reducible intro; with_reducible intros; try beta_reduce)
theorem keeps_sawEcc {s t : State} (h : Keeps s t) (x1) (x2) (x3) (x4) (x5) : Keeps s (State.sawEcc t x1 x2 x3 x4 x5) := by
  unfold State.sawEcc
  repeat' first
    | with_reducible assumption | exact Nat.le_refl _ | exact Nat.le_succ _ | with_reducible apply keeps_modMem
    | (with_reducible apply Keeps.put; with_reducible assumption) | (with_reducible apply Keeps.putCtxs; with_reducible assumption)
    | (with_reducible apply Keeps.put; first | with_reducible apply keeps_modMem) | (intro x hx; (try dsimp only); (repeat' split) <;> exact hx)
    | split | ((try lift_lets); intro z; refine Keeps.named (s := s) (z := z) ?_ ?_; (try subst z); rotate_left; intro hz; clear_value z)
    | ((try lift_lets); intro z; clear_value z) | (with_reducible intro; with_reducible intros; try beta_reduce)
theorem keeps_startCopy {s t : State} (h : Keeps s t) (x1) (x2) (x3) : Keeps s (State.startCopy t x1 x2 x3) := by
  unfold State.startCopy
  repeat' first
    | with_reducible assumption | with_reducible apply keeps_modPages | with_reducible apply keeps_modMem | split
    | ((try lift_lets); intro z; refine Keeps.named (s := s) (z := z) ?_ ?_; (try subst z); rotate_left; intro hz; clear_value z)
    | ((try lift_lets); intro z; clear_value z) | (with_reducible intro; with_reducible intros; try beta_reduce)
theorem keeps_fitT3 {s t : State} (h : Keeps s t) (x1) (x2) : Keeps s (State.fitT3 t x1 x2) := by
  induction x2 generalizing t x1 with
  | zero =>
    unfold State.fitT3
    repeat' first
      | with_reducible assumption | with_reducible apply keeps_startCopy | split
      | ((try lift_lets); intro z; refine Keeps.named (s := s) (z := z) ?_ ?_; (try subst z); rotate_left; intro hz; clear_value z)
      | ((try lift_lets); intro z; clear_value z) | (with_reducible intro; with_reducible intros; try beta_reduce)
  | succ n ih =>
    unfold State.fitT3
    repeat' first
      | with_reducible assumption | with_reducible apply keeps_startCopy | with_reducible apply ih | split
      | ((try lift_lets); intro z; refine Keeps.named (s := s) (z := z) ?_ ?_; (try subst z); rotate_left; intro hz; clear_value z)
      | ((try lift_lets); intro z; clear_value z) | (with_reducible intro; with_reducible intros; try beta_reduce)
theorem keeps_fitT2 {s t : State} (h : Keeps s t) (x1) (x2) : Keeps s (State.fitT2 t x1 x2) := by
  induction x2 generalizing t x1 with
  | zero =>
    unfold State.fitT2
    repeat' first
      | with_reducible assumption | with_reducible apply keeps_startCopy | split
      | ((try lift_lets); intro z; refine Keeps.named (s := s) (z := z) ?_ ?_; (try subst z); rotate_left; intro hz; clear_value z)
      | ((try lift_lets); intro z; clear_value z) | (with_reducible intro; with_reducible intros; try beta_reduce)
  | succ n ih =>
    unfold State.fitT2
    repeat' first
      | with_reducible assumption | with_reducible apply keeps_startCopy | with_reducible apply ih | split
      | ((try lift_lets); intro z; refine Keeps.named (s := s) (z := z) ?_ ?_; (try subst z); rotate_left; intro hz; clear_value z)
      | ((try lift_lets); intro z; clear_value z) | (with_reducible intro; with_reducible intros; try beta_reduce)
theorem keeps_startQuota {s t : State} (h : Keeps s t) (x1) (x2) (x3) (x4) (x5) : KeepsP s (State.startQuota t x1 x2 x3 x4 x5) := by
  unfold State.startQuota
  repeat' first
    | with_reducible assumption | with_reducible apply KeepsP.mk | with_reducible apply keeps_modCtx
    | (with_reducible apply KeepsP.fst; with_reducible apply keeps_doneOk) | with_reducible apply keeps_doneOk | with_reducible apply keeps_fitT3
    | with_reducible apply keeps_fitT2 | (intro x hx; (try dsimp only); (repeat' split) <;> exact hx) | split
    | ((try lift_lets); intro z; refine Keeps.named (s := s) (z := z) ?_ ?_; (try subst z); rotate_left; intro hz; clear_value z)
    | ((try lift_lets); intro z; refine KeepsP.named (s := s) (z := z) ?_ ?_; (try subst z); rotate_left; intro hz; clear_value z)
    | (with_reducible apply KeepsP.fst; with_reducible apply KeepsP.mk) | (with_reducible apply KeepsP.fst; with_reducible assumption)
    | ((try lift_lets); intro z; clear_value z) | (with_reducible intro; with_reducible intros; try beta_reduce)
    | (refine KeepsP.elim (by with_reducible assumption) ?_)
theorem keeps_startHint {s t : State} (h : Keeps s t) (x1) (x2) (x3) (x4) : KeepsP s (State.startHint t x1 x2 x3 x4) := by
  unfold State.startHint
  repeat' first
    | with_reducible assumption | with_reducible apply KeepsP.mk | (with_reducible apply KeepsP.fst; with_reducible apply keeps_doneBad)
    | with_reducible apply keeps_doneBad | with_reducible apply keeps_resolveIn | with_reducible apply keeps_modPages
    | with_reducible apply keeps_fitT2 | (with_reducible apply KeepsP.fst; with_reducible apply keeps_doneOk) | with_reducible apply keeps_doneOk
    | (with_reducible apply KeepsP.fst; with_reducible apply keeps_moveAll) | with_reducible apply keeps_moveAll | split
    | ((try lift_lets); intro z; refine Keeps.named (s := s) (z := z) ?_ ?_; (try subst z); rotate_left; intro hz; clear_value z)
    | ((try lift_lets); intro z; refine KeepsP.named (s := s) (z := z) ?_ ?_; (try subst z); rotate_left; intro hz; clear_value z)
    | (with_reducible apply KeepsP.fst; with_reducible apply KeepsP.mk) | (with_reducible apply KeepsP.fst; with_reducible assumption)
    | ((try lift_lets); intro z; clear_value z) | (with_reducible intro; with_reducible intros; try beta_reduce)
    | (refine KeepsP.elim (by with_reducible assumption) ?_)
theorem keeps_startMap {s t : State} (h : Keeps s t) (x1) (x2) (x3) (x4) : KeepsP s (State.startMap t x1 x2 x3 x4) := by
  unfold State.startMap
  repeat' first
    | with_reducible assumption | with_reducible apply KeepsP.mk | (with_reducible apply KeepsP.fst; with_reducible apply keeps_doneBad)
    | with_reducible apply keeps_doneBad | with_reducible apply keeps_modMem | with_reducible apply keeps_modPages | with_reducible apply keeps_fitT2
    | (with_reducible apply KeepsP.fst; with_reducible apply keeps_doneOk) | with_reducible apply keeps_doneOk
    | (with_reducible apply KeepsP.fst; with_reducible apply keeps_growFw) | with_reducible apply keeps_growFw | split
    | ((try lift_lets); intro z; refine Keeps.named (s := s) (z := z) ?_ ?_; (try subst z); rotate_left; intro hz; clear_value z)
    | ((try lift_lets); intro z; refine KeepsP.named (s := s) (z := z) ?_ ?_; (try subst z); rotate_left; intro hz; clear_value z)
    | (with_reducible apply KeepsP.fst; with_reducible apply KeepsP.mk) | (with_reducible apply KeepsP.fst; with_reducible assumption)
    | ((try lift_lets); intro z; clear_value z) | (with_reducible intro; with_reducible intros; try beta_reduce)
    | (refine KeepsP.elim (by with_reducible assumption) ?_)
theorem keeps_shrink {s t : State} (h : Keeps s t) (x1) (x2) : Keeps s (State.shrink t x1 x2) := by
  induction x2 generalizing t x1 with
  | zero =>
    unfold State.shrink
    repeat' first
      | with_reducible assumption | with_reducible apply keeps_startCopy | split
      | ((try lift_lets); intro z; refine Keeps.named (s := s) (z := z) ?_ ?_; (try subst z); rotate_left; intro hz; clear_value z)
      | ((try lift_lets); intro z; clear_value z) | (with_reducible intro; with_reducible intros; try beta_reduce)
  | succ n ih =>
    unfold State.shrink
    repeat' first
      | with_reducible assumption | with_reducible apply keeps_startCopy | with_reducible apply ih | split
      | ((try lift_lets); intro z; refine Keeps.named (s := s) (z := z) ?_ ?_; (try subst z); rotate_left; intro hz; clear_value z)
      | ((try lift_lets); intro z; clear_value z) | (with_reducible intro; with_reducible intros; try beta_reduce)
theorem keeps_shrinkAll {s t : State} (h : Keeps s t) : Keeps s (State.shrinkAll t) := by
  unfold State.shrinkAll
  repeat' first
    | with_reducible assumption | with_reducible apply keeps_shrink | with_reducible apply keeps_raise | split
    | ((try lift_lets); intro z; refine Keeps.named (s := s) (z := z) ?_ ?_; (try subst z); rotate_left; intro hz; clear_value z)
    | ((try lift_lets); intro z; clear_value z) | (with_reducible intro; with_reducible intros; try beta_reduce)
theorem keeps_stackOut {s t : State} (h : Keeps s t) (x1) : Keeps s (State.stackOut t x1) := by
  unfold State.stackOut
  repeat' first
    | with_reducible assumption | exact Nat.le_refl _ | exact Nat.le_succ _ | with_reducible apply keeps_modMem | with_reducible apply keeps_modStack
    | with_reducible apply keeps_poisonPages | with_reducible apply keeps_startCopy | with_reducible apply keeps_shrinkAll
    | with_reducible apply keeps_degrade | with_reducible apply keeps_raise | with_reducible apply Keeps.foldl | with_reducible apply KeepsP.foldl
    | (with_reducible apply KeepsP.fst; with_reducible apply KeepsP.foldl) | (with_reducible apply Keeps.put; with_reducible assumption)
    | (with_reducible apply Keeps.putCtxs; with_reducible assumption)
    | (with_reducible apply Keeps.put; first | with_reducible apply keeps_modMem | with_reducible apply keeps_modStack | with_reducible apply keeps_poisonPages | with_reducible apply keeps_startCopy | with_reducible apply keeps_shrinkAll | with_reducible apply keeps_degrade | with_reducible apply keeps_raise)
    | (intro x hx; (try dsimp only); (repeat' split) <;> exact hx) | split
    | ((try lift_lets); intro z; refine Keeps.named (s := s) (z := z) ?_ ?_; (try subst z); rotate_left; intro hz; clear_value z)
    | ((try lift_lets); intro z; clear_value z) | (with_reducible intro; with_reducible intros; try beta_reduce)
theorem keeps_replaceChannel {s t : State} (h : Keeps s t) (x1) (x2) : Keeps s (State.replaceChannel t x1 x2) := by
  unfold State.replaceChannel
  repeat' first
    | with_reducible assumption | with_reducible apply keeps_stackOut | with_reducible apply keeps_retirePart | with_reducible apply keeps_modStack
    | split | ((try lift_lets); intro z; refine Keeps.named (s := s) (z := z) ?_ ?_; (try subst z); rotate_left; intro hz; clear_value z)
    | ((try lift_lets); intro z; clear_value z) | (with_reducible intro; with_reducible intros; try beta_reduce)
theorem keeps_channelCheck {s t : State} (h : Keeps s t) (x1) (x2) : Keeps s (State.channelCheck t x1 x2) := by
  unfold State.channelCheck
  repeat' first
    | with_reducible assumption | with_reducible apply keeps_replaceChannel | split
    | ((try lift_lets); intro z; refine Keeps.named (s := s) (z := z) ?_ ?_; (try subst z); rotate_left; intro hz; clear_value z)
    | ((try lift_lets); intro z; clear_value z) | (with_reducible intro; with_reducible intros; try beta_reduce)
theorem keeps_retireFrame {s t : State} (h : Keeps s t) (x1) (x2) : Keeps s (State.retireFrame t x1 x2) := by
  unfold State.retireFrame
  repeat' first
    | with_reducible assumption | with_reducible apply keeps_poisonPages | with_reducible apply keeps_modStack | with_reducible apply keeps_modMem
    | with_reducible apply keeps_startCopy | with_reducible apply keeps_shrinkAll | with_reducible apply keeps_raise
    | with_reducible apply keeps_retirePart | split
    | ((try lift_lets); intro z; refine Keeps.named (s := s) (z := z) ?_ ?_; (try subst z); rotate_left; intro hz; clear_value z)
    | ((try lift_lets); intro z; clear_value z) | (with_reducible intro; with_reducible intros; try beta_reduce)
theorem keeps_copyDone {s t : State} (h : Keeps s t) (x1) (x2) (x3) : Keeps s (State.copyDone t x1 x2 x3) := by
  unfold State.copyDone
  repeat' first
    | with_reducible assumption | with_reducible apply keeps_modMem | with_reducible apply keeps_modStack | with_reducible apply keeps_retireFrame
    | with_reducible apply Keeps.foldl | with_reducible apply KeepsP.foldl | (with_reducible apply KeepsP.fst; with_reducible apply KeepsP.foldl)
    | split | ((try lift_lets); intro z; refine Keeps.named (s := s) (z := z) ?_ ?_; (try subst z); rotate_left; intro hz; clear_value z)
    | ((try lift_lets); intro z; clear_value z) | (with_reducible intro; with_reducible intros; try beta_reduce)
theorem keeps_failRow {s t : State} (h : Keeps s t) (x1) (x2) (x3) (x4) : Keeps s (State.failRow t x1 x2 x3 x4) := by
  unfold State.failRow
  repeat' first
    | with_reducible assumption | with_reducible apply keeps_modStack | with_reducible apply keeps_retireFrame | with_reducible apply Keeps.foldl
    | with_reducible apply KeepsP.foldl | (with_reducible apply KeepsP.fst; with_reducible apply KeepsP.foldl) | split
    | ((try lift_lets); intro z; refine Keeps.named (s := s) (z := z) ?_ ?_; (try subst z); rotate_left; intro hz; clear_value z)
    | ((try lift_lets); intro z; clear_value z) | (with_reducible intro; with_reducible intros; try beta_reduce)
theorem keeps_memUe {s t : State} (h : Keeps s t) (x1) (x2) (x3) (x4) (x5) : Keeps s (State.memUe t x1 x2 x3 x4 x5) := by
  unfold State.memUe
  repeat' first
    | with_reducible assumption | exact Nat.le_refl _ | exact Nat.le_succ _ | with_reducible apply keeps_raise | with_reducible apply keeps_sawEcc
    | with_reducible apply keeps_count | with_reducible apply keeps_channelCheck | with_reducible apply keeps_failRow
    | (with_reducible apply Keeps.put; with_reducible assumption) | (with_reducible apply Keeps.putCtxs; with_reducible assumption)
    | (with_reducible apply Keeps.put; first | with_reducible apply keeps_raise | with_reducible apply keeps_sawEcc | with_reducible apply keeps_count | with_reducible apply keeps_channelCheck | with_reducible apply keeps_failRow)
    | (intro x hx; (try dsimp only); (repeat' split) <;> exact hx) | split
    | ((try lift_lets); intro z; refine Keeps.named (s := s) (z := z) ?_ ?_; (try subst z); rotate_left; intro hz; clear_value z)
    | ((try lift_lets); intro z; clear_value z) | (with_reducible intro; with_reducible intros; try beta_reduce)
theorem keeps_memCe {s t : State} (h : Keeps s t) (x1) (x2) (x3) (x4) : Keeps s (State.memCe t x1 x2 x3 x4) := by
  unfold State.memCe
  repeat' first
    | with_reducible assumption | with_reducible apply keeps_sawEcc | with_reducible apply keeps_count | with_reducible apply keeps_modStack
    | with_reducible apply keeps_failRow | with_reducible apply keeps_channelCheck | split
    | ((try lift_lets); intro z; refine Keeps.named (s := s) (z := z) ?_ ?_; (try subst z); rotate_left; intro hz; clear_value z)
    | ((try lift_lets); intro z; clear_value z) | (with_reducible intro; with_reducible intros; try beta_reduce)
theorem keeps_eccEvent {s t : State} (h : Keeps s t) (x1) (x2) (x3) (x4) : Keeps s (State.eccEvent t x1 x2 x3 x4) := by
  unfold State.eccEvent
  repeat' first
    | with_reducible assumption | with_reducible apply keeps_memCe | with_reducible apply keeps_memUe | split
    | ((try lift_lets); intro z; refine Keeps.named (s := s) (z := z) ?_ ?_; (try subst z); rotate_left; intro hz; clear_value z)
    | ((try lift_lets); intro z; clear_value z) | (with_reducible intro; with_reducible intros; try beta_reduce)
theorem keeps_idleDemotion {s t : State} (h : Keeps s t) (x1) (x2) : Keeps s (State.idleDemotion t x1 x2) := by
  unfold State.idleDemotion
  repeat' first
    | with_reducible assumption | with_reducible apply keeps_startCopy | split
    | ((try lift_lets); intro z; refine Keeps.named (s := s) (z := z) ?_ ?_; (try subst z); rotate_left; intro hz; clear_value z)
    | ((try lift_lets); intro z; clear_value z) | (with_reducible intro; with_reducible intros; try beta_reduce)
theorem keeps_migrationDone {s t : State} (h : Keeps s t) (x1) (x2) : Keeps s (State.migrationDone t x1 x2) := by
  unfold State.migrationDone
  repeat' first
    | with_reducible assumption | with_reducible apply keeps_resumeMigrated | with_reducible apply keeps_finishCopy | split
    | ((try lift_lets); intro z; refine Keeps.named (s := s) (z := z) ?_ ?_; (try subst z); rotate_left; intro hz; clear_value z)
    | ((try lift_lets); intro z; clear_value z) | (with_reducible intro; with_reducible intros; try beta_reduce)
theorem keeps_promotion {s t : State} (h : Keeps s t) (x1) (x2) : Keeps s (State.promotion t x1 x2) := by
  unfold State.promotion
  split; with_reducible assumption; (dsimp +zetaDelta only; split); with_reducible (apply keeps_startCopy; assumption; assumption)
theorem keeps_leavePeer {s t : State} (h : Keeps s t) (x1) (x2) (x3) (x4) : Keeps s (State.leavePeer t x1 x2 x3 x4) := by
  induction x4 generalizing t x1 x2 x3 with
  | zero =>
    unfold State.leavePeer
    repeat' first
      | with_reducible assumption | with_reducible apply keeps_startCopy | with_reducible apply KeepsO.map | with_reducible apply KeepsO.mapVal | split
      | ((try lift_lets); intro z; refine Keeps.named (s := s) (z := z) ?_ ?_; (try subst z); rotate_left; intro hz; clear_value z)
      | ((try lift_lets); intro z; clear_value z) | (with_reducible intro; with_reducible intros; try beta_reduce)
  | succ n ih =>
    unfold State.leavePeer
    repeat' first
      | with_reducible assumption | with_reducible apply keeps_startCopy | with_reducible apply ih | with_reducible apply KeepsO.map
      | with_reducible apply KeepsO.mapVal | split
      | ((try lift_lets); intro z; refine Keeps.named (s := s) (z := z) ?_ ?_; (try subst z); rotate_left; intro hz; clear_value z)
      | ((try lift_lets); intro z; clear_value z) | (with_reducible intro; with_reducible intros; try beta_reduce)
theorem keeps_reclaim {s t : State} (h : Keeps s t) (x1) (x2) : Keeps s (State.reclaim t x1 x2) := by
  unfold State.reclaim
  repeat' first
    | with_reducible assumption | with_reducible apply keeps_leavePeer | with_reducible apply keeps_modMem | split
    | ((try lift_lets); intro z; refine Keeps.named (s := s) (z := z) ?_ ?_; (try subst z); rotate_left; intro hz; clear_value z)
    | ((try lift_lets); intro z; clear_value z) | (with_reducible intro; with_reducible intros; try beta_reduce)
theorem keeps_timeoutFault {s t : State} (h : Keeps s t) (x1) : Keeps s (State.timeoutFault t x1) := by
  unfold State.timeoutFault
  split; with_reducible assumption; split; with_reducible (apply keeps_failFault; assumption; assumption)
theorem keeps_execFaultResolved {s t : State} (h : Keeps s t) (x1) : KeepsX s (execFaultResolved x1 t) := by
  unfold execFaultResolved
  repeat' first
    | with_reducible assumption | exact KeepsX.refused | exact KeepsX.fault | with_reducible apply KeepsX.next | with_reducible apply keeps_placeAll
    | with_reducible apply keeps_resolveFault | split
    | ((try lift_lets); intro z; refine Keeps.named (s := s) (z := z) ?_ ?_; (try subst z); rotate_left; intro hz; clear_value z)
    | ((try lift_lets); intro z; clear_value z) | (with_reducible intro; with_reducible intros; try beta_reduce)
theorem keeps_execFaultTimeout {s t : State} (h : Keeps s t) (x1) : KeepsX s (execFaultTimeout x1 t) := by
  unfold execFaultTimeout
  repeat' first
    | with_reducible assumption | exact KeepsX.refused | exact KeepsX.fault | with_reducible apply KeepsX.next | with_reducible apply keeps_placeAll
    | with_reducible apply keeps_timeoutFault | split
    | ((try lift_lets); intro z; refine Keeps.named (s := s) (z := z) ?_ ?_; (try subst z); rotate_left; intro hz; clear_value z)
    | ((try lift_lets); intro z; clear_value z) | (with_reducible intro; with_reducible intros; try beta_reduce)
theorem keeps_execPageMigrationDone {s t : State} (h : Keeps s t) (x1) (x2) : KeepsX s (execPageMigrationDone x1 x2 t) := by
  unfold execPageMigrationDone
  repeat' first
    | with_reducible assumption | exact KeepsX.refused | exact KeepsX.fault | with_reducible apply KeepsX.next | with_reducible apply keeps_placeAll
    | with_reducible apply keeps_migrationDone | split
    | ((try lift_lets); intro z; refine Keeps.named (s := s) (z := z) ?_ ?_; (try subst z); rotate_left; intro hz; clear_value z)
    | ((try lift_lets); intro z; clear_value z) | (with_reducible intro; with_reducible intros; try beta_reduce)
theorem keeps_execIdleDemotion {s t : State} (h : Keeps s t) (x1) (x2) : KeepsX s (execIdleDemotion x1 x2 t) := by
  unfold execIdleDemotion
  repeat' first
    | with_reducible assumption | exact KeepsX.refused | exact KeepsX.fault | with_reducible apply KeepsX.next
    | with_reducible apply keeps_idleDemotion | split
    | ((try lift_lets); intro z; refine Keeps.named (s := s) (z := z) ?_ ?_; (try subst z); rotate_left; intro hz; clear_value z)
    | ((try lift_lets); intro z; clear_value z) | (with_reducible intro; with_reducible intros; try beta_reduce)
theorem keeps_execBackgroundPromotion {s t : State} (h : Keeps s t) (x1) (x2) : KeepsX s (execBackgroundPromotion x1 x2 t) := by
  unfold execBackgroundPromotion
  repeat' first
    | with_reducible assumption | exact KeepsX.refused | exact KeepsX.fault | with_reducible apply KeepsX.next | with_reducible apply keeps_promotion
    | split | ((try lift_lets); intro z; refine Keeps.named (s := s) (z := z) ?_ ?_; (try subst z); rotate_left; intro hz; clear_value z)
    | ((try lift_lets); intro z; clear_value z) | (with_reducible intro; with_reducible intros; try beta_reduce)
theorem keeps_execEccPatrol {s t : State} (h : Keeps s t) (x1) (x2) : KeepsX s (execEccPatrol x1 x2 t) := by
  unfold execEccPatrol
  repeat' first
    | with_reducible assumption | exact KeepsX.refused | exact KeepsX.fault | with_reducible apply KeepsX.next | with_reducible apply keeps_placeAll
    | with_reducible apply keeps_eccEvent | with_reducible apply Keeps.foldl | with_reducible apply KeepsP.foldl
    | (with_reducible apply KeepsP.fst; with_reducible apply KeepsP.foldl) | split
    | ((try lift_lets); intro z; refine Keeps.named (s := s) (z := z) ?_ ?_; (try subst z); rotate_left; intro hz; clear_value z)
    | ((try lift_lets); intro z; clear_value z) | (with_reducible intro; with_reducible intros; try beta_reduce)
theorem keeps_execChannelCopyDone {s t : State} (h : Keeps s t) (x1) (x2) (x3) : KeepsX s (execChannelCopyDone x1 x2 x3 t) := by
  unfold execChannelCopyDone
  repeat' first
    | with_reducible assumption | exact KeepsX.refused | exact KeepsX.fault | with_reducible apply KeepsX.next | with_reducible apply keeps_copyDone
    | split | ((try lift_lets); intro z; refine Keeps.named (s := s) (z := z) ?_ ?_; (try subst z); rotate_left; intro hz; clear_value z)
    | ((try lift_lets); intro z; clear_value z) | (with_reducible intro; with_reducible intros; try beta_reduce)
theorem keeps_execFrameScrub {s t : State} (h : Keeps s t)  : KeepsX s (execFrameScrub t) := by
  unfold execFrameScrub
  with_reducible (apply KeepsX.next; apply keeps_modMem; assumption)

/-! ### Contexts -/

theorem keeps_endAll {s t : State} (h : Keeps s t) (x1) (x2) : Keeps s (State.endAll t x1 x2) := by
  unfold State.endAll
  with_reducible (apply keeps_readyAll; apply keeps_endDoomed; apply keeps_endRuns; apply keeps_endDoomed; apply Keeps.foldl; apply keeps_modSched)
  with_reducible (assumption); (with_reducible intro; with_reducible intros; try beta_reduce; try lift_lets); split
  with_reducible (assumption; apply keeps_endBoth; apply keeps_modSched; assumption)
theorem keeps_enterFencing {s t : State} (h : Keeps s t) (x1) : Keeps s (State.enterFencing t x1) := by
  unfold State.enterFencing
  refine Keeps.foldl (keeps_endAll (keeps_modCtx h _ _ fun x _ => ?_) _ _) fun a x ha => keeps_endCmd ha ..
  show nextGen x.gen ≠ 0
  unfold nextGen
  split
  · decide
  · rename_i hx; bv_omega
theorem keeps_startCreate {s t : State} (h : Keeps s t) (x1) (x2) (x3) (x4) (x5) (x6) : KeepsP s (State.startCreate t x1 x2 x3 x4 x5 x6) := by
  unfold State.startCreate
  repeat' first
    | with_reducible assumption | exact Nat.le_refl _ | exact Nat.le_succ _ | with_reducible apply KeepsP.mk
    | (with_reducible apply KeepsP.fst; with_reducible apply keeps_doneBad) | with_reducible apply keeps_doneBad | with_reducible apply keeps_modCtx
    | with_reducible apply keeps_modSched | (with_reducible apply KeepsP.fst; with_reducible apply keeps_growFw) | with_reducible apply keeps_growFw
    | (with_reducible apply Keeps.put; with_reducible assumption) | (with_reducible apply Keeps.putCtxs; with_reducible assumption)
    | (with_reducible apply Keeps.put; first | (with_reducible apply KeepsP.fst; with_reducible apply keeps_doneBad) | with_reducible apply keeps_doneBad | with_reducible apply keeps_modCtx | with_reducible apply keeps_modSched | (with_reducible apply KeepsP.fst; with_reducible apply keeps_growFw) | with_reducible apply keeps_growFw)
    | (intro x hx; (try dsimp only); (repeat' split) <;> exact hx) | split
    | ((try lift_lets); intro z; refine Keeps.named (s := s) (z := z) ?_ ?_; (try subst z); rotate_left; intro hz; clear_value z)
    | ((try lift_lets); intro z; refine KeepsP.named (s := s) (z := z) ?_ ?_; (try subst z); rotate_left; intro hz; clear_value z)
    | (with_reducible apply KeepsP.fst; with_reducible apply KeepsP.mk) | (with_reducible apply KeepsP.fst; with_reducible assumption)
    | ((try lift_lets); intro z; clear_value z) | (with_reducible intro; with_reducible intros; try beta_reduce)
    | (refine KeepsP.elim (by with_reducible assumption) ?_)
theorem keeps_fenceCtx {s t : State} (h : Keeps s t) (x1) (x2) : Keeps s (State.fenceCtx t x1 x2) := by
  unfold State.fenceCtx
  with_reducible (apply keeps_endAll; apply keeps_modCtx; assumption)
  (with_reducible intro; with_reducible intros; try beta_reduce; try lift_lets); with_reducible assumption
theorem keeps_startFence {s t : State} (h : Keeps s t) (x1) (x2) : KeepsP s (State.startFence t x1 x2) := by
  unfold State.startFence
  with_reducible apply KeepsP.mk; split
  with_reducible (apply KeepsP.fst; apply keeps_doneOk; apply keeps_fenceCtx; assumption; apply keeps_fenceCtx; assumption)
theorem keeps_startUnfence {s t : State} (h : Keeps s t) (x1) : KeepsP s (State.startUnfence t x1) := by
  unfold State.startUnfence
  with_reducible (apply keeps_doneOk; apply keeps_modCtx; apply Keeps.foldl; assumption)
  (with_reducible intro; with_reducible intros; try beta_reduce; try lift_lets); with_reducible (apply keeps_endCmd; assumption)
  (with_reducible intro; with_reducible intros; try beta_reduce; try lift_lets); with_reducible assumption
theorem keeps_startDestroy {s t : State} (h : Keeps s t) (x1) : KeepsP s (State.startDestroy t x1) := by
  unfold State.startDestroy
  with_reducible (apply KeepsP.mk; apply keeps_enterFencing; assumption)
theorem keeps_enterScrubbing {s t : State} (h : Keeps s t) (x1) (x2) : Keeps s (State.enterScrubbing t x1 x2) := by
  unfold State.enterScrubbing
  repeat' first
    | with_reducible assumption | exact Nat.le_refl _ | exact Nat.le_succ _ | with_reducible apply keeps_modCtx
    | (with_reducible apply Keeps.put; with_reducible assumption) | (with_reducible apply Keeps.putCtxs; with_reducible assumption)
    | (with_reducible apply Keeps.put; first | with_reducible apply keeps_modCtx)
    | (intro x hx; (try dsimp only); (repeat' split) <;> first | exact hx | decide) | split
    | ((try lift_lets); intro z; refine Keeps.named (s := s) (z := z) ?_ ?_; (try subst z); rotate_left; intro hz; clear_value z)
    | ((try lift_lets); intro z; (have _ : z = t.free := by subst z; rfl); subst z) | ((try lift_lets); intro z; clear_value z)
    | (with_reducible intro; with_reducible intros; try beta_reduce) | dsimp only
theorem keeps_fencingDone {s t : State} (h : Keeps s t) (x1) : Keeps s (State.fencingDone t x1) := by
  unfold State.fencingDone
  split; with_reducible (assumption; apply Keeps.foldl; apply keeps_modCtx; assumption)
  (with_reducible intro; with_reducible intros; try beta_reduce; try lift_lets); with_reducible assumption
  (with_reducible intro; with_reducible intros; try beta_reduce; try lift_lets); with_reducible (apply keeps_sendOn; assumption)
theorem keeps_scrubCtx {s t : State} (h : Keeps s t) (x1) : Keeps s (State.scrubCtx t x1) := by
  unfold State.scrubCtx
  repeat' first
    | with_reducible assumption | exact Nat.le_refl _ | exact Nat.le_succ _ | with_reducible apply memWf_memClear | with_reducible apply memWf_foldl
    | with_reducible apply keeps_freePages | with_reducible apply keeps_setMem | with_reducible apply keeps_modMem
    | with_reducible apply keeps_modSched | with_reducible apply keeps_modRas | with_reducible apply keeps_dropEarly
    | with_reducible apply keeps_modPv | with_reducible apply Keeps.foldl | with_reducible apply KeepsP.foldl
    | (with_reducible apply KeepsP.fst; with_reducible apply KeepsP.foldl) | (with_reducible apply Keeps.put; with_reducible assumption)
    | (with_reducible apply Keeps.putCtxs; with_reducible assumption)
    | (with_reducible apply Keeps.put; first | with_reducible apply keeps_freePages | with_reducible apply keeps_setMem | with_reducible apply keeps_modMem | with_reducible apply keeps_modSched | with_reducible apply keeps_modRas | with_reducible apply keeps_dropEarly | with_reducible apply keeps_modPv | with_reducible apply Keeps.foldl)
    | (intro g; exact gensOk_map g _ (by intro x hx; exact hx)) | (intro x hx; (try dsimp only); (repeat' split) <;> first | exact hx | decide)
    | split | ((try lift_lets); intro z; refine Keeps.named (s := s) (z := z) ?_ ?_; (try subst z); rotate_left; intro hz; clear_value z)
    | ((try lift_lets); intro z; (have _ : z = t.free := by subst z; rfl); subst z) | ((try lift_lets); intro z; clear_value z)
    | (with_reducible intro; with_reducible intros; try beta_reduce) | dsimp only
theorem keeps_scrubDone {s t : State} (h : Keeps s t) (x1) : Keeps s (State.scrubDone t x1) := by
  unfold State.scrubDone
  split; with_reducible (assumption; apply Keeps.foldl); lift_lets
  (with_reducible intro; with_reducible intros; try beta_reduce; try lift_lets)
  with_reducible (apply Keeps.put; apply keeps_modMir; apply keeps_modCtx; apply keeps_scrubCtx; assumption)
  (with_reducible intro; with_reducible intros; try beta_reduce; try lift_lets); with_reducible (assumption; exact Nat.le_refl _)
  (with_reducible intro; with_reducible intros; try beta_reduce; try lift_lets); with_reducible (apply keeps_endCmd; assumption)
theorem keeps_execFenceComplete {s t : State} (h : Keeps s t) (x1) : KeepsX s (execFenceComplete x1 t) := by
  unfold execFenceComplete
  repeat' first
    | with_reducible assumption | exact KeepsX.refused | exact KeepsX.fault | with_reducible apply KeepsX.next | with_reducible apply keeps_placeAll
    | with_reducible apply keeps_endCmd | with_reducible apply Keeps.foldl | with_reducible apply KeepsP.foldl
    | (with_reducible apply KeepsP.fst; with_reducible apply KeepsP.foldl) | split
    | ((try lift_lets); intro z; refine Keeps.named (s := s) (z := z) ?_ ?_; (try subst z); rotate_left; intro hz; clear_value z)
    | ((try lift_lets); intro z; clear_value z) | (with_reducible intro; with_reducible intros; try beta_reduce)
theorem keeps_execTeardownFencingDone {s t : State} (h : Keeps s t) (x1) : KeepsX s (execTeardownFencingDone x1 t) := by
  unfold execTeardownFencingDone
  repeat' first
    | with_reducible assumption | exact KeepsX.refused | exact KeepsX.fault | with_reducible apply KeepsX.next | with_reducible apply keeps_placeAll
    | with_reducible apply keeps_fencingDone | split
    | ((try lift_lets); intro z; refine Keeps.named (s := s) (z := z) ?_ ?_; (try subst z); rotate_left; intro hz; clear_value z)
    | ((try lift_lets); intro z; clear_value z) | (with_reducible intro; with_reducible intros; try beta_reduce)
theorem keeps_execTeardownDrainDone {s t : State} (h : Keeps s t) (x1) : KeepsX s (execTeardownDrainDone x1 t) := by
  unfold execTeardownDrainDone
  repeat' first
    | with_reducible assumption | exact KeepsX.refused | exact KeepsX.fault | with_reducible apply KeepsX.next
    | with_reducible apply keeps_enterScrubbing | split
    | ((try lift_lets); intro z; refine Keeps.named (s := s) (z := z) ?_ ?_; (try subst z); rotate_left; intro hz; clear_value z)
    | ((try lift_lets); intro z; clear_value z) | (with_reducible intro; with_reducible intros; try beta_reduce)
theorem keeps_execTeardownForcedDrop {s t : State} (h : Keeps s t) (x1) : KeepsX s (execTeardownForcedDrop x1 t) := by
  unfold execTeardownForcedDrop
  repeat' first
    | with_reducible assumption | exact KeepsX.refused | exact KeepsX.fault | with_reducible apply KeepsX.next
    | with_reducible apply keeps_enterScrubbing | split
    | ((try lift_lets); intro z; refine Keeps.named (s := s) (z := z) ?_ ?_; (try subst z); rotate_left; intro hz; clear_value z)
    | ((try lift_lets); intro z; clear_value z) | (with_reducible intro; with_reducible intros; try beta_reduce)
theorem keeps_execTeardownScrubDone {s t : State} (h : Keeps s t) (x1) : KeepsX s (execTeardownScrubDone x1 t) := by
  unfold execTeardownScrubDone
  repeat' first
    | with_reducible assumption | exact KeepsX.refused | exact KeepsX.fault | with_reducible apply KeepsX.next | with_reducible apply keeps_placeAll
    | with_reducible apply keeps_scrubDone | split
    | ((try lift_lets); intro z; refine Keeps.named (s := s) (z := z) ?_ ?_; (try subst z); rotate_left; intro hz; clear_value z)
    | ((try lift_lets); intro z; clear_value z) | (with_reducible intro; with_reducible intros; try beta_reduce)
theorem keeps_execQuarantineEnd {s t : State} (h : Keeps s t) (x1) : KeepsX s (execQuarantineEnd x1 t) := by
  unfold execQuarantineEnd
  repeat' first
    | with_reducible assumption | exact KeepsX.refused | exact KeepsX.fault | with_reducible apply KeepsX.next | with_reducible apply keeps_modCtx
    | (intro x hx; (try dsimp only); (repeat' split) <;> exact hx) | split
    | ((try lift_lets); intro z; refine Keeps.named (s := s) (z := z) ?_ ?_; (try subst z); rotate_left; intro hz; clear_value z)
    | ((try lift_lets); intro z; clear_value z) | (with_reducible intro; with_reducible intros; try beta_reduce)

/-! ### Slices -/

theorem keeps_moveWork {s t : State} (h : Keeps s t) (x1) : Keeps s (State.moveWork t x1) := by
  unfold State.moveWork
  repeat' first
    | with_reducible assumption | with_reducible apply keeps_modCmd | with_reducible apply keeps_rollback | with_reducible apply Keeps.foldl
    | with_reducible apply KeepsP.foldl | (with_reducible apply KeepsP.fst; with_reducible apply KeepsP.foldl) | split
    | ((try lift_lets); intro z; refine Keeps.named (s := s) (z := z) ?_ ?_; (try subst z); rotate_left; intro hz; clear_value z)
    | ((try lift_lets); intro z; clear_value z) | (with_reducible intro; with_reducible intros; try beta_reduce)
theorem keeps_deviceReset {s t : State} (h : Keeps s t) (x1) (x2) (x3) (x4) : Keeps s (State.deviceReset t x1 x2 x3 x4) := by
  unfold State.deviceReset
  split; with_reducible (assumption; apply keeps_modRas; apply Keeps.foldl; apply keeps_modRas; apply keeps_raise; assumption)
  (with_reducible intro; with_reducible intros; try beta_reduce; try lift_lets); split
  with_reducible (apply keeps_fenceCtx; assumption; assumption)
theorem keeps_retireSlice {s t : State} (h : Keeps s t) (x1) (x2) (x3) : Keeps s (State.retireSlice t x1 x2 x3) := by
  unfold State.retireSlice
  split; with_reducible assumption; (dsimp +zetaDelta only; split)
  with_reducible (apply keeps_raiseRoot; apply keeps_retirePart; apply keeps_modRas; assumption); split
  with_reducible (apply keeps_modSlice; apply keeps_modRas; apply keeps_moveWork; apply keeps_raiseRoot; apply keeps_retirePart; apply keeps_modRas)
  with_reducible (assumption; apply keeps_deviceReset; apply keeps_moveWork; apply keeps_raiseRoot; apply keeps_retirePart; apply keeps_modRas)
  with_reducible (assumption)
theorem keeps_noteMismatch {s t : State} (h : Keeps s t) (x1) (x2) (x3) (x4) : Keeps s (State.noteMismatch t x1 x2 x3 x4) := by
  unfold State.noteMismatch
  (dsimp +zetaDelta only; split); split
  with_reducible (apply keeps_raiseRoot; apply keeps_ledgerAdd; apply keeps_count; assumption; apply keeps_ledgerAdd; apply keeps_count; assumption)
  split; split
  with_reducible (apply keeps_retireSlice; apply keeps_modRas; apply keeps_raiseRoot; apply keeps_ledgerAdd; apply keeps_count; assumption)
  with_reducible (apply keeps_modRas; apply keeps_raiseRoot; apply keeps_ledgerAdd; apply keeps_count; assumption); split
  with_reducible (apply keeps_retireSlice; apply keeps_modRas; apply keeps_ledgerAdd; apply keeps_count; assumption; apply keeps_modRas)
  with_reducible (apply keeps_ledgerAdd; apply keeps_count; assumption)

/-! ### Kernel -/

/-! ### Issue -/

theorem keeps_nameRecords {s t : State} (h : Keeps s t) (x1) : Keeps s (State.nameRecords t x1) := by
  exact keeps_modCtx h _ _ fun x hx => (gen_foldl (f := fun x (p : TenD × Nat) => x.nameRecord p.1 p.2 x1.kb.step) (fun _ _ => rfl) _ x).symm ▸ hx
theorem keeps_stageVals {s t : State} (h : Keeps s t) (x1) (x2) (x3) : Keeps s (State.stageVals t x1 x2 x3) := by
  unfold State.stageVals
  split; with_reducible assumption; split; split; with_reducible (apply keeps_modCmd; apply keeps_stageLst); lift_lets
  refine KeepsP.elim (by with_reducible assumption) ?_; with_reducible (apply keeps_landAll; assumption); (dsimp +zetaDelta only; split)
  with_reducible (apply keeps_modCmd; apply keeps_modCmd; apply keeps_stageLst); lift_lets
  refine KeepsP.elim (by with_reducible assumption) ?_
  with_reducible (apply keeps_landAll; assumption; apply keeps_modCmd; apply keeps_stageLst); lift_lets
  refine KeepsP.elim (by with_reducible assumption) ?_
  with_reducible (apply keeps_landAll; assumption; apply keeps_modCmd; apply keeps_modCmd; apply keeps_stageLst); lift_lets
  refine KeepsP.elim (by with_reducible assumption) ?_; with_reducible (apply keeps_landAll; assumption)
theorem keeps_stageKernel {s t : State} (h : Keeps s t) (x1) : Keeps s (State.stageKernel t x1) := by
  unfold State.stageKernel
  repeat' first
    | with_reducible assumption | with_reducible apply keeps_stageVals | split
    | ((try lift_lets); intro z; refine Keeps.named (s := s) (z := z) ?_ ?_; (try subst z); rotate_left; intro hz; clear_value z)
    | ((try lift_lets); intro z; clear_value z) | (with_reducible intro; with_reducible intros; try beta_reduce)
theorem keeps_dropFetches {s t : State} (h : Keeps s t) (x1) : Keeps s (State.dropFetches t x1) := by
  unfold State.dropFetches
  repeat' first
    | with_reducible assumption | with_reducible apply keeps_modSlice | with_reducible apply Keeps.foldl | with_reducible apply KeepsP.foldl
    | (with_reducible apply KeepsP.fst; with_reducible apply KeepsP.foldl) | split
    | ((try lift_lets); intro z; refine Keeps.named (s := s) (z := z) ?_ ?_; (try subst z); rotate_left; intro hz; clear_value z)
    | ((try lift_lets); intro z; clear_value z) | (with_reducible intro; with_reducible intros; try beta_reduce)
theorem keeps_startKernel {s t : State} (h : Keeps s t) (x1) : Keeps s (State.startKernel t x1) := by
  unfold State.startKernel
  repeat' first
    | with_reducible assumption | with_reducible apply keeps_failCid | with_reducible apply keeps_modCmd | with_reducible apply keeps_dropFetches
    | with_reducible apply keeps_nameRecords | with_reducible apply keeps_stageKernel | split
    | ((try lift_lets); intro z; refine Keeps.named (s := s) (z := z) ?_ ?_; (try subst z); rotate_left; intro hz; clear_value z)
    | ((try lift_lets); intro z; clear_value z) | (with_reducible intro; with_reducible intros; try beta_reduce)
theorem keeps_landFixed {s t : State} (h : Keeps s t) (x1) (x2) : Keeps s (State.landFixed t x1 x2) := by
  unfold State.landFixed
  repeat' first
    | with_reducible assumption | with_reducible apply KeepsP.mk | (with_reducible apply KeepsP.fst; with_reducible apply keeps_landAll)
    | with_reducible apply keeps_landAll | with_reducible apply keeps_writeCells | with_reducible apply keeps_stageLst
    | with_reducible apply keeps_modCmd | with_reducible apply keeps_mergeRecords | with_reducible apply Keeps.foldl
    | with_reducible apply KeepsP.foldl | (with_reducible apply KeepsP.fst; with_reducible apply KeepsP.foldl) | split
    | ((try lift_lets); intro z; refine Keeps.named (s := s) (z := z) ?_ ?_; (try subst z); rotate_left; intro hz; clear_value z)
    | ((try lift_lets); intro z; refine KeepsP.named (s := s) (z := z) ?_ ?_; (try subst z); rotate_left; intro hz; clear_value z)
    | (with_reducible apply KeepsP.fst; with_reducible apply KeepsP.mk) | (with_reducible apply KeepsP.fst; with_reducible assumption)
    | ((try lift_lets); intro z; clear_value z) | (with_reducible intro; with_reducible intros; try beta_reduce)
    | (refine KeepsP.elim (by with_reducible assumption) ?_)
theorem keeps_clearPoison {s t : State} (h : Keeps s t) (x1) (x2) : Keeps s (State.clearPoison t x1 x2) := by
  unfold State.clearPoison
  with_reducible (apply keeps_modPages; assumption)
theorem keeps_remapPage {s t : State} (h : Keeps s t) (x1) (x2) : Keeps s (State.remapPage t x1 x2) := by
  unfold State.remapPage
  repeat' first
    | with_reducible assumption | with_reducible apply keeps_modCmd | with_reducible apply keeps_modMem | with_reducible apply keeps_modPages
    | with_reducible apply Keeps.foldl | with_reducible apply KeepsP.foldl | (with_reducible apply KeepsP.fst; with_reducible apply KeepsP.foldl)
    | split | ((try lift_lets); intro z; refine Keeps.named (s := s) (z := z) ?_ ?_; (try subst z); rotate_left; intro hz; clear_value z)
    | ((try lift_lets); intro z; clear_value z) | (with_reducible intro; with_reducible intros; try beta_reduce)
theorem keeps_applyCommit {s t : State} (h : Keeps s t) (x1) : Keeps s (State.applyCommit t x1) := by
  unfold State.applyCommit
  repeat' first
    | with_reducible assumption | with_reducible apply keeps_remapPage | with_reducible apply keeps_clearPoison
    | with_reducible apply keeps_writeCells | with_reducible apply keeps_mergeRecords | with_reducible apply keeps_flipBanks
    | with_reducible apply keeps_addSem | with_reducible apply Keeps.foldl | with_reducible apply KeepsP.foldl
    | (with_reducible apply KeepsP.fst; with_reducible apply KeepsP.foldl) | split
    | ((try lift_lets); intro z; refine Keeps.named (s := s) (z := z) ?_ ?_; (try subst z); rotate_left; intro hz; clear_value z)
    | ((try lift_lets); intro z; clear_value z) | (with_reducible intro; with_reducible intros; try beta_reduce)
theorem keeps_commitKernel {s t : State} (h : Keeps s t) (x1) (x2) : Keeps s (State.commitKernel t x1 x2) := by
  unfold State.commitKernel
  repeat' first
    | with_reducible assumption | with_reducible apply keeps_endCmd | with_reducible apply keeps_applyCommit | split
    | ((try lift_lets); intro z; refine Keeps.named (s := s) (z := z) ?_ ?_; (try subst z); rotate_left; intro hz; clear_value z)
    | ((try lift_lets); intro z; clear_value z) | (with_reducible intro; with_reducible intros; try beta_reduce)
theorem keeps_endFixedKernel {s t : State} (h : Keeps s t) (x1) (x2) : Keeps s (State.endFixedKernel t x1 x2) := by
  unfold State.endFixedKernel
  split; split; with_reducible (apply keeps_endCmd; apply Keeps.foldl; apply keeps_flipBanks); split
  with_reducible (assumption; apply keeps_landFixed; assumption); (with_reducible intro; with_reducible intros; try beta_reduce; try lift_lets)
  with_reducible (apply keeps_addSem; assumption; apply keeps_endCmd; apply Keeps.foldl; apply keeps_flipBanks); split
  with_reducible (assumption; apply keeps_landFixed; assumption); (with_reducible intro; with_reducible intros; try beta_reduce; try lift_lets)
  with_reducible (apply keeps_addSem; assumption; assumption)
theorem keeps_killMismatch {s t : State} (h : Keeps s t) (x1) (x2) (x3) (x4) : Keeps s (State.killMismatch t x1 x2 x3 x4) := by
  unfold State.killMismatch
  split; (dsimp +zetaDelta only; split); with_reducible (apply keeps_failCid; apply keeps_noteMismatch); lift_lets
  with_reducible (apply Keeps.put; assumption; exact Nat.le_succ _; apply keeps_noteMismatch; apply keeps_modCmd; apply keeps_rollback)
  lift_lets; with_reducible (apply Keeps.put; assumption; exact Nat.le_succ _); (dsimp +zetaDelta only; split)
  with_reducible (apply keeps_failCid; apply keeps_noteMismatch); lift_lets
  with_reducible (apply Keeps.put; assumption; exact Nat.le_succ _; apply keeps_noteMismatch; apply keeps_modCmd; apply keeps_rollback)
  lift_lets; with_reducible (apply Keeps.put; assumption; exact Nat.le_succ _)
theorem keeps_landTile {s t : State} (h : Keeps s t) (x1) (x2) : Keeps s (State.landTile t x1 x2) := by
  unfold State.landTile
  repeat' first
    | with_reducible assumption | with_reducible apply keeps_modCmd | with_reducible apply keeps_landFixed | split
    | ((try lift_lets); intro z; refine Keeps.named (s := s) (z := z) ?_ ?_; (try subst z); rotate_left; intro hz; clear_value z)
    | ((try lift_lets); intro z; clear_value z) | (with_reducible intro; with_reducible intros; try beta_reduce)
theorem keeps_spoilTile {s t : State} (h : Keeps s t) (x1) (x2) : Keeps s (State.spoilTile t x1 x2) := by
  unfold State.spoilTile
  split
  · exact h
  · split
    · exact h
    · dsimp only
      have hk : ∀ n, Keeps s (State.mk t.mode t.mem t.memUnit t.ctxs t.vault t.rings t.sched t.slices t.dma t.tick t.fab t.cle t.jobs t.jobChanges t.pvs t.mir t.ras t.boot t.power t.pcie t.mgt t.serve t.cfgErr t.hostBank t.mgtBank t.fwBanks (t.free + n) t.pending) :=
        fun n => h.put (Nat.le_add_right _ _)
      split
      · exact keeps_writeCells (by rw [Nat.add_assoc]; exact hk _) ..
      · exact keeps_modCmd (by rw [Nat.add_assoc]; exact hk _) ..
theorem keeps_countSkips {s t : State} (h : Keeps s t) (x1) (x2) : Keeps s (State.countSkips t x1 x2) := by
  unfold State.countSkips
  repeat' first
    | with_reducible assumption | with_reducible apply keeps_modRas | split
    | ((try lift_lets); intro z; refine Keeps.named (s := s) (z := z) ?_ ?_; (try subst z); rotate_left; intro hz; clear_value z)
    | ((try lift_lets); intro z; clear_value z) | (with_reducible intro; with_reducible intros; try beta_reduce)
theorem keeps_recomputeTile {s t : State} (h : Keeps s t) (x1) (x2) (x3) : Keeps s (State.recomputeTile t x1 x2 x3) := by
  unfold State.recomputeTile
  repeat' first
    | with_reducible assumption | exact Nat.le_refl _ | exact Nat.le_succ _ | with_reducible apply keeps_modCmd | with_reducible apply keeps_modSlice
    | with_reducible apply keeps_countSkips | with_reducible apply keeps_landTile | with_reducible apply keeps_spoilTile
    | with_reducible apply keeps_noteMismatch | (with_reducible apply Keeps.put; with_reducible assumption)
    | (with_reducible apply Keeps.putCtxs; with_reducible assumption)
    | (with_reducible apply Keeps.put; first | with_reducible apply keeps_modCmd | with_reducible apply keeps_modSlice | with_reducible apply keeps_countSkips | with_reducible apply keeps_landTile | with_reducible apply keeps_spoilTile | with_reducible apply keeps_noteMismatch)
    | (intro x hx; (try dsimp only); (repeat' split) <;> exact hx) | split
    | ((try lift_lets); intro z; refine Keeps.named (s := s) (z := z) ?_ ?_; (try subst z); rotate_left; intro hz; clear_value z)
    | ((try lift_lets); intro z; clear_value z) | (with_reducible intro; with_reducible intros; try beta_reduce) | dsimp only
theorem keeps_replayIssue {s t : State} (h : Keeps s t) (x1) (x2) : Keeps s (State.replayIssue t x1 x2) := by
  unfold State.replayIssue
  repeat' first
    | with_reducible assumption | exact Nat.le_refl _ | exact Nat.le_succ _ | with_reducible apply keeps_count | with_reducible apply keeps_modSlice
    | with_reducible apply keeps_modCmd | with_reducible apply keeps_stageKernel | with_reducible apply Keeps.foldl
    | with_reducible apply KeepsP.foldl | (with_reducible apply KeepsP.fst; with_reducible apply KeepsP.foldl)
    | (with_reducible apply Keeps.put; with_reducible assumption) | (with_reducible apply Keeps.putCtxs; with_reducible assumption)
    | (with_reducible apply Keeps.put; first | with_reducible apply keeps_count | with_reducible apply keeps_modSlice | with_reducible apply keeps_modCmd | with_reducible apply keeps_stageKernel)
    | (intro x hx; (try dsimp only); (repeat' split) <;> exact hx) | split
    | ((try lift_lets); intro z; refine Keeps.named (s := s) (z := z) ?_ ?_; (try subst z); rotate_left; intro hz; clear_value z)
    | ((try lift_lets); intro z; clear_value z) | (with_reducible intro; with_reducible intros; try beta_reduce)
theorem keeps_starve {s t : State} (h : Keeps s t) (x1) : Keeps s (State.starve t x1) := by
  unfold State.starve
  repeat' first
    | with_reducible assumption | exact Nat.le_refl _ | exact Nat.le_succ _ | with_reducible apply keeps_count
    | (with_reducible apply Keeps.put; with_reducible assumption) | (with_reducible apply Keeps.putCtxs; with_reducible assumption)
    | (with_reducible apply Keeps.put; first | with_reducible apply keeps_count) | (intro x hx; (try dsimp only); (repeat' split) <;> exact hx)
    | split | ((try lift_lets); intro z; refine Keeps.named (s := s) (z := z) ?_ ?_; (try subst z); rotate_left; intro hz; clear_value z)
    | ((try lift_lets); intro z; clear_value z) | (with_reducible intro; with_reducible intros; try beta_reduce)
theorem keeps_drinkAll {s t : State} (h : Keeps s t) (x1) (x2) : Keeps s (State.drinkAll t x1 x2) := by
  unfold State.drinkAll
  repeat' first
    | with_reducible assumption | with_reducible apply keeps_modSlice | split
    | ((try lift_lets); intro z; refine Keeps.named (s := s) (z := z) ?_ ?_; (try subst z); rotate_left; intro hz; clear_value z)
    | ((try lift_lets); intro z; clear_value z) | (with_reducible intro; with_reducible intros; try beta_reduce)
theorem keeps_tileStart {s t : State} (h : Keeps s t) (x1) (x2) : Keeps s (State.tileStart t x1 x2) := by
  unfold State.tileStart
  repeat' first
    | with_reducible assumption | exact Nat.le_refl _ | exact Nat.le_succ _ | with_reducible apply keeps_starve | with_reducible apply keeps_drinkAll
    | with_reducible apply keeps_countSkips | with_reducible apply keeps_modSlice | with_reducible apply keeps_modCmd
    | with_reducible apply keeps_landTile | with_reducible apply keeps_spoilTile | with_reducible apply keeps_noteMismatch
    | with_reducible apply keeps_killMismatch | (with_reducible apply Keeps.put; with_reducible assumption)
    | (with_reducible apply Keeps.putCtxs; with_reducible assumption)
    | (with_reducible apply Keeps.put; first | with_reducible apply keeps_starve | with_reducible apply keeps_drinkAll | with_reducible apply keeps_countSkips | with_reducible apply keeps_modSlice | with_reducible apply keeps_modCmd | with_reducible apply keeps_landTile | with_reducible apply keeps_spoilTile | with_reducible apply keeps_noteMismatch | with_reducible apply keeps_killMismatch)
    | (intro x hx; (try dsimp only); (repeat' split) <;> exact hx) | split
    | ((try lift_lets); intro z; refine Keeps.named (s := s) (z := z) ?_ ?_; (try subst z); rotate_left; intro hz; clear_value z)
    | ((try lift_lets); intro z; clear_value z) | (with_reducible intro; with_reducible intros; try beta_reduce)
theorem keeps_execTileStart {s t : State} (h : Keeps s t) (x1) (x2) : KeepsX s (execTileStart x1 x2 t) := by
  unfold execTileStart
  repeat' first
    | with_reducible assumption | exact KeepsX.refused | exact KeepsX.fault | with_reducible apply KeepsX.next | with_reducible apply keeps_placeAll
    | with_reducible apply keeps_tileStart | split
    | ((try lift_lets); intro z; refine Keeps.named (s := s) (z := z) ?_ ?_; (try subst z); rotate_left; intro hz; clear_value z)
    | ((try lift_lets); intro z; clear_value z) | (with_reducible intro; with_reducible intros; try beta_reduce)
theorem keeps_execFixedTileRecompute {s t : State} (h : Keeps s t) (x1) (x2) (x3) : KeepsX s (execFixedTileRecompute x1 x2 x3 t) := by
  unfold execFixedTileRecompute
  repeat' first
    | with_reducible assumption | exact KeepsX.refused | exact KeepsX.fault | with_reducible apply KeepsX.next | with_reducible apply keeps_placeAll
    | with_reducible apply keeps_recomputeTile | split
    | ((try lift_lets); intro z; refine Keeps.named (s := s) (z := z) ?_ ?_; (try subst z); rotate_left; intro hz; clear_value z)
    | ((try lift_lets); intro z; clear_value z) | (with_reducible intro; with_reducible intros; try beta_reduce)

/-! ### Vault -/

theorem keeps_addKey {s t : State} (h : Keeps s t) (x1) (x2) : KeepsO s (State.addKey t x1 x2) := by
  unfold State.addKey
  split; with_reducible (exact KeepsO.none; apply KeepsO.some); lift_lets
  (with_reducible intro; with_reducible intros; try beta_reduce; try lift_lets)
  with_reducible (apply Keeps.put; assumption; exact Nat.le_refl _)
theorem keeps_takeFrames {s t : State} (h : Keeps s t) (x1) (x2) : KeepsP s (State.takeFrames t x1 x2) := by
  unfold State.takeFrames
  refine KeepsP.foldl (KeepsP.mk h) fun a x ha => ?_
  repeat' first
    | exact ha
    | split
    | exact KeepsP.mk (KeepsO.elim (by assumption) (keeps_resolvePage ha _ _))
theorem keeps_modImage {s t : State} (h : Keeps s t) (x1) (x2) : Keeps s (State.modImage t x1 x2) := by
  unfold State.modImage
  lift_lets; (with_reducible intro; with_reducible intros; try beta_reduce; try lift_lets)
  with_reducible (apply Keeps.put; assumption; exact Nat.le_refl _)
theorem keeps_startBegin {s t : State} (h : Keeps s t) (x1) (x2) (x3) (x4) : KeepsP s (State.startBegin t x1 x2 x3 x4) := by
  unfold State.startBegin
  with_reducible apply KeepsP.mk; split; with_reducible (apply KeepsP.fst; apply keeps_doneBad; assumption); (dsimp +zetaDelta only; split)
  split; with_reducible (apply KeepsP.fst; apply keeps_doneBad; assumption; apply KeepsP.fst; apply keeps_doneBad; assumption); split
  with_reducible (apply KeepsP.fst; apply keeps_doneBad; assumption; apply KeepsP.fst; apply keeps_doneOk; apply keeps_modImage; assumption)
theorem keeps_writeChunks {s t : State} (h : Keeps s t) (x1) (x2) (x3) (x4) (x5) (x6) : KeepsP s (State.writeChunks t x1 x2 x3 x4 x5 x6) := by
  induction x5 generalizing t x1 x2 x3 x4 x6 with
  | zero =>
    unfold State.writeChunks
    with_reducible (apply KeepsP.mk; assumption)
  | succ n ih =>
    unfold State.writeChunks
    with_reducible apply KeepsP.mk; split
    with_reducible (apply KeepsP.fst; apply ih; apply keeps_programmed; apply keeps_modImage; assumption; assumption)
theorem keeps_startChunks {s t : State} (h : Keeps s t) (x1) (x2) (x3) (x4) (x5) : KeepsP s (State.startChunks t x1 x2 x3 x4 x5) := by
  unfold State.startChunks
  repeat' first
    | with_reducible assumption | with_reducible apply KeepsP.mk | (with_reducible apply KeepsP.fst; with_reducible apply keeps_doneBad)
    | with_reducible apply keeps_doneBad | (with_reducible apply KeepsP.fst; with_reducible apply keeps_doneOk) | with_reducible apply keeps_doneOk
    | (with_reducible apply KeepsP.fst; with_reducible apply keeps_writeChunks) | with_reducible apply keeps_writeChunks
    | with_reducible apply keeps_modCmd | split
    | ((try lift_lets); intro z; refine Keeps.named (s := s) (z := z) ?_ ?_; (try subst z); rotate_left; intro hz; clear_value z)
    | ((try lift_lets); intro z; refine KeepsP.named (s := s) (z := z) ?_ ?_; (try subst z); rotate_left; intro hz; clear_value z)
    | (with_reducible apply KeepsP.fst; with_reducible apply KeepsP.mk) | (with_reducible apply KeepsP.fst; with_reducible assumption)
    | ((try lift_lets); intro z; clear_value z) | (with_reducible intro; with_reducible intros; try beta_reduce)
    | (refine KeepsP.elim (by with_reducible assumption) ?_)
theorem keeps_resumeHeld {s t : State} (h : Keeps s t) (x1) (x2) : Keeps s (State.resumeHeld t x1 x2) := by
  unfold State.resumeHeld
  with_reducible (apply Keeps.foldl; apply Keeps.foldl; assumption)
  (with_reducible intro; with_reducible intros; try beta_reduce; try lift_lets); with_reducible (apply keeps_dropFault; assumption)
  (with_reducible intro; with_reducible intros; try beta_reduce; try lift_lets); with_reducible (apply keeps_resumeAccess; assumption)
theorem keeps_countReads {s t : State} (h : Keeps s t) (x1) (x2) (x3) : Keeps s (State.countReads t x1 x2 x3) := by
  unfold State.countReads
  split
  · exact h
  · dsimp only
    repeat' first
      | exact h
      | split
      | apply keeps_count
theorem keeps_freshFrame {s t : State} (h : Keeps s t) (x1) (x2) : Keeps s (State.freshFrame t x1 x2) := by
  unfold State.freshFrame
  repeat' first
    | with_reducible assumption | exact KeepsO.none | with_reducible apply KeepsO.some | with_reducible apply keeps_placeBlock
    | (with_reducible apply KeepsO.getD; with_reducible apply keeps_bringT2) | with_reducible apply keeps_bringT2
    | with_reducible apply keeps_modPages | split
    | ((try lift_lets); intro z; refine Keeps.named (s := s) (z := z) ?_ ?_; (try subst z); rotate_left; intro hz; clear_value z)
    | ((try lift_lets); intro z; refine KeepsO.named (s := s) (z := z) ?_ ?_; (try subst z); rotate_left; intro hz; clear_value z)
    | ((try lift_lets); intro z; clear_value z) | (with_reducible intro; with_reducible intros; try beta_reduce)
    | (refine KeepsO.elim (by with_reducible assumption) ?_) | dsimp only
theorem keeps_recoverPage {s t : State} (h : Keeps s t) (x1) (x2) : Keeps s (State.recoverPage t x1 x2) := by
  unfold State.recoverPage
  repeat' first
    | with_reducible assumption | exact Nat.le_refl _ | exact Nat.le_succ _ | with_reducible apply keeps_countReads
    | with_reducible apply keeps_writeCtx | with_reducible apply keeps_resumeHeld | with_reducible apply keeps_freshFrame
    | with_reducible apply keeps_modPages | with_reducible apply keeps_modImage | with_reducible apply keeps_raise | with_reducible apply Keeps.foldl
    | with_reducible apply KeepsP.foldl | (with_reducible apply KeepsP.fst; with_reducible apply KeepsP.foldl)
    | (with_reducible apply Keeps.put; with_reducible assumption) | (with_reducible apply Keeps.putCtxs; with_reducible assumption)
    | (with_reducible apply Keeps.put; first | with_reducible apply keeps_countReads | with_reducible apply keeps_writeCtx | with_reducible apply keeps_resumeHeld | with_reducible apply keeps_freshFrame | with_reducible apply keeps_modPages | with_reducible apply keeps_modImage | with_reducible apply keeps_raise | with_reducible apply Keeps.foldl)
    | (intro g; exact gensOk_map g _ (by intro x hx; exact hx)) | (intro x hx; (try dsimp only); (repeat' split) <;> first | exact hx | decide)
    | split | ((try lift_lets); intro z; refine Keeps.named (s := s) (z := z) ?_ ?_; (try subst z); rotate_left; intro hz; clear_value z)
    | ((try lift_lets); intro z; (have _ : z = t.free := by subst z; rfl); subst z) | ((try lift_lets); intro z; clear_value z)
    | (with_reducible intro; with_reducible intros; try beta_reduce) | dsimp only
theorem keeps_retryWeights {s t : State} (h : Keeps s t) (x1) : Keeps s (State.retryWeights t x1) := by
  unfold State.retryWeights
  with_reducible (apply Keeps.foldl; assumption); (with_reducible intro; with_reducible intros; try beta_reduce; try lift_lets); split; split
  with_reducible (apply keeps_recoverPage; assumption; assumption; assumption)
theorem keeps_startInstallCommit {s t : State} (h : Keeps s t) (x1) : KeepsP s (State.startInstallCommit t x1) := by
  unfold State.startInstallCommit
  with_reducible apply KeepsP.mk; split
  with_reducible (apply KeepsP.fst; apply keeps_doneBad; assumption; apply KeepsP.fst; apply keeps_doneOk; apply keeps_modImage; assumption)
theorem keeps_startErase {s t : State} (h : Keeps s t) (x1) : KeepsP s (State.startErase t x1) := by
  unfold State.startErase
  with_reducible apply KeepsP.mk; split; with_reducible (assumption; apply KeepsP.fst; apply keeps_doneOk; apply keeps_modImage; assumption)
theorem keeps_startKeyAdd {s t : State} (h : Keeps s t) (x1) (x2) (x3) : KeepsP s (State.startKeyAdd t x1 x2 x3) := by
  unfold State.startKeyAdd
  with_reducible apply KeepsP.mk; split
  with_reducible (apply KeepsP.fst; apply keeps_doneBad; assumption; apply KeepsP.fst; apply keeps_doneOk); lift_lets
  refine KeepsO.elim (by with_reducible assumption) ?_; with_reducible (apply keeps_addKey; assumption)
theorem keeps_dropKey {s t : State} (h : Keeps s t) (x1) : Keeps s (State.dropKey t x1) := by
  unfold State.dropKey
  lift_lets; (with_reducible intro; with_reducible intros; try beta_reduce; try lift_lets)
  with_reducible (apply Keeps.put; assumption; exact Nat.le_refl _)
theorem keeps_modWslot {s t : State} (h : Keeps s t) (x1) (x2) (x3) : Keeps s (State.modWslot t x1 x2 x3) := by
  unfold State.modWslot
  with_reducible (apply keeps_modCtx; assumption); (with_reducible intro; with_reducible intros; try beta_reduce; try lift_lets)
  with_reducible assumption
theorem keeps_multicastChunks {s t : State} (h : Keeps s t) (x1) (x2) (x3) (x4) : Keeps s (State.multicastChunks t x1 x2 x3 x4) := by
  unfold State.multicastChunks
  repeat' first
    | with_reducible assumption | with_reducible apply keeps_send | with_reducible apply Keeps.foldl | with_reducible apply KeepsP.foldl
    | (with_reducible apply KeepsP.fst; with_reducible apply KeepsP.foldl) | with_reducible apply KeepsO.map | with_reducible apply KeepsO.mapVal
    | split | ((try lift_lets); intro z; refine Keeps.named (s := s) (z := z) ?_ ?_; (try subst z); rotate_left; intro hz; clear_value z)
    | ((try lift_lets); intro z; clear_value z) | (with_reducible intro; with_reducible intros; try beta_reduce)
theorem keeps_sendPresence {s t : State} (h : Keeps s t) (x1) (x2) : Keeps s (State.sendPresence t x1 x2) := by
  unfold State.sendPresence
  repeat' first
    | with_reducible assumption | with_reducible apply keeps_send | with_reducible apply Keeps.foldl | with_reducible apply KeepsP.foldl
    | (with_reducible apply KeepsP.fst; with_reducible apply KeepsP.foldl) | split
    | ((try lift_lets); intro z; refine Keeps.named (s := s) (z := z) ?_ ?_; (try subst z); rotate_left; intro hz; clear_value z)
    | ((try lift_lets); intro z; clear_value z) | (with_reducible intro; with_reducible intros; try beta_reduce)
theorem keeps_startLoad {s t : State} (h : Keeps s t) (x1) (x2) (x3) (x4) (x5) (x6) (x7) : KeepsP s (State.startLoad t x1 x2 x3 x4 x5 x6 x7) := by
  unfold State.startLoad
  repeat' first
    | with_reducible assumption | exact Nat.le_refl _ | exact Nat.le_succ _ | with_reducible apply KeepsP.mk | with_reducible apply keeps_countReads
    | with_reducible apply keeps_modWslot | with_reducible apply keeps_multicastChunks | with_reducible apply keeps_sendPresence
    | with_reducible apply keeps_modCmd | (with_reducible apply KeepsP.fst; with_reducible apply keeps_doneOk) | with_reducible apply keeps_doneOk
    | with_reducible apply Keeps.foldl | with_reducible apply KeepsP.foldl | (with_reducible apply KeepsP.fst; with_reducible apply KeepsP.foldl)
    | with_reducible apply KeepsO.map | with_reducible apply KeepsO.mapVal | (with_reducible apply Keeps.put; with_reducible assumption)
    | (with_reducible apply Keeps.putCtxs; with_reducible assumption)
    | (with_reducible apply Keeps.put; first | with_reducible apply keeps_countReads | with_reducible apply keeps_modWslot | with_reducible apply keeps_multicastChunks | with_reducible apply keeps_sendPresence | with_reducible apply keeps_modCmd | (with_reducible apply KeepsP.fst; with_reducible apply keeps_doneOk) | with_reducible apply keeps_doneOk)
    | (intro x hx; (try dsimp only); (repeat' split) <;> exact hx) | split
    | ((try lift_lets); intro z; refine Keeps.named (s := s) (z := z) ?_ ?_; (try subst z); rotate_left; intro hz; clear_value z)
    | ((try lift_lets); intro z; refine KeepsP.named (s := s) (z := z) ?_ ?_; (try subst z); rotate_left; intro hz; clear_value z)
    | (with_reducible apply KeepsP.fst; with_reducible apply KeepsP.mk) | (with_reducible apply KeepsP.fst; with_reducible assumption)
    | ((try lift_lets); intro z; clear_value z) | (with_reducible intro; with_reducible intros; try beta_reduce)
    | (refine KeepsP.elim (by with_reducible assumption) ?_)
theorem keeps_startPin {s t : State} (h : Keeps s t) (x1) (x2) : KeepsP s (State.startPin t x1 x2) := by
  unfold State.startPin
  with_reducible apply KeepsP.mk; split; with_reducible assumption; split; split
  with_reducible (apply KeepsP.fst; apply keeps_doneOk; assumption; apply KeepsP.fst; apply keeps_doneBad; assumption)
  (dsimp +zetaDelta only; split)
  with_reducible (apply KeepsP.fst; apply keeps_doneBad; assumption; apply KeepsP.fst; apply keeps_doneOk; apply keeps_modWslot; assumption)
theorem keeps_startUnpin {s t : State} (h : Keeps s t) (x1) (x2) (x3) : KeepsP s (State.startUnpin t x1 x2 x3) := by
  unfold State.startUnpin
  with_reducible apply KeepsP.mk; split
  with_reducible (apply KeepsP.fst; apply keeps_doneBad; assumption; apply KeepsP.fst; apply keeps_doneOk; apply keeps_modWslot; assumption)
theorem keeps_startSwitch {s t : State} (h : Keeps s t) (x1) (x2) : KeepsP s (State.startSwitch t x1 x2) := by
  unfold State.startSwitch
  with_reducible apply KeepsP.mk; split; with_reducible assumption; split
  with_reducible (apply KeepsP.fst; apply keeps_doneBad; assumption; apply KeepsP.fst; apply keeps_doneOk; apply keeps_modCtx; assumption)
  (with_reducible intro; with_reducible intros; try beta_reduce; try lift_lets); with_reducible assumption
theorem keeps_startDrop {s t : State} (h : Keeps s t) (x1) (x2) : KeepsP s (State.startDrop t x1 x2) := by
  unfold State.startDrop
  with_reducible apply KeepsP.mk; split
  with_reducible (apply KeepsP.fst; apply keeps_doneBad; assumption; apply KeepsP.fst; apply keeps_doneOk; apply keeps_modWslot; assumption)
theorem keeps_startKeelWrite {s t : State} (h : Keeps s t) (x1) (x2) : KeepsP s (State.startKeelWrite t x1 x2) := by
  unfold State.startKeelWrite
  with_reducible apply KeepsP.mk; split; with_reducible (apply KeepsP.fst; apply keeps_doneBad; assumption); split
  with_reducible (apply KeepsP.fst; apply keeps_doneBad; assumption; apply keeps_modCmd; assumption)
theorem keeps_startKeelRead {s t : State} (h : Keeps s t) (x1) (x2) : KeepsP s (State.startKeelRead t x1 x2) := by
  unfold State.startKeelRead
  with_reducible apply KeepsP.mk; split; with_reducible (apply KeepsP.fst; apply keeps_doneBad; assumption); split
  with_reducible (apply KeepsP.fst; apply keeps_doneBad; assumption); split
  with_reducible (apply KeepsP.fst; apply keeps_doneBad; assumption; apply keeps_modCmd; assumption)
theorem keeps_modKeel {s t : State} (h : Keeps s t) (x1) (x2) : Keeps s (State.modKeel t x1 x2) := by
  unfold State.modKeel
  lift_lets; (with_reducible intro; with_reducible intros; try beta_reduce; try lift_lets)
  with_reducible (apply Keeps.put; assumption; exact Nat.le_refl _)
theorem keeps_startKeelDrop {s t : State} (h : Keeps s t) (x1) : KeepsP s (State.startKeelDrop t x1) := by
  unfold State.startKeelDrop
  with_reducible (apply keeps_doneOk; apply keeps_modKeel; assumption)
theorem keeps_chunkArrives {s t : State} (h : Keeps s t) (x1) (x2) (x3) (x4) : Keeps s (State.chunkArrives t x1 x2 x3 x4) := by
  unfold State.chunkArrives
  with_reducible (apply Keeps.foldl; assumption); (with_reducible intro; with_reducible intros; try beta_reduce; try lift_lets)
  (dsimp +zetaDelta only; split); split; with_reducible (apply keeps_modCmd; assumption; assumption; assumption)
theorem keeps_vltQuotaFault {s t : State} (h : Keeps s t) (x1) (x2) : Keeps s (State.vltQuotaFault t x1 x2) := by
  unfold State.vltQuotaFault
  split; with_reducible (assumption; apply keeps_modCmd); lift_lets; with_reducible (apply KeepsP.fst; apply keeps_fault; assumption)
theorem keeps_countKeel {s t : State} (h : Keeps s t) (x1) (x2) : Keeps s (State.countKeel t x1 x2) := by
  unfold State.countKeel
  repeat' first
    | with_reducible assumption | with_reducible apply keeps_count | split
    | ((try lift_lets); intro z; refine Keeps.named (s := s) (z := z) ?_ ?_; (try subst z); rotate_left; intro hz; clear_value z)
    | ((try lift_lets); intro z; clear_value z) | (with_reducible intro; with_reducible intros; try beta_reduce) | dsimp only
theorem keeps_commitKeelRead {s t : State} (h : Keeps s t) (x1) (x2) : KeepsP s (State.commitKeelRead t x1 x2) := by
  unfold State.commitKeelRead
  repeat' first
    | with_reducible assumption | exact Nat.le_refl _ | exact Nat.le_succ _ | with_reducible apply KeepsP.mk | with_reducible apply keeps_countKeel
    | (with_reducible apply KeepsP.fst; with_reducible apply keeps_doneBad) | with_reducible apply keeps_doneBad | with_reducible apply keeps_modKeel
    | (with_reducible apply KeepsP.fst; with_reducible apply keeps_takeFrames) | with_reducible apply keeps_takeFrames
    | with_reducible apply keeps_vltQuotaFault | (with_reducible apply KeepsP.fst; with_reducible apply keeps_doneOk)
    | with_reducible apply keeps_doneOk | with_reducible apply keeps_writeCtx | with_reducible apply Keeps.foldl | with_reducible apply KeepsP.foldl
    | (with_reducible apply KeepsP.fst; with_reducible apply KeepsP.foldl) | (with_reducible apply Keeps.put; with_reducible assumption)
    | (with_reducible apply Keeps.putCtxs; with_reducible assumption)
    | (with_reducible apply Keeps.put; first | with_reducible apply keeps_countKeel | (with_reducible apply KeepsP.fst; with_reducible apply keeps_doneBad) | with_reducible apply keeps_doneBad | with_reducible apply keeps_modKeel | (with_reducible apply KeepsP.fst; with_reducible apply keeps_takeFrames) | with_reducible apply keeps_takeFrames | with_reducible apply keeps_vltQuotaFault | (with_reducible apply KeepsP.fst; with_reducible apply keeps_doneOk) | with_reducible apply keeps_doneOk | with_reducible apply keeps_writeCtx | with_reducible apply Keeps.foldl)
    | (intro g; exact gensOk_map g _ (by intro x hx; exact hx)) | (intro x hx; (try dsimp only); (repeat' split) <;> first | exact hx | decide)
    | split | ((try lift_lets); intro z; refine Keeps.named (s := s) (z := z) ?_ ?_; (try subst z); rotate_left; intro hz; clear_value z)
    | ((try lift_lets); intro z; refine KeepsP.named (s := s) (z := z) ?_ ?_; (try subst z); rotate_left; intro hz; clear_value z)
    | (with_reducible apply KeepsP.fst; with_reducible apply KeepsP.mk) | (with_reducible apply KeepsP.fst; with_reducible assumption)
    | ((try lift_lets); intro z; (have _ : z = t.free := by subst z; rfl); subst z) | ((try lift_lets); intro z; clear_value z)
    | (with_reducible intro; with_reducible intros; try beta_reduce) | (refine KeepsP.elim (by with_reducible assumption) ?_) | dsimp only
theorem keeps_commitKeelWrite {s t : State} (h : Keeps s t) (x1) (x2) (x3) (x4) : KeepsP s (State.commitKeelWrite t x1 x2 x3 x4) := by
  unfold State.commitKeelWrite
  with_reducible (apply keeps_doneOk; apply keeps_programmed; apply keeps_modKeel; assumption)
theorem keeps_gatherSome {s t : State} (h : Keeps s t) (x1) (x2) (x3) : Keeps s (State.gatherSome t x1 x2 x3) := by
  unfold State.gatherSome
  repeat' first
    | with_reducible assumption | exact Nat.le_refl _ | exact Nat.le_succ _ | with_reducible apply keeps_countReads
    | with_reducible apply keeps_modCmd | with_reducible apply Keeps.foldl | with_reducible apply KeepsP.foldl
    | (with_reducible apply KeepsP.fst; with_reducible apply KeepsP.foldl) | with_reducible apply KeepsO.map | with_reducible apply KeepsO.mapVal
    | (with_reducible apply Keeps.put; with_reducible assumption) | (with_reducible apply Keeps.putCtxs; with_reducible assumption)
    | (with_reducible apply Keeps.put; first | with_reducible apply keeps_countReads | with_reducible apply keeps_modCmd)
    | (intro x hx; (try dsimp only); (repeat' split) <;> exact hx) | split
    | ((try lift_lets); intro z; refine Keeps.named (s := s) (z := z) ?_ ?_; (try subst z); rotate_left; intro hz; clear_value z)
    | ((try lift_lets); intro z; clear_value z) | (with_reducible intro; with_reducible intros; try beta_reduce)
theorem keeps_gather {s t : State} (h : Keeps s t) (x1) (x2) : Keeps s (State.gather t x1 x2) := by
  unfold State.gather
  repeat' first
    | with_reducible assumption | with_reducible apply keeps_gatherSome | split
    | ((try lift_lets); intro z; refine Keeps.named (s := s) (z := z) ?_ ?_; (try subst z); rotate_left; intro hz; clear_value z)
    | ((try lift_lets); intro z; clear_value z) | (with_reducible intro; with_reducible intros; try beta_reduce)
theorem keeps_freshFrames {s t : State} (h : Keeps s t) (x1) (x2) : Keeps s (State.freshFrames t x1 x2) := by
  unfold State.freshFrames
  repeat' first
    | with_reducible assumption | with_reducible apply keeps_freshFrame | with_reducible apply Keeps.foldl | with_reducible apply KeepsP.foldl
    | (with_reducible apply KeepsP.fst; with_reducible apply KeepsP.foldl) | split
    | ((try lift_lets); intro z; refine Keeps.named (s := s) (z := z) ?_ ?_; (try subst z); rotate_left; intro hz; clear_value z)
    | ((try lift_lets); intro z; clear_value z) | (with_reducible intro; with_reducible intros; try beta_reduce) | dsimp only
theorem keeps_commitLoad {s t : State} (h : Keeps s t) (x1) (x2) (x3) : KeepsP s (State.commitLoad t x1 x2 x3) := by
  unfold State.commitLoad
  repeat' first
    | with_reducible assumption | with_reducible apply KeepsP.mk | with_reducible apply keeps_gather
    | (with_reducible apply KeepsP.fst; with_reducible apply keeps_doneBad) | with_reducible apply keeps_doneBad
    | (with_reducible apply KeepsP.fst; with_reducible apply keeps_takeFrames) | with_reducible apply keeps_takeFrames
    | with_reducible apply keeps_vltQuotaFault | with_reducible apply keeps_freshFrames | with_reducible apply keeps_writeCtx
    | with_reducible apply keeps_poisonPages | with_reducible apply keeps_modWslot
    | (with_reducible apply KeepsP.fst; with_reducible apply keeps_doneOk) | with_reducible apply keeps_doneOk | with_reducible apply Keeps.foldl
    | with_reducible apply KeepsP.foldl | (with_reducible apply KeepsP.fst; with_reducible apply KeepsP.foldl) | split
    | ((try lift_lets); intro z; refine Keeps.named (s := s) (z := z) ?_ ?_; (try subst z); rotate_left; intro hz; clear_value z)
    | ((try lift_lets); intro z; refine KeepsP.named (s := s) (z := z) ?_ ?_; (try subst z); rotate_left; intro hz; clear_value z)
    | (with_reducible apply KeepsP.fst; with_reducible apply KeepsP.mk) | (with_reducible apply KeepsP.fst; with_reducible assumption)
    | ((try lift_lets); intro z; clear_value z) | (with_reducible intro; with_reducible intros; try beta_reduce)
    | (refine KeepsP.elim (by with_reducible assumption) ?_) | dsimp only
theorem keeps_patrolChunk {s t : State} (h : Keeps s t) (x1) (x2) : Keeps s (State.patrolChunk t x1 x2) := by
  unfold State.patrolChunk
  repeat' first
    | with_reducible assumption | with_reducible apply keeps_count | with_reducible apply keeps_programmed | with_reducible apply keeps_modImage
    | split | ((try lift_lets); intro z; refine Keeps.named (s := s) (z := z) ?_ ?_; (try subst z); rotate_left; intro hz; clear_value z)
    | ((try lift_lets); intro z; clear_value z) | (with_reducible intro; with_reducible intros; try beta_reduce) | dsimp only
theorem keeps_weightTimeout {s t : State} (h : Keeps s t) (x1) : Keeps s (State.weightTimeout t x1) := by
  unfold State.weightTimeout
  repeat' first
    | with_reducible assumption | with_reducible apply keeps_failPart | split
    | ((try lift_lets); intro z; refine Keeps.named (s := s) (z := z) ?_ ?_; (try subst z); rotate_left; intro hz; clear_value z)
    | ((try lift_lets); intro z; clear_value z) | (with_reducible intro; with_reducible intros; try beta_reduce) | dsimp only
theorem keeps_execWeightSlotEmpty {s t : State} (h : Keeps s t) (x1) (x2) : KeepsX s (execWeightSlotEmpty x1 x2 t) := by
  unfold execWeightSlotEmpty
  repeat' first
    | with_reducible assumption | exact KeepsX.refused | exact KeepsX.fault | with_reducible apply KeepsX.next | with_reducible apply keeps_modWslot
    | split | ((try lift_lets); intro z; refine Keeps.named (s := s) (z := z) ?_ ?_; (try subst z); rotate_left; intro hz; clear_value z)
    | ((try lift_lets); intro z; clear_value z) | (with_reducible intro; with_reducible intros; try beta_reduce)
theorem keeps_execWgtSourceTimeout {s t : State} (h : Keeps s t) (x1) (x2) : KeepsX s (execWgtSourceTimeout x1 x2 t) := by
  unfold execWgtSourceTimeout
  repeat' first
    | with_reducible assumption | exact KeepsX.refused | exact KeepsX.fault | with_reducible apply KeepsX.next | with_reducible apply keeps_placeAll
    | with_reducible apply keeps_modCmd | split
    | ((try lift_lets); intro z; refine Keeps.named (s := s) (z := z) ?_ ?_; (try subst z); rotate_left; intro hz; clear_value z)
    | ((try lift_lets); intro z; clear_value z) | (with_reducible intro; with_reducible intros; try beta_reduce)
theorem keeps_execLoadGroupHolderTimeout {s t : State} (h : Keeps s t) (x1) : KeepsX s (execLoadGroupHolderTimeout x1 t) := by
  unfold execLoadGroupHolderTimeout
  repeat' first
    | with_reducible assumption | exact KeepsX.refused | exact KeepsX.fault | with_reducible apply KeepsX.next | with_reducible apply keeps_placeAll
    | with_reducible apply keeps_gather | split
    | ((try lift_lets); intro z; refine Keeps.named (s := s) (z := z) ?_ ?_; (try subst z); rotate_left; intro hz; clear_value z)
    | ((try lift_lets); intro z; clear_value z) | (with_reducible intro; with_reducible intros; try beta_reduce)
theorem keeps_execWeightPageRecovery {s t : State} (h : Keeps s t) (x1) (x2) : KeepsX s (execWeightPageRecovery x1 x2 t) := by
  unfold execWeightPageRecovery
  repeat' first
    | with_reducible assumption | exact KeepsX.refused | exact KeepsX.fault | with_reducible apply KeepsX.next
    | with_reducible apply keeps_recoverPage | split
    | ((try lift_lets); intro z; refine Keeps.named (s := s) (z := z) ?_ ?_; (try subst z); rotate_left; intro hz; clear_value z)
    | ((try lift_lets); intro z; clear_value z) | (with_reducible intro; with_reducible intros; try beta_reduce)
theorem keeps_execWeightUnavailableTimeout {s t : State} (h : Keeps s t) (x1) : KeepsX s (execWeightUnavailableTimeout x1 t) := by
  unfold execWeightUnavailableTimeout
  repeat' first
    | with_reducible assumption | exact KeepsX.refused | exact KeepsX.fault | with_reducible apply KeepsX.next | with_reducible apply keeps_placeAll
    | with_reducible apply keeps_weightTimeout | split
    | ((try lift_lets); intro z; refine Keeps.named (s := s) (z := z) ?_ ?_; (try subst z); rotate_left; intro hz; clear_value z)
    | ((try lift_lets); intro z; clear_value z) | (with_reducible intro; with_reducible intros; try beta_reduce)
theorem keeps_execVaultPatrol {s t : State} (h : Keeps s t) (x1) (x2) : KeepsX s (execVaultPatrol x1 x2 t) := by
  unfold execVaultPatrol
  repeat' first
    | with_reducible assumption | exact KeepsX.refused | exact KeepsX.fault | with_reducible apply KeepsX.next
    | with_reducible apply keeps_patrolChunk | with_reducible apply keeps_modKeel | with_reducible apply keeps_count
    | with_reducible apply Keeps.foldl | with_reducible apply KeepsP.foldl | (with_reducible apply KeepsP.fst; with_reducible apply KeepsP.foldl)
    | split | ((try lift_lets); intro z; refine Keeps.named (s := s) (z := z) ?_ ?_; (try subst z); rotate_left; intro hz; clear_value z)
    | ((try lift_lets); intro z; clear_value z) | (with_reducible intro; with_reducible intros; try beta_reduce) | dsimp only
theorem keeps_execThrottleLift {s t : State} (h : Keeps s t) (x1) : KeepsX s (execThrottleLift x1 t) := by
  unfold execThrottleLift
  repeat' first
    | with_reducible assumption | exact Nat.le_refl _ | exact Nat.le_succ _ | exact KeepsX.refused | exact KeepsX.fault
    | with_reducible apply KeepsX.next | (with_reducible apply Keeps.put; with_reducible assumption)
    | (with_reducible apply Keeps.putCtxs; with_reducible assumption) | (intro x hx; (try dsimp only); (repeat' split) <;> exact hx) | split
    | ((try lift_lets); intro z; refine Keeps.named (s := s) (z := z) ?_ ?_; (try subst z); rotate_left; intro hz; clear_value z)
    | ((try lift_lets); intro z; clear_value z) | (with_reducible intro; with_reducible intros; try beta_reduce)

end Sys2Proof.Machine
end

