-- ==== Sys2Proof/Laws/KeepsJob.lean ====
section
/-! SUPPORT. Every operation of collectives, links, the fabric, the mirror and the job keeps the queue, the canonical form of memory and the
generations of contexts, and takes back no draw (`Keeps`). The proofs follow the operations' own shape. -/
namespace Sys2Proof.Machine

/-! ### Collective -/

theorem keeps_closeWindow {s t : State} (h : Keeps s t) : Keeps s (State.closeWindow t) := by
  unfold State.closeWindow
  repeat' first
    | with_reducible assumption | exact Nat.le_refl _ | exact Nat.le_succ _ | with_reducible apply keeps_count
    | (with_reducible apply Keeps.put; with_reducible assumption) | (with_reducible apply Keeps.putCtxs; with_reducible assumption)
    | (with_reducible apply Keeps.put; first | with_reducible apply keeps_count) | (intro g; exact gensOk_map g _ (by intro x hx; exact hx))
    | (intro x hx; (try dsimp only); (repeat' split) <;> first | exact hx | decide) | split
    | ((try lift_lets); intro z; refine Keeps.named (s := s) (z := z) ?_ ?_; (try subst z); rotate_left; intro hz; clear_value z)
    | ((try lift_lets); intro z; (have _ : z = t.free := by subst z; rfl); subst z) | ((try lift_lets); intro z; clear_value z)
    | (with_reducible intro; with_reducible intros; try beta_reduce) | dsimp only
theorem keeps_fenceCommit {s t : State} (h : Keeps s t) (x1) (x2) (x3) : Keeps s (State.fenceCommit t x1 x2 x3) := by
  unfold State.fenceCommit
  repeat' first
    | with_reducible assumption
    | with_reducible exact Nat.le_refl _
    | with_reducible exact Nat.le_succ _
    | with_reducible exact Nat.le_add_right _ _
    | (with_reducible intro; with_reducible intros; try beta_reduce; try lift_lets)
    | with_reducible apply keeps_endCmd
    | with_reducible apply keeps_guardBoundary
    | with_reducible apply keeps_modCtx
    | with_reducible apply keeps_modPv
    | with_reducible apply keeps_retainOwn
    | with_reducible apply KeepsP.mk
    | with_reducible apply KeepsO.some
    | with_reducible exact KeepsO.none
    | with_reducible apply KeepsQ.mk
    | with_reducible exact KeepsE.error
    | with_reducible apply KeepsE.ok
    | with_reducible exact KeepsA.none
    | with_reducible exact KeepsA.error
    | with_reducible apply KeepsA.ok
    | with_reducible apply KeepsP.foldl
    | with_reducible apply Keeps.foldl
    | with_reducible apply KeepsO.getD
    | with_reducible apply KeepsO.map
    | with_reducible apply KeepsO.mapVal
    | split
    | (dsimp +zetaDelta only; split)
    | lift_lets
    | refine KeepsP.elim (by with_reducible assumption) ?_
    | refine KeepsQ.elim (by with_reducible assumption) ?_
    | refine KeepsO.elim (by with_reducible assumption) ?_
    | refine KeepsE.elim (by with_reducible assumption) ?_
    | refine KeepsA.elim (by with_reducible assumption) ?_
    | with_reducible apply KeepsP.fst
    | with_reducible apply KeepsQ.snd
    | with_reducible apply Keeps.put
    | assumption
theorem keeps_sendScalar {s t : State} (h : Keeps s t) (x1) (x2) (x3) (x4) (x5) : Keeps s (State.sendScalar t x1 x2 x3 x4 x5) := by
  unfold State.sendScalar
  repeat' first
    | with_reducible assumption | with_reducible apply KeepsP.mk | with_reducible apply keeps_failCid
    | (with_reducible apply KeepsP.fst; with_reducible apply keeps_trySend) | with_reducible apply keeps_trySend | split
    | ((try lift_lets); intro z; refine Keeps.named (s := s) (z := z) ?_ ?_; (try subst z); rotate_left; intro hz; clear_value z)
    | ((try lift_lets); intro z; refine KeepsP.named (s := s) (z := z) ?_ ?_; (try subst z); rotate_left; intro hz; clear_value z)
    | (with_reducible apply KeepsP.fst; with_reducible apply KeepsP.mk) | (with_reducible apply KeepsP.fst; with_reducible assumption)
    | ((try lift_lets); intro z; clear_value z) | (with_reducible intro; with_reducible intros; try beta_reduce)
    | (refine KeepsP.elim (by with_reducible assumption) ?_) | dsimp only
theorem keeps_fenceDown {s t : State} (h : Keeps s t) (x1) (x2) (x3) : Keeps s (State.fenceDown t x1 x2 x3) := by
  unfold State.fenceDown
  with_reducible (apply keeps_fenceCommit; apply Keeps.foldl; assumption)
  (with_reducible intro; with_reducible intros; try beta_reduce; try lift_lets); with_reducible (apply keeps_sendScalar; assumption)
theorem keeps_fenceUp {s t : State} (h : Keeps s t) (x1) (x2) (x3) : Keeps s (State.fenceUp t x1 x2 x3) := by
  unfold State.fenceUp
  split; split; with_reducible (apply keeps_fenceDown; assumption; apply keeps_sendScalar; assumption; assumption)
theorem keeps_takeScalar {s t : State} (h : Keeps s t) (x1) (x2) (x3) (x4) (x5) (x6) : Keeps s (State.takeScalar t x1 x2 x3 x4 x5 x6) := by
  unfold State.takeScalar
  split; split; split; with_reducible (assumption; apply keeps_fenceUp); lift_lets
  (with_reducible intro; with_reducible intros; try beta_reduce; try lift_lets)
  with_reducible (apply Keeps.put; assumption; exact Nat.le_refl _; apply keeps_fenceDown; assumption); lift_lets
  (with_reducible intro; with_reducible intros; try beta_reduce; try lift_lets)
  with_reducible (apply Keeps.put; assumption; exact Nat.le_refl _)
theorem keeps_fenceClose {s t : State} (h : Keeps s t) (x1) (x2) : Keeps s (State.fenceClose t x1 x2) := by
  unfold State.fenceClose
  split; with_reducible assumption; split; with_reducible assumption; split; with_reducible (apply keeps_endCmd; assumption); split
  with_reducible (apply keeps_fenceCommit; assumption; apply Keeps.foldl); lift_lets
  (with_reducible intro; with_reducible intros; try beta_reduce; try lift_lets); with_reducible (apply Keeps.put; apply keeps_fenceUp)
  lift_lets; with_reducible (apply Keeps.put; assumption; exact Nat.le_refl _; exact Nat.le_refl _)
  (with_reducible intro; with_reducible intros; try beta_reduce; try lift_lets); with_reducible (apply keeps_takeScalar; assumption)
theorem keeps_execStepFenceClose {s t : State} (h : Keeps s t) (x1) (x2) : KeepsX s (execStepFenceClose x1 x2 t) := by
  unfold execStepFenceClose
  repeat' first
    | with_reducible assumption | exact KeepsX.refused | exact KeepsX.fault | with_reducible apply KeepsX.next | with_reducible apply keeps_placeAll
    | with_reducible apply keeps_fenceClose | split
    | ((try lift_lets); intro z; refine Keeps.named (s := s) (z := z) ?_ ?_; (try subst z); rotate_left; intro hz; clear_value z)
    | ((try lift_lets); intro z; clear_value z) | (with_reducible intro; with_reducible intros; try beta_reduce) | dsimp only
theorem keeps_execCollectiveWindowClose {s t : State} (h : Keeps s t)  : KeepsX s (execCollectiveWindowClose t) := by
  unfold execCollectiveWindowClose
  with_reducible (apply KeepsX.next; apply keeps_closeWindow; assumption)
theorem keeps_pvCheck {s t : State} (h : Keeps s t) (x1) (x2) : KeepsP s (State.pvCheck t x1 x2) := by
  unfold State.pvCheck
  with_reducible apply KeepsP.mk; split; with_reducible assumption; split; with_reducible assumption; split; with_reducible assumption; split
  with_reducible (apply keeps_modPv; assumption; assumption)
theorem keeps_endSkew {s t : State} (h : Keeps s t) (x1) (x2) : Keeps s (State.endSkew t x1 x2) := by
  unfold State.endSkew
  with_reducible (apply keeps_failCmd; apply keeps_count; assumption)
theorem keeps_endColl {s t : State} (h : Keeps s t) (x1) (x2) (x3) : Keeps s (State.endColl t x1 x2 x3) := by
  unfold State.endColl
  split; with_reducible (assumption; apply keeps_failCmd; apply keeps_count; assumption)
theorem keeps_takeAbort {s t : State} (h : Keeps s t) (x1) (x2) (x3) (x4) : Keeps s (State.takeAbort t x1 x2 x3 x4) := by
  unfold State.takeAbort
  split; with_reducible (apply keeps_endColl; assumption); lift_lets
  (with_reducible intro; with_reducible intros; try beta_reduce; try lift_lets)
  with_reducible (apply Keeps.put; assumption; exact Nat.le_refl _)
theorem keeps_collTimeout {s t : State} (h : Keeps s t) (x1) (x2) : Keeps s (State.collTimeout t x1 x2) := by
  unfold State.collTimeout
  split; with_reducible assumption; split; split; with_reducible (apply keeps_endColl; assumption; assumption); split
  with_reducible (apply keeps_failCmd; assumption; assumption)
theorem keeps_execCollTimeout {s t : State} (h : Keeps s t) (x1) (x2) : KeepsX s (execCollTimeout x1 x2 t) := by
  unfold execCollTimeout
  repeat' first
    | with_reducible assumption | exact KeepsX.refused | exact KeepsX.fault | with_reducible apply KeepsX.next | with_reducible apply keeps_placeAll
    | with_reducible apply keeps_collTimeout | split
    | ((try lift_lets); intro z; refine Keeps.named (s := s) (z := z) ?_ ?_; (try subst z); rotate_left; intro hz; clear_value z)
    | ((try lift_lets); intro z; clear_value z) | (with_reducible intro; with_reducible intros; try beta_reduce) | dsimp only
theorem keeps_memberLost {s t : State} (h : Keeps s t) (x1) (x2) : Keeps s (State.memberLost t x1 x2) := by
  unfold State.memberLost
  repeat' first
    | with_reducible assumption | exact Nat.le_refl _ | exact Nat.le_succ _ | with_reducible apply keeps_endColl | with_reducible apply keeps_failCid
    | with_reducible apply Keeps.foldl | with_reducible apply KeepsP.foldl | (with_reducible apply KeepsP.fst; with_reducible apply KeepsP.foldl)
    | (with_reducible apply Keeps.put; with_reducible assumption) | (with_reducible apply Keeps.putCtxs; with_reducible assumption)
    | (with_reducible apply Keeps.put; first | with_reducible apply keeps_endColl | with_reducible apply keeps_failCid | with_reducible apply Keeps.foldl)
    | (intro x hx; (try dsimp only); (repeat' split) <;> first | exact hx | decide) | split
    | ((try lift_lets); intro z; refine Keeps.named (s := s) (z := z) ?_ ?_; (try subst z); rotate_left; intro hz; clear_value z)
    | ((try lift_lets); intro z; (have _ : z = t.free := by subst z; rfl); subst z) | ((try lift_lets); intro z; clear_value z)
    | (with_reducible intro; with_reducible intros; try beta_reduce) | dsimp only
theorem keeps_modColl {s t : State} (h : Keeps s t) (x1) (x2) : Keeps s (State.modColl t x1 x2) := by
  unfold State.modColl
  lift_lets; (with_reducible intro; with_reducible intros; try beta_reduce; try lift_lets)
  with_reducible (apply Keeps.put; assumption; exact Nat.le_refl _)
theorem keeps_noteWritten {s t : State} (h : Keeps s t) (x1) (x2) : Keeps s (State.noteWritten t x1 x2) := by
  unfold State.noteWritten
  (dsimp +zetaDelta only; split); with_reducible (apply keeps_modColl; assumption; apply keeps_modCmd; apply keeps_modColl; assumption)
theorem keeps_writeElems {s t : State} (h : Keeps s t) (x1) (x2) : Keeps s (State.writeElems t x1 x2) := by
  unfold State.writeElems
  split; with_reducible (assumption; apply keeps_noteWritten); split; with_reducible (apply Keeps.foldl; assumption)
  (with_reducible intro; with_reducible intros; try beta_reduce; try lift_lets)
  with_reducible (apply keeps_writeCells; assumption; apply keeps_modCmd; assumption)
theorem keeps_takeData {s t : State} (h : Keeps s t) (x1) (x2) (x3) : Keeps s (State.takeData t x1 x2 x3) := by
  unfold State.takeData
  split; with_reducible (assumption; apply keeps_modColl; apply keeps_writeElems; assumption)
theorem keeps_shareRoots {s t : State} (h : Keeps s t) (x1) (x2) (x3) : Keeps s (State.shareRoots t x1 x2 x3) := by
  unfold State.shareRoots
  split; with_reducible (assumption; apply keeps_modColl; assumption)
theorem keeps_convertRoots {s t : State} (h : Keeps s t) (x1) : Keeps s (State.convertRoots t x1) := by
  unfold State.convertRoots
  split; split; with_reducible assumption; split; split; split; (dsimp +zetaDelta only; split)
  with_reducible (assumption; apply keeps_shareRoots; apply keeps_noteWritten; apply keeps_landFixed; assumption)
  (dsimp +zetaDelta only; split); with_reducible (assumption; apply keeps_noteWritten; apply keeps_landFixed; assumption); split
  (dsimp +zetaDelta only; split); with_reducible assumption; split; with_reducible (apply keeps_stageVals; assumption); split
  with_reducible (apply keeps_modCmd; apply keeps_stageVals; assumption; apply keeps_shareRoots; apply keeps_noteWritten; apply keeps_stageVals)
  with_reducible (assumption); (dsimp +zetaDelta only; split); with_reducible assumption; split
  with_reducible (apply keeps_stageVals; assumption); split
  with_reducible (apply keeps_modCmd; apply keeps_stageVals; assumption; apply keeps_noteWritten; apply keeps_stageVals; assumption); split
  split; (dsimp +zetaDelta only; split)
  with_reducible (assumption; apply keeps_shareRoots; apply keeps_noteWritten; apply keeps_landFixed; assumption)
  (dsimp +zetaDelta only; split); with_reducible (assumption; apply keeps_noteWritten; apply keeps_landFixed; assumption); split
  (dsimp +zetaDelta only; split); with_reducible assumption; split; with_reducible (apply keeps_stageVals; assumption); split
  with_reducible (apply keeps_modCmd; apply keeps_stageVals; assumption; apply keeps_shareRoots; apply keeps_noteWritten; apply keeps_stageVals)
  with_reducible (assumption); (dsimp +zetaDelta only; split); with_reducible assumption; split
  with_reducible (apply keeps_stageVals; assumption); split
  with_reducible (apply keeps_modCmd; apply keeps_stageVals; assumption; apply keeps_noteWritten; apply keeps_stageVals; assumption; assumption)
theorem keeps_takeNode {s t : State} (h : Keeps s t) (x1) (x2) (x3) (x4) (x5) : Keeps s (State.takeNode t x1 x2 x3 x4 x5) := by
  unfold State.takeNode
  split; with_reducible (assumption; apply keeps_convertRoots; apply keeps_modColl); split; split
  with_reducible (apply keeps_count; assumption; assumption); split; with_reducible (apply keeps_count; assumption; assumption)
theorem keeps_sendColl {s t : State} (h : Keeps s t) (x1) (x2) : KeepsP s (State.sendColl t x1 x2) := by
  induction x2 generalizing t x1 with
  | nil =>
    unfold State.sendColl
    with_reducible (apply KeepsP.mk; assumption)
  | cons y l ih =>
    unfold State.sendColl
    with_reducible apply KeepsP.mk; split; with_reducible (apply KeepsP.fst; apply ih; assumption); split; split
    with_reducible (apply KeepsP.fst; apply ih; apply keeps_modCmd; apply keeps_count); lift_lets
    refine KeepsP.elim (by with_reducible assumption) ?_; with_reducible (apply keeps_trySend; assumption); split
    refine KeepsP.elim (by with_reducible assumption) ?_; with_reducible (apply ih; assumption)
theorem keeps_cleSend {s t : State} (h : Keeps s t) : Keeps s (State.cleSend t) := by
  unfold State.cleSend
  repeat' first
    | with_reducible assumption | with_reducible apply KeepsP.mk | with_reducible apply keeps_endColl
    | (with_reducible apply KeepsP.fst; with_reducible apply keeps_sendColl) | with_reducible apply keeps_sendColl
    | with_reducible apply keeps_modColl | with_reducible apply Keeps.foldl | with_reducible apply KeepsP.foldl
    | (with_reducible apply KeepsP.fst; with_reducible apply KeepsP.foldl) | split
    | ((try lift_lets); intro z; refine Keeps.named (s := s) (z := z) ?_ ?_; (try subst z); rotate_left; intro hz; clear_value z)
    | ((try lift_lets); intro z; refine KeepsP.named (s := s) (z := z) ?_ ?_; (try subst z); rotate_left; intro hz; clear_value z)
    | (with_reducible apply KeepsP.fst; with_reducible apply KeepsP.mk) | (with_reducible apply KeepsP.fst; with_reducible assumption)
    | ((try lift_lets); intro z; clear_value z) | (with_reducible intro; with_reducible intros; try beta_reduce)
    | (refine KeepsP.elim (by with_reducible assumption) ?_) | dsimp only
theorem keeps_execCollectiveWindowOpen {s t : State} (h : Keeps s t)  : KeepsX s (execCollectiveWindowOpen t) := by
  unfold execCollectiveWindowOpen
  with_reducible (apply KeepsX.next; apply keeps_placeAll); split; with_reducible (assumption; apply keeps_cleSend; apply Keeps.foldl)
  lift_lets; (with_reducible intro; with_reducible intros; try beta_reduce; try lift_lets)
  with_reducible (apply Keeps.put; assumption; exact Nat.le_refl _)
  (with_reducible intro; with_reducible intros; try beta_reduce; try lift_lets); with_reducible (apply keeps_pump; assumption)
theorem keeps_replayColl {s t : State} (h : Keeps s t) (x1) (x2) : Keeps s (State.replayColl t x1 x2) := by
  unfold State.replayColl
  split; with_reducible (apply keeps_cleSend; apply keeps_convertRoots); lift_lets
  with_reducible (apply Keeps.put; apply keeps_modCmd; assumption; exact Nat.le_succ _; assumption)
theorem keeps_execReplayIssue {s t : State} (h : Keeps s t) (x1) (x2) : KeepsX s (execReplayIssue x1 x2 t) := by
  unfold execReplayIssue
  repeat' first
    | with_reducible assumption | exact KeepsX.refused | exact KeepsX.fault | with_reducible apply KeepsX.next | with_reducible apply keeps_placeAll
    | with_reducible apply keeps_replayColl | with_reducible apply keeps_replayIssue | split
    | ((try lift_lets); intro z; refine Keeps.named (s := s) (z := z) ?_ ?_; (try subst z); rotate_left; intro hz; clear_value z)
    | ((try lift_lets); intro z; clear_value z) | (with_reducible intro; with_reducible intros; try beta_reduce) | dsimp only
theorem keeps_takePacket {s t : State} (h : Keeps s t) (x1) (x2) (x3) (x4) (x5) (x6) : Keeps s (State.takePacket t x1 x2 x3 x4 x5 x6) := by
  unfold State.takePacket
  repeat' first
    | with_reducible assumption | with_reducible apply keeps_modCmd | with_reducible apply keeps_takeNode | with_reducible apply keeps_takeData
    | split | ((try lift_lets); intro z; refine Keeps.named (s := s) (z := z) ?_ ?_; (try subst z); rotate_left; intro hz; clear_value z)
    | ((try lift_lets); intro z; clear_value z) | (with_reducible intro; with_reducible intros; try beta_reduce) | dsimp only
theorem keeps_startColl {s t : State} (h : Keeps s t) (x1) : Keeps s (State.startColl t x1) := by
  unfold State.startColl
  repeat' first
    | with_reducible assumption | exact Nat.le_refl _ | exact Nat.le_succ _ | with_reducible apply KeepsP.mk
    | (with_reducible apply KeepsP.fst; with_reducible apply keeps_pvCheck) | with_reducible apply keeps_pvCheck | with_reducible apply keeps_endSkew
    | with_reducible apply keeps_endColl | with_reducible apply keeps_nameRecords
    | (with_reducible apply KeepsP.fst; with_reducible apply keeps_takeFrames) | with_reducible apply keeps_takeFrames
    | with_reducible apply keeps_modColl | with_reducible apply keeps_writeElems | with_reducible apply keeps_takeData
    | with_reducible apply keeps_convertRoots | with_reducible apply keeps_dropEarly | with_reducible apply keeps_takePacket
    | with_reducible apply keeps_cleSend | with_reducible apply Keeps.foldl | with_reducible apply KeepsP.foldl
    | (with_reducible apply KeepsP.fst; with_reducible apply KeepsP.foldl) | (with_reducible apply Keeps.put; with_reducible assumption)
    | (with_reducible apply Keeps.putCtxs; with_reducible assumption)
    | (with_reducible apply Keeps.put; first | (with_reducible apply KeepsP.fst; with_reducible apply keeps_pvCheck) | with_reducible apply keeps_pvCheck | with_reducible apply keeps_endSkew | with_reducible apply keeps_endColl | with_reducible apply keeps_nameRecords | (with_reducible apply KeepsP.fst; with_reducible apply keeps_takeFrames) | with_reducible apply keeps_takeFrames | with_reducible apply keeps_modColl | with_reducible apply keeps_writeElems | with_reducible apply keeps_takeData | with_reducible apply keeps_convertRoots | with_reducible apply keeps_dropEarly | with_reducible apply keeps_takePacket | with_reducible apply keeps_cleSend | with_reducible apply Keeps.foldl)
    | (intro g; exact gensOk_map g _ (by intro x hx; exact hx)) | (intro x hx; (try dsimp only); (repeat' split) <;> first | exact hx | decide)
    | split | ((try lift_lets); intro z; refine Keeps.named (s := s) (z := z) ?_ ?_; (try subst z); rotate_left; intro hz; clear_value z)
    | ((try lift_lets); intro z; refine KeepsP.named (s := s) (z := z) ?_ ?_; (try subst z); rotate_left; intro hz; clear_value z)
    | (with_reducible apply KeepsP.fst; with_reducible apply KeepsP.mk) | (with_reducible apply KeepsP.fst; with_reducible assumption)
    | ((try lift_lets); intro z; (have _ : z = t.free := by subst z; rfl); subst z) | ((try lift_lets); intro z; clear_value z)
    | (with_reducible intro; with_reducible intros; try beta_reduce) | (refine KeepsP.elim (by with_reducible assumption) ?_) | dsimp only
theorem keeps_recordJob {s t : State} (h : Keeps s t) (x1) : Keeps s (State.recordJob t x1) := by
  unfold State.recordJob
  split; lift_lets; (with_reducible intro; with_reducible intros; try beta_reduce; try lift_lets)
  with_reducible (apply Keeps.put; assumption; exact Nat.le_refl _; assumption)
theorem keeps_commitColl {s t : State} (h : Keeps s t) (x1) (x2) : Keeps s (State.commitColl t x1 x2) := by
  unfold State.commitColl
  repeat' first
    | with_reducible assumption | with_reducible apply KeepsP.mk | (with_reducible apply KeepsP.fst; with_reducible apply keeps_pvCheck)
    | with_reducible apply keeps_pvCheck | with_reducible apply keeps_endSkew | with_reducible apply keeps_recordJob
    | with_reducible apply keeps_endCmd | with_reducible apply keeps_applyCommit | split
    | ((try lift_lets); intro z; refine Keeps.named (s := s) (z := z) ?_ ?_; (try subst z); rotate_left; intro hz; clear_value z)
    | ((try lift_lets); intro z; refine KeepsP.named (s := s) (z := z) ?_ ?_; (try subst z); rotate_left; intro hz; clear_value z)
    | (with_reducible apply KeepsP.fst; with_reducible apply KeepsP.mk) | (with_reducible apply KeepsP.fst; with_reducible assumption)
    | ((try lift_lets); intro z; clear_value z) | (with_reducible intro; with_reducible intros; try beta_reduce)
    | (refine KeepsP.elim (by with_reducible assumption) ?_) | dsimp only

/-! ### Links -/

theorem keeps_ackFlits {s t : State} (h : Keeps s t) (x1) (x2) : Keeps s (State.ackFlits t x1 x2) := by
  unfold State.ackFlits
  split; with_reducible (apply keeps_count; apply keeps_modLink; apply keeps_modLink; assumption; apply keeps_modLink; assumption)
theorem keeps_authDone {s t : State} (h : Keeps s t) (x1) (x2) : Keeps s (State.authDone t x1 x2) := by
  unfold State.authDone
  split; with_reducible assumption; split; with_reducible (apply keeps_modLink; assumption; apply keeps_raise; assumption)
theorem keeps_holderLost {s t : State} (h : Keeps s t) (x1) : Keeps s (State.holderLost t x1) := by
  unfold State.holderLost
  repeat' first
    | with_reducible assumption | exact Nat.le_refl _ | exact Nat.le_succ _ | with_reducible apply keeps_gatherSome | with_reducible apply Keeps.foldl
    | with_reducible apply KeepsP.foldl | (with_reducible apply KeepsP.fst; with_reducible apply KeepsP.foldl)
    | (with_reducible apply Keeps.put; with_reducible assumption) | (with_reducible apply Keeps.putCtxs; with_reducible assumption)
    | (with_reducible apply Keeps.put; first | with_reducible apply keeps_gatherSome | with_reducible apply Keeps.foldl)
    | (intro x hx; (try dsimp only); (repeat' split) <;> exact hx) | split
    | ((try lift_lets); intro z; refine Keeps.named (s := s) (z := z) ?_ ?_; (try subst z); rotate_left; intro hz; clear_value z)
    | ((try lift_lets); intro z; (have _ : z = t.free := by subst z; rfl); subst z) | ((try lift_lets); intro z; clear_value z)
    | (with_reducible intro; with_reducible intros; try beta_reduce) | dsimp only
theorem keeps_peerGone {s t : State} (h : Keeps s t) (x1) : Keeps s (State.peerGone t x1) := by
  unfold State.peerGone
  repeat' first
    | with_reducible assumption | with_reducible apply keeps_freeLent | with_reducible apply keeps_holderLost | with_reducible apply keeps_lenderLost
    | split | ((try lift_lets); intro z; refine Keeps.named (s := s) (z := z) ?_ ?_; (try subst z); rotate_left; intro hz; clear_value z)
    | ((try lift_lets); intro z; clear_value z) | (with_reducible intro; with_reducible intros; try beta_reduce) | dsimp only
theorem keeps_noteFailed {s t : State} (h : Keeps s t) (x1) : Keeps s (State.noteFailed t x1) := by
  unfold State.noteFailed
  (dsimp +zetaDelta only; split); with_reducible (assumption; apply Keeps.put; assumption; exact Nat.le_refl _)
theorem keeps_killAffected {s t : State} (h : Keeps s t) (x1) : Keeps s (State.killAffected t x1) := by
  unfold State.killAffected
  repeat' first
    | with_reducible assumption | with_reducible apply keeps_endAll | with_reducible apply keeps_modCtx | with_reducible apply Keeps.foldl
    | with_reducible apply KeepsP.foldl | (with_reducible apply KeepsP.fst; with_reducible apply KeepsP.foldl)
    | (intro x hx; (try dsimp only); (repeat' split) <;> exact hx) | split
    | ((try lift_lets); intro z; refine Keeps.named (s := s) (z := z) ?_ ?_; (try subst z); rotate_left; intro hz; clear_value z)
    | ((try lift_lets); intro z; clear_value z) | (with_reducible intro; with_reducible intros; try beta_reduce) | dsimp only
theorem keeps_beat {s t : State} (h : Keeps s t) (x1) (x2) : Keeps s (State.beat t x1 x2) := by
  unfold State.beat
  split; split; with_reducible (apply keeps_modLink; assumption); (dsimp +zetaDelta only; split)
  with_reducible (apply keeps_peerGone; apply keeps_noteFailed; apply keeps_killAffected; apply keeps_memberLost; apply keeps_modLink)
  with_reducible (apply keeps_raiseRoot); split
  with_reducible (apply keeps_modLink; apply keeps_modLink; assumption; apply keeps_modLink; assumption); split
  with_reducible (apply keeps_modLink; apply keeps_modLink; assumption; apply keeps_modLink; assumption); split; with_reducible assumption
  (dsimp +zetaDelta only; split)
  with_reducible (apply keeps_peerGone; apply keeps_noteFailed; apply keeps_killAffected; apply keeps_memberLost; apply keeps_modLink)
  with_reducible (apply keeps_raiseRoot); split; with_reducible (apply keeps_modLink; assumption; assumption); split
  with_reducible (apply keeps_modLink; assumption; assumption)
theorem keeps_spareOp {s t : State} (h : Keeps s t) (x1) (x2) : Keeps s (State.spareOp t x1 x2) := by
  unfold State.spareOp
  split; with_reducible (apply keeps_modLink; assumption); split; with_reducible (apply keeps_modLink; assumption; assumption)
theorem keeps_timeTransfer {s t : State} (h : Keeps s t) (x1) (x2) : Keeps s (State.timeTransfer t x1 x2) := by
  unfold State.timeTransfer
  split; with_reducible assumption; split; (dsimp +zetaDelta only; split); split
  with_reducible (apply Keeps.put; assumption; exact Nat.le_refl _; apply Keeps.put; assumption; exact Nat.le_refl _); split
  with_reducible (apply Keeps.put; assumption; exact Nat.le_refl _; apply Keeps.put; assumption; exact Nat.le_refl _)
  (dsimp +zetaDelta only; split); split
  with_reducible (apply Keeps.put; assumption; exact Nat.le_refl _; apply Keeps.put; assumption; exact Nat.le_refl _); split
  with_reducible (apply Keeps.put; assumption; exact Nat.le_refl _; apply Keeps.put; assumption; exact Nat.le_refl _)
theorem keeps_retireLane {s t : State} (h : Keeps s t) (x1) (x2) : Keeps s (State.retireLane t x1 x2) := by
  unfold State.retireLane
  split; with_reducible (apply keeps_retirePart; apply keeps_modLink; assumption; assumption)
theorem keeps_execHoldoverAlarm {s t : State} (h : Keeps s t)  : KeepsX s (execHoldoverAlarm t) := by
  unfold execHoldoverAlarm
  with_reducible apply KeepsX.next; split; with_reducible (apply keeps_raise; assumption; assumption)
theorem keeps_execLinkSignalFound {s t : State} (h : Keeps s t) (x1) : KeepsX s (execLinkSignalFound x1 t) := by
  unfold execLinkSignalFound
  repeat' first
    | with_reducible assumption | exact KeepsX.refused | exact KeepsX.fault | with_reducible apply KeepsX.next | with_reducible apply keeps_modLink
    | split | ((try lift_lets); intro z; refine Keeps.named (s := s) (z := z) ?_ ?_; (try subst z); rotate_left; intro hz; clear_value z)
    | ((try lift_lets); intro z; clear_value z) | (with_reducible intro; with_reducible intros; try beta_reduce) | dsimp only
theorem keeps_execLinkTrainDone {s t : State} (h : Keeps s t) (x1) (x2) : KeepsX s (execLinkTrainDone x1 x2 t) := by
  unfold execLinkTrainDone
  repeat' first
    | with_reducible assumption | exact KeepsX.refused | exact KeepsX.fault | with_reducible apply KeepsX.next | with_reducible apply keeps_modLink
    | with_reducible apply keeps_raise | split
    | ((try lift_lets); intro z; refine Keeps.named (s := s) (z := z) ?_ ?_; (try subst z); rotate_left; intro hz; clear_value z)
    | ((try lift_lets); intro z; clear_value z) | (with_reducible intro; with_reducible intros; try beta_reduce) | dsimp only
theorem keeps_execLinkRetrainRetry {s t : State} (h : Keeps s t) (x1) : KeepsX s (execLinkRetrainRetry x1 t) := by
  unfold execLinkRetrainRetry
  repeat' first
    | with_reducible assumption | exact KeepsX.refused | exact KeepsX.fault | with_reducible apply KeepsX.next | with_reducible apply keeps_modLink
    | split | ((try lift_lets); intro z; refine Keeps.named (s := s) (z := z) ?_ ?_; (try subst z); rotate_left; intro hz; clear_value z)
    | ((try lift_lets); intro z; clear_value z) | (with_reducible intro; with_reducible intros; try beta_reduce) | dsimp only
theorem keeps_execLinkAuthDone {s t : State} (h : Keeps s t) (x1) (x2) : KeepsX s (execLinkAuthDone x1 x2 t) := by
  unfold execLinkAuthDone
  repeat' first
    | with_reducible assumption | exact KeepsX.refused | exact KeepsX.fault | with_reducible apply KeepsX.next | with_reducible apply keeps_authDone
    | split | ((try lift_lets); intro z; refine Keeps.named (s := s) (z := z) ?_ ?_; (try subst z); rotate_left; intro hz; clear_value z)
    | ((try lift_lets); intro z; clear_value z) | (with_reducible intro; with_reducible intros; try beta_reduce) | dsimp only
theorem keeps_execLaneSoftFailure {s t : State} (h : Keeps s t) (x1) (x2) : KeepsX s (execLaneSoftFailure x1 x2 t) := by
  unfold execLaneSoftFailure
  repeat' first
    | with_reducible assumption | exact KeepsX.refused | exact KeepsX.fault | with_reducible apply KeepsX.next | with_reducible apply keeps_modLink
    | split | ((try lift_lets); intro z; refine Keeps.named (s := s) (z := z) ?_ ?_; (try subst z); rotate_left; intro hz; clear_value z)
    | ((try lift_lets); intro z; clear_value z) | (with_reducible intro; with_reducible intros; try beta_reduce) | dsimp only
theorem keeps_execLaneSwap {s t : State} (h : Keeps s t) (x1) : KeepsX s (execLaneSwap x1 t) := by
  unfold execLaneSwap
  repeat' first
    | with_reducible assumption | exact KeepsX.refused | exact KeepsX.fault | with_reducible apply KeepsX.next | with_reducible apply keeps_retireLane
    | with_reducible apply keeps_modLink | split
    | ((try lift_lets); intro z; refine Keeps.named (s := s) (z := z) ?_ ?_; (try subst z); rotate_left; intro hz; clear_value z)
    | ((try lift_lets); intro z; clear_value z) | (with_reducible intro; with_reducible intros; try beta_reduce) | dsimp only
theorem keeps_execLaneLoss {s t : State} (h : Keeps s t) (x1) (x2) : KeepsX s (execLaneLoss x1 x2 t) := by
  unfold execLaneLoss
  repeat' first
    | with_reducible assumption | exact KeepsX.refused | exact KeepsX.fault | with_reducible apply KeepsX.next | with_reducible apply keeps_retireLane
    | with_reducible apply keeps_modLink | split
    | ((try lift_lets); intro z; refine Keeps.named (s := s) (z := z) ?_ ?_; (try subst z); rotate_left; intro hz; clear_value z)
    | ((try lift_lets); intro z; clear_value z) | (with_reducible intro; with_reducible intros; try beta_reduce) | dsimp only
theorem keeps_broadcastRoute {s t : State} (h : Keeps s t)  : Keeps s (State.broadcastRoute t) := by
  unfold State.broadcastRoute
  with_reducible apply Keeps.foldl; split; split; lift_lets; (with_reducible intro; with_reducible intros; try beta_reduce; try lift_lets)
  with_reducible (apply Keeps.put; assumption; exact Nat.le_refl _); lift_lets
  (with_reducible intro; with_reducible intros; try beta_reduce; try lift_lets)
  with_reducible (apply Keeps.put; assumption; exact Nat.le_refl _; assumption)
  (with_reducible intro; with_reducible intros; try beta_reduce; try lift_lets); with_reducible (apply keeps_sendOn; assumption)
theorem keeps_execLinkAlignUp {s t : State} (h : Keeps s t) (x1) : KeepsX s (execLinkAlignUp x1 t) := by
  unfold execLinkAlignUp
  repeat' first
    | with_reducible assumption | exact KeepsX.refused | exact KeepsX.fault | with_reducible apply KeepsX.next | with_reducible apply keeps_pump
    | with_reducible apply keeps_broadcastRoute | with_reducible apply keeps_modLink | split
    | ((try lift_lets); intro z; refine Keeps.named (s := s) (z := z) ?_ ?_; (try subst z); rotate_left; intro hz; clear_value z)
    | ((try lift_lets); intro z; clear_value z) | (with_reducible intro; with_reducible intros; try beta_reduce) | dsimp only
theorem keeps_chooseMaster {s t : State} (h : Keeps s t)  : Keeps s (State.chooseMaster t) := by
  unfold State.chooseMaster
  (dsimp +zetaDelta only; split)
  with_reducible (apply Keeps.put; assumption; exact Nat.le_refl _; apply Keeps.put; assumption; exact Nat.le_refl _); split; split
  with_reducible (apply Keeps.put; assumption; exact Nat.le_refl _; apply Keeps.put; assumption; exact Nat.le_refl _); split
  with_reducible (apply Keeps.put; assumption; exact Nat.le_refl _; apply Keeps.put; assumption; exact Nat.le_refl _)
theorem keeps_checkConflict {s t : State} (h : Keeps s t)  : Keeps s (State.checkConflict t) := by
  unfold State.checkConflict
  (dsimp +zetaDelta only; split); with_reducible apply keeps_raise; lift_lets
  with_reducible (apply Keeps.put; assumption; exact Nat.le_refl _); split
  with_reducible (apply Keeps.put; assumption; exact Nat.le_refl _; assumption)
theorem keeps_nameNeighbour {s t : State} (h : Keeps s t) (x1) (x2) : Keeps s (State.nameNeighbour t x1 x2) := by
  unfold State.nameNeighbour
  (dsimp +zetaDelta only; split)
  with_reducible (apply keeps_checkConflict; apply keeps_modLink; assumption; apply keeps_broadcastRoute; apply keeps_checkConflict)
  with_reducible (apply keeps_modLink; assumption)
theorem keeps_dropLink {s t : State} (h : Keeps s t) (x1) (x2) : Keeps s (State.dropLink t x1 x2) := by
  unfold State.dropLink
  repeat' first
    | with_reducible assumption | exact Nat.le_refl _ | exact Nat.le_succ _ | with_reducible apply keeps_giveBack | with_reducible apply keeps_lostOwn
    | with_reducible apply keeps_send | with_reducible apply Keeps.foldl | with_reducible apply KeepsP.foldl
    | (with_reducible apply KeepsP.fst; with_reducible apply KeepsP.foldl) | (with_reducible apply Keeps.put; with_reducible assumption)
    | (with_reducible apply Keeps.putCtxs; with_reducible assumption)
    | (with_reducible apply Keeps.put; first | with_reducible apply keeps_giveBack | with_reducible apply keeps_lostOwn | with_reducible apply keeps_send | with_reducible apply Keeps.foldl)
    | (intro x hx; (try dsimp only); (repeat' split) <;> first | exact hx | decide) | split
    | ((try lift_lets); intro z; refine Keeps.named (s := s) (z := z) ?_ ?_; (try subst z); rotate_left; intro hz; clear_value z)
    | ((try lift_lets); intro z; (have _ : z = t.free := by subst z; rfl); subst z) | ((try lift_lets); intro z; clear_value z)
    | (with_reducible intro; with_reducible intros; try beta_reduce) | dsimp only
theorem keeps_dropAwait {s t : State} (h : Keeps s t) (x1) : Keeps s (State.dropAwait t x1) := by
  unfold State.dropAwait
  with_reducible (apply Keeps.foldl; assumption); (with_reducible intro; with_reducible intros; try beta_reduce; try lift_lets); split
  with_reducible (apply keeps_modCtx; assumption); (with_reducible intro; with_reducible intros; try beta_reduce; try lift_lets)
  with_reducible (assumption; assumption)
theorem keeps_neighbourFailed {s t : State} (h : Keeps s t) (x1) : Keeps s (State.neighbourFailed t x1) := by
  unfold State.neighbourFailed
  with_reducible (apply keeps_noteFailed; apply keeps_peerGone; apply keeps_killAffected; apply keeps_memberLost; apply keeps_dropLink)
  with_reducible (apply keeps_dropAwait; apply keeps_raiseRoot; assumption)
theorem keeps_heartbeatMiss {s t : State} (h : Keeps s t) (x1) : Keeps s (State.heartbeatMiss t x1) := by
  unfold State.heartbeatMiss
  (dsimp +zetaDelta only; split); with_reducible assumption; split
  with_reducible (apply keeps_modLink; assumption; apply keeps_chooseMaster; apply keeps_neighbourFailed; apply keeps_modLink; apply keeps_modLink)
  with_reducible (assumption)
theorem keeps_incarnationChange {s t : State} (h : Keeps s t) (x1) (x2) : Keeps s (State.incarnationChange t x1 x2) := by
  unfold State.incarnationChange
  repeat' first
    | with_reducible assumption | exact Nat.le_refl _ | exact Nat.le_succ _ | with_reducible apply keeps_count | with_reducible apply keeps_modLink
    | with_reducible apply keeps_neighbourFailed | with_reducible apply keeps_chooseMaster
    | (with_reducible apply Keeps.put; with_reducible assumption) | (with_reducible apply Keeps.putCtxs; with_reducible assumption)
    | (with_reducible apply Keeps.put; first | with_reducible apply keeps_count | with_reducible apply keeps_modLink | with_reducible apply keeps_neighbourFailed | with_reducible apply keeps_chooseMaster)
    | (intro x hx; (try dsimp only); (repeat' split) <;> first | exact hx | decide) | split
    | ((try lift_lets); intro z; refine Keeps.named (s := s) (z := z) ?_ ?_; (try subst z); rotate_left; intro hz; clear_value z)
    | ((try lift_lets); intro z; (have _ : z = t.free := by subst z; rfl); subst z) | ((try lift_lets); intro z; clear_value z)
    | (with_reducible intro; with_reducible intros; try beta_reduce) | dsimp only
theorem keeps_flitReceive {s t : State} (h : Keeps s t) (x1) (x2) : Keeps s (State.flitReceive t x1 x2) := by
  unfold State.flitReceive
  split; (dsimp +zetaDelta only; split); split; with_reducible (apply keeps_incarnationChange; assumption; assumption); split
  with_reducible (assumption; apply keeps_modLink; apply keeps_count; apply keeps_count; assumption); (dsimp +zetaDelta only; split); split
  with_reducible (apply keeps_incarnationChange; assumption; assumption); split; with_reducible assumption; split
  with_reducible (apply keeps_count; apply keeps_count; assumption); split
  with_reducible (apply keeps_incarnationChange; apply keeps_count; apply keeps_count; assumption); split
  with_reducible (apply keeps_incarnationChange; apply keeps_count; apply keeps_count; assumption; apply keeps_pump; apply keeps_timeTransfer)
  with_reducible (apply keeps_chooseMaster; apply keeps_spareOp; apply keeps_beat; apply keeps_ackFlits; apply keeps_nameNeighbour)
  with_reducible (apply keeps_modLink; apply keeps_count; apply keeps_count; assumption)
theorem keeps_linkDown {s t : State} (h : Keeps s t) (x1) (x2) : Keeps s (State.linkDown t x1 x2) := by
  unfold State.linkDown
  with_reducible (apply keeps_chooseMaster; apply keeps_dropAwait; apply keeps_modLink; assumption)
theorem keeps_execReconfigDone {s t : State} (h : Keeps s t) (x1) : KeepsX s (execReconfigDone x1 t) := by
  unfold execReconfigDone
  repeat' first
    | with_reducible assumption | exact KeepsX.refused | exact KeepsX.fault | with_reducible apply KeepsX.next | with_reducible apply keeps_dropLink
    | with_reducible apply keeps_linkDown | with_reducible apply keeps_count | with_reducible apply keeps_modLink | with_reducible apply keeps_pump
    | with_reducible apply keeps_raise | split
    | ((try lift_lets); intro z; refine Keeps.named (s := s) (z := z) ?_ ?_; (try subst z); rotate_left; intro hz; clear_value z)
    | ((try lift_lets); intro z; clear_value z) | (with_reducible intro; with_reducible intros; try beta_reduce) | dsimp only
theorem keeps_setDisable {s t : State} (h : Keeps s t) (x1) : Keeps s (State.setDisable t x1) := by
  unfold State.setDisable
  with_reducible apply Keeps.foldl; lift_lets; (with_reducible intro; with_reducible intros; try beta_reduce; try lift_lets)
  with_reducible (apply Keeps.put; assumption; exact Nat.le_refl _)
  (with_reducible intro; with_reducible intros; try beta_reduce; try lift_lets); split; split
  with_reducible (assumption; apply keeps_modLink; apply keeps_dropLink; apply keeps_linkDown; assumption); split
  with_reducible (apply keeps_modLink; assumption; assumption)

/-! ### Fabric -/

theorem keeps_sendLost {s t : State} (h : Keeps s t) (x1) (x2) : Keeps s (State.sendLost t x1 x2) := by
  unfold State.sendLost
  split; with_reducible (assumption; apply keeps_send; assumption)
theorem keeps_tagFail {s t : State} (h : Keeps s t) (x1) : Keeps s (State.tagFail t x1) := by
  unfold State.tagFail
  with_reducible (apply keeps_linkDown; apply keeps_sendLost; apply keeps_raise; apply keeps_count; assumption)
theorem keeps_freeSlots {s t : State} (h : Keeps s t) (x1) (x2) (x3) : Keeps s (State.freeSlots t x1 x2 x3) := by
  unfold State.freeSlots
  with_reducible (apply keeps_modLink; assumption)
theorem keeps_forward {s t : State} (h : Keeps s t) (x1) (x2) (x3) : Keeps s (State.forward t x1 x2 x3) := by
  unfold State.forward
  split; with_reducible (apply keeps_sendLost; apply keeps_freeSlots; assumption); split
  with_reducible (apply keeps_sendLost; apply keeps_freeSlots; assumption); split; with_reducible apply keeps_pump; lift_lets
  (with_reducible intro; with_reducible intros; try beta_reduce; try lift_lets)
  with_reducible (apply Keeps.put; assumption; exact Nat.le_refl _; apply keeps_sendLost; apply keeps_freeSlots; assumption)
theorem keeps_arrive {s t : State} (h : Keeps s t) (x1) (x2) (x3) : KeepsP s (State.arrive t x1 x2 x3) := by
  unfold State.arrive
  repeat' first
    | with_reducible assumption | with_reducible apply KeepsP.mk | with_reducible apply keeps_tagFail | with_reducible apply keeps_sendLost
    | with_reducible apply keeps_freeSlots | with_reducible apply keeps_count | with_reducible apply keeps_forward | split
    | ((try lift_lets); intro z; refine Keeps.named (s := s) (z := z) ?_ ?_; (try subst z); rotate_left; intro hz; clear_value z)
    | ((try lift_lets); intro z; refine KeepsP.named (s := s) (z := z) ?_ ?_; (try subst z); rotate_left; intro hz; clear_value z)
    | (with_reducible apply KeepsP.fst; with_reducible apply KeepsP.mk) | (with_reducible apply KeepsP.fst; with_reducible assumption)
    | ((try lift_lets); intro z; clear_value z) | (with_reducible intro; with_reducible intros; try beta_reduce)
    | (refine KeepsP.elim (by with_reducible assumption) ?_) | dsimp only
theorem keeps_ctxNotice {s t : State} (h : Keeps s t) (x1) (x2) : Keeps s (State.ctxNotice t x1 x2) := by
  unfold State.ctxNotice
  split; with_reducible assumption; lift_lets; (with_reducible intro; with_reducible intros; try beta_reduce; try lift_lets)
  with_reducible (apply KeepsP.fst; apply keeps_trySend); lift_lets; with_reducible (apply Keeps.put; assumption; exact Nat.le_refl _)
theorem keeps_endSenders {s t : State} (h : Keeps s t) (x1) (x2) (x3) (x4) (x5) : Keeps s (State.endSenders t x1 x2 x3 x4 x5) := by
  unfold State.endSenders
  with_reducible (apply Keeps.foldl; assumption); (with_reducible intro; with_reducible intros; try beta_reduce; try lift_lets)
  with_reducible (apply keeps_failCid; assumption)
theorem keeps_genCheck {s t : State} (h : Keeps s t) (x1) : KeepsP s (State.genCheck t x1) := by
  unfold State.genCheck
  with_reducible apply KeepsP.mk; split; with_reducible (apply keeps_ctxNotice; apply keeps_genDrop; assumption); split
  with_reducible (apply keeps_ctxNotice; apply keeps_genDrop; assumption; assumption)
theorem keeps_lentFor {s t : State} (h : Keeps s t) (x1) (x2) : KeepsO s (State.lentFor t x1 x2) := by
  unfold State.lentFor
  (dsimp +zetaDelta only; split); split; with_reducible (apply KeepsO.some; assumption; exact KeepsO.none); split
  with_reducible (apply KeepsO.some; apply keeps_modMem; assumption; exact KeepsO.none; exact KeepsO.none)
theorem keeps_modHeld {s t : State} (h : Keeps s t) (x1) (x2) (x3) (x4) : Keeps s (State.modHeld t x1 x2 x3 x4) := by
  unfold State.modHeld
  lift_lets; (with_reducible intro; with_reducible intros; try beta_reduce; try lift_lets)
  with_reducible (apply Keeps.put; assumption; exact Nat.le_refl _)
theorem keeps_takeCancel {s t : State} (h : Keeps s t) (x1) (x2) : Keeps s (State.takeCancel t x1 x2) := by
  unfold State.takeCancel
  split; refine KeepsP.elim (by with_reducible assumption) ?_; with_reducible (apply keeps_arrive; assumption; apply Keeps.foldl); lift_lets
  (with_reducible intro; with_reducible intros; try beta_reduce; try lift_lets); with_reducible (apply Keeps.put; apply keeps_dropAttempt)
  lift_lets; refine KeepsP.elim (by with_reducible assumption) ?_; with_reducible (apply keeps_arrive; assumption; exact Nat.le_refl _)
  (with_reducible intro; with_reducible intros; try beta_reduce; try lift_lets)
  (with_reducible intro; with_reducible intros; try beta_reduce; try lift_lets); with_reducible apply keeps_pump; lift_lets
  with_reducible (apply Keeps.put; assumption; exact Nat.le_refl _)
theorem keeps_takeColl {s t : State} (h : Keeps s t) (x1) (x2) (x3) (x4) (x5) (x6) (x7) : Keeps s (State.takeColl t x1 x2 x3 x4 x5 x6 x7) := by
  unfold State.takeColl
  repeat' first
    | with_reducible assumption | exact Nat.le_refl _ | exact Nat.le_succ _ | with_reducible apply KeepsP.mk
    | (with_reducible apply KeepsP.fst; with_reducible apply keeps_arrive) | with_reducible apply keeps_arrive
    | (with_reducible apply KeepsP.fst; with_reducible apply keeps_genCheck) | with_reducible apply keeps_genCheck
    | with_reducible apply keeps_freeSlots | with_reducible apply keeps_count | with_reducible apply keeps_cleSend
    | with_reducible apply keeps_takePacket | (with_reducible apply Keeps.put; with_reducible assumption)
    | (with_reducible apply Keeps.putCtxs; with_reducible assumption)
    | (with_reducible apply Keeps.put; first | (with_reducible apply KeepsP.fst; with_reducible apply keeps_arrive) | with_reducible apply keeps_arrive | (with_reducible apply KeepsP.fst; with_reducible apply keeps_genCheck) | with_reducible apply keeps_genCheck | with_reducible apply keeps_freeSlots | with_reducible apply keeps_count | with_reducible apply keeps_cleSend | with_reducible apply keeps_takePacket)
    | (intro x hx; (try dsimp only); (repeat' split) <;> first | exact hx | decide) | split
    | ((try lift_lets); intro z; refine Keeps.named (s := s) (z := z) ?_ ?_; (try subst z); rotate_left; intro hz; clear_value z)
    | ((try lift_lets); intro z; refine KeepsP.named (s := s) (z := z) ?_ ?_; (try subst z); rotate_left; intro hz; clear_value z)
    | (with_reducible apply KeepsP.fst; with_reducible apply KeepsP.mk) | (with_reducible apply KeepsP.fst; with_reducible assumption)
    | ((try lift_lets); intro z; (have _ : z = t.free := by subst z; rfl); subst z) | ((try lift_lets); intro z; clear_value z)
    | (with_reducible intro; with_reducible intros; try beta_reduce) | (refine KeepsP.elim (by with_reducible assumption) ?_) | dsimp only
theorem keeps_takeKey {s t : State} (h : Keeps s t) (x1) (x2) (x3) : Keeps s (State.takeKey t x1 x2 x3) := by
  unfold State.takeKey
  split; refine KeepsP.elim (by with_reducible assumption) ?_; with_reducible (apply keeps_arrive; assumption); split; split
  with_reducible apply keeps_authDone; lift_lets; refine KeepsP.elim (by with_reducible assumption) ?_
  with_reducible (apply keeps_arrive; assumption); split; with_reducible apply keeps_authDone; lift_lets
  refine KeepsP.elim (by with_reducible assumption) ?_; with_reducible (apply keeps_arrive; assumption)
  refine KeepsP.elim (by with_reducible assumption) ?_; with_reducible (apply keeps_arrive; assumption); split
  with_reducible apply keeps_modLink; lift_lets; refine KeepsP.elim (by with_reducible assumption) ?_
  with_reducible (apply keeps_arrive; assumption); refine KeepsP.elim (by with_reducible assumption) ?_
  with_reducible (apply keeps_arrive; assumption); refine KeepsP.elim (by with_reducible assumption) ?_
  with_reducible (apply keeps_arrive; assumption)
theorem keeps_takeLost {s t : State} (h : Keeps s t) (x1) (x2) (x3) : Keeps s (State.takeLost t x1 x2 x3) := by
  unfold State.takeLost
  split; refine KeepsP.elim (by with_reducible assumption) ?_; with_reducible (apply keeps_arrive; assumption; apply Keeps.foldl); lift_lets
  refine KeepsP.elim (by with_reducible assumption) ?_; with_reducible (apply keeps_arrive; assumption)
  (with_reducible intro; with_reducible intros; try beta_reduce; try lift_lets)
  (with_reducible intro; with_reducible intros; try beta_reduce; try lift_lets); split
  with_reducible (apply keeps_endColl; assumption; apply keeps_lostOwn; assumption)
theorem keeps_takeReadReq {s t : State} (h : Keeps s t) (x1) (x2) : Keeps s (State.takeReadReq t x1 x2) := by
  unfold State.takeReadReq
  split; refine KeepsP.elim (by with_reducible assumption) ?_; with_reducible (apply keeps_arrive; assumption); split; split; lift_lets
  (with_reducible intro; with_reducible intros; try beta_reduce; try lift_lets); with_reducible (apply KeepsP.fst; apply keeps_trySend)
  lift_lets; refine KeepsP.elim (by with_reducible assumption) ?_; with_reducible (apply keeps_arrive; assumption; apply keeps_sendLost)
  lift_lets; refine KeepsP.elim (by with_reducible assumption) ?_; with_reducible (apply keeps_arrive; assumption); split; lift_lets
  (with_reducible intro; with_reducible intros; try beta_reduce; try lift_lets); with_reducible (apply KeepsP.fst; apply keeps_trySend)
  lift_lets; refine KeepsP.elim (by with_reducible assumption) ?_
  with_reducible (apply keeps_arrive; assumption; apply keeps_ctxNotice; apply keeps_genDrop); lift_lets
  refine KeepsP.elim (by with_reducible assumption) ?_; with_reducible (apply keeps_arrive; assumption)
theorem keeps_takeRoute {s t : State} (h : Keeps s t) (x1) (x2) (x3) : Keeps s (State.takeRoute t x1 x2 x3) := by
  unfold State.takeRoute
  split; refine KeepsP.elim (by with_reducible assumption) ?_; with_reducible (apply keeps_arrive; assumption); (dsimp +zetaDelta only; split)
  split; with_reducible (apply Keeps.put; apply keeps_modLink); lift_lets; refine KeepsP.elim (by with_reducible assumption) ?_
  with_reducible (apply keeps_arrive; assumption; exact Nat.le_refl _; apply Keeps.put; apply keeps_modLink); lift_lets
  refine KeepsP.elim (by with_reducible assumption) ?_
  with_reducible (apply keeps_arrive; assumption; exact Nat.le_refl _; apply keeps_modLink); lift_lets
  refine KeepsP.elim (by with_reducible assumption) ?_; with_reducible (apply keeps_arrive; assumption)
theorem keeps_takeStream {s t : State} (h : Keeps s t) (x1) (x2) : Keeps s (State.takeStream t x1 x2) := by
  unfold State.takeStream
  split; with_reducible (apply keeps_modHeld; assumption); split; split; with_reducible (apply keeps_modHeld; assumption; assumption); split
  with_reducible (apply keeps_modHeld; assumption; assumption)
theorem keeps_takeTeardown {s t : State} (h : Keeps s t) (x1) (x2) (x3) : Keeps s (State.takeTeardown t x1 x2 x3) := by
  unfold State.takeTeardown
  split; refine KeepsP.elim (by with_reducible assumption) ?_; with_reducible (apply keeps_arrive; assumption; apply keeps_sendOn); split
  split; lift_lets; (with_reducible intro; with_reducible intros; try beta_reduce; try lift_lets)
  with_reducible (apply Keeps.put; apply keeps_freeLent; apply keeps_endSenders); lift_lets; with_reducible apply Keeps.put; lift_lets
  refine KeepsP.elim (by with_reducible assumption) ?_
  with_reducible (apply keeps_arrive; assumption; exact Nat.le_refl _; exact Nat.le_refl _); lift_lets
  (with_reducible intro; with_reducible intros; try beta_reduce; try lift_lets); with_reducible (apply Keeps.put; apply keeps_endSenders)
  lift_lets; with_reducible apply Keeps.put; lift_lets; refine KeepsP.elim (by with_reducible assumption) ?_
  with_reducible (apply keeps_arrive; assumption; exact Nat.le_refl _; exact Nat.le_refl _); lift_lets
  (with_reducible intro; with_reducible intros; try beta_reduce; try lift_lets); with_reducible (apply Keeps.put; apply keeps_endSenders)
  lift_lets; with_reducible apply Keeps.put; lift_lets; refine KeepsP.elim (by with_reducible assumption) ?_
  with_reducible (apply keeps_arrive; assumption; exact Nat.le_refl _; exact Nat.le_refl _)
theorem keeps_mirSettle {s t : State} (h : Keeps s t) : Keeps s (State.mirSettle t) := by
  unfold State.mirSettle
  repeat' first
    | with_reducible assumption | with_reducible apply keeps_shrinkAll | split
    | ((try lift_lets); intro z; refine Keeps.named (s := s) (z := z) ?_ ?_; (try subst z); rotate_left; intro hz; clear_value z)
    | ((try lift_lets); intro z; clear_value z) | (with_reducible intro; with_reducible intros; try beta_reduce) | dsimp only
theorem keeps_takeWrite {s t : State} (h : Keeps s t) (x1) (x2) : Keeps s (State.takeWrite t x1 x2) := by
  unfold State.takeWrite
  repeat' first
    | with_reducible assumption | exact KeepsO.none | with_reducible apply memWf_memWriteList | with_reducible apply KeepsP.mk
    | with_reducible apply KeepsO.some | (with_reducible apply KeepsP.fst; with_reducible apply keeps_arrive) | with_reducible apply keeps_arrive
    | with_reducible apply keeps_mirSettle | with_reducible apply keeps_takeStream | with_reducible apply keeps_lentFor
    | with_reducible apply keeps_setMem | with_reducible apply keeps_ctxNotice | with_reducible apply keeps_genDrop | split
    | ((try lift_lets); intro z; refine Keeps.named (s := s) (z := z) ?_ ?_; (try subst z); rotate_left; intro hz; clear_value z)
    | ((try lift_lets); intro z; refine KeepsP.named (s := s) (z := z) ?_ ?_; (try subst z); rotate_left; intro hz; clear_value z)
    | (with_reducible apply KeepsP.fst; with_reducible apply KeepsP.mk) | (with_reducible apply KeepsP.fst; with_reducible assumption)
    | ((try lift_lets); intro z; refine KeepsO.named (s := s) (z := z) ?_ ?_; (try subst z); rotate_left; intro hz; clear_value z)
    | ((try lift_lets); intro z; clear_value z) | (with_reducible intro; with_reducible intros; try beta_reduce)
    | (refine KeepsP.elim (by with_reducible assumption) ?_) | (refine KeepsO.elim (by with_reducible assumption) ?_) | dsimp only
theorem keeps_execFabWrite {s t : State} (h : Keeps s t) (x1) (x2) : KeepsX s (execFabWrite x1 x2 t) := by
  unfold execFabWrite
  repeat' first
    | with_reducible assumption | exact KeepsX.refused | exact KeepsX.fault | with_reducible apply KeepsX.next | with_reducible apply keeps_takeWrite
    | split | ((try lift_lets); intro z; refine Keeps.named (s := s) (z := z) ?_ ?_; (try subst z); rotate_left; intro hz; clear_value z)
    | ((try lift_lets); intro z; clear_value z) | (with_reducible intro; with_reducible intros; try beta_reduce) | dsimp only
theorem keeps_execFabReadReq {s t : State} (h : Keeps s t) (x1) (x2) : KeepsX s (execFabReadReq x1 x2 t) := by
  unfold execFabReadReq
  repeat' first
    | with_reducible assumption | exact KeepsX.refused | exact KeepsX.fault | with_reducible apply KeepsX.next
    | with_reducible apply keeps_takeReadReq | split
    | ((try lift_lets); intro z; refine Keeps.named (s := s) (z := z) ?_ ?_; (try subst z); rotate_left; intro hz; clear_value z)
    | ((try lift_lets); intro z; clear_value z) | (with_reducible intro; with_reducible intros; try beta_reduce) | dsimp only
theorem keeps_execCollNode {s t : State} (h : Keeps s t) (x1) (x2) (x3) (x4) (x5) (x6) (x7) : KeepsX s (execCollNode x1 x2 x3 x4 x5 x6 x7 t) := by
  unfold execCollNode
  repeat' first
    | with_reducible assumption | exact KeepsX.refused | exact KeepsX.fault | with_reducible apply KeepsX.next | with_reducible apply keeps_placeAll
    | with_reducible apply keeps_takeColl | split
    | ((try lift_lets); intro z; refine Keeps.named (s := s) (z := z) ?_ ?_; (try subst z); rotate_left; intro hz; clear_value z)
    | ((try lift_lets); intro z; clear_value z) | (with_reducible intro; with_reducible intros; try beta_reduce) | dsimp only
theorem keeps_execCollData {s t : State} (h : Keeps s t) (x1) (x2) (x3) (x4) (x5) : KeepsX s (execCollData x1 x2 x3 x4 x5 t) := by
  unfold execCollData
  repeat' first
    | with_reducible assumption | exact KeepsX.refused | exact KeepsX.fault | with_reducible apply KeepsX.next | with_reducible apply keeps_placeAll
    | with_reducible apply keeps_takeColl | split
    | ((try lift_lets); intro z; refine Keeps.named (s := s) (z := z) ?_ ?_; (try subst z); rotate_left; intro hz; clear_value z)
    | ((try lift_lets); intro z; clear_value z) | (with_reducible intro; with_reducible intros; try beta_reduce) | dsimp only
theorem keeps_execCollAbort {s t : State} (h : Keeps s t) (x1) (x2) (x3) (x4) : KeepsX s (execCollAbort x1 x2 x3 x4 t) := by
  unfold execCollAbort
  repeat' first
    | with_reducible assumption | exact KeepsX.refused | exact KeepsX.fault | with_reducible apply KeepsP.mk | with_reducible apply KeepsX.next
    | with_reducible apply keeps_placeAll | (with_reducible apply KeepsP.fst; with_reducible apply keeps_arrive) | with_reducible apply keeps_arrive
    | (with_reducible apply KeepsP.fst; with_reducible apply keeps_genCheck) | with_reducible apply keeps_genCheck
    | with_reducible apply keeps_freeSlots | with_reducible apply keeps_takeAbort | split
    | ((try lift_lets); intro z; refine Keeps.named (s := s) (z := z) ?_ ?_; (try subst z); rotate_left; intro hz; clear_value z)
    | ((try lift_lets); intro z; refine KeepsP.named (s := s) (z := z) ?_ ?_; (try subst z); rotate_left; intro hz; clear_value z)
    | (with_reducible apply KeepsP.fst; with_reducible apply KeepsP.mk) | (with_reducible apply KeepsP.fst; with_reducible assumption)
    | ((try lift_lets); intro z; clear_value z) | (with_reducible intro; with_reducible intros; try beta_reduce)
    | (refine KeepsP.elim (by with_reducible assumption) ?_) | dsimp only
theorem keeps_execCollScalar {s t : State} (h : Keeps s t) (x1) (x2) (x3) (x4) (x5) (x6) : KeepsX s (execCollScalar x1 x2 x3 x4 x5 x6 t) := by
  unfold execCollScalar
  repeat' first
    | with_reducible assumption | exact KeepsX.refused | exact KeepsX.fault | with_reducible apply KeepsP.mk | with_reducible apply KeepsX.next
    | with_reducible apply keeps_placeAll | (with_reducible apply KeepsP.fst; with_reducible apply keeps_arrive) | with_reducible apply keeps_arrive
    | (with_reducible apply KeepsP.fst; with_reducible apply keeps_genCheck) | with_reducible apply keeps_genCheck
    | with_reducible apply keeps_freeSlots | with_reducible apply keeps_takeScalar | split
    | ((try lift_lets); intro z; refine Keeps.named (s := s) (z := z) ?_ ?_; (try subst z); rotate_left; intro hz; clear_value z)
    | ((try lift_lets); intro z; refine KeepsP.named (s := s) (z := z) ?_ ?_; (try subst z); rotate_left; intro hz; clear_value z)
    | (with_reducible apply KeepsP.fst; with_reducible apply KeepsP.mk) | (with_reducible apply KeepsP.fst; with_reducible assumption)
    | ((try lift_lets); intro z; clear_value z) | (with_reducible intro; with_reducible intros; try beta_reduce)
    | (refine KeepsP.elim (by with_reducible assumption) ?_) | dsimp only
theorem keeps_execFabChunk {s t : State} (h : Keeps s t) (x1) (x2) (x3) (x4) : KeepsX s (execFabChunk x1 x2 x3 x4 t) := by
  unfold execFabChunk
  repeat' first
    | with_reducible assumption | exact KeepsX.refused | exact KeepsX.fault | with_reducible apply KeepsP.mk | with_reducible apply KeepsX.next
    | with_reducible apply keeps_placeAll | (with_reducible apply KeepsP.fst; with_reducible apply keeps_arrive) | with_reducible apply keeps_arrive
    | (with_reducible apply KeepsP.fst; with_reducible apply keeps_genCheck) | with_reducible apply keeps_genCheck
    | with_reducible apply keeps_chunkArrives | split
    | ((try lift_lets); intro z; refine Keeps.named (s := s) (z := z) ?_ ?_; (try subst z); rotate_left; intro hz; clear_value z)
    | ((try lift_lets); intro z; refine KeepsP.named (s := s) (z := z) ?_ ?_; (try subst z); rotate_left; intro hz; clear_value z)
    | (with_reducible apply KeepsP.fst; with_reducible apply KeepsP.mk) | (with_reducible apply KeepsP.fst; with_reducible assumption)
    | ((try lift_lets); intro z; clear_value z) | (with_reducible intro; with_reducible intros; try beta_reduce)
    | (refine KeepsP.elim (by with_reducible assumption) ?_) | dsimp only
theorem keeps_execFabCancel {s t : State} (h : Keeps s t) (x1) (x2) : KeepsX s (execFabCancel x1 x2 t) := by
  unfold execFabCancel
  repeat' first
    | with_reducible assumption | exact KeepsX.refused | exact KeepsX.fault | with_reducible apply KeepsX.next | with_reducible apply keeps_takeCancel
    | split | ((try lift_lets); intro z; refine Keeps.named (s := s) (z := z) ?_ ?_; (try subst z); rotate_left; intro hz; clear_value z)
    | ((try lift_lets); intro z; clear_value z) | (with_reducible intro; with_reducible intros; try beta_reduce) | dsimp only
theorem keeps_execFabCtxDead {s t : State} (h : Keeps s t) (x1) (x2) (x3) : KeepsX s (execFabCtxDead x1 x2 x3 t) := by
  unfold execFabCtxDead
  repeat' first
    | with_reducible assumption | exact KeepsX.refused | exact KeepsX.fault | with_reducible apply KeepsP.mk | with_reducible apply KeepsX.next
    | with_reducible apply keeps_placeAll | (with_reducible apply KeepsP.fst; with_reducible apply keeps_arrive) | with_reducible apply keeps_arrive
    | with_reducible apply keeps_endSenders | split
    | ((try lift_lets); intro z; refine Keeps.named (s := s) (z := z) ?_ ?_; (try subst z); rotate_left; intro hz; clear_value z)
    | ((try lift_lets); intro z; refine KeepsP.named (s := s) (z := z) ?_ ?_; (try subst z); rotate_left; intro hz; clear_value z)
    | (with_reducible apply KeepsP.fst; with_reducible apply KeepsP.mk) | (with_reducible apply KeepsP.fst; with_reducible assumption)
    | ((try lift_lets); intro z; clear_value z) | (with_reducible intro; with_reducible intros; try beta_reduce)
    | (refine KeepsP.elim (by with_reducible assumption) ?_) | dsimp only
theorem keeps_execFabCtxFenced {s t : State} (h : Keeps s t) (x1) (x2) (x3) : KeepsX s (execFabCtxFenced x1 x2 x3 t) := by
  unfold execFabCtxFenced
  repeat' first
    | with_reducible assumption | exact KeepsX.refused | exact KeepsX.fault | with_reducible apply KeepsP.mk | with_reducible apply KeepsX.next
    | with_reducible apply keeps_placeAll | (with_reducible apply KeepsP.fst; with_reducible apply keeps_arrive) | with_reducible apply keeps_arrive
    | with_reducible apply keeps_endSenders | split
    | ((try lift_lets); intro z; refine Keeps.named (s := s) (z := z) ?_ ?_; (try subst z); rotate_left; intro hz; clear_value z)
    | ((try lift_lets); intro z; refine KeepsP.named (s := s) (z := z) ?_ ?_; (try subst z); rotate_left; intro hz; clear_value z)
    | (with_reducible apply KeepsP.fst; with_reducible apply KeepsP.mk) | (with_reducible apply KeepsP.fst; with_reducible assumption)
    | ((try lift_lets); intro z; clear_value z) | (with_reducible intro; with_reducible intros; try beta_reduce)
    | (refine KeepsP.elim (by with_reducible assumption) ?_) | dsimp only
theorem keeps_execFabTeardown {s t : State} (h : Keeps s t) (x1) (x2) (x3) : KeepsX s (execFabTeardown x1 x2 x3 t) := by
  unfold execFabTeardown
  repeat' first
    | with_reducible assumption | exact KeepsX.refused | exact KeepsX.fault | with_reducible apply KeepsX.next
    | with_reducible apply keeps_takeTeardown | split
    | ((try lift_lets); intro z; refine Keeps.named (s := s) (z := z) ?_ ?_; (try subst z); rotate_left; intro hz; clear_value z)
    | ((try lift_lets); intro z; clear_value z) | (with_reducible intro; with_reducible intros; try beta_reduce) | dsimp only
theorem keeps_execFabTeardownAck {s t : State} (h : Keeps s t) (x1) (x2) (x3) : KeepsX s (execFabTeardownAck x1 x2 x3 t) := by
  unfold execFabTeardownAck
  repeat' first
    | with_reducible assumption | exact KeepsX.refused | exact KeepsX.fault | with_reducible apply KeepsP.mk | with_reducible apply KeepsX.next
    | with_reducible apply keeps_placeAll | (with_reducible apply KeepsP.fst; with_reducible apply keeps_arrive) | with_reducible apply keeps_arrive
    | with_reducible apply keeps_modCtx | (intro x hx; (try dsimp only); (repeat' split) <;> exact hx) | split
    | ((try lift_lets); intro z; refine Keeps.named (s := s) (z := z) ?_ ?_; (try subst z); rotate_left; intro hz; clear_value z)
    | ((try lift_lets); intro z; refine KeepsP.named (s := s) (z := z) ?_ ?_; (try subst z); rotate_left; intro hz; clear_value z)
    | (with_reducible apply KeepsP.fst; with_reducible apply KeepsP.mk) | (with_reducible apply KeepsP.fst; with_reducible assumption)
    | ((try lift_lets); intro z; clear_value z) | (with_reducible intro; with_reducible intros; try beta_reduce)
    | (refine KeepsP.elim (by with_reducible assumption) ?_) | dsimp only
theorem keeps_execFabReclaim {s t : State} (h : Keeps s t) (x1) (x2) : KeepsX s (execFabReclaim x1 x2 t) := by
  unfold execFabReclaim
  repeat' first
    | with_reducible assumption | exact KeepsX.refused | exact KeepsX.fault | with_reducible apply KeepsP.mk | with_reducible apply KeepsX.next
    | (with_reducible apply KeepsP.fst; with_reducible apply keeps_arrive) | with_reducible apply keeps_arrive | with_reducible apply keeps_reclaim
    | split | ((try lift_lets); intro z; refine Keeps.named (s := s) (z := z) ?_ ?_; (try subst z); rotate_left; intro hz; clear_value z)
    | ((try lift_lets); intro z; refine KeepsP.named (s := s) (z := z) ?_ ?_; (try subst z); rotate_left; intro hz; clear_value z)
    | (with_reducible apply KeepsP.fst; with_reducible apply KeepsP.mk) | (with_reducible apply KeepsP.fst; with_reducible assumption)
    | ((try lift_lets); intro z; clear_value z) | (with_reducible intro; with_reducible intros; try beta_reduce)
    | (refine KeepsP.elim (by with_reducible assumption) ?_) | dsimp only
theorem keeps_execFabLost {s t : State} (h : Keeps s t) (x1) (x2) (x3) : KeepsX s (execFabLost x1 x2 x3 t) := by
  unfold execFabLost
  repeat' first
    | with_reducible assumption | exact KeepsX.refused | exact KeepsX.fault | with_reducible apply KeepsX.next | with_reducible apply keeps_placeAll
    | with_reducible apply keeps_takeLost | split
    | ((try lift_lets); intro z; refine Keeps.named (s := s) (z := z) ?_ ?_; (try subst z); rotate_left; intro hz; clear_value z)
    | ((try lift_lets); intro z; clear_value z) | (with_reducible intro; with_reducible intros; try beta_reduce) | dsimp only
theorem keeps_execFabRoute {s t : State} (h : Keeps s t) (x1) (x2) (x3) : KeepsX s (execFabRoute x1 x2 x3 t) := by
  unfold execFabRoute
  repeat' first
    | with_reducible assumption | exact KeepsX.refused | exact KeepsX.fault | with_reducible apply KeepsX.next | with_reducible apply keeps_takeRoute
    | split | ((try lift_lets); intro z; refine Keeps.named (s := s) (z := z) ?_ ?_; (try subst z); rotate_left; intro hz; clear_value z)
    | ((try lift_lets); intro z; clear_value z) | (with_reducible intro; with_reducible intros; try beta_reduce) | dsimp only
theorem keeps_execFabKey {s t : State} (h : Keeps s t) (x1) (x2) (x3) : KeepsX s (execFabKey x1 x2 x3 t) := by
  unfold execFabKey
  repeat' first
    | with_reducible assumption | exact KeepsX.refused | exact KeepsX.fault | with_reducible apply KeepsX.next | with_reducible apply keeps_takeKey
    | split | ((try lift_lets); intro z; refine Keeps.named (s := s) (z := z) ?_ ?_; (try subst z); rotate_left; intro hz; clear_value z)
    | ((try lift_lets); intro z; clear_value z) | (with_reducible intro; with_reducible intros; try beta_reduce) | dsimp only
theorem keeps_announce {s t : State} (h : Keeps s t) (x1) (x2) : Keeps s (State.announce t x1 x2) := by
  unfold State.announce
  split; with_reducible (assumption; apply Keeps.foldl); lift_lets
  (with_reducible intro; with_reducible intros; try beta_reduce; try lift_lets)
  with_reducible (apply Keeps.put; assumption; exact Nat.le_refl _)
  (with_reducible intro; with_reducible intros; try beta_reduce; try lift_lets); with_reducible (apply keeps_sendOn; assumption)

theorem keeps_execFabTiming {s t : State} (h : Keeps s t) (x1) (x2) (x3) (x4) (x5) (x6) (x7) : KeepsX s (execFabTiming x1 x2 x3 x4 x5 x6 x7 t) := by
  unfold execFabTiming
  repeat' first
    | with_reducible assumption | exact KeepsX.refused | exact KeepsX.fault | with_reducible apply KeepsP.mk | with_reducible apply KeepsX.next
    | (with_reducible apply KeepsP.fst; with_reducible apply keeps_arrive) | with_reducible apply keeps_arrive | with_reducible apply keeps_announce
    | split | ((try lift_lets); intro z; refine Keeps.named (s := s) (z := z) ?_ ?_; (try subst z); rotate_left; intro hz; clear_value z)
    | ((try lift_lets); intro z; refine KeepsP.named (s := s) (z := z) ?_ ?_; (try subst z); rotate_left; intro hz; clear_value z)
    | (with_reducible apply KeepsP.fst; with_reducible apply KeepsP.mk) | (with_reducible apply KeepsP.fst; with_reducible assumption)
    | ((try lift_lets); intro z; clear_value z) | (with_reducible intro; with_reducible intros; try beta_reduce)
    | (refine KeepsP.elim (by with_reducible assumption) ?_) | dsimp only
/-! ### Mirror -/

theorem keeps_askSpare {s t : State} (h : Keeps s t) (x1) (x2) : Keeps s (State.askSpare t x1 x2) := by
  unfold State.askSpare
  split; split; with_reducible assumption; (dsimp +zetaDelta only; split); with_reducible (apply keeps_send; assumption; assumption); split
  with_reducible assumption; (dsimp +zetaDelta only; split); with_reducible (apply keeps_send; assumption; assumption); split
  with_reducible assumption; (dsimp +zetaDelta only; split); with_reducible (apply keeps_send; assumption; assumption)
theorem keeps_sealCtx {s t : State} (h : Keeps s t) (x1) (x2) : Keeps s (State.sealCtx t x1 x2) := by
  unfold State.sealCtx
  (dsimp +zetaDelta only; split); with_reducible (assumption; apply keeps_modMir); split
  with_reducible (apply Keeps.put; assumption; exact Nat.le_refl _; apply Keeps.put; assumption; exact Nat.le_refl _)
theorem keeps_sendRebuild {s t : State} (h : Keeps s t) (x1) : Keeps s (State.sendRebuild t x1) := by
  unfold State.sendRebuild
  repeat' first
    | with_reducible assumption | with_reducible apply keeps_send | with_reducible apply Keeps.foldl | with_reducible apply KeepsP.foldl
    | (with_reducible apply KeepsP.fst; with_reducible apply KeepsP.foldl) | split
    | ((try lift_lets); intro z; refine Keeps.named (s := s) (z := z) ?_ ?_; (try subst z); rotate_left; intro hz; clear_value z)
    | ((try lift_lets); intro z; clear_value z) | (with_reducible intro; with_reducible intros; try beta_reduce) | dsimp only
theorem keeps_settleExpiry {s t : State} (h : Keeps s t)  : Keeps s (State.settleExpiry t) := by
  unfold State.settleExpiry
  split; with_reducible (assumption; apply Keeps.foldl); lift_lets
  (with_reducible intro; with_reducible intros; try beta_reduce; try lift_lets)
  with_reducible (apply Keeps.put; assumption; exact Nat.le_refl _)
  (with_reducible intro; with_reducible intros; try beta_reduce; try lift_lets); with_reducible apply keeps_askSpare; split
  with_reducible (apply keeps_sendRebuild; assumption; assumption)
theorem keeps_execMirSeal {s t : State} (h : Keeps s t) (x1) (x2) : KeepsX s (execMirSeal x1 x2 t) := by
  unfold execMirSeal
  repeat' first
    | with_reducible assumption | exact KeepsX.refused | exact KeepsX.fault | with_reducible apply KeepsX.next | with_reducible apply keeps_placeAll
    | with_reducible apply keeps_sealCtx | split
    | ((try lift_lets); intro z; refine Keeps.named (s := s) (z := z) ?_ ?_; (try subst z); rotate_left; intro hz; clear_value z)
    | ((try lift_lets); intro z; clear_value z) | (with_reducible intro; with_reducible intros; try beta_reduce) | dsimp only
theorem keeps_execSettleExpiry {s t : State} (h : Keeps s t)  : KeepsX s (execSettleExpiry t) := by
  unfold execSettleExpiry
  with_reducible (apply KeepsX.next; apply keeps_settleExpiry; assumption)
theorem keeps_setIdentity {s t : State} (h : Keeps s t) (x1) : Keeps s (State.setIdentity t x1) := by
  unfold State.setIdentity
  with_reducible (apply keeps_broadcastRoute; apply keeps_chooseMaster; apply keeps_checkConflict); lift_lets
  (with_reducible intro; with_reducible intros; try beta_reduce; try lift_lets)
  with_reducible (apply Keeps.put; assumption; exact Nat.le_refl _)
theorem keeps_startIdentity {s t : State} (h : Keeps s t) (x1) (x2) (x3) (x4) : KeepsP s (State.startIdentity t x1 x2 x3 x4) := by
  unfold State.startIdentity
  with_reducible apply keeps_doneOk; split; lift_lets; (with_reducible intro; with_reducible intros; try beta_reduce; try lift_lets)
  with_reducible (apply Keeps.put; apply keeps_setIdentity; assumption; exact Nat.le_refl _; apply keeps_setIdentity; assumption)
theorem keeps_startPair {s t : State} (h : Keeps s t) (x1) (x2) (x3) (x4) (x5) (x6) (x7) (x8) (x9) : KeepsP s (State.startPair t x1 x2 x3 x4 x5 x6 x7 x8 x9) := by
  unfold State.startPair
  with_reducible (apply keeps_doneOk; apply keeps_modMir; assumption)
theorem keeps_sendRuns {s t : State} (h : Keeps s t) (x1) (x2) (x3) (x4) (x5) : KeepsP s (State.sendRuns t x1 x2 x3 x4 x5) := by
  unfold State.sendRuns
  split
  · exact KeepsP.mk h
  · refine KeepsP.foldl (KeepsP.mk h) fun a x ha => ?_
    split
    · exact keeps_sendBytes ha ..
    · exact ha
theorem keeps_sendPieces {s t : State} (h : Keeps s t) (x1) (x2) : KeepsP s (State.sendPieces t x1 x2) := by
  unfold State.sendPieces
  dsimp only
  split
  · exact KeepsP.mk h
  · refine KeepsP.foldl (KeepsP.mk h) fun a x ha => ?_
    split
    · exact ha
    · exact keeps_sendBytes ha ..
theorem keeps_startSync {s t : State} (h : Keeps s t) (x1) (x2) : KeepsP s (State.startSync t x1 x2) := by
  unfold State.startSync
  lift_lets
  intro x u g m a s1 runs sent s2 s3 rec_
  have hg : Keeps s u := keeps_guardBoundary h x1.ctx
  have hk : Keeps s s3 := keeps_modMir (keeps_modCmd (keeps_modSched hg _) ..) ..
  split
  · exact keeps_doneOk h _
  · split
    · exact keeps_doneOk hg _
    · clear_value s3
      split
      rename_i w ok e
      have hw := KeepsP.elim e (keeps_sendRuns hk ..)
      split
      rename_i y ok2 e2
      have hy : Keeps s y := by
        split at e2
        · exact KeepsP.elim e2 (keeps_sendPieces hw ..)
        · cases e2; exact hw
      split
      rename_i z ok3 e3
      have hz : Keeps s z := by
        refine KeepsP.elim e3 ?_
        split
        · exact KeepsP.mk hy
        · refine KeepsP.foldl (KeepsP.mk hy) fun a x ha => ?_
          split
          · exact keeps_sendBytes ha ..
          · exact ha
      split <;> exact KeepsP.mk hz
theorem keeps_interContext {s t : State} (h : Keeps s t) (x1) : KeepsO s (State.interContext t x1) := by
  unfold State.interContext
  (dsimp +zetaDelta only; split); with_reducible exact KeepsO.none; split
  with_reducible (apply KeepsO.some; apply keeps_modMir; apply keeps_modMem; apply keeps_modCtx); lift_lets
  refine KeepsP.elim (by with_reducible assumption) ?_; with_reducible (apply keeps_startCreate; assumption)
  (with_reducible intro; with_reducible intros; try beta_reduce; try lift_lets); with_reducible (assumption; exact KeepsO.none)
theorem keeps_modInter {s t : State} (h : Keeps s t) (x1) : Keeps s (State.modInter t x1) := by
  unfold State.modInter
  lift_lets; (with_reducible intro; with_reducible intros; try beta_reduce; try lift_lets)
  with_reducible (apply Keeps.put; assumption; exact Nat.le_refl _)
theorem keeps_requestRuns {s t : State} (h : Keeps s t) (x1) (x2) (x3) (x4) : KeepsP s (State.requestRuns t x1 x2 x3 x4) := by
  unfold State.requestRuns
  dsimp only
  split
  · exact KeepsP.mk h
  · refine KeepsP.foldl (KeepsP.mk (keeps_modCmd h _ _)) fun a x ha => ?_
    exact KeepsP.mk (KeepsP.fst (keeps_trySend ha ..))
theorem keeps_requestState {s t : State} (h : Keeps s t) (x1) : KeepsP s (State.requestState t x1) := by
  unfold State.requestState
  dsimp only
  split
  · exact keeps_requestRuns h ..
  · exact keeps_requestRuns h ..
  · refine KeepsP.foldl (KeepsP.mk h) fun a x ha => ?_
    split
    · exact ha
    · exact keeps_requestRuns ha ..
theorem keeps_loadRanges {s t : State} (h : Keeps s t) (x1) (x2) (x3) : Keeps s (State.loadRanges t x1 x2 x3) := by
  unfold State.loadRanges
  with_reducible (apply keeps_markDirty; apply keeps_modPages; apply keeps_setMem; apply Keeps.foldl; assumption)
  (with_reducible intro; with_reducible intros; try beta_reduce; try lift_lets); with_reducible (apply keeps_setMem; assumption)
  (with_reducible intro; with_reducible intros; try beta_reduce; try lift_lets); exact memWf_memClear (by with_reducible assumption) _ _
  (with_reducible intro; with_reducible intros; try beta_reduce; try lift_lets); exact memWf_memApply (by with_reducible assumption) _
theorem keeps_restored {s t : State} (h : Keeps s t) (x1) (x2) : Keeps s (State.restored t x1 x2) := by
  unfold State.restored
  with_reducible apply keeps_modCtx; lift_lets; with_reducible (apply Keeps.put; apply keeps_modPv; assumption; exact Nat.le_refl _)
  (with_reducible intro; with_reducible intros; try beta_reduce; try lift_lets); with_reducible assumption
theorem keeps_loadScales {s t : State} (h : Keeps s t) (x1) (x2) : Keeps s (State.loadScales t x1 x2) := by
  unfold State.loadScales
  with_reducible (apply keeps_modCtx; assumption); (with_reducible intro; with_reducible intros; try beta_reduce; try lift_lets)
  with_reducible assumption
theorem keeps_startRestore {s t : State} (h : Keeps s t) (x1) (x2) (x3) (x4) : KeepsP s (State.startRestore t x1 x2 x3 x4) := by
  unfold State.startRestore
  with_reducible apply KeepsP.mk; split; with_reducible (apply KeepsP.fst; apply keeps_doneBad; assumption); split; split; split; split
  lift_lets; (with_reducible intro; with_reducible intros; try beta_reduce; try lift_lets)
  with_reducible (apply KeepsP.fst; apply keeps_doneOk; apply keeps_restored; apply keeps_modCtx; apply keeps_loadRanges; assumption)
  (with_reducible intro; with_reducible intros; try beta_reduce; try lift_lets); with_reducible assumption; lift_lets
  (with_reducible intro; with_reducible intros; try beta_reduce; try lift_lets)
  with_reducible (apply KeepsP.fst; apply keeps_doneOk; apply keeps_restored; apply keeps_modCtx; assumption)
  (with_reducible intro; with_reducible intros; try beta_reduce; try lift_lets); with_reducible assumption; lift_lets
  (with_reducible intro; with_reducible intros; try beta_reduce; try lift_lets)
  with_reducible (apply KeepsP.fst; apply keeps_doneOk; apply keeps_restored; assumption); lift_lets
  (with_reducible intro; with_reducible intros; try beta_reduce; try lift_lets)
  with_reducible (apply KeepsP.fst; apply keeps_doneOk; apply keeps_restored; assumption); (dsimp +zetaDelta only; split)
  with_reducible (apply KeepsP.fst; apply KeepsP.mk); lift_lets
  with_reducible (apply KeepsP.fst; apply keeps_requestRuns; apply keeps_modCmd; apply keeps_modMir; assumption; apply KeepsP.fst; apply keeps_doneBad)
  with_reducible (apply keeps_modMir); lift_lets
  with_reducible (apply KeepsP.fst; apply keeps_requestRuns; apply keeps_modCmd; apply keeps_modMir; assumption); split
  with_reducible (apply KeepsP.fst; apply keeps_doneBad; assumption); split; with_reducible (apply KeepsP.fst; apply keeps_doneBad; assumption)
  lift_lets; (with_reducible intro; with_reducible intros; try beta_reduce; try lift_lets)
  with_reducible (apply KeepsP.fst; apply keeps_doneOk; apply keeps_restored; apply keeps_loadScales; apply keeps_loadRanges; assumption)
theorem keeps_commitSync {s t : State} (h : Keeps s t) (x1) (x2) (x3) : Keeps s (State.commitSync t x1 x2 x3) := by
  unfold State.commitSync
  split; with_reducible (assumption; apply keeps_endCmd; apply Keeps.foldl; apply keeps_count; apply keeps_modMir); lift_lets
  with_reducible (apply Keeps.put; assumption; exact Nat.le_succ _)
  (with_reducible intro; with_reducible intros; try beta_reduce; try lift_lets); with_reducible (apply keeps_send; assumption)
theorem keeps_commitRestore {s t : State} (h : Keeps s t) (x1) (x2) (x3) (x4) : Keeps s (State.commitRestore t x1 x2 x3 x4) := by
  unfold State.commitRestore
  split
  with_reducible (assumption; apply keeps_endCmd; apply keeps_modMir; apply keeps_restored; apply keeps_loadScales; apply keeps_clearPoison)
  with_reducible (apply keeps_writeCells; assumption)

/-! ### Job -/

theorem keeps_noteChange {s t : State} (h : Keeps s t) (x1) (x2) : Keeps s (State.noteChange t x1 x2) := by
  unfold State.noteChange
  (dsimp +zetaDelta only; split)
  with_reducible (apply Keeps.put; assumption; exact Nat.le_refl _; apply Keeps.put; assumption; exact Nat.le_refl _)
theorem keeps_tellJob {s t : State} (h : Keeps s t) (x1) (x2) : Keeps s (State.tellJob t x1 x2) := by
  unfold State.tellJob
  with_reducible (apply Keeps.foldl; assumption); (with_reducible intro; with_reducible intros; try beta_reduce; try lift_lets)
  with_reducible (apply keeps_send; assumption)
theorem keeps_tellChange {s t : State} (h : Keeps s t) (x1) (x2) (x3) : Keeps s (State.tellChange t x1 x2 x3) := by
  unfold State.tellChange
  repeat' first
    | with_reducible assumption | with_reducible apply keeps_tellJob | split
    | ((try lift_lets); intro z; refine Keeps.named (s := s) (z := z) ?_ ?_; (try subst z); rotate_left; intro hz; clear_value z)
    | ((try lift_lets); intro z; clear_value z) | (with_reducible intro; with_reducible intros; try beta_reduce) | dsimp only
theorem keeps_resumeChanges {s t : State} (h : Keeps s t) : Keeps s (State.resumeChanges t) := by
  unfold State.resumeChanges
  repeat' first
    | with_reducible assumption | exact Nat.le_refl _ | exact Nat.le_succ _ | with_reducible apply keeps_tellChange | with_reducible apply Keeps.foldl
    | with_reducible apply KeepsP.foldl | (with_reducible apply KeepsP.fst; with_reducible apply KeepsP.foldl)
    | (with_reducible apply Keeps.put; with_reducible assumption) | (with_reducible apply Keeps.putCtxs; with_reducible assumption)
    | (with_reducible apply Keeps.put; first | with_reducible apply keeps_tellChange | with_reducible apply Keeps.foldl)
    | (intro g; exact gensOk_map g _ (by intro x hx; exact hx)) | (intro x hx; (try dsimp only); (repeat' split) <;> first | exact hx | decide)
    | split | ((try lift_lets); intro z; refine Keeps.named (s := s) (z := z) ?_ ?_; (try subst z); rotate_left; intro hz; clear_value z)
    | ((try lift_lets); intro z; (have _ : z = t.free := by subst z; rfl); subst z) | ((try lift_lets); intro z; clear_value z)
    | (with_reducible intro; with_reducible intros; try beta_reduce) | dsimp only
theorem keeps_abortInter {s t : State} (h : Keeps s t) (x1) : Keeps s (State.abortInter t x1) := by
  unfold State.abortInter
  repeat' first
    | with_reducible assumption | exact Nat.le_refl _ | exact Nat.le_succ _ | with_reducible apply keeps_resumeChanges
    | with_reducible apply keeps_enterFencing | with_reducible apply keeps_setIdentity | with_reducible apply keeps_endCmd
    | (with_reducible apply Keeps.put; with_reducible assumption) | (with_reducible apply Keeps.putCtxs; with_reducible assumption)
    | (with_reducible apply Keeps.put; first | with_reducible apply keeps_resumeChanges | with_reducible apply keeps_enterFencing | with_reducible apply keeps_setIdentity | with_reducible apply keeps_endCmd)
    | (intro x hx; (try dsimp only); (repeat' split) <;> exact hx) | split
    | ((try lift_lets); intro z; refine Keeps.named (s := s) (z := z) ?_ ?_; (try subst z); rotate_left; intro hz; clear_value z)
    | ((try lift_lets); intro z; (have _ : z = t.free := by subst z; rfl); subst z) | ((try lift_lets); intro z; clear_value z)
    | (with_reducible intro; with_reducible intros; try beta_reduce) | dsimp only
theorem keeps_commitInter {s t : State} (h : Keeps s t) (x1) (x2) : Keeps s (State.commitInter t x1 x2) := by
  unfold State.commitInter
  repeat' first
    | with_reducible assumption | exact Nat.le_refl _ | exact Nat.le_succ _ | with_reducible apply keeps_abortInter
    | with_reducible apply keeps_loadRanges | with_reducible apply keeps_loadScales | with_reducible apply keeps_modPv
    | with_reducible apply keeps_modMir | with_reducible apply keeps_restored | with_reducible apply keeps_endCmd | with_reducible apply KeepsO.map
    | with_reducible apply KeepsO.mapVal | (with_reducible apply Keeps.put; with_reducible assumption)
    | (with_reducible apply Keeps.putCtxs; with_reducible assumption)
    | (with_reducible apply Keeps.put; first | with_reducible apply keeps_abortInter | with_reducible apply keeps_loadRanges | with_reducible apply keeps_loadScales | with_reducible apply keeps_modPv | with_reducible apply keeps_modMir | with_reducible apply keeps_restored | with_reducible apply keeps_endCmd)
    | (intro g; exact gensOk_map g _ (by intro x hx; exact hx)) | (intro x hx; (try dsimp only); (repeat' split) <;> first | exact hx | decide)
    | split | ((try lift_lets); intro z; refine Keeps.named (s := s) (z := z) ?_ ?_; (try subst z); rotate_left; intro hz; clear_value z)
    | ((try lift_lets); intro z; (have _ : z = t.free := by subst z; rfl); subst z) | ((try lift_lets); intro z; clear_value z)
    | (with_reducible intro; with_reducible intros; try beta_reduce) | dsimp only
theorem keeps_interRecord {s t : State} (h : Keeps s t) (x1) : Keeps s (State.interRecord t x1) := by
  unfold State.interRecord
  repeat' first
    | with_reducible assumption | exact KeepsO.none | with_reducible apply KeepsP.mk | with_reducible apply KeepsO.some
    | with_reducible apply keeps_interContext | with_reducible apply keeps_abortInter | with_reducible apply keeps_modInter
    | (with_reducible apply KeepsP.fst; with_reducible apply keeps_requestState) | with_reducible apply keeps_requestState | split
    | ((try lift_lets); intro z; refine Keeps.named (s := s) (z := z) ?_ ?_; (try subst z); rotate_left; intro hz; clear_value z)
    | ((try lift_lets); intro z; refine KeepsP.named (s := s) (z := z) ?_ ?_; (try subst z); rotate_left; intro hz; clear_value z)
    | (with_reducible apply KeepsP.fst; with_reducible apply KeepsP.mk) | (with_reducible apply KeepsP.fst; with_reducible assumption)
    | ((try lift_lets); intro z; refine KeepsO.named (s := s) (z := z) ?_ ?_; (try subst z); rotate_left; intro hz; clear_value z)
    | ((try lift_lets); intro z; clear_value z) | (with_reducible intro; with_reducible intros; try beta_reduce)
    | (refine KeepsP.elim (by with_reducible assumption) ?_) | (refine KeepsO.elim (by with_reducible assumption) ?_) | dsimp only
theorem keeps_takeCopy {s t : State} (h : Keeps s t) (x1) (x2) (x3) : Keeps s (State.takeCopy t x1 x2 x3) := by
  unfold State.takeCopy
  repeat' first
    | with_reducible assumption | with_reducible apply keeps_modCmd | with_reducible apply keeps_modInter | with_reducible apply keeps_interRecord
    | split | ((try lift_lets); intro z; refine Keeps.named (s := s) (z := z) ?_ ?_; (try subst z); rotate_left; intro hz; clear_value z)
    | ((try lift_lets); intro z; clear_value z) | (with_reducible intro; with_reducible intros; try beta_reduce) | dsimp only
theorem keeps_takeReadResp {s t : State} (h : Keeps s t) (x1) (x2) : Keeps s (State.takeReadResp t x1 x2) := by
  unfold State.takeReadResp
  repeat' first
    | with_reducible assumption | with_reducible apply KeepsP.mk | (with_reducible apply KeepsP.fst; with_reducible apply keeps_arrive)
    | with_reducible apply keeps_arrive | with_reducible apply keeps_takeCopy | (with_reducible apply KeepsP.fst; with_reducible apply keeps_genCheck)
    | with_reducible apply keeps_genCheck | split
    | ((try lift_lets); intro z; refine Keeps.named (s := s) (z := z) ?_ ?_; (try subst z); rotate_left; intro hz; clear_value z)
    | ((try lift_lets); intro z; refine KeepsP.named (s := s) (z := z) ?_ ?_; (try subst z); rotate_left; intro hz; clear_value z)
    | (with_reducible apply KeepsP.fst; with_reducible apply KeepsP.mk) | (with_reducible apply KeepsP.fst; with_reducible assumption)
    | ((try lift_lets); intro z; clear_value z) | (with_reducible intro; with_reducible intros; try beta_reduce)
    | (refine KeepsP.elim (by with_reducible assumption) ?_) | dsimp only
theorem keeps_execFabReadResp {s t : State} (h : Keeps s t) (x1) (x2) : KeepsX s (execFabReadResp x1 x2 t) := by
  unfold execFabReadResp
  repeat' first
    | with_reducible assumption | exact KeepsX.refused | exact KeepsX.fault | with_reducible apply KeepsX.next | with_reducible apply keeps_placeAll
    | with_reducible apply keeps_takeReadResp | split
    | ((try lift_lets); intro z; refine Keeps.named (s := s) (z := z) ?_ ?_; (try subst z); rotate_left; intro hz; clear_value z)
    | ((try lift_lets); intro z; clear_value z) | (with_reducible intro; with_reducible intros; try beta_reduce) | dsimp only
theorem keeps_startInter {s t : State} (h : Keeps s t) (x1) (x2) (x3) (x4) (x5) (x6) : KeepsP s (State.startInter t x1 x2 x3 x4 x5 x6) := by
  unfold State.startInter
  repeat' first
    | with_reducible assumption | exact Nat.le_refl _ | exact Nat.le_succ _ | with_reducible apply KeepsP.mk
    | (with_reducible apply KeepsP.fst; with_reducible apply keeps_doneBad) | with_reducible apply keeps_doneBad
    | with_reducible apply keeps_setIdentity | with_reducible apply keeps_interRecord
    | (with_reducible apply KeepsP.fst; with_reducible apply keeps_requestRuns) | with_reducible apply keeps_requestRuns
    | with_reducible apply keeps_abortInter | (with_reducible apply Keeps.put; with_reducible assumption)
    | (with_reducible apply Keeps.putCtxs; with_reducible assumption)
    | (with_reducible apply Keeps.put; first | (with_reducible apply KeepsP.fst; with_reducible apply keeps_doneBad) | with_reducible apply keeps_doneBad | with_reducible apply keeps_setIdentity | with_reducible apply keeps_interRecord | (with_reducible apply KeepsP.fst; with_reducible apply keeps_requestRuns) | with_reducible apply keeps_requestRuns | with_reducible apply keeps_abortInter)
    | (intro x hx; (try dsimp only); (repeat' split) <;> first | exact hx | decide) | split
    | ((try lift_lets); intro z; refine Keeps.named (s := s) (z := z) ?_ ?_; (try subst z); rotate_left; intro hz; clear_value z)
    | ((try lift_lets); intro z; refine KeepsP.named (s := s) (z := z) ?_ ?_; (try subst z); rotate_left; intro hz; clear_value z)
    | (with_reducible apply KeepsP.fst; with_reducible apply KeepsP.mk) | (with_reducible apply KeepsP.fst; with_reducible assumption)
    | ((try lift_lets); intro z; (have _ : z = t.free := by subst z; rfl); subst z) | ((try lift_lets); intro z; clear_value z)
    | (with_reducible intro; with_reducible intros; try beta_reduce) | (refine KeepsP.elim (by with_reducible assumption) ?_) | dsimp only
theorem keeps_interCheck {s t : State} (h : Keeps s t) : Keeps s (State.interCheck t) := by
  unfold State.interCheck
  repeat' first
    | with_reducible assumption | with_reducible apply KeepsP.mk | with_reducible apply keeps_modCmd
    | (with_reducible apply KeepsP.fst; with_reducible apply keeps_requestState) | with_reducible apply keeps_requestState
    | with_reducible apply keeps_modInter | with_reducible apply keeps_abortInter | split
    | ((try lift_lets); intro z; refine Keeps.named (s := s) (z := z) ?_ ?_; (try subst z); rotate_left; intro hz; clear_value z)
    | ((try lift_lets); intro z; refine KeepsP.named (s := s) (z := z) ?_ ?_; (try subst z); rotate_left; intro hz; clear_value z)
    | (with_reducible apply KeepsP.fst; with_reducible apply KeepsP.mk) | (with_reducible apply KeepsP.fst; with_reducible assumption)
    | ((try lift_lets); intro z; clear_value z) | (with_reducible intro; with_reducible intros; try beta_reduce)
    | (refine KeepsP.elim (by with_reducible assumption) ?_) | dsimp only
theorem keeps_beginChange {s t : State} (h : Keeps s t) (x1) (x2) : Keeps s (State.beginChange t x1 x2) := by
  unfold State.beginChange
  repeat' first
    | with_reducible assumption | with_reducible apply keeps_tellChange | with_reducible apply keeps_noteChange | split
    | ((try lift_lets); intro z; refine Keeps.named (s := s) (z := z) ?_ ?_; (try subst z); rotate_left; intro hz; clear_value z)
    | ((try lift_lets); intro z; clear_value z) | (with_reducible intro; with_reducible intros; try beta_reduce) | dsimp only
theorem keeps_startRelease {s t : State} (h : Keeps s t) (x1) (x2) (x3) : KeepsP s (State.startRelease t x1 x2 x3) := by
  unfold State.startRelease
  with_reducible apply KeepsP.mk; split
  with_reducible (apply KeepsP.fst; apply keeps_doneBad; assumption; apply keeps_beginChange; assumption)
theorem keeps_startJoin {s t : State} (h : Keeps s t) (x1) (x2) (x3) (x4) (x5) (x6) : KeepsP s (State.startJoin t x1 x2 x3 x4 x5 x6) := by
  unfold State.startJoin
  with_reducible apply KeepsP.mk; split; (dsimp +zetaDelta only; split); with_reducible (apply KeepsP.fst; apply keeps_doneBad; assumption)
  split; with_reducible (apply KeepsP.fst; apply keeps_doneBad; assumption; apply KeepsP.fst; apply KeepsP.mk); lift_lets
  with_reducible (apply Keeps.put; apply keeps_tellJob; assumption; exact Nat.le_refl _); lift_lets
  (with_reducible intro; with_reducible intros; try beta_reduce; try lift_lets); with_reducible (apply KeepsP.fst; apply KeepsP.mk); lift_lets
  with_reducible (apply Keeps.put; apply keeps_send; assumption; exact Nat.le_refl _)
theorem keeps_dropChange {s t : State} (h : Keeps s t) (x1) : Keeps s (State.dropChange t x1) := by
  unfold State.dropChange
  with_reducible (apply Keeps.put; assumption; exact Nat.le_refl _)
theorem keeps_jobCheck {s t : State} (h : Keeps s t) : Keeps s (State.jobCheck t) := by
  unfold State.jobCheck
  repeat' first
    | with_reducible assumption | exact Nat.le_refl _ | exact Nat.le_succ _ | with_reducible apply keeps_endCmd
    | with_reducible apply keeps_dropChange | with_reducible apply Keeps.foldl | with_reducible apply KeepsP.foldl
    | (with_reducible apply KeepsP.fst; with_reducible apply KeepsP.foldl) | with_reducible apply KeepsO.map | with_reducible apply KeepsO.mapVal
    | (with_reducible apply Keeps.put; with_reducible assumption) | (with_reducible apply Keeps.putCtxs; with_reducible assumption)
    | (with_reducible apply Keeps.put; first | with_reducible apply keeps_endCmd | with_reducible apply keeps_dropChange | with_reducible apply Keeps.foldl)
    | (intro g; exact gensOk_map g _ (by intro x hx; exact hx)) | (intro x hx; (try dsimp only); (repeat' split) <;> first | exact hx | decide)
    | split | ((try lift_lets); intro z; refine Keeps.named (s := s) (z := z) ?_ ?_; (try subst z); rotate_left; intro hz; clear_value z)
    | ((try lift_lets); intro z; (have _ : z = t.free := by subst z; rfl); subst z) | ((try lift_lets); intro z; clear_value z)
    | (with_reducible intro; with_reducible intros; try beta_reduce) | dsimp only
theorem keeps_afterFailure {s t u : State} (k : Keeps s u) : Keeps s (State.afterFailure t u) := by
  unfold State.afterFailure
  split
  · exact k
  · exact keeps_jobCheck (keeps_interCheck k)
theorem keeps_execHeartbeatMiss {s t : State} (h : Keeps s t) (x1) : KeepsX s (execHeartbeatMiss x1 t) := by
  unfold execHeartbeatMiss
  repeat' first
    | with_reducible assumption | exact KeepsX.refused | exact KeepsX.fault | with_reducible apply KeepsX.next | with_reducible apply keeps_placeAll
    | with_reducible apply keeps_afterFailure | with_reducible apply keeps_heartbeatMiss | split
    | ((try lift_lets); intro z; refine Keeps.named (s := s) (z := z) ?_ ?_; (try subst z); rotate_left; intro hz; clear_value z)
    | ((try lift_lets); intro z; clear_value z) | (with_reducible intro; with_reducible intros; try beta_reduce) | dsimp only
theorem keeps_execFlitReceive {s t : State} (h : Keeps s t) (x1) (x2) : KeepsX s (execFlitReceive x1 x2 t) := by
  unfold execFlitReceive
  repeat' first
    | with_reducible assumption | exact KeepsX.refused | exact KeepsX.fault | with_reducible apply KeepsX.next | with_reducible apply keeps_placeAll
    | with_reducible apply keeps_afterFailure | with_reducible apply keeps_flitReceive | split
    | ((try lift_lets); intro z; refine Keeps.named (s := s) (z := z) ?_ ?_; (try subst z); rotate_left; intro hz; clear_value z)
    | ((try lift_lets); intro z; clear_value z) | (with_reducible intro; with_reducible intros; try beta_reduce) | dsimp only
theorem keeps_applyChange {s t : State} (h : Keeps s t) (x1) : Keeps s (State.applyChange t x1) := by
  unfold State.applyChange
  split; with_reducible (apply keeps_dropChange; assumption); split; (dsimp +zetaDelta only; split)
  with_reducible (apply Keeps.put; apply keeps_modPv; apply keeps_dropChange; assumption; exact Nat.le_refl _; apply Keeps.put; apply keeps_modPv)
  with_reducible (apply keeps_dropChange; assumption; exact Nat.le_refl _); (dsimp +zetaDelta only; split)
  with_reducible (apply Keeps.put; apply keeps_modPv; apply keeps_dropChange; assumption; exact Nat.le_refl _; apply Keeps.put; apply keeps_modPv)
  with_reducible (apply keeps_dropChange; assumption; exact Nat.le_refl _)
theorem keeps_commitRelease {s t : State} (h : Keeps s t) (x1) (x2) : Keeps s (State.commitRelease t x1 x2) := by
  unfold State.commitRelease
  repeat' first
    | with_reducible assumption | with_reducible apply keeps_applyChange | with_reducible apply keeps_tellJob | with_reducible apply keeps_endCmd
    | with_reducible apply keeps_enterFencing | split
    | ((try lift_lets); intro z; refine Keeps.named (s := s) (z := z) ?_ ?_; (try subst z); rotate_left; intro hz; clear_value z)
    | ((try lift_lets); intro z; clear_value z) | (with_reducible intro; with_reducible intros; try beta_reduce) | dsimp only
theorem keeps_recordsAt {s t : State} (h : Keeps s t) (x1) (x2) : Keeps s (State.recordsAt t x1 x2) := by
  unfold State.recordsAt
  with_reducible (apply keeps_modCtx; assumption); (with_reducible intro; with_reducible intros; try beta_reduce; try lift_lets)
  with_reducible assumption
theorem keeps_commitJoin {s t : State} (h : Keeps s t) (x1) (x2) (x3) (x4) (x5) (x6) (x7) : Keeps s (State.commitJoin t x1 x2 x3 x4 x5 x6 x7) := by
  unfold State.commitJoin
  repeat' first
    | with_reducible assumption | exact Nat.le_refl _ | exact Nat.le_succ _ | with_reducible apply keeps_modPv | with_reducible apply keeps_dropChange
    | with_reducible apply keeps_endCmd | with_reducible apply keeps_recordsAt | with_reducible apply keeps_tellJob
    | with_reducible apply keeps_loadScales | (with_reducible apply Keeps.put; with_reducible assumption)
    | (with_reducible apply Keeps.putCtxs; with_reducible assumption)
    | (with_reducible apply Keeps.put; first | with_reducible apply keeps_modPv | with_reducible apply keeps_dropChange | with_reducible apply keeps_endCmd | with_reducible apply keeps_recordsAt | with_reducible apply keeps_tellJob | with_reducible apply keeps_loadScales)
    | (intro x hx; (try dsimp only); (repeat' split) <;> exact hx) | split
    | ((try lift_lets); intro z; refine Keeps.named (s := s) (z := z) ?_ ?_; (try subst z); rotate_left; intro hz; clear_value z)
    | ((try lift_lets); intro z; (have _ : z = t.free := by subst z; rfl); subst z) | ((try lift_lets); intro z; clear_value z)
    | (with_reducible intro; with_reducible intros; try beta_reduce) | dsimp only

end Sys2Proof.Machine
end

