-- ==== Sys2Proof/Laws/KeepsRas.lean ====
section
/-! SUPPORT. Every operation of hangs, diagnostics, command starts and ends, graphs and serving keeps the queue, the canonical form of memory and the
generations of contexts, and takes back no draw (`Keeps`). The proofs follow the operations' own shape. -/
namespace Sys2Proof.Machine

/-! ### Hangs -/

theorem keeps_haltAll {s t : State} (h : Keeps s t) (x1) : Keeps s (State.haltAll t x1) := by
  unfold State.haltAll
  with_reducible (apply Keeps.foldl; assumption); (with_reducible intro; with_reducible intros; try beta_reduce; try lift_lets); split
  with_reducible (apply keeps_fenceCtx; assumption; assumption)
theorem keeps_beginReset {s t : State} (h : Keeps s t) (x1) (x2) (x3) (x4) : Keeps s (State.beginReset t x1 x2 x3 x4) := by
  unfold State.beginReset
  with_reducible (apply keeps_haltAll; apply keeps_count; apply keeps_modRas; apply Keeps.foldl); split; (dsimp +zetaDelta only; split)
  with_reducible (assumption; apply keeps_modRas; assumption; assumption)
  (with_reducible intro; with_reducible intros; try beta_reduce; try lift_lets); with_reducible (apply keeps_modSlice; assumption)
theorem keeps_noteHang {s t : State} (h : Keeps s t) (x1) (x2) (x3) (x4) (x5) : Keeps s (State.noteHang t x1 x2 x3 x4 x5) := by
  unfold State.noteHang
  with_reducible (apply keeps_count; apply keeps_modRas; assumption)
theorem keeps_markGuilty {s t : State} (h : Keeps s t) (x1) : Keeps s (State.markGuilty t x1) := by
  unfold State.markGuilty
  split; with_reducible assumption; (dsimp +zetaDelta only; split); with_reducible (apply keeps_modCtx; assumption)
  (with_reducible intro; with_reducible intros; try beta_reduce; try lift_lets); with_reducible (assumption; apply keeps_raise); split
  with_reducible (apply keeps_fenceCtx; apply keeps_modCtx; assumption)
  (with_reducible intro; with_reducible intros; try beta_reduce; try lift_lets); with_reducible (assumption; apply keeps_modCtx; assumption)
  (with_reducible intro; with_reducible intros; try beta_reduce; try lift_lets); with_reducible assumption
theorem keeps_budgetHang {s t : State} (h : Keeps s t) (x1) (x2) (x3) : Keeps s (State.budgetHang t x1 x2 x3) := by
  unfold State.budgetHang
  split; with_reducible assumption; split; with_reducible assumption; split
  with_reducible (apply keeps_markGuilty; apply keeps_failCmd; apply keeps_raiseRoot; apply keeps_noteHang; assumption; apply keeps_modRas)
  with_reducible (apply keeps_raiseRoot; apply keeps_noteHang; assumption)
theorem keeps_channelLost {s t : State} (h : Keeps s t) (x1) (x2) : Keeps s (State.channelLost t x1 x2) := by
  unfold State.channelLost
  repeat' first
    | with_reducible assumption | with_reducible apply keeps_poisonPages | with_reducible apply keeps_stackOut | with_reducible apply keeps_retirePart
    | with_reducible apply keeps_modStack | with_reducible apply keeps_modMem | with_reducible apply keeps_ledgerAdd
    | with_reducible apply keeps_shrinkAll | split
    | ((try lift_lets); intro z; refine Keeps.named (s := s) (z := z) ?_ ?_; (try subst z); rotate_left; intro hz; clear_value z)
    | ((try lift_lets); intro z; clear_value z) | (with_reducible intro; with_reducible intros; try beta_reduce) | dsimp only
theorem keeps_fencedReturn {s t : State} (h : Keeps s t) (x1) : Keeps s (State.fencedReturn t x1) := by
  unfold State.fencedReturn
  with_reducible (apply Keeps.foldl; assumption); (with_reducible intro; with_reducible intros; try beta_reduce; try lift_lets)
  with_reducible (apply keeps_failCid; assumption)
theorem keeps_killInside {s t : State} (h : Keeps s t) (x1) (x2) : Keeps s (State.killInside t x1 x2) := by
  unfold State.killInside
  split; split; with_reducible (apply keeps_failCmd; assumption; apply keeps_failCmd; assumption); split
  with_reducible (apply keeps_markGuilty; apply keeps_failCmd; assumption; apply keeps_modRas; apply keeps_rollback; assumption)
theorem keeps_namedCtx {s t : State} (h : Keeps s t) (x1) : KeepsQ s (State.namedCtx t x1) := by
  unfold State.namedCtx
  with_reducible apply KeepsQ.mk; split; with_reducible (assumption; assumption; assumption); split
  with_reducible (assumption; apply KeepsQ.snd; apply KeepsQ.mk); lift_lets; with_reducible (apply Keeps.put; assumption; exact Nat.le_succ _)
theorem keeps_reopen {s t : State} (h : Keeps s t) (x1) : Keeps s (State.reopen t x1) := by
  unfold State.reopen
  with_reducible (apply Keeps.foldl; assumption); (with_reducible intro; with_reducible intros; try beta_reduce; try lift_lets)
  with_reducible (apply keeps_modSlice; assumption)
theorem keeps_resetFailed {s t : State} (h : Keeps s t) (x1) : Keeps s (State.resetFailed t x1) := by
  unfold State.resetFailed
  split; with_reducible assumption; split
  with_reducible (apply keeps_channelLost; apply keeps_modRas; assumption; apply keeps_dropLink; apply keeps_linkDown; apply keeps_modRas; assumption)
  with_reducible (apply keeps_deviceReset; apply keeps_raiseRoot; apply Keeps.foldl; apply keeps_modRas; assumption)
  (with_reducible intro; with_reducible intros; try beta_reduce; try lift_lets)
  with_reducible (apply keeps_retirePart; apply keeps_modRas; assumption)
theorem keeps_resetReturn {s t : State} (h : Keeps s t) (x1) : Keeps s (State.resetReturn t x1) := by
  unfold State.resetReturn
  split; with_reducible (assumption; apply keeps_placeAll; apply keeps_raiseRoot); split; split
  with_reducible (apply keeps_pump; apply keeps_modLink; apply keeps_modRas; assumption; apply keeps_modRas; assumption; apply keeps_reopen)
  with_reducible (apply keeps_modRas; assumption)
theorem keeps_stopTimeout {s t : State} (h : Keeps s t) (x1) (x2) : Keeps s (State.stopTimeout t x1 x2) := by
  unfold State.stopTimeout
  repeat' first
    | with_reducible assumption | with_reducible apply KeepsP.mk | with_reducible apply keeps_modRas | with_reducible apply keeps_markGuilty
    | with_reducible apply keeps_failCmd | with_reducible apply keeps_deviceReset | with_reducible apply keeps_haltAll
    | with_reducible apply keeps_beginReset | (with_reducible apply KeepsP.fst; with_reducible apply keeps_touchIncident)
    | with_reducible apply keeps_touchIncident | split
    | ((try lift_lets); intro z; refine Keeps.named (s := s) (z := z) ?_ ?_; (try subst z); rotate_left; intro hz; clear_value z)
    | ((try lift_lets); intro z; refine KeepsP.named (s := s) (z := z) ?_ ?_; (try subst z); rotate_left; intro hz; clear_value z)
    | (with_reducible apply KeepsP.fst; with_reducible apply KeepsP.mk) | (with_reducible apply KeepsP.fst; with_reducible assumption)
    | ((try lift_lets); intro z; clear_value z) | (with_reducible intro; with_reducible intros; try beta_reduce)
    | (refine KeepsP.elim (by with_reducible assumption) ?_) | dsimp only
theorem keeps_watchdogFire {s t : State} (h : Keeps s t) (x1) : Keeps s (State.watchdogFire t x1) := by
  unfold State.watchdogFire
  split; with_reducible assumption; split; split
  with_reducible (apply keeps_deviceReset; apply keeps_markGuilty; apply keeps_raiseRoot; apply keeps_noteHang); lift_lets
  refine KeepsQ.elim (by with_reducible assumption) ?_; with_reducible (apply keeps_namedCtx; assumption); split
  with_reducible (apply KeepsP.fst; apply keeps_touchIncident); lift_lets; refine KeepsQ.elim (by with_reducible assumption) ?_
  with_reducible (apply keeps_namedCtx; assumption; apply keeps_markGuilty; apply keeps_beginReset; apply keeps_raiseRoot; apply keeps_noteHang)
  lift_lets; refine KeepsQ.elim (by with_reducible assumption) ?_; with_reducible (apply keeps_namedCtx; assumption)
theorem keeps_execBudgetHang {s t : State} (h : Keeps s t) (x1) (x2) (x3) : KeepsX s (execBudgetHang x1 x2 x3 t) := by
  unfold execBudgetHang
  repeat' first
    | with_reducible assumption | exact KeepsX.refused | exact KeepsX.fault | with_reducible apply KeepsX.next | with_reducible apply keeps_placeAll
    | with_reducible apply keeps_budgetHang | split
    | ((try lift_lets); intro z; refine Keeps.named (s := s) (z := z) ?_ ?_; (try subst z); rotate_left; intro hz; clear_value z)
    | ((try lift_lets); intro z; clear_value z) | (with_reducible intro; with_reducible intros; try beta_reduce) | dsimp only
theorem keeps_execHangStopTimeout {s t : State} (h : Keeps s t) (x1) (x2) : KeepsX s (execHangStopTimeout x1 x2 t) := by
  unfold execHangStopTimeout
  repeat' first
    | with_reducible assumption | exact KeepsX.refused | exact KeepsX.fault | with_reducible apply KeepsX.next | with_reducible apply keeps_placeAll
    | with_reducible apply keeps_stopTimeout | split
    | ((try lift_lets); intro z; refine Keeps.named (s := s) (z := z) ?_ ?_; (try subst z); rotate_left; intro hz; clear_value z)
    | ((try lift_lets); intro z; clear_value z) | (with_reducible intro; with_reducible intros; try beta_reduce) | dsimp only
theorem keeps_execWatchdogFire {s t : State} (h : Keeps s t) (x1) : KeepsX s (execWatchdogFire x1 t) := by
  unfold execWatchdogFire
  repeat' first
    | with_reducible assumption | exact KeepsX.refused | exact KeepsX.fault | with_reducible apply KeepsX.next | with_reducible apply keeps_placeAll
    | with_reducible apply keeps_watchdogFire | split
    | ((try lift_lets); intro z; refine Keeps.named (s := s) (z := z) ?_ ?_; (try subst z); rotate_left; intro hz; clear_value z)
    | ((try lift_lets); intro z; clear_value z) | (with_reducible intro; with_reducible intros; try beta_reduce) | dsimp only
theorem keeps_execDomainResetReturn {s t : State} (h : Keeps s t) (x1) : KeepsX s (execDomainResetReturn x1 t) := by
  unfold execDomainResetReturn
  repeat' first
    | with_reducible assumption | exact KeepsX.refused | exact KeepsX.fault | with_reducible apply KeepsX.next | with_reducible apply keeps_placeAll
    | with_reducible apply keeps_resetReturn | split
    | ((try lift_lets); intro z; refine Keeps.named (s := s) (z := z) ?_ ?_; (try subst z); rotate_left; intro hz; clear_value z)
    | ((try lift_lets); intro z; clear_value z) | (with_reducible intro; with_reducible intros; try beta_reduce) | dsimp only
theorem keeps_execDomainResetFailed {s t : State} (h : Keeps s t) (x1) : KeepsX s (execDomainResetFailed x1 t) := by
  unfold execDomainResetFailed
  repeat' first
    | with_reducible assumption | exact KeepsX.refused | exact KeepsX.fault | with_reducible apply KeepsX.next
    | with_reducible apply keeps_resetFailed | split
    | ((try lift_lets); intro z; refine Keeps.named (s := s) (z := z) ?_ ?_; (try subst z); rotate_left; intro hz; clear_value z)
    | ((try lift_lets); intro z; clear_value z) | (with_reducible intro; with_reducible intros; try beta_reduce) | dsimp only
theorem keeps_setCore {s t : State} (h : Keeps s t) (x1) (x2) : Keeps s (State.setCore t x1 x2) := by
  unfold State.setCore
  with_reducible (apply keeps_modSched; assumption)
theorem keeps_coreRestart {s t : State} (h : Keeps s t) (x1) (x2) : Keeps s (State.coreRestart t x1 x2) := by
  unfold State.coreRestart
  split; with_reducible assumption; split
  with_reducible (apply keeps_setCore; apply keeps_modRas; assumption; apply keeps_retirePart; apply keeps_setCore; apply keeps_modRas; assumption)
theorem keeps_execCoreRestartDone {s t : State} (h : Keeps s t) (x1) (x2) : KeepsX s (execCoreRestartDone x1 x2 t) := by
  unfold execCoreRestartDone
  repeat' first
    | with_reducible assumption | exact KeepsX.refused | exact KeepsX.fault | with_reducible apply KeepsX.next
    | with_reducible apply keeps_coreRestart | split
    | ((try lift_lets); intro z; refine Keeps.named (s := s) (z := z) ?_ ?_; (try subst z); rotate_left; intro hz; clear_value z)
    | ((try lift_lets); intro z; clear_value z) | (with_reducible intro; with_reducible intros; try beta_reduce) | dsimp only
theorem keeps_moveRings {s t : State} (h : Keeps s t) (x1) : Keeps s (State.moveRings t x1) := by
  unfold State.moveRings
  split; with_reducible (apply Keeps.foldl; apply keeps_setCore; assumption)
  (with_reducible intro; with_reducible intros; try beta_reduce; try lift_lets)
  with_reducible (apply keeps_modRing; assumption; apply Keeps.foldl; assumption)
  (with_reducible intro; with_reducible intros; try beta_reduce; try lift_lets); split
  with_reducible (apply keeps_modRing; assumption; assumption)
theorem keeps_placeService {s t : State} (h : Keeps s t) (x1) : Keeps s (State.placeService t x1) := by
  unfold State.placeService
  split; with_reducible (apply keeps_moveRings; apply keeps_setCore; assumption); (dsimp +zetaDelta only; split)
  with_reducible (apply keeps_setCore; assumption; assumption)
theorem keeps_yieldCore {s t : State} (h : Keeps s t) (x1) (x2) : Keeps s (State.yieldCore t x1 x2) := by
  unfold State.yieldCore
  split
  with_reducible (apply keeps_placeService; apply keeps_moveRings; apply keeps_setCore; assumption; apply keeps_moveRings; apply keeps_setCore)
  with_reducible (assumption)
theorem keeps_pingTimeout {s t : State} (h : Keeps s t) (x1) : Keeps s (State.pingTimeout t x1) := by
  unfold State.pingTimeout
  split; with_reducible (assumption; assumption; assumption); (dsimp +zetaDelta only; split); split
  with_reducible (apply keeps_retirePart; apply keeps_yieldCore; apply keeps_modRas); lift_lets
  with_reducible (apply Keeps.put; apply keeps_count; apply keeps_raiseRoot; apply keeps_modRas; assumption; exact Nat.le_refl _)
  with_reducible (apply keeps_yieldCore; apply keeps_modRas); lift_lets
  with_reducible (apply Keeps.put; apply keeps_count; apply keeps_raiseRoot; apply keeps_modRas; assumption; exact Nat.le_refl _); split
  with_reducible (apply keeps_retirePart; apply keeps_yieldCore; apply keeps_modRas); lift_lets
  with_reducible (apply Keeps.put; apply keeps_count; apply keeps_raiseRoot; apply keeps_modRas; assumption; exact Nat.le_refl _)
  with_reducible (apply keeps_yieldCore; apply keeps_modRas); lift_lets
  with_reducible (apply Keeps.put; apply keeps_count; apply keeps_raiseRoot; apply keeps_modRas; assumption; exact Nat.le_refl _)
theorem keeps_execCorePingTimeout {s t : State} (h : Keeps s t) (x1) : KeepsX s (execCorePingTimeout x1 t) := by
  unfold execCorePingTimeout
  repeat' first
    | with_reducible assumption | exact KeepsX.refused | exact KeepsX.fault | with_reducible apply KeepsX.next
    | with_reducible apply keeps_pingTimeout | split
    | ((try lift_lets); intro z; refine Keeps.named (s := s) (z := z) ?_ ?_; (try subst z); rotate_left; intro hz; clear_value z)
    | ((try lift_lets); intro z; clear_value z) | (with_reducible intro; with_reducible intros; try beta_reduce) | dsimp only
theorem keeps_modReset {s t : State} (h : Keeps s t) (x1) (x2) : Keeps s (State.modReset t x1 x2) := by
  unfold State.modReset
  with_reducible (apply keeps_modRas; assumption)
theorem keeps_drainEnd {s t : State} (h : Keeps s t) (x1) : Keeps s (State.drainEnd t x1) := by
  unfold State.drainEnd
  split; with_reducible (assumption; apply keeps_modRas; apply keeps_modReset); split; (dsimp +zetaDelta only; split)
  with_reducible (apply keeps_modLink; apply keeps_dropLink; apply keeps_fencedReturn; assumption; apply keeps_fencedReturn; assumption)
  with_reducible (apply keeps_fencedReturn; assumption; apply Keeps.foldl; assumption)
  (with_reducible intro; with_reducible intros; try beta_reduce; try lift_lets); split
  with_reducible (apply keeps_killInside; assumption; assumption)
theorem keeps_execDomainDrainEnd {s t : State} (h : Keeps s t) (x1) : KeepsX s (execDomainDrainEnd x1 t) := by
  unfold execDomainDrainEnd
  repeat' first
    | with_reducible assumption | exact KeepsX.refused | exact KeepsX.fault | with_reducible apply KeepsX.next | with_reducible apply keeps_placeAll
    | with_reducible apply keeps_drainEnd | split
    | ((try lift_lets); intro z; refine Keeps.named (s := s) (z := z) ?_ ?_; (try subst z); rotate_left; intro hz; clear_value z)
    | ((try lift_lets); intro z; clear_value z) | (with_reducible intro; with_reducible intros; try beta_reduce) | dsimp only
theorem keeps_clearDomain {s t : State} (h : Keeps s t) (x1) : Keeps s (State.clearDomain t x1) := by
  unfold State.clearDomain
  with_reducible (apply keeps_modRas; apply Keeps.foldl; assumption)
  (with_reducible intro; with_reducible intros; try beta_reduce; try lift_lets)
  (with_reducible intro; with_reducible intros; try beta_reduce; try lift_lets)
  with_reducible (apply keeps_modRas; apply keeps_modSlice; apply Keeps.foldl; assumption)
  (with_reducible intro; with_reducible intros; try beta_reduce; try lift_lets); with_reducible (apply keeps_zeroBank; assumption)
theorem keeps_putDevice {s t : State} (h : Keeps s t) (x1) (x2) : Keeps s (State.putDevice t x1 x2) := by
  unfold State.putDevice
  (dsimp +zetaDelta only; split); with_reducible (apply keeps_modRas; assumption); split
  with_reducible (apply keeps_modRas; assumption; apply keeps_modRas; assumption)
theorem keeps_captureDone {s t : State} (h : Keeps s t) (x1) : KeepsP s (State.captureDone t x1) := by
  unfold State.captureDone
  with_reducible apply KeepsP.mk; split; with_reducible assumption; split; (dsimp +zetaDelta only; split)
  with_reducible (apply Keeps.put; apply keeps_modReset; apply keeps_clearDomain; apply keeps_modRas; apply keeps_modRas; assumption)
  with_reducible (exact Nat.le_add_right _ _; apply Keeps.put; apply keeps_modRas; apply keeps_modRas; assumption; exact Nat.le_add_right _ _)
  lift_lets; (with_reducible intro; with_reducible intros; try beta_reduce; try lift_lets); with_reducible (apply KeepsP.fst; apply KeepsP.mk)
  lift_lets; with_reducible (apply Keeps.put; apply keeps_modRas; apply keeps_modRas; assumption; exact Nat.le_add_right _ _); lift_lets
  (with_reducible intro; with_reducible intros; try beta_reduce; try lift_lets); with_reducible (apply KeepsP.fst; apply KeepsP.mk); lift_lets
  with_reducible (apply Keeps.put; apply keeps_putDevice; apply keeps_modRas; assumption; exact Nat.le_add_right _ _)

/-! ### Diag -/

theorem keeps_pumpWrite {s t : State} (h : Keeps s t) (x1) : KeepsP s (State.pumpWrite t x1) := by
  unfold State.pumpWrite
  with_reducible apply KeepsP.mk; split; with_reducible assumption; split; with_reducible assumption; split; split
  with_reducible (apply keeps_modCmd; apply keeps_writeCells; assumption; apply keeps_modCmd); lift_lets
  with_reducible (apply KeepsP.fst; apply keeps_fault; apply keeps_modCmd; apply keeps_writeCells; assumption)
theorem keeps_directWrite {s t : State} (h : Keeps s t) (x1) (x2) (x3) (x4) (x5) : KeepsP s (State.directWrite t x1 x2 x3 x4 x5) := by
  unfold State.directWrite
  with_reducible (apply keeps_pumpWrite; apply keeps_modCmd; assumption)
theorem keeps_sentinelResult {s t : State} (h : Keeps s t) (x1) : Keeps s (State.sentinelResult t x1) := by
  unfold State.sentinelResult
  dsimp +zetaDelta only
  repeat' split
  all_goals repeat' first
    | with_reducible assumption
    | with_reducible apply keeps_noteMismatch
    | with_reducible apply keeps_modRas
    | refine Keeps.foldl h fun a x ha => ?_
  all_goals
    split
    · exact keeps_modSlice ha _ _
    · exact ha
theorem keeps_execSentinelRecheck {s t : State} (h : Keeps s t) (x1) (x2) (x3) (x4) (x5) (x6) (x7) : KeepsX s (execSentinelRecheck x1 x2 x3 x4 x5 x6 x7 t) := by
  unfold execSentinelRecheck
  repeat' first
    | with_reducible assumption | exact KeepsX.refused | exact KeepsX.fault | with_reducible apply KeepsX.next
    | with_reducible apply keeps_sentinelResult | split
    | ((try lift_lets); intro z; refine Keeps.named (s := s) (z := z) ?_ ?_; (try subst z); rotate_left; intro hz; clear_value z)
    | ((try lift_lets); intro z; clear_value z) | (with_reducible intro; with_reducible intros; try beta_reduce) | dsimp only
theorem keeps_execSentinelRun {s t : State} (h : Keeps s t) (x1) (x2) (x3) (x4) (x5) (x6) (x7) : KeepsX s (execSentinelRun x1 x2 x3 x4 x5 x6 x7 t) := by
  unfold execSentinelRun
  repeat' first
    | with_reducible assumption | exact KeepsX.refused | exact KeepsX.fault | with_reducible apply KeepsX.next
    | with_reducible apply keeps_sentinelResult | split
    | ((try lift_lets); intro z; refine Keeps.named (s := s) (z := z) ?_ ?_; (try subst z); rotate_left; intro hz; clear_value z)
    | ((try lift_lets); intro z; clear_value z) | (with_reducible intro; with_reducible intros; try beta_reduce) | dsimp only
theorem keeps_runSentinel {s t : State} (h : Keeps s t) (x1) (x2) (x3) : KeepsP s (State.runSentinel t x1 x2 x3) := by
  unfold State.runSentinel
  with_reducible (apply KeepsP.mk; apply keeps_sentinelResult); lift_lets; with_reducible (apply Keeps.put; assumption; exact Nat.le_succ _)
theorem keeps_startSentinel {s t : State} (h : Keeps s t) (x1) (x2) (x3) (x4) (x5) (x6) : KeepsP s (State.startSentinel t x1 x2 x3 x4 x5 x6) := by
  unfold State.startSentinel
  split
  rename_i u bad e
  have hu : Keeps s u := KeepsP.elim e (KeepsP.foldl (KeepsP.mk h) (by intro a x ha; exact KeepsP.fst (keeps_runSentinel ha x.1 x.2 x4)))
  split
  · exact keeps_doneOk hu _
  · exact keeps_directWrite hu ..
theorem keeps_yieldSlice {s t : State} (h : Keeps s t) (x1) : KeepsO s (State.yieldSlice t x1) := by
  unfold State.yieldSlice
  split; with_reducible (apply KeepsO.some; assumption; apply KeepsO.mapVal)
  (with_reducible intro; with_reducible intros; try beta_reduce; try lift_lets)
  with_reducible (apply keeps_modSlice; apply keeps_modRas; apply keeps_moveWork; assumption)
theorem keeps_yieldUnit {s t : State} (h : Keeps s t) (x1) : KeepsO s (State.yieldUnit t x1) := by
  unfold State.yieldUnit
  dsimp only
  split
  · exact KeepsO.some (keeps_yieldCore h ..)
  · exact keeps_yieldSlice h _
  · split
    · exact KeepsO.none
    · exact KeepsO.some (keeps_copyDone (keeps_modStack h ..) ..)
theorem keeps_afterBist {s t : State} (h : Keeps s t) (x1) (x2) : Keeps s (State.afterBist t x1 x2) := by
  unfold State.afterBist
  split; split; with_reducible (apply keeps_setCore; assumption; apply keeps_retirePart; apply keeps_setCore; assumption); split
  with_reducible (assumption; apply keeps_retireSlice; assumption); split
  with_reducible (apply keeps_modStack; assumption; apply keeps_retirePart; assumption)
theorem keeps_startBist {s t : State} (h : Keeps s t) (x1) (x2) (x3) (x4) : KeepsP s (State.startBist t x1 x2 x3 x4) := by
  unfold State.startBist
  with_reducible apply KeepsP.mk; split; with_reducible (apply KeepsP.fst; apply keeps_doneBad; assumption); split
  (dsimp +zetaDelta only; split); with_reducible (apply KeepsP.fst; apply keeps_directWrite; apply keeps_afterBist); lift_lets
  with_reducible apply Keeps.put; lift_lets; refine KeepsO.elim (by with_reducible assumption) ?_
  with_reducible (apply keeps_yieldUnit; assumption; exact Nat.le_add_right _ _; apply KeepsP.fst; apply keeps_directWrite; apply keeps_afterBist)
  lift_lets; with_reducible apply Keeps.put; lift_lets; refine KeepsO.elim (by with_reducible assumption) ?_
  with_reducible (apply keeps_yieldUnit; assumption; exact Nat.le_add_right _ _); (dsimp +zetaDelta only; split)
  with_reducible (apply KeepsP.fst; apply keeps_directWrite; apply keeps_afterBist); lift_lets; with_reducible apply Keeps.put; lift_lets
  refine KeepsO.elim (by with_reducible assumption) ?_
  with_reducible (apply keeps_yieldUnit; assumption; exact Nat.le_add_right _ _; apply KeepsP.fst; apply keeps_directWrite; apply keeps_afterBist)
  lift_lets; with_reducible apply Keeps.put; lift_lets; refine KeepsO.elim (by with_reducible assumption) ?_
  with_reducible (apply keeps_yieldUnit; assumption; exact Nat.le_add_right _ _)
theorem keeps_startPrbs {s t : State} (h : Keeps s t) (x1) (x2) (x3) : KeepsP s (State.startPrbs t x1 x2 x3) := by
  unfold State.startPrbs
  with_reducible apply KeepsP.mk; split; with_reducible (apply KeepsP.fst; apply keeps_doneOk; assumption); lift_lets
  (with_reducible intro; with_reducible intros; try beta_reduce; try lift_lets); with_reducible (apply KeepsP.fst; apply keeps_directWrite)
  lift_lets; with_reducible (apply Keeps.put; assumption; exact Nat.le_succ _)
theorem keeps_startEmber {s t : State} (h : Keeps s t) (x1) (x2) (x3) (x4) (x5) (x6) : KeepsP s (State.startEmber t x1 x2 x3 x4 x5 x6) := by
  unfold State.startEmber
  with_reducible apply KeepsP.mk; split
  with_reducible (apply KeepsP.fst; apply keeps_doneBad; assumption; apply KeepsP.fst; apply keeps_directWrite; assumption)
theorem keeps_injectHang {s t : State} (h : Keeps s t) (x1) : Keeps s (State.injectHang t x1) := by
  unfold State.injectHang
  split; with_reducible (apply Keeps.foldl; apply keeps_modRas; assumption)
  (with_reducible intro; with_reducible intros; try beta_reduce; try lift_lets); split
  with_reducible (apply keeps_modSlice; assumption; assumption; apply keeps_modRas; assumption)
theorem keeps_injectFlip {s t : State} (h : Keeps s t) (x1) (x2) : Keeps s (State.injectFlip t x1 x2) := by
  unfold State.injectFlip
  with_reducible (apply Keeps.foldl; assumption); (with_reducible intro; with_reducible intros; try beta_reduce; try lift_lets); split
  with_reducible (apply keeps_modSlice; assumption; assumption)
theorem keeps_injectCe {s t : State} (h : Keeps s t) (x1) (x2) : Keeps s (State.injectCe t x1 x2) := by
  unfold State.injectCe
  with_reducible (apply keeps_count; assumption)
theorem keeps_injectUe {s t : State} (h : Keeps s t) (x1) : Keeps s (State.injectUe t x1) := by
  unfold State.injectUe
  with_reducible (apply keeps_poisonPages; apply keeps_raise; apply keeps_count); lift_lets
  with_reducible (apply Keeps.put; assumption; exact Nat.le_succ _)
theorem keeps_injectFlood {s t : State} (h : Keeps s t) (x1) (x2) (x3) : Keeps s (State.injectFlood t x1 x2 x3) := by
  induction x3 generalizing t x1 x2 with
  | zero =>
    unfold State.injectFlood
    with_reducible assumption
  | succ n ih =>
    unfold State.injectFlood
    with_reducible (apply ih; apply keeps_raise; assumption)

/-! ### Admin -/

theorem keeps_setMode {s t : State} (h : Keeps s t) (x1) : Keeps s (State.setMode t x1) := by
  unfold State.setMode
  lift_lets; (with_reducible intro; with_reducible intros; try beta_reduce; try lift_lets)
  with_reducible (apply Keeps.put; assumption; exact Nat.le_refl _)
theorem keeps_startMode {s t : State} (h : Keeps s t) (x1) : KeepsP s (State.startMode t x1) := by
  unfold State.startMode
  with_reducible (apply keeps_doneOk; apply keeps_setMode; assumption)
theorem keeps_startServiceStart {s t : State} (h : Keeps s t) (x1) (x2) (x3) (x4) : KeepsP s (State.startServiceStart t x1 x2 x3 x4) := by
  unfold State.startServiceStart
  with_reducible apply KeepsP.mk; split
  with_reducible (apply KeepsP.fst; apply keeps_doneBad; assumption; apply KeepsP.fst; apply keeps_doneOk; apply keeps_modSched)
  with_reducible (apply keeps_placeService; assumption; apply KeepsP.fst; apply keeps_doneBad; assumption)
theorem keeps_endService {s t : State} (h : Keeps s t) (x1) : Keeps s (State.endService t x1) := by
  unfold State.endService
  split; lift_lets; (with_reducible intro; with_reducible intros; try beta_reduce; try lift_lets)
  with_reducible (apply Keeps.put; apply keeps_modSched; assumption; exact Nat.le_refl _; apply keeps_modSched; assumption)
theorem keeps_finishServiceStop {s t : State} (h : Keeps s t) (x1) (x2) : KeepsP s (State.finishServiceStop t x1 x2) := by
  unfold State.finishServiceStop
  with_reducible apply KeepsP.mk; split; with_reducible (apply KeepsP.fst; apply keeps_doneBad; assumption); split
  with_reducible (assumption; apply KeepsP.fst; apply keeps_doneOk; apply keeps_modSched; apply keeps_endService; assumption)
theorem keeps_startServiceStop {s t : State} (h : Keeps s t) (x1) (x2) : KeepsP s (State.startServiceStop t x1 x2) := by
  unfold State.startServiceStop
  with_reducible apply KeepsP.mk; split
  with_reducible (apply KeepsP.fst; apply keeps_doneBad; assumption; apply KeepsP.fst; apply keeps_finishServiceStop; apply keeps_modSched; assumption)
theorem keeps_startProgress {s t : State} (h : Keeps s t) (x1) (x2) (x3) (x4) : KeepsP s (State.startProgress t x1 x2 x3 x4) := by
  unfold State.startProgress
  with_reducible apply KeepsP.mk; split; with_reducible (apply KeepsP.fst; apply keeps_doneBad; assumption); lift_lets
  (with_reducible intro; with_reducible intros; try beta_reduce; try lift_lets)
  with_reducible (apply KeepsP.fst; apply keeps_directWrite; apply keeps_modCmd; assumption)
theorem keeps_startStatus {s t : State} (h : Keeps s t) (x1) (x2) (x3) (x4) : KeepsP s (State.startStatus t x1 x2 x3 x4) := by
  unfold State.startStatus
  with_reducible apply KeepsP.mk; split
  with_reducible (apply KeepsP.fst; apply keeps_doneBad; assumption; apply KeepsP.fst; apply keeps_directWrite; assumption)
theorem keeps_setInst {s t : State} (h : Keeps s t) (x1) (x2) : Keeps s (State.setInst t x1 x2) := by
  unfold State.setInst
  lift_lets; (with_reducible intro; with_reducible intros; try beta_reduce; try lift_lets)
  with_reducible (apply Keeps.put; assumption; exact Nat.le_refl _)
theorem keeps_startSrvStart {s t : State} (h : Keeps s t) (x1) (x2) (x3) (x4) : KeepsP s (State.startSrvStart t x1 x2 x3 x4) := by
  unfold State.startSrvStart
  with_reducible apply KeepsP.mk; split
  with_reducible (apply KeepsP.fst; apply keeps_doneBad; assumption; apply KeepsP.fst; apply keeps_doneOk; apply keeps_setInst; assumption)
theorem keeps_finishSrvStop {s t : State} (h : Keeps s t) (x1) : KeepsP s (State.finishSrvStop t x1) := by
  unfold State.finishSrvStop
  with_reducible apply KeepsP.mk; split; with_reducible assumption; lift_lets
  (with_reducible intro; with_reducible intros; try beta_reduce; try lift_lets)
  with_reducible (apply KeepsP.fst; apply keeps_doneOk; apply keeps_setInst); lift_lets
  with_reducible (apply Keeps.put; assumption; exact Nat.le_refl _)
theorem keeps_startSrvStop {s t : State} (h : Keeps s t) (x1) (x2) (x3) : KeepsP s (State.startSrvStop t x1 x2 x3) := by
  unfold State.startSrvStop
  with_reducible apply KeepsP.mk; split; with_reducible (apply KeepsP.fst; apply keeps_doneBad; assumption); split; lift_lets
  (with_reducible intro; with_reducible intros; try beta_reduce; try lift_lets); with_reducible (apply KeepsP.fst; apply keeps_finishSrvStop)
  lift_lets; with_reducible (apply Keeps.put; apply keeps_setInst; assumption; exact Nat.le_refl _); lift_lets
  (with_reducible intro; with_reducible intros; try beta_reduce; try lift_lets)
  with_reducible (apply KeepsP.fst; apply keeps_finishSrvStop; apply keeps_setInst; assumption)
theorem keeps_modQueue {s t : State} (h : Keeps s t) (x1) (x2) : Keeps s (State.modQueue t x1 x2) := by
  unfold State.modQueue
  lift_lets; (with_reducible intro; with_reducible intros; try beta_reduce; try lift_lets)
  with_reducible (apply Keeps.put; assumption; exact Nat.le_refl _)
theorem keeps_startFeQueue {s t : State} (h : Keeps s t) (x1) (x2) (x3) (x4) (x5) : KeepsP s (State.startFeQueue t x1 x2 x3 x4 x5) := by
  unfold State.startFeQueue
  with_reducible apply KeepsP.mk; split; with_reducible (apply KeepsP.fst; apply keeps_doneOk; apply keeps_modQueue; assumption); split
  with_reducible (apply KeepsP.fst; apply keeps_doneOk; apply keeps_modQueue; assumption; apply KeepsP.fst; apply keeps_doneOk; apply keeps_modQueue)
  with_reducible (assumption)
theorem keeps_startTelemetry {s t : State} (h : Keeps s t) (x1) (x2) (x3) (x4) : KeepsP s (State.startTelemetry t x1 x2 x3 x4) := by
  unfold State.startTelemetry
  with_reducible apply KeepsP.mk; split; split
  with_reducible (apply KeepsP.fst; apply keeps_doneOk; apply keeps_writeHost; assumption; apply KeepsP.fst; apply keeps_doneBad; assumption)
  with_reducible (apply KeepsP.fst; apply keeps_directWrite; assumption)

/-! ### Command -/

theorem keeps_finish {s : State} {r : Started} (h : KeepsP s r) (x1 x2) : Keeps s (State.finish x1 x2 r) := by
  obtain ⟨u, _ | ⟨ph, st, d⟩⟩ := r
  · exact h
  · simp only [State.finish]
    split
    · exact h
    · exact keeps_endCmd h ..
theorem keeps_startOp {s t : State} (h : Keeps s t) (x1) : KeepsP s (State.startOp t x1) := by
  unfold State.startOp
  with_reducible apply KeepsP.mk; split
  with_reducible (apply KeepsP.fst; apply keeps_doneOk; assumption; apply KeepsP.fst; apply keeps_startMode; assumption; apply KeepsP.fst)
  with_reducible (apply keeps_startServiceStart; assumption; apply KeepsP.fst; apply keeps_startServiceStop; assumption; apply KeepsP.fst)
  with_reducible (apply keeps_startIdentity; assumption; apply KeepsP.fst; apply keeps_startCreate; assumption; apply KeepsP.fst)
  with_reducible (apply keeps_startFence; assumption; apply KeepsP.fst; apply keeps_startUnfence; assumption; apply KeepsP.fst)
  with_reducible (apply keeps_startDestroy; assumption; apply KeepsP.fst; apply keeps_startMap; assumption; apply KeepsP.fst; apply keeps_startUnmap)
  with_reducible (assumption; apply KeepsP.fst; apply keeps_startHint; assumption; apply KeepsP.fst; apply keeps_startQuota; assumption)
  with_reducible (apply KeepsP.fst; apply keeps_startRetry; assumption; apply KeepsP.fst; apply keeps_startFail; assumption; apply KeepsP.fst)
  with_reducible (apply keeps_startBegin; assumption; apply keeps_retryWeights); lift_lets
  with_reducible (apply KeepsP.fst; apply keeps_startChunks; assumption; apply KeepsP.fst; apply keeps_startInstallCommit; assumption)
  with_reducible (apply KeepsP.fst; apply keeps_startErase; assumption; apply KeepsP.fst; apply keeps_startErase; assumption; apply KeepsP.fst)
  with_reducible (apply keeps_startKeyAdd; assumption; apply KeepsP.fst; apply keeps_doneOk; apply keeps_dropKey; assumption; apply KeepsP.fst)
  with_reducible (apply keeps_startLoad; assumption; apply KeepsP.fst; apply keeps_startPin; assumption; apply KeepsP.fst; apply keeps_startUnpin)
  with_reducible (assumption; apply KeepsP.fst; apply keeps_startSwitch; assumption; apply KeepsP.fst; apply keeps_startDrop; assumption)
  with_reducible (apply KeepsP.fst; apply keeps_startKeelWrite; assumption; apply KeepsP.fst; apply keeps_startKeelRead; assumption; apply KeepsP.fst)
  with_reducible (apply keeps_startKeelDrop; assumption; assumption; assumption; assumption; assumption; assumption; assumption; assumption)
  with_reducible (assumption; assumption; assumption; assumption; assumption; assumption; apply KeepsP.fst; apply keeps_doneOk; apply keeps_abortChan)
  with_reducible (assumption; assumption; assumption; assumption; assumption; assumption; apply KeepsP.fst; apply keeps_startPair; assumption)
  with_reducible (apply KeepsP.fst; apply keeps_startSync; assumption; apply KeepsP.fst; apply keeps_startInter; assumption; apply KeepsP.fst)
  with_reducible (apply keeps_startRestore; assumption; apply KeepsP.fst; apply keeps_startRelease; assumption; apply KeepsP.fst)
  with_reducible (apply keeps_startJoin; assumption; apply KeepsP.fst; apply keeps_startProgress; assumption; apply KeepsP.fst)
  with_reducible (apply keeps_startStatus; assumption; apply KeepsP.fst; apply keeps_startSentinel; assumption; apply KeepsP.fst)
  with_reducible (apply keeps_startSrvStart; assumption; apply KeepsP.fst; apply keeps_startSrvStop; assumption; apply KeepsP.fst)
  with_reducible (apply keeps_startFeQueue; assumption; apply KeepsP.fst; apply keeps_startTelemetry; assumption; apply KeepsP.fst)
  with_reducible (apply keeps_startBist; assumption; apply KeepsP.fst; apply keeps_startPrbs; assumption; apply KeepsP.fst; apply keeps_startEmber)
  with_reducible (assumption; apply KeepsP.fst; apply keeps_doneOk; apply keeps_injectHang; assumption; apply KeepsP.fst; apply keeps_doneOk)
  with_reducible (apply keeps_injectFlip; assumption; apply KeepsP.fst; apply keeps_doneOk; apply keeps_injectCe; assumption; apply KeepsP.fst)
  with_reducible (apply keeps_doneOk; apply keeps_injectUe; assumption; apply KeepsP.fst; apply keeps_doneOk; apply keeps_deviceReset; assumption)
  with_reducible (apply KeepsP.fst; apply keeps_doneOk; apply keeps_injectFlood; assumption; apply KeepsP.fst; apply keeps_doneBad; assumption)
  with_reducible (apply KeepsP.fst; apply keeps_doneBad; assumption)
theorem keeps_commitDma {s t : State} (h : Keeps s t) (x1) (x2) : Keeps s (State.commitDma t x1 x2) := by
  unfold State.commitDma
  repeat' first
    | with_reducible assumption | with_reducible apply keeps_endCmd | with_reducible apply keeps_applyCommit | split
    | ((try lift_lets); intro z; refine Keeps.named (s := s) (z := z) ?_ ?_; (try subst z); rotate_left; intro hz; clear_value z)
    | ((try lift_lets); intro z; clear_value z) | (with_reducible intro; with_reducible intros; try beta_reduce) | dsimp only
theorem keeps_commitOp {s t : State} (h : Keeps s t) (x1) (x2) : Keeps s (State.commitOp t x1 x2) := by
  unfold State.commitOp
  have hf : ∀ r : Started, KeepsP s r → Keeps s (State.finish x1.cid (some x2) r) := fun r k => keeps_finish k ..
  split
  · exact hf _ (keeps_finishServiceStop h ..)
  · exact hf _ (keeps_startUnmap h ..)
  · exact hf _ (keeps_startHint h ..)
  · exact hf _ (keeps_startMap h ..)
  · exact hf _ (keeps_startErase h ..)
  · exact hf _ (keeps_startErase h ..)
  · exact hf _ (keeps_commitLoad h ..)
  · exact hf _ (keeps_startPin h ..)
  · exact hf _ (keeps_startSwitch h ..)
  · exact hf _ (keeps_commitKeelWrite h ..)
  · exact hf _ (keeps_commitKeelRead h ..)
  · exact keeps_commitSync h ..
  · exact keeps_commitInter h ..
  · exact keeps_commitRestore h ..
  · exact keeps_commitRelease h ..
  · exact keeps_commitJoin h ..
  · exact hf _ (keeps_finishSrvStop h ..)
  · exact hf _ (keeps_pumpWrite h ..)
  · exact hf _ (keeps_pumpWrite h ..)
  · exact hf _ (keeps_pumpWrite h ..)
  · exact hf _ (keeps_pumpWrite h ..)
  · exact hf _ (keeps_pumpWrite h ..)
  · exact hf _ (keeps_pumpWrite h ..)
  · exact hf _ (keeps_pumpWrite h ..)
  · exact keeps_commitDma h ..
  · split
    · exact keeps_commitKernel h ..
    · split
      · exact keeps_commitColl h ..
      · exact h
theorem keeps_endFixed {s t : State} (h : Keeps s t) (x1) (x2) : Keeps s (State.endFixed t x1 x2) := by
  unfold State.endFixed
  split; with_reducible (apply keeps_commitDma; assumption); split; with_reducible (apply keeps_endFixedKernel; assumption); split
  with_reducible (apply keeps_commitColl; assumption; assumption)

/-! ### Graphs -/

theorem keeps_admitGraph {s t : State} (h : Keeps s t) (x1) (x2) (x3) (x4) (x5) (x6) (x7) : KeepsE s (State.admitGraph t x1 x2 x3 x4 x5 x6 x7) := by
  unfold State.admitGraph
  split; with_reducible exact KeepsE.error; split; with_reducible exact KeepsE.error; split; with_reducible exact KeepsE.error; split
  with_reducible exact KeepsE.error; split; (dsimp +zetaDelta only; split); with_reducible (exact KeepsE.error; apply KeepsE.ok); lift_lets
  refine KeepsO.elim (by with_reducible assumption) ?_
  with_reducible (apply keeps_fwSettle; apply keeps_modSched; apply keeps_modMem; assumption); (dsimp +zetaDelta only; split)
  with_reducible (exact KeepsE.error; apply KeepsE.ok); lift_lets; refine KeepsO.elim (by with_reducible assumption) ?_
  with_reducible (apply keeps_fwSettle; apply keeps_modSched; apply keeps_modMem; assumption)
theorem keeps_admitRun {s t : State} (h : Keeps s t) (x1) (x2) (x3) (x4) : KeepsE s (State.admitRun t x1 x2 x3 x4) := by
  unfold State.admitRun
  split; with_reducible exact KeepsE.error; split; with_reducible (exact KeepsE.error; apply KeepsE.ok; assumption)
theorem keeps_admitRelease {s t : State} (h : Keeps s t) (x1) (x2) : KeepsE s (State.admitRelease t x1 x2) := by
  unfold State.admitRelease
  split; with_reducible exact KeepsE.error; split; with_reducible (exact KeepsE.error; apply KeepsE.ok; apply keeps_modSched; assumption)
theorem keeps_startRun {s t : State} (h : Keeps s t) (x1) (x2) (x3) : KeepsP s (State.startRun t x1 x2 x3) := by
  unfold State.startRun
  with_reducible apply KeepsP.mk; split; with_reducible (apply KeepsP.fst; apply keeps_doneBad; assumption); split
  (dsimp +zetaDelta only; split)
  with_reducible (apply KeepsP.fst; apply keeps_doneBad; assumption; apply KeepsP.fst; apply keeps_doneBad; assumption); split
  (dsimp +zetaDelta only; split)
  with_reducible (apply KeepsP.fst; apply keeps_doneBad; assumption; apply KeepsP.fst; apply keeps_doneOk; assumption)
  (dsimp +zetaDelta only; split)
  with_reducible (apply KeepsP.fst; apply keeps_doneBad; assumption; apply keeps_readyAll; apply keeps_endDoomed); split
  with_reducible (apply keeps_modCtx; apply keeps_modSched; assumption)
  (with_reducible intro; with_reducible intros; try beta_reduce; try lift_lets); with_reducible (assumption; apply keeps_modSched; assumption)
theorem keeps_startGraph {s t : State} (h : Keeps s t) (x1) : KeepsP s (State.startGraph t x1) := by
  unfold State.startGraph
  split
  · split
    · exact keeps_doneBad h ..
    · have k := fun f g => keeps_modCtx (keeps_modSched h f) x1.ctx (fun x => x.override g) fun x hx => hx
      dsimp only
      split
      · exact keeps_startRun (k _ _) ..
      · exact keeps_doneOk (k _ _) _
  · exact keeps_startRun h ..
  · exact keeps_doneOk h _

/-! ### Submit -/

theorem keeps_admitOp {s t : State} (h : Keeps s t) (x1) : KeepsE s (State.admitOp t x1) := by
  unfold State.admitOp
  split; with_reducible (apply keeps_admitGraph; assumption; apply keeps_admitRun; assumption; apply keeps_admitRelease; assumption); split
  with_reducible (exact KeepsE.error; apply KeepsE.ok; apply keeps_modCtx; assumption)
  (with_reducible intro; with_reducible intros; try beta_reduce; try lift_lets); with_reducible assumption; split
  with_reducible (exact KeepsE.error; apply KeepsE.ok; assumption)
theorem keeps_admission {s t : State} (h : Keeps s t) (x1) (x2) : KeepsE s (State.admission t x1 x2) := by
  unfold State.admission
  split; (dsimp +zetaDelta only; split); with_reducible exact KeepsE.error; split; with_reducible (exact KeepsE.error; exact KeepsE.error)
  split; (dsimp +zetaDelta only; split); with_reducible exact KeepsE.error; split; with_reducible exact KeepsE.error; split
  with_reducible exact KeepsE.error; split; with_reducible (exact KeepsE.error; apply KeepsE.ok); lift_lets
  refine KeepsE.elim (by with_reducible assumption) ?_; with_reducible (apply keeps_admitOp; assumption); (dsimp +zetaDelta only; split)
  with_reducible exact KeepsE.error; split; with_reducible exact KeepsE.error; split; with_reducible exact KeepsE.error; split
  with_reducible (exact KeepsE.error; apply KeepsE.ok); lift_lets; refine KeepsE.elim (by with_reducible assumption) ?_
  with_reducible (apply keeps_admitOp; assumption)
theorem keeps_notePacket {s t : State} (h : Keeps s t) (x1) (x2) : Keeps s (State.notePacket t x1 x2) := by
  unfold State.notePacket
  with_reducible (apply keeps_modRing; assumption)
theorem keeps_failAcquire {s t : State} (h : Keeps s t) (x1) : Keeps s (State.failAcquire t x1) := by
  unfold State.failAcquire
  with_reducible (apply keeps_endCmd; assumption)
theorem keeps_bindLast {s t : State} (h : Keeps s t) (x1) (x2) (x3) (x4) (x5) : Keeps s (State.bindLast t x1 x2 x3 x4 x5) := by
  unfold State.bindLast
  split; with_reducible assumption; split; split; split; with_reducible (apply keeps_failAcquire; assumption; apply keeps_modCmd; assumption)
  split; with_reducible (apply keeps_endCmd; assumption); split
  with_reducible (apply keeps_failAcquire; apply keeps_modCmd; apply keeps_modCmd; assumption; apply keeps_modCmd; apply keeps_modCmd; assumption)
  split; with_reducible assumption; split; with_reducible assumption; split; split
  with_reducible (apply keeps_modCmd; apply keeps_modCmd; assumption); split; with_reducible (apply keeps_failAcquire; assumption; assumption)
  split; with_reducible (apply keeps_failAcquire; assumption; assumption)
theorem keeps_takeSem {s t : State} (h : Keeps s t) (x1) (x2) : Keeps s (State.takeSem t x1 x2) := by
  unfold State.takeSem
  split; with_reducible assumption; split
  with_reducible (apply keeps_endCmd; apply keeps_modCmd; apply keeps_subSem; assumption; apply keeps_modCmd; apply keeps_modCmd; apply keeps_modSched)
  with_reducible (assumption)
theorem keeps_vectorStarts {s t : State} (h : Keeps s t) (x1) : Keeps s (State.vectorStarts t x1) := by
  unfold State.vectorStarts
  repeat' first
    | with_reducible assumption | with_reducible apply keeps_modCmd | split
    | ((try lift_lets); intro z; refine Keeps.named (s := s) (z := z) ?_ ?_; (try subst z); rotate_left; intro hz; clear_value z)
    | ((try lift_lets); intro z; clear_value z) | (with_reducible intro; with_reducible intros; try beta_reduce) | dsimp only
theorem keeps_begin {s t : State} (h : Keeps s t) (x1) : Keeps s (State.begin t x1) := by
  unfold State.begin
  repeat' first
    | with_reducible assumption | with_reducible apply keeps_startDma | with_reducible apply keeps_vectorStarts
    | with_reducible apply keeps_startKernel | with_reducible apply keeps_startColl | split
    | ((try lift_lets); intro z; refine Keeps.named (s := s) (z := z) ?_ ?_; (try subst z); rotate_left; intro hz; clear_value z)
    | ((try lift_lets); intro z; clear_value z) | (with_reducible intro; with_reducible intros; try beta_reduce) | dsimp only
theorem keeps_issueWork {s t : State} (h : Keeps s t) (x1) : Keeps s (State.issueWork t x1) := by
  unfold State.issueWork
  repeat' first
    | with_reducible assumption | exact KeepsA.none | exact KeepsA.error | with_reducible apply KeepsA.ok | with_reducible apply keeps_endCmd
    | with_reducible apply keeps_recordJob | with_reducible apply keeps_addSem | with_reducible apply keeps_allotLive
    | with_reducible apply keeps_failCmd | with_reducible apply keeps_begin | split
    | ((try lift_lets); intro z; refine Keeps.named (s := s) (z := z) ?_ ?_; (try subst z); rotate_left; intro hz; clear_value z)
    | ((try lift_lets); intro z; clear_value z) | (with_reducible intro; with_reducible intros; try beta_reduce)
    | (refine KeepsA.elim (by with_reducible assumption) ?_) | dsimp only
theorem keeps_clearClaims {s t : State} (h : Keeps s t) (x1) : Keeps s (State.clearClaims t x1) := by
  unfold State.clearClaims
  repeat' first
    | with_reducible assumption | with_reducible apply keeps_preemptAll | with_reducible apply KeepsO.map | with_reducible apply KeepsO.mapVal | split
    | ((try lift_lets); intro z; refine Keeps.named (s := s) (z := z) ?_ ?_; (try subst z); rotate_left; intro hz; clear_value z)
    | ((try lift_lets); intro z; clear_value z) | (with_reducible intro; with_reducible intros; try beta_reduce) | dsimp only
theorem keeps_issueSection {s t : State} (h : Keeps s t) (x1) (x2) : KeepsO s (State.issueSection t x1 x2) := by
  induction x2 generalizing t x1 with
  | zero =>
    unfold State.issueSection
    repeat' first
      | with_reducible assumption | exact KeepsO.none | with_reducible apply KeepsO.some | with_reducible apply keeps_clearClaims
      | with_reducible apply keeps_endCmd | with_reducible apply keeps_subSem | with_reducible apply keeps_takeSem
      | with_reducible apply keeps_issueWork | split
      | ((try lift_lets); intro z; refine Keeps.named (s := s) (z := z) ?_ ?_; (try subst z); rotate_left; intro hz; clear_value z)
      | ((try lift_lets); intro z; refine KeepsO.named (s := s) (z := z) ?_ ?_; (try subst z); rotate_left; intro hz; clear_value z)
      | ((try lift_lets); intro z; clear_value z) | (with_reducible intro; with_reducible intros; try beta_reduce)
      | (refine KeepsO.elim (by with_reducible assumption) ?_) | dsimp only
  | succ n ih =>
    unfold State.issueSection
    repeat' first
      | with_reducible assumption | exact KeepsO.none | with_reducible apply KeepsO.some | with_reducible apply keeps_clearClaims
      | with_reducible apply keeps_endCmd | with_reducible apply keeps_subSem | with_reducible apply keeps_takeSem
      | with_reducible apply keeps_issueWork | with_reducible apply ih | split
      | ((try lift_lets); intro z; refine Keeps.named (s := s) (z := z) ?_ ?_; (try subst z); rotate_left; intro hz; clear_value z)
      | ((try lift_lets); intro z; refine KeepsO.named (s := s) (z := z) ?_ ?_; (try subst z); rotate_left; intro hz; clear_value z)
      | ((try lift_lets); intro z; clear_value z) | (with_reducible intro; with_reducible intros; try beta_reduce)
      | (refine KeepsO.elim (by with_reducible assumption) ?_) | dsimp only
theorem keeps_issueAcquire {s t : State} (h : Keeps s t) (x1) : Keeps s (State.issueAcquire t x1) := by
  unfold State.issueAcquire
  split; refine KeepsO.elim (by with_reducible assumption) ?_; with_reducible (apply keeps_issueSection; assumption); split; split; split
  split; split; with_reducible assumption; refine KeepsA.elim (by with_reducible assumption) ?_
  with_reducible (apply keeps_allot; assumption; assumption; assumption; assumption; assumption)
theorem keeps_tryIssue {s t : State} (h : Keeps s t) (x1) : Keeps s (State.tryIssue t x1) := by
  unfold State.tryIssue
  repeat' first
    | with_reducible assumption | with_reducible apply keeps_vectorStarts | with_reducible apply keeps_modCmd
    | with_reducible apply keeps_issueAcquire | with_reducible apply keeps_issueWork | split
    | ((try lift_lets); intro z; refine Keeps.named (s := s) (z := z) ?_ ?_; (try subst z); rotate_left; intro hz; clear_value z)
    | ((try lift_lets); intro z; clear_value z) | (with_reducible intro; with_reducible intros; try beta_reduce) | dsimp only
theorem keeps_markIssued {s t : State} (h : Keeps s t) (x1) : Keeps s (State.markIssued t x1) := by
  unfold State.markIssued
  with_reducible (apply keeps_modCmd; apply keeps_modSched; apply keeps_modCtx; assumption)
  (with_reducible intro; with_reducible intros; try beta_reduce; try lift_lets); with_reducible assumption
theorem keeps_startN {s t : State} (h : Keeps s t) (x1) : Keeps s (State.startN t x1) := by
  unfold State.startN
  repeat' first
    | with_reducible assumption | with_reducible apply KeepsP.mk | with_reducible apply keeps_endCmd
    | (with_reducible apply KeepsP.fst; with_reducible apply keeps_bringRanges) | with_reducible apply keeps_bringRanges
    | with_reducible apply keeps_vltQuotaFault | with_reducible apply keeps_markIssued
    | (with_reducible apply KeepsP.fst; with_reducible apply keeps_startGraph) | with_reducible apply keeps_startGraph
    | (with_reducible apply KeepsP.fst; with_reducible apply keeps_startOp) | with_reducible apply keeps_startOp | with_reducible apply keeps_finish
    | split | ((try lift_lets); intro z; refine Keeps.named (s := s) (z := z) ?_ ?_; (try subst z); rotate_left; intro hz; clear_value z)
    | ((try lift_lets); intro z; refine KeepsP.named (s := s) (z := z) ?_ ?_; (try subst z); rotate_left; intro hz; clear_value z)
    | (with_reducible apply KeepsP.fst; with_reducible apply KeepsP.mk) | (with_reducible apply KeepsP.fst; with_reducible assumption)
    | ((try lift_lets); intro z; clear_value z) | (with_reducible intro; with_reducible intros; try beta_reduce)
    | (refine KeepsP.elim (by with_reducible assumption) ?_) | dsimp only
theorem keeps_launch {s t : State} (h : Keeps s t) (x1) : Keeps s (State.launch t x1) := by
  unfold State.launch
  split; with_reducible assumption; split
  with_reducible (apply keeps_tryIssue; apply keeps_placeAll; assumption; apply keeps_startN; assumption)
theorem keeps_submit {s t : State} (h : Keeps s t) (x1) (x2) : Keeps s (State.submit t x1 x2) := by
  unfold State.submit
  repeat' first
    | with_reducible assumption | exact KeepsE.error | with_reducible apply KeepsE.ok | with_reducible apply keeps_admission
    | with_reducible apply keeps_raise | with_reducible apply keeps_reply | with_reducible apply keeps_notePacket
    | with_reducible apply keeps_bindLast | with_reducible apply keeps_modSched | with_reducible apply keeps_launch
    | with_reducible apply keeps_readyAll | with_reducible apply keeps_endRuns | with_reducible apply keeps_endDoomed | split
    | ((try lift_lets); intro z; refine Keeps.named (s := s) (z := z) ?_ ?_; (try subst z); rotate_left; intro hz; clear_value z)
    | ((try lift_lets); intro z; clear_value z) | (with_reducible intro; with_reducible intros; try beta_reduce)
    | (refine KeepsE.elim (by with_reducible assumption) ?_) | dsimp only
theorem keeps_packet {s t : State} (h : Keeps s t) (x1) (x2) : Keeps s (State.packet t x1 x2) := by
  unfold State.packet
  split; with_reducible (apply keeps_submit; assumption; assumption)

/-! ### Serving -/

theorem keeps_dropDead {s t : State} (h : Keeps s t)  : Keeps s (State.dropDead t) := by
  unfold State.dropDead
  lift_lets; (with_reducible intro; with_reducible intros; try beta_reduce; try lift_lets)
  with_reducible (apply Keeps.put; assumption; exact Nat.le_refl _)
theorem keeps_modReq {s t : State} (h : Keeps s t) (x1) (x2) : Keeps s (State.modReq t x1 x2) := by
  unfold State.modReq
  lift_lets; (with_reducible intro; with_reducible intros; try beta_reduce; try lift_lets)
  with_reducible (apply Keeps.put; assumption; exact Nat.le_refl _)
theorem keeps_loopSend {s t : State} (h : Keeps s t) (x1) (x2) (x3) (x4) (x5) : KeepsP s (State.loopSend t x1 x2 x3 x4 x5) := by
  unfold State.loopSend
  with_reducible (apply KeepsP.mk; apply keeps_packet; assumption)
theorem keeps_modSession {s t : State} (h : Keeps s t) (x1) (x2) : Keeps s (State.modSession t x1 x2) := by
  unfold State.modSession
  lift_lets; (with_reducible intro; with_reducible intros; try beta_reduce; try lift_lets)
  with_reducible (apply Keeps.put; assumption; exact Nat.le_refl _)
theorem keeps_release {s t : State} (h : Keeps s t) (x1) : Keeps s (State.release t x1) := by
  unfold State.release
  split; with_reducible assumption; split; split; (dsimp +zetaDelta only; split)
  with_reducible (apply KeepsP.fst; apply keeps_loopSend; assumption); split; split; split; with_reducible apply Keeps.put; lift_lets
  with_reducible (apply KeepsP.fst; apply keeps_loopSend; assumption; exact Nat.le_refl _; apply Keeps.put); lift_lets
  with_reducible (apply KeepsP.fst; apply keeps_loopSend); lift_lets
  with_reducible (apply KeepsP.fst; apply keeps_loopSend; assumption; exact Nat.le_refl _; apply Keeps.put); lift_lets
  with_reducible (apply KeepsP.fst; apply keeps_loopSend; assumption; exact Nat.le_refl _; apply keeps_modSession); split; split
  with_reducible (apply KeepsP.fst; apply keeps_loopSend; assumption; apply KeepsP.fst; apply keeps_loopSend); lift_lets
  with_reducible (apply KeepsP.fst; apply keeps_loopSend; assumption; apply KeepsP.fst; apply keeps_loopSend; assumption)
  (dsimp +zetaDelta only; split); with_reducible (apply KeepsP.fst; apply keeps_loopSend; assumption); split; split; split
  with_reducible apply Keeps.put; lift_lets
  with_reducible (apply KeepsP.fst; apply keeps_loopSend; assumption; exact Nat.le_refl _; apply Keeps.put); lift_lets
  with_reducible (apply KeepsP.fst; apply keeps_loopSend); lift_lets
  with_reducible (apply KeepsP.fst; apply keeps_loopSend; assumption; exact Nat.le_refl _; apply Keeps.put); lift_lets
  with_reducible (apply KeepsP.fst; apply keeps_loopSend; assumption; exact Nat.le_refl _; apply keeps_modSession); split; split
  with_reducible (apply KeepsP.fst; apply keeps_loopSend; assumption; apply KeepsP.fst; apply keeps_loopSend); lift_lets
  with_reducible (apply KeepsP.fst; apply keeps_loopSend; assumption; apply KeepsP.fst; apply keeps_loopSend; assumption); split
  (dsimp +zetaDelta only; split); with_reducible assumption; split; split; split
  with_reducible (apply Keeps.put; assumption; exact Nat.le_refl _; apply Keeps.put); lift_lets
  with_reducible (apply KeepsP.fst; apply keeps_loopSend; assumption; exact Nat.le_refl _; apply Keeps.put; assumption; exact Nat.le_refl _)
  with_reducible (apply keeps_modSession); split; split
  with_reducible (assumption; apply KeepsP.fst; apply keeps_loopSend; assumption; assumption); (dsimp +zetaDelta only; split)
  with_reducible assumption; split; split; split; with_reducible (apply Keeps.put; assumption; exact Nat.le_refl _; apply Keeps.put); lift_lets
  with_reducible (apply KeepsP.fst; apply keeps_loopSend; assumption; exact Nat.le_refl _; apply Keeps.put; assumption; exact Nat.le_refl _)
  with_reducible (apply keeps_modSession); split; split
  with_reducible (assumption; apply KeepsP.fst; apply keeps_loopSend; assumption; assumption)
theorem keeps_sendDeush {s t : State} (h : Keeps s t) (x1) (x2) (x3) (x4) : Keeps s (State.sendDeush t x1 x2 x3 x4) := by
  unfold State.sendDeush
  repeat' first
    | with_reducible assumption | exact Nat.le_refl _ | exact Nat.le_succ _ | with_reducible apply keeps_queueMoved
    | with_reducible apply keeps_queuePush | (with_reducible apply Keeps.put; with_reducible assumption)
    | (with_reducible apply Keeps.putCtxs; with_reducible assumption)
    | (with_reducible apply Keeps.put; first | with_reducible apply keeps_queueMoved | with_reducible apply keeps_queuePush)
    | (intro x hx; (try dsimp only); (repeat' split) <;> exact hx) | split
    | ((try lift_lets); intro z; refine Keeps.named (s := s) (z := z) ?_ ?_; (try subst z); rotate_left; intro hz; clear_value z)
    | ((try lift_lets); intro z; (have _ : z = t.free := by subst z; rfl); subst z) | ((try lift_lets); intro z; clear_value z)
    | (with_reducible intro; with_reducible intros; try beta_reduce) | dsimp only
theorem keeps_reject {s t : State} (h : Keeps s t) (x1) (x2) : Keeps s (State.reject t x1 x2) := by
  unfold State.reject
  with_reducible (apply keeps_modReq; apply keeps_sendDeush); lift_lets; with_reducible (apply Keeps.put; assumption; exact Nat.le_succ _)
theorem keeps_sampleRow {s t : State} (h : Keeps s t) (x1) : Keeps s (State.sampleRow t x1) := by
  unfold State.sampleRow
  split
  · exact h
  · extract_lets logits s1 j put
    have h1 : Keeps s s1 := h.put (by show t.free ≤ t.free + _ + 1; omega)
    split
    · exact keeps_modReq h1 ..
    · exact keeps_modReq h1 ..
    · exact keeps_modReq h1 ..
theorem keeps_collect {s t : State} (h : Keeps s t) (x1) : Keeps s (State.collect t x1) := by
  unfold State.collect
  split; with_reducible assumption; split; with_reducible assumption; split; split
  with_reducible (apply keeps_sampleRow; apply keeps_modReq; apply keeps_modReq; assumption); split
  with_reducible (apply keeps_modReq; apply keeps_modReq; apply keeps_modReq; assumption; apply keeps_modReq; apply keeps_modReq; assumption)
  (dsimp +zetaDelta only; split); split; split
  with_reducible (apply keeps_modReq; apply keeps_modReq; assumption; apply keeps_modReq; apply keeps_modReq; assumption); split
  with_reducible (apply keeps_modReq; apply keeps_modReq; assumption; apply keeps_modReq; apply keeps_modReq; assumption); split; split
  with_reducible (apply keeps_modReq; apply keeps_modReq; assumption; apply keeps_modReq; apply keeps_modReq; assumption); split
  with_reducible (apply keeps_modReq; apply keeps_modReq; assumption; apply keeps_modReq; apply keeps_modReq; assumption); split; split
  with_reducible (apply keeps_modReq; apply keeps_modReq; assumption; apply keeps_modReq; apply keeps_modReq; assumption); split
  with_reducible (apply keeps_modReq; apply keeps_modReq; assumption; apply keeps_modReq; apply keeps_modReq; assumption)
theorem keeps_roleCheck {s t : State} (h : Keeps s t) (x1) : Keeps s (State.roleCheck t x1) := by
  unfold State.roleCheck
  split; split; with_reducible assumption; split; with_reducible (apply keeps_modReq; assumption; apply keeps_modReq; assumption); split
  with_reducible assumption; split; with_reducible (apply keeps_modReq; assumption; apply keeps_modReq; assumption)
theorem keeps_sendKept {s t : State} (h : Keeps s t) (x1) (x2) (x3) : Keeps s (State.sendKept t x1 x2 x3) := by
  unfold State.sendKept
  split; with_reducible (assumption; apply keeps_modReq; apply keeps_sendDeush; assumption)
theorem keeps_flush {s t : State} (h : Keeps s t) (x1) : Keeps s (State.flush t x1) := by
  unfold State.flush
  split; with_reducible (assumption; apply keeps_modReq; apply keeps_sendKept; assumption)
theorem keeps_finishReq {s t : State} (h : Keeps s t) (x1) (x2) (x3) : Keeps s (State.finishReq t x1 x2 x3) := by
  unfold State.finishReq
  with_reducible (apply keeps_release; apply keeps_modReq); split; with_reducible (assumption; apply keeps_sendKept; assumption)
theorem keeps_runRows {s t : State} (h : Keeps s t) (x1) (x2) (x3) (x4) (x5) (x6) : Keeps s (State.runRows t x1 x2 x3 x4 x5 x6) := by
  unfold State.runRows
  split; with_reducible (assumption; apply Keeps.foldl; apply keeps_modSched); split; with_reducible (apply KeepsP.fst; apply keeps_loopSend)
  lift_lets; with_reducible (apply KeepsP.fst; apply keeps_loopSend; assumption; apply KeepsP.fst; apply keeps_loopSend; assumption)
  (with_reducible intro; with_reducible intros; try beta_reduce; try lift_lets); with_reducible (apply keeps_modReq; assumption)
theorem keeps_advanceReq {s t : State} (h : Keeps s t) (x1) : Keeps s (State.advanceReq t x1) := by
  unfold State.advanceReq
  split; split; with_reducible assumption; split; lift_lets; (with_reducible intro; with_reducible intros; try beta_reduce; try lift_lets)
  with_reducible (apply Keeps.put; apply keeps_release; apply keeps_modReq; assumption; exact Nat.le_refl _; apply keeps_modReq; apply keeps_sendDeush)
  with_reducible (apply keeps_modReq; assumption); split; lift_lets
  (with_reducible intro; with_reducible intros; try beta_reduce; try lift_lets)
  with_reducible (apply Keeps.put; apply keeps_modSession; assumption; exact Nat.le_refl _; apply keeps_reject; apply keeps_modSession; assumption)
  (dsimp +zetaDelta only; split); split
  with_reducible (apply keeps_flush; apply keeps_modReq; apply keeps_roleCheck; apply keeps_collect; assumption); split; split
  with_reducible (apply keeps_finishReq; apply keeps_flush; apply keeps_modReq; apply keeps_roleCheck; apply keeps_collect; assumption)
  with_reducible (apply keeps_flush; apply keeps_modReq; apply keeps_roleCheck; apply keeps_collect; assumption); split
  with_reducible (apply keeps_runRows; apply keeps_flush; apply keeps_modReq; apply keeps_roleCheck; apply keeps_collect; assumption)
  with_reducible (apply keeps_flush; apply keeps_modReq; apply keeps_roleCheck; apply keeps_collect; assumption); split
  with_reducible (apply keeps_flush; apply keeps_roleCheck; apply keeps_collect; assumption); split; split
  with_reducible (apply keeps_finishReq; apply keeps_flush; apply keeps_roleCheck; apply keeps_collect; assumption; apply keeps_flush)
  with_reducible (apply keeps_roleCheck; apply keeps_collect; assumption); split
  with_reducible (apply keeps_runRows; apply keeps_flush; apply keeps_roleCheck; apply keeps_collect; assumption; apply keeps_flush)
  with_reducible (apply keeps_roleCheck; apply keeps_collect; assumption; assumption)
theorem keeps_decode {s t : State} (h : Keeps s t) (x1) (x2) (x3) : Keeps s (State.decode t x1 x2 x3) := by
  unfold State.decode
  repeat' first
    | with_reducible assumption | with_reducible apply keeps_runRows | split
    | ((try lift_lets); intro z; refine Keeps.named (s := s) (z := z) ?_ ?_; (try subst z); rotate_left; intro hz; clear_value z)
    | ((try lift_lets); intro z; clear_value z) | (with_reducible intro; with_reducible intros; try beta_reduce) | dsimp only
theorem keeps_decodeReady {s t : State} (h : Keeps s t) (x1) (x2) : Keeps s (State.decodeReady t x1 x2) := by
  unfold State.decodeReady
  repeat' first
    | with_reducible assumption | with_reducible apply keeps_decode | with_reducible apply Keeps.foldl | with_reducible apply KeepsP.foldl
    | (with_reducible apply KeepsP.fst; with_reducible apply KeepsP.foldl) | split
    | ((try lift_lets); intro z; refine Keeps.named (s := s) (z := z) ?_ ?_; (try subst z); rotate_left; intro hz; clear_value z)
    | ((try lift_lets); intro z; clear_value z) | (with_reducible intro; with_reducible intros; try beta_reduce) | dsimp only
theorem keeps_servePass {s t : State} (h : Keeps s t) : Keeps s (State.servePass t) := by
  unfold State.servePass
  repeat' first
    | with_reducible assumption | with_reducible apply keeps_dropDead | with_reducible apply keeps_advanceReq | with_reducible apply keeps_decodeReady
    | with_reducible apply Keeps.foldl | with_reducible apply KeepsP.foldl | (with_reducible apply KeepsP.fst; with_reducible apply KeepsP.foldl)
    | split | ((try lift_lets); intro z; refine Keeps.named (s := s) (z := z) ?_ ?_; (try subst z); rotate_left; intro hz; clear_value z)
    | ((try lift_lets); intro z; clear_value z) | (with_reducible intro; with_reducible intros; try beta_reduce) | dsimp only
theorem keeps_served {s t : State} (h : Keeps s t)  : Keeps s (State.served t) := by
  unfold State.served
  split; with_reducible (assumption; apply keeps_servePass; apply keeps_servePass; assumption)
theorem keeps_rejectNoted {s t : State} (h : Keeps s t) (x1) (x2) : Keeps s (State.rejectNoted t x1 x2) := by
  unfold State.rejectNoted
  with_reducible apply keeps_reject; split; with_reducible (assumption; apply keeps_modSession; assumption)
theorem keeps_rejectBusy {s t : State} (h : Keeps s t) (x1) : Keeps s (State.rejectBusy t x1) := by
  unfold State.rejectBusy
  with_reducible (apply keeps_reject; apply keeps_modSession; assumption)
theorem keeps_toLast {s t : State} (h : Keeps s t) (x1) : Keeps s (State.toLast t x1) := by
  unfold State.toLast
  repeat' first
    | with_reducible assumption | exact Nat.le_refl _ | exact Nat.le_succ _ | (with_reducible apply Keeps.put; with_reducible assumption)
    | (with_reducible apply Keeps.putCtxs; with_reducible assumption) | (intro x hx; (try dsimp only); (repeat' split) <;> first | exact hx | decide)
    | split | ((try lift_lets); intro z; refine Keeps.named (s := s) (z := z) ?_ ?_; (try subst z); rotate_left; intro hz; clear_value z)
    | ((try lift_lets); intro z; (have _ : z = t.free := by subst z; rfl); subst z) | ((try lift_lets); intro z; clear_value z)
    | (with_reducible intro; with_reducible intros; try beta_reduce) | dsimp only
theorem keeps_admitPin {s t : State} (h : Keeps s t) (x1) (x2) (x3) (x4) : Keeps s (State.admitPin t x1 x2 x3 x4) := by
  unfold State.admitPin
  repeat' first
    | with_reducible assumption | with_reducible apply KeepsP.mk | with_reducible apply keeps_rejectBusy
    | (with_reducible apply KeepsP.fst; with_reducible apply keeps_loopSend) | with_reducible apply keeps_loopSend | with_reducible apply keeps_toLast
    | with_reducible apply keeps_modReq | split
    | ((try lift_lets); intro z; refine Keeps.named (s := s) (z := z) ?_ ?_; (try subst z); rotate_left; intro hz; clear_value z)
    | ((try lift_lets); intro z; refine KeepsP.named (s := s) (z := z) ?_ ?_; (try subst z); rotate_left; intro hz; clear_value z)
    | (with_reducible apply KeepsP.fst; with_reducible apply KeepsP.mk) | (with_reducible apply KeepsP.fst; with_reducible assumption)
    | ((try lift_lets); intro z; clear_value z) | (with_reducible intro; with_reducible intros; try beta_reduce)
    | (refine KeepsP.elim (by with_reducible assumption) ?_) | dsimp only
theorem keeps_admitHint {s t : State} (h : Keeps s t) (x1) (x2) (x3) (x4) (x5) (x6) : Keeps s (State.admitHint t x1 x2 x3 x4 x5 x6) := by
  unfold State.admitHint
  split; with_reducible apply keeps_admitPin; split; lift_lets; (with_reducible intro; with_reducible intros; try beta_reduce; try lift_lets)
  with_reducible (apply Keeps.put; assumption; exact Nat.le_refl _); lift_lets
  (with_reducible intro; with_reducible intros; try beta_reduce; try lift_lets)
  with_reducible (apply Keeps.put; assumption; exact Nat.le_refl _); split; (dsimp +zetaDelta only; split)
  with_reducible apply keeps_rejectBusy; split
  with_reducible (apply Keeps.put; assumption; exact Nat.le_refl _; apply Keeps.put; assumption; exact Nat.le_refl _; apply keeps_admitPin)
  split; with_reducible (apply KeepsP.fst; apply keeps_loopSend); lift_lets
  with_reducible (apply Keeps.put; assumption; exact Nat.le_refl _; apply KeepsP.fst; apply keeps_loopSend); lift_lets
  with_reducible (apply Keeps.put; assumption; exact Nat.le_refl _); (dsimp +zetaDelta only; split); with_reducible apply keeps_rejectBusy
  split
  with_reducible (apply Keeps.put; assumption; exact Nat.le_refl _; apply Keeps.put; assumption; exact Nat.le_refl _; apply keeps_admitPin)
  split; with_reducible (apply KeepsP.fst; apply keeps_loopSend); lift_lets
  with_reducible (apply Keeps.put; assumption; exact Nat.le_refl _; apply KeepsP.fst; apply keeps_loopSend); lift_lets
  with_reducible (apply Keeps.put; assumption; exact Nat.le_refl _)
theorem keeps_admitLive {s t : State} (h : Keeps s t) (x1) (x2) (x3) (x4) : Keeps s (State.admitLive t x1 x2 x3 x4) := by
  unfold State.admitLive
  split; split; (dsimp +zetaDelta only; split); with_reducible (apply keeps_admitHint; assumption); split; with_reducible apply keeps_admitHint
  lift_lets; with_reducible (apply KeepsP.fst; apply keeps_loopSend; assumption; apply keeps_rejectNoted); lift_lets
  with_reducible (apply KeepsP.fst; apply keeps_loopSend; assumption); (dsimp +zetaDelta only; split)
  with_reducible (apply keeps_admitHint; assumption); split; with_reducible apply keeps_admitHint; lift_lets
  with_reducible (apply KeepsP.fst; apply keeps_loopSend; assumption; apply keeps_rejectNoted); lift_lets
  with_reducible (apply KeepsP.fst; apply keeps_loopSend; assumption); split; (dsimp +zetaDelta only; split)
  with_reducible (apply keeps_admitHint; assumption); split; with_reducible apply keeps_admitHint; lift_lets
  with_reducible (apply KeepsP.fst; apply keeps_loopSend; assumption; apply keeps_rejectNoted); lift_lets
  with_reducible (apply KeepsP.fst; apply keeps_loopSend; assumption); (dsimp +zetaDelta only; split)
  with_reducible (apply keeps_admitHint; assumption); split; with_reducible apply keeps_admitHint; lift_lets
  with_reducible (apply KeepsP.fst; apply keeps_loopSend; assumption; apply keeps_rejectNoted); lift_lets
  with_reducible (apply KeepsP.fst; apply keeps_loopSend; assumption)
theorem keeps_admitReq {s t : State} (h : Keeps s t) (x1) : Keeps s (State.admitReq t x1) := by
  unfold State.admitReq
  split; with_reducible (apply keeps_reject; assumption); split; with_reducible (apply keeps_reject; assumption); split
  with_reducible (apply keeps_rejectNoted; assumption; apply keeps_rejectNoted; assumption; apply keeps_admitLive; assumption)

end Sys2Proof.Machine
end

