-- ==== Sys2Proof/Laws/KeepsHost.lean ====
section
/-! SUPPORT. Every operation of the command rows, registers, start-up and power keeps the queue, the canonical form of memory and the
generations of contexts, and takes back no draw (`Keeps`). The proofs follow the operations' own shape. -/
namespace Sys2Proof.Machine

/-! ### GscRows -/

theorem keeps_execSemGrant {s t : State} (h : Keeps s t) (x1) : KeepsX s (execSemGrant x1 t) := by
  unfold execSemGrant
  repeat' first
    | with_reducible assumption | exact KeepsX.refused | exact KeepsX.fault | with_reducible apply KeepsX.next | with_reducible apply keeps_served
    | with_reducible apply keeps_issueAcquire | with_reducible apply KeepsO.map | with_reducible apply KeepsO.mapVal | split
    | ((try lift_lets); intro z; refine Keeps.named (s := s) (z := z) ?_ ?_; (try subst z); rotate_left; intro hz; clear_value z)
    | ((try lift_lets); intro z; clear_value z) | (with_reducible intro; with_reducible intros; try beta_reduce) | dsimp only
theorem keeps_execCommandIssue {s t : State} (h : Keeps s t) (x1) : KeepsX s (execCommandIssue x1 t) := by
  unfold execCommandIssue
  repeat' first
    | with_reducible assumption | exact KeepsX.refused | exact KeepsX.fault | with_reducible apply KeepsX.next | with_reducible apply keeps_placeAll
    | with_reducible apply keeps_served | with_reducible apply keeps_tryIssue | with_reducible apply keeps_startN | split
    | ((try lift_lets); intro z; refine Keeps.named (s := s) (z := z) ?_ ?_; (try subst z); rotate_left; intro hz; clear_value z)
    | ((try lift_lets); intro z; clear_value z) | (with_reducible intro; with_reducible intros; try beta_reduce) | dsimp only
theorem keeps_execRunAheadStart {s t : State} (h : Keeps s t) (x1) : KeepsX s (execRunAheadStart x1 t) := by
  unfold execRunAheadStart
  repeat' first
    | with_reducible assumption | exact KeepsA.none | exact KeepsA.error | exact KeepsX.refused | exact KeepsX.fault | with_reducible apply KeepsA.ok
    | with_reducible apply KeepsX.next | with_reducible apply keeps_allot | with_reducible apply keeps_begin | with_reducible apply keeps_modCmd
    | split | ((try lift_lets); intro z; refine Keeps.named (s := s) (z := z) ?_ ?_; (try subst z); rotate_left; intro hz; clear_value z)
    | ((try lift_lets); intro z; clear_value z) | (with_reducible intro; with_reducible intros; try beta_reduce)
    | (refine KeepsA.elim (by with_reducible assumption) ?_) | dsimp only
theorem keeps_execCommit {s t : State} (h : Keeps s t) (x1) (x2) : KeepsX s (execCommit x1 x2 t) := by
  unfold execCommit
  repeat' first
    | with_reducible assumption | exact KeepsX.refused | exact KeepsX.fault | with_reducible apply KeepsX.next | with_reducible apply keeps_served
    | with_reducible apply keeps_placeAll | with_reducible apply keeps_commitOp | split
    | ((try lift_lets); intro z; refine Keeps.named (s := s) (z := z) ?_ ?_; (try subst z); rotate_left; intro hz; clear_value z)
    | ((try lift_lets); intro z; clear_value z) | (with_reducible intro; with_reducible intros; try beta_reduce) | dsimp only
theorem keeps_execFixedCommandEnd {s t : State} (h : Keeps s t) (x1) (x2) : KeepsX s (execFixedCommandEnd x1 x2 t) := by
  unfold execFixedCommandEnd
  repeat' first
    | with_reducible assumption | exact KeepsX.refused | exact KeepsX.fault | with_reducible apply KeepsX.next | with_reducible apply keeps_served
    | with_reducible apply keeps_placeAll | with_reducible apply keeps_endFixed | split
    | ((try lift_lets); intro z; refine Keeps.named (s := s) (z := z) ?_ ?_; (try subst z); rotate_left; intro hz; clear_value z)
    | ((try lift_lets); intro z; clear_value z) | (with_reducible intro; with_reducible intros; try beta_reduce) | dsimp only
theorem keeps_execMismatchRerun {s t : State} (h : Keeps s t) (x1) : KeepsX s (execMismatchRerun x1 t) := by
  unfold execMismatchRerun
  repeat' first
    | with_reducible assumption | exact KeepsX.refused | exact KeepsX.fault | with_reducible apply KeepsX.next | with_reducible apply keeps_tryIssue
    | with_reducible apply keeps_placeAll | with_reducible apply keeps_modCmd | split
    | ((try lift_lets); intro z; refine Keeps.named (s := s) (z := z) ?_ ?_; (try subst z); rotate_left; intro hz; clear_value z)
    | ((try lift_lets); intro z; clear_value z) | (with_reducible intro; with_reducible intros; try beta_reduce) | dsimp only

/-! ### RegRead -/

theorem keeps_modBank {s t : State} (h : Keeps s t) (x1) (x2) : Keeps s (State.modBank t x1 x2) := by
  unfold State.modBank
  split
  with_reducible (apply Keeps.put; assumption; exact Nat.le_refl _; apply Keeps.put; assumption; exact Nat.le_refl _; apply Keeps.put; assumption)
  with_reducible (exact Nat.le_refl _)
theorem keeps_rcClear {s t : State} (h : Keeps s t) (x1) (x2) : Keeps s (State.rcClear t x1 x2) := by
  unfold State.rcClear
  split; with_reducible (apply keeps_modBank; assumption; assumption)
theorem keeps_readAt {s t : State} (h : Keeps s t) (x1) (x2) : KeepsQ s (State.readAt t x1 x2) := by
  unfold State.readAt
  with_reducible apply KeepsQ.mk; split; with_reducible assumption; split; with_reducible assumption; split
  with_reducible (apply keeps_modBank; assumption; apply keeps_rcClear; assumption)

/-! ### Startup -/

theorem keeps_clearMain {s t : State} (h : Keeps s t)  : Keeps s (State.clearMain t) := by
  refine ⟨h.queue, fun hm => ?_, fun _ => ?_, h.free⟩
  · exact memWf_filter (h.mem hm) _
  · show gensOk State.reset.ctxs
    intro c
    simp [State.reset]
theorem keeps_beginStart {s t : State} (h : Keeps s t)  : Keeps s (State.beginStart t) := by
  unfold State.beginStart
  split; lift_lets; (with_reducible intro; with_reducible intros; try beta_reduce; try lift_lets)
  with_reducible (apply Keeps.put; assumption; exact Nat.le_refl _); lift_lets
  (with_reducible intro; with_reducible intros; try beta_reduce; try lift_lets)
  with_reducible (apply Keeps.put; assumption; exact Nat.le_refl _)
theorem keeps_releaseVigil {s t : State} (h : Keeps s t)  : Keeps s (State.releaseVigil t) := by
  unfold State.releaseVigil
  split; with_reducible apply keeps_beginStart; lift_lets; (with_reducible intro; with_reducible intros; try beta_reduce; try lift_lets)
  with_reducible (apply Keeps.put; apply keeps_clearMain; assumption; exact Nat.le_refl _; assumption)
theorem keeps_enterVigil {s t : State} (h : Keeps s t) (x1) : Keeps s (State.enterVigil t x1) := by
  unfold State.enterVigil
  with_reducible apply keeps_modCtx; lift_lets; (with_reducible intro; with_reducible intros; try beta_reduce; try lift_lets)
  with_reducible (apply Keeps.put; apply keeps_clearMain; assumption; exact Nat.le_refl _)
  (with_reducible intro; with_reducible intros; try beta_reduce; try lift_lets); with_reducible assumption
theorem keeps_failStart {s t : State} (h : Keeps s t) (x1) : Keeps s (State.failStart t x1) := by
  unfold State.failStart
  (dsimp +zetaDelta only; split); with_reducible (apply keeps_enterVigil; apply keeps_raiseOpen); lift_lets
  with_reducible (apply Keeps.put; assumption; exact Nat.le_refl _; apply Keeps.put; apply keeps_clearMain; apply keeps_raiseOpen); lift_lets
  with_reducible (apply Keeps.put; assumption; exact Nat.le_refl _; exact Nat.le_refl _)
theorem keeps_goPhase {s t : State} (h : Keeps s t) (x1) : Keeps s (State.goPhase t x1) := by
  unfold State.goPhase
  lift_lets; (with_reducible intro; with_reducible intros; try beta_reduce; try lift_lets)
  with_reducible (apply Keeps.put; assumption; exact Nat.le_refl _)
theorem keeps_almanacEnd {s t : State} (h : Keeps s t) (x1) : Keeps s (State.almanacEnd t x1) := by
  unfold State.almanacEnd
  split; split; with_reducible (apply keeps_failStart; apply Keeps.foldl; apply Keeps.foldl); lift_lets
  (with_reducible intro; with_reducible intros; try beta_reduce; try lift_lets)
  with_reducible (apply Keeps.put; assumption; exact Nat.le_refl _)
  (with_reducible intro; with_reducible intros; try beta_reduce; try lift_lets); with_reducible (apply keeps_raiseOpen; assumption)
  (with_reducible intro; with_reducible intros; try beta_reduce; try lift_lets); split
  with_reducible (apply keeps_modStack; assumption; assumption); (dsimp +zetaDelta only; split); split
  with_reducible (apply keeps_failStart; apply Keeps.foldl; apply Keeps.foldl); lift_lets
  with_reducible (apply Keeps.put; assumption; exact Nat.le_refl _)
  (with_reducible intro; with_reducible intros; try beta_reduce; try lift_lets); with_reducible (apply keeps_raiseOpen; assumption)
  (with_reducible intro; with_reducible intros; try beta_reduce; try lift_lets); split
  with_reducible (apply keeps_modStack; assumption; assumption; apply Keeps.put; apply keeps_goPhase; apply Keeps.foldl; apply Keeps.foldl)
  lift_lets; with_reducible (apply Keeps.put; assumption; exact Nat.le_refl _)
  (with_reducible intro; with_reducible intros; try beta_reduce; try lift_lets); with_reducible (apply keeps_raiseOpen; assumption)
  (with_reducible intro; with_reducible intros; try beta_reduce; try lift_lets); split
  with_reducible (apply keeps_modStack; assumption; assumption; exact Nat.le_refl _); split
  with_reducible (apply keeps_failStart; apply Keeps.foldl; apply Keeps.foldl); lift_lets
  with_reducible (apply Keeps.put; assumption; exact Nat.le_refl _)
  (with_reducible intro; with_reducible intros; try beta_reduce; try lift_lets); with_reducible (apply keeps_raiseOpen; assumption)
  (with_reducible intro; with_reducible intros; try beta_reduce; try lift_lets); split
  with_reducible (apply keeps_modStack; assumption; assumption; apply Keeps.put; apply keeps_goPhase; apply Keeps.foldl; apply Keeps.foldl)
  lift_lets; with_reducible (apply Keeps.put; assumption; exact Nat.le_refl _)
  (with_reducible intro; with_reducible intros; try beta_reduce; try lift_lets); with_reducible (apply keeps_raiseOpen; assumption)
  (with_reducible intro; with_reducible intros; try beta_reduce; try lift_lets); split
  with_reducible (apply keeps_modStack; assumption; assumption; exact Nat.le_refl _); split
  with_reducible (apply keeps_failStart; apply Keeps.foldl; apply Keeps.foldl); lift_lets
  (with_reducible intro; with_reducible intros; try beta_reduce; try lift_lets)
  with_reducible (apply Keeps.put; assumption; exact Nat.le_refl _)
  (with_reducible intro; with_reducible intros; try beta_reduce; try lift_lets); with_reducible (apply keeps_raiseOpen; assumption)
  (with_reducible intro; with_reducible intros; try beta_reduce; try lift_lets); split
  with_reducible (apply keeps_modStack; assumption; assumption); (dsimp +zetaDelta only; split); split
  with_reducible (apply keeps_failStart; apply Keeps.foldl; apply Keeps.foldl); lift_lets
  with_reducible (apply Keeps.put; assumption; exact Nat.le_refl _)
  (with_reducible intro; with_reducible intros; try beta_reduce; try lift_lets); with_reducible (apply keeps_raiseOpen; assumption)
  (with_reducible intro; with_reducible intros; try beta_reduce; try lift_lets); split
  with_reducible (apply keeps_modStack; assumption; assumption; apply Keeps.put; apply keeps_goPhase; apply Keeps.foldl; apply Keeps.foldl)
  lift_lets; with_reducible (apply Keeps.put; assumption; exact Nat.le_refl _)
  (with_reducible intro; with_reducible intros; try beta_reduce; try lift_lets); with_reducible (apply keeps_raiseOpen; assumption)
  (with_reducible intro; with_reducible intros; try beta_reduce; try lift_lets); split
  with_reducible (apply keeps_modStack; assumption; assumption; exact Nat.le_refl _); split
  with_reducible (apply keeps_failStart; apply Keeps.foldl; apply Keeps.foldl); lift_lets
  with_reducible (apply Keeps.put; assumption; exact Nat.le_refl _)
  (with_reducible intro; with_reducible intros; try beta_reduce; try lift_lets); with_reducible (apply keeps_raiseOpen; assumption)
  (with_reducible intro; with_reducible intros; try beta_reduce; try lift_lets); split
  with_reducible (apply keeps_modStack; assumption; assumption; apply Keeps.put; apply keeps_goPhase; apply Keeps.foldl; apply Keeps.foldl)
  lift_lets; with_reducible (apply Keeps.put; assumption; exact Nat.le_refl _)
  (with_reducible intro; with_reducible intros; try beta_reduce; try lift_lets); with_reducible (apply keeps_raiseOpen; assumption)
  (with_reducible intro; with_reducible intros; try beta_reduce; try lift_lets); split
  with_reducible (apply keeps_modStack; assumption; assumption; exact Nat.le_refl _)
theorem keeps_archiveEnd {s t : State} (h : Keeps s t) (x1) : Keeps s (State.archiveEnd t x1) := by
  unfold State.archiveEnd
  with_reducible apply keeps_goPhase; split; split; lift_lets; (with_reducible intro; with_reducible intros; try beta_reduce; try lift_lets)
  with_reducible (apply Keeps.put; assumption; exact Nat.le_refl _; apply keeps_modRas); lift_lets
  (with_reducible intro; with_reducible intros; try beta_reduce; try lift_lets)
  with_reducible (apply Keeps.put; assumption; exact Nat.le_refl _); split; lift_lets
  (with_reducible intro; with_reducible intros; try beta_reduce; try lift_lets)
  with_reducible (apply Keeps.put; apply keeps_raiseOpen; assumption; exact Nat.le_refl _; apply keeps_modRas); lift_lets
  (with_reducible intro; with_reducible intros; try beta_reduce; try lift_lets)
  with_reducible (apply Keeps.put; apply keeps_raiseOpen; assumption; exact Nat.le_refl _)
theorem keeps_restart {s t : State} (h : Keeps s t)  : Keeps s (State.restart t) := by
  unfold State.restart
  with_reducible (apply keeps_beginStart; apply keeps_clearMain; assumption)
theorem keeps_assertReset {s t : State} (h : Keeps s t)  : Keeps s (State.assertReset t) := by
  unfold State.assertReset
  split; with_reducible (apply keeps_enterVigil; assumption; apply keeps_restart; assumption)
theorem keeps_bistEnd {s t : State} (h : Keeps s t) (x1) : Keeps s (State.bistEnd t x1) := by
  unfold State.bistEnd
  split; with_reducible (apply keeps_failStart; assumption); (dsimp +zetaDelta only; split)
  with_reducible (apply keeps_failStart; assumption; apply Keeps.put; apply keeps_goPhase; apply keeps_modSched; assumption; exact Nat.le_refl _)
theorem keeps_firmwareEnd {s t : State} (h : Keeps s t) (x1) : Keeps s (State.firmwareEnd t x1) := by
  unfold State.firmwareEnd
  split; split; with_reducible (apply keeps_failStart; assumption); (dsimp +zetaDelta only; split); split
  with_reducible (apply Keeps.put; apply keeps_goPhase; assumption; exact Nat.le_refl _); split; split
  with_reducible (apply Keeps.put; apply keeps_raiseOpen; assumption; exact Nat.le_refl _; apply keeps_failStart; assumption); split
  with_reducible (apply Keeps.put; apply keeps_raiseOpen; assumption; exact Nat.le_refl _; apply keeps_failStart; assumption); split
  with_reducible (apply Keeps.put; apply keeps_goPhase; assumption; exact Nat.le_refl _); split; split
  with_reducible (apply Keeps.put; apply keeps_raiseOpen; assumption; exact Nat.le_refl _; apply keeps_failStart; assumption); split
  with_reducible (apply Keeps.put; apply keeps_raiseOpen; assumption; exact Nat.le_refl _; apply keeps_failStart; assumption); split
  with_reducible (apply keeps_failStart; assumption); (dsimp +zetaDelta only; split); split
  with_reducible (apply Keeps.put; apply keeps_goPhase; assumption; exact Nat.le_refl _); split; split
  with_reducible (apply Keeps.put; apply keeps_raiseOpen; assumption; exact Nat.le_refl _; apply keeps_failStart; assumption); split
  with_reducible (apply Keeps.put; apply keeps_raiseOpen; assumption; exact Nat.le_refl _; apply keeps_failStart; assumption); split
  with_reducible (apply Keeps.put; apply keeps_goPhase; assumption; exact Nat.le_refl _); split; split
  with_reducible (apply Keeps.put; apply keeps_raiseOpen; assumption; exact Nat.le_refl _; apply keeps_failStart; assumption); split
  with_reducible (apply Keeps.put; apply keeps_raiseOpen; assumption; exact Nat.le_refl _; apply keeps_failStart; assumption)
theorem keeps_hbmEnd {s t : State} (h : Keeps s t) (x1) : Keeps s (State.hbmEnd t x1) := by
  unfold State.hbmEnd
  (dsimp +zetaDelta only; split); with_reducible (apply keeps_failStart; apply Keeps.foldl; assumption)
  (with_reducible intro; with_reducible intros; try beta_reduce; try lift_lets)
  with_reducible (apply keeps_modStack; assumption; apply Keeps.put; apply keeps_goPhase; apply Keeps.foldl; assumption)
  (with_reducible intro; with_reducible intros; try beta_reduce; try lift_lets)
  with_reducible (apply keeps_modStack; assumption; exact Nat.le_refl _)
theorem keeps_requestReset {s t : State} (h : Keeps s t)  : Keeps s (State.requestReset t) := by
  unfold State.requestReset
  split; with_reducible (apply keeps_deviceReset; assumption); split
  with_reducible (apply keeps_restart; assumption; apply keeps_modRas; assumption; apply keeps_beginStart; apply keeps_clearMain; assumption)
  with_reducible (assumption; assumption; assumption)
theorem keeps_holdReset {s t : State} (h : Keeps s t)  : Keeps s (State.holdReset t) := by
  unfold State.holdReset
  split; with_reducible (apply keeps_deviceReset; assumption; assumption); split
  with_reducible (apply keeps_beginStart; apply keeps_clearMain; assumption; apply keeps_requestReset; assumption; apply keeps_beginStart)
  with_reducible (apply keeps_clearMain; assumption)
theorem keeps_readSensors {s t : State} (h : Keeps s t)  : Keeps s (State.readSensors t) := by
  unfold State.readSensors
  with_reducible (apply Keeps.foldl; assumption); (with_reducible intro; with_reducible intros; try beta_reduce; try lift_lets)
  (with_reducible intro; with_reducible intros; try beta_reduce; try lift_lets)
  with_reducible (apply Keeps.put; assumption; exact Nat.le_succ _)
theorem keeps_peerPools {s t : State} (h : Keeps s t)  : Keeps s (State.peerPools t) := by
  exact (keeps_modMem h _).put (by show t.free ≤ t.free + 9; omega)
theorem keeps_linksEnd {s t : State} (h : Keeps s t) (x1) : Keeps s (State.linksEnd t x1) := by
  unfold State.linksEnd
  split; lift_lets; (with_reducible intro; with_reducible intros; try beta_reduce; try lift_lets)
  with_reducible (apply Keeps.put; apply keeps_modRing; apply keeps_modMem; apply keeps_peerPools; apply keeps_readSensors; assumption)
  with_reducible (exact Nat.le_refl _); lift_lets; (with_reducible intro; with_reducible intros; try beta_reduce; try lift_lets)
  with_reducible (apply Keeps.put; apply keeps_modRing; apply keeps_modMem; apply keeps_peerPools; assumption; exact Nat.le_refl _)
theorem keeps_requestVigil {s t : State} (h : Keeps s t)  : Keeps s (State.requestVigil t) := by
  unfold State.requestVigil
  split; with_reducible apply keeps_deviceReset; lift_lets; (with_reducible intro; with_reducible intros; try beta_reduce; try lift_lets)
  with_reducible (apply Keeps.put; assumption; exact Nat.le_refl _; assumption; assumption; apply keeps_enterVigil; assumption)
theorem keeps_ofPart {s t : State} (h : Keeps s t) (x1) : Keeps s (State.ofPart t x1) := by
  unfold State.ofPart
  repeat' first
    | with_reducible assumption | exact Nat.le_refl _ | exact Nat.le_succ _ | (with_reducible apply Keeps.put; with_reducible assumption)
    | (with_reducible apply Keeps.putCtxs; with_reducible assumption) | (intro x hx; (try dsimp only); (repeat' split) <;> exact hx) | split
    | ((try lift_lets); intro z; refine Keeps.named (s := s) (z := z) ?_ ?_; (try subst z); rotate_left; intro hz; clear_value z)
    | ((try lift_lets); intro z; (have _ : z = t.free := by subst z; rfl); subst z) | ((try lift_lets); intro z; clear_value z)
    | (with_reducible intro; with_reducible intros; try beta_reduce) | dsimp only
theorem keeps_rootEnd {s t : State} (h : Keeps s t) (x1) : Keeps s (State.rootEnd t x1) := by
  unfold State.rootEnd
  repeat' first
    | with_reducible assumption | exact Nat.le_refl _ | exact Nat.le_succ _ | with_reducible apply keeps_enterVigil
    | with_reducible apply keeps_failStart | with_reducible apply keeps_goPhase | with_reducible apply keeps_ofPart | with_reducible apply KeepsO.map
    | with_reducible apply KeepsO.mapVal | (with_reducible apply Keeps.put; with_reducible assumption)
    | (with_reducible apply Keeps.putCtxs; with_reducible assumption)
    | (with_reducible apply Keeps.put; first | with_reducible apply keeps_enterVigil | with_reducible apply keeps_failStart | with_reducible apply keeps_goPhase | with_reducible apply keeps_ofPart)
    | (intro x hx; (try dsimp only); (repeat' split) <;> exact hx) | split
    | ((try lift_lets); intro z; refine Keeps.named (s := s) (z := z) ?_ ?_; (try subst z); rotate_left; intro hz; clear_value z)
    | ((try lift_lets); intro z; (have _ : z = t.free := by subst z; rfl); subst z) | ((try lift_lets); intro z; clear_value z)
    | (with_reducible intro; with_reducible intros; try beta_reduce) | dsimp only
theorem keeps_sliceMapEnd {s t : State} (h : Keeps s t) : Keeps s (State.sliceMapEnd t) := by
  unfold State.sliceMapEnd
  repeat' first
    | with_reducible assumption | exact Nat.le_refl _ | exact Nat.le_succ _ | with_reducible apply keeps_failStart | with_reducible apply keeps_modRas
    | with_reducible apply keeps_goPhase | with_reducible apply keeps_modCtx | (with_reducible apply Keeps.put; with_reducible assumption)
    | (with_reducible apply Keeps.putCtxs; with_reducible assumption)
    | (with_reducible apply Keeps.put; first | with_reducible apply keeps_failStart | with_reducible apply keeps_modRas | with_reducible apply keeps_goPhase | with_reducible apply keeps_modCtx)
    | (intro x hx; (try dsimp only); (repeat' split) <;> first | exact hx | decide) | split
    | ((try lift_lets); intro z; refine Keeps.named (s := s) (z := z) ?_ ?_; (try subst z); rotate_left; intro hz; clear_value z)
    | ((try lift_lets); intro z; (have _ : z = t.free := by subst z; rfl); subst z) | ((try lift_lets); intro z; clear_value z)
    | (with_reducible intro; with_reducible intros; try beta_reduce) | dsimp only
theorem keeps_vaultEnd {s t : State} (h : Keeps s t) (x1) : Keeps s (State.vaultEnd t x1) := by
  unfold State.vaultEnd
  repeat' first
    | with_reducible assumption | exact Nat.le_refl _ | exact Nat.le_succ _ | with_reducible apply keeps_failStart
    | with_reducible apply keeps_cfgError | with_reducible apply keeps_ledgerAdd | with_reducible apply keeps_modMem
    | with_reducible apply keeps_goPhase | with_reducible apply keeps_modRas | with_reducible apply Keeps.foldl | with_reducible apply KeepsP.foldl
    | (with_reducible apply KeepsP.fst; with_reducible apply KeepsP.foldl) | (with_reducible apply Keeps.put; with_reducible assumption)
    | (with_reducible apply Keeps.putCtxs; with_reducible assumption)
    | (with_reducible apply Keeps.put; first | with_reducible apply keeps_failStart | with_reducible apply keeps_cfgError | with_reducible apply keeps_ledgerAdd | with_reducible apply keeps_modMem | with_reducible apply keeps_goPhase | with_reducible apply keeps_modRas | with_reducible apply Keeps.foldl)
    | (intro x hx; (try dsimp only); (repeat' split) <;> exact hx) | split
    | ((try lift_lets); intro z; refine Keeps.named (s := s) (z := z) ?_ ?_; (try subst z); rotate_left; intro hz; clear_value z)
    | ((try lift_lets); intro z; (have _ : z = t.free := by subst z; rfl); subst z) | ((try lift_lets); intro z; clear_value z)
    | (with_reducible intro; with_reducible intros; try beta_reduce) | dsimp only
theorem keeps_phaseEnd {s t : State} (h : Keeps s t) (x1) : Keeps s (State.phaseEnd t x1) := by
  unfold State.phaseEnd
  split; split; (dsimp +zetaDelta only; split); with_reducible apply keeps_goPhase; lift_lets
  with_reducible (apply Keeps.put; assumption; exact Nat.le_refl _; apply keeps_rootEnd); lift_lets
  with_reducible (apply Keeps.put; assumption; exact Nat.le_refl _; apply keeps_firmwareEnd); lift_lets
  with_reducible (apply Keeps.put; assumption; exact Nat.le_refl _; apply Keeps.put; apply keeps_goPhase); lift_lets
  with_reducible (apply Keeps.put; assumption; exact Nat.le_refl _; exact Nat.le_refl _; apply keeps_almanacEnd); lift_lets
  with_reducible (apply Keeps.put; assumption; exact Nat.le_refl _; apply keeps_archiveEnd); lift_lets
  with_reducible (apply Keeps.put; assumption; exact Nat.le_refl _; apply keeps_bistEnd); lift_lets
  with_reducible (apply Keeps.put; assumption; exact Nat.le_refl _; apply keeps_hbmEnd); lift_lets
  with_reducible (apply Keeps.put; assumption; exact Nat.le_refl _; apply keeps_sliceMapEnd); lift_lets
  with_reducible (apply Keeps.put; assumption; exact Nat.le_refl _; apply keeps_vaultEnd); lift_lets
  with_reducible (apply Keeps.put; assumption; exact Nat.le_refl _); split; with_reducible apply keeps_linksEnd; lift_lets
  with_reducible (apply Keeps.put; assumption; exact Nat.le_refl _; apply Keeps.put; assumption; exact Nat.le_refl _; apply Keeps.put; assumption)
  with_reducible (exact Nat.le_refl _; apply Keeps.put; assumption; exact Nat.le_refl _); (dsimp +zetaDelta only; split)
  with_reducible apply keeps_failStart; lift_lets; with_reducible (apply Keeps.put; assumption; exact Nat.le_refl _; apply keeps_rootEnd)
  lift_lets; with_reducible (apply Keeps.put; assumption; exact Nat.le_refl _; apply keeps_firmwareEnd); lift_lets
  with_reducible (apply Keeps.put; assumption; exact Nat.le_refl _; apply keeps_failStart); lift_lets
  with_reducible (apply Keeps.put; assumption; exact Nat.le_refl _; apply keeps_almanacEnd); lift_lets
  with_reducible (apply Keeps.put; assumption; exact Nat.le_refl _; apply keeps_archiveEnd); lift_lets
  with_reducible (apply Keeps.put; assumption; exact Nat.le_refl _; apply keeps_bistEnd); lift_lets
  with_reducible (apply Keeps.put; assumption; exact Nat.le_refl _; apply keeps_hbmEnd); lift_lets
  with_reducible (apply Keeps.put; assumption; exact Nat.le_refl _; apply keeps_sliceMapEnd); lift_lets
  with_reducible (apply Keeps.put; assumption; exact Nat.le_refl _; apply keeps_vaultEnd); lift_lets
  with_reducible (apply Keeps.put; assumption; exact Nat.le_refl _); split; with_reducible apply keeps_linksEnd; lift_lets
  with_reducible (apply Keeps.put; assumption; exact Nat.le_refl _; apply Keeps.put; assumption; exact Nat.le_refl _; apply Keeps.put; assumption)
  with_reducible (exact Nat.le_refl _; apply Keeps.put; assumption; exact Nat.le_refl _); split; (dsimp +zetaDelta only; split)
  with_reducible (apply keeps_goPhase; assumption; apply keeps_rootEnd; assumption; apply keeps_firmwareEnd; assumption; apply Keeps.put)
  with_reducible (apply keeps_goPhase; assumption; exact Nat.le_refl _; apply keeps_almanacEnd; assumption; apply keeps_archiveEnd; assumption)
  with_reducible (apply keeps_bistEnd; assumption; apply keeps_hbmEnd; assumption; apply keeps_sliceMapEnd; assumption; apply keeps_vaultEnd)
  with_reducible (assumption); split; with_reducible (apply keeps_linksEnd; assumption; assumption; assumption; assumption)
  (dsimp +zetaDelta only; split)
  with_reducible (apply keeps_failStart; assumption; apply keeps_rootEnd; assumption; apply keeps_firmwareEnd; assumption; apply keeps_failStart)
  with_reducible (assumption; apply keeps_almanacEnd; assumption; apply keeps_archiveEnd; assumption; apply keeps_bistEnd; assumption)
  with_reducible (apply keeps_hbmEnd; assumption; apply keeps_sliceMapEnd; assumption; apply keeps_vaultEnd; assumption); split
  with_reducible (apply keeps_linksEnd; assumption; assumption; assumption; assumption)
theorem keeps_powerOff {s t : State} (h : Keeps s t)  : Keeps s (State.powerOff t) := by
  unfold State.powerOff
  lift_lets; (with_reducible intro; with_reducible intros; try beta_reduce; try lift_lets)
  with_reducible (apply Keeps.put; apply keeps_clearMain; assumption; exact Nat.le_refl _)
theorem keeps_vigilCtl {s t : State} (h : Keeps s t) (x1) (x2) : Keeps s (State.vigilCtl t x1 x2) := by
  unfold State.vigilCtl
  split; with_reducible assumption; split; split
  with_reducible (apply keeps_requestVigil; assumption; apply keeps_releaseVigil; assumption; apply keeps_cfgError; assumption)
theorem keeps_execEmberCaptureDone {s t : State} (h : Keeps s t) (x1) : KeepsX s (execEmberCaptureDone x1 t) := by
  unfold execEmberCaptureDone
  repeat' first
    | with_reducible assumption | exact KeepsX.refused | exact KeepsX.fault | with_reducible apply KeepsP.mk | with_reducible apply KeepsX.next
    | (with_reducible apply KeepsP.fst; with_reducible apply keeps_captureDone) | with_reducible apply keeps_captureDone
    | with_reducible apply keeps_assertReset | split
    | ((try lift_lets); intro z; refine Keeps.named (s := s) (z := z) ?_ ?_; (try subst z); rotate_left; intro hz; clear_value z)
    | ((try lift_lets); intro z; refine KeepsP.named (s := s) (z := z) ?_ ?_; (try subst z); rotate_left; intro hz; clear_value z)
    | (with_reducible apply KeepsP.fst; with_reducible apply KeepsP.mk) | (with_reducible apply KeepsP.fst; with_reducible assumption)
    | ((try lift_lets); intro z; clear_value z) | (with_reducible intro; with_reducible intros; try beta_reduce)
    | (refine KeepsP.elim (by with_reducible assumption) ?_) | dsimp only
theorem keeps_execPowerInputUp {s t : State} (h : Keeps s t)  : KeepsX s (execPowerInputUp t) := by
  unfold execPowerInputUp
  with_reducible apply KeepsX.next; split; with_reducible apply keeps_beginStart; lift_lets
  (with_reducible intro; with_reducible intros; try beta_reduce; try lift_lets)
  with_reducible (apply Keeps.put; assumption; exact Nat.le_refl _; assumption)
theorem keeps_execStartPhaseEnd {s t : State} (h : Keeps s t) (x1) : KeepsX s (execStartPhaseEnd x1 t) := by
  unfold execStartPhaseEnd
  repeat' first
    | with_reducible assumption | exact KeepsX.refused | exact KeepsX.fault | with_reducible apply KeepsX.next | with_reducible apply keeps_phaseEnd
    | split | ((try lift_lets); intro z; refine Keeps.named (s := s) (z := z) ?_ ?_; (try subst z); rotate_left; intro hz; clear_value z)
    | ((try lift_lets); intro z; clear_value z) | (with_reducible intro; with_reducible intros; try beta_reduce) | dsimp only
theorem keeps_execStartTimeout {s t : State} (h : Keeps s t)  : KeepsX s (execStartTimeout t) := by
  unfold execStartTimeout
  with_reducible apply KeepsX.next; split; with_reducible apply keeps_failStart; lift_lets
  (with_reducible intro; with_reducible intros; try beta_reduce; try lift_lets)
  with_reducible (apply Keeps.put; assumption; exact Nat.le_refl _; assumption)
theorem keeps_execStartRetry {s t : State} (h : Keeps s t)  : KeepsX s (execStartRetry t) := by
  unfold execStartRetry
  with_reducible apply KeepsX.next; split; with_reducible apply keeps_beginStart; lift_lets
  (with_reducible intro; with_reducible intros; try beta_reduce; try lift_lets)
  with_reducible (apply Keeps.put; assumption; exact Nat.le_refl _; assumption)
theorem keeps_execPowerInputStop {s t : State} (h : Keeps s t)  : KeepsX s (execPowerInputStop t) := by
  unfold execPowerInputStop
  with_reducible apply KeepsX.next; split; with_reducible (assumption; apply keeps_powerOff; assumption)
theorem keeps_execOvervoltage {s t : State} (h : Keeps s t)  : KeepsX s (execOvervoltage t) := by
  unfold execOvervoltage
  with_reducible apply KeepsX.next; split; with_reducible (assumption; apply keeps_powerOff; assumption)
theorem keeps_execPresentNBreak {s t : State} (h : Keeps s t)  : KeepsX s (execPresentNBreak t) := by
  unfold execPresentNBreak
  with_reducible apply KeepsX.next; split; lift_lets; (with_reducible intro; with_reducible intros; try beta_reduce; try lift_lets)
  with_reducible (apply Keeps.put; assumption; exact Nat.le_refl _); lift_lets
  (with_reducible intro; with_reducible intros; try beta_reduce; try lift_lets)
  with_reducible (apply Keeps.put; apply keeps_powerOff; assumption; exact Nat.le_refl _)
theorem keeps_execHardResetN {s t : State} (h : Keeps s t)  : KeepsX s (execHardResetN t) := by
  unfold execHardResetN
  with_reducible (apply KeepsX.next; apply keeps_holdReset); lift_lets
  (with_reducible intro; with_reducible intros; try beta_reduce; try lift_lets)
  with_reducible (apply Keeps.put; assumption; exact Nat.le_refl _)
theorem keeps_execHardResetRelease {s t : State} (h : Keeps s t)  : KeepsX s (execHardResetRelease t) := by
  unfold execHardResetRelease
  with_reducible apply KeepsX.next; split; with_reducible apply keeps_beginStart; lift_lets
  (with_reducible intro; with_reducible intros; try beta_reduce; try lift_lets)
  with_reducible (apply Keeps.put; assumption; exact Nat.le_refl _); lift_lets
  (with_reducible intro; with_reducible intros; try beta_reduce; try lift_lets)
  with_reducible (apply Keeps.put; assumption; exact Nat.le_refl _)
theorem keeps_execVigilCtlRequest {s t : State} (h : Keeps s t) (x1) : KeepsX s (execVigilCtlRequest x1 t) := by
  unfold execVigilCtlRequest
  repeat' first
    | with_reducible assumption | exact KeepsX.refused | exact KeepsX.fault | with_reducible apply KeepsX.next | with_reducible apply keeps_vigilCtl
    | split | ((try lift_lets); intro z; refine Keeps.named (s := s) (z := z) ?_ ?_; (try subst z); rotate_left; intro hz; clear_value z)
    | ((try lift_lets); intro z; clear_value z) | (with_reducible intro; with_reducible intros; try beta_reduce) | dsimp only
theorem keeps_execVigilCtlRelease {s t : State} (h : Keeps s t) (x1) : KeepsX s (execVigilCtlRelease x1 t) := by
  unfold execVigilCtlRelease
  repeat' first
    | with_reducible assumption | exact KeepsX.refused | exact KeepsX.fault | with_reducible apply KeepsX.next | with_reducible apply keeps_vigilCtl
    | split | ((try lift_lets); intro z; refine Keeps.named (s := s) (z := z) ?_ ?_; (try subst z); rotate_left; intro hz; clear_value z)
    | ((try lift_lets); intro z; clear_value z) | (with_reducible intro; with_reducible intros; try beta_reduce) | dsimp only

/-! ### RegWrite -/

theorem keeps_askFrames {s t : State} (h : Keeps s t) (x1) (x2) : Keeps s (State.askFrames t x1 x2) := by
  induction x2 generalizing t x1 with
  | nil =>
    unfold State.askFrames
    repeat' first
      | with_reducible assumption | with_reducible apply keeps_send | split
      | ((try lift_lets); intro z; refine Keeps.named (s := s) (z := z) ?_ ?_; (try subst z); rotate_left; intro hz; clear_value z)
      | ((try lift_lets); intro z; clear_value z) | (with_reducible intro; with_reducible intros; try beta_reduce) | dsimp only
  | cons a l ih =>
    unfold State.askFrames
    repeat' first
      | with_reducible assumption | with_reducible apply keeps_send | with_reducible apply ih | split
      | ((try lift_lets); intro z; refine Keeps.named (s := s) (z := z) ?_ ?_; (try subst z); rotate_left; intro hz; clear_value z)
      | ((try lift_lets); intro z; clear_value z) | (with_reducible intro; with_reducible intros; try beta_reduce) | dsimp only
theorem keeps_clearCfgErr {s t : State} (h : Keeps s t) (x1) : Keeps s (State.clearCfgErr t x1) := by
  unfold State.clearCfgErr
  split; lift_lets; (with_reducible intro; with_reducible intros; try beta_reduce; try lift_lets)
  with_reducible (apply Keeps.put; assumption; exact Nat.le_refl _; assumption)
theorem keeps_clearNan {s t : State} (h : Keeps s t) (x1) (x2) : Keeps s (State.clearNan t x1 x2) := by
  unfold State.clearNan
  split; with_reducible (apply keeps_modCtx; assumption); (with_reducible intro; with_reducible intros; try beta_reduce; try lift_lets)
  with_reducible (assumption; assumption)
theorem keeps_disableRing {s t : State} (h : Keeps s t) (x1) : Keeps s (State.disableRing t x1) := by
  unfold State.disableRing
  with_reducible (apply keeps_modRing; assumption)
theorem keeps_enableRing {s t : State} (h : Keeps s t) (x1) : Keeps s (State.enableRing t x1) := by
  unfold State.enableRing
  with_reducible (apply keeps_modRing; assumption)
theorem keeps_regError {s t : State} (h : Keeps s t) (x1) (x2) (x3) : Keeps s (State.regError t x1 x2 x3) := by
  unfold State.regError
  with_reducible (apply keeps_cfgError; assumption)
theorem keeps_ifOpen {s t : State} (h : Keeps s t) (x1) (x2) (x3) {u : State} (k : Keeps s u) : Keeps s (State.ifOpen t x1 x2 x3 u) := by
  unfold State.ifOpen
  split
  · exact keeps_regError h ..
  · exact k
theorem keeps_writeModeCtl {s t : State} (h : Keeps s t) (x1) (x2) : Keeps s (State.writeModeCtl t x1 x2) := by
  unfold State.writeModeCtl
  repeat' first
    | with_reducible assumption | with_reducible apply keeps_ifOpen | with_reducible apply keeps_regError | with_reducible apply keeps_setMode | split
    | ((try lift_lets); intro z; refine Keeps.named (s := s) (z := z) ?_ ?_; (try subst z); rotate_left; intro hz; clear_value z)
    | ((try lift_lets); intro z; clear_value z) | (with_reducible intro; with_reducible intros; try beta_reduce) | dsimp only
theorem keeps_writeModeCap {s t : State} (h : Keeps s t) (x1) (x2) : Keeps s (State.writeModeCap t x1 x2) := by
  unfold State.writeModeCap
  repeat' first
    | with_reducible assumption | exact Nat.le_refl _ | exact Nat.le_succ _ | with_reducible apply keeps_ifOpen | with_reducible apply keeps_regError
    | (with_reducible apply Keeps.put; with_reducible assumption) | (with_reducible apply Keeps.putCtxs; with_reducible assumption)
    | (with_reducible apply Keeps.put; first | with_reducible apply keeps_ifOpen | with_reducible apply keeps_regError)
    | (intro x hx; (try dsimp only); (repeat' split) <;> exact hx) | split
    | ((try lift_lets); intro z; refine Keeps.named (s := s) (z := z) ?_ ?_; (try subst z); rotate_left; intro hz; clear_value z)
    | ((try lift_lets); intro z; (have _ : z = t.free := by subst z; rfl); subst z) | ((try lift_lets); intro z; clear_value z)
    | (with_reducible intro; with_reducible intros; try beta_reduce) | dsimp only
theorem keeps_setSel {s t : State} (h : Keeps s t) (x1) (x2) (x3) : Keeps s (State.setSel t x1 x2 x3) := by
  unfold State.setSel
  with_reducible (apply keeps_modBank; assumption)
theorem keeps_writeRingCfg {s t : State} (h : Keeps s t) (x1) (x2) : Keeps s (State.writeRingCfg t x1 x2) := by
  unfold State.writeRingCfg
  split; (dsimp +zetaDelta only; split); with_reducible (apply keeps_regError; assumption); split; split; with_reducible apply keeps_regError
  split; split; split; with_reducible (assumption; apply keeps_regError; assumption; apply keeps_regError); split
  with_reducible (assumption; apply keeps_regError; assumption); split; with_reducible apply keeps_modRing; split
  with_reducible (assumption; apply keeps_regError; assumption; apply keeps_regError; apply keeps_modRing); split
  with_reducible (assumption; apply keeps_regError; assumption); split; split; split; split
  with_reducible (assumption; apply keeps_regError; assumption; apply keeps_regError); split
  with_reducible (assumption; apply keeps_regError; assumption); split; with_reducible apply keeps_modRing; split
  with_reducible (assumption; apply keeps_regError; assumption; apply keeps_regError; apply keeps_modRing); split
  with_reducible (assumption; apply keeps_regError; assumption; apply keeps_enableRing); split; split; split
  with_reducible (assumption; apply keeps_regError; assumption; apply keeps_regError); split
  with_reducible (assumption; apply keeps_regError; assumption); split; with_reducible apply keeps_modRing; split
  with_reducible (assumption; apply keeps_regError; assumption; apply keeps_regError; apply keeps_modRing); split
  with_reducible (assumption; apply keeps_regError; assumption); split; with_reducible apply keeps_disableRing; split; split; split
  with_reducible (assumption; apply keeps_regError; assumption; apply keeps_regError); split
  with_reducible (assumption; apply keeps_regError; assumption); split; with_reducible apply keeps_modRing; split
  with_reducible (assumption; apply keeps_regError; assumption; apply keeps_regError; apply keeps_modRing); split
  with_reducible (assumption; apply keeps_regError; assumption); split; split; split
  with_reducible (assumption; apply keeps_regError; assumption; apply keeps_regError); split
  with_reducible (assumption; apply keeps_regError; assumption); split; with_reducible apply keeps_modRing; split
  with_reducible (assumption; apply keeps_regError; assumption; apply keeps_regError; apply keeps_modRing); split
  with_reducible (assumption; apply keeps_regError; assumption); (dsimp +zetaDelta only; split)
  with_reducible (apply keeps_regError; assumption); split; split; with_reducible apply keeps_regError; split; split
  with_reducible (apply keeps_modRing; assumption; apply keeps_regError; apply keeps_modRing; assumption); split
  with_reducible (apply keeps_modRing; apply keeps_modRing; assumption; apply keeps_regError; apply keeps_modRing; apply keeps_modRing; assumption)
  split; split; split; with_reducible (apply keeps_modRing; assumption; apply keeps_regError; apply keeps_modRing; assumption); split
  with_reducible (apply keeps_modRing; apply keeps_modRing; assumption; apply keeps_regError; apply keeps_modRing; apply keeps_modRing; assumption)
  with_reducible (apply keeps_enableRing); split; split
  with_reducible (apply keeps_modRing; assumption; apply keeps_regError; apply keeps_modRing; assumption); split
  with_reducible (apply keeps_modRing; apply keeps_modRing; assumption; apply keeps_regError; apply keeps_modRing; apply keeps_modRing; assumption)
  split; with_reducible apply keeps_disableRing; split; split
  with_reducible (apply keeps_modRing; assumption; apply keeps_regError; apply keeps_modRing; assumption); split
  with_reducible (apply keeps_modRing; apply keeps_modRing; assumption; apply keeps_regError; apply keeps_modRing; apply keeps_modRing; assumption)
  split; split; with_reducible (apply keeps_modRing; assumption; apply keeps_regError; apply keeps_modRing; assumption); split
  with_reducible (apply keeps_modRing; apply keeps_modRing; assumption; apply keeps_regError; apply keeps_modRing; apply keeps_modRing; assumption)
theorem keeps_writeRingMask {s t : State} (h : Keeps s t) (x1) (x2) (x3) (x4) : Keeps s (State.writeRingMask t x1 x2 x3 x4) := by
  unfold State.writeRingMask
  split; with_reducible (apply keeps_regError; assumption; apply keeps_modRing; assumption)
theorem keeps_writeRingBase {s t : State} (h : Keeps s t) (x1) (x2) (x3) : Keeps s (State.writeRingBase t x1 x2 x3) := by
  unfold State.writeRingBase
  (dsimp +zetaDelta only; split); with_reducible (apply keeps_regError; assumption); split
  with_reducible (apply keeps_regError; assumption; apply keeps_modRing; assumption)
theorem keeps_ringError {s t : State} (h : Keeps s t) (x1) (x2) : Keeps s (State.ringError t x1 x2) := by
  unfold State.ringError
  repeat' first
    | with_reducible assumption | with_reducible apply keeps_ringEvent | with_reducible apply keeps_modRing | split
    | ((try lift_lets); intro z; refine Keeps.named (s := s) (z := z) ?_ ?_; (try subst z); rotate_left; intro hz; clear_value z)
    | ((try lift_lets); intro z; clear_value z) | (with_reducible intro; with_reducible intros; try beta_reduce) | dsimp only
theorem keeps_writeCplHead {s t : State} (h : Keeps s t) (x1) (x2) : Keeps s (State.writeCplHead t x1 x2) := by
  unfold State.writeCplHead
  (dsimp +zetaDelta only; split); with_reducible (apply keeps_regError; assumption); split; with_reducible (apply keeps_modRing; assumption)
  split; with_reducible (apply keeps_ringError; assumption; assumption)
theorem keeps_writeTickCtl {s t : State} (h : Keeps s t) (x1) (x2) : Keeps s (State.writeTickCtl t x1 x2) := by
  unfold State.writeTickCtl
  repeat' first
    | with_reducible assumption | exact Nat.le_refl _ | exact Nat.le_succ _ | with_reducible apply keeps_ifOpen
    | with_reducible apply keeps_chooseMaster | with_reducible apply keeps_regError | (with_reducible apply Keeps.put; with_reducible assumption)
    | (with_reducible apply Keeps.putCtxs; with_reducible assumption)
    | (with_reducible apply Keeps.put; first | with_reducible apply keeps_ifOpen | with_reducible apply keeps_chooseMaster | with_reducible apply keeps_regError)
    | (intro x hx; (try dsimp only); (repeat' split) <;> exact hx) | split
    | ((try lift_lets); intro z; refine Keeps.named (s := s) (z := z) ?_ ?_; (try subst z); rotate_left; intro hz; clear_value z)
    | ((try lift_lets); intro z; (have _ : z = t.free := by subst z; rfl); subst z) | ((try lift_lets); intro z; clear_value z)
    | (with_reducible intro; with_reducible intros; try beta_reduce) | dsimp only
theorem keeps_writeTickAt {s t : State} (h : Keeps s t) (x1) (x2) : Keeps s (State.writeTickAt t x1 x2) := by
  unfold State.writeTickAt
  repeat' first
    | with_reducible assumption | exact Nat.le_refl _ | exact Nat.le_succ _ | with_reducible apply keeps_ifOpen | with_reducible apply keeps_regError
    | with_reducible apply keeps_announce | (with_reducible apply Keeps.put; with_reducible assumption)
    | (with_reducible apply Keeps.putCtxs; with_reducible assumption)
    | (with_reducible apply Keeps.put; first | with_reducible apply keeps_ifOpen | with_reducible apply keeps_regError | with_reducible apply keeps_announce)
    | (intro x hx; (try dsimp only); (repeat' split) <;> exact hx) | split
    | ((try lift_lets); intro z; refine Keeps.named (s := s) (z := z) ?_ ?_; (try subst z); rotate_left; intro hz; clear_value z)
    | ((try lift_lets); intro z; (have _ : z = t.free := by subst z; rfl); subst z) | ((try lift_lets); intro z; clear_value z)
    | (with_reducible intro; with_reducible intros; try beta_reduce) | dsimp only
theorem keeps_writeTickColl {s t : State} (h : Keeps s t) (x1) (x2) : Keeps s (State.writeTickColl t x1 x2) := by
  unfold State.writeTickColl
  repeat' first
    | with_reducible assumption | exact Nat.le_refl _ | exact Nat.le_succ _ | with_reducible apply keeps_ifOpen | with_reducible apply keeps_regError
    | (with_reducible apply Keeps.put; with_reducible assumption) | (with_reducible apply Keeps.putCtxs; with_reducible assumption)
    | (with_reducible apply Keeps.put; first | with_reducible apply keeps_ifOpen | with_reducible apply keeps_regError)
    | (intro x hx; (try dsimp only); (repeat' split) <;> exact hx) | split
    | ((try lift_lets); intro z; refine Keeps.named (s := s) (z := z) ?_ ?_; (try subst z); rotate_left; intro hz; clear_value z)
    | ((try lift_lets); intro z; (have _ : z = t.free := by subst z; rfl); subst z) | ((try lift_lets); intro z; clear_value z)
    | (with_reducible intro; with_reducible intros; try beta_reduce) | dsimp only
theorem keeps_writeDims {s t : State} (h : Keeps s t) (x1) (x2) : Keeps s (State.writeDims t x1 x2) := by
  unfold State.writeDims
  repeat' first
    | with_reducible assumption | exact Nat.le_refl _ | exact Nat.le_succ _ | with_reducible apply keeps_ifOpen | with_reducible apply keeps_regError
    | (with_reducible apply Keeps.put; with_reducible assumption) | (with_reducible apply Keeps.putCtxs; with_reducible assumption)
    | (with_reducible apply Keeps.put; first | with_reducible apply keeps_ifOpen | with_reducible apply keeps_regError)
    | (intro x hx; (try dsimp only); (repeat' split) <;> exact hx) | split
    | ((try lift_lets); intro z; refine Keeps.named (s := s) (z := z) ?_ ?_; (try subst z); rotate_left; intro hz; clear_value z)
    | ((try lift_lets); intro z; (have _ : z = t.free := by subst z; rfl); subst z) | ((try lift_lets); intro z; clear_value z)
    | (with_reducible intro; with_reducible intros; try beta_reduce) | dsimp only
theorem keeps_writeLinkCtl {s t : State} (h : Keeps s t) (x1) (x2) : Keeps s (State.writeLinkCtl t x1 x2) := by
  unfold State.writeLinkCtl
  repeat' first
    | with_reducible assumption | exact Nat.le_refl _ | exact Nat.le_succ _ | with_reducible apply keeps_ifOpen
    | with_reducible apply keeps_setDisable | (with_reducible apply Keeps.put; with_reducible assumption)
    | (with_reducible apply Keeps.putCtxs; with_reducible assumption)
    | (with_reducible apply Keeps.put; first | with_reducible apply keeps_ifOpen | with_reducible apply keeps_setDisable)
    | (intro x hx; (try dsimp only); (repeat' split) <;> exact hx) | split
    | ((try lift_lets); intro z; refine Keeps.named (s := s) (z := z) ?_ ?_; (try subst z); rotate_left; intro hz; clear_value z)
    | ((try lift_lets); intro z; (have _ : z = t.free := by subst z; rfl); subst z) | ((try lift_lets); intro z; clear_value z)
    | (with_reducible intro; with_reducible intros; try beta_reduce) | dsimp only
theorem keeps_writeLend {s t : State} (h : Keeps s t) (x1) (x2) : Keeps s (State.writeLend t x1 x2) := by
  unfold State.writeLend
  repeat' first
    | with_reducible assumption | with_reducible apply keeps_ifOpen | with_reducible apply keeps_modMem | with_reducible apply keeps_askFrames | split
    | ((try lift_lets); intro z; refine Keeps.named (s := s) (z := z) ?_ ?_; (try subst z); rotate_left; intro hz; clear_value z)
    | ((try lift_lets); intro z; clear_value z) | (with_reducible intro; with_reducible intros; try beta_reduce) | dsimp only
theorem keeps_writeShare {s t : State} (h : Keeps s t) (x1) (x2) : Keeps s (State.writeShare t x1 x2) := by
  unfold State.writeShare
  (dsimp +zetaDelta only; split); with_reducible assumption; split; with_reducible (apply keeps_modCtx; assumption)
  (with_reducible intro; with_reducible intros; try beta_reduce; try lift_lets); with_reducible (assumption; apply keeps_regError; assumption)
theorem keeps_writePre {s t : State} (h : Keeps s t) (x1) (x2) : Keeps s (State.writePre t x1 x2) := by
  unfold State.writePre
  repeat' first
    | with_reducible assumption | with_reducible apply keeps_ifOpen | with_reducible apply keeps_modSched | with_reducible apply keeps_regError
    | split | ((try lift_lets); intro z; refine Keeps.named (s := s) (z := z) ?_ ?_; (try subst z); rotate_left; intro hz; clear_value z)
    | ((try lift_lets); intro z; clear_value z) | (with_reducible intro; with_reducible intros; try beta_reduce) | dsimp only
theorem keeps_notHost {s t : State} (h : Keeps s t) (x1) (x2) {u : State} (k : Keeps s u) : Keeps s (State.notHost t x1 x2 u) := by
  unfold State.notHost
  split
  · exact keeps_regError h ..
  · exact k
theorem keeps_writeLayout {s t : State} (h : Keeps s t) (x1) (x2) : Keeps s (State.writeLayout t x1 x2) := by
  unfold State.writeLayout
  repeat' first
    | with_reducible assumption | exact Nat.le_refl _ | exact Nat.le_succ _ | with_reducible apply keeps_ifOpen
    | (with_reducible apply Keeps.put; with_reducible assumption) | (with_reducible apply Keeps.putCtxs; with_reducible assumption)
    | (with_reducible apply Keeps.put; first | with_reducible apply keeps_ifOpen) | (intro x hx; (try dsimp only); (repeat' split) <;> exact hx)
    | split | ((try lift_lets); intro z; refine Keeps.named (s := s) (z := z) ?_ ?_; (try subst z); rotate_left; intro hz; clear_value z)
    | ((try lift_lets); intro z; (have _ : z = t.free := by subst z; rfl); subst z) | ((try lift_lets); intro z; clear_value z)
    | (with_reducible intro; with_reducible intros; try beta_reduce) | dsimp only
theorem keeps_writeMirCtl {s t : State} (h : Keeps s t) (x1) (x2) : Keeps s (State.writeMirCtl t x1 x2) := by
  unfold State.writeMirCtl
  repeat' first
    | with_reducible assumption | exact Nat.le_refl _ | exact Nat.le_succ _ | with_reducible apply keeps_ifOpen | with_reducible apply keeps_regError
    | (with_reducible apply Keeps.put; with_reducible assumption) | (with_reducible apply Keeps.putCtxs; with_reducible assumption)
    | (with_reducible apply Keeps.put; first | with_reducible apply keeps_ifOpen | with_reducible apply keeps_regError)
    | (intro x hx; (try dsimp only); (repeat' split) <;> exact hx) | split
    | ((try lift_lets); intro z; refine Keeps.named (s := s) (z := z) ?_ ?_; (try subst z); rotate_left; intro hz; clear_value z)
    | ((try lift_lets); intro z; (have _ : z = t.free := by subst z; rfl); subst z) | ((try lift_lets); intro z; clear_value z)
    | (with_reducible intro; with_reducible intros; try beta_reduce) | dsimp only
theorem keeps_writeEvtCfg {s t : State} (h : Keeps s t) (x1) (x2) : Keeps s (State.writeEvtCfg t x1 x2) := by
  unfold State.writeEvtCfg
  (dsimp +zetaDelta only; split); with_reducible (apply keeps_modRas; assumption; apply keeps_regError; apply keeps_modRas; assumption)
theorem keeps_writeTb {s t : State} (h : Keeps s t) (x1) (x2) : Keeps s (State.writeTb t x1 x2) := by
  unfold State.writeTb
  repeat' first
    | with_reducible assumption | with_reducible apply keeps_ifOpen | with_reducible apply keeps_modRas | with_reducible apply keeps_regError | split
    | ((try lift_lets); intro z; refine Keeps.named (s := s) (z := z) ?_ ?_; (try subst z); rotate_left; intro hz; clear_value z)
    | ((try lift_lets); intro z; clear_value z) | (with_reducible intro; with_reducible intros; try beta_reduce) | dsimp only
theorem keeps_writeInj {s t : State} (h : Keeps s t) (x1) (x2) : Keeps s (State.writeInj t x1 x2) := by
  unfold State.writeInj
  repeat' first
    | with_reducible assumption | with_reducible apply keeps_ifOpen | with_reducible apply keeps_regError | with_reducible apply keeps_modRas | split
    | ((try lift_lets); intro z; refine Keeps.named (s := s) (z := z) ?_ ?_; (try subst z); rotate_left; intro hz; clear_value z)
    | ((try lift_lets); intro z; clear_value z) | (with_reducible intro; with_reducible intros; try beta_reduce) | dsimp only
theorem keeps_modPortOf {s t : State} (h : Keeps s t) (x1) (x2) : Keeps s (State.modPortOf t x1 x2) := by
  unfold State.modPortOf
  lift_lets; (with_reducible intro; with_reducible intros; try beta_reduce; try lift_lets)
  with_reducible (apply Keeps.put; assumption; exact Nat.le_refl _)
theorem keeps_writeDoorbell {s t : State} (h : Keeps s t) (x1) (x2) (x3) : Keeps s (State.writeDoorbell t x1 x2 x3) := by
  unfold State.writeDoorbell
  (dsimp +zetaDelta only; split); with_reducible (apply keeps_regError; assumption); split; with_reducible assumption; split
  with_reducible (apply keeps_modRing; assumption; apply keeps_ringError; assumption)
theorem keeps_writeReg {s t : State} (h : Keeps s t) (x1) (x2) (x3) : Keeps s (State.writeReg t x1 x2 x3) := by
  unfold State.writeReg
  repeat' first
    | with_reducible assumption | with_reducible apply keeps_regError | with_reducible apply keeps_requestVigil
    | with_reducible apply keeps_releaseVigil | with_reducible apply keeps_writeModeCtl | with_reducible apply keeps_writeModeCap
    | with_reducible apply keeps_setSel | with_reducible apply keeps_writeRingCfg | with_reducible apply keeps_writeRingMask
    | with_reducible apply keeps_writeRingBase | with_reducible apply keeps_writeCplHead | with_reducible apply keeps_kick
    | with_reducible apply keeps_writeTickCtl | with_reducible apply keeps_writeTickAt | with_reducible apply keeps_writeTickColl
    | with_reducible apply keeps_writeDims | with_reducible apply keeps_writeLinkCtl | with_reducible apply keeps_writeLend
    | with_reducible apply keeps_modMem | with_reducible apply keeps_writeShare | with_reducible apply keeps_writePre
    | with_reducible apply keeps_notHost | with_reducible apply keeps_modPv | with_reducible apply keeps_writeLayout
    | with_reducible apply keeps_writeMirCtl | with_reducible apply keeps_clearCfgErr | with_reducible apply keeps_clearNan
    | with_reducible apply keeps_ifOpen | with_reducible apply keeps_modRas | with_reducible apply keeps_writeEvtCfg
    | with_reducible apply keeps_writeTb | with_reducible apply keeps_writeInj | with_reducible apply keeps_modPortOf
    | with_reducible apply keeps_writeDoorbell | split
    | ((try lift_lets); intro z; refine Keeps.named (s := s) (z := z) ?_ ?_; (try subst z); rotate_left; intro hz; clear_value z)
    | ((try lift_lets); intro z; clear_value z) | (with_reducible intro; with_reducible intros; try beta_reduce) | dsimp only
theorem keeps_writeAt {s t : State} (h : Keeps s t) (x1) (x2) (x3) : Keeps s (State.writeAt t x1 x2 x3) := by
  unfold State.writeAt
  split; with_reducible assumption; split; with_reducible (apply keeps_writeReg; assumption; assumption)
theorem keeps_writeNamed {s t : State} (h : Keeps s t) (x1) (x2) (x3) : Keeps s (State.writeNamed t x1 x2 x3) := by
  unfold State.writeNamed
  with_reducible (apply keeps_writeAt; assumption)

/-! ### RegRows -/

theorem keeps_ringClosed {s t : State} (h : Keeps s t) (x1) : Keeps s (State.ringClosed t x1) := by
  unfold State.ringClosed
  split; with_reducible assumption; split; lift_lets; (with_reducible intro; with_reducible intros; try beta_reduce; try lift_lets)
  with_reducible (apply Keeps.put; apply keeps_modRing; assumption; exact Nat.le_refl _; assumption)
theorem keeps_packetAdmit {s t : State} (h : Keeps s t) (x1) (x2) : Keeps s (State.packetAdmit t x1 x2) := by
  unfold State.packetAdmit
  split; (dsimp +zetaDelta only; split); with_reducible assumption; split; with_reducible (apply keeps_ringError; assumption; assumption)
  split; (dsimp +zetaDelta only; split); with_reducible (assumption; apply keeps_served; apply keeps_packet; assumption)
theorem keeps_execDoorbell {s t : State} (h : Keeps s t) (x1) (x2) (x3) : KeepsX s (execDoorbell x1 x2 x3 t) := by
  unfold execDoorbell
  repeat' first
    | with_reducible assumption | exact KeepsX.refused | exact KeepsX.fault | with_reducible apply KeepsX.next | with_reducible apply keeps_writeNamed
    | split | ((try lift_lets); intro z; refine Keeps.named (s := s) (z := z) ?_ ?_; (try subst z); rotate_left; intro hz; clear_value z)
    | ((try lift_lets); intro z; clear_value z) | (with_reducible intro; with_reducible intros; try beta_reduce) | dsimp only
theorem keeps_execPacketAdmit {s t : State} (h : Keeps s t) (x1) (x2) : KeepsX s (execPacketAdmit x1 x2 t) := by
  unfold execPacketAdmit
  repeat' first
    | with_reducible assumption | exact KeepsX.refused | exact KeepsX.fault | with_reducible apply KeepsX.next
    | with_reducible apply keeps_packetAdmit | split
    | ((try lift_lets); intro z; refine Keeps.named (s := s) (z := z) ?_ ?_; (try subst z); rotate_left; intro hz; clear_value z)
    | ((try lift_lets); intro z; clear_value z) | (with_reducible intro; with_reducible intros; try beta_reduce) | dsimp only
theorem keeps_execRingEnable {s t : State} (h : Keeps s t) (x1) (x2) : KeepsX s (execRingEnable x1 x2 t) := by
  unfold execRingEnable
  repeat' first
    | with_reducible assumption | exact KeepsX.refused | exact KeepsX.fault | with_reducible apply KeepsX.next | with_reducible apply keeps_writeNamed
    | split | ((try lift_lets); intro z; refine Keeps.named (s := s) (z := z) ?_ ?_; (try subst z); rotate_left; intro hz; clear_value z)
    | ((try lift_lets); intro z; clear_value z) | (with_reducible intro; with_reducible intros; try beta_reduce) | dsimp only
theorem keeps_execRingDisable {s t : State} (h : Keeps s t) (x1) (x2) : KeepsX s (execRingDisable x1 x2 t) := by
  unfold execRingDisable
  repeat' first
    | with_reducible assumption | exact KeepsX.refused | exact KeepsX.fault | with_reducible apply KeepsX.next | with_reducible apply keeps_writeNamed
    | split | ((try lift_lets); intro z; refine Keeps.named (s := s) (z := z) ?_ ?_; (try subst z); rotate_left; intro hz; clear_value z)
    | ((try lift_lets); intro z; clear_value z) | (with_reducible intro; with_reducible intros; try beta_reduce) | dsimp only
theorem keeps_execRingClosed {s t : State} (h : Keeps s t) (x1) : KeepsX s (execRingClosed x1 t) := by
  unfold execRingClosed
  repeat' first
    | with_reducible assumption | exact KeepsX.refused | exact KeepsX.fault | with_reducible apply KeepsX.next | with_reducible apply keeps_ringClosed
    | split | ((try lift_lets); intro z; refine Keeps.named (s := s) (z := z) ?_ ?_; (try subst z); rotate_left; intro hz; clear_value z)
    | ((try lift_lets); intro z; clear_value z) | (with_reducible intro; with_reducible intros; try beta_reduce) | dsimp only
theorem keeps_execCplHeadWrite {s t : State} (h : Keeps s t) (x1) (x2) : KeepsX s (execCplHeadWrite x1 x2 t) := by
  unfold execCplHeadWrite
  repeat' first
    | with_reducible assumption | exact KeepsX.refused | exact KeepsX.fault | with_reducible apply KeepsX.next | with_reducible apply keeps_writeNamed
    | split | ((try lift_lets); intro z; refine Keeps.named (s := s) (z := z) ?_ ?_; (try subst z); rotate_left; intro hz; clear_value z)
    | ((try lift_lets); intro z; clear_value z) | (with_reducible intro; with_reducible intros; try beta_reduce) | dsimp only
theorem keeps_execLendPoolWrite {s t : State} (h : Keeps s t) (x1) (x2) : KeepsX s (execLendPoolWrite x1 x2 t) := by
  unfold execLendPoolWrite
  repeat' first
    | with_reducible assumption | exact KeepsX.refused | exact KeepsX.fault | with_reducible apply KeepsX.next | with_reducible apply keeps_writeNamed
    | split | ((try lift_lets); intro z; refine Keeps.named (s := s) (z := z) ?_ ?_; (try subst z); rotate_left; intro hz; clear_value z)
    | ((try lift_lets); intro z; clear_value z) | (with_reducible intro; with_reducible intros; try beta_reduce) | dsimp only
theorem keeps_execFabLinkDisable {s t : State} (h : Keeps s t) (x1) (x2) : KeepsX s (execFabLinkDisable x1 x2 t) := by
  unfold execFabLinkDisable
  repeat' first
    | with_reducible assumption | exact KeepsX.refused | exact KeepsX.fault | with_reducible apply KeepsX.next | with_reducible apply keeps_writeNamed
    | split | ((try lift_lets); intro z; refine Keeps.named (s := s) (z := z) ?_ ?_; (try subst z); rotate_left; intro hz; clear_value z)
    | ((try lift_lets); intro z; clear_value z) | (with_reducible intro; with_reducible intros; try beta_reduce) | dsimp only
theorem keeps_execModeCtlWrite {s t : State} (h : Keeps s t) (x1) (x2) : KeepsX s (execModeCtlWrite x1 x2 t) := by
  unfold execModeCtlWrite
  repeat' first
    | with_reducible assumption | exact KeepsX.refused | exact KeepsX.fault | with_reducible apply KeepsX.next | with_reducible apply keeps_writeNamed
    | split | ((try lift_lets); intro z; refine Keeps.named (s := s) (z := z) ?_ ?_; (try subst z); rotate_left; intro hz; clear_value z)
    | ((try lift_lets); intro z; clear_value z) | (with_reducible intro; with_reducible intros; try beta_reduce) | dsimp only
theorem keeps_execTickAtWrite {s t : State} (h : Keeps s t) (x1) (x2) : KeepsX s (execTickAtWrite x1 x2 t) := by
  unfold execTickAtWrite
  repeat' first
    | with_reducible assumption | exact KeepsX.refused | exact KeepsX.fault | with_reducible apply KeepsX.next | with_reducible apply keeps_writeNamed
    | split | ((try lift_lets); intro z; refine Keeps.named (s := s) (z := z) ?_ ?_; (try subst z); rotate_left; intro hz; clear_value z)
    | ((try lift_lets); intro z; clear_value z) | (with_reducible intro; with_reducible intros; try beta_reduce) | dsimp only
theorem keeps_execNanRecordClear {s t : State} (h : Keeps s t) (x1) (x2) : KeepsX s (execNanRecordClear x1 x2 t) := by
  unfold execNanRecordClear
  repeat' first
    | with_reducible assumption | exact KeepsX.refused | exact KeepsX.fault | with_reducible apply KeepsX.next | with_reducible apply keeps_writeNamed
    | split | ((try lift_lets); intro z; refine Keeps.named (s := s) (z := z) ?_ ?_; (try subst z); rotate_left; intro hz; clear_value z)
    | ((try lift_lets); intro z; clear_value z) | (with_reducible intro; with_reducible intros; try beta_reduce) | dsimp only
theorem keeps_execConfigErrorClear {s t : State} (h : Keeps s t) (x1) (x2) : KeepsX s (execConfigErrorClear x1 x2 t) := by
  unfold execConfigErrorClear
  repeat' first
    | with_reducible assumption | exact KeepsX.refused | exact KeepsX.fault | with_reducible apply KeepsX.next | with_reducible apply keeps_writeNamed
    | split | ((try lift_lets); intro z; refine Keeps.named (s := s) (z := z) ?_ ?_; (try subst z); rotate_left; intro hz; clear_value z)
    | ((try lift_lets); intro z; clear_value z) | (with_reducible intro; with_reducible intros; try beta_reduce) | dsimp only
theorem keeps_execTickTimeRead {s t : State} (h : Keeps s t) (x1) : KeepsX s (execTickTimeRead x1 t) := by
  unfold execTickTimeRead
  repeat' first
    | with_reducible assumption | exact KeepsX.refused | exact KeepsX.fault | with_reducible apply KeepsQ.mk | with_reducible apply KeepsX.next
    | (with_reducible apply KeepsQ.snd; with_reducible apply keeps_readAt) | with_reducible apply keeps_readAt | split
    | ((try lift_lets); intro z; refine Keeps.named (s := s) (z := z) ?_ ?_; (try subst z); rotate_left; intro hz; clear_value z)
    | ((try lift_lets); intro z; clear_value z) | (with_reducible intro; with_reducible intros; try beta_reduce)
    | (refine KeepsQ.elim (by with_reducible assumption) ?_) | dsimp only
theorem keeps_execRcFieldRead {s t : State} (h : Keeps s t) (x1) (x2) : KeepsX s (execRcFieldRead x1 x2 t) := by
  unfold execRcFieldRead
  repeat' first
    | with_reducible assumption | exact KeepsX.refused | exact KeepsX.fault | with_reducible apply KeepsQ.mk | with_reducible apply KeepsX.next
    | (with_reducible apply KeepsQ.snd; with_reducible apply keeps_readAt) | with_reducible apply keeps_readAt | split
    | ((try lift_lets); intro z; refine Keeps.named (s := s) (z := z) ?_ ?_; (try subst z); rotate_left; intro hz; clear_value z)
    | ((try lift_lets); intro z; clear_value z) | (with_reducible intro; with_reducible intros; try beta_reduce)
    | (refine KeepsQ.elim (by with_reducible assumption) ?_) | dsimp only
theorem keeps_execRegisterWrite {s t : State} (h : Keeps s t) (x1) (x2) (x3) : KeepsX s (execRegisterWrite x1 x2 x3 t) := by
  unfold execRegisterWrite
  repeat' first
    | with_reducible assumption | exact KeepsX.refused | exact KeepsX.fault | with_reducible apply KeepsX.next | with_reducible apply keeps_writeAt
    | split | ((try lift_lets); intro z; refine Keeps.named (s := s) (z := z) ?_ ?_; (try subst z); rotate_left; intro hz; clear_value z)
    | ((try lift_lets); intro z; clear_value z) | (with_reducible intro; with_reducible intros; try beta_reduce) | dsimp only

/-! ### HostLink -/

theorem keeps_endHostTransfers {s t : State} (h : Keeps s t)  : Keeps s (State.endHostTransfers t) := by
  unfold State.endHostTransfers
  with_reducible (apply Keeps.foldl; assumption); (with_reducible intro; with_reducible intros; try beta_reduce; try lift_lets); split
  with_reducible (apply keeps_failDma; assumption; assumption)
theorem keeps_hostLoss {s t : State} (h : Keeps s t)  : Keeps s (State.hostLoss t) := by
  unfold State.hostLoss
  with_reducible (apply keeps_endHostTransfers; apply Keeps.foldl); lift_lets
  (with_reducible intro; with_reducible intros; try beta_reduce; try lift_lets)
  with_reducible (apply Keeps.put; assumption; exact Nat.le_refl _)
  (with_reducible intro; with_reducible intros; try beta_reduce; try lift_lets); split
  with_reducible (apply keeps_modRing; assumption; assumption)
theorem keeps_functionReset {s t : State} (h : Keeps s t)  : Keeps s (State.functionReset t) := by
  unfold State.functionReset
  exact Keeps.foldl ((keeps_hostLoss h).put (Nat.le_refl _)) fun a x ha => keeps_ringClosed ha ..
theorem keeps_pcieError {s t : State} (h : Keeps s t) (x1) (x2) (x3) : Keeps s (State.pcieError t x1 x2 x3) := by
  unfold State.pcieError
  extract_lets s1 cls unit s2
  have h2 : Keeps s s2 := keeps_raiseOpen ((keeps_count h ..).put (Nat.le_succ _)) ..
  split
  · split
    · exact keeps_ringError h2 ..
    · exact h2
  · exact h2
theorem keeps_execPerstN {s t : State} (h : Keeps s t)  : KeepsX s (execPerstN t) := by
  unfold execPerstN
  with_reducible apply KeepsX.next; split; with_reducible (apply keeps_hostLoss; assumption; assumption)
theorem keeps_execPcieLinkLoss {s t : State} (h : Keeps s t)  : KeepsX s (execPcieLinkLoss t) := by
  unfold execPcieLinkLoss
  with_reducible apply KeepsX.next; split; with_reducible (apply keeps_hostLoss; assumption; assumption)
theorem keeps_execFunctionLevelReset {s t : State} (h : Keeps s t)  : KeepsX s (execFunctionLevelReset t) := by
  unfold execFunctionLevelReset
  with_reducible apply KeepsX.next; split; with_reducible (apply keeps_functionReset; assumption; assumption)
theorem keeps_execPcieAerError {s t : State} (h : Keeps s t) (x1) (x2) (x3) : KeepsX s (execPcieAerError x1 x2 x3 t) := by
  unfold execPcieAerError
  repeat' first
    | with_reducible assumption | exact KeepsX.refused | exact KeepsX.fault | with_reducible apply KeepsX.next | with_reducible apply keeps_pcieError
    | split | ((try lift_lets); intro z; refine Keeps.named (s := s) (z := z) ?_ ?_; (try subst z); rotate_left; intro hz; clear_value z)
    | ((try lift_lets); intro z; clear_value z) | (with_reducible intro; with_reducible intros; try beta_reduce) | dsimp only
theorem keeps_execPcieLinkUp {s t : State} (h : Keeps s t) (x1) (x2) (x3) : KeepsX s (execPcieLinkUp x1 x2 x3 t) := by
  unfold execPcieLinkUp
  repeat' first
    | with_reducible assumption | exact Nat.le_refl _ | exact Nat.le_succ _ | exact KeepsX.refused | exact KeepsX.fault
    | with_reducible apply KeepsX.next | (with_reducible apply Keeps.put; with_reducible assumption)
    | (with_reducible apply Keeps.putCtxs; with_reducible assumption) | (intro x hx; (try dsimp only); (repeat' split) <;> exact hx) | split
    | ((try lift_lets); intro z; refine Keeps.named (s := s) (z := z) ?_ ?_; (try subst z); rotate_left; intro hz; clear_value z)
    | ((try lift_lets); intro z; (have _ : z = t.free := by subst z; rfl); subst z) | ((try lift_lets); intro z; clear_value z)
    | (with_reducible intro; with_reducible intros; try beta_reduce) | dsimp only

/-! ### ServeRows -/

theorem keeps_cancelReq {s t : State} (h : Keeps s t) (x1) : Keeps s (State.cancelReq t x1) := by
  unfold State.cancelReq
  split; lift_lets; (with_reducible intro; with_reducible intros; try beta_reduce; try lift_lets)
  with_reducible (apply Keeps.put; assumption; exact Nat.le_refl _; assumption; apply keeps_modReq; assumption)
theorem keeps_dropSession {s t : State} (h : Keeps s t) (x1) (x2) : Keeps s (State.dropSession t x1 x2) := by
  unfold State.dropSession
  repeat' first
    | with_reducible assumption | exact Nat.le_refl _ | exact Nat.le_succ _ | with_reducible apply KeepsP.mk
    | (with_reducible apply KeepsP.fst; with_reducible apply keeps_loopSend) | with_reducible apply keeps_loopSend
    | (with_reducible apply Keeps.put; with_reducible assumption) | (with_reducible apply Keeps.putCtxs; with_reducible assumption)
    | (with_reducible apply Keeps.put; first | (with_reducible apply KeepsP.fst; with_reducible apply keeps_loopSend) | with_reducible apply keeps_loopSend)
    | (intro x hx; (try dsimp only); (repeat' split) <;> exact hx) | split
    | ((try lift_lets); intro z; refine Keeps.named (s := s) (z := z) ?_ ?_; (try subst z); rotate_left; intro hz; clear_value z)
    | ((try lift_lets); intro z; refine KeepsP.named (s := s) (z := z) ?_ ?_; (try subst z); rotate_left; intro hz; clear_value z)
    | (with_reducible apply KeepsP.fst; with_reducible apply KeepsP.mk) | (with_reducible apply KeepsP.fst; with_reducible assumption)
    | ((try lift_lets); intro z; (have _ : z = t.free := by subst z; rfl); subst z) | ((try lift_lets); intro z; clear_value z)
    | (with_reducible intro; with_reducible intros; try beta_reduce) | (refine KeepsP.elim (by with_reducible assumption) ?_) | dsimp only
theorem keeps_closeSession {s t : State} (h : Keeps s t) (x1) (x2) : Keeps s (State.closeSession t x1 x2) := by
  unfold State.closeSession
  (dsimp +zetaDelta only; split); with_reducible (apply Keeps.foldl; assumption)
  (with_reducible intro; with_reducible intros; try beta_reduce; try lift_lets); with_reducible (apply keeps_cancelReq; assumption); split
  with_reducible (apply Keeps.put; apply Keeps.foldl; assumption)
  (with_reducible intro; with_reducible intros; try beta_reduce; try lift_lets)
  with_reducible (apply keeps_cancelReq; assumption; exact Nat.le_refl _; apply keeps_dropSession; apply Keeps.foldl; assumption)
  (with_reducible intro; with_reducible intros; try beta_reduce; try lift_lets); with_reducible (apply keeps_cancelReq; assumption)
theorem keeps_takeAck {s t : State} (h : Keeps s t) (x1) (x2) : Keeps s (State.takeAck t x1 x2) := by
  unfold State.takeAck
  with_reducible (apply keeps_modReq; assumption)
theorem keeps_deushRequest {s t : State} (h : Keeps s t) (x1) : Keeps s (State.deushRequest t x1) := by
  unfold State.deushRequest
  split; with_reducible assumption; split; split
  with_reducible (apply keeps_sendDeush; apply keeps_takeAck; assumption; apply keeps_takeAck; assumption); split
  (dsimp +zetaDelta only; split); with_reducible apply keeps_reject; lift_lets
  with_reducible (apply Keeps.put; assumption; exact Nat.le_refl _; apply keeps_reject); lift_lets
  with_reducible (apply Keeps.put; assumption; exact Nat.le_refl _); (dsimp +zetaDelta only; split); with_reducible apply keeps_reject
  lift_lets; with_reducible (apply Keeps.put; assumption; exact Nat.le_refl _); split; with_reducible apply keeps_reject; lift_lets
  with_reducible (apply Keeps.put; assumption; exact Nat.le_refl _); split; with_reducible apply keeps_admitReq; lift_lets
  with_reducible (apply Keeps.put; assumption; exact Nat.le_refl _; apply Keeps.put; assumption; exact Nat.le_refl _)
theorem keeps_frameReceive {s t : State} (h : Keeps s t) (x1) (x2) : Keeps s (State.frameReceive t x1 x2) := by
  unfold State.frameReceive
  dsimp only
  repeat' first
    | with_reducible assumption | with_reducible apply keeps_count | with_reducible apply keeps_queueMoved
    | with_reducible apply keeps_queuePush | with_reducible exact KeepsO.getD (KeepsO.mapVal (keeps_genDrop h)) h | split
theorem keeps_modPort {s t : State} (h : Keeps s t) (x1) (x2) : Keeps s (State.modPort t x1 x2) := by
  unfold State.modPort
  lift_lets; (with_reducible intro; with_reducible intros; try beta_reduce; try lift_lets)
  with_reducible (apply Keeps.put; assumption; exact Nat.le_refl _)
theorem keeps_requestMore {s t : State} (h : Keeps s t) (x1) (x2) (x3) (x4) : Keeps s (State.requestMore t x1 x2 x3 x4) := by
  unfold State.requestMore
  (dsimp +zetaDelta only; split); split; with_reducible (apply keeps_reject; apply keeps_takeAck; assumption); split
  with_reducible (apply keeps_admitReq; apply keeps_modReq; apply keeps_takeAck; assumption; apply keeps_modReq; apply keeps_takeAck; assumption)
  with_reducible (apply keeps_takeAck; assumption)
theorem keeps_resend {s t : State} (h : Keeps s t) (x1) (x2) : Keeps s (State.resend t x1 x2) := by
  unfold State.resend
  split; with_reducible assumption; split; with_reducible (apply keeps_modReq; apply keeps_sendDeush; assumption); split
  with_reducible (apply keeps_modReq; assumption; apply keeps_modReq; assumption)
theorem keeps_transmitRecord {s t : State} (h : Keeps s t) (x1) : Keeps s (State.transmitRecord t x1) := by
  unfold State.transmitRecord
  repeat' first
    | with_reducible assumption | with_reducible apply keeps_queueMoved | with_reducible apply keeps_count | with_reducible apply keeps_queueTake
    | with_reducible apply keeps_modPort | split
    | ((try lift_lets); intro z; refine Keeps.named (s := s) (z := z) ?_ ?_; (try subst z); rotate_left; intro hz; clear_value z)
    | ((try lift_lets); intro z; clear_value z) | (with_reducible intro; with_reducible intros; try beta_reduce) | dsimp only
theorem keeps_execFrameReceive {s t : State} (h : Keeps s t) (x1) (x2) : KeepsX s (execFrameReceive x1 x2 t) := by
  unfold execFrameReceive
  repeat' first
    | with_reducible assumption | exact KeepsX.refused | exact KeepsX.fault | with_reducible apply KeepsX.next
    | with_reducible apply keeps_frameReceive | split
    | ((try lift_lets); intro z; refine Keeps.named (s := s) (z := z) ?_ ?_; (try subst z); rotate_left; intro hz; clear_value z)
    | ((try lift_lets); intro z; clear_value z) | (with_reducible intro; with_reducible intros; try beta_reduce) | dsimp only
theorem keeps_execEapolMka {s t : State} (h : Keeps s t) (x1) (x2) (x3) : KeepsX s (execEapolMka x1 x2 x3 t) := by
  unfold execEapolMka
  repeat' first
    | with_reducible assumption | exact KeepsX.refused | exact KeepsX.fault | with_reducible apply KeepsX.next | with_reducible apply keeps_modPort
    | split | ((try lift_lets); intro z; refine Keeps.named (s := s) (z := z) ?_ ?_; (try subst z); rotate_left; intro hz; clear_value z)
    | ((try lift_lets); intro z; clear_value z) | (with_reducible intro; with_reducible intros; try beta_reduce) | dsimp only
theorem keeps_execNeighborSolicitation {s t : State} (h : Keeps s t) (x1) (x2) (x3) (x4) (x5) : KeepsX s (execNeighborSolicitation x1 x2 x3 x4 x5 t) := by
  unfold execNeighborSolicitation
  repeat' first
    | with_reducible assumption | exact KeepsX.refused | exact KeepsX.fault | with_reducible apply KeepsX.next | with_reducible apply keeps_count
    | with_reducible apply keeps_modPort | split
    | ((try lift_lets); intro z; refine Keeps.named (s := s) (z := z) ?_ ?_; (try subst z); rotate_left; intro hz; clear_value z)
    | ((try lift_lets); intro z; clear_value z) | (with_reducible intro; with_reducible intros; try beta_reduce) | dsimp only
theorem keeps_execEchoRequest {s t : State} (h : Keeps s t) (x1) (x2) (x3) (x4) (x5) : KeepsX s (execEchoRequest x1 x2 x3 x4 x5 t) := by
  unfold execEchoRequest
  repeat' first
    | with_reducible assumption | exact KeepsX.refused | exact KeepsX.fault | with_reducible apply KeepsX.next | with_reducible apply keeps_count
    | with_reducible apply keeps_modPort | split
    | ((try lift_lets); intro z; refine Keeps.named (s := s) (z := z) ?_ ?_; (try subst z); rotate_left; intro hz; clear_value z)
    | ((try lift_lets); intro z; clear_value z) | (with_reducible intro; with_reducible intros; try beta_reduce) | dsimp only
theorem keeps_execTransmitRecord {s t : State} (h : Keeps s t) (x1) : KeepsX s (execTransmitRecord x1 t) := by
  unfold execTransmitRecord
  repeat' first
    | with_reducible assumption | exact KeepsX.refused | exact KeepsX.fault | with_reducible apply KeepsX.next
    | with_reducible apply keeps_transmitRecord | split
    | ((try lift_lets); intro z; refine Keeps.named (s := s) (z := z) ?_ ?_; (try subst z); rotate_left; intro hz; clear_value z)
    | ((try lift_lets); intro z; clear_value z) | (with_reducible intro; with_reducible intros; try beta_reduce) | dsimp only
theorem keeps_execDeushRequest {s t : State} (h : Keeps s t) (x1) : KeepsX s (execDeushRequest x1 t) := by
  unfold execDeushRequest
  repeat' first
    | with_reducible assumption | exact KeepsX.refused | exact KeepsX.fault | with_reducible apply KeepsX.next | with_reducible apply keeps_served
    | with_reducible apply keeps_deushRequest | split
    | ((try lift_lets); intro z; refine Keeps.named (s := s) (z := z) ?_ ?_; (try subst z); rotate_left; intro hz; clear_value z)
    | ((try lift_lets); intro z; clear_value z) | (with_reducible intro; with_reducible intros; try beta_reduce) | dsimp only
theorem keeps_execDeushRequestMore {s t : State} (h : Keeps s t) (x1) (x2) (x3) (x4) (x5) (x6) : KeepsX s (execDeushRequestMore x1 x2 x3 x4 x5 x6 t) := by
  unfold execDeushRequestMore
  repeat' first
    | with_reducible assumption | exact KeepsX.refused | exact KeepsX.fault | with_reducible apply KeepsX.next | with_reducible apply keeps_served
    | with_reducible apply keeps_requestMore | split
    | ((try lift_lets); intro z; refine Keeps.named (s := s) (z := z) ?_ ?_; (try subst z); rotate_left; intro hz; clear_value z)
    | ((try lift_lets); intro z; clear_value z) | (with_reducible intro; with_reducible intros; try beta_reduce) | dsimp only
theorem keeps_execDeushCancel {s t : State} (h : Keeps s t) (x1) (x2) (x3) (x4) : KeepsX s (execDeushCancel x1 x2 x3 x4 t) := by
  unfold execDeushCancel
  repeat' first
    | with_reducible assumption | exact KeepsX.refused | exact KeepsX.fault | with_reducible apply KeepsX.next | with_reducible apply keeps_served
    | with_reducible apply keeps_cancelReq | with_reducible apply keeps_takeAck | split
    | ((try lift_lets); intro z; refine Keeps.named (s := s) (z := z) ?_ ?_; (try subst z); rotate_left; intro hz; clear_value z)
    | ((try lift_lets); intro z; clear_value z) | (with_reducible intro; with_reducible intros; try beta_reduce) | dsimp only
theorem keeps_execDeushAck {s t : State} (h : Keeps s t) (x1) (x2) (x3) (x4) : KeepsX s (execDeushAck x1 x2 x3 x4 t) := by
  unfold execDeushAck
  repeat' first
    | with_reducible assumption | exact KeepsX.refused | exact KeepsX.fault | with_reducible apply KeepsX.next | with_reducible apply keeps_served
    | with_reducible apply keeps_takeAck | split
    | ((try lift_lets); intro z; refine Keeps.named (s := s) (z := z) ?_ ?_; (try subst z); rotate_left; intro hz; clear_value z)
    | ((try lift_lets); intro z; clear_value z) | (with_reducible intro; with_reducible intros; try beta_reduce) | dsimp only
theorem keeps_execDeushClose {s t : State} (h : Keeps s t) (x1) (x2) (x3) : KeepsX s (execDeushClose x1 x2 x3 t) := by
  unfold execDeushClose
  repeat' first
    | with_reducible assumption | exact KeepsX.refused | exact KeepsX.fault | with_reducible apply KeepsX.next | with_reducible apply keeps_takeAck
    | with_reducible apply keeps_served | with_reducible apply keeps_closeSession | with_reducible apply Keeps.foldl
    | with_reducible apply KeepsP.foldl | (with_reducible apply KeepsP.fst; with_reducible apply KeepsP.foldl) | split
    | ((try lift_lets); intro z; refine Keeps.named (s := s) (z := z) ?_ ?_; (try subst z); rotate_left; intro hz; clear_value z)
    | ((try lift_lets); intro z; clear_value z) | (with_reducible intro; with_reducible intros; try beta_reduce) | dsimp only
theorem keeps_execDeushResend {s t : State} (h : Keeps s t) (x1) (x2) (x3) (x4) : KeepsX s (execDeushResend x1 x2 x3 x4 t) := by
  unfold execDeushResend
  repeat' first
    | with_reducible assumption | exact KeepsX.refused | exact KeepsX.fault | with_reducible apply KeepsX.next | with_reducible apply keeps_served
    | with_reducible apply keeps_resend | split
    | ((try lift_lets); intro z; refine Keeps.named (s := s) (z := z) ?_ ?_; (try subst z); rotate_left; intro hz; clear_value z)
    | ((try lift_lets); intro z; clear_value z) | (with_reducible intro; with_reducible intros; try beta_reduce) | dsimp only
theorem keeps_execPromptIncomplete {s t : State} (h : Keeps s t) (x1) (x2) (x3) : KeepsX s (execPromptIncomplete x1 x2 x3 t) := by
  unfold execPromptIncomplete
  repeat' first
    | with_reducible assumption | exact KeepsX.refused | exact KeepsX.fault | with_reducible apply KeepsX.next | with_reducible apply keeps_reject
    | split | ((try lift_lets); intro z; refine Keeps.named (s := s) (z := z) ?_ ?_; (try subst z); rotate_left; intro hz; clear_value z)
    | ((try lift_lets); intro z; clear_value z) | (with_reducible intro; with_reducible intros; try beta_reduce) | dsimp only
theorem keeps_execSessionIdleClose {s t : State} (h : Keeps s t) (x1) (x2) : KeepsX s (execSessionIdleClose x1 x2 t) := by
  unfold execSessionIdleClose
  repeat' first
    | with_reducible assumption | exact KeepsX.refused | exact KeepsX.fault | with_reducible apply KeepsX.next
    | with_reducible apply keeps_dropSession | split
    | ((try lift_lets); intro z; refine Keeps.named (s := s) (z := z) ?_ ?_; (try subst z); rotate_left; intro hz; clear_value z)
    | ((try lift_lets); intro z; clear_value z) | (with_reducible intro; with_reducible intros; try beta_reduce) | dsimp only
theorem keeps_execBulkWaitExpiry {s t : State} (h : Keeps s t) (x1) : KeepsX s (execBulkWaitExpiry x1 t) := by
  unfold execBulkWaitExpiry
  repeat' first
    | with_reducible assumption | exact KeepsX.refused | exact KeepsX.fault | with_reducible apply KeepsX.next | with_reducible apply keeps_served
    | with_reducible apply keeps_decode | split
    | ((try lift_lets); intro z; refine Keeps.named (s := s) (z := z) ?_ ?_; (try subst z); rotate_left; intro hz; clear_value z)
    | ((try lift_lets); intro z; clear_value z) | (with_reducible intro; with_reducible intros; try beta_reduce) | dsimp only
theorem keeps_execPcsLinkChange {s t : State} (h : Keeps s t) (x1) (x2) : KeepsX s (execPcsLinkChange x1 x2 t) := by
  unfold execPcsLinkChange
  repeat' first
    | with_reducible assumption | exact KeepsX.refused | exact KeepsX.fault | with_reducible apply KeepsX.next | with_reducible apply keeps_modPort
    | split | ((try lift_lets); intro z; refine Keeps.named (s := s) (z := z) ?_ ?_; (try subst z); rotate_left; intro hz; clear_value z)
    | ((try lift_lets); intro z; clear_value z) | (with_reducible intro; with_reducible intros; try beta_reduce) | dsimp only

/-! ### Packets -/

theorem keeps_execNop {s t : State} (h : Keeps s t) (x1) : KeepsX s (execNop x1 t) := by
  unfold execNop
  repeat' first
    | with_reducible assumption | exact KeepsX.refused | exact KeepsX.fault | with_reducible apply KeepsX.next | with_reducible apply keeps_served
    | with_reducible apply keeps_packet | split
    | ((try lift_lets); intro z; refine Keeps.named (s := s) (z := z) ?_ ?_; (try subst z); rotate_left; intro hz; clear_value z)
    | ((try lift_lets); intro z; clear_value z) | (with_reducible intro; with_reducible intros; try beta_reduce) | dsimp only
theorem keeps_execAdmMode {s t : State} (h : Keeps s t) (x1) (x2) : KeepsX s (execAdmMode x1 x2 t) := by
  unfold execAdmMode
  repeat' first
    | with_reducible assumption | exact KeepsX.refused | exact KeepsX.fault | with_reducible apply KeepsX.next | with_reducible apply keeps_served
    | with_reducible apply keeps_packet | split
    | ((try lift_lets); intro z; refine Keeps.named (s := s) (z := z) ?_ ?_; (try subst z); rotate_left; intro hz; clear_value z)
    | ((try lift_lets); intro z; clear_value z) | (with_reducible intro; with_reducible intros; try beta_reduce) | dsimp only
theorem keeps_execAdmServiceStart {s t : State} (h : Keeps s t) (x1) (x2) (x3) (x4) : KeepsX s (execAdmServiceStart x1 x2 x3 x4 t) := by
  unfold execAdmServiceStart
  repeat' first
    | with_reducible assumption | exact KeepsX.refused | exact KeepsX.fault | with_reducible apply KeepsX.next | with_reducible apply keeps_served
    | with_reducible apply keeps_packet | split
    | ((try lift_lets); intro z; refine Keeps.named (s := s) (z := z) ?_ ?_; (try subst z); rotate_left; intro hz; clear_value z)
    | ((try lift_lets); intro z; clear_value z) | (with_reducible intro; with_reducible intros; try beta_reduce) | dsimp only
theorem keeps_execAdmServiceStop {s t : State} (h : Keeps s t) (x1) (x2) : KeepsX s (execAdmServiceStop x1 x2 t) := by
  unfold execAdmServiceStop
  repeat' first
    | with_reducible assumption | exact KeepsX.refused | exact KeepsX.fault | with_reducible apply KeepsX.next | with_reducible apply keeps_served
    | with_reducible apply keeps_packet | split
    | ((try lift_lets); intro z; refine Keeps.named (s := s) (z := z) ?_ ?_; (try subst z); rotate_left; intro hz; clear_value z)
    | ((try lift_lets); intro z; clear_value z) | (with_reducible intro; with_reducible intros; try beta_reduce) | dsimp only
theorem keeps_execAdmIdentity {s t : State} (h : Keeps s t) (x1) (x2) (x3) (x4) (x5) : KeepsX s (execAdmIdentity x1 x2 x3 x4 x5 t) := by
  unfold execAdmIdentity
  repeat' first
    | with_reducible assumption | exact KeepsX.refused | exact KeepsX.fault | with_reducible apply KeepsX.next | with_reducible apply keeps_served
    | with_reducible apply keeps_packet | split
    | ((try lift_lets); intro z; refine Keeps.named (s := s) (z := z) ?_ ?_; (try subst z); rotate_left; intro hz; clear_value z)
    | ((try lift_lets); intro z; clear_value z) | (with_reducible intro; with_reducible intros; try beta_reduce) | dsimp only
theorem keeps_execCtxCreate {s t : State} (h : Keeps s t) (x1) (x2) (x3) (x4) (x5) (x6) (x7) : KeepsX s (execCtxCreate x1 x2 x3 x4 x5 x6 x7 t) := by
  unfold execCtxCreate
  repeat' first
    | with_reducible assumption | exact KeepsX.refused | exact KeepsX.fault | with_reducible apply KeepsX.next | with_reducible apply keeps_served
    | with_reducible apply keeps_packet | split
    | ((try lift_lets); intro z; refine Keeps.named (s := s) (z := z) ?_ ?_; (try subst z); rotate_left; intro hz; clear_value z)
    | ((try lift_lets); intro z; clear_value z) | (with_reducible intro; with_reducible intros; try beta_reduce) | dsimp only
theorem keeps_execCtxFence {s t : State} (h : Keeps s t) (x1) (x2) (x3) : KeepsX s (execCtxFence x1 x2 x3 t) := by
  unfold execCtxFence
  repeat' first
    | with_reducible assumption | exact KeepsX.refused | exact KeepsX.fault | with_reducible apply KeepsX.next | with_reducible apply keeps_served
    | with_reducible apply keeps_packet | split
    | ((try lift_lets); intro z; refine Keeps.named (s := s) (z := z) ?_ ?_; (try subst z); rotate_left; intro hz; clear_value z)
    | ((try lift_lets); intro z; clear_value z) | (with_reducible intro; with_reducible intros; try beta_reduce) | dsimp only
theorem keeps_execCtxUnfence {s t : State} (h : Keeps s t) (x1) (x2) : KeepsX s (execCtxUnfence x1 x2 t) := by
  unfold execCtxUnfence
  repeat' first
    | with_reducible assumption | exact KeepsX.refused | exact KeepsX.fault | with_reducible apply KeepsX.next | with_reducible apply keeps_served
    | with_reducible apply keeps_packet | split
    | ((try lift_lets); intro z; refine Keeps.named (s := s) (z := z) ?_ ?_; (try subst z); rotate_left; intro hz; clear_value z)
    | ((try lift_lets); intro z; clear_value z) | (with_reducible intro; with_reducible intros; try beta_reduce) | dsimp only
theorem keeps_execCtxDestroy {s t : State} (h : Keeps s t) (x1) (x2) : KeepsX s (execCtxDestroy x1 x2 t) := by
  unfold execCtxDestroy
  repeat' first
    | with_reducible assumption | exact KeepsX.refused | exact KeepsX.fault | with_reducible apply KeepsX.next | with_reducible apply keeps_served
    | with_reducible apply keeps_packet | split
    | ((try lift_lets); intro z; refine Keeps.named (s := s) (z := z) ?_ ?_; (try subst z); rotate_left; intro hz; clear_value z)
    | ((try lift_lets); intro z; clear_value z) | (with_reducible intro; with_reducible intros; try beta_reduce) | dsimp only
theorem keeps_execMemMap {s t : State} (h : Keeps s t) (x1) (x2) (x3) (x4) : KeepsX s (execMemMap x1 x2 x3 x4 t) := by
  unfold execMemMap
  repeat' first
    | with_reducible assumption | exact KeepsX.refused | exact KeepsX.fault | with_reducible apply KeepsX.next | with_reducible apply keeps_served
    | with_reducible apply keeps_packet | split
    | ((try lift_lets); intro z; refine Keeps.named (s := s) (z := z) ?_ ?_; (try subst z); rotate_left; intro hz; clear_value z)
    | ((try lift_lets); intro z; clear_value z) | (with_reducible intro; with_reducible intros; try beta_reduce) | dsimp only
theorem keeps_execMemUnmap {s t : State} (h : Keeps s t) (x1) (x2) (x3) : KeepsX s (execMemUnmap x1 x2 x3 t) := by
  unfold execMemUnmap
  repeat' first
    | with_reducible assumption | exact KeepsX.refused | exact KeepsX.fault | with_reducible apply KeepsX.next | with_reducible apply keeps_served
    | with_reducible apply keeps_packet | split
    | ((try lift_lets); intro z; refine Keeps.named (s := s) (z := z) ?_ ?_; (try subst z); rotate_left; intro hz; clear_value z)
    | ((try lift_lets); intro z; clear_value z) | (with_reducible intro; with_reducible intros; try beta_reduce) | dsimp only
theorem keeps_execMemHint {s t : State} (h : Keeps s t) (x1) (x2) (x3) (x4) : KeepsX s (execMemHint x1 x2 x3 x4 t) := by
  unfold execMemHint
  repeat' first
    | with_reducible assumption | exact KeepsX.refused | exact KeepsX.fault | with_reducible apply KeepsX.next | with_reducible apply keeps_served
    | with_reducible apply keeps_packet | split
    | ((try lift_lets); intro z; refine Keeps.named (s := s) (z := z) ?_ ?_; (try subst z); rotate_left; intro hz; clear_value z)
    | ((try lift_lets); intro z; clear_value z) | (with_reducible intro; with_reducible intros; try beta_reduce) | dsimp only
theorem keeps_execMemQuota {s t : State} (h : Keeps s t) (x1) (x2) (x3) (x4) (x5) (x6) : KeepsX s (execMemQuota x1 x2 x3 x4 x5 x6 t) := by
  unfold execMemQuota
  repeat' first
    | with_reducible assumption | exact KeepsX.refused | exact KeepsX.fault | with_reducible apply KeepsX.next | with_reducible apply keeps_served
    | with_reducible apply keeps_packet | split
    | ((try lift_lets); intro z; refine Keeps.named (s := s) (z := z) ?_ ?_; (try subst z); rotate_left; intro hz; clear_value z)
    | ((try lift_lets); intro z; clear_value z) | (with_reducible intro; with_reducible intros; try beta_reduce) | dsimp only
theorem keeps_execMemResolveRetry {s t : State} (h : Keeps s t) (x1) (x2) : KeepsX s (execMemResolveRetry x1 x2 t) := by
  unfold execMemResolveRetry
  repeat' first
    | with_reducible assumption | exact KeepsX.refused | exact KeepsX.fault | with_reducible apply KeepsX.next | with_reducible apply keeps_served
    | with_reducible apply keeps_packet | split
    | ((try lift_lets); intro z; refine Keeps.named (s := s) (z := z) ?_ ?_; (try subst z); rotate_left; intro hz; clear_value z)
    | ((try lift_lets); intro z; clear_value z) | (with_reducible intro; with_reducible intros; try beta_reduce) | dsimp only
theorem keeps_execMemResolveFail {s t : State} (h : Keeps s t) (x1) (x2) : KeepsX s (execMemResolveFail x1 x2 t) := by
  unfold execMemResolveFail
  repeat' first
    | with_reducible assumption | exact KeepsX.refused | exact KeepsX.fault | with_reducible apply KeepsX.next | with_reducible apply keeps_served
    | with_reducible apply keeps_packet | split
    | ((try lift_lets); intro z; refine Keeps.named (s := s) (z := z) ?_ ?_; (try subst z); rotate_left; intro hz; clear_value z)
    | ((try lift_lets); intro z; clear_value z) | (with_reducible intro; with_reducible intros; try beta_reduce) | dsimp only
theorem keeps_execWgtInstallBegin {s t : State} (h : Keeps s t) (x1) (x2) (x3) (x4) : KeepsX s (execWgtInstallBegin x1 x2 x3 x4 t) := by
  unfold execWgtInstallBegin
  repeat' first
    | with_reducible assumption | exact KeepsX.refused | exact KeepsX.fault | with_reducible apply KeepsX.next | with_reducible apply keeps_served
    | with_reducible apply keeps_packet | split
    | ((try lift_lets); intro z; refine Keeps.named (s := s) (z := z) ?_ ?_; (try subst z); rotate_left; intro hz; clear_value z)
    | ((try lift_lets); intro z; clear_value z) | (with_reducible intro; with_reducible intros; try beta_reduce) | dsimp only
theorem keeps_execWgtInstallChunks {s t : State} (h : Keeps s t) (x1) (x2) (x3) (x4) (x5) : KeepsX s (execWgtInstallChunks x1 x2 x3 x4 x5 t) := by
  unfold execWgtInstallChunks
  repeat' first
    | with_reducible assumption | exact KeepsX.refused | exact KeepsX.fault | with_reducible apply KeepsX.next | with_reducible apply keeps_served
    | with_reducible apply keeps_packet | split
    | ((try lift_lets); intro z; refine Keeps.named (s := s) (z := z) ?_ ?_; (try subst z); rotate_left; intro hz; clear_value z)
    | ((try lift_lets); intro z; clear_value z) | (with_reducible intro; with_reducible intros; try beta_reduce) | dsimp only
theorem keeps_execWgtInstallCommit {s t : State} (h : Keeps s t) (x1) (x2) : KeepsX s (execWgtInstallCommit x1 x2 t) := by
  unfold execWgtInstallCommit
  repeat' first
    | with_reducible assumption | exact KeepsX.refused | exact KeepsX.fault | with_reducible apply KeepsX.next | with_reducible apply keeps_served
    | with_reducible apply keeps_packet | split
    | ((try lift_lets); intro z; refine Keeps.named (s := s) (z := z) ?_ ?_; (try subst z); rotate_left; intro hz; clear_value z)
    | ((try lift_lets); intro z; clear_value z) | (with_reducible intro; with_reducible intros; try beta_reduce) | dsimp only
theorem keeps_execWgtInstallAbort {s t : State} (h : Keeps s t) (x1) (x2) : KeepsX s (execWgtInstallAbort x1 x2 t) := by
  unfold execWgtInstallAbort
  repeat' first
    | with_reducible assumption | exact KeepsX.refused | exact KeepsX.fault | with_reducible apply KeepsX.next | with_reducible apply keeps_served
    | with_reducible apply keeps_packet | split
    | ((try lift_lets); intro z; refine Keeps.named (s := s) (z := z) ?_ ?_; (try subst z); rotate_left; intro hz; clear_value z)
    | ((try lift_lets); intro z; clear_value z) | (with_reducible intro; with_reducible intros; try beta_reduce) | dsimp only
theorem keeps_execWgtErase {s t : State} (h : Keeps s t) (x1) (x2) : KeepsX s (execWgtErase x1 x2 t) := by
  unfold execWgtErase
  repeat' first
    | with_reducible assumption | exact KeepsX.refused | exact KeepsX.fault | with_reducible apply KeepsX.next | with_reducible apply keeps_served
    | with_reducible apply keeps_packet | split
    | ((try lift_lets); intro z; refine Keeps.named (s := s) (z := z) ?_ ?_; (try subst z); rotate_left; intro hz; clear_value z)
    | ((try lift_lets); intro z; clear_value z) | (with_reducible intro; with_reducible intros; try beta_reduce) | dsimp only
theorem keeps_execWgtKeyAdd {s t : State} (h : Keeps s t) (x1) (x2) (x3) : KeepsX s (execWgtKeyAdd x1 x2 x3 t) := by
  unfold execWgtKeyAdd
  repeat' first
    | with_reducible assumption | exact KeepsX.refused | exact KeepsX.fault | with_reducible apply KeepsX.next | with_reducible apply keeps_served
    | with_reducible apply keeps_packet | split
    | ((try lift_lets); intro z; refine Keeps.named (s := s) (z := z) ?_ ?_; (try subst z); rotate_left; intro hz; clear_value z)
    | ((try lift_lets); intro z; clear_value z) | (with_reducible intro; with_reducible intros; try beta_reduce) | dsimp only
theorem keeps_execWgtKeyRevoke {s t : State} (h : Keeps s t) (x1) (x2) : KeepsX s (execWgtKeyRevoke x1 x2 t) := by
  unfold execWgtKeyRevoke
  repeat' first
    | with_reducible assumption | exact KeepsX.refused | exact KeepsX.fault | with_reducible apply KeepsX.next | with_reducible apply keeps_served
    | with_reducible apply keeps_packet | split
    | ((try lift_lets); intro z; refine Keeps.named (s := s) (z := z) ?_ ?_; (try subst z); rotate_left; intro hz; clear_value z)
    | ((try lift_lets); intro z; clear_value z) | (with_reducible intro; with_reducible intros; try beta_reduce) | dsimp only
theorem keeps_execWgtLoad {s t : State} (h : Keeps s t) (x1) (x2) (x3) (x4) (x5) (x6) (x7) (x8) (x9) (x10) : KeepsX s (execWgtLoad x1 x2 x3 x4 x5 x6 x7 x8 x9 x10 t) := by
  unfold execWgtLoad
  repeat' first
    | with_reducible assumption | exact KeepsX.refused | exact KeepsX.fault | with_reducible apply KeepsX.next | with_reducible apply keeps_served
    | with_reducible apply keeps_packet | split
    | ((try lift_lets); intro z; refine Keeps.named (s := s) (z := z) ?_ ?_; (try subst z); rotate_left; intro hz; clear_value z)
    | ((try lift_lets); intro z; clear_value z) | (with_reducible intro; with_reducible intros; try beta_reduce) | dsimp only
theorem keeps_execWgtPin {s t : State} (h : Keeps s t) (x1) (x2) : KeepsX s (execWgtPin x1 x2 t) := by
  unfold execWgtPin
  repeat' first
    | with_reducible assumption | exact KeepsX.refused | exact KeepsX.fault | with_reducible apply KeepsX.next | with_reducible apply keeps_served
    | with_reducible apply keeps_packet | split
    | ((try lift_lets); intro z; refine Keeps.named (s := s) (z := z) ?_ ?_; (try subst z); rotate_left; intro hz; clear_value z)
    | ((try lift_lets); intro z; clear_value z) | (with_reducible intro; with_reducible intros; try beta_reduce) | dsimp only
theorem keeps_execWgtUnpin {s t : State} (h : Keeps s t) (x1) (x2) (x3) : KeepsX s (execWgtUnpin x1 x2 x3 t) := by
  unfold execWgtUnpin
  repeat' first
    | with_reducible assumption | exact KeepsX.refused | exact KeepsX.fault | with_reducible apply KeepsX.next | with_reducible apply keeps_served
    | with_reducible apply keeps_packet | split
    | ((try lift_lets); intro z; refine Keeps.named (s := s) (z := z) ?_ ?_; (try subst z); rotate_left; intro hz; clear_value z)
    | ((try lift_lets); intro z; clear_value z) | (with_reducible intro; with_reducible intros; try beta_reduce) | dsimp only
theorem keeps_execWgtSwitch {s t : State} (h : Keeps s t) (x1) (x2) : KeepsX s (execWgtSwitch x1 x2 t) := by
  unfold execWgtSwitch
  repeat' first
    | with_reducible assumption | exact KeepsX.refused | exact KeepsX.fault | with_reducible apply KeepsX.next | with_reducible apply keeps_served
    | with_reducible apply keeps_packet | split
    | ((try lift_lets); intro z; refine Keeps.named (s := s) (z := z) ?_ ?_; (try subst z); rotate_left; intro hz; clear_value z)
    | ((try lift_lets); intro z; clear_value z) | (with_reducible intro; with_reducible intros; try beta_reduce) | dsimp only
theorem keeps_execWgtDrop {s t : State} (h : Keeps s t) (x1) (x2) : KeepsX s (execWgtDrop x1 x2 t) := by
  unfold execWgtDrop
  repeat' first
    | with_reducible assumption | exact KeepsX.refused | exact KeepsX.fault | with_reducible apply KeepsX.next | with_reducible apply keeps_served
    | with_reducible apply keeps_packet | split
    | ((try lift_lets); intro z; refine Keeps.named (s := s) (z := z) ?_ ?_; (try subst z); rotate_left; intro hz; clear_value z)
    | ((try lift_lets); intro z; clear_value z) | (with_reducible intro; with_reducible intros; try beta_reduce) | dsimp only
theorem keeps_execKeelWrite {s t : State} (h : Keeps s t) (x1) (x2) (x3) (x4) (x5) (x6) : KeepsX s (execKeelWrite x1 x2 x3 x4 x5 x6 t) := by
  unfold execKeelWrite
  repeat' first
    | with_reducible assumption | exact KeepsX.refused | exact KeepsX.fault | with_reducible apply KeepsX.next | with_reducible apply keeps_served
    | with_reducible apply keeps_packet | split
    | ((try lift_lets); intro z; refine Keeps.named (s := s) (z := z) ?_ ?_; (try subst z); rotate_left; intro hz; clear_value z)
    | ((try lift_lets); intro z; clear_value z) | (with_reducible intro; with_reducible intros; try beta_reduce) | dsimp only
theorem keeps_execKeelRead {s t : State} (h : Keeps s t) (x1) (x2) (x3) (x4) : KeepsX s (execKeelRead x1 x2 x3 x4 t) := by
  unfold execKeelRead
  repeat' first
    | with_reducible assumption | exact KeepsX.refused | exact KeepsX.fault | with_reducible apply KeepsX.next | with_reducible apply keeps_served
    | with_reducible apply keeps_packet | split
    | ((try lift_lets); intro z; refine Keeps.named (s := s) (z := z) ?_ ?_; (try subst z); rotate_left; intro hz; clear_value z)
    | ((try lift_lets); intro z; clear_value z) | (with_reducible intro; with_reducible intros; try beta_reduce) | dsimp only
theorem keeps_execKeelDrop {s t : State} (h : Keeps s t) (x1) (x2) : KeepsX s (execKeelDrop x1 x2 t) := by
  unfold execKeelDrop
  repeat' first
    | with_reducible assumption | exact KeepsX.refused | exact KeepsX.fault | with_reducible apply KeepsX.next | with_reducible apply keeps_served
    | with_reducible apply keeps_packet | split
    | ((try lift_lets); intro z; refine Keeps.named (s := s) (z := z) ?_ ?_; (try subst z); rotate_left; intro hz; clear_value z)
    | ((try lift_lets); intro z; clear_value z) | (with_reducible intro; with_reducible intros; try beta_reduce) | dsimp only
theorem keeps_execSubmitGraph {s t : State} (h : Keeps s t) (x1) (x2) (x3) (x4) (x5) (x6) : KeepsX s (execSubmitGraph x1 x2 x3 x4 x5 x6 t) := by
  unfold execSubmitGraph
  repeat' first
    | with_reducible assumption | exact KeepsX.refused | exact KeepsX.fault | with_reducible apply KeepsX.next | with_reducible apply keeps_served
    | with_reducible apply keeps_packet | split
    | ((try lift_lets); intro z; refine Keeps.named (s := s) (z := z) ?_ ?_; (try subst z); rotate_left; intro hz; clear_value z)
    | ((try lift_lets); intro z; clear_value z) | (with_reducible intro; with_reducible intros; try beta_reduce) | dsimp only
theorem keeps_execGraphRun {s t : State} (h : Keeps s t) (x1) (x2) (x3) : KeepsX s (execGraphRun x1 x2 x3 t) := by
  unfold execGraphRun
  repeat' first
    | with_reducible assumption | exact KeepsX.refused | exact KeepsX.fault | with_reducible apply KeepsX.next | with_reducible apply keeps_served
    | with_reducible apply keeps_packet | split
    | ((try lift_lets); intro z; refine Keeps.named (s := s) (z := z) ?_ ?_; (try subst z); rotate_left; intro hz; clear_value z)
    | ((try lift_lets); intro z; clear_value z) | (with_reducible intro; with_reducible intros; try beta_reduce) | dsimp only
theorem keeps_execGraphRelease {s t : State} (h : Keeps s t) (x1) (x2) : KeepsX s (execGraphRelease x1 x2 t) := by
  unfold execGraphRelease
  repeat' first
    | with_reducible assumption | exact KeepsX.refused | exact KeepsX.fault | with_reducible apply KeepsX.next | with_reducible apply keeps_served
    | with_reducible apply keeps_packet | split
    | ((try lift_lets); intro z; refine Keeps.named (s := s) (z := z) ?_ ?_; (try subst z); rotate_left; intro hz; clear_value z)
    | ((try lift_lets); intro z; clear_value z) | (with_reducible intro; with_reducible intros; try beta_reduce) | dsimp only
theorem keeps_execMatmul {s t : State} (h : Keeps s t) (x1) (x2) (x3) : KeepsX s (execMatmul x1 x2 x3 t) := by
  unfold execMatmul
  repeat' first
    | with_reducible assumption | exact KeepsX.refused | exact KeepsX.fault | with_reducible apply KeepsX.next | with_reducible apply keeps_served
    | with_reducible apply keeps_packet | split
    | ((try lift_lets); intro z; refine Keeps.named (s := s) (z := z) ?_ ?_; (try subst z); rotate_left; intro hz; clear_value z)
    | ((try lift_lets); intro z; clear_value z) | (with_reducible intro; with_reducible intros; try beta_reduce) | dsimp only
theorem keeps_execVector {s t : State} (h : Keeps s t) (x1) (x2) (x3) : KeepsX s (execVector x1 x2 x3 t) := by
  unfold execVector
  repeat' first
    | with_reducible assumption | exact KeepsX.refused | exact KeepsX.fault | with_reducible apply KeepsX.next | with_reducible apply keeps_served
    | with_reducible apply keeps_packet | split
    | ((try lift_lets); intro z; refine Keeps.named (s := s) (z := z) ?_ ?_; (try subst z); rotate_left; intro hz; clear_value z)
    | ((try lift_lets); intro z; clear_value z) | (with_reducible intro; with_reducible intros; try beta_reduce) | dsimp only
theorem keeps_execReduce {s t : State} (h : Keeps s t) (x1) (x2) (x3) : KeepsX s (execReduce x1 x2 x3 t) := by
  unfold execReduce
  repeat' first
    | with_reducible assumption | exact KeepsX.refused | exact KeepsX.fault | with_reducible apply KeepsX.next | with_reducible apply keeps_served
    | with_reducible apply keeps_packet | split
    | ((try lift_lets); intro z; refine Keeps.named (s := s) (z := z) ?_ ?_; (try subst z); rotate_left; intro hz; clear_value z)
    | ((try lift_lets); intro z; clear_value z) | (with_reducible intro; with_reducible intros; try beta_reduce) | dsimp only
theorem keeps_execAttnFwd {s t : State} (h : Keeps s t) (x1) (x2) (x3) : KeepsX s (execAttnFwd x1 x2 x3 t) := by
  unfold execAttnFwd
  repeat' first
    | with_reducible assumption | exact KeepsX.refused | exact KeepsX.fault | with_reducible apply KeepsX.next | with_reducible apply keeps_served
    | with_reducible apply keeps_packet | split
    | ((try lift_lets); intro z; refine Keeps.named (s := s) (z := z) ?_ ?_; (try subst z); rotate_left; intro hz; clear_value z)
    | ((try lift_lets); intro z; clear_value z) | (with_reducible intro; with_reducible intros; try beta_reduce) | dsimp only
theorem keeps_execAttnBwd {s t : State} (h : Keeps s t) (x1) (x2) (x3) : KeepsX s (execAttnBwd x1 x2 x3 t) := by
  unfold execAttnBwd
  repeat' first
    | with_reducible assumption | exact KeepsX.refused | exact KeepsX.fault | with_reducible apply KeepsX.next | with_reducible apply keeps_served
    | with_reducible apply keeps_packet | split
    | ((try lift_lets); intro z; refine Keeps.named (s := s) (z := z) ?_ ?_; (try subst z); rotate_left; intro hz; clear_value z)
    | ((try lift_lets); intro z; clear_value z) | (with_reducible intro; with_reducible intros; try beta_reduce) | dsimp only
theorem keeps_execOptUpdate {s t : State} (h : Keeps s t) (x1) (x2) (x3) : KeepsX s (execOptUpdate x1 x2 x3 t) := by
  unfold execOptUpdate
  repeat' first
    | with_reducible assumption | exact KeepsX.refused | exact KeepsX.fault | with_reducible apply KeepsX.next | with_reducible apply keeps_served
    | with_reducible apply keeps_packet | split
    | ((try lift_lets); intro z; refine Keeps.named (s := s) (z := z) ?_ ?_; (try subst z); rotate_left; intro hz; clear_value z)
    | ((try lift_lets); intro z; clear_value z) | (with_reducible intro; with_reducible intros; try beta_reduce) | dsimp only
theorem keeps_execStepFence {s t : State} (h : Keeps s t) (x1) (x2) : KeepsX s (execStepFence x1 x2 t) := by
  unfold execStepFence
  repeat' first
    | with_reducible assumption | exact KeepsX.refused | exact KeepsX.fault | with_reducible apply KeepsX.next | with_reducible apply keeps_served
    | with_reducible apply keeps_packet | split
    | ((try lift_lets); intro z; refine Keeps.named (s := s) (z := z) ?_ ?_; (try subst z); rotate_left; intro hz; clear_value z)
    | ((try lift_lets); intro z; clear_value z) | (with_reducible intro; with_reducible intros; try beta_reduce) | dsimp only
theorem keeps_execSemAcquire {s t : State} (h : Keeps s t) (x1) (x2) (x3) : KeepsX s (execSemAcquire x1 x2 x3 t) := by
  unfold execSemAcquire
  repeat' first
    | with_reducible assumption | exact KeepsX.refused | exact KeepsX.fault | with_reducible apply KeepsX.next | with_reducible apply keeps_served
    | with_reducible apply keeps_packet | split
    | ((try lift_lets); intro z; refine Keeps.named (s := s) (z := z) ?_ ?_; (try subst z); rotate_left; intro hz; clear_value z)
    | ((try lift_lets); intro z; clear_value z) | (with_reducible intro; with_reducible intros; try beta_reduce) | dsimp only
theorem keeps_execSemRelease {s t : State} (h : Keeps s t) (x1) (x2) (x3) : KeepsX s (execSemRelease x1 x2 x3 t) := by
  unfold execSemRelease
  repeat' first
    | with_reducible assumption | exact KeepsX.refused | exact KeepsX.fault | with_reducible apply KeepsX.next | with_reducible apply keeps_served
    | with_reducible apply keeps_packet | split
    | ((try lift_lets); intro z; refine Keeps.named (s := s) (z := z) ?_ ?_; (try subst z); rotate_left; intro hz; clear_value z)
    | ((try lift_lets); intro z; clear_value z) | (with_reducible intro; with_reducible intros; try beta_reduce) | dsimp only
theorem keeps_execDmaStart {s t : State} (h : Keeps s t) (x1) (x2) (x3) (x4) (x5) (x6) (x7) (x8) (x9) (x10) : KeepsX s (execDmaStart x1 x2 x3 x4 x5 x6 x7 x8 x9 x10 t) := by
  unfold execDmaStart
  repeat' first
    | with_reducible assumption | exact KeepsX.refused | exact KeepsX.fault | with_reducible apply KeepsX.next | with_reducible apply keeps_served
    | with_reducible apply keeps_packet | split
    | ((try lift_lets); intro z; refine Keeps.named (s := s) (z := z) ?_ ?_; (try subst z); rotate_left; intro hz; clear_value z)
    | ((try lift_lets); intro z; clear_value z) | (with_reducible intro; with_reducible intros; try beta_reduce) | dsimp only
theorem keeps_execDmaAbort {s t : State} (h : Keeps s t) (x1) (x2) : KeepsX s (execDmaAbort x1 x2 t) := by
  unfold execDmaAbort
  repeat' first
    | with_reducible assumption | exact KeepsX.refused | exact KeepsX.fault | with_reducible apply KeepsX.next | with_reducible apply keeps_served
    | with_reducible apply keeps_packet | split
    | ((try lift_lets); intro z; refine Keeps.named (s := s) (z := z) ?_ ?_; (try subst z); rotate_left; intro hz; clear_value z)
    | ((try lift_lets); intro z; clear_value z) | (with_reducible intro; with_reducible intros; try beta_reduce) | dsimp only
theorem keeps_execCollReduceScatter {s t : State} (h : Keeps s t) (x1) (x2) (x3) : KeepsX s (execCollReduceScatter x1 x2 x3 t) := by
  unfold execCollReduceScatter
  repeat' first
    | with_reducible assumption | exact KeepsX.refused | exact KeepsX.fault | with_reducible apply KeepsX.next | with_reducible apply keeps_served
    | with_reducible apply keeps_packet | split
    | ((try lift_lets); intro z; refine Keeps.named (s := s) (z := z) ?_ ?_; (try subst z); rotate_left; intro hz; clear_value z)
    | ((try lift_lets); intro z; clear_value z) | (with_reducible intro; with_reducible intros; try beta_reduce) | dsimp only
theorem keeps_execCollAllGather {s t : State} (h : Keeps s t) (x1) (x2) (x3) : KeepsX s (execCollAllGather x1 x2 x3 t) := by
  unfold execCollAllGather
  repeat' first
    | with_reducible assumption | exact KeepsX.refused | exact KeepsX.fault | with_reducible apply KeepsX.next | with_reducible apply keeps_served
    | with_reducible apply keeps_packet | split
    | ((try lift_lets); intro z; refine Keeps.named (s := s) (z := z) ?_ ?_; (try subst z); rotate_left; intro hz; clear_value z)
    | ((try lift_lets); intro z; clear_value z) | (with_reducible intro; with_reducible intros; try beta_reduce) | dsimp only
theorem keeps_execCollAllReduce {s t : State} (h : Keeps s t) (x1) (x2) (x3) : KeepsX s (execCollAllReduce x1 x2 x3 t) := by
  unfold execCollAllReduce
  repeat' first
    | with_reducible assumption | exact KeepsX.refused | exact KeepsX.fault | with_reducible apply KeepsX.next | with_reducible apply keeps_served
    | with_reducible apply keeps_packet | split
    | ((try lift_lets); intro z; refine Keeps.named (s := s) (z := z) ?_ ?_; (try subst z); rotate_left; intro hz; clear_value z)
    | ((try lift_lets); intro z; clear_value z) | (with_reducible intro; with_reducible intros; try beta_reduce) | dsimp only
theorem keeps_execCollMulticast {s t : State} (h : Keeps s t) (x1) (x2) (x3) : KeepsX s (execCollMulticast x1 x2 x3 t) := by
  unfold execCollMulticast
  repeat' first
    | with_reducible assumption | exact KeepsX.refused | exact KeepsX.fault | with_reducible apply KeepsX.next | with_reducible apply keeps_served
    | with_reducible apply keeps_packet | split
    | ((try lift_lets); intro z; refine Keeps.named (s := s) (z := z) ?_ ?_; (try subst z); rotate_left; intro hz; clear_value z)
    | ((try lift_lets); intro z; clear_value z) | (with_reducible intro; with_reducible intros; try beta_reduce) | dsimp only
theorem keeps_execCollPermute {s t : State} (h : Keeps s t) (x1) (x2) (x3) : KeepsX s (execCollPermute x1 x2 x3 t) := by
  unfold execCollPermute
  repeat' first
    | with_reducible assumption | exact KeepsX.refused | exact KeepsX.fault | with_reducible apply KeepsX.next | with_reducible apply keeps_served
    | with_reducible apply keeps_packet | split
    | ((try lift_lets); intro z; refine Keeps.named (s := s) (z := z) ?_ ?_; (try subst z); rotate_left; intro hz; clear_value z)
    | ((try lift_lets); intro z; clear_value z) | (with_reducible intro; with_reducible intros; try beta_reduce) | dsimp only
theorem keeps_execMirPair {s t : State} (h : Keeps s t) (x1) (x2) (x3) (x4) (x5) (x6) (x7) (x8) (x9) (x10) : KeepsX s (execMirPair x1 x2 x3 x4 x5 x6 x7 x8 x9 x10 t) := by
  unfold execMirPair
  repeat' first
    | with_reducible assumption | exact KeepsX.refused | exact KeepsX.fault | with_reducible apply KeepsX.next | with_reducible apply keeps_served
    | with_reducible apply keeps_packet | split
    | ((try lift_lets); intro z; refine Keeps.named (s := s) (z := z) ?_ ?_; (try subst z); rotate_left; intro hz; clear_value z)
    | ((try lift_lets); intro z; clear_value z) | (with_reducible intro; with_reducible intros; try beta_reduce) | dsimp only
theorem keeps_execMirSync {s t : State} (h : Keeps s t) (x1) (x2) : KeepsX s (execMirSync x1 x2 t) := by
  unfold execMirSync
  repeat' first
    | with_reducible assumption | exact KeepsX.refused | exact KeepsX.fault | with_reducible apply KeepsX.next | with_reducible apply keeps_served
    | with_reducible apply keeps_packet | split
    | ((try lift_lets); intro z; refine Keeps.named (s := s) (z := z) ?_ ?_; (try subst z); rotate_left; intro hz; clear_value z)
    | ((try lift_lets); intro z; clear_value z) | (with_reducible intro; with_reducible intros; try beta_reduce) | dsimp only
theorem keeps_execMirIntercalate {s t : State} (h : Keeps s t) (x1) (x2) (x3) (x4) (x5) (x6) : KeepsX s (execMirIntercalate x1 x2 x3 x4 x5 x6 t) := by
  unfold execMirIntercalate
  repeat' first
    | with_reducible assumption | exact KeepsX.refused | exact KeepsX.fault | with_reducible apply KeepsX.next | with_reducible apply keeps_served
    | with_reducible apply keeps_packet | split
    | ((try lift_lets); intro z; refine Keeps.named (s := s) (z := z) ?_ ?_; (try subst z); rotate_left; intro hz; clear_value z)
    | ((try lift_lets); intro z; clear_value z) | (with_reducible intro; with_reducible intros; try beta_reduce) | dsimp only
theorem keeps_execMirRestore {s t : State} (h : Keeps s t) (x1) (x2) (x3) (x4) : KeepsX s (execMirRestore x1 x2 x3 x4 t) := by
  unfold execMirRestore
  repeat' first
    | with_reducible assumption | exact KeepsX.refused | exact KeepsX.fault | with_reducible apply KeepsX.next | with_reducible apply keeps_served
    | with_reducible apply keeps_packet | split
    | ((try lift_lets); intro z; refine Keeps.named (s := s) (z := z) ?_ ?_; (try subst z); rotate_left; intro hz; clear_value z)
    | ((try lift_lets); intro z; clear_value z) | (with_reducible intro; with_reducible intros; try beta_reduce) | dsimp only
theorem keeps_execJobRelease {s t : State} (h : Keeps s t) (x1) (x2) (x3) : KeepsX s (execJobRelease x1 x2 x3 t) := by
  unfold execJobRelease
  repeat' first
    | with_reducible assumption | exact KeepsX.refused | exact KeepsX.fault | with_reducible apply KeepsX.next | with_reducible apply keeps_served
    | with_reducible apply keeps_packet | split
    | ((try lift_lets); intro z; refine Keeps.named (s := s) (z := z) ?_ ?_; (try subst z); rotate_left; intro hz; clear_value z)
    | ((try lift_lets); intro z; clear_value z) | (with_reducible intro; with_reducible intros; try beta_reduce) | dsimp only
theorem keeps_execJobJoin {s t : State} (h : Keeps s t) (x1) (x2) (x3) (x4) (x5) (x6) : KeepsX s (execJobJoin x1 x2 x3 x4 x5 x6 t) := by
  unfold execJobJoin
  repeat' first
    | with_reducible assumption | exact KeepsX.refused | exact KeepsX.fault | with_reducible apply KeepsX.next | with_reducible apply keeps_served
    | with_reducible apply keeps_packet | split
    | ((try lift_lets); intro z; refine Keeps.named (s := s) (z := z) ?_ ?_; (try subst z); rotate_left; intro hz; clear_value z)
    | ((try lift_lets); intro z; clear_value z) | (with_reducible intro; with_reducible intros; try beta_reduce) | dsimp only
theorem keeps_execSrvStart {s t : State} (h : Keeps s t) (x1) (x2) (x3) (x4) : KeepsX s (execSrvStart x1 x2 x3 x4 t) := by
  unfold execSrvStart
  repeat' first
    | with_reducible assumption | exact KeepsX.refused | exact KeepsX.fault | with_reducible apply KeepsX.next | with_reducible apply keeps_served
    | with_reducible apply keeps_packet | split
    | ((try lift_lets); intro z; refine Keeps.named (s := s) (z := z) ?_ ?_; (try subst z); rotate_left; intro hz; clear_value z)
    | ((try lift_lets); intro z; clear_value z) | (with_reducible intro; with_reducible intros; try beta_reduce) | dsimp only
theorem keeps_execSrvStop {s t : State} (h : Keeps s t) (x1) (x2) (x3) : KeepsX s (execSrvStop x1 x2 x3 t) := by
  unfold execSrvStop
  repeat' first
    | with_reducible assumption | exact KeepsX.refused | exact KeepsX.fault | with_reducible apply KeepsX.next | with_reducible apply keeps_served
    | with_reducible apply keeps_packet | split
    | ((try lift_lets); intro z; refine Keeps.named (s := s) (z := z) ?_ ?_; (try subst z); rotate_left; intro hz; clear_value z)
    | ((try lift_lets); intro z; clear_value z) | (with_reducible intro; with_reducible intros; try beta_reduce) | dsimp only
theorem keeps_execFeQueue {s t : State} (h : Keeps s t) (x1) (x2) (x3) (x4) (x5) (x6) : KeepsX s (execFeQueue x1 x2 x3 x4 x5 x6 t) := by
  unfold execFeQueue
  repeat' first
    | with_reducible assumption | exact KeepsX.refused | exact KeepsX.fault | with_reducible apply KeepsX.next | with_reducible apply keeps_served
    | with_reducible apply keeps_packet | split
    | ((try lift_lets); intro z; refine Keeps.named (s := s) (z := z) ?_ ?_; (try subst z); rotate_left; intro hz; clear_value z)
    | ((try lift_lets); intro z; clear_value z) | (with_reducible intro; with_reducible intros; try beta_reduce) | dsimp only
theorem keeps_execQueryProgress {s t : State} (h : Keeps s t) (x1) (x2) (x3) (x4) (x5) : KeepsX s (execQueryProgress x1 x2 x3 x4 x5 t) := by
  unfold execQueryProgress
  repeat' first
    | with_reducible assumption | exact KeepsX.refused | exact KeepsX.fault | with_reducible apply KeepsX.next | with_reducible apply keeps_served
    | with_reducible apply keeps_packet | split
    | ((try lift_lets); intro z; refine Keeps.named (s := s) (z := z) ?_ ?_; (try subst z); rotate_left; intro hz; clear_value z)
    | ((try lift_lets); intro z; clear_value z) | (with_reducible intro; with_reducible intros; try beta_reduce) | dsimp only
theorem keeps_execQueryStatus {s t : State} (h : Keeps s t) (x1) (x2) (x3) (x4) : KeepsX s (execQueryStatus x1 x2 x3 x4 t) := by
  unfold execQueryStatus
  repeat' first
    | with_reducible assumption | exact KeepsX.refused | exact KeepsX.fault | with_reducible apply KeepsX.next | with_reducible apply keeps_served
    | with_reducible apply keeps_packet | split
    | ((try lift_lets); intro z; refine Keeps.named (s := s) (z := z) ?_ ?_; (try subst z); rotate_left; intro hz; clear_value z)
    | ((try lift_lets); intro z; clear_value z) | (with_reducible intro; with_reducible intros; try beta_reduce) | dsimp only
theorem keeps_execQueryTelemetry {s t : State} (h : Keeps s t) (x1) (x2) (x3) (x4) (x5) : KeepsX s (execQueryTelemetry x1 x2 x3 x4 x5 t) := by
  unfold execQueryTelemetry
  repeat' first
    | with_reducible assumption | exact KeepsX.refused | exact KeepsX.fault | with_reducible apply KeepsX.next | with_reducible apply keeps_served
    | with_reducible apply keeps_packet | split
    | ((try lift_lets); intro z; refine Keeps.named (s := s) (z := z) ?_ ?_; (try subst z); rotate_left; intro hz; clear_value z)
    | ((try lift_lets); intro z; clear_value z) | (with_reducible intro; with_reducible intros; try beta_reduce) | dsimp only
theorem keeps_execDiagSentinel {s t : State} (h : Keeps s t) (x1) (x2) (x3) (x4) (x5) (x6) : KeepsX s (execDiagSentinel x1 x2 x3 x4 x5 x6 t) := by
  unfold execDiagSentinel
  repeat' first
    | with_reducible assumption | exact KeepsX.refused | exact KeepsX.fault | with_reducible apply KeepsX.next | with_reducible apply keeps_served
    | with_reducible apply keeps_packet | split
    | ((try lift_lets); intro z; refine Keeps.named (s := s) (z := z) ?_ ?_; (try subst z); rotate_left; intro hz; clear_value z)
    | ((try lift_lets); intro z; clear_value z) | (with_reducible intro; with_reducible intros; try beta_reduce) | dsimp only
theorem keeps_execDiagBist {s t : State} (h : Keeps s t) (x1) (x2) (x3) (x4) (x5) : KeepsX s (execDiagBist x1 x2 x3 x4 x5 t) := by
  unfold execDiagBist
  repeat' first
    | with_reducible assumption | exact KeepsX.refused | exact KeepsX.fault | with_reducible apply KeepsX.next | with_reducible apply keeps_served
    | with_reducible apply keeps_packet | split
    | ((try lift_lets); intro z; refine Keeps.named (s := s) (z := z) ?_ ?_; (try subst z); rotate_left; intro hz; clear_value z)
    | ((try lift_lets); intro z; clear_value z) | (with_reducible intro; with_reducible intros; try beta_reduce) | dsimp only
theorem keeps_execDiagPrbs {s t : State} (h : Keeps s t) (x1) (x2) (x3) (x4) (x5) : KeepsX s (execDiagPrbs x1 x2 x3 x4 x5 t) := by
  unfold execDiagPrbs
  repeat' first
    | with_reducible assumption | exact KeepsX.refused | exact KeepsX.fault | with_reducible apply KeepsX.next | with_reducible apply keeps_served
    | with_reducible apply keeps_packet | split
    | ((try lift_lets); intro z; refine Keeps.named (s := s) (z := z) ?_ ?_; (try subst z); rotate_left; intro hz; clear_value z)
    | ((try lift_lets); intro z; clear_value z) | (with_reducible intro; with_reducible intros; try beta_reduce) | dsimp only
theorem keeps_execDiagEmberRead {s t : State} (h : Keeps s t) (x1) (x2) (x3) (x4) (x5) (x6) : KeepsX s (execDiagEmberRead x1 x2 x3 x4 x5 x6 t) := by
  unfold execDiagEmberRead
  repeat' first
    | with_reducible assumption | exact KeepsX.refused | exact KeepsX.fault | with_reducible apply KeepsX.next | with_reducible apply keeps_served
    | with_reducible apply keeps_packet | split
    | ((try lift_lets); intro z; refine Keeps.named (s := s) (z := z) ?_ ?_; (try subst z); rotate_left; intro hz; clear_value z)
    | ((try lift_lets); intro z; clear_value z) | (with_reducible intro; with_reducible intros; try beta_reduce) | dsimp only
theorem keeps_execInjectUnitHang {s t : State} (h : Keeps s t) (x1) (x2) (x3) (x4) : KeepsX s (execInjectUnitHang x1 x2 x3 x4 t) := by
  unfold execInjectUnitHang
  repeat' first
    | with_reducible assumption | exact KeepsX.refused | exact KeepsX.fault | with_reducible apply KeepsX.next | with_reducible apply keeps_served
    | with_reducible apply keeps_packet | split
    | ((try lift_lets); intro z; refine Keeps.named (s := s) (z := z) ?_ ?_; (try subst z); rotate_left; intro hz; clear_value z)
    | ((try lift_lets); intro z; clear_value z) | (with_reducible intro; with_reducible intros; try beta_reduce) | dsimp only
theorem keeps_execInjectCheckFlip {s t : State} (h : Keeps s t) (x1) (x2) (x3) (x4) : KeepsX s (execInjectCheckFlip x1 x2 x3 x4 t) := by
  unfold execInjectCheckFlip
  repeat' first
    | with_reducible assumption | exact KeepsX.refused | exact KeepsX.fault | with_reducible apply KeepsX.next | with_reducible apply keeps_served
    | with_reducible apply keeps_packet | split
    | ((try lift_lets); intro z; refine Keeps.named (s := s) (z := z) ?_ ?_; (try subst z); rotate_left; intro hz; clear_value z)
    | ((try lift_lets); intro z; clear_value z) | (with_reducible intro; with_reducible intros; try beta_reduce) | dsimp only
theorem keeps_execInjectEccCe {s t : State} (h : Keeps s t) (x1) (x2) (x3) (x4) : KeepsX s (execInjectEccCe x1 x2 x3 x4 t) := by
  unfold execInjectEccCe
  repeat' first
    | with_reducible assumption | exact KeepsX.refused | exact KeepsX.fault | with_reducible apply KeepsX.next | with_reducible apply keeps_served
    | with_reducible apply keeps_packet | split
    | ((try lift_lets); intro z; refine Keeps.named (s := s) (z := z) ?_ ?_; (try subst z); rotate_left; intro hz; clear_value z)
    | ((try lift_lets); intro z; clear_value z) | (with_reducible intro; with_reducible intros; try beta_reduce) | dsimp only
theorem keeps_execInjectEccUe {s t : State} (h : Keeps s t) (x1) (x2) (x3) (x4) : KeepsX s (execInjectEccUe x1 x2 x3 x4 t) := by
  unfold execInjectEccUe
  repeat' first
    | with_reducible assumption | exact KeepsX.refused | exact KeepsX.fault | with_reducible apply KeepsX.next | with_reducible apply keeps_served
    | with_reducible apply keeps_packet | split
    | ((try lift_lets); intro z; refine Keeps.named (s := s) (z := z) ?_ ?_; (try subst z); rotate_left; intro hz; clear_value z)
    | ((try lift_lets); intro z; clear_value z) | (with_reducible intro; with_reducible intros; try beta_reduce) | dsimp only
theorem keeps_execInjectDeviceReset {s t : State} (h : Keeps s t) (x1) (x2) (x3) (x4) : KeepsX s (execInjectDeviceReset x1 x2 x3 x4 t) := by
  unfold execInjectDeviceReset
  repeat' first
    | with_reducible assumption | exact KeepsX.refused | exact KeepsX.fault | with_reducible apply KeepsX.next | with_reducible apply keeps_served
    | with_reducible apply keeps_packet | split
    | ((try lift_lets); intro z; refine Keeps.named (s := s) (z := z) ?_ ?_; (try subst z); rotate_left; intro hz; clear_value z)
    | ((try lift_lets); intro z; clear_value z) | (with_reducible intro; with_reducible intros; try beta_reduce) | dsimp only
theorem keeps_execInjectEventFlood {s t : State} (h : Keeps s t) (x1) (x2) (x3) (x4) : KeepsX s (execInjectEventFlood x1 x2 x3 x4 t) := by
  unfold execInjectEventFlood
  repeat' first
    | with_reducible assumption | exact KeepsX.refused | exact KeepsX.fault | with_reducible apply KeepsX.next | with_reducible apply keeps_served
    | with_reducible apply keeps_packet | split
    | ((try lift_lets); intro z; refine Keeps.named (s := s) (z := z) ?_ ?_; (try subst z); rotate_left; intro hz; clear_value z)
    | ((try lift_lets); intro z; clear_value z) | (with_reducible intro; with_reducible intros; try beta_reduce) | dsimp only

/-! ### PowerRows -/

theorem keeps_setClock {s t : State} (h : Keeps s t) (x1) : Keeps s (State.setClock t x1) := by
  unfold State.setClock
  lift_lets; (with_reducible intro; with_reducible intros; try beta_reduce; try lift_lets)
  with_reducible (apply Keeps.put; assumption; exact Nat.le_refl _)
theorem keeps_clockStep {s t : State} (h : Keeps s t) (x1) (x2) : Keeps s (State.clockStep t x1 x2) := by
  unfold State.clockStep
  (dsimp +zetaDelta only; split); with_reducible apply keeps_setClock; lift_lets
  with_reducible (apply Keeps.put; assumption; exact Nat.le_succ _); split; with_reducible apply keeps_setClock; lift_lets
  with_reducible (apply Keeps.put; assumption; exact Nat.le_succ _; apply Keeps.put; assumption; exact Nat.le_succ _)
theorem keeps_setSensor {s t : State} (h : Keeps s t) (x1) (x2) (x3) : Keeps s (State.setSensor t x1 x2 x3) := by
  unfold State.setSensor
  split; lift_lets; (with_reducible intro; with_reducible intros; try beta_reduce; try lift_lets)
  with_reducible (apply Keeps.put; assumption; exact Nat.le_refl _); lift_lets
  (with_reducible intro; with_reducible intros; try beta_reduce; try lift_lets)
  with_reducible (apply Keeps.put; assumption; exact Nat.le_refl _)
theorem keeps_thermalTrip {s t : State} (h : Keeps s t)  : Keeps s (State.thermalTrip t) := by
  unfold State.thermalTrip
  (dsimp +zetaDelta only; split); with_reducible apply keeps_restart; lift_lets
  with_reducible (apply Keeps.put; assumption; exact Nat.le_refl _; apply keeps_restart); lift_lets
  with_reducible (apply Keeps.put; assumption; exact Nat.le_refl _; apply Keeps.put; assumption; exact Nat.le_refl _; apply Keeps.put; assumption)
  with_reducible (exact Nat.le_refl _)
theorem keeps_sensorCross {s t : State} (h : Keeps s t) (x1) (x2) : Keeps s (State.sensorCross t x1 x2) := by
  unfold State.sensorCross
  split; (dsimp +zetaDelta only; split); split; with_reducible apply keeps_thermalTrip; split; split
  with_reducible (apply Keeps.put; apply keeps_setSensor; assumption; exact Nat.le_refl _; apply Keeps.put; apply keeps_setSensor; assumption)
  with_reducible (exact Nat.le_refl _); split; with_reducible apply Keeps.put; lift_lets
  with_reducible (apply Keeps.put; apply keeps_setSensor; assumption; exact Nat.le_refl _; exact Nat.le_refl _; apply Keeps.put); lift_lets
  with_reducible (apply Keeps.put; apply keeps_setSensor; assumption; exact Nat.le_refl _; exact Nat.le_refl _); split; split
  with_reducible (apply Keeps.put; apply keeps_setSensor; assumption; exact Nat.le_refl _; apply Keeps.put; apply keeps_setSensor; assumption)
  with_reducible (exact Nat.le_refl _); split; with_reducible apply Keeps.put; lift_lets
  with_reducible (apply Keeps.put; apply keeps_setSensor; assumption; exact Nat.le_refl _; exact Nat.le_refl _; apply Keeps.put); lift_lets
  with_reducible (apply Keeps.put; apply keeps_setSensor; assumption; exact Nat.le_refl _; exact Nat.le_refl _); split
  with_reducible apply keeps_thermalTrip; split; split
  with_reducible (apply Keeps.put; apply keeps_setSensor; assumption; exact Nat.le_refl _; apply Keeps.put; apply keeps_setSensor; assumption)
  with_reducible (exact Nat.le_refl _); split; with_reducible apply Keeps.put; lift_lets
  with_reducible (apply Keeps.put; apply keeps_setSensor; assumption; exact Nat.le_refl _; exact Nat.le_refl _; apply Keeps.put); lift_lets
  with_reducible (apply Keeps.put; apply keeps_setSensor; assumption; exact Nat.le_refl _; exact Nat.le_refl _); split; split
  with_reducible (apply Keeps.put; apply keeps_setSensor; assumption; exact Nat.le_refl _; apply Keeps.put; apply keeps_setSensor; assumption)
  with_reducible (exact Nat.le_refl _); split; with_reducible apply Keeps.put; lift_lets
  with_reducible (apply Keeps.put; apply keeps_setSensor; assumption; exact Nat.le_refl _; exact Nat.le_refl _; apply Keeps.put); lift_lets
  with_reducible (apply Keeps.put; apply keeps_setSensor; assumption; exact Nat.le_refl _; exact Nat.le_refl _); (dsimp +zetaDelta only; split)
  split; with_reducible apply keeps_thermalTrip; split
  with_reducible (apply Keeps.put; apply keeps_setSensor; assumption; exact Nat.le_refl _; apply Keeps.put); lift_lets
  with_reducible (apply Keeps.put; apply keeps_setSensor; assumption; exact Nat.le_refl _; exact Nat.le_refl _); split
  with_reducible (apply Keeps.put; apply keeps_setSensor; assumption; exact Nat.le_refl _; apply Keeps.put); lift_lets
  with_reducible (apply Keeps.put; apply keeps_setSensor; assumption; exact Nat.le_refl _; exact Nat.le_refl _); split
  with_reducible apply keeps_thermalTrip; split
  with_reducible (apply Keeps.put; apply keeps_setSensor; assumption; exact Nat.le_refl _; apply Keeps.put); lift_lets
  with_reducible (apply Keeps.put; apply keeps_setSensor; assumption; exact Nat.le_refl _; exact Nat.le_refl _); split
  with_reducible (apply Keeps.put; apply keeps_setSensor; assumption; exact Nat.le_refl _; apply Keeps.put); lift_lets
  with_reducible (apply Keeps.put; apply keeps_setSensor; assumption; exact Nat.le_refl _; exact Nat.le_refl _)
theorem keeps_execClockChangeDone {s t : State} (h : Keeps s t)  : KeepsX s (execClockChangeDone t) := by
  unfold execClockChangeDone
  with_reducible apply KeepsX.next; split; with_reducible (apply Keeps.foldl; apply keeps_setClock); lift_lets
  (with_reducible intro; with_reducible intros; try beta_reduce; try lift_lets)
  with_reducible (apply Keeps.put; assumption; exact Nat.le_refl _)
  (with_reducible intro; with_reducible intros; try beta_reduce; try lift_lets)
  with_reducible (apply keeps_pumpEngine; assumption; assumption)
theorem keeps_execClockStep {s t : State} (h : Keeps s t) (x1) (x2) : KeepsX s (execClockStep x1 x2 t) := by
  unfold execClockStep
  repeat' first
    | with_reducible assumption | exact KeepsX.refused | exact KeepsX.fault | with_reducible apply KeepsX.next | with_reducible apply keeps_clockStep
    | split | ((try lift_lets); intro z; refine Keeps.named (s := s) (z := z) ?_ ?_; (try subst z); rotate_left; intro hz; clear_value z)
    | ((try lift_lets); intro z; clear_value z) | (with_reducible intro; with_reducible intros; try beta_reduce) | dsimp only
theorem keeps_execSensorThreshold {s t : State} (h : Keeps s t) (x1) (x2) : KeepsX s (execSensorThreshold x1 x2 t) := by
  unfold execSensorThreshold
  repeat' first
    | with_reducible assumption | exact KeepsX.refused | exact KeepsX.fault | with_reducible apply KeepsX.next
    | with_reducible apply keeps_sensorCross | split
    | ((try lift_lets); intro z; refine Keeps.named (s := s) (z := z) ?_ ?_; (try subst z); rotate_left; intro hz; clear_value z)
    | ((try lift_lets); intro z; clear_value z) | (with_reducible intro; with_reducible intros; try beta_reduce) | dsimp only

end Sys2Proof.Machine
end

