-- ==== Sys2Proof/Laws/KeepsRows.lean ====
section
/-! SUPPORT. Every operation of streams, the tick, services and the management port keeps the queue, the canonical form of memory and the
generations of contexts, and takes back no draw (`Keeps`). The proofs follow the operations' own shape. -/
namespace Sys2Proof.Machine

/-! ### Stream -/

theorem keeps_deadlinePassed {s t : State} (h : Keeps s t) (x1) (x2) (x3) (x4) : Keeps s (State.deadlinePassed t x1 x2 x3 x4) := by
  unfold State.deadlinePassed
  repeat' first
    | with_reducible assumption | with_reducible apply keeps_modProg | with_reducible apply keeps_count | with_reducible apply keeps_raise
    | with_reducible apply keeps_served | with_reducible apply keeps_placeAll | with_reducible apply keeps_failPart
    | with_reducible apply keeps_failCid | split
    | ((try lift_lets); intro z; refine Keeps.named (s := s) (z := z) ?_ ?_; (try subst z); rotate_left; intro hz; clear_value z)
    | ((try lift_lets); intro z; clear_value z) | (with_reducible intro; with_reducible intros; try beta_reduce) | dsimp only
theorem keeps_fillBuffer {s t : State} (h : Keeps s t) (x1) (x2) (x3) (x4) (x5) : Keeps s (State.fillBuffer t x1 x2 x3 x4 x5) := by
  unfold State.fillBuffer
  with_reducible (apply keeps_setMem; assumption); (with_reducible intro; with_reducible intros; try beta_reduce; try lift_lets)
  with_reducible (apply memWf_foldl; assumption); (with_reducible intro; with_reducible intros; try beta_reduce; try lift_lets)
  exact memWf_memWrite (by with_reducible assumption) _ _
theorem keeps_landIn {s t : State} (h : Keeps s t) (x1) (x2) (x3) (x4) (x5) (x6) : Keeps s (State.landIn t x1 x2 x3 x4 x5 x6) := by
  unfold State.landIn
  repeat' first
    | with_reducible assumption | with_reducible apply keeps_modProg | with_reducible apply keeps_fillBuffer | split
    | ((try lift_lets); intro z; refine Keeps.named (s := s) (z := z) ?_ ?_; (try subst z); rotate_left; intro hz; clear_value z)
    | ((try lift_lets); intro z; clear_value z) | (with_reducible intro; with_reducible intros; try beta_reduce) | dsimp only
theorem keeps_deliver {s t : State} (h : Keeps s t) (x1) (x2) (x3) (x4) (x5) : Keeps s (State.deliver t x1 x2 x3 x4 x5) := by
  unfold State.deliver
  repeat' first
    | with_reducible assumption | with_reducible apply keeps_writeCells | with_reducible apply keeps_modCmd | with_reducible apply keeps_landIn
    | with_reducible apply Keeps.foldl | with_reducible apply KeepsP.foldl | (with_reducible apply KeepsP.fst; with_reducible apply KeepsP.foldl)
    | split | ((try lift_lets); intro z; refine Keeps.named (s := s) (z := z) ?_ ?_; (try subst z); rotate_left; intro hz; clear_value z)
    | ((try lift_lets); intro z; clear_value z) | (with_reducible intro; with_reducible intros; try beta_reduce) | dsimp only
theorem keeps_endReceives {s t : State} (h : Keeps s t) (x1) (x2) (x3) : Keeps s (State.endReceives t x1 x2 x3) := by
  unfold State.endReceives
  split; with_reducible (assumption; apply Keeps.foldl; assumption)
  (with_reducible intro; with_reducible intros; try beta_reduce; try lift_lets); split; split
  with_reducible (apply keeps_modProg; assumption; assumption; assumption)
theorem keeps_granuleEcc {s t : State} (h : Keeps s t) (x1) (x2) (x3) : Keeps s (State.granuleEcc t x1 x2 x3) := by
  unfold State.granuleEcc
  repeat' first
    | with_reducible assumption | with_reducible apply keeps_eccEvent | with_reducible apply keeps_poisonPages | split
    | ((try lift_lets); intro z; refine Keeps.named (s := s) (z := z) ?_ ?_; (try subst z); rotate_left; intro hz; clear_value z)
    | ((try lift_lets); intro z; clear_value z) | (with_reducible intro; with_reducible intros; try beta_reduce) | dsimp only
theorem keeps_lateArrive {s t : State} (h : Keeps s t) (x1) (x2) (x3) (x4) : Keeps s (State.lateArrive t x1 x2 x3 x4) := by
  unfold State.lateArrive
  repeat' first
    | with_reducible assumption | with_reducible apply keeps_count | with_reducible apply keeps_granuleEcc | with_reducible apply keeps_genDrop
    | with_reducible apply keeps_pumpEngine | with_reducible apply keeps_modSlice | split
    | ((try lift_lets); intro z; refine Keeps.named (s := s) (z := z) ?_ ?_; (try subst z); rotate_left; intro hz; clear_value z)
    | ((try lift_lets); intro z; clear_value z) | (with_reducible intro; with_reducible intros; try beta_reduce) | dsimp only
theorem keeps_granuleArrive {s t : State} (h : Keeps s t) (x1) (x2) (x3) (x4) : Keeps s (State.granuleArrive t x1 x2 x3 x4) := by
  unfold State.granuleArrive
  repeat' first
    | with_reducible assumption | with_reducible apply keeps_granuleEcc | with_reducible apply keeps_t1Access | with_reducible apply keeps_served
    | with_reducible apply keeps_placeAll | with_reducible apply keeps_failPart | with_reducible apply keeps_modProg
    | with_reducible apply keeps_pumpEngine | with_reducible apply keeps_count | with_reducible apply keeps_endReceives
    | with_reducible apply keeps_deliver | with_reducible apply keeps_lateArrive | split
    | ((try lift_lets); intro z; refine Keeps.named (s := s) (z := z) ?_ ?_; (try subst z); rotate_left; intro hz; clear_value z)
    | ((try lift_lets); intro z; clear_value z) | (with_reducible intro; with_reducible intros; try beta_reduce) | dsimp only
theorem keeps_granuleFault {s t : State} (h : Keeps s t) (x1) (x2) (x3) : Keeps s (State.granuleFault t x1 x2 x3) := by
  unfold State.granuleFault
  (dsimp +zetaDelta only; split); split; with_reducible assumption; split; with_reducible (apply keeps_modProg; apply keeps_count; assumption)
  split; with_reducible (apply keeps_served; apply keeps_placeAll; apply keeps_failFault; apply keeps_modProg); lift_lets
  with_reducible (apply KeepsP.fst; apply keeps_fault; apply keeps_modProg; apply keeps_count; assumption; apply keeps_modProg); lift_lets
  with_reducible (apply KeepsP.fst; apply keeps_fault; apply keeps_modProg; apply keeps_count; assumption; assumption)
theorem keeps_multicast {s t : State} (h : Keeps s t) (x1) (x2) : Keeps s (State.multicast t x1 x2) := by
  unfold State.multicast
  repeat' first
    | with_reducible assumption | with_reducible apply keeps_modProg | with_reducible apply keeps_served | with_reducible apply keeps_placeAll
    | with_reducible apply keeps_failCid | with_reducible apply Keeps.foldl | with_reducible apply KeepsP.foldl
    | (with_reducible apply KeepsP.fst; with_reducible apply KeepsP.foldl) | split
    | ((try lift_lets); intro z; refine Keeps.named (s := s) (z := z) ?_ ?_; (try subst z); rotate_left; intro hz; clear_value z)
    | ((try lift_lets); intro z; clear_value z) | (with_reducible intro; with_reducible intros; try beta_reduce) | dsimp only
theorem keeps_stream {s t : State} (h : Keeps s t) (x1 x2 x3) {f} (hf : ∀ a c p, Keeps s a → Keeps s (f a c p)) : Keeps s (State.stream t x1 x2 x3 f) := by
  unfold State.stream
  split
  · split
    · exact hf _ _ _ h
    · exact h
  · exact h
theorem keeps_streamOwn {s t : State} (h : Keeps s t) (x1) (x2) (x3) (x4) : KeepsX s (State.streamOwn t x1 x2 x3 x4) := by
  unfold State.streamOwn
  exact KeepsX.next (keeps_stream h _ _ _ fun a _ _ ha => keeps_modProg ha ..)
theorem keeps_execStreamEnd {s t : State} (h : Keeps s t) (x1) (x2) : KeepsX s (execStreamEnd x1 x2 t) := by
  unfold execStreamEnd
  repeat' first
    | with_reducible assumption | exact KeepsX.refused | exact KeepsX.fault | with_reducible apply KeepsX.next | with_reducible apply keeps_streamOwn
    | with_reducible apply keeps_finish | split
    | ((try lift_lets); intro z; refine Keeps.named (s := s) (z := z) ?_ ?_; (try subst z); rotate_left; intro hz; clear_value z)
    | ((try lift_lets); intro z; clear_value z) | (with_reducible intro; with_reducible intros; try beta_reduce) | dsimp only
theorem keeps_execStreamAddr {s t : State} (h : Keeps s t) (x1) (x2) (x3) (x4) : KeepsX s (execStreamAddr x1 x2 x3 x4 t) := by
  unfold execStreamAddr
  repeat' first
    | with_reducible assumption | exact KeepsX.refused | exact KeepsX.fault | with_reducible apply KeepsX.next | with_reducible apply keeps_streamOwn
    | split | ((try lift_lets); intro z; refine Keeps.named (s := s) (z := z) ?_ ?_; (try subst z); rotate_left; intro hz; clear_value z)
    | ((try lift_lets); intro z; clear_value z) | (with_reducible intro; with_reducible intros; try beta_reduce) | dsimp only
theorem keeps_execStreamLoff {s t : State} (h : Keeps s t) (x1) (x2) (x3) (x4) : KeepsX s (execStreamLoff x1 x2 x3 x4 t) := by
  unfold execStreamLoff
  repeat' first
    | with_reducible assumption | exact KeepsX.refused | exact KeepsX.fault | with_reducible apply KeepsX.next | with_reducible apply keeps_streamOwn
    | split | ((try lift_lets); intro z; refine Keeps.named (s := s) (z := z) ?_ ?_; (try subst z); rotate_left; intro hz; clear_value z)
    | ((try lift_lets); intro z; clear_value z) | (with_reducible intro; with_reducible intros; try beta_reduce) | dsimp only
theorem keeps_execStreamDim {s t : State} (h : Keeps s t) (x1) (x2) (x3) (x4) (x5) : KeepsX s (execStreamDim x1 x2 x3 x4 x5 t) := by
  unfold execStreamDim
  repeat' first
    | with_reducible assumption | exact KeepsX.refused | exact KeepsX.fault | with_reducible apply KeepsX.next | with_reducible apply keeps_streamOwn
    | split | ((try lift_lets); intro z; refine Keeps.named (s := s) (z := z) ?_ ?_; (try subst z); rotate_left; intro hz; clear_value z)
    | ((try lift_lets); intro z; clear_value z) | (with_reducible intro; with_reducible intros; try beta_reduce) | dsimp only
theorem keeps_execStreamLdim {s t : State} (h : Keeps s t) (x1) (x2) (x3) (x4) : KeepsX s (execStreamLdim x1 x2 x3 x4 t) := by
  unfold execStreamLdim
  repeat' first
    | with_reducible assumption | exact KeepsX.refused | exact KeepsX.fault | with_reducible apply KeepsX.next | with_reducible apply keeps_streamOwn
    | split | ((try lift_lets); intro z; refine Keeps.named (s := s) (z := z) ?_ ?_; (try subst z); rotate_left; intro hz; clear_value z)
    | ((try lift_lets); intro z; clear_value z) | (with_reducible intro; with_reducible intros; try beta_reduce) | dsimp only
theorem keeps_execStreamBufdef {s t : State} (h : Keeps s t) (x1) (x2) (x3) (x4) (x5) : KeepsX s (execStreamBufdef x1 x2 x3 x4 x5 t) := by
  unfold execStreamBufdef
  repeat' first
    | with_reducible assumption | exact KeepsX.refused | exact KeepsX.fault | with_reducible apply KeepsX.next | with_reducible apply keeps_streamOwn
    | split | ((try lift_lets); intro z; refine Keeps.named (s := s) (z := z) ?_ ?_; (try subst z); rotate_left; intro hz; clear_value z)
    | ((try lift_lets); intro z; clear_value z) | (with_reducible intro; with_reducible intros; try beta_reduce) | dsimp only
theorem keeps_execStreamMove {s t : State} (h : Keeps s t) (x1) (x2) (x3) (x4) (x5) (x6) (x7) (x8) (x9) : KeepsX s (execStreamMove x1 x2 x3 x4 x5 x6 x7 x8 x9 t) := by
  unfold execStreamMove
  repeat' first
    | with_reducible assumption | exact KeepsX.refused | exact KeepsX.fault | with_reducible apply KeepsX.next | with_reducible apply keeps_stream
    | with_reducible apply keeps_modCmd | with_reducible apply keeps_pumpEngine | with_reducible apply keeps_modProg | split
    | ((try lift_lets); intro z; refine Keeps.named (s := s) (z := z) ?_ ?_; (try subst z); rotate_left; intro hz; clear_value z)
    | ((try lift_lets); intro z; clear_value z) | (with_reducible intro; with_reducible intros; try beta_reduce) | dsimp only
theorem keeps_execStreamWait {s t : State} (h : Keeps s t) (x1) (x2) (x3) (x4) (x5) (x6) : KeepsX s (execStreamWait x1 x2 x3 x4 x5 x6 t) := by
  unfold execStreamWait
  repeat' first
    | with_reducible assumption | exact KeepsX.refused | exact KeepsX.fault | with_reducible apply KeepsX.next | with_reducible apply keeps_stream
    | with_reducible apply keeps_modProg | split
    | ((try lift_lets); intro z; refine Keeps.named (s := s) (z := z) ?_ ?_; (try subst z); rotate_left; intro hz; clear_value z)
    | ((try lift_lets); intro z; clear_value z) | (with_reducible intro; with_reducible intros; try beta_reduce) | dsimp only
theorem keeps_execWaitResume {s t : State} (h : Keeps s t) (x1) (x2) : KeepsX s (execWaitResume x1 x2 t) := by
  unfold execWaitResume
  repeat' first
    | with_reducible assumption | exact KeepsX.refused | exact KeepsX.fault | with_reducible apply KeepsX.next | with_reducible apply keeps_modProg
    | split | ((try lift_lets); intro z; refine Keeps.named (s := s) (z := z) ?_ ?_; (try subst z); rotate_left; intro hz; clear_value z)
    | ((try lift_lets); intro z; clear_value z) | (with_reducible intro; with_reducible intros; try beta_reduce) | dsimp only
theorem keeps_execStreamSignal {s t : State} (h : Keeps s t) (x1) (x2) (x3) (x4) (x5) (x6) : KeepsX s (execStreamSignal x1 x2 x3 x4 x5 x6 t) := by
  unfold execStreamSignal
  repeat' first
    | with_reducible assumption | exact KeepsX.refused | exact KeepsX.fault | with_reducible apply KeepsX.next | with_reducible apply keeps_stream
    | with_reducible apply keeps_modProg | with_reducible apply keeps_modCmd | split
    | ((try lift_lets); intro z; refine Keeps.named (s := s) (z := z) ?_ ?_; (try subst z); rotate_left; intro hz; clear_value z)
    | ((try lift_lets); intro z; clear_value z) | (with_reducible intro; with_reducible intros; try beta_reduce) | dsimp only
theorem keeps_execStreamRep {s t : State} (h : Keeps s t) (x1) (x2) (x3) (x4) (x5) : KeepsX s (execStreamRep x1 x2 x3 x4 x5 t) := by
  unfold execStreamRep
  repeat' first
    | with_reducible assumption | exact KeepsX.refused | exact KeepsX.fault | with_reducible apply KeepsX.next | with_reducible apply keeps_streamOwn
    | split | ((try lift_lets); intro z; refine Keeps.named (s := s) (z := z) ?_ ?_; (try subst z); rotate_left; intro hz; clear_value z)
    | ((try lift_lets); intro z; clear_value z) | (with_reducible intro; with_reducible intros; try beta_reduce) | dsimp only
theorem keeps_execStreamStep {s t : State} (h : Keeps s t) (x1) (x2) (x3) (x4) (x5) : KeepsX s (execStreamStep x1 x2 x3 x4 x5 t) := by
  unfold execStreamStep
  repeat' first
    | with_reducible assumption | exact KeepsX.refused | exact KeepsX.fault | with_reducible apply KeepsX.next | with_reducible apply keeps_streamOwn
    | split | ((try lift_lets); intro z; refine Keeps.named (s := s) (z := z) ?_ ?_; (try subst z); rotate_left; intro hz; clear_value z)
    | ((try lift_lets); intro z; clear_value z) | (with_reducible intro; with_reducible intros; try beta_reduce) | dsimp only
theorem keeps_execStreamDeadline {s t : State} (h : Keeps s t) (x1) (x2) (x3) (x4) (x5) (x6) : KeepsX s (execStreamDeadline x1 x2 x3 x4 x5 x6 t) := by
  unfold execStreamDeadline
  repeat' first
    | with_reducible assumption | exact KeepsX.refused | exact KeepsX.fault | with_reducible apply KeepsX.next | with_reducible apply keeps_stream
    | with_reducible apply keeps_modProg | split
    | ((try lift_lets); intro z; refine Keeps.named (s := s) (z := z) ?_ ?_; (try subst z); rotate_left; intro hz; clear_value z)
    | ((try lift_lets); intro z; clear_value z) | (with_reducible intro; with_reducible intros; try beta_reduce) | dsimp only
theorem keeps_execStreamRecv {s t : State} (h : Keeps s t) (x1) (x2) (x3) (x4) : KeepsX s (execStreamRecv x1 x2 x3 x4 t) := by
  unfold execStreamRecv
  repeat' first
    | with_reducible assumption | exact KeepsX.refused | exact KeepsX.fault | with_reducible apply KeepsX.next | with_reducible apply keeps_stream
    | with_reducible apply keeps_modProg | with_reducible apply keeps_modCmd | split
    | ((try lift_lets); intro z; refine Keeps.named (s := s) (z := z) ?_ ?_; (try subst z); rotate_left; intro hz; clear_value z)
    | ((try lift_lets); intro z; clear_value z) | (with_reducible intro; with_reducible intros; try beta_reduce) | dsimp only
theorem keeps_execMulticastRequest {s t : State} (h : Keeps s t) (x1) (x2) : KeepsX s (execMulticastRequest x1 x2 t) := by
  unfold execMulticastRequest
  repeat' first
    | with_reducible assumption | exact KeepsX.refused | exact KeepsX.fault | with_reducible apply KeepsX.next | with_reducible apply keeps_multicast
    | split | ((try lift_lets); intro z; refine Keeps.named (s := s) (z := z) ?_ ?_; (try subst z); rotate_left; intro hz; clear_value z)
    | ((try lift_lets); intro z; clear_value z) | (with_reducible intro; with_reducible intros; try beta_reduce) | dsimp only
theorem keeps_execGranuleArrival {s t : State} (h : Keeps s t) (x1) (x2) (x3) (x4) : KeepsX s (execGranuleArrival x1 x2 x3 x4 t) := by
  unfold execGranuleArrival
  repeat' first
    | with_reducible assumption | exact KeepsX.refused | exact KeepsX.fault | with_reducible apply KeepsX.next | with_reducible apply keeps_placeAll
    | with_reducible apply keeps_granuleArrive | split
    | ((try lift_lets); intro z; refine Keeps.named (s := s) (z := z) ?_ ?_; (try subst z); rotate_left; intro hz; clear_value z)
    | ((try lift_lets); intro z; clear_value z) | (with_reducible intro; with_reducible intros; try beta_reduce) | dsimp only
theorem keeps_execDeadlineExpiry {s t : State} (h : Keeps s t) (x1) (x2) (x3) (x4) : KeepsX s (execDeadlineExpiry x1 x2 x3 x4 t) := by
  unfold execDeadlineExpiry
  repeat' first
    | with_reducible assumption | exact KeepsX.refused | exact KeepsX.fault | with_reducible apply KeepsX.next
    | with_reducible apply keeps_deadlinePassed | split
    | ((try lift_lets); intro z; refine Keeps.named (s := s) (z := z) ?_ ?_; (try subst z); rotate_left; intro hz; clear_value z)
    | ((try lift_lets); intro z; clear_value z) | (with_reducible intro; with_reducible intros; try beta_reduce) | dsimp only
theorem keeps_execGranuleFault {s t : State} (h : Keeps s t) (x1) (x2) (x3) : KeepsX s (execGranuleFault x1 x2 x3 t) := by
  unfold execGranuleFault
  repeat' first
    | with_reducible assumption | exact KeepsX.refused | exact KeepsX.fault | with_reducible apply KeepsX.next
    | with_reducible apply keeps_granuleFault | split
    | ((try lift_lets); intro z; refine Keeps.named (s := s) (z := z) ?_ ?_; (try subst z); rotate_left; intro hz; clear_value z)
    | ((try lift_lets); intro z; clear_value z) | (with_reducible intro; with_reducible intros; try beta_reduce) | dsimp only

/-! ### TickRows -/

theorem keeps_replaceRest {s t : State} (h : Keeps s t) (x1) : Keeps s (State.replaceRest t x1) := by
  unfold State.replaceRest
  repeat' first
    | with_reducible assumption | with_reducible apply keeps_modCmd | with_reducible apply keeps_modSched | split
    | ((try lift_lets); intro z; refine Keeps.named (s := s) (z := z) ?_ ?_; (try subst z); rotate_left; intro hz; clear_value z)
    | ((try lift_lets); intro z; clear_value z) | (with_reducible intro; with_reducible intros; try beta_reduce) | dsimp only
theorem keeps_replaceColls {s t : State} (h : Keeps s t) : Keeps s (State.replaceColls t) := by
  unfold State.replaceColls
  repeat' first
    | with_reducible assumption | with_reducible apply keeps_modCmd | with_reducible apply keeps_unplace | with_reducible apply keeps_replaceRest
    | with_reducible apply Keeps.foldl | with_reducible apply KeepsP.foldl | (with_reducible apply KeepsP.fst; with_reducible apply KeepsP.foldl)
    | split | ((try lift_lets); intro z; refine Keeps.named (s := s) (z := z) ?_ ?_; (try subst z); rotate_left; intro hz; clear_value z)
    | ((try lift_lets); intro z; clear_value z) | (with_reducible intro; with_reducible intros; try beta_reduce) | dsimp only
theorem keeps_applyTiming {s t : State} (h : Keeps s t)  : Keeps s (State.applyTiming t) := by
  unfold State.applyTiming
  split; with_reducible assumption; split; with_reducible (assumption; apply keeps_replaceColls); split
  with_reducible (apply Keeps.put; assumption; exact Nat.le_refl _; apply Keeps.put; assumption; exact Nat.le_refl _)
theorem keeps_beats {s t : State} (h : Keeps s t)  : Keeps s (State.beats t) := by
  unfold State.beats
  with_reducible (apply Keeps.foldl; assumption); (with_reducible intro; with_reducible intros; try beta_reduce; try lift_lets); split
  with_reducible (apply keeps_modLink; assumption; assumption)
theorem keeps_refills {s t : State} (h : Keeps s t) (x1) : Keeps s (State.refills t x1) := by
  unfold State.refills
  with_reducible (apply keeps_modRas; assumption)
theorem keeps_elapse {s t : State} (h : Keeps s t) (x1) : Keeps s (State.elapse t x1) := by
  unfold State.elapse
  repeat' first
    | with_reducible assumption | exact Nat.le_refl _ | exact Nat.le_succ _ | with_reducible apply keeps_refills
    | with_reducible apply keeps_mirSettle | (with_reducible apply Keeps.put; with_reducible assumption)
    | (with_reducible apply Keeps.putCtxs; with_reducible assumption)
    | (with_reducible apply Keeps.put; first | with_reducible apply keeps_refills | with_reducible apply keeps_mirSettle)
    | (intro g; exact gensOk_map g _ (by intro x hx; exact hx)) | (intro x hx; (try dsimp only); (repeat' split) <;> first | exact hx | decide)
    | split | ((try lift_lets); intro z; refine Keeps.named (s := s) (z := z) ?_ ?_; (try subst z); rotate_left; intro hz; clear_value z)
    | ((try lift_lets); intro z; (have _ : z = t.free := by subst z; rfl); subst z) | ((try lift_lets); intro z; clear_value z)
    | (with_reducible intro; with_reducible intros; try beta_reduce) | dsimp only
theorem keeps_nextTick {s t : State} (h : Keeps s t)  : Keeps s (State.nextTick t) := by
  unfold State.nextTick
  with_reducible apply keeps_applyTiming; lift_lets; (with_reducible intro; with_reducible intros; try beta_reduce; try lift_lets)
  with_reducible (apply Keeps.put; apply keeps_closeWindow; assumption; exact Nat.le_refl _)
theorem keeps_repayRoom {s t : State} (h : Keeps s t) (x1) (x2) (x3) : Keeps s (State.repayRoom t x1 x2 x3) := by
  induction x3 generalizing t x1 x2 with
  | zero =>
    unfold State.repayRoom
    repeat' first
      | with_reducible assumption | with_reducible apply keeps_modSched | with_reducible apply keeps_unplace | with_reducible apply keeps_rollback
      | with_reducible apply keeps_modCmd | split
      | ((try lift_lets); intro z; refine Keeps.named (s := s) (z := z) ?_ ?_; (try subst z); rotate_left; intro hz; clear_value z)
      | ((try lift_lets); intro z; clear_value z) | (with_reducible intro; with_reducible intros; try beta_reduce) | dsimp only
  | succ n ih =>
    unfold State.repayRoom
    repeat' first
      | with_reducible assumption | with_reducible apply keeps_modSched | with_reducible apply keeps_unplace | with_reducible apply keeps_rollback
      | with_reducible apply keeps_modCmd | with_reducible apply ih | split
      | ((try lift_lets); intro z; refine Keeps.named (s := s) (z := z) ?_ ?_; (try subst z); rotate_left; intro hz; clear_value z)
      | ((try lift_lets); intro z; clear_value z) | (with_reducible intro; with_reducible intros; try beta_reduce) | dsimp only
theorem keeps_repay {s t : State} (h : Keeps s t) (x1) (x2) : Keeps s (State.repay t x1 x2) := by
  unfold State.repay
  repeat' first
    | with_reducible assumption | with_reducible apply keeps_modSched | with_reducible apply keeps_modCtx | with_reducible apply keeps_repayRoom
    | (intro x hx; (try dsimp only); (repeat' split) <;> first | exact hx | decide) | split
    | ((try lift_lets); intro z; refine Keeps.named (s := s) (z := z) ?_ ?_; (try subst z); rotate_left; intro hz; clear_value z)
    | ((try lift_lets); intro z; clear_value z) | (with_reducible intro; with_reducible intros; try beta_reduce) | dsimp only
theorem keeps_reserve {s t : State} (h : Keeps s t)  : Keeps s (State.reserve t) := by
  unfold State.reserve
  with_reducible (apply Keeps.foldl; assumption); (with_reducible intro; with_reducible intros; try beta_reduce; try lift_lets)
  (with_reducible intro; with_reducible intros; try beta_reduce; try lift_lets)
  with_reducible (apply keeps_modCmd; apply keeps_modSched; assumption)
theorem keeps_tickModes {s t : State} (h : Keeps s t)  : Keeps s (State.tickModes t) := by
  unfold State.tickModes
  lift_lets; (with_reducible intro; with_reducible intros; try beta_reduce; try lift_lets)
  with_reducible (apply Keeps.put; apply keeps_guardEffect; assumption; exact Nat.le_refl _)
theorem keeps_tickLive {s t : State} (h : Keeps s t)  : Keeps s (State.tickLive t) := by
  unfold State.tickLive
  with_reducible (apply Keeps.foldl; assumption); (with_reducible intro; with_reducible intros; try beta_reduce; try lift_lets)
  with_reducible (apply keeps_tryIssue; assumption)
theorem keeps_tickPlan {s t : State} (h : Keeps s t)  : Keeps s (State.tickPlan t) := by
  unfold State.tickPlan
  with_reducible (apply keeps_placeAll; apply keeps_reserve; apply Keeps.foldl; apply keeps_modSched; assumption)
  (with_reducible intro; with_reducible intros; try beta_reduce; try lift_lets); with_reducible (apply Keeps.foldl; assumption)
  (with_reducible intro; with_reducible intros; try beta_reduce; try lift_lets); with_reducible (apply keeps_repay; assumption)
theorem keeps_serveDeadlines {s t : State} (h : Keeps s t) : Keeps s (State.serveDeadlines t) := by
  unfold State.serveDeadlines
  repeat' first
    | with_reducible assumption | exact Nat.le_refl _ | exact Nat.le_succ _ | with_reducible apply keeps_count | with_reducible apply keeps_placeAll
    | with_reducible apply keeps_failPart | with_reducible apply keeps_failCid | with_reducible apply keeps_raise | with_reducible apply Keeps.foldl
    | with_reducible apply KeepsP.foldl | (with_reducible apply KeepsP.fst; with_reducible apply KeepsP.foldl)
    | (with_reducible apply Keeps.put; with_reducible assumption) | (with_reducible apply Keeps.putCtxs; with_reducible assumption)
    | (with_reducible apply Keeps.put; first | with_reducible apply keeps_count | with_reducible apply keeps_placeAll | with_reducible apply keeps_failPart | with_reducible apply keeps_failCid | with_reducible apply keeps_raise | with_reducible apply Keeps.foldl)
    | (intro x hx; (try dsimp only); (repeat' split) <;> first | exact hx | decide) | split
    | ((try lift_lets); intro z; refine Keeps.named (s := s) (z := z) ?_ ?_; (try subst z); rotate_left; intro hz; clear_value z)
    | ((try lift_lets); intro z; (have _ : z = t.free := by subst z; rfl); subst z) | ((try lift_lets); intro z; clear_value z)
    | (with_reducible intro; with_reducible intros; try beta_reduce) | dsimp only
theorem keeps_tickEdge {s t : State} (h : Keeps s t) : Keeps s (State.tickEdge t) := by
  unfold State.tickEdge
  repeat' first
    | with_reducible assumption | with_reducible apply keeps_elapse | with_reducible apply keeps_tickModes | with_reducible apply keeps_nextTick
    | with_reducible apply keeps_beats | with_reducible apply keeps_served | with_reducible apply keeps_serveDeadlines
    | with_reducible apply keeps_tickLive | with_reducible apply keeps_tickPlan | split
    | ((try lift_lets); intro z; refine Keeps.named (s := s) (z := z) ?_ ?_; (try subst z); rotate_left; intro hz; clear_value z)
    | ((try lift_lets); intro z; clear_value z) | (with_reducible intro; with_reducible intros; try beta_reduce) | dsimp only
theorem keeps_execTick {s t : State} (h : Keeps s t)  : KeepsX s (execTick t) := by
  unfold execTick
  with_reducible apply KeepsX.next; split; with_reducible (apply keeps_tickEdge; assumption; assumption)

/-! ### Services -/

theorem keeps_admitJoiner {s t : State} (h : Keeps s t) (x1) (x2) : Keeps s (State.admitJoiner t x1 x2) := by
  unfold State.admitJoiner
  split; with_reducible (apply keeps_send; assumption); split; with_reducible (apply keeps_send; assumption); split
  with_reducible (apply keeps_send; assumption); (dsimp +zetaDelta only; split); with_reducible (apply keeps_send; assumption); split
  with_reducible (apply Keeps.put; apply keeps_dropChange; assumption; exact Nat.le_refl _; apply Keeps.foldl; apply keeps_beginChange)
  with_reducible (apply keeps_dropChange; assumption); (with_reducible intro; with_reducible intros; try beta_reduce; try lift_lets)
  with_reducible (apply keeps_send; assumption)
theorem keeps_endOwnChange {s t : State} (h : Keeps s t) (x1) (x2) : Keeps s (State.endOwnChange t x1 x2) := by
  unfold State.endOwnChange
  with_reducible (apply Keeps.foldl; assumption); (with_reducible intro; with_reducible intros; try beta_reduce; try lift_lets)
  (with_reducible intro; with_reducible intros; try beta_reduce; try lift_lets); split
  with_reducible (apply keeps_endCmd; apply keeps_dropChange; assumption; apply keeps_dropChange; assumption)
theorem keeps_compareHash {s t : State} (h : Keeps s t) (x1) (x2) (x3) : Keeps s (State.compareHash t x1 x2 x3) := by
  unfold State.compareHash
  (dsimp +zetaDelta only; split); with_reducible apply keeps_endOwnChange; lift_lets
  with_reducible (apply Keeps.put; assumption; exact Nat.le_refl _; apply Keeps.put; assumption; exact Nat.le_refl _)
theorem keeps_takeBoundary {s t : State} (h : Keeps s t) (x1) (x2) : Keeps s (State.takeBoundary t x1 x2) := by
  unfold State.takeBoundary
  with_reducible (apply Keeps.put; assumption; exact Nat.le_refl _)
theorem keeps_takeChange {s t : State} (h : Keeps s t) (x1) (x2) (x3) (x4) (x5) : Keeps s (State.takeChange t x1 x2 x3 x4 x5) := by
  unfold State.takeChange
  split; with_reducible assumption; split; with_reducible (assumption; apply keeps_tellJob; apply keeps_noteChange; assumption)
theorem keeps_takeChanged {s t : State} (h : Keeps s t) (x1) (x2) : Keeps s (State.takeChanged t x1 x2) := by
  unfold State.takeChanged
  with_reducible (apply Keeps.foldl; assumption); (with_reducible intro; with_reducible intros; try beta_reduce; try lift_lets)
  (with_reducible intro; with_reducible intros; try beta_reduce; try lift_lets); split
  with_reducible (apply keeps_enterFencing; apply keeps_applyChange; assumption; apply keeps_applyChange; assumption)
theorem keeps_takeAdmitted {s t : State} (h : Keeps s t) (x1) (x2) (x3) (x4) (x5) (x6) (x7) (x8) : Keeps s (State.takeAdmitted t x1 x2 x3 x4 x5 x6 x7 x8) := by
  unfold State.takeAdmitted
  repeat' first
    | with_reducible assumption | exact Nat.le_refl _ | exact Nat.le_succ _ | with_reducible apply keeps_endOwnChange
    | (with_reducible apply Keeps.put; with_reducible assumption) | (with_reducible apply Keeps.putCtxs; with_reducible assumption)
    | (with_reducible apply Keeps.put; first | with_reducible apply keeps_endOwnChange)
    | (intro x hx; (try dsimp only); (repeat' split) <;> first | exact hx | decide) | split
    | ((try lift_lets); intro z; refine Keeps.named (s := s) (z := z) ?_ ?_; (try subst z); rotate_left; intro hz; clear_value z)
    | ((try lift_lets); intro z; (have _ : z = t.free := by subst z; rfl); subst z) | ((try lift_lets); intro z; clear_value z)
    | (with_reducible intro; with_reducible intros; try beta_reduce) | dsimp only
theorem keeps_takeFailed {s t : State} (h : Keeps s t) (x1) : Keeps s (State.takeFailed t x1) := by
  exact keeps_afterFailure (keeps_noteFailed (keeps_killAffected (keeps_memberLost h ..) ..) ..)
theorem keeps_takeIntercalate {s t : State} (h : Keeps s t) (x1) (x2) (x3) (x4) (x5) : Keeps s (State.takeIntercalate t x1 x2 x3 x4 x5) := by
  unfold State.takeIntercalate
  split; with_reducible assumption; (dsimp +zetaDelta only; split)
  with_reducible (apply Keeps.put; assumption; exact Nat.le_refl _; apply keeps_packet); lift_lets
  with_reducible (apply Keeps.put; assumption; exact Nat.le_refl _)
theorem keeps_takeInstalled {s t : State} (h : Keeps s t) (x1) (x2) (x3) : Keeps s (State.takeInstalled t x1 x2 x3) := by
  unfold State.takeInstalled
  with_reducible apply keeps_retryWeights; lift_lets; (with_reducible intro; with_reducible intros; try beta_reduce; try lift_lets)
  with_reducible (apply Keeps.put; assumption; exact Nat.le_refl _)
theorem keeps_service {s t : State} (h : Keeps s t) (x1) (x2) : Keeps s (State.service t x1 x2) := by
  unfold State.service
  repeat' first
    | with_reducible assumption | exact Nat.le_refl _ | exact Nat.le_succ _ | with_reducible apply keeps_takeBoundary
    | with_reducible apply keeps_takeChange | with_reducible apply keeps_takeChanged | with_reducible apply keeps_takeAdmitted
    | with_reducible apply keeps_endOwnChange | with_reducible apply keeps_takeFailed | with_reducible apply keeps_takeIntercalate
    | with_reducible apply keeps_takeInstalled | with_reducible apply keeps_admitJoiner | with_reducible apply keeps_compareHash
    | with_reducible apply keeps_resumeChanges | (with_reducible apply Keeps.put; with_reducible assumption)
    | (with_reducible apply Keeps.putCtxs; with_reducible assumption)
    | (with_reducible apply Keeps.put; first | with_reducible apply keeps_takeBoundary | with_reducible apply keeps_takeChange | with_reducible apply keeps_takeChanged | with_reducible apply keeps_takeAdmitted | with_reducible apply keeps_endOwnChange | with_reducible apply keeps_takeFailed | with_reducible apply keeps_takeIntercalate | with_reducible apply keeps_takeInstalled | with_reducible apply keeps_admitJoiner | with_reducible apply keeps_compareHash | with_reducible apply keeps_resumeChanges)
    | (intro x hx; (try dsimp only); (repeat' split) <;> first | exact hx | decide) | split
    | ((try lift_lets); intro z; refine Keeps.named (s := s) (z := z) ?_ ?_; (try subst z); rotate_left; intro hz; clear_value z)
    | ((try lift_lets); intro z; (have _ : z = t.free := by subst z; rfl); subst z) | ((try lift_lets); intro z; clear_value z)
    | (with_reducible intro; with_reducible intros; try beta_reduce) | dsimp only
theorem keeps_execFabService {s t : State} (h : Keeps s t) (x1) (x2) : KeepsX s (execFabService x1 x2 t) := by
  unfold execFabService
  repeat' first
    | with_reducible assumption | exact KeepsX.refused | exact KeepsX.fault | with_reducible apply KeepsP.mk | with_reducible apply KeepsX.next
    | (with_reducible apply KeepsP.fst; with_reducible apply keeps_arrive) | with_reducible apply keeps_arrive | with_reducible apply keeps_served
    | with_reducible apply keeps_service | split
    | ((try lift_lets); intro z; refine Keeps.named (s := s) (z := z) ?_ ?_; (try subst z); rotate_left; intro hz; clear_value z)
    | ((try lift_lets); intro z; refine KeepsP.named (s := s) (z := z) ?_ ?_; (try subst z); rotate_left; intro hz; clear_value z)
    | (with_reducible apply KeepsP.fst; with_reducible apply KeepsP.mk) | (with_reducible apply KeepsP.fst; with_reducible assumption)
    | ((try lift_lets); intro z; clear_value z) | (with_reducible intro; with_reducible intros; try beta_reduce)
    | (refine KeepsP.elim (by with_reducible assumption) ?_) | dsimp only

/-! ### Side -/

theorem keeps_respond {s t : State} (h : Keeps s t) (x1) (x2) (x3) : Keeps s (State.respond t x1 x2 x3) := by
  unfold State.respond
  lift_lets; (with_reducible intro; with_reducible intros; try beta_reduce; try lift_lets)
  with_reducible (apply Keeps.put; assumption; exact Nat.le_refl _)
theorem keeps_activate {s t : State} (h : Keeps s t)  : Keeps s (State.activate t) := by
  unfold State.activate
  split; with_reducible (apply keeps_respond; assumption); split; (dsimp +zetaDelta only; split); with_reducible apply keeps_releaseVigil
  lift_lets; with_reducible (apply Keeps.put; apply keeps_respond; assumption; exact Nat.le_refl _; apply keeps_respond; assumption); lift_lets
  (with_reducible intro; with_reducible intros; try beta_reduce; try lift_lets)
  with_reducible (apply Keeps.put; apply keeps_respond; assumption; exact Nat.le_refl _)
theorem keeps_answer {s t : State} (h : Keeps s t) {u : State} (k : Keeps s u) : KeepsX s (State.answer t u) := by
  unfold State.answer
  with_reducible apply KeepsX.next
  split
  · exact k
  · exact h
theorem keeps_answerSecured {s t : State} (h : Keeps s t) (x1 x2) {u : State} (k : Keeps s u) : KeepsX s (State.answerSecured t x1 x2 u) := by
  unfold State.answerSecured
  with_reducible apply keeps_answer h
  split
  · exact k
  · exact keeps_respond h ..
theorem keeps_jtagLoad {s t : State} (h : Keeps s t) (x1) (x2) : Keeps s (State.jtagLoad t x1 x2) := by
  unfold State.jtagLoad
  lift_lets; (with_reducible intro; with_reducible intros; try beta_reduce; try lift_lets)
  with_reducible (apply Keeps.put; assumption; exact Nat.le_refl _)
theorem keeps_jtagReset {s t : State} (h : Keeps s t)  : Keeps s (State.jtagReset t) := by
  unfold State.jtagReset
  with_reducible apply keeps_holdReset; lift_lets; (with_reducible intro; with_reducible intros; try beta_reduce; try lift_lets)
  with_reducible (apply Keeps.put; assumption; exact Nat.le_refl _)
theorem keeps_mgtReset {s t : State} (h : Keeps s t)  : Keeps s (State.mgtReset t) := by
  unfold State.mgtReset
  split; with_reducible (apply keeps_releaseVigil; apply keeps_respond; assumption); split
  with_reducible (apply keeps_respond; assumption; apply keeps_requestReset; apply keeps_respond; assumption)
theorem keeps_mgtResult {s t : State} (h : Keeps s t) (x1) : Keeps s (State.mgtResult t x1) := by
  unfold State.mgtResult
  split; with_reducible (apply keeps_respond; assumption); split; with_reducible (apply keeps_respond; assumption); split
  with_reducible (apply keeps_respond; assumption; apply keeps_respond; assumption)
theorem keeps_mgtSubmit {s t : State} (h : Keeps s t) (x1) : Keeps s (State.mgtSubmit t x1) := by
  unfold State.mgtSubmit
  split; with_reducible (apply keeps_respond; assumption); split; with_reducible (apply keeps_respond; assumption); split
  with_reducible (apply keeps_respond; assumption; apply keeps_served; apply keeps_packet; apply keeps_respond; apply keeps_modRing; assumption)
theorem keeps_mgtWrite {s t : State} (h : Keeps s t) (x1) (x2) : Keeps s (State.mgtWrite t x1 x2) := by
  unfold State.mgtWrite
  split
  · exact keeps_respond h ..
  · exact keeps_writeAt (keeps_respond h ..) ..
theorem keeps_setOtp {s t : State} (h : Keeps s t) (x1) (x2) : Keeps s (State.setOtp t x1 x2) := by
  unfold State.setOtp
  lift_lets; (with_reducible intro; with_reducible intros; try beta_reduce; try lift_lets)
  with_reducible (apply Keeps.put; assumption; exact Nat.le_refl _)
theorem keeps_otpProgram {s t : State} (h : Keeps s t) (x1) (x2) : Keeps s (State.otpProgram t x1 x2) := by
  unfold State.otpProgram
  split; with_reducible (apply keeps_respond; assumption); split; split
  with_reducible (apply keeps_respond; apply keeps_setOtp; assumption; apply keeps_respond; assumption); split
  with_reducible (apply keeps_respond; assumption); split; with_reducible (apply keeps_respond; assumption); split; split
  with_reducible (apply keeps_respond; apply keeps_setOtp; assumption; apply keeps_respond; apply keeps_setOtp; assumption); split
  with_reducible (apply keeps_respond; apply keeps_setOtp; apply keeps_retirePart; assumption; apply keeps_respond; apply keeps_setOtp)
  with_reducible (apply keeps_retirePart; assumption)
theorem keeps_pubkey {s t : State} (h : Keeps s t) (x1) (x2) (x3) : Keeps s (State.pubkey t x1 x2 x3) := by
  unfold State.pubkey
  split; with_reducible (apply keeps_respond; assumption); split; with_reducible (apply keeps_respond; assumption); split; split
  with_reducible (apply keeps_respond; assumption); (dsimp +zetaDelta only; split); with_reducible apply keeps_respond; lift_lets
  refine KeepsO.elim (by with_reducible assumption) ?_; with_reducible (apply keeps_addKey; assumption; apply keeps_respond; assumption); split
  with_reducible (apply keeps_respond; apply keeps_dropKey; assumption; apply keeps_respond; assumption)
theorem keeps_scanned {s t : State} (h : Keeps s t) (x1) : Keeps s (State.scanned t x1) := by
  unfold State.scanned
  exact (keeps_jtagLoad h ..).put (by show t.free ≤ t.free + 1; omega)
theorem keeps_spdm {s t : State} (h : Keeps s t) (x1) : Keeps s (State.spdm t x1) := by
  unfold State.spdm
  split; split; with_reducible (apply keeps_respond; assumption); split
  with_reducible (apply keeps_respond; assumption; apply keeps_respond; assumption); split
  with_reducible (apply keeps_respond; assumption; apply keeps_respond; assumption); split; with_reducible apply keeps_respond; lift_lets
  (with_reducible intro; with_reducible intros; try beta_reduce; try lift_lets)
  with_reducible (apply Keeps.put; assumption; exact Nat.le_refl _; apply keeps_respond; assumption); split; with_reducible apply keeps_respond
  lift_lets; (with_reducible intro; with_reducible intros; try beta_reduce; try lift_lets)
  with_reducible (apply Keeps.put; assumption; exact Nat.le_refl _; apply keeps_respond; assumption; apply keeps_respond); lift_lets
  (with_reducible intro; with_reducible intros; try beta_reduce; try lift_lets)
  with_reducible (apply Keeps.put; assumption; exact Nat.le_refl _)
theorem keeps_takeAddr {s t : State} (h : Keeps s t) (x1) : Keeps s (State.takeAddr t x1) := by
  unfold State.takeAddr
  lift_lets; (with_reducible intro; with_reducible intros; try beta_reduce; try lift_lets)
  with_reducible (apply Keeps.put; assumption; exact Nat.le_refl _)
theorem keeps_updateBank {s t : State} (h : Keeps s t) (x1) (x2) (x3) : Keeps s (State.updateBank t x1 x2 x3) := by
  unfold State.updateBank
  split; with_reducible (apply keeps_respond; assumption; apply keeps_respond); lift_lets
  (with_reducible intro; with_reducible intros; try beta_reduce; try lift_lets); with_reducible apply Keeps.put; lift_lets
  with_reducible (apply Keeps.put; assumption; exact Nat.le_refl _; exact Nat.le_refl _)
theorem keeps_execEntdaa {s t : State} (h : Keeps s t) (x1) : KeepsX s (execEntdaa x1 t) := by
  unfold execEntdaa
  repeat' first
    | with_reducible assumption | exact KeepsX.refused | exact KeepsX.fault | with_reducible apply KeepsX.next | with_reducible apply keeps_answer
    | with_reducible apply keeps_takeAddr | split
    | ((try lift_lets); intro z; refine Keeps.named (s := s) (z := z) ?_ ?_; (try subst z); rotate_left; intro hz; clear_value z)
    | ((try lift_lets); intro z; clear_value z) | (with_reducible intro; with_reducible intros; try beta_reduce) | dsimp only
theorem keeps_execSetdasa {s t : State} (h : Keeps s t) (x1) (x2) : KeepsX s (execSetdasa x1 x2 t) := by
  unfold execSetdasa
  repeat' first
    | with_reducible assumption | exact KeepsX.refused | exact KeepsX.fault | with_reducible apply KeepsX.next | with_reducible apply keeps_answer
    | with_reducible apply keeps_takeAddr | split
    | ((try lift_lets); intro z; refine Keeps.named (s := s) (z := z) ?_ ?_; (try subst z); rotate_left; intro hz; clear_value z)
    | ((try lift_lets); intro z; clear_value z) | (with_reducible intro; with_reducible intros; try beta_reduce) | dsimp only
theorem keeps_execSmbusFallback {s t : State} (h : Keeps s t) : KeepsX s (execSmbusFallback t) := by
  unfold execSmbusFallback
  repeat' first
    | with_reducible assumption | exact Nat.le_refl _ | exact Nat.le_succ _ | exact KeepsX.refused | exact KeepsX.fault
    | with_reducible apply KeepsX.next | with_reducible apply keeps_answer | (with_reducible apply Keeps.put; with_reducible assumption)
    | (with_reducible apply Keeps.putCtxs; with_reducible assumption) | (with_reducible apply Keeps.put; first | with_reducible apply keeps_answer)
    | (intro x hx; (try dsimp only); (repeat' split) <;> first | exact hx | decide) | split
    | ((try lift_lets); intro z; refine Keeps.named (s := s) (z := z) ?_ ?_; (try subst z); rotate_left; intro hz; clear_value z)
    | ((try lift_lets); intro z; (have _ : z = t.free := by subst z; rfl); subst z) | ((try lift_lets); intro z; clear_value z)
    | (with_reducible intro; with_reducible intros; try beta_reduce) | dsimp only
theorem keeps_execMctpControl {s t : State} (h : Keeps s t) (x1) : KeepsX s (execMctpControl x1 t) := by
  unfold execMctpControl
  repeat' first
    | with_reducible assumption | exact Nat.le_refl _ | exact Nat.le_succ _ | exact KeepsX.refused | exact KeepsX.fault
    | with_reducible apply KeepsX.next | with_reducible apply keeps_answer | with_reducible apply keeps_respond
    | (with_reducible apply Keeps.put; with_reducible assumption) | (with_reducible apply Keeps.putCtxs; with_reducible assumption)
    | (with_reducible apply Keeps.put; first | with_reducible apply keeps_answer | with_reducible apply keeps_respond)
    | (intro x hx; (try dsimp only); (repeat' split) <;> first | exact hx | decide) | split
    | ((try lift_lets); intro z; refine Keeps.named (s := s) (z := z) ?_ ?_; (try subst z); rotate_left; intro hz; clear_value z)
    | ((try lift_lets); intro z; (have _ : z = t.free := by subst z; rfl); subst z) | ((try lift_lets); intro z; clear_value z)
    | (with_reducible intro; with_reducible intros; try beta_reduce) | dsimp only
theorem keeps_execSpdmMessage {s t : State} (h : Keeps s t) (x1) : KeepsX s (execSpdmMessage x1 t) := by
  unfold execSpdmMessage
  repeat' first
    | with_reducible assumption | exact KeepsX.refused | exact KeepsX.fault | with_reducible apply KeepsX.next | with_reducible apply keeps_answer
    | with_reducible apply keeps_spdm | split
    | ((try lift_lets); intro z; refine Keeps.named (s := s) (z := z) ?_ ?_; (try subst z); rotate_left; intro hz; clear_value z)
    | ((try lift_lets); intro z; clear_value z) | (with_reducible intro; with_reducible intros; try beta_reduce) | dsimp only
theorem keeps_execGetSensorReading {s t : State} (h : Keeps s t) (x1) : KeepsX s (execGetSensorReading x1 t) := by
  unfold execGetSensorReading
  repeat' first
    | with_reducible assumption | exact KeepsX.refused | exact KeepsX.fault | with_reducible apply KeepsX.next | with_reducible apply keeps_answer
    | with_reducible apply keeps_respond | split
    | ((try lift_lets); intro z; refine Keeps.named (s := s) (z := z) ?_ ?_; (try subst z); rotate_left; intro hz; clear_value z)
    | ((try lift_lets); intro z; clear_value z) | (with_reducible intro; with_reducible intros; try beta_reduce) | dsimp only
theorem keeps_execGetAlmanac {s t : State} (h : Keeps s t) (x1) (x2) : KeepsX s (execGetAlmanac x1 x2 t) := by
  unfold execGetAlmanac
  repeat' first
    | with_reducible assumption | exact KeepsX.refused | exact KeepsX.fault | with_reducible apply KeepsX.next | with_reducible apply keeps_answer
    | with_reducible apply keeps_respond | split
    | ((try lift_lets); intro z; refine Keeps.named (s := s) (z := z) ?_ ?_; (try subst z); rotate_left; intro hz; clear_value z)
    | ((try lift_lets); intro z; clear_value z) | (with_reducible intro; with_reducible intros; try beta_reduce) | dsimp only
theorem keeps_execEmberRead {s t : State} (h : Keeps s t) (x1) (x2) (x3) (x4) : KeepsX s (execEmberRead x1 x2 x3 x4 t) := by
  unfold execEmberRead
  repeat' first
    | with_reducible assumption | exact KeepsX.refused | exact KeepsX.fault | with_reducible apply KeepsX.next | with_reducible apply keeps_answer
    | with_reducible apply keeps_respond | split
    | ((try lift_lets); intro z; refine Keeps.named (s := s) (z := z) ?_ ?_; (try subst z); rotate_left; intro hz; clear_value z)
    | ((try lift_lets); intro z; clear_value z) | (with_reducible intro; with_reducible intros; try beta_reduce) | dsimp only
theorem keeps_execRegRead {s t : State} (h : Keeps s t) (x1) : KeepsX s (execRegRead x1 t) := by
  unfold execRegRead
  repeat' first
    | with_reducible assumption | exact KeepsX.refused | exact KeepsX.fault | with_reducible apply KeepsQ.mk | with_reducible apply KeepsX.next
    | with_reducible apply keeps_answer | (with_reducible apply KeepsQ.snd; with_reducible apply keeps_readAt) | with_reducible apply keeps_readAt
    | with_reducible apply keeps_respond | split
    | ((try lift_lets); intro z; refine Keeps.named (s := s) (z := z) ?_ ?_; (try subst z); rotate_left; intro hz; clear_value z)
    | ((try lift_lets); intro z; clear_value z) | (with_reducible intro; with_reducible intros; try beta_reduce)
    | (refine KeepsQ.elim (by with_reducible assumption) ?_) | dsimp only
theorem keeps_execRegWrite {s t : State} (h : Keeps s t) (x1) (x2) (x3) : KeepsX s (execRegWrite x1 x2 x3 t) := by
  unfold execRegWrite
  repeat' first
    | with_reducible assumption | exact KeepsX.refused | exact KeepsX.fault | with_reducible apply KeepsX.next
    | with_reducible apply keeps_answerSecured | with_reducible apply keeps_mgtWrite | split
    | ((try lift_lets); intro z; refine Keeps.named (s := s) (z := z) ?_ ?_; (try subst z); rotate_left; intro hz; clear_value z)
    | ((try lift_lets); intro z; clear_value z) | (with_reducible intro; with_reducible intros; try beta_reduce) | dsimp only
theorem keeps_execDeviceReset {s t : State} (h : Keeps s t) (x1) : KeepsX s (execDeviceReset x1 t) := by
  unfold execDeviceReset
  repeat' first
    | with_reducible assumption | exact KeepsX.refused | exact KeepsX.fault | with_reducible apply KeepsX.next
    | with_reducible apply keeps_answerSecured | with_reducible apply keeps_mgtReset | split
    | ((try lift_lets); intro z; refine Keeps.named (s := s) (z := z) ?_ ?_; (try subst z); rotate_left; intro hz; clear_value z)
    | ((try lift_lets); intro z; clear_value z) | (with_reducible intro; with_reducible intros; try beta_reduce) | dsimp only
theorem keeps_execVigilRequest {s t : State} (h : Keeps s t) (x1) : KeepsX s (execVigilRequest x1 t) := by
  unfold execVigilRequest
  repeat' first
    | with_reducible assumption | exact KeepsX.refused | exact KeepsX.fault | with_reducible apply KeepsX.next
    | with_reducible apply keeps_answerSecured | with_reducible apply keeps_requestVigil | with_reducible apply keeps_respond | split
    | ((try lift_lets); intro z; refine Keeps.named (s := s) (z := z) ?_ ?_; (try subst z); rotate_left; intro hz; clear_value z)
    | ((try lift_lets); intro z; clear_value z) | (with_reducible intro; with_reducible intros; try beta_reduce) | dsimp only
theorem keeps_execVigilRelease {s t : State} (h : Keeps s t) (x1) : KeepsX s (execVigilRelease x1 t) := by
  unfold execVigilRelease
  repeat' first
    | with_reducible assumption | exact KeepsX.refused | exact KeepsX.fault | with_reducible apply KeepsX.next
    | with_reducible apply keeps_answerSecured | with_reducible apply keeps_releaseVigil | with_reducible apply keeps_respond | split
    | ((try lift_lets); intro z; refine Keeps.named (s := s) (z := z) ?_ ?_; (try subst z); rotate_left; intro hz; clear_value z)
    | ((try lift_lets); intro z; clear_value z) | (with_reducible intro; with_reducible intros; try beta_reduce) | dsimp only
theorem keeps_execOtpProgram {s t : State} (h : Keeps s t) (x1) (x2) (x3) : KeepsX s (execOtpProgram x1 x2 x3 t) := by
  unfold execOtpProgram
  repeat' first
    | with_reducible assumption | exact KeepsX.refused | exact KeepsX.fault | with_reducible apply KeepsX.next
    | with_reducible apply keeps_answerSecured | with_reducible apply keeps_otpProgram | split
    | ((try lift_lets); intro z; refine Keeps.named (s := s) (z := z) ?_ ?_; (try subst z); rotate_left; intro hz; clear_value z)
    | ((try lift_lets); intro z; clear_value z) | (with_reducible intro; with_reducible intros; try beta_reduce) | dsimp only
theorem keeps_execMacsecKey {s t : State} (h : Keeps s t) (x1) (x2) (x3) (x4) : KeepsX s (execMacsecKey x1 x2 x3 x4 t) := by
  unfold execMacsecKey
  repeat' first
    | with_reducible assumption | exact Nat.le_refl _ | exact Nat.le_succ _ | exact KeepsX.refused | exact KeepsX.fault
    | with_reducible apply KeepsX.next | with_reducible apply keeps_answerSecured | with_reducible apply keeps_respond
    | (with_reducible apply Keeps.put; with_reducible assumption) | (with_reducible apply Keeps.putCtxs; with_reducible assumption)
    | (with_reducible apply Keeps.put; first | with_reducible apply keeps_answerSecured | with_reducible apply keeps_respond)
    | (intro x hx; (try dsimp only); (repeat' split) <;> first | exact hx | decide) | split
    | ((try lift_lets); intro z; refine Keeps.named (s := s) (z := z) ?_ ?_; (try subst z); rotate_left; intro hz; clear_value z)
    | ((try lift_lets); intro z; (have _ : z = t.free := by subst z; rfl); subst z) | ((try lift_lets); intro z; clear_value z)
    | (with_reducible intro; with_reducible intros; try beta_reduce) | dsimp only
theorem keeps_execPubkeySlot {s t : State} (h : Keeps s t) (x1) (x2) (x3) (x4) : KeepsX s (execPubkeySlot x1 x2 x3 x4 t) := by
  unfold execPubkeySlot
  repeat' first
    | with_reducible assumption | exact KeepsX.refused | exact KeepsX.fault | with_reducible apply KeepsX.next
    | with_reducible apply keeps_answerSecured | with_reducible apply keeps_pubkey | split
    | ((try lift_lets); intro z; refine Keeps.named (s := s) (z := z) ?_ ?_; (try subst z); rotate_left; intro hz; clear_value z)
    | ((try lift_lets); intro z; clear_value z) | (with_reducible intro; with_reducible intros; try beta_reduce) | dsimp only
theorem keeps_execCmdSubmit {s t : State} (h : Keeps s t) (x1) (x2) : KeepsX s (execCmdSubmit x1 x2 t) := by
  unfold execCmdSubmit
  repeat' first
    | with_reducible assumption | exact KeepsX.refused | exact KeepsX.fault | with_reducible apply KeepsX.next
    | with_reducible apply keeps_answerSecured | with_reducible apply keeps_mgtSubmit | split
    | ((try lift_lets); intro z; refine Keeps.named (s := s) (z := z) ?_ ?_; (try subst z); rotate_left; intro hz; clear_value z)
    | ((try lift_lets); intro z; clear_value z) | (with_reducible intro; with_reducible intros; try beta_reduce) | dsimp only
theorem keeps_execCmdResult {s t : State} (h : Keeps s t) (x1) : KeepsX s (execCmdResult x1 t) := by
  unfold execCmdResult
  repeat' first
    | with_reducible assumption | exact KeepsX.refused | exact KeepsX.fault | with_reducible apply KeepsX.next | with_reducible apply keeps_answer
    | with_reducible apply keeps_mgtResult | split
    | ((try lift_lets); intro z; refine Keeps.named (s := s) (z := z) ?_ ?_; (try subst z); rotate_left; intro hz; clear_value z)
    | ((try lift_lets); intro z; clear_value z) | (with_reducible intro; with_reducible intros; try beta_reduce) | dsimp only
theorem keeps_execUpdateComponent {s t : State} (h : Keeps s t) (x1) (x2) (x3) : KeepsX s (execUpdateComponent x1 x2 x3 t) := by
  unfold execUpdateComponent
  repeat' first
    | with_reducible assumption | exact KeepsX.refused | exact KeepsX.fault | with_reducible apply KeepsX.next | with_reducible apply keeps_answer
    | with_reducible apply keeps_updateBank | split
    | ((try lift_lets); intro z; refine Keeps.named (s := s) (z := z) ?_ ?_; (try subst z); rotate_left; intro hz; clear_value z)
    | ((try lift_lets); intro z; clear_value z) | (with_reducible intro; with_reducible intros; try beta_reduce) | dsimp only
theorem keeps_execVerifyComplete {s t : State} (h : Keeps s t) : KeepsX s (execVerifyComplete t) := by
  unfold execVerifyComplete
  repeat' first
    | with_reducible assumption | exact KeepsX.refused | exact KeepsX.fault | with_reducible apply KeepsX.next | with_reducible apply keeps_answer
    | with_reducible apply keeps_respond | split
    | ((try lift_lets); intro z; refine Keeps.named (s := s) (z := z) ?_ ?_; (try subst z); rotate_left; intro hz; clear_value z)
    | ((try lift_lets); intro z; clear_value z) | (with_reducible intro; with_reducible intros; try beta_reduce) | dsimp only
theorem keeps_execActivateFirmware {s t : State} (h : Keeps s t) : KeepsX s (execActivateFirmware t) := by
  unfold execActivateFirmware
  repeat' first
    | with_reducible assumption | exact KeepsX.refused | exact KeepsX.fault | with_reducible apply KeepsX.next | with_reducible apply keeps_answer
    | with_reducible apply keeps_activate | split
    | ((try lift_lets); intro z; refine Keeps.named (s := s) (z := z) ?_ ?_; (try subst z); rotate_left; intro hz; clear_value z)
    | ((try lift_lets); intro z; clear_value z) | (with_reducible intro; with_reducible intros; try beta_reduce) | dsimp only
theorem keeps_execBypass {s t : State} (h : Keeps s t) : KeepsX s (execBypass t) := by
  unfold execBypass
  repeat' first
    | with_reducible assumption | exact KeepsX.refused | exact KeepsX.fault | with_reducible apply KeepsX.next | with_reducible apply keeps_answer
    | with_reducible apply keeps_jtagLoad | split
    | ((try lift_lets); intro z; refine Keeps.named (s := s) (z := z) ?_ ?_; (try subst z); rotate_left; intro hz; clear_value z)
    | ((try lift_lets); intro z; clear_value z) | (with_reducible intro; with_reducible intros; try beta_reduce) | dsimp only
theorem keeps_execIdcode {s t : State} (h : Keeps s t) : KeepsX s (execIdcode t) := by
  unfold execIdcode
  repeat' first
    | with_reducible assumption | exact KeepsX.refused | exact KeepsX.fault | with_reducible apply KeepsX.next | with_reducible apply keeps_answer
    | with_reducible apply keeps_jtagLoad | split
    | ((try lift_lets); intro z; refine Keeps.named (s := s) (z := z) ?_ ?_; (try subst z); rotate_left; intro hz; clear_value z)
    | ((try lift_lets); intro z; clear_value z) | (with_reducible intro; with_reducible intros; try beta_reduce) | dsimp only
theorem keeps_execSamplePreload {s t : State} (h : Keeps s t) : KeepsX s (execSamplePreload t) := by
  unfold execSamplePreload
  repeat' first
    | with_reducible assumption | exact KeepsX.refused | exact KeepsX.fault | with_reducible apply KeepsX.next | with_reducible apply keeps_answer
    | with_reducible apply keeps_scanned | split
    | ((try lift_lets); intro z; refine Keeps.named (s := s) (z := z) ?_ ?_; (try subst z); rotate_left; intro hz; clear_value z)
    | ((try lift_lets); intro z; clear_value z) | (with_reducible intro; with_reducible intros; try beta_reduce) | dsimp only
theorem keeps_execExtest {s t : State} (h : Keeps s t) : KeepsX s (execExtest t) := by
  unfold execExtest
  repeat' first
    | with_reducible assumption | exact KeepsX.refused | exact KeepsX.fault | with_reducible apply KeepsX.next | with_reducible apply keeps_answer
    | with_reducible apply keeps_jtagReset | with_reducible apply keeps_scanned | split
    | ((try lift_lets); intro z; refine Keeps.named (s := s) (z := z) ?_ ?_; (try subst z); rotate_left; intro hz; clear_value z)
    | ((try lift_lets); intro z; clear_value z) | (with_reducible intro; with_reducible intros; try beta_reduce) | dsimp only
theorem keeps_execClamp {s t : State} (h : Keeps s t) : KeepsX s (execClamp t) := by
  unfold execClamp
  repeat' first
    | with_reducible assumption | exact KeepsX.refused | exact KeepsX.fault | with_reducible apply KeepsX.next | with_reducible apply keeps_answer
    | with_reducible apply keeps_jtagReset | with_reducible apply keeps_jtagLoad | split
    | ((try lift_lets); intro z; refine Keeps.named (s := s) (z := z) ?_ ?_; (try subst z); rotate_left; intro hz; clear_value z)
    | ((try lift_lets); intro z; clear_value z) | (with_reducible intro; with_reducible intros; try beta_reduce) | dsimp only
theorem keeps_execHighz {s t : State} (h : Keeps s t) : KeepsX s (execHighz t) := by
  unfold execHighz
  repeat' first
    | with_reducible assumption | exact KeepsX.refused | exact KeepsX.fault | with_reducible apply KeepsX.next | with_reducible apply keeps_answer
    | with_reducible apply keeps_jtagReset | with_reducible apply keeps_jtagLoad | split
    | ((try lift_lets); intro z; refine Keeps.named (s := s) (z := z) ?_ ?_; (try subst z); rotate_left; intro hz; clear_value z)
    | ((try lift_lets); intro z; clear_value z) | (with_reducible intro; with_reducible intros; try beta_reduce) | dsimp only
theorem keeps_execBistRun {s t : State} (h : Keeps s t) (x1) (x2) (x3) : KeepsX s (execBistRun x1 x2 x3 t) := by
  unfold execBistRun
  repeat' first
    | with_reducible assumption | exact KeepsX.refused | exact KeepsX.fault | with_reducible apply KeepsX.next | with_reducible apply keeps_answer
    | with_reducible apply keeps_jtagLoad | split
    | ((try lift_lets); intro z; refine Keeps.named (s := s) (z := z) ?_ ?_; (try subst z); rotate_left; intro hz; clear_value z)
    | ((try lift_lets); intro z; clear_value z) | (with_reducible intro; with_reducible intros; try beta_reduce) | dsimp only
theorem keeps_execDbgRing {s t : State} (h : Keeps s t) (x1) : KeepsX s (execDbgRing x1 t) := by
  unfold execDbgRing
  repeat' first
    | with_reducible assumption | exact KeepsX.refused | exact KeepsX.fault | with_reducible apply KeepsX.next | with_reducible apply keeps_answer
    | with_reducible apply keeps_jtagLoad | split
    | ((try lift_lets); intro z; refine Keeps.named (s := s) (z := z) ?_ ?_; (try subst z); rotate_left; intro hz; clear_value z)
    | ((try lift_lets); intro z; clear_value z) | (with_reducible intro; with_reducible intros; try beta_reduce) | dsimp only
theorem keeps_execTestLogicReset {s t : State} (h : Keeps s t) : KeepsX s (execTestLogicReset t) := by
  unfold execTestLogicReset
  repeat' first
    | with_reducible assumption | exact Nat.le_refl _ | exact Nat.le_succ _ | exact KeepsX.refused | exact KeepsX.fault
    | with_reducible apply KeepsX.next | with_reducible apply keeps_answer | with_reducible apply keeps_beginStart
    | (with_reducible apply Keeps.put; with_reducible assumption) | (with_reducible apply Keeps.putCtxs; with_reducible assumption)
    | (with_reducible apply Keeps.put; first | with_reducible apply keeps_answer | with_reducible apply keeps_beginStart)
    | (intro x hx; (try dsimp only); (repeat' split) <;> first | exact hx | decide) | split
    | ((try lift_lets); intro z; refine Keeps.named (s := s) (z := z) ?_ ?_; (try subst z); rotate_left; intro hz; clear_value z)
    | ((try lift_lets); intro z; (have _ : z = t.free := by subst z; rfl); subst z) | ((try lift_lets); intro z; clear_value z)
    | (with_reducible intro; with_reducible intros; try beta_reduce) | dsimp only

end Sys2Proof.Machine
end

