-- ==== Sys2Proof/Tests/Slice0.lean ====
section
/-! SUPPORT. Tests. The theorems named wit_ show, for the statements of Certificates/Slice0, concrete states and operands that meet
their hypotheses; the theorems named test_ hold the model against values that the manual, or FIPS 180-4, gives. -/
set_option maxRecDepth 100000
namespace Sys2Proof.Tests
open Sys2Proof Sys2Proof.Machine

/-- A 2 MiB page of a context at 0x200000, in T2. -/
def page (c : CtxId) (frame : Nat) : Page := { ctx := c, va := 0x200000, size := .m2, tier := .t2, hint := .preferT2, r := true, w := true, zero := false, frame }
/-- A running module: the host link is up, ring 0 RUNNING with ADMIN, contexts 0 and 1 ACTIVE with a page each. -/
def base : State :=
  let s := State.reset
  let s := { s with boot := { s.boot with run := .running, hb := hbActive }, power := { s.power with mainOn := true, inputOn := true },
                    pcie := { s.pcie with up := true }, memUnit := { s.memUnit with cap := 700000, pages := [page 0 24, page 1 48] } }
  let s := s.modRing 0 fun x => { x with state := .running, admin := true, log2sz := 8, cpl := 0x10000, mask := 0xFFFFFFFFFFFFFFFF }
  let s := s.modCtx 0 fun x => { x with state := .active, classes := 0xF, quotaT2 := 4096, quotaT3 := 4096, quotaSh := 64 }
  s.modCtx 1 fun x => { x with state := .active, classes := 0xF, quotaT2 := 4096, quotaT3 := 4096, quotaSh := 64 }
def h0 : Hdr := { ring := 0 }
def h1 : Hdr := { ring := 0, ctx := 1 }
/-- A module that stands by as a spare. -/
def spare : State := { base with boot := { base.boot with hb := hbSpare } }
/-- The job agent runs on core 3. -/
def served : State := base.modSched fun g => { g with cores := vmod g.cores 3 fun _ => .service .jobAgent }
/-- Context 1 is fenced. -/
def fenced1 : State := base.modCtx 1 fun x => { x with state := .fenced }
theorem wit_adm_mode : base.runs h0 .nop = true ∧ base.runs h0 (.admMode 0x80003001) = true := by decide
theorem wit_adm_service : base.runs h0 (.admServiceStart 2 0x200000 8272) = true ∧ service? 2 = some .membership ∧ base.leastCore none = some 1 ∧
  served.runs h0 (.admServiceStop 1) = true ∧ service? 1 = some .jobAgent := by decide
theorem wit_adm_identity : spare.runs h0 (.admIdentity 0 0 0 3) = true ∧ spare.boot.hb = hbSpare ∧ spare.mir.inter.isNone = true := by decide
theorem wit_ctx : base.runs h0 (.ctxCreate 5 1 0 4 7 9) = true ∧ base.freeCtx? 5 = some 5 ∧ (base.modCtx 5 fun _ => { state := .active }).framesFit 0 = true ∧
  base.runs h0 (.ctxFence 1 0) = true ∧ fenced1.runs h0 (.ctxUnfence 1) = true ∧ base.runs h0 (.ctxDestroy 1) = true := by decide
/-- Context 1 has written at its page, and the byte store holds what was written. -/
def wrote1 : State := { base with mem := memWrite base.mem (ctxKey 1 0x200000) 0x5A }
theorem wit_mem_map : base.runs h1 (.memMap 0x400000 0x200000 0x1D) = true ∧ mapAttr? 0x1D = some (.m2, true, true, .preferT2) ∧
  (base.modMem fun m => { m with pages := m.pages ++ [{ ctx := 1, va := 0x400000, size := .m2, tier := .t2, hint := .preferT2, r := true, w := true, named := 0 }] }).framesFit 0 = true := by decide
theorem wit_mem_unmap : wrote1.runs h1 (.memUnmap 0x200000 0x200000) = true ∧ wrote1.faultIn 1 0x200000 0x200000 = false ∧ memWf wrote1.mem = true := by decide
theorem wit_mem_hint : base.runs h1 (.memHint 0x200000 0x200000 0x20) = true ∧ hintAttr? 0x20 = some (.preferT3, false) ∧ base.faultIn 1 0x200000 0x200000 = false := by decide
theorem wit_mem_hint_wait : base.runs h1 (.memHint 0x200000 0x200000 0x140) = true ∧ hintAttr? 0x140 = some (.pinT2, true) ∧
  ((base.modPages (fun p => p.inRange 1 0x200000 0x200000) fun p => { p with hint := .pinT2 }).pagesIn 1 0x200000 0x200000).all (fun p =>
    decide (p.tier = ((base.modPages (fun p => p.inRange 1 0x200000 0x200000) fun p => { p with hint := .pinT2 }).effHint p).tier)) = true ∧
  (base.modPages (fun p => p.inRange 1 0x200000 0x200000) fun p => { p with hint := .pinT2 }).roomT2 1 0 = true := by decide
theorem wit_mem_quota : base.runs h0 (.memQuota 1 2048 64 0 32) = true := by decide
/-- DMA channel 2 waits on a fault of context 1 at 0x200000, which is mapped by now. -/
def faulty : State := (base.modMem fun m => { m with faults := [{ id := 7, ctx := 1, gen := 1, cause := .unmapped, write := false, src := .bdm, unit := 2, prog := 0, va := 0x200000, seq := 0, node := 0, tick := 0, cid := 9, recorded := true }] }).modChan 2 fun k =>
  { k with state := .faulted, cid := 9, ctx := 1 }
theorem wit_mem_resolve : faulty.runs h1 (.memResolveRetry 7) = true ∧ faulty.runs h1 (.memResolveFail 7) = true ∧ (faulty.faultsOf 7).length = 1 ∧
  (faulty.faultsOf 7).all (fun f => f.src == .bdm && f.cause != .quota && (faulty.access f.ctx f.va f.write).isNone) = true ∧ (faulty.chan 2).cid = 9 ∧ (faulty.chan 2).state = .faulted := by decide
theorem wit_mem_fail : (match faulty.starts? h1 (.memResolveFail 7) with | some (u, _) => (u.recorded? 1 7).isSome | none => false) = true := by decide
/-- The vault has spare blocks, image 0 is INSTALLING with one chunk of 64 bytes, and image 1 READY; weight slot 1 of context 1 is READY and pinned once, slot 2 is current. -/
def vaulted : State :=
  let s : State := { base with vault := { base.vault with imageNow := 4, keelNow := 4, arrays := Vector.replicate 2 { spare := 4 } } }
  let s := s.modImage 0 fun _ => { state := .installing, man := { imageLen := 64, chunks := 1, leaf := [leafHash 0 (base.ctxBytes 0 0x200000 64)] } }
  let s := s.modImage 1 fun _ => { state := .ready, man := { imageLen := 64, chunks := 1 } }
  let s := s.modWslot 1 1 fun _ => { state := .ready, va := 0x600000, len := 0x200000, pins := 1, img := 1 }
  let s := s.modWslot 1 2 fun _ => { state := .ready, va := 0x800000, len := 0x200000, img := 1 }
  s.modCtx 1 fun x => { x with cur := some 2 }
/-- A shard map of one entry stands in context 1 at 0x200000: chunk 0 goes to 0x210000. -/
def sharded : State := { vaulted with mem := memWriteList vaulted.mem (ctxKey 1 0x200000) (le 4 0 ++ le 4 1 ++ le 8 0x210000) }
theorem wit_wgt_begin : vaulted.runs h0 (.wgtInstallBegin 3 0x200000 8256) = true ∧ (vaulted.image (imgOf 3)).state = .empty ∧ vaulted.vaultFull = false ∧
  (vaulted.vault.images.toList.filter fun i => i.state != .empty).foldl (fun n i => n + i.man.chunks * chunkBytes) 0 + leAt (vaulted.ctxBytes 0 0x200010 4) 0 4 * chunkBytes ≤ vaulted.vault.imageNow * 2 ^ 30 := by decide
theorem wit_wgt_chunks : vaulted.runs h0 (.wgtInstallChunks 0 0x200000 0 1) = true ∧ (vaulted.image (imgOf 0)).state ≠ .empty ∧ 0 + 1 ≤ (vaulted.image (imgOf 0)).man.chunks ∧
  vaulted.readable 0 0x200000 ((vaulted.image (imgOf 0)).man.span 0 1) = true ∧ vaulted.vaultFull = false ∧ ∀ p ∈ vaulted.memUnit.pages, p.poison = false ∧ p.lost = false := by decide
theorem wit_wgt_leaf (j : Nat) (h : j < 1) : (vaulted.image (imgOf 0)).man.leaf.getD (0 + j) [] =
    leafHash (0 + j) (vaulted.ctxBytes 0 (0x200000 + j * chunkBytes) ((vaulted.image (imgOf 0)).man.chunkLen (0 + j))) := by
  obtain rfl : j = 0 := by omega
  decide +kernel
theorem wit_wgt_image : vaulted.runs h0 (.wgtInstallCommit 0) = true ∧ (vaulted.image (imgOf 0)).state ≠ .empty ∧ vaulted.runs h0 (.wgtInstallAbort 0) = true ∧ vaulted.runs h0 (.wgtErase 1) = true := by decide
theorem wit_wgt_key : vaulted.runs h0 (.wgtKeyAdd 2 0x200000) = true ∧ vaulted.vault.keys[(2 : Fin 8)] = none ∧ vaulted.runs h0 (.wgtKeyRevoke 2) = true := by decide
theorem wit_wgt_load : vaulted.runs h1 (.wgtLoad 1 3 0 0 0 0x200000 0x200000 0x200000 0) = true ∧ sharded.runs h1 (.wgtLoad 1 3 0 0 0 0x200000 0x200000 0x200000 1) = true := by decide
theorem wit_wgt_pin : vaulted.runs h1 (.wgtPin 2) = true ∧ (vaulted.ctx 1).cur = some 2 ∧ (vaulted.wslot 1 2).pins + 2 ≤ maxPins ∧ vaulted.runs h1 (.wgtUnpin 1 1) = true ∧
  1 ≤ (vaulted.wslot 1 (slotOf 1)).pins := by decide
theorem wit_wgt_switch : vaulted.runs h1 (.wgtSwitch 1) = true ∧ (vaulted.wslot 1 (slotOf 1)).state = .ready ∧ vaulted.runs h1 (.wgtDrop 1) = true ∧ (vaulted.ctx 1).cur ≠ some (slotOf 1) := by decide
theorem wit_keel : sharded.runs h1 (.keelWrite 0 0x200000 1 7 3) = true ∧ (sharded.keel 0).state = .empty ∧ sharded.vaultFull = false ∧ sharded.runs h1 (.keelDrop 0) = true := by decide
/-- Keel slot 1 is VALID with one chunk, for the tenant of context 1. -/
def keeled : State := sharded.modKeel 1 fun _ => { state := .valid, tenant := 0, chunkCount := 1, data := [(0, [1, 2, 3])] }
theorem wit_keel_read : keeled.runs h1 (.keelRead 1 0x200000 1) = true ∧ (keeled.keel 1).state = .valid ∧ (keeled.keel 1).tenant = (keeled.ctx 1).tenant ∧
  ∀ e ∈ keeled.shardMap 1 0x200000 1, e.chunk + e.count ≤ (keeled.keel 1).chunkCount := by decide
/-- A graph image of one MEM_HINT node of context 1. -/
def graphImage : List Byte :=
  le 4 0x5A484752 ++ le 2 1 ++ le 2 0 ++ le 4 1 ++ le 4 0 ++ le 4 64 ++ List.replicate 44 0 ++
  (le 2 0x0302 ++ [0x41, 0] ++ List.replicate 12 0 ++ le 8 0x200000 ++ le 8 0x200000 ++ le 4 0x20 ++ List.replicate 28 0)
/-- The image stands in context 1 at 0x200000; the context owns semaphores 0 to 7, and semaphore 3 holds 2. -/
def graphed : State :=
  let s : State := { base with mem := memWriteList base.mem (ctxKey 1 0x200000) graphImage }
  let s := s.modCtx 1 fun x => { x with semCount := 8 }
  s.setSem 3 2
def h2 : Hdr := { ring := 0, ctx := 1, prio := 1 }
/-- Graph slot 2 of context 1 holds the image. -/
def resident : State := match graphed.opens? h2 (.submitGraph 2 0 0 0x200000 128) with
  | some (u, _) => { graphed with sched := { graphed.sched with graphs := u.sched.graphs.map fun g => { g with ready := true } } }
  | none => graphed
theorem wit_graph : graphed.alone = true ∧ (graphed.opens? h2 (.submitGraph 2 0 0 0x200000 128)).isSome = true ∧ (graphed.opens? h2 (.submitGraph 2 1 5 0x200000 128)).isSome = true ∧
  resident.alone = true ∧ (resident.opens? h2 (.graphRelease 2)).isSome = true := by decide
def hb1 : Hdr := { h2 with budget := 1 }
theorem wit_graph_run : resident.alone = true ∧ (match resident.opens? h2 (.graphRun 2 5) with
  | some (u, c) => (match u.graph? 1 2 with
    | some g => !g.nodes.isEmpty && g.nodes.all (fun n => !opIsOpt n.op) && u.fenceOrderOk 1 g 5 c.after &&
      (match g.nodes.mapM fun n => u.checkCopied { c with prio := n.prio, fixed := n.fixed, chain := n.chain, budget := n.budget.toNat, op := n.op }
        { n.kb with step := if kernelOp (opCode n.op) then 5 else n.kb.step } with | .ok _ => true | .error _ => false)
    | none => false)
  | none => false) = true := by decide
theorem wit_fence_sem : (graphed.opens? h2 (.stepFence 5)).isSome = true ∧ (graphed.admitted? hb1 (.semRelease 3 1)).isSome = true ∧ (graphed.admitted? hb1 (.semAcquire 3 1)).isSome = true := by decide
/-- A descriptor table of one entry stands in context 1 at 0x200000: 64 bytes from 0x210000 to 0x220000. -/
def tabled : State := { base with mem := memWriteList base.mem (ctxKey 1 0x200000) (le 8 0x210000 ++ le 8 0x220000 ++ le 8 64 ++ List.replicate 8 0) }
theorem wit_planned : plannedRow (.dmaStart hb1 0x200000 0 1 2 2 0 0 0 0) = some (hb1, .dmaStart 0x200000 0 1 2 2 0 0 0 0) ∧ tabled.alone = true ∧
  (match tabled.admitted? hb1 (.dmaStart 0x200000 0 1 2 2 0 0 0 0) with
   | some (t, c) => !(c.kb.engs.any fun d => (tabled.slice d.eng).out) && !(rowsOf c).isEmpty && decide (c.prio ≠ 0) && decide (c.budget ≤ (t.held hb1 c).oneTick c) &&
      (t.held hb1 c).tickFits c 0 c.budget false &&
      (match (t.held hb1 c).placeAll.cmd? c.cid with
       | some d => d.state == .placed && decide (d.tick ≤ 0) && !d.isEmpty && !(t.held hb1 c).placeAll.recordWaits d &&
          (match (t.held hb1 c).placeAll.allot d with | some (.ok _) => true | _ => false)
       | none => false)
   | none => false) = true := by decide
/-- A DMA command of context 1 on channel 2 copies 64 bytes from 0x210000 to 0x220000; its one burst is in flight. -/
def copyCmd (fixed : Bool) : Cmd :=
  { base.newCmd hb1 (.dmaStart 0x400000 0 1 2 2 0 0 0 0) with
    fixed, state := .issued, chan := some 2, kb := { descs := [{ src := 0x210000, dst := 0x220000, len := 64, srcKind := 0, dstKind := 0, alloc := 0 }] } }
def copying (fixed : Bool) : State :=
  let s := (base.modMem fun m => { m with pages := m.pages ++ [{ page 1 52 with va := 0x400000 }] }).modSched fun g => { g with cmds := [copyCmd fixed], nextCid := 2 }
  let s := s.modChan 2 fun k => { k with state := .active, cid := 1, ctx := 1, pri := 2, fixed, desc := 1, flight := [{ desc := 0, off := 0, len := 64, mover := 0 }] }
  { s with mem := memWrite s.mem (ctxKey 1 0x210003) 0x77 }
theorem wit_abort_idle : base.alone = true ∧ (base.starts? h0 (.dmaAbort 2)).isSome = true ∧ (base.chan (Fin.ofNat 32 2)).state = .idle := by decide
theorem wit_abort_busy : ((copying false).starts? { ring := 0 } (.dmaAbort 2)).isSome = true ∧ ((copying false).chan 2).state = .active ∧ ((copying false).cmd? 1) = some (copyCmd false) ∧ 
  (copyCmd false).chan = some 2 ∧ (copyCmd false).run = none ∧ (copyCmd false).fixed = false := by decide
theorem wit_burst : NoneReady (copying true) ∧ ((copying true).chan 2).flight[(0 : Nat)]? = some { desc := 0, off := 0, len := 64, mover := 0 } ∧ ((copying true).chan 2).cursor = none ∧
  (copyCmd true).kb.descs[(0 : Nat)]? = some { src := 0x210000, dst := 0x220000, len := 64, srcKind := kCtx, dstKind := kCtx, alloc := 0 } ∧
  (copying true).burstServed (copyCmd true) ((copying true).chan 2) { desc := 0, off := 0, len := 64, mover := 0 } = true ∧ ((copying true).chan 2).pace = 0 ∧
  ((copying true).chan 2).early = [] ∧ memWf (copying true).mem = true ∧ ((copying true).chan 2).flight[(1 : Nat)]? = none := ⟨by unfold NoneReady; decide, by decide⟩
theorem wit_burst_fails : StandsAlone (copying false) (copyCmd false) ∧ (copyCmd false).cid = ((copying false).chan 2).cid := ⟨by unfold StandsAlone; decide, by decide⟩
/-- Channel 2 is ARMED on a ring, or HELD up to its limit. -/
def armed : State := ((copying true).modChan 2 fun k => { k with state := .armed, flight := [], pace := 1, low := 4, high := 8, holdTicks := 3, prod := 65536 })
theorem wit_armed : NoneReady armed ∧ (armed.chan 2).state = .armed ∧ (armed.chan 2).pace = 1 ∧ (armed.chan 2).qkind = false ∧ (base.chan 2).state = .idle := ⟨by unfold NoneReady; decide, by decide⟩
def limit : State := { armed with tick := { armed.tick with now := 3 } }
theorem wit_hold : NoneReady limit ∧ StandsAlone limit (copyCmd true) ∧ (copyCmd true).cid = (limit.chan 2).cid ∧ (copyCmd true).state = .issued ∧ (limit.chan 2).holdTicks ≠ 0 ∧
  (limit.chan 2).holdTicks ≤ limit.tick.now - (limit.chan 2).holdFrom ∧ (limit.chan 2).starts (limit.fillOf (limit.chan 2)) = false := ⟨by unfold NoneReady; decide, by unfold StandsAlone; decide, by decide⟩
/-- The page at the destination may not be written. -/
def unwritable : State := (copying true).modPages (fun p => p.ctx = 1) fun p => { p with w := false }
theorem wit_burst_fault : burstVa (unwritable.chan 2) { src := 0x210000, dst := 0x220000, len := 64, srcKind := 0, dstKind := 0, alloc := 0 } { desc := 0, off := 0, len := 64, mover := 0 } true = some 0x220000 ∧
  unwritable.access 1 0x220000 true = some .permission ∧ (copying true).access 1 0x220000 true = none ∧ FCause.permission ≠ .tierLost := by decide
/-- Identity 0 0 0 0; a parity group of this module and module 1 stands in context 0 at 0x200000, one protected range at 0x200100. -/
def grouped : State :=
  let s : State := { base with fab := { base.fab with ident := 0 } }
  { s with mem := memWriteList (memWriteList s.mem (ctxKey 0 0x200000) (le 2 0 ++ le 2 1)) (ctxKey 0 0x200100) (le 8 0x200000 ++ le 8 0x10000) }
/-- Context 1 is paired with module 2. -/
def paired : State := grouped.modMir 1 fun m => { m.pair { gsize := 2, gpos := 0, partner := 2, ward := noIdent, guest := noIdent, group := [0, 1], ranges := [(0x200000, 0x10000)] } with state := .paired }
def guardless : State := { paired with mode := { paired.mode with guardF := guardOff } }
/-- Context 1 holds its own sealed state of step 4. -/
def sealedOwn : State := paired.modMir 1 fun m => { m with own := some { step := 4, bytes := [], scales := [], tmpl := {}, recipes := defaultRecipes } }
/-- The partner's copy of context 1 is sealed at step 4. -/
def sealedAt : State := paired.modMir 1 fun m => { m with state := .sealed, sealedOnce := true, sealStep := 4, guardSeal := 0 }
theorem wit_pair : grouped.runs h0 (.mirPair 1 2 0 2 noIdent noIdent 0x200000 0x200100 1) = true ∧ paired.runs h0 (.mirPair 1 2 0 2 noIdent noIdent 0x200000 0x200100 1) = true ∧
  (grouped.mirOf 1).state = .none ∧ (paired.mirOf 1).state = .paired := by decide
theorem wit_sync : grouped.runs h1 (.mirSync 4) = true ∧ (grouped.mirOf 1).state = .none ∧ paired.runs h1 (.mirSync 4) = true ∧ (paired.mirOf 1).state ≠ .none ∧ paired.mode.guardF ≠ guardOff ∧
  guardless.runs h1 (.mirSync 4) = true ∧ (guardless.mirOf 1).state ≠ .none ∧ guardless.mode.guardF = guardOff := by decide
theorem wit_restore : (grouped.modPv 1 fun p => { p with step := 5 }).runs h0 (.mirRestore 1 0 4) = true ∧ (grouped.mirOf 1).own = none ∧ sealedOwn.runs h0 (.mirRestore 1 0 4) = true ∧
  ((sealedOwn.mirOf 1).own.map (·.step)) = some 4 ∧ sealedAt.runs h0 (.mirRestore 1 1 4) = true ∧ sealedAt.sourceHolds 1 1 4 = true := by decide
theorem wit_intercalate : spare.runs h0 (.mirIntercalate 5 1 0 4 7) = true ∧ spare.mir.inter = none ∧
  (allLinks.all fun l => !((spare.link l).nbrIdent == 5 && (spare.link l).usable && (spare.link l).nstate == .active)) = true ∧ (spare.mir.records.find? fun r => r.1 == 5) = none := by decide
/-- A job plan of one stage, two replicas and one TP rank. -/
def planBytes : List Byte :=
  le 4 0x5A484A50 ++ le 4 0 ++ le 8 7 ++ [1, 1, 1, 1, 1, 1, 0, 0] ++ le 4 4 ++ le 4 0 ++ le 2 2 ++ le 2 64 ++ le 2 72 ++ le 2 80 ++ List.replicate 24 0 ++
  (le 2 0 ++ le 2 1 ++ le 4 0) ++ List.replicate 8 0 ++ ([0, 0, 0, 0] ++ le 4 0) ++ ([1, 0, 0, 0] ++ le 4 1)
def planned : State := { grouped with mem := memWriteList grouped.mem (ctxKey 0 0x201000) planBytes }
/-- The job of the plan is known to context 1. -/
def employed : State := match planOf? planBytes with
  | some j => { planned with jobs := [{ j with ctx := 1 }] }
  | none => planned
theorem wit_release : employed.runs h0 (.jobRelease 7 0) = true ∧ (employed.job? 7).isSome = true := by decide
theorem wit_join : grouped.runs h0 (.jobJoin 7 3 1 0 0) = true ∧ (3 : W16) ≠ noIdent ∧ planned.runs h0 (.jobJoin 7 noIdent 1 0x201000 96) = true ∧
  (match planOf? (planned.ctxBytes 0 0x201000 96) with | some j => (j.replicaOf planned.fab.ident).isSome | none => false) = true ∧ planned.mir.plans = [] := by decide
/-- The serving loop runs on core 3; queues 0 and 32 belong to context 1, whose configuration stands in context 0 at 0x200000. -/
def serving : State :=
  let s := base.modSched fun g => { g with cores := vmod g.cores 3 fun _ => .service .servingLoop }
  let s := (s.modQueue 0 fun q => { q with ctx := some 1 }).modQueue 32 fun q => { q with ctx := some 1, spread := 1, udp := 9 }
  { s with mem := memWriteList s.mem (ctxKey 0 0x200000) (le 2 9 ++ [32, 1, 0, 0] ++ le 2 4 ++ le 4 4 ++ le 4 64 ++ le 4 100 ++ le 4 8 ++ le 4 50 ++ le 2 10 ++ le 2 16 ++ List.replicate 32 0) }
def instanced : State := serving.setInst 2 (some { ctx := 1, cfg := { txq := 0, rxFirst := 32, rxCount := 1, liveMax := 4, vocab := 100 } })
theorem wit_srv : serving.runs h0 (.srvStart 2 1 0x200000) = true ∧ (srvCfg? (serving.ctxBytes 0 0x200000 64)).isSome = true ∧ instanced.runs h0 (.srvStop 2 0) = true := by decide
theorem wit_queue : base.runs h0 (.feQueue 3 1 0 0 0) = true ∧ base.runs h0 (.feQueue 40 1 9 1 0) = true ∧ serving.runs h0 (.feQueue 32 0xFF 0 0 0) = true := by decide
/-- Ring 1 holds the reply of a command of context 0 with two units, one of them done. -/
def replied : State := base.modRing 1 fun x => { x with hist := [{ seq := 5, ctx := 0, phase := .partialEnd, status := 0x0205, units := 2, done := [1], reply := List.replicate 32 7 }] }
theorem wit_query : queryRing? 0 1 = some 1 ∧ (1 : RingId) ≠ 0 ∧ (replied.target? 1 5).isSome = true ∧ replied.runs h0 (.queryProgress 1 5 0x200000 8) = true ∧
  replied.runs h0 (.queryStatus 1 5 0x200000) = true ∧ ((replied.target? 1 5).map fun x => x.reply.length) = some 32 ∧ ∀ k < 32, replied.access 0 (0x200000 + k) true = none := by decide
/-- The module in vigil, with context 0 and ring 0. -/
def watching : State := { base with boot := { base.boot with run := .vigil }, power := { base.power with mainOn := false } }
theorem wit_telemetry : base.runs h0 (.queryTelemetry 0 2 0x200000 64) = true ∧ base.inVigil = false ∧ (∀ k < 8 * 2, base.access 0 (0x200000 + k) true = none) ∧
  watching.runs h0 (.queryTelemetry 0 2 0x200000 64) = true ∧ watching.inVigil = true ∧ watching.pcie.up = true := by decide
theorem wit_sentinel : base.runs h0 (.diagSentinel 3 7 0 0x200000 64) = true := by decide
/-- Stack 0 has a reserve channel, and slot 64 is a reserve slice. -/
def tested : State := base.modStack 0 fun x => { x with reserve := 2 }
theorem wit_bist_runs : (match tested.starts? h0 (.diagBist 0x2001 0 0x200000 8) with
  | some (u, _) => (match u.yieldUnit 0x2001 with | some v => (List.range 8).all fun k => (v.access 0 (0x200000 + k) true).isNone | none => false)
  | none => false) = true := by decide
def unlinked : State := (base.modLink 4 fun l => { l with state := .disabled })
def prbsReady : State := { unlinked with fab := { unlinked.fab with disable := 0x10 } }
theorem wit_prbs : prbsReady.runs h0 (.diagPrbs 4 0 10 0x200000) = true ∧ ∀ k < 144, prbsReady.access 0 (0x200000 + k) true = none := by decide
/-- Capture slot 0 holds a record of 80 bytes. -/
def embered : State := base.modRas fun a => { a with capSlots := vmod a.capSlots 0 fun _ => some { kind := 1, bytes := List.replicate 80 9 } }
theorem wit_ember : embered.runs h0 (.diagEmberRead 0 0 0 0x200000 64) = true ∧ (embered.ras.emberAt 0 0).isSome = true ∧ ∀ k < 64, embered.access 0 (0x200000 + k) true = none := by decide
def injectable : State := base.modRas fun a => { a with injEnable := true }
theorem wit_inject : injectable.runs h0 (.injectUnitHang 0x5003 0 0) = true ∧ injectable.runs h0 (.injectCheckFlip 0x5003 2 0) = true ∧ injectable.runs h0 (.injectEccCe 0x7003 2 0) = true ∧
  injectable.runs h0 (.injectEccUe 0x7003 1 0) = true ∧ injectable.runs h0 (.injectDeviceReset 0xFFFF 0 0) = true ∧ injectable.ras.resetting = false ∧ injectable.runs h0 (.injectEventFlood 0x5003 2 0x101) = true := by decide
/-- A command of a packet, issued as command 1. -/
def issued (h : Hdr) (op : Op) : Cmd := { base.newCmd h op with cid := 1, state := .issued }
def holding (s : State) (c : Cmd) : State := s.modSched fun g => { g with cmds := [c], nextCid := 2 }
theorem wit_fence : (holding fenced1 (issued h0 (.ctxFence 1 1))).waitingFences 1 = [issued h0 (.ctxFence 1 1)] ∧ ((holding fenced1 (issued h0 (.ctxFence 1 1))).ctx 1).state = .fenced ∧
  ((holding fenced1 (issued h0 (.ctxFence 1 1))).runningIn 1).isEmpty = true := by decide
/-- Context 1 in a phase of its teardown. -/
def torn (x : CtxState) : State := base.modCtx 1 fun c => { c with state := x, quar := 1 }
theorem wit_teardown : ((torn .fencing).ctx 1).state = .fencing ∧ ((torn .draining).ctx 1).state = .draining ∧ (torn .draining).underOld 1 = 0 ∧
  ((torn .scrubbing).ctx 1).state = .scrubbing ∧ ((torn .free).ctx 1).state = .free ∧ ((torn .free).ctx 1).quar ≤ 1 := by decide
def retiring : State := (vaulted.modWslot 1 1 fun w => { w with state := .retiring, pins := 0 })
theorem wit_slot_empty : (retiring.wslot 1 1).state = .retiring ∧ (retiring.wslot 1 1).pins = 0 ∧ ((retiring.busyRanges 1).any fun r => overlaps r.1 r.2 (retiring.wslot 1 1).va (retiring.wslot 1 1).len) = false ∧
  (vaulted.wslot 1 1).state ≠ .retiring := by decide
theorem wit_source : ((holding vaulted (issued h1 (.wgtLoad 1 3 0 0 0 0x200000 0x200000 0x200000 1))).cmd? 1).map (fun c => (c.deadPeers.contains 3, c.state == .ready, c.running)) = some (false, false, true) := by decide
/-- Weight slot 1 covers the page of context 1, whose copy is poisoned where said. -/
def covered (bad : Bool) : State := (vaulted.modWslot 1 1 fun w => { w with va := 0x200000, chunks := [(0, 0x200000)] }).modPages (fun p => p.ctx = 1) fun p => { p with poison := bad }
theorem wit_recovery : ((covered false).pageAt? 1 0x200000).map (fun p => (p.poison, p.lost)) = some (false, false) ∧ (covered false).slotAt? 1 0x200000 = some 1 ∧
  ((covered true).pageAt? 1 0x200000).map (fun p => (p.poison, ((covered true).recoverChunks (covered true).free ((covered true).wslot 1 1) p).any fun c => c.2.2.isNone)) = some (true, true) ∧ (covered true).slotAt? 1 0x200000 = some 1 := by decide
/-- Sled peer 2 holds the chunk of slot 1 at the poisoned page. -/
def recoverable : State :=
  let s := (covered true).modWslot 1 1 fun w => { w with root := [7], leaf := [(0, leafHash 0 [9])], group := 1, members := 4 }
  { s with vault := { s.vault with peerChunks := [(2, [7], 0, [9])] } }
theorem wit_recovered : ((recoverable.pageAt? 1 0x200000).elim false fun p => (p.poison || p.lost) &&
    (recoverable.recoverChunks recoverable.free (recoverable.wslot 1 1) p).all fun c => c.2.2.isSome) = true ∧ recoverable.slotAt? 1 0x200000 = some 1 := by decide +kernel
/-- A load that waits for its chunks, and a time 200 ms on. -/
def waitingLoad : State := holding vaulted (issued h1 (.wgtLoad 1 3 0 0 0 0x200000 0x200000 0x200000 1))
def longAfter : State := { waitingLoad with tick := { waitingLoad.tick with now := 40000 } }
theorem wit_holder : (waitingLoad.cmd? 1).map (fun c => (c.running, decide (waitingLoad.nowUs < c.chunkUs + 100000))) = some (true, true) ∧
  (longAfter.cmd? 1).map (fun c => (c.running, decide (c.chunkUs + 100000 ≤ longAfter.nowUs))) = some (true, true) := by decide
theorem wit_patrol : (keeled.vault.keels[(1 : Fin 2)]).state = .valid ∧
  (((vaulted.modImage 1 fun i => { i with data := [(0, [1], [2])] }).image (imgOf 1)).data.find? fun d => d.1 == 0) = some (0, [1], [2]) := by decide
def unavailable : State := { (covered true).modMem fun m => { m with faults := [{ id := 7, ctx := 1, gen := 1, cause := .poisoned, write := false, src := .cmd, unit := 0, prog := 0, va := 0x200000, seq := 0, node := 0, tick := 0, cid := 1, recorded := true }] } with tick := { base.tick with now := 200 } }
theorem wit_unavailable : ((holding unavailable (issued h1 (.memHint 0x200000 64 0x20))).cmd? 1).isSome = true ∧
  ((holding unavailable (issued h1 (.memHint 0x200000 64 0x20))).weightFault 1).map (fun f => f.tick + 128) = some 128 ∧
  (128 : Nat) ≤ unavailable.tick.now := by decide
/-- A semaphore command of context 1, placed at its tick. -/
def semCmd (op : Op) : Cmd := { base.newCmd hb1 op with cid := 1, state := .placed, bound := true }
def semState : State := holding graphed (semCmd (.semAcquire 3 1))
theorem wit_grant : (semState.placeAll.cmd? 1) = some (semCmd (.semAcquire 3 1)) ∧ semState.placeAll.acquireWaits (semCmd (.semAcquire 3 1)) = true ∧ semState.placeAll.grantable (semCmd (.semAcquire 3 1)) = true ∧
  semState.acquireWaits (semCmd (.semAcquire 3 1)) = true ∧ semState.grantable (semCmd (.semAcquire 3 1)) = true ∧ isAcquire (.semAcquire 3 1) = true ∧ semOf (.semAcquire 3 1) = some (3, 1) ∧ semState.serve.reqs = [] ∧
  semState.sched.cmds = [semCmd (.semAcquire 3 1)] := by decide
theorem wit_grant_waits : ((holding graphed (semCmd (.semAcquire 3 9))).sched.cmds.all fun a => !((holding graphed (semCmd (.semAcquire 3 9))).acquireWaits a && (holding graphed (semCmd (.semAcquire 3 9))).grantable a)) = true := by decide
/-- A DMA command of context 1, placed at a tick. -/
def dueCmd (n : Nat) : Cmd := { copyCmd true with state := .placed, tick := n, chan := none, fixed := false }
theorem wit_issue : ((holding base (dueCmd 0)).placeAll.cmd? 1) = some (dueCmd 0) ∧ ((holding base (dueCmd 5)).placeAll.cmd? 1) = some (dueCmd 5) ∧ planY (opCode (dueCmd 0).op) = true ∧ isAcquire (dueCmd 0).op = false ∧
  isRelease (dueCmd 0).op = false ∧ (dueCmd 0).isEmpty = false ∧ (holding base (dueCmd 0)).placeAll.recordWaits (dueCmd 0) = false ∧
  (match (holding base (dueCmd 0)).placeAll.allot (dueCmd 0) with | some (.ok v) => (v.begin 1).serve.reqs.isEmpty | _ => false) = true := by decide
/-- A MATMUL command of one tile; its staged byte waits for the commit. -/
def matCmd (x : CState) (fixed : Bool) (done : List Nat) : Cmd :=
  { base.newCmd hb1 (.matmul 0x200000 64) with cid := 1, state := x, fixed, done, staged := if fixed then [] else [(0x210000, 5)], kb := { op := [0, 1, 1] ++ List.replicate 5 0 ++ le 4 32 ++ le 4 32 ++ [0, 0] } }
theorem wit_ahead : (holding base (matCmd .placed false [])).mayRunAhead (matCmd .placed false []) = true ∧
  (match (holding base (matCmd .placed false [])).allot (matCmd .placed false []) with | some (.ok _) => true | _ => false) = true ∧ (matCmd .issued false []).state ≠ .placed := by decide
def rerunCmd : Cmd := { matCmd .ready false [] with mismatch := true }
theorem wit_rerun : (holding base rerunCmd).cmd? 1 = some rerunCmd ∧ rerunCmd.mismatch = true ∧ rerunCmd.state = .ready := by decide
theorem wit_commit : StandsAlone (holding base (matCmd .issued false [0])) (matCmd .issued false [0]) ∧ (holding base (matCmd .issued false [0])).underWay (matCmd .issued false [0]) = true ∧
  sliceOp (opCode (matCmd .issued false [0]).op) = true ∧ (holding base (matCmd .issued false [0])).workDone (matCmd .issued false [0]) = true ∧ (matCmd .issued false [0]).replays = [] ∧
  memWf (holding base (matCmd .issued false [0])).mem = true ∧ (holding base (matCmd .placed false [0])).underWay (matCmd .placed false [0]) = false := ⟨by unfold StandsAlone; decide, by decide⟩
theorem wit_fixed_end : StandsAlone (holding base (matCmd .issued true [0])) (matCmd .issued true [0]) ∧ (holding base (matCmd .issued true [0])).underWay (matCmd .issued true [0]) = true ∧
  opIsRun (matCmd .issued true [0]).op = false ∧ opCode (matCmd .issued true [0]).op = 0x0510 ∧ (holding base (matCmd .issued true [0])).workDone (matCmd .issued true [0]) = true ∧
  (matCmd .issued true [0]).badTiles = [] := ⟨by unfold StandsAlone; decide, by decide⟩
def keelCmd (op : Op) : Cmd := { base.newCmd h1 op with cid := 1, state := .issued, chunks := [(0, 0x210000, [1, 2])] }
theorem wit_keel_commit : (holding keeled (keelCmd (.keelWrite 0 0x200000 1 7 3))).cmd? 1 = some (keelCmd (.keelWrite 0 0x200000 1 7 3)) ∧
  (holding keeled (keelCmd (.keelWrite 0 0x200000 1 7 3))).underWay (keelCmd (.keelWrite 0 0x200000 1 7 3)) = true ∧ (holding keeled (keelCmd (.keelWrite 0 0x200000 1 7 3))).serve.reqs = [] := by decide
/-- Keel slot 1 holds data that does not match its root. -/
def oldKeel : Keel := { state := .valid, chunkCount := 1, data := [(0, [1, 2, 3])] }
def spoiledKeel : Keel := { oldKeel with root := 0 :: oldKeel.rootNow }
def spoiled : State := keeled.modKeel 1 fun _ => spoiledKeel
theorem wit_keel_spoiled : (holding spoiled (keelCmd (.keelRead 1 0x200000 1))).cmd? 1 = some (keelCmd (.keelRead 1 0x200000 1)) ∧
  (holding spoiled (keelCmd (.keelRead 1 0x200000 1))).underWay (keelCmd (.keelRead 1 0x200000 1)) = true := by decide
theorem spoiled_keel : (holding spoiled (keelCmd (.keelRead 1 0x200000 1))).keel 1 = spoiledKeel := rfl
theorem cons_ne (l : List Byte) : l ≠ 0 :: l := fun h => by simpa using congrArg List.length h
theorem wit_keel_root : ((holding spoiled (keelCmd (.keelRead 1 0x200000 1))).keel 1).rootNow ≠ ((holding spoiled (keelCmd (.keelRead 1 0x200000 1))).keel 1).root := by
  rw [spoiled_keel]
  exact cons_ne oldKeel.rootNow
/-- A weight load of context 1 into slot 3 that has all its chunks. -/
def loadCmd : Cmd := { base.newCmd h1 (.wgtLoad 1 3 0 0 0 0x200000 0x200000 0x200000 1) with cid := 1, state := .issued, kb := { shards := [{ chunk := 0, count := 1, va := 0x210000 }] }, chunks := [(0, 0x210000, [1, 2])] }
theorem wit_load_commit : StandsAlone (holding sharded loadCmd) loadCmd ∧ (holding sharded loadCmd).underWay loadCmd = true ∧ loadCmd.missing = [] ∧
  ((holding sharded loadCmd).memUnit.pages.all fun p => decide (p.ctx ≠ loadCmd.ctx) || !p.zero) = true ∧ memWf (holding sharded loadCmd).mem = true := ⟨by unfold StandsAlone; decide, by decide⟩
/-- Program slot 5 of engine 3 stands at an instruction word of a MATMUL's image. -/
def standing (w : W64) : State := (holding graphed (matCmd .issued false [])).modProg 3 5 fun x => { x with cid := 1, image := [w, 0], wait := .running }
/-- The same program waits. -/
def waiting (w : PWait) : State := (standing 0).modProg 3 5 fun x => { x with wait := w }
/-- An instruction word from its opcode, its field of bits 59:58 and the rest. -/
def word (op f rest : Nat) : W64 := BitVec.ofNat 64 (op * 2 ^ 60 + f * 2 ^ 58 + rest)
theorem wit_stream_registers : (standing (word 1 1 0x1000)).standsAt 3 5 (.addr 1 0x1000) = true ∧ (standing (word 2 1 0x40)).standsAt 3 5 (.loff 1 0x40) = true ∧
  (standing (word 3 1 (3 * 2 ^ 36 + 64))).standsAt 3 5 (.dim 1 3 64) = true ∧ (standing (word 4 1 64)).standsAt 3 5 (.ldim 1 64) = true ∧
  (standing (word 0xA 0 (2 ^ 57 + 64))).standsAt 3 5 (.step false 1 64) = true ∧ (standing (word 0xA 2 (2 ^ 57 + 64))).standsAt 3 5 (.step true 1 64) = true ∧
  (standing (word 5 1 (2 * 2 ^ 49))).standsAt 3 5 (.bufdef 1 0 2) = true ∧ (standing (word 9 1 (2 ^ 52 + 2 * 2 ^ 32))).standsAt 3 5 (.rep 1 1 2) = true ∧
  (standing (word 9 1 (2 ^ 52))).standsAt 3 5 (.rep 1 1 0) = true ∧ (standing 0).standsAt 3 5 .fin = true ∧ ((base.prog 3 5).image.length ≤ (base.prog 3 5).ip) := by decide
theorem wit_stream_waits : (standing (word 7 0 (2 ^ 56 + 3 * 2 ^ 44 + 1))).standsAt 3 5 (.wait 0 1 3 1) = true ∧ (standing (word 7 1 (2 ^ 56 + 3 * 2 ^ 44 + 1))).standsAt 3 5 (.wait 1 1 3 1) = true ∧
  (standing (word 7 2 (2 ^ 56 + 3 * 2 ^ 44 + 1))).standsAt 3 5 (.wait 2 1 3 1) = true ∧ (standing (word 7 3 (2 ^ 56 + 3 * 2 ^ 44 + 1))).standsAt 3 5 (.wait 3 1 3 1) = true ∧
  (standing (word 8 0 (2 ^ 56 + 3 * 2 ^ 44 + 1))).standsAt 3 5 (.signal 0 1 3 1) = true ∧ (standing (word 8 1 (2 ^ 56 + 3 * 2 ^ 44 + 1))).standsAt 3 5 (.signal 1 1 3 1) = true ∧
  (standing (word 8 2 (2 ^ 56 + 3 * 2 ^ 44 + 1))).standsAt 3 5 (.signal 2 1 3 1) = true ∧ (standing (word 0xC 1 (2 * 2 ^ 55))).standsAt 3 5 (.recv 1 2) = true := by decide
theorem wit_stream_resumes : ((waiting (.tick 0)).cmd? ((waiting (.tick 0)).prog 3 5).cid).isSome = true ∧ ((waiting (.tick 0)).slice 3).hung = false ∧ ((waiting (.tick 0)).prog 3 5).wait = .tick 0 ∧
  ((waiting (.sem 3 1)).prog 3 5).wait = .sem 3 1 ∧ ((waiting (.bufEmpty 1)).prog 3 5).wait = .bufEmpty 1 ∧ ((waiting (.bufFull 1)).prog 3 5).wait = .bufFull 1 ∧
  ((waiting (.recv 1 2 0 false)).prog 3 5).wait = .recv 1 2 0 false := by decide
/-- Buffer 1 of the program has an armed deadline. -/
def dated (m : DlMode) : State := (waiting (.bufFull 1)).modProg 3 5 fun x => { x with bufs := vmod x.bufs 1 fun b => { b with armed := some (0, m), full := false } }
theorem wit_stream_moves : (standing (word 6 0 (2 ^ 57 + 2 ^ 55 + 2 ^ 50))).standsAt 3 5 (.move false 1 1 0 1 0 0) = true ∧ (standing (word 6 2 (2 ^ 57 + 2 ^ 55 + 2 ^ 50))).standsAt 3 5 (.move true 1 1 0 1 0 0) = true ∧
  (standing (word 0xB 1 (2 ^ 57 + 2 ^ 55 + 100))).standsAt 3 5 (.deadline 1 true 1 100) = true ∧ ((base.prog 3 5).bufs[(1 : Fin 4)]).armed = none ∧
  (((dated .report).prog 3 5).bufs[(1 : Fin 4)]).armed = some (0, .report) ∧ (((dated .report).prog 3 5).bufs[(1 : Fin 4)]).full = false ∧ 0 ≤ (dated .report).tickNs ((dated .report).tick.now + 1) := by decide
theorem wit_deadline_abort : StandsAlone (dated .abort) (matCmd .issued false []) ∧ (matCmd .issued false []).cid = ((dated .abort).prog 3 5).cid ∧ (((dated .abort).prog 3 5).bufs[(1 : Fin 4)]).full = false ∧
  (((dated .abort).prog 3 5).bufs[(1 : Fin 4)]).armed = some (0, .abort) ∧ (dated .abort).weightFault 1 = none := ⟨by unfold StandsAlone; decide, by decide⟩
/-- The command is also held on a lost page of weight slot 1. -/
def datedHeld : State := { dated .abort with ctxs := unavailable.ctxs, memUnit := unavailable.memUnit }
theorem wit_deadline_held : StandsAlone datedHeld (matCmd .issued false []) ∧ ((datedHeld.prog 3 5).bufs[(1 : Fin 4)]).armed = some (0, .abort) ∧ (datedHeld.weightFault (matCmd .issued false []).cid).isSome = true := ⟨by unfold StandsAlone; decide, by decide⟩
/-- A granule of 64 bytes at 0x200000 of context 1 and at the start of buffer 1. -/
def gran (toMem : Bool) (mcast : Byte) (epochs : List Byte) : Granule :=
  { pos := 0, va := 0x200000, lst := 0, size := 64, buf := 1, toMem, mcast, idx := [0, 0, 0, 0], requested := mcast == 0, ip := 0, run := 0, epochs, nos := [(4, 0)] }
def bankCmd : Cmd := { matCmd .issued false [] with banks := [(3, [4, 5]), (4, [4, 5])] }
/-- The program of engine 3 has the granule in flight. -/
def flying (g : Granule) : State := (holding { wrote1 with free := 0 } bankCmd).modProg 3 5 fun x =>
  { x with cid := 1, image := [0], wait := .running, nextPos := 1, flight := [g], bufs := vmod x.bufs 1 fun _ => { defined := true, first := 0, banks := 2 } }
/-- Engine 4 has posted its RECV of that multicast, into a buffer of some banks. -/
def posted (banks : Nat) : State := (flying (gran false 0x10 [0, 0])).modProg 4 2 fun x =>
  { x with cid := 1, image := [0], wait := .recv 2 3 0 true, bufs := vmod x.bufs 2 fun _ => { defined := true, first := 0, banks } }
theorem wit_multicast : ((flying (gran false 0 [0, 0])).prog 3 5).flight.all (fun h => h.requested) = true ∧
  ((posted 2).prog 3 5).flight.find? (fun h => !h.requested) = some (gran false 0x10 [0, 0]) ∧ 4 ∈ membersOf 3 0x10 ∧ ((flying (gran false 0x10 [0, 0])).postedBy 4 3 ((flying (gran false 0x10 [0, 0])).prog 3 5) (gran false 0x10 [0, 0])) = none ∧
  ((posted 2).postedBy 4 3 ((posted 2).prog 3 5) (gran false 0x10 [0, 0])) = some 2 ∧ (membersOf 3 0x10).all (fun m => ((posted 2).postedBy m 3 ((posted 2).prog 3 5) (gran false 0x10 [0, 0])).isSome) = true ∧ ((posted 2).slice 3).hung = false ∧
  ((posted 2).prog 4 2).recvBuf = some 2 ∧ 0 + 64 ≤ (((posted 2).prog 4 2).bufs[(2 : Fin 4)]).banks * 2 ^ 18 ∧ (((posted 0).prog 4 2).bufs[(2 : Fin 4)]).banks * 2 ^ 18 < 0 + 64 ∧
  ((((posted 2).prog 3 5).flight ++ ((posted 2).prog 3 5).todo).all fun h => decide ((0 : Nat) ≤ h.run) || h.mcast == 0) = true := by decide
theorem wit_multicast_kill : StandsAlone (posted 0) bankCmd ∧ bankCmd.cid = ((posted 0).prog 3 5).cid := ⟨by unfold StandsAlone; decide, by decide⟩
/-- The leader is a member of its own multicast and its buffer is FULL. -/
def leaderFull : State := (flying (gran false 0x18 [0, 0])).modProg 3 5 fun x => { x with bufs := vmod x.bufs 1 fun b => { b with full := true } }
theorem wit_multicast_full : (leaderFull.prog 3 5).flight.find? (fun h => !h.requested) = some (gran false 0x18 [0, 0]) ∧ (0x18 : Byte).getLsbD (3 % 8) = true ∧
  ((leaderFull.prog 3 5).bufs[(1 : Fin 4)]).full = true := by decide
theorem wit_arrival : ((flying (gran false 0 [0, 0])).cmd? 1) = some bankCmd ∧ ((flying (gran false 0 [0, 0])).prog 3 5).flight.find? (fun h => h.pos == 0 && h.requested) = some (gran false 0 [0, 0]) ∧
  (flying (gran false 0 [0, 0])).granuleLive 3 bankCmd ((flying (gran false 0 [0, 0])).prog 3 5) (gran false 0 [0, 0]) = true ∧ memWf (flying (gran false 0 [0, 0])).mem = true ∧
  ((((flying (gran false 0 [0, 0])).prog 3 5).bufs[(1 : Fin 4)]).physical (bankCmd.banksOn 3)) = [4, 5] ∧ ((flying (gran false 0 [0, 0])).prog 3 5).flight.find? (fun h => h.pos == 9 && h.requested) = none := by decide
theorem wit_departure : (flying (gran true 0 [0, 0])).granuleLive 3 bankCmd ((flying (gran true 0 [0, 0])).prog 3 5) (gran true 0 [0, 0]) = true ∧ bankCmd.fixed = false ∧
  bankCmd.rotOf (outputsOf bankCmd) ((flying (gran true 0 [0, 0])).prog 3 5).rel 1 = none ∧ (flying (gran true 0 [0, 0])).sched.cmds.all (fun d => decide (d.state ≠ .ready)) = true ∧
  (flying (gran false 0 [7, 7])).granuleLive 3 bankCmd ((flying (gran false 0 [7, 7])).prog 3 5) (gran false 0 [7, 7]) = false := by decide
theorem wit_arrival_ue : StandsAlone (flying (gran false 0 [0, 0])) bankCmd := by unfold StandsAlone; decide
/-- The page of the granule may not be read. -/
def unreadable : State := (flying (gran false 0 [0, 0])).modPages (fun p => p.ctx = 1) fun p => { p with r := false }
theorem wit_granule_fault : (unreadable.cmd? 1) = some bankCmd ∧ (unreadable.prog 3 5).flight.find? (fun h => h.pos == 0 && h.requested) = some (gran false 0 [0, 0]) ∧ unreadable.access 1 0x200000 false = some .permission ∧
  (unreadable.prog 3 5).wait ≠ .faulted ∧ FCause.permission ≠ .tierLost ∧ memWf unreadable.mem = true ∧ (flying (gran false 0 [0, 0])).access 1 0x200000 false = none := by decide
/-- A MATMUL command of one tile on engine 3, issued. -/
def rowTen : TenD := { fmt := 0, kind := 0, srBits := 0, last := false, scaleSlot := 0xFFF, tid := 0, dim := [], org := [], ext := [], prog := 0xFF, rotFirst := 0, rotLen := 1, handle := 0 }
def tileCmd (fixed : Bool) (done bad : List Nat) (reruns : Nat) : Cmd :=
  { matCmd .issued fixed done with staged := [], reruns, badTiles := bad, kb := { engs := [{ eng := 3, banks := 0, images := [] }], tens := [rowTen, rowTen], op := [0, 1, 1] ++ List.replicate 5 0 ++ le 4 32 ++ le 4 32 ++ [3, 1, 0, 1] ++ List.replicate 28 0xFF } }
def tiled (fixed : Bool) (done bad : List Nat) (reruns : Nat) : State := holding base (tileCmd fixed done bad reruns)
theorem wit_tile : base.nextTile 3 = none ∧ ((base.tileQueue 3).any fun d => (d.tileOn 3).isSome) = false ∧ base.power.changing = false ∧ ((tiled false [] [] 0).slice 3).hung = false ∧
  (tiled false [] [] 0).nextTile 3 = some (tileCmd false [] [] 0, 0) ∧ (tiled false [] [] 0).cmd? 1 = some (tileCmd false [] [] 0) ∧ ((tiled false [] [] 0).slice 3).flips = 0 ∧
  ((tiled false [] [] 0).ras.slots[(tiled false [] [] 0).slotFor (tileCmd false [] [] 0) 3]).recent = [] ∧ (tiled false [] [] 2).nextTile 3 = some (tileCmd false [] [] 2, 0) ∧
  (tiled true [] [] 0).nextTile 3 = some (tileCmd true [] [] 0, 0) ∧ (tileCmd true [] [] 0).detail = 0 := by decide
/-- The operands of the tile are not in LST yet. -/
def starvedCmd : Cmd := { tileCmd false [] [] 0 with kb := { (tileCmd false [] [] 0).kb with tens := [{ rowTen with prog := 0 }, rowTen] } }
def starved : State := holding base starvedCmd
theorem wit_starve : starved.nextTile 3 = none ∧ ((starved.tileQueue 3).any fun d => (d.tileOn 3).isSome) = true ∧ (starved.slice 3).hung = false := by decide
/-- A parity error of a tile, as R103 lays it out. -/
def parity : Nat := 3 * 2 ^ 56 + 5
def onceMissed : State := holding base { tileCmd false [] [] 1 with missSlot := some ((tiled false [] [] 1).slotFor (tileCmd false [] [] 1) 3) }
theorem wit_report : (tiled false [] [] 0).tileReport (tileCmd false [] [] 0) 3 0 none = none ∧ (tiled false [] [] 0).tileReport (tileCmd false [] [] 0) 3 0 (some parity) = some (parity, false) ∧
  (tiled false [] [] 2).tileReport (tileCmd false [] [] 2) 3 0 (some parity) = some (parity, false) ∧ (tiled true [] [] 0).tileReport (tileCmd true [] [] 0) 3 0 (some parity) = some (parity, false) ∧
  (tiled true [] [0] 0).tileReport (tileCmd true [] [0] 0) 3 0 (some parity) = some (parity, false) ∧ (tiled true [] [0] 0).tileReport (tileCmd true [] [0] 0) 3 0 none = none := by decide
theorem wit_report_again : (onceMissed.nextTile 3).map (fun x => (x.1.reruns, x.1.missSlot == some (onceMissed.slotFor x.1 3), x.2)) = some (1, true, 0) ∧
  (onceMissed.nextTile 3).bind (fun x => onceMissed.tileReport x.1 3 x.2 (some parity)) = some (parity, false) := by decide
theorem wit_tile_ready : NoneReady (tiled false [] [] 0) ∧ NoneReady onceMissed ∧ StandsAlone (tiled false [] [] 2) (tileCmd false [] [] 2) :=
  ⟨by unfold NoneReady; decide, by unfold NoneReady; decide, by unfold StandsAlone; decide⟩
/-- The command awaits its overflow replay. -/
def replayCmd : Cmd := { tileCmd false [0] [] 0 with replays := [(1, 2)] }
theorem wit_replay : (holding base replayCmd).cmd? 1 = some replayCmd ∧ isColl (opCode replayCmd.op) = false ∧ (holding base replayCmd).workDone replayCmd = true ∧ (replayCmd.replays.any fun r => r.1 == 1) = true ∧
  (replayCmd.replays.any fun r => r.1 == 5) = false := by decide
theorem wit_recompute : (tiled true [] [0] 0).cmd? 1 = some (tileCmd true [] [0] 0) ∧ (tileCmd true [] [0] 0).tilesLeft = [] ∧ (tileCmd true [] [0] 0).badTiles.contains 0 = true ∧
  (3 : EngineId) = Fin.ofNat 64 ((tileCmd true [] [0] 0).mat.first + 0 % max 1 (tileCmd true [] [0] 0).mat.cnt) ∧ (tiled true [] [0] 0).sched.cmds = [tileCmd true [] [0] 0] ∧
  (tiled true [] [0] 0).ras.reserveFor (octOf ((tiled true [] [0] 0).slotFor (tileCmd true [] [0] 0) 3)) ≠ none ∧ base.cmd? 1 = none := by decide
theorem wit_recompute_ready : NoneReady (tiled true [] [0] 0) := by unfold NoneReady; decide
/-- Links 0 and 1 to modules 1 and 2 of the sled are UP. -/
def linked : State :=
  let s := { paired with fab := { paired.fab with ident := 0, pslot := 0 } }
  let s := s.modLink 0 fun l => { l with state := .up, nbrIdent := 1, nbrSlot := 1, nstate := .active, session := true }
  s.modLink 1 fun l => { l with state := .up, nbrIdent := 2, nbrSlot := 2, nstate := .active, session := true }
/-- A packet from module 1 to this module. -/
def pk : Pkt := { link := 0, dst := 0, src := 1, ctx := 1, gen := 1 }
def pkFar : Pkt := { pk with dst := 2 }
theorem wit_packet_checks : fabPacket (.fabWrite pk [1]) = some (ptWrite, pk, 9) ∧ (base.link 0).usable = false ∧ linked.inVigil = false ∧ (linked.link 0).usable = true ∧ pk.tagOk = true ∧
  fabPacket (.fabWrite { pk with tagOk := false } [1]) = some (ptWrite, { pk with tagOk := false }, 9) ∧ linkLocal ptWrite = false ∧ 16 < linked.pktAge { pk with stamp := 100 } ∧ linked.pktAge pk ≤ 16 ∧
  pkFar.dst ≠ linked.fab.ident ∧ linked.boot.hb = hbActive ∧ linked.routeLink 2 1 (some 0) = some 1 ∧ linked.linkTakes 1 (vcOf ptWrite 0) 2 = true := by decide
theorem wit_packet_ready : NoneReady linked := by unfold NoneReady; decide
/-- The sender's attempt 9 has been cancelled. -/
def cancelled : State := { linked with fab := { linked.fab with cancels := [(1, 9, 0)] } }
theorem wit_packet_cancel : { pk with attempt := 9 }.attempt ≠ 0 ∧ ((pk.src, (9 : W32), 0) ∈ cancelled.fab.cancels) ∧ cancelled.tick.now ≤ 0 + 16 := by decide
/-- Frame 3 is lent to module 1 for its context 1. -/
def lent : State := linked.modMem fun m => { m with lendPages := 8, lent := [{ frame := 3, peer := 1, ctx := 1, gen := 1 }] }
def pkLent (g : Byte) (frame : Nat) : Pkt := { pk with addr := BitVec.ofNat 64 (frame * 2 ^ 21 + 64), gen := g }
theorem wit_remote_write : lent.takes ptWrite (pkLent 1 3) = true ∧ bitOf (pkLent 1 3).addr.toNat mirrorBit = false ∧ peerW (pkLent 1 3).src = some 1 ∧
  lent.memUnit.lent.find? (fun x => x.frame == (pkLent 1 3).addr.toNat / 2 ^ 21) = some { frame := 3, peer := 1, ctx := 1, gen := 1 } ∧ memWf lent.mem = true ∧
  (pkLent 1 3).addr.toNat % 2 ^ 21 + 2 ≤ 2 ^ 21 ∧ (pkLent 2 3).gen ≠ 1 ∧ lent.memUnit.lent.find? (fun x => x.frame == (pkLent 1 5).addr.toNat / 2 ^ 21) = none ∧
  (pkLent 1 5).addr.toNat / 2 ^ 21 < lent.memUnit.lendPages ∧ lent.lentFrames < lent.memUnit.lendPages := by decide
/-- Module 1 is the ward of context 1. -/
def warded : State := linked.modMir 1 fun m => { m with ward := 1 }
def pkMirror : Pkt := { pk with addr := BitVec.ofNat 64 (2 ^ mirrorBit + 64) }
theorem wit_remote_mirror : warded.takes ptWrite pkMirror = true ∧ bitOf pkMirror.addr.toNat mirrorBit = true ∧ bitOf pkMirror.addr.toNat recordBit = false ∧ bitOf pkMirror.addr.toNat parityBit = false ∧
  (allCtx.any fun c => (warded.mirOf c).ward == pkMirror.src) = true := by decide
theorem wit_remote_read : lent.takes ptReadReq (pkLent 1 3) = true ∧ lent.routeLink 1 lent.fab.ident none = some 0 ∧ lent.linkTakes 0 (vcOf ptReadResp 0) 1 = true ∧ lent.takes ptReclaim pk = true ∧
  (∀ q ∈ lent.memUnit.pages, q.tier ≠ .t3 ∨ q.peer ≠ 1) := by decide
/-- A weight load of context 1 from image 1 waits for chunk 0. -/
def awaited : Cmd := { loadCmd with chunks := [] }
def chunking : State := (holding linked awaited).modImage 1 fun _ => { state := .ready, man := { chunks := 1, root := [8], leaf := [leafHash 0 [1, 2]] } }
theorem wit_chunk : linked.takes ptChunk pk = true ∧ linked.genLive pk = true ∧ linked.sched.cmds = [] ∧ chunking.sched.cmds = [awaited] ∧ awaited.ctx = pk.ctx ∧ awaited.running = true ∧
  (chunking.image (imgOf 1)).man.root = [8] ∧ (chunking.image (imgOf 1)).man.root ≠ [9] := by decide
theorem wit_chunk_leaf : leafHash 0 [1, 2] = (chunking.image (imgOf 1)).man.leaf.getD 0 [] := rfl
theorem wit_chunk_ready : NoneReady chunking := by unfold NoneReady; decide
/-- A DMA command of context 1 whose attempt is 9. -/
def sender : Cmd := { copyCmd false with attempt := 9, chan := none }
def sending : State := holding linked sender
def pkAtt : Pkt := { pk with attempt := 9 }
theorem wit_notices : NoneReady linked ∧ StandsAlone sending sender ∧ NoneReady sending := ⟨by unfold NoneReady; decide, by unfold StandsAlone; decide, by unfold NoneReady; decide⟩
theorem wit_dead : linked.takes ptCtxDead pk = true ∧ linked.sendersTo pk.attempt pk.src 1 1 = [] ∧ linked.takes ptCtxFenced pk = true ∧ sending.takes ptCtxDead pkAtt = true ∧ sending.takes ptCtxFenced pkAtt = true ∧
  sender.running = true ∧ sender.fixed = false ∧ pkAtt.attempt ≠ 0 ∧ BitVec.ofNat 32 sender.attempt = pkAtt.attempt := by decide
/-- Context 1 drains, and link 0 has not acknowledged. -/
def draining : State := linked.modCtx 1 fun x => { x with state := .draining, awaitAck := [0], gen := 2 }
def overdue : State := { draining with tick := { draining.tick with now := 9 } }
theorem wit_teardown_packets : lent.takes ptTeardown pk = true ∧ lent.sendersTo 0 pk.src 1 1 = [] ∧ peerW 1 = some 1 ∧ sameSled 1 lent.sledIdent = true ∧ draining.takes ptTeardownAck pk = true ∧ (draining.ctx 1).state = .draining ∧
  prevGen (draining.ctx 1).gen = 1 ∧ draining.underOld 1 ≠ 0 ∧ draining.tick.now < (draining.ctx 1).drainTick + 4 ∧ (overdue.ctx 1).drainTick + 4 ≤ overdue.tick.now ∧ overdue.underOld 1 ≠ 0 ∧ pk.link ∈ (draining.ctx 1).awaitAck ∧ (linked.ctx 1).state ≠ .draining := by decide
theorem wit_lost : sending.takes ptLost pk = true ∧ sender.attempt % 2 ^ 32 ≠ 0 ∧ isColl (opCode sender.op) = false ∧ linked.takes ptLost pk = true ∧ (5 : W32) ≠ 0 ∧
  (∀ c ∈ linked.sched.cmds, c.running = true → BitVec.ofNat 32 c.attempt ≠ 5) ∧ linked.takes ptCancel pk = true := by decide
/-- The neighbour of link 0 is the spare of the sled. -/
def spareBeside : State := linked.modLink 0 fun l => { l with nbrSlot := 8 }
def mastered : State := { linked with tick := { linked.tick with state := .master } }
def authing : State := linked.modLink 0 fun l => { l with state := .auth, session := false }
theorem wit_link_control : linked.takes ptRoute pk = true ∧ (linked.link 0).nbrSlot ≠ 8 ∧ spareBeside.takes ptRoute pk = true ∧ (spareBeside.link 0).nbrSlot = 8 ∧ (0 : LinkId).val < 8 ∧ linked.takes ptTiming pk = true ∧
  mastered.takes ptTiming pk = true ∧ mastered.tick.state = .master ∧ linked.tick.state ≠ .master ∧ linked.tick.change ≠ some { at_ := 9, tcal := 50, len1 := 0, start1 := 0, len0 := 0, start0 := 0 } ∧
  1 ∈ linked.upLinks ∧ authing.takes ptKey pk = true ∧ (authing.link 0).state = .auth ∧ linked.takes ptKey pk = true ∧ (linked.link 0).state = .up := by decide
/-- A collective of two ranks and two elements runs on rank 0. -/
def collCmd : Cmd := { base.newCmd hb1 (.collAllGather 0x200000 64) with cid := 1, state := .issued, kb := { op := List.replicate 16 0 ++ le 6 2 ++ List.replicate 10 0, members := [{ ident := 0, ctx := 1, noslot := false, gen := 1, slotLo := 0, slotHi := 1, shardLen := 1 }, { ident := 1, ctx := 1, noslot := false, gen := 1, slotLo := 1, slotHi := 2, shardLen := 1 }] } }
def collRun : Coll := { cid := 1, ctx := 1, rid := 5, rank := 0, nodes := [{ level := 1, index := 2, elem := 0, val := 7 }] }
def collecting : State := { holding linked collCmd with cle := { linked.cle with colls := [collRun] } }
theorem wit_coll_early : linked.takes ptColl pk = true ∧ linked.genLive pk = true ∧ linked.collBy? 1 5 = none := by decide
theorem wit_coll : collecting.takes ptColl pk = true ∧ collecting.genLive pk = true ∧ collecting.collBy? pk.ctx 5 = some collRun ∧ collecting.cmd? 1 = some collCmd ∧ collecting.sched.cmds = [collCmd] ∧ collecting.cle.colls = [collRun] ∧
  collecting.tick.window = false ∧ (∀ n < 1, (collRun.nodes.any fun x => x.level == 1 && x.index == 2 && x.elem == pk.addr.toNat % 2 ^ 48 + n) = true) ∧ collCmd.outElems.contains 0 = true := by decide
theorem wit_coll_ready : NoneReady collecting ∧ StandsAlone collecting collCmd := ⟨by unfold NoneReady; decide, by unfold StandsAlone; decide⟩
/-- Rank 0 of three reduces step 5 of context 1. -/
def fencing : State := { linked with cle := { linked.cle with fences := [{ cid := 1, ctx := 1, step := 5 }], jobTables := [(1, [0, 1, 2].map fun k => { ident := k, ctx := 1, noslot := false, gen := 1, slotLo := 0, slotHi := 0, shardLen := 0 })] } }
theorem wit_scalar : (linked.cle.fences.all fun f => decide (f.ctx ≠ pk.ctx) || f.step != 5) = true ∧ fencing.takes ptColl pk = true ∧ fencing.genLive pk = true ∧
  fencing.cle.fences.find? (fun f => decide (f.ctx = pk.ctx) && f.step == 5) = some { cid := 1, ctx := 1, step := 5 } ∧ (fencing.jobRank 1).map (fun x => (x.1, x.2.length)) = some (0, 3) ∧
  1 ∈ fenceKids 3 0 ∧ 2 ∈ fenceKids 3 0 := by decide
/-- A MATMUL whose input rotates through buffer 1 and whose output rotates through buffer 2 of program 0; its units are at work. -/
def unitCmd : Cmd :=
  { matCmd .issued false [] with
    staged := [], issuing := true, banks := [(3, [4, 5]), (4, [4, 5])],
    kb := { engs := [{ eng := 3, banks := 2, images := [] }], tens := [{ rowTen with prog := 0, rotFirst := 1 }, { rowTen with prog := 0, rotFirst := 2 }],
            op := [0, 1, 1] ++ List.replicate 5 0 ++ le 4 32 ++ le 4 32 ++ [3, 1, 0, 0, 0xFF, 1] ++ List.replicate 26 0xFF } }
def turning (w : PWait) : State := (holding base unitCmd).modProg 3 5 fun x =>
  { x with cid := 1, image := [0], wait := w, fed := true, bufs := vmod x.bufs 1 fun _ => { defined := true, full := true, first := 0, banks := 2 } }
theorem wit_units : unitCmd.unitsRun = true ∧ ((turning (.bufEmpty 1)).prog 3 5).bufs[(1 : Fin 4)].full = true ∧ ((turning (.bufFull 2)).prog 3 5).bufs[(2 : Fin 4)].full = false ∧
  (unitCmd.rotOf (inputsOf unitCmd) ((turning (.bufEmpty 1)).prog 3 5).rel 1).map ((turning (.bufEmpty 1)).prog 3 5).nextBuf = some 1 ∧
  (unitCmd.rotOf (outputsOf unitCmd) ((turning (.bufFull 2)).prog 3 5).rel 2).map ((turning (.bufFull 2)).prog 3 5).nextBuf = some 2 ∧ (turning (.bufFull 2)).inputsFed unitCmd 3 = true := by decide
/-- The leader of a multicast to itself and engine 4 still has its buffer FULL, and engine 4 has not posted. -/
def leading : State := (turning .running).modProg 3 5 fun x => { x with flight := [gran false 0x18 [0, 0]] }
theorem wit_leader : (leading.prog 3 5).flight.find? (fun h => !h.requested) = some (gran false 0x18 [0, 0]) ∧ leading.cmd? 1 = some unitCmd ∧ (leading.slice 3).hung = false ∧
  leading.postedBy 4 3 (leading.prog 3 5) (gran false 0x18 [0, 0]) = none ∧ 4 ∈ membersOf 3 0x18 := by decide
/-- A granule of a killed attempt is still under way. -/
def lateOne : State := base.modSlice 3 fun x => { x with late := [{ slot := 5, ctx := 1, gen := 1, gran := gran false 0 [0, 0] }] }
theorem wit_late : (lateOne.slice 3).late.find? (fun l => decide (l.slot = 5) && l.gran.pos == 0) = some { slot := 5, ctx := 1, gen := 1, gran := gran false 0 [0, 0] } ∧
  (lateOne.prog 3 5).flight.find? (fun h => h.pos == 0 && h.requested) = none ∧ (base.slice 3).late = [] := by decide
theorem wit_mode : base.canReach .host .modeCtl = true ∧ base.mode.lock = false ∧ (0x3301 : W32).extractLsb' 8 2 = 3 ∧ (0x3001 : W32).getLsbD 31 = false ∧ (0x3001 : W32).extractLsb' 8 2 ≠ 3 ∧
  (0x3001 : W32).extractLsb' 4 2 ≠ 3 ∧ (0x3001 : W32).extractLsb' 0 2 ≠ 3 ∧ (0x80003001 : W32).extractLsb' 0 2 ≠ 3 := by decide
def h9 : Hdr := { ring := 9 }
/-- Ring 0 expects SEQ 4. -/
def expecting : State := base.modRing 0 fun x => { x with nextSeq := some 4 }
theorem wit_refused : packetRow (.nop h9) = some (h9, .nop) ∧ base.alone = true ∧ base.mayRead 9 = false ∧ base.mayRead 0 = true ∧
  (match base.admission h1 (.admMode 0) with | .error st => st == stPerm | .ok _ => false) = true ∧ vigilOp (opCode (.ctxFence 1 0)) = false ∧ watching.inVigil = true ∧ base.inVigil = false ∧ expecting.inVigil = false := by decide
theorem wit_refused_chain : (base.ring 0).nextSeq = none ∧ opReserved (.reserved 0x0999) = true ∧ opReserved .nop = false ∧ ((base.modRing 0 fun x => { x with mask := 0, admin := false }).ring 0).mayFor 0 1 = false ∧
  (base.ring h1.ring).mayFor h1.ring h1.ctx = true ∧ (fenced1.ctx 1).state = .fenced ∧ (base.ring h1.ring).mayFor h1.ring 5 = true ∧ (base.ctx 5).state = .free := by decide
theorem wit_sequence : expecting.alone = true ∧ expecting.mayRead 0 = true ∧ (expecting.ring 0).nextSeq = some 4 ∧ h0.seq ≠ 4 ∧ base.runs h0 .nop = true ∧ (base.ring 0).nextSeq = none ∧ h0.dep = 0 ∧ h0.chain = false ∧
  base.canReach .mgt .cmdqCfg = true ∧ (base.selRing .mgt) = 0 ∧ (State.reset.ring 0).enabled = false ∧ (State.reset.ring 0).state ≠ .closing := by decide
/-- A READY command of class 1 in a module whose ticks are free. -/
def readyDma : Cmd := { dueCmd 0 with state := .ready, prio := 1, budget := 1 }
theorem wit_placement : (holding base readyDma).cmd? 1 = some readyDma ∧ readyDma.prio ≠ 0 ∧ rowsOf readyDma ≠ [] ∧ 64 ∉ rowsOf readyDma ∧ readyDma.budget ≤ 16 ∧ (holding base readyDma).sched.plan = [] ∧
  (∀ r ∈ rowsOf readyDma, (holding base readyDma).planned r 0 (fun _ => true) + readyDma.budget ≤ (holding base readyDma).rowCap r ∧
    (holding base readyDma).planned r 0 (fun d => decide (d.ctx = readyDma.ctx) && decide (d.prio = readyDma.prio)) + readyDma.budget ≤ (holding base readyDma).shareCap readyDma.ctx readyDma.prio r 0) := by decide
/-- Another command fills every tick of the horizon. -/
def crowded : State := base.modSched fun g => { g with
  cmds := [readyDma, { dueCmd 0 with cid := 9, budget := 256 }], nextCid := 10, plan := (List.range 16).map fun n => { cid := 9, tick := n, amt := 512 } }
theorem wit_no_placement : crowded.cmd? 1 = some readyDma ∧ ∀ n < 16, ¬ ∀ r ∈ rowsOf readyDma, crowded.planned r n (fun _ => true) + readyDma.budget ≤ crowded.rowCap r ∧
    crowded.planned r n (fun d => decide (d.ctx = readyDma.ctx) && decide (d.prio = readyDma.prio)) + readyDma.budget ≤ crowded.shareCap readyDma.ctx readyDma.prio r n := by decide
/-- Steps of a collective: a timeout and a window. -/
def staleRun : Coll := { collRun with waited := 128 * 16 }
def stale : State := { collecting with cle := { collecting.cle with colls := [staleRun] } }
theorem wit_coll_timeout : StandsAlone stale collCmd ∧ stale.coll? 1 = some staleRun ∧ 128 * 16 ≤ staleRun.waited ∧ collCmd.outElems.all staleRun.written.contains = false ∧ collecting.coll? 1 = some collRun ∧ collRun.waited < 128 * 16 :=
  ⟨by unfold StandsAlone; decide, by decide⟩
def windowed : State := { base with tick := { base.tick with len0 := 4, window := false } }
theorem wit_window : windowed.cle.colls = [] ∧ windowed.tick.winNo < (if windowed.tick.len0 = 0 then 0 else 1) + (if windowed.tick.len1 = 0 then 0 else 1) ∧ ({ windowed.tick with window := true }).window = true := by decide
theorem wit_window_ready : NoneReady windowed := by unfold NoneReady; decide
/-- A step fence of context 1 for step 5, with a scale record, and other commands of the step that have ended or not. -/
def fenceCmd : Cmd := { base.newCmd h1 (.stepFence 5) with cid := 1, state := .issued }
def other : Cmd := { matCmd .issued false [] with cid := 3, kb := { (matCmd .issued false []).kb with step := 5 } }
def stepped (b : Option (Nat × W32 × W16)) : State := (holding base fenceCmd).modCtx 1 fun x => { x with steps := [(5, 3, b)], scales := [(2, { stepAmax := 9, hcount := 1 })] }
theorem wit_fence_close : StandsAlone (stepped none) fenceCmd ∧ StandsAlone (stepped (some (4, 8, 0x205))) fenceCmd ∧ fenceCmd.running = true ∧ fenceCmd.ctx = 1 ∧ fenceCmd.op = .stepFence 5 ∧
  ((stepped none).cle.fences.any fun f => f.cid == fenceCmd.cid) = false ∧ (stepped none).jobRank 1 = none ∧ (((stepped none).ctx 1).scales.map (·.1)).Nodup :=
  ⟨by unfold StandsAlone; decide, by unfold StandsAlone; decide, by decide⟩
theorem wit_fence_steps (b : Option (Nat × W32 × W16)) : ((stepped b).ctx 1).steps.find? (fun e => e.1 == 5) = some (5, 3, b) := rfl
theorem wit_fence_waits : (base.modSched fun g => { g with cmds := [fenceCmd, other] }).cmd? 1 = some fenceCmd ∧ other.cid ≠ fenceCmd.cid ∧ other.ctx = 1 ∧ other.state ≠ .ready ∧ other.step? = some 5 ∧ opIsOpt other.op = false ∧
  ((1 : CtxId), (5 : W32)) ∉ other.after := by decide
/-- Context 1 of step 4 has synced and seals; another pairing waits where said. -/
def sealing (q : Option Pairing) : State := paired.modMir 1 fun m => { m with state := .syncing, synced := some 4, nextPair := q }
def pairing2 : Pairing := { gsize := 2, gpos := 1, partner := 3, ward := noIdent, guest := noIdent, group := [0, 1], ranges := [] }
theorem wit_seal : ((sealing none).mirOf 1).synced = some 4 ∧ (sealing none).allSynced 1 4 = true ∧ ((sealing none).mirOf 1).nextPair = none ∧ ((sealing (some pairing2)).mirOf 1).nextPair = some pairing2 ∧
  (sealing (some pairing2)).allSynced 1 4 = true ∧ (paired.mirOf 1).synced ≠ some 4 := by decide
theorem wit_seal_ready (q : Option Pairing) : NoneReady (sealing q) := by intro c h; cases h
/-- Module 5 has failed and the incident settles; module 1's answer to a remote read is here. -/
def settling : State := { linked with mir := { linked.mir with settle := { failed := [5], since := some 0, classes := [] } } }
theorem wit_settle : base.mir.settle.since = none ∧ settling.mir.settle.since ≠ none := by decide
def pkResp : Pkt := { pk with addr := BitVec.ofNat 64 (2 ^ mirrorBit + 128) }
def gathering : Cmd := { base.newCmd h1 (.mirRestore 1 1 4) with cid := 1, state := .issued, lostChunks := [(pkResp.addr.toNat, 64)] }
theorem wit_response : linked.takes ptReadResp pkResp = true ∧ bitOf pkResp.addr.toNat mirrorBit = true ∧ bitOf pkResp.addr.toNat recordBit = false ∧ bitOf pkResp.addr.toNat parityBit = false ∧
  linked.sched.cmds.all (fun c => !(c.running && c.lostChunks.any fun q => q.1 == pkResp.addr.toNat)) = true ∧ (holding linked gathering).sched.cmds = [gathering] ∧ gathering.running = true ∧
  (gathering.lostChunks.any fun q => q.1 == pkResp.addr.toNat) = true := by decide
theorem wit_response_ready : NoneReady linked ∧ NoneReady (holding linked gathering) := ⟨by unfold NoneReady; decide, by unfold NoneReady; decide⟩
/-- A change of job 7 that a command of this module waits for. -/
def joinCmd : Cmd := { base.newCmd h0 (.jobJoin 7 3 1 0 0) with cid := 1, state := .issued }
def change : JobChange := { cid := 1, job := 7, release := false, x := 0, y := 0, z := 0, ctx := 1 }
def changing : State := { holding linked joinCmd with jobChanges := [change] }
/-- The record of an incident whose kind is 5. -/
def incidentRecord : List Byte := [0, 0, 0, 0, 0, 5]
theorem wit_service : linked.takes ptService pk = true ∧ linked.serve.reqs = [] ∧ leAt [] 5 1 ≠ 5 ∧ leAt incidentRecord 5 1 = 5 ∧ linked.mir.settle.since = none ∧ linked.mir.inter = none ∧ linked.job? 7 = none ∧
  linked.cle.colls = [] ∧ linked.cle.fences = [] ∧ linked.cle.jobTables = [] ∧ linked.jobChanges = [] ∧ (5 : W16) ≠ noIdent ∧ (5 : W16) ∉ linked.mir.settle.failed ∧
  (∀ q ∈ linked.memUnit.pages, q.poison = false ∧ q.lost = false) ∧ linked.routeLink pk.src linked.fab.ident none = some 0 ∧ linked.linkTakes 0 0 pk.src = true := by decide
theorem wit_changing : changing.takes ptService pk = true ∧ changing.jobChanges = [change] ∧ change.cid ≠ 0 ∧ change.release = false ∧ change.cid = joinCmd.cid ∧ (changing.ctx change.ctx).seed = 0 ∧
  (changing.ctx change.ctx).tenant = 0 := by decide
theorem wit_changing_alone : StandsAlone changing joinCmd := by unfold StandsAlone; decide
/-- Ring 0 with a tail that a doorbell moves, an ERROR ring, a core ring, a closing ring with nothing outstanding, and replies that the host has not read. -/
def coreRing : State := base.modRing 0 fun x => { x with core := true }
def closingRing : State := base.modRing 0 fun x => { x with state := .closing }
def unread : State := base.modRing 0 fun x => { x with cplTail := 3 }
theorem wit_doorbell : base.canReach .host (.cmdqDb 0) = true ∧ (base.ring (0 : Fin 64).castSucc).core = false ∧ (base.ring (0 : Fin 64).castSucc).state = .running ∧
  ((2 : W32) - (base.ring 0).head).toNat ≤ 2 ^ (base.ring 0).log2sz ∧ 2 ^ (base.ring 0).log2sz < ((300 : W32) - (base.ring 0).head).toNat ∧ (base.ring (1 : Fin 64).castSucc).state ≠ .running ∧
  coreRing.canReach .host (.cmdqDb 0) = true ∧ (coreRing.ring (0 : Fin 64).castSucc).core = true := by decide
theorem wit_enable : base.canReach .mgt .cmdqCfg = true ∧ (State.reset.ring (base.selRing .mgt)).enabled = false ∧ ((closingRing.modRing 0 fun x => { x with state := .disabled }).ring 0).enabled = false ∧ 4 ≤ (8 : W32).toNat % 32 ∧
  (base.ring (base.selRing .mgt)).enabled = true ∧ (0x40000008 : W32).getLsbD 30 = (base.ring 0).admin ∧ (0x40000008 : W32).getLsbD 29 = (base.ring 0).core ∧ (0x40000008 : W32).toNat % 32 = (base.ring 0).log2sz := by decide
theorem wit_closed : closingRing.outstanding 0 = 0 ∧ (closingRing.ring 0).state = .closing ∧ (holding closingRing (copyCmd false)).outstanding 0 ≠ 0 := by decide
theorem wit_cpl_head : unread.canReach .host .cmdqCplHead = true ∧ (unread.ring (unread.selRing .host)).core = false ∧ ((2 : W32) - (unread.ring 0).cplHead).toNat ≤ ((unread.ring 0).cplTail - (unread.ring 0).cplHead).toNat ∧
  ((unread.ring 0).cplTail - (unread.ring 0).cplHead).toNat < ((9 : W32) - (unread.ring 0).cplHead).toNat ∧ (unread.ring 0).state = .running := by decide
/-- A NOP packet of context 0 stands at the head of ring 0. -/
def submitted : State := let s := base.modRing 0 fun x => { x with tail := 1 }
  { s with mem := memWriteList s.mem (hostKey 0) (le 2 0x0100 ++ List.replicate 62 0) }
theorem wit_admit : (0 : RingId) ≠ mgtRing ∧ (base.ring 0).head = (base.ring 0).tail ∧ (submitted.ring 0).head ≠ (submitted.ring 0).tail ∧ (submitted.ring 0).state = .running ∧ submitted.mainUp = true ∧
  packetOf 0 (memReadList submitted.mem ((if (submitted.ring 0).core then fwKey else hostKey) ((submitted.ring 0).base.toNat + 64 * ((submitted.ring 0).head.toNat % 2 ^ (submitted.ring 0).log2sz))) 64) = (h0, .nop) ∧
  packetRow (.nop h0) = some (h0, .nop) ∧ submitted.runs h0 .nop = true := by decide
/-- The registers that a lock protects are locked. -/
def locked : State := { base with mode := { base.mode with lock := true }, tick := { base.tick with lock := true }, memUnit := { base.memUnit with lendLock := true }, fab := { base.fab with ctlLock := true } }
theorem wit_writes : locked.canReach .host .modeCtl = true ∧ locked.mode.lock = true ∧ base.canReach .host .tickAt = true ∧ base.tick.lock = false ∧ ((3 : W32) - base.tick32).toNat < 16 ∧
  16 ≤ ((20 : W32) - base.tick32).toNat ∧ ((20 : W32) - base.tick32).toNat < 2 ^ 31 ∧ base.tick.state ≠ .master ∧ mastered.tick.state = .master ∧ mastered.tick.lock = false ∧ mastered.canReach .host .tickAt = true ∧
  locked.tick.lock = true ∧ base.canReach .host .errNanRec0 = true ∧ (0x80000000 : W32).getLsbD 31 = true ∧ base.canReach .host .errCfg = true ∧ base.canReach .host .glbMemLend = true ∧ locked.memUnit.lendLock = true ∧
  base.memUnit.lendLock = false ∧ base.lentFrames ≤ (5 : W32).toNat % 2 ^ 20 ∧ base.canReach .host .fabLinkCtl = true ∧ base.fab.ctlLock = false ∧ locked.fab.ctlLock = true := by decide
theorem wit_accesses : base.canReach .host .tickTimeLo = true ∧ regAt Reg.errCfgCnt.off = some (.errCfgCnt, .ao) ∧ base.canReach .host .errCfgCnt = true ∧ base.rcKey .host .errCfgCnt = some 0 ∧ regAt 0x3 = none ∧
  (regAt Reg.modeCtl.off).map (·.1) = some .modeCtl ∧ State.reset.reaches .host Reg.modeCtl.off .m = false ∧ base.canReach .host .cmdqSel = true ∧ base.canReach .host .glbId = true ∧ base.canReach .host .glbGscShare = true ∧
  (base.modSched id).selCtx .host .glbGscSel = 0 ∧ base.canReach .host .tickColl = true ∧ base.canReach .host .glbPvStep = true ∧ base.canReach (.fw 0) .glbPvStep = true ∧ base.canReach .host .errEvtCons = true := by decide
/-- GSC_SEL of the host's bank names context 1. -/
def selected : State := base.setSel .host .glbGscSel 1
theorem wit_share : selected.selCtx .host .glbGscSel ≠ 0 ∧ selected.canReach .host .glbGscShare = true ∧ 1 ≤ (4 : W32).toNat % 32 ∧ (4 : W32).toNat % 32 ≤ 16 := by decide
theorem wit_windows : (let v : W32 := BitVec.ofNat 32 (2 * 2 ^ 8 + 3 * 2 ^ 12 + 8 * 2 ^ 17 + 2 * 2 ^ 21); (v.toNat / 2 ^ 8 % 16 + v.toNat / 2 ^ 12 % 32 ≤ 16 ∧ v.toNat / 2 ^ 17 % 16 + v.toNat / 2 ^ 21 % 32 ≤ 16 ∧
  v.toNat / 2 ^ 8 % 16 + v.toNat / 2 ^ 12 % 32 ≤ v.toNat / 2 ^ 17 % 16)) ∧ 16 < (BitVec.ofNat 32 (15 * 2 ^ 8 + 9 * 2 ^ 12) : W32).toNat / 2 ^ 8 % 16 + (BitVec.ofNat 32 (15 * 2 ^ 8 + 9 * 2 ^ 12) : W32).toNat / 2 ^ 12 % 32 := by decide
/-- A fault of context 1 at its page that TMU resolves itself: a granule's, or a DMA burst's. -/
def quiet (src : FSource) (unit : Nat) : PFault :=
  { id := 7, ctx := 1, gen := 1, cause := .notResident, write := false, src, unit, prog := 5, va := 0x200000, seq := 0, node := 0, tick := 0, cid := 1, recorded := false }
def stopped (f : PFault) : State :=
  let s := base.modMem fun m => { m with faults := [f] }
  let s := s.modProg 3 5 fun x => { x with cid := 1, wait := .faulted, held := .tick 0 }
  s.modChan 2 fun k => { k with state := .faulted, cid := 1, ctx := 1 }
theorem wit_resolved : base.faultsOf 7 = [] ∧ (stopped (quiet .ste 3)).faultsOf 7 = [quiet .ste 3] ∧ (stopped (quiet .bdm 2)).faultsOf 7 = [quiet .bdm 2] ∧ (quiet .ste 3).cause.silent = true ∧
  (((stopped (quiet .ste 3)).pageAt? 1 0x200000).bind (stopped (quiet .ste 3)).resolvePage).isSome = true ∧ ((stopped (quiet .ste 3)).prog (Fin.ofNat 64 3) (Fin.ofNat 16 5)).wait = .faulted ∧
  ((stopped (quiet .bdm 2)).chan (Fin.ofNat 32 2)).state = .faulted := by decide
theorem wit_resolved_ready : NoneReady base ∧ NoneReady (stopped (quiet .ste 3)) := ⟨by unfold NoneReady; decide, by unfold NoneReady; decide⟩
/-- A recorded fault of a MATMUL's granule, before and after its time limit. -/
def loud : PFault := { quiet .ste 3 with cause := .unmapped, recorded := true }
def expired : State :=
  let s := holding { stopped loud with tick := { base.tick with now := 130 } } (matCmd .issued false [])
  s.modChan 2 fun _ => {}
theorem wit_timeout : (stopped loud).faultsOf 7 = [loud] ∧ loud.cause.silent = false ∧ (stopped loud).tick.now < loud.tick + 128 ∧ expired.faultsOf 7 = [loud] ∧ loud.tick + 128 ≤ expired.tick.now ∧
  (expired.ctx loud.ctx).inWeights loud.va = false ∧ loud.cid = (matCmd .issued false []).cid ∧ (matCmd .issued false []).fixed = false := by decide
theorem wit_timeout_alone : NoneReady expired ∧ StandsAlone expired (matCmd .issued false []) := ⟨by unfold NoneReady; decide, by unfold StandsAlone; decide⟩
/-- A page of context 1, long idle, in a tier and with a hint; sled peer 1 has room. -/
def resting (t : Tier) (h : Hint) (z m : Bool) : State :=
  let s := base.modMem fun u => { u with pages := [{ page 1 48 with tier := t, hint := h, zero := z, migrating := m, dest := if m then some (.t3, 1) else none }], peerRoom := vmod u.peerRoom 1 fun _ => 8 }
  { s with tick := { s.tick with now := 2000 } }
theorem wit_move : ((resting .t2 .preferT3 false false).pageAt? 1 0x200000).elim false (fun p => (resting .t2 .preferT3 false false).mayMove p && ((resting .t2 .preferT3 false false).effHint p == .preferT3) &&
    ((resting .t2 .preferT3 false false).roomIn p .t3 == some 1) && ((resting .t2 .preferT3 false false).blockOf p).all fun q => decide (q.named + 1024 ≤ 2000)) = true ∧
  ((resting .t2 .preferT3 true false).pageAt? 1 0x200000).elim false (fun p => (resting .t2 .preferT3 true false).mayMove p && ((resting .t2 .preferT3 true false).roomIn p .t3 == some 0)) = true ∧
  ((resting .t3 .preferT2 false false).pageAt? 1 0x200000).elim false (fun p => (resting .t3 .preferT2 false false).mayMove p && ((resting .t3 .preferT2 false false).effHint p == .preferT2) &&
    (resting .t3 .preferT2 false false).roomT2 1 ((resting .t3 .preferT2 false false).moveUnits p false)) = true ∧
  ((resting .t2 .preferT2 false false).pageAt? 1 0x200000).elim false (fun p => (resting .t2 .preferT2 false false).mayMove p && p.tier == ((resting .t2 .preferT2 false false).effHint p).tier) = true ∧
  ((resting .t2 .preferT3 false true).pageAt? 1 0x200000).elim false (fun p => !(resting .t2 .preferT3 false true).mayMove p && p.migrating) = true ∧ base.pageAt? 1 0x900000 = none := by decide
theorem wit_move_ready : NoneReady (resting .t2 .preferT3 false false) := by unfold NoneReady; decide
/-- Stack 3 copies channel 4, on which row 9 has failed; or it is out. -/
def patched : State := base.modStack 3 fun x => { x with copying := [4], rows := [{ channel := 4, row := 9, ces := [], failed := true, frames := [27] }], retired := 1 }
def stackless : State := base.modStack 3 fun x => { x with out := true }
theorem wit_hbm : (stackless.memUnit.hbm[(3 : StackId)]).out = true ∧ (base.memUnit.hbm[(3 : StackId)]).out = false ∧ ((base.memUnit.hbm[(3 : StackId)]).rowRec 4 9).ces = [] ∧ ((base.memUnit.hbm[(3 : StackId)]).rowRec 4 9).failed = false ∧
  (base.memUnit.hbm[(3 : StackId)]).reserve ≠ 0 ∧ (base.memUnit.hbm[(3 : StackId)]).copying.contains 4 = false ∧ (patched.memUnit.hbm[(3 : StackId)]).copying.contains 4 = true ∧ (patched.memUnit.hbm[(3 : StackId)]).out = false ∧
  (base.memUnit.hbm[(3 : StackId)]).hourCe = [] ∧ (base.memUnit.hbm[(3 : StackId)]).rows = [] := by decide
theorem wit_hbm_ready : NoneReady patched ∧ NoneReady stackless := ⟨by unfold NoneReady; decide, by unfold NoneReady; decide⟩
/-- Channels 2 and 5 have bursts to send for one command; channel 2 has waited longer, channel 5 has a rate cap. -/
def bursting (grants : Nat) : State :=
  let s := (copying false).modChan 2 fun k => { k with desc := 0, flight := [], lastGrant := 1 }
  let s := s.modSched fun g => { g with cmds := [copyCmd false, { copyCmd false with cid := 2, chan := some 5 }] }
  let s := s.modChan 5 fun k => { k with state := .active, cid := 2, ctx := 1, pri := 1, rateCap := 1, tokens := 32, lastGrant := 9 }
  { s with dma := { s.dma with grants := vmod s.dma.grants 0 fun _ => grants } }
theorem wit_grants : (bursting 0).eligible 0xFFFFFFFF 5 = false ∧ ((bursting 0).fillTokens 8).eligible 0xFFFFFFFF 5 = true ∧ ((bursting 15).fillTokens 8).eligible 0xFFFFFFFF 2 = true ∧ ((bursting 0).chan 5).rateCap ≠ 0 ∧
  ((bursting 15).dma.grants[(0 : Fin 4)]) % 16 = 15 ∧ ((bursting 0).dma.grants[(0 : Fin 4)]) % 16 ≠ 15 ∧ ∀ k, (base.fillTokens 8).eligible 0xFFFFFFFF k = false := by decide +kernel
/-- The module is off, in vigil, or runs with a change of its tick settings due at tick 1 or later. -/
def retimed (n : W32) : State := { base with tick := { base.tick with change := some { at_ := n, tcal := 8, len1 := 1, start1 := 2, len0 := 3, start0 := 4 } } }
theorem wit_tick : State.reset.mainUp = false ∧ State.reset.inVigil = false ∧ base.mainUp = true ∧ base.sched.cmds = [] ∧ base.serve.reqs = [] ∧ base.tick.change = none ∧ watching.inVigil = true ∧ watching.mainUp = false ∧
  watching.tick.change = none ∧ watching.framesFit watching.allLeaving = true ∧ (1 : W32) = BitVec.ofNat 32 ((retimed 1).tick.now + 1) ∧ (9 : W32) ≠ BitVec.ofNat 32 ((retimed 9).tick.now + 1) ∧ (retimed 1).mainUp = true := by decide
/-- The clock runs at 1,000 MHz, and a change of the POWER mode is under way; sensor 0x23 of stack 3 reads OK. -/
def clocked (x : SnsState) : State := { base with power := { base.power with mhz := 1000, changing := true, sensors := [(0x23, 0, x)] } }
theorem wit_clock : base.power.changing = false ∧ (clocked .ok).power.changing = true ∧ State.reset.boot.run ≠ .running ∧ base.boot.run = .running ∧ base.powerLimit < (0xFFFF : W16).toNat ∧ base.thermal = false ∧
  (base.powerLimit - 20 ≤ 0xFFFF ∧ (BitVec.ofNat 16 (base.powerLimit - 20)).toNat ≤ base.powerLimit ∧ base.powerLimit ≤ (BitVec.ofNat 16 (base.powerLimit - 20)).toNat + 50) ∧ (3 : W16).toNat + 50 < base.powerLimit ∧
  (base.power.sensors.any fun x => x.1 == (0x23 : W16).toNat) = false := by decide
theorem wit_sensor : (clocked .ok).power.sensors.find? (fun x => x.1 == 0x20 + (3 : StackId).val) = some (0x20 + (3 : StackId).val, 0, .ok) ∧ (850 : W32).toInt ≤ 850 ∧ 850 < (900 : W32).toInt ∧ (900 : W32).toInt ≤ 900 ∧
  900 < (1000 : W32).toInt ∧ (1000 : W32).toInt ≤ 1000 ∧ 1000 < (1001 : W32).toInt ∧ (clocked .ok).boot.run = .running ∧ (clocked .ok).mgt.hardReset = false ∧ (clocked .ok).mgt.jtagHold = false := by decide
/-- The vault sensor throttles. -/
def hotVault : State := { base with power := { base.power with sensors := [(0x38, 0, .throttle)] } }
theorem wit_vault_sensor : hotVault.power.sensors.find? (fun x => x.1 == 0x38) = some (0x38, 0, .throttle) ∧ 720 < (721 : W32).toInt ∧ (850 : W32).toInt ≤ 850 ∧ (670 : W32).toInt ≤ 670 := by decide
/-- A start in a phase. -/
def starting (p : StartPhase) : State := { State.reset with boot := { State.reset.boot with run := .starting p } }
theorem wit_start : (starting .power).boot.run = .starting .power ∧ ({ ok := true } : PhaseEnd).ledgerOk = true ∧ ({ ok := false } : PhaseEnd).ok = false ∧ (starting .root).boot.run = .starting .root ∧
  64 ≤ ((List.finRange 72).filter (starting .sliceMap).slotGood).length ∧ (starting .links).linksSettled = true ∧ base.boot.run = .running := by decide
/-- The start before it failed in manual vigil; nine slots are bad; a start waits. -/
def manual : State := { starting .root with boot := { (starting .root).boot with vigilState := some rsnManual } }
def sparse : State := { starting .sliceMap with boot := { (starting .sliceMap).boot with badSlots := (List.finRange 72).take 9 } }
def pausing : State := { State.reset with boot := { State.reset.boot with run := .waiting } }
theorem wit_start_fails : manual.boot.vigilState = some rsnManual ∧ ((List.finRange 72).filter sparse.slotGood).length < 64 ∧ pausing.boot.run = .waiting ∧ pausing.mgt.hardReset = false ∧ pausing.mgt.jtagHold = false := by decide
/-- A device reset has its record left to capture; HARD_RESET_N holds the module. -/
def recording : State := { base with ras := { base.ras with capturing := [{ trigger := 4, resets := true }] } }
def heldDown : State := { State.reset with boot := { State.reset.boot with run := .held }, mgt := { State.reset.mgt with hardReset := true } }
theorem wit_power : State.reset.boot.run = .off ∧ State.reset.mgt.hardReset = false ∧ State.reset.mgt.jtagHold = false ∧ base.boot.run ≠ .off ∧ heldDown.boot.run = .held ∧ heldDown.mgt.jtagHold = false ∧ base.ras.resetting = false ∧
  recording.ras.capturing = [{ trigger := 4, resets := true }] ∧ ({ trigger := 4, resets := true } : Capture).resets = true ∧ recording.boot.vigilPending = false ∧ watching.inVigil = true ∧ watching.mgt.hardReset = false := by decide
/-- Link 0 in a state; the tick is LOCKED. -/
def linkIn (x : LinkState) : State := { linked.modLink 0 fun l => { l with state := x } with tick := { linked.tick with state := .locked } }
def linkInVigil : State := { linkIn .train with boot := { base.boot with run := .vigil } }
theorem wit_link : (linkIn .up).linkUsed 0 = true ∧ ((linkIn .down).link 0).state = .down ∧ (linkIn .down).linkUsed 0 = true ∧ ((linkIn .up).link 0).state ≠ .down ∧ ((linkIn .train).link 0).state = .train ∧ (linkIn .train).inVigil = false ∧
  16 ≤ goodLanes 0x3FFFF ∧ 16 ≤ goodLanes 0xFFFF ∧ 8 ≤ goodLanes 0xFF ∧ goodLanes 0x7FFF < 16 ∧ goodLanes 0x7F < 8 ∧ linkInVigil.inVigil = true ∧ (linkInVigil.link 0).state = .train ∧ ((linkIn .auth).link 0).state = .auth ∧
  ((linkIn .align).link 0).state = .align ∧ (linkIn .align).tick.state = .locked ∧ ((linkIn .reconfig).link 0).state = .reconfig := by decide
/-- Link 0 has all its lanes and agrees on a swap, or reconfigures. -/
def laned (x : LinkState) (ok : BitVec 18) : State := (linkIn x).modLink 0 fun l => { l with laneOk := ok, lanes := 16, swap := some (3, 17, 9) }
theorem wit_lanes : 16 < goodLanes ((laned .up 0x3FFFF).link 0).laneOk ∧ ((laned .up 0x3FFFF).link 0).laneOk.getLsbD 3 = true ∧ ((laned .up 0x3FFFF).link 0).swap = some (3, 17, 9) ∧ ((linkIn .up).link 0).swap = none ∧
  8 ≤ goodLanes ((laned .reconfig 0xFF).link 0).laneOk ∧ goodLanes ((laned .reconfig 0x7F).link 0).laneOk < 8 := by decide
/-- The tick has been in HOLDOVER for 1,000 ticks. -/
def adrift : State := { base with tick := { base.tick with state := .holdover, now := 1000 } }
theorem wit_holdover : adrift.tick.state = .holdover ∧ adrift.usTicks 100000 ≤ adrift.tick.now - adrift.tick.holdFrom ∧ base.tick.state ≠ .holdover := by decide
/-- Link 0 awaits the acknowledgment of heartbeat 5, some already missed; or it discards until the replay. -/
def awaiting (n : Nat) : State := (linkIn .up).modLink 0 fun l => { l with awaiting := some 5, misses := n }
def nakking : State := (linkIn .up).modLink 0 fun l => { l with nakked := true }
def failedLink : State := (linkIn .failed).modLink 0 fun l => { l with nbrInc := 4 }
/-- Flits of the neighbour: in order and with a heartbeat and an acknowledgment, damaged, and of a new incarnation. -/
def good : Flit := { fseq := 0, beat := true, ack := true, hbState := hbActive, hbTick := 5, ident := 1, pslot := 1 }
def broken : Flit := { good with crcOk := false }
def reborn : Flit := { good with incarn := 7 }
theorem wit_flits : ((linkIn .train).link 0).state ∈ [LinkState.disabled, .down, .train] ∧ (failedLink.link 0).state = .failed ∧ broken.crcOk = false ∧ reborn.crcOk = true ∧ reborn.incarn ≠ (failedLink.link 0).nbrInc ∧
  ((awaiting 1).link 0).usable = true ∧ (nakking.link 0).usable = true ∧ (nakking.link 0).nakked = true ∧ ({ good with fseq := 9 } : Flit).fseq ≠ (nakking.link 0).rseq + 1 ∧ ((awaiting 1).link 0).state = .up ∧ good.crcOk = true ∧
  ((awaiting 1).link 0).nakked = false ∧ good.incarn = ((awaiting 1).link 0).nbrInc ∧ good.hbState ≠ hbStarting ∧ good.hbState ≠ hbSpare ∧ good.hbState ≠ hbVigil ∧ good.ack = true ∧
  ((awaiting 1).link 0).awaiting = some good.hbTick ∧ reborn.incarn ≠ ((awaiting 1).link 0).nbrInc ∧ ((awaiting 1).link 0).nbrIdent ≠ noIdent := by decide
theorem wit_misses : ((linkIn .up).link 0).awaiting = none ∧ ((awaiting 1).link 0).awaiting ≠ none ∧ ((awaiting 1).link 0).misses < 2 ∧ 2 ≤ ((awaiting 2).link 0).misses := by decide
theorem wit_flits_ready : NoneReady (awaiting 1) ∧ NoneReady failedLink ∧ NoneReady nakking := ⟨by unfold NoneReady; decide, by unfold NoneReady; decide, by unfold NoneReady; decide⟩
theorem wit_pcie : State.reset.pciePowered = false ∧ base.pciePowered = true ∧ (∀ k, (base.chan k).state = .idle ∨ base.hostChan k = false) ∧ base.sched.cmds = [] ∧ (base.ring (0 : Fin 64).castSucc).state = .running ∧
  (base.ring (0 : Fin 64).castSucc).core = false ∧ linkLegal 5 16 false = true ∧ linkLegal 6 16 false = false := by decide
/-- A command of context 1 that runs on engine 0, whose slot is 0. -/
def longCmd (fixed : Bool) : Cmd := { (tileCmd fixed [] [] 0) with budget := 4, issuing := true, kb := { (tileCmd fixed [] [] 0).kb with engs := [{ eng := 0, banks := 0, images := [] }] } }
def long (fixed : Bool) : State := holding base (longCmd fixed)
/-- GSC has stopped the command, and a unit has yet to confirm. -/
def stopping : State := (long false).modRas fun a => { a with stops := [(1, 99)] }
def record (d : Domain) (x : DomPhase) : DomReset := { d, phase := x, named := 1, namedGen := 1, unit := domainUnit d }
def restopping : State := stopping.modRas fun a => { a with resets := [record (.slice 0) .fenced] }
theorem wit_hang : base.cmd? 1 = none ∧ (longCmd false).running = true ∧ budgetLimit (longCmd false) ≤ 99 ∧ (long false).clockStands (longCmd false) = false ∧ (long false).clockStands { longCmd false with issuing := false } = true ∧ (long false).ras.stops = [] ∧
  (longCmd false).ctx ≠ 0 ∧ ((long false).within hourUs ((long false).ctx (longCmd false).ctx).guilty).length < 3 ∧ stopping.ras.stops = [((longCmd false).cid, 99)] ∧ stopping.ras.resets = [] ∧ domainOf 0x5000 = some (.slice 0) ∧
  (base.ras.stops.any fun p => p.1 == 1) = false ∧ stopping.stopping 1 = true ∧ restopping.ras.stops = [((longCmd false).cid, 99)] ∧ restopping.ras.resets = [record (.slice 0) .fenced] := by decide
theorem wit_hang_alone : NoneReady (long false) ∧ StandsAlone (long false) (longCmd false) ∧ StandsAlone (long true) (longCmd true) ∧ NoneReady stopping ∧ StandsAlone stopping (longCmd false) ∧ StandsAlone restopping (longCmd false) ∧ NoneReady restopping :=
  ⟨by unfold NoneReady; decide, by unfold StandsAlone; decide, by unfold StandsAlone; decide, by unfold NoneReady; decide, by unfold StandsAlone; decide, by unfold StandsAlone; decide, by unfold NoneReady; decide⟩
theorem wit_watchdog : watched 0x1000 = false ∧ watched 0x5000 = true ∧ base.ras.wdogOff 0x5000 = false ∧ base.ras.resets = [] ∧ base.fab.held = [] ∧ watched 0x3000 = true ∧ base.ras.wdogOff 0x3000 = false ∧ domainOf 0x3000 = none := by decide
/-- A domain resets, in a phase; its record is being captured; commands of its slot run. -/
def domained (d : Domain) (x : DomPhase) : State := base.modRas fun a => { a with resets := [record d x] }
def capture (d : Domain) : Capture := { domain := some d, trigger := 2 }
def capturing (d : Domain) : State := (domained d .drained).modRas fun a => { a with capturing := [capture d] }
def caught (fixed again : Bool) : State := (long fixed).modRas fun a => { a with resets := [record (.slice 0) .fenced], caught := if again then [(1, .slice 0)] else [] }
def linkReset : State := (domained (.link 0) .captured).modLink 0 fun l => { l with state := .reconfig }
theorem wit_domain : (domained (.slice 0) .fenced).ras.resets = [record (.slice 0) .fenced] ∧ (domained (.slice 0) .fenced).sched.cmds = [] ∧ (capturing (.slice 0)).ras.capturing = [capture (.slice 0)] ∧ (capture (.slice 0)).resets = false ∧
  (capturing (.slice 0)).ras.domRing.length = (capturing (.slice 0)).ras.ringCount ∧ ((longCmd false).kb.engs.any fun e => decide ((caught false true).slotOfEng e.eng = 0)) = true ∧ (longCmd false).running = true ∧
  ((1 : Nat), Domain.slice 0) ∈ (caught false true).ras.caught ∧ ((1 : Nat), Domain.slice 0) ∉ (caught false false).ras.caught ∧ (linkReset.link 0).state = .reconfig ∧ linkReset.sched.cmds = [] ∧
  ((domained (.channel 3 4) .captured).memUnit.hbm[(3 : StackId)]).out = false ∧ ((domained (.channel 3 4) .captured).memUnit.hbm[(3 : StackId)]).reserve ≠ 0 ∧ ((domained (.link 0) .fenced).link 0).usable = false := by decide
theorem wit_domain_alone : NoneReady (domained (.slice 0) .fenced) ∧ NoneReady (caught true false) ∧ StandsAlone (caught true false) (longCmd true) ∧ StandsAlone (caught false true) (longCmd false) ∧ StandsAlone (caught false false) (longCmd false) :=
  ⟨by unfold NoneReady; decide, by unfold NoneReady; decide, by unfold StandsAlone; decide, by unfold StandsAlone; decide, by unfold StandsAlone; decide⟩
/-- Core 3 in a state, with a hang some time ago or none. -/
def cored (x : CoreState) (old : List Nat) : State :=
  { (base.setCore 3 x).modRas fun a => { a with coreHangs := vmod a.coreHangs 3 fun _ => old } with tick := { base.tick with now := 100 } }
theorem wit_core : (cored .stopped []).coreState 3 = .stopped ∧ (cored .free []).coreState 3 = .free ∧ (cored .free []).within dayUs (cored .free []).ras.coreHangs[(3 : CoreId)] = [(cored .free []).nowUs] ∧
  (cored .free []).coreState 4 = .free ∧ (cored .free [5]).within dayUs (cored .free [5]).ras.coreHangs[(3 : CoreId)] ≠ [(cored .free [5]).nowUs] ∧ (cored .free [5]).ras.hungUnits.contains (unitCore 3) = false := by decide
/-- Incident 9 is open, its update held or not. -/
def opened (x : Bool) : Incident := { id := 9, unit := 0x5003, alarms := 1, faults := 2, warns := 3, holdoff := true, held := x }
def incidents (x : Bool) : State := base.modRas fun a => { a with incidents := [opened x] }
/-- TRACE records were suppressed on both paths; an ALARM waits; an event interrupt is held. -/
def quieted : Bucket := { rate := 100, burst := 16, tokens := 1000000, pend := 5, first := 3 }
def suppressed : State := base.modRas fun a => { a with
  evtEnable := true, hostBuckets := Vector.replicate 4 quieted, mgtBuckets := Vector.replicate 3 quieted, alarmQ := [{ tick := 3, cls := .alarm, code := 7, unit := 0x5003 }], evtHeld := true }
theorem wit_events : (∀ i ∈ base.ras.incidents, i.id ≠ 9) ∧ opened true ∈ (incidents true).ras.incidents ∧ opened false ∈ (incidents false).ras.incidents ∧ (opened true).held = true ∧ (opened false).held = false ∧
  (base.ras.hostBuckets[(1 : Fin 4)]).pend = 0 ∧ (suppressed.ras.hostBuckets[(1 : Fin 4)]).pend ≠ 0 ∧ 1000000 ≤ (suppressed.ras.hostBuckets[(1 : Fin 4)]).tokens ∧ suppressed.ras.evtRoom = true ∧ suppressed.ras.evtCore = false ∧
  memWf suppressed.mem = true ∧ suppressed.ras.evtHoldoff = false ∧ (suppressed.ras.mgtBuckets[(1 : Fin 3)]).pend ≠ 0 ∧ base.ras.alarmQ = [] ∧ suppressed.ras.alarmQ ≠ [] ∧ suppressed.ras.evtHeld = true ∧ base.ras.evtHeld = false := by decide
/-- Slot 5 awaits the recheck of a mismatch. -/
def suspect : State := base.modRas fun a => { a with slots := vmod a.slots 5 fun x => { x with recheck := some (base.sentinelFinger 5 3 0 40 700 1 9).key, recent := [0] } }
theorem wit_sentinels : (base.ras.slots[(5 : SlotId)]).recheck ≠ some (base.sentinelFinger 5 3 0 40 700 1 9).key ∧ (∀ e, base.slotOfEng e = 5 → (base.slice e).flips = 0) ∧ (base.ras.slots[(5 : SlotId)]).healthy = true ∧
  base.within dayUs (base.ras.slots[(5 : SlotId)]).recent = [base.nowUs] ∧ (suspect.ras.slots[(5 : SlotId)]).recheck = some (suspect.sentinelFinger 5 3 0 40 700 1 9).key := by decide
/-- Engine 5 runs on slot 5, with a reserve slice in its octave. -/
def mapped : State := suspect.modRas fun a => { a with map := vmod a.map 5 fun _ => 5 }
theorem wit_recheck : mapped.slotOfEng 5 = 5 ∧ (∀ e', mapped.slotOfEng e' = 5 → e' = 5) ∧ (mapped.ras.reserveFor (octOf 5)).isSome = true ∧ mapped.ras.reserveFor (octOf 5) ≠ some 5 ∧
  (mapped.ras.slots[(5 : SlotId)]).recheck = some (mapped.sentinelFinger 5 3 0 40 700 1 9).key := by decide
/-- A side-bus session is open where said, and the module runs, starts, or is in vigil. -/
def secured (s : State) : State := { s with mgt := { s.mgt with sessions := vmod s.mgt.sessions 0 fun _ => true } }
theorem wit_side : sideRow .bypass = true ∧ State.reset.boot.run = .off ∧ base.boot.run ≠ .off ∧ securedRow (.deviceReset (some 1)) = some (some 1, famRolmel + 5) ∧ base.mgt.sessions[(1 : Fin 2)] = false ∧ base.mgt.i3cAddr = none ∧
  (0x60 : BitVec 7).toNat = (if 8 < base.fab.pslot.val then 0x6F else 0x60 + base.fab.pslot.val) ∧ ((secured base).mgt.sessions[(0 : Fin 2)]) = true ∧ base.mgt.sessions[(0 : Fin 2)] = false ∧ base.mgt.shaking[(0 : Fin 2)] = false := by decide
/-- The side bus has its address, a handshake is under way, a session open, and the almanac has entries. -/
def bused : State := { embered with mgt := { base.mgt with i3cAddr := some 9, shaking := vmod base.mgt.shaking 0 fun _ => true, sessions := vmod base.mgt.sessions 1 fun _ => true },
                                    boot := { base.boot with almanac := List.replicate 42 [1, 2] } }
theorem wit_side_reads : bused.mgt.i3cAddr ≠ none ∧ bused.mgt.shaking[(0 : Fin 2)] = true ∧ (∀ k : Fin 2, bused.mgt.sessions[k] = true ∨ bused.mgt.shaking[k] = true) ∧ (0x100 ≤ (0x142 : W16).toNat ∧ (0x142 : W16).toNat - 0x100 ∈ sensorCodes) ∧
  ¬(0x100 ≤ (0x42 : W16).toNat ∧ (0x42 : W16).toNat - 0x100 ∈ sensorCodes) ∧ base.boot.almanac = [] ∧ bused.boot.almanac ≠ [] ∧ (40 : Byte).toNat + (2 : Byte).toNat ≤ 42 ∧ 42 < (40 : Byte).toNat + (3 : Byte).toNat ∧
  (bused.ras.emberAt 0 0).map (·.bytes.length) = some 80 ∧ bused.ras.emberAt 0 1 = none ∧ (0 : W64).toNat + (80 : W16).toNat ≤ 80 ∧ 80 < (1 : W64).toNat + (80 : W16).toNat ∧ base.mgtReaches 0x1000 = true ∧ base.mgtReaches 0x100000 = false := by decide
theorem wit_secured : (secured base).mode.lock = false ∧ (secured base).mgtReaches 0x1000 = true ∧ (secured locked).mode.lock = true ∧ (secured locked).mgtReaches 0x1000 = true ∧ (secured watching).inVigil = true ∧ (secured watching).boot.run ≠ .off ∧
  (secured base).boot.run = .running ∧ (secured base).ras.resetting = false ∧ (secured recording).inVigil = false ∧ ((secured recording).modRas fun a => { a with resetting := true }).ras.resetting = true := by decide
/-- Editions are all programmed; the active edition asks for security version 5. -/
def fullOtp : State := secured { base with boot := { base.boot with otp := Vector.replicate 4 (some []) } }
def versioned : State := secured { base with boot := { base.boot with active := some 1, otp := vmod base.boot.otp 1 fun _ => some (List.replicate 0x70 0 ++ [5, 0, 0, 0]) } }
theorem wit_otp : (List.replicate 256 0 : List Byte).length = 256 ∧ fullOtp.killsActive (List.replicate 256 0) = none ∧ (∀ j : Fin 4, fullOtp.boot.otp[j] ≠ none) ∧ versioned.killsActive (List.replicate 256 0) = none ∧
  versioned.boot.otp[(0 : Fin 4)] = none ∧ leAt (List.replicate 256 0) 0x70 4 < versioned.minSvn ∧ (secured base).killsActive (List.replicate 256 0) = none ∧ (secured base).boot.otp[(0 : Fin 4)] = none ∧
  (secured base).minSvn ≤ leAt (List.replicate 256 0) 0x70 4 := by decide
/-- The management ring has a command outstanding, sixteen of them, or the reply to its command 5. -/
def mgtCmd (n : Nat) : Cmd := { base.newCmd { ring := mgtRing, seq := 5 } .nop with cid := n }
def mgtBusy : State := secured ((base.modRing mgtRing fun x => { x with tail := 16, nextSeq := some 0 }).modSched fun g => { g with cmds := (List.range 16).map mgtCmd })
def mgtDone : State := secured (base.modRing mgtRing fun x => { x with hist := [{ seq := 5, ctx := 0, phase := .committed, status := 0, units := 0, done := [], reply := [7] }] })
theorem wit_keys : (secured base).mainUp = true ∧ (secured watching).mainUp = false ∧ (List.replicate 32 0 : List Byte).length = 32 ∧ (List.replicate 96 0 : List Byte).length = 96 ∧ (secured base).vault.keys[(2 : Fin 8)] = none ∧
  16 ≤ mgtBusy.outstanding mgtRing ∧ (secured base).outstanding mgtRing < 16 ∧ mgtBusy.boot.run = .running ∧ mgtCmd 3 ∈ mgtBusy.sched.cmds ∧ (mgtCmd 3).ring = mgtRing ∧ (mgtCmd 3).run = none ∧ (mgtCmd 3).seq = 5 ∧
  (∀ c ∈ mgtDone.sched.cmds, c.ring ≠ mgtRing) ∧ ((mgtDone.ring mgtRing).hist.head?).map (·.seq) = some 5 ∧ (∀ e ∈ ((secured base).ring mgtRing).hist.take 16, e.seq ≠ 5) ∧ (secured watching).boot.run ≠ .running := by decide
theorem wit_submit : (packetOf mgtRing (List.replicate 64 0)).1.ring = mgtRing ∧ (List.replicate 64 0 : List Byte).length = 64 := by decide
/-- A firmware update has been written. -/
def updated (s : State) : State := { s with boot := { s.boot with written := true } }
theorem wit_update : base.boot.written = false ∧ (updated base).boot.written = true ∧ (updated base).inVigil = false ∧ (updated watching).inVigil = true ∧ (updated watching).bankPasses (if watching.boot.bank then 0 else 1) = false ∧
  watching.mgt.hardReset = false ∧ watching.mgt.jtagHold = false ∧ pausing.boot.run = .waiting ∧ unitExists 0x5003 = true ∧ (1 : Byte).toNat ≤ 1 ∧ base.jtagLock = false ∧ heldDown.boot.run = .held ∧ base.ras.resetting = false := by decide
def jtagHeld : State := { heldDown with mgt := { heldDown.mgt with hardReset := false, jtagHold := true } }
/-- The active edition locks the debug ring. -/
def jtagLocked : State := { base with boot := { base.boot with active := some 1, otp := vmod base.boot.otp 1 fun _ => some (List.replicate 0xB3 0 ++ [1]) } }
theorem wit_test_port : jtagHeld.boot.run = .held ∧ jtagHeld.mgt.hardReset = false ∧ jtagLocked.jtagLock = true ∧ base.boot.run ≠ .held := by decide
/-- Port 0 is up and secure, with a key and address 9; queue 32 is context 1's, queue 0 holds a transmit record. -/
def ported (sec : Bool) : State := { serving with serve := { serving.serve with
  ports := vmod serving.serve.ports 0 fun x => { x with link := true, secure := sec, ip := 9, cak := some ([1], []) },
  queues := vmod (vmod serving.serve.queues 32 fun q => { q with gen := 1 }) 0 fun q =>
    { q with bytes := le 2 48 ++ List.replicate 14 0 ++ [0x60, 0, 0, 0, 0, 8, 58, 64] ++ List.replicate 15 0 ++ [9] ++ List.replicate 88 0 } } }
def frame : Frame := { bytes := 100, secure := true, srcIp := 7, dstIp := 9, udpDst := 9, packet := [0x60, 0, 0, 0] }
/-- The generation of context 1 has gone on; queue 32 is full; the first record is too short. -/
def outdated : State := (ported true).modCtx 1 fun x => { x with gen := 2 }
def brimming : State := (ported true).modQueue 32 fun q => { q with bytes := List.replicate queueBytes 0 }
def shortRec : State := (ported true).modQueue 0 fun q => { q with bytes := List.replicate 128 0 }
theorem wit_frames : (base.serve.ports[(0 : Fin 2)]).link = false ∧ ((ported false).serve.ports[(0 : Fin 2)]).secure = false ∧ ((ported true).serve.ports[(0 : Fin 2)]).link = true ∧ ((ported true).serve.ports[(0 : Fin 2)]).secure = true ∧
  ({ frame with bytes := 63 } : Frame).bytes < 64 ∧ frame.dstIp = ((ported true).serve.ports[(0 : Fin 2)]).ip ∧ (ported true).rxQueue 0 frame = some 32 ∧ ((ported true).serve.queues[(32 : Fin 64)]).ctx = some 1 ∧ outdated.rxQueue 0 frame = some 32 ∧
  (outdated.ctx 1).gen ≠ (outdated.serve.queues[(32 : Fin 64)]).gen ∧ (ported true).live 1 = true ∧ ((ported true).ctx 1).gen = ((ported true).serve.queues[(32 : Fin 64)]).gen ∧
  ((ported true).serve.queues[(32 : Fin 64)]).bytes.length + (rxRecord 0 (ported true).tick32 frame.packet).length ≤ queueBytes := by decide
theorem wit_frame_full : brimming.rxQueue 0 frame = some 32 ∧ queueBytes < (brimming.serve.queues[(32 : Fin 64)]).bytes.length + (rxRecord 0 brimming.tick32 frame.packet).length := by
  refine ⟨by decide, ?_⟩
  have h : (brimming.serve.queues[(32 : Fin 64)]).bytes = List.replicate queueBytes 0 := rfl
  have k : 0 < (rxRecord 0 brimming.tick32 frame.packet).length := by simp [rxRecord, le]
  rw [h, List.length_replicate]
  exact Nat.lt_add_of_pos_right k
theorem wit_records : portOf (0 : Fin 32).val = 0 ∧ (let bs := ((ported true).serve.queues[(Fin.ofNat 64 (0 : Fin 32).val : Fin 64)]).bytes; 64 ≤ bs.length ∧ 40 ≤ leAt bs 0 2 ∧ leAt bs 0 2 ≤ 9000 ∧ leAt bs 3 1 = 0 ∧ leAt bs 4 4 = 0 ∧ leAt bs 8 8 = 0 ∧
    roundUp (16 + leAt bs 0 2) 64 ≤ bs.length ∧ (sliceOf bs 24 16).reverse = le 16 ((ported true).serve.ports[(0 : Fin 2)]).ip.toNat ∧ leAt bs 22 1 ≠ 17) ∧
  leAt (shortRec.serve.queues[(Fin.ofNat 64 (0 : Fin 32).val : Fin 64)]).bytes 0 2 < 40 ∧ 64 ≤ (shortRec.serve.queues[(Fin.ofNat 64 (0 : Fin 32).val : Fin 64)]).bytes.length := by decide
theorem wit_ports : (base.serve.ports[(0 : Fin 2)]).cak = none ∧ ((ported true).serve.ports[(0 : Fin 2)]).cak ≠ none ∧ (9 : BitVec 128) = ((ported true).serve.ports[(0 : Fin 2)]).ip ∧ (8 : BitVec 128) ≠ ((ported true).serve.ports[(0 : Fin 2)]).ip := by decide
/-- A request of client 7 to service 2 with a prompt of two tokens, one of them in the REQUEST. -/
def ask : Request := { client := 7, udp := 9, session := 5, req := 1, service := 2, rclass := 0, nstop := 0, prompt := 2, maxTokens := 4, firstDl := 0, totalDl := 0, temp := 0, topP := 0x3F800000, topK := 0, seed := 0, stops := [], tokens := [3], at_ := 0 }
/-- Service 2 also takes contexts of eight tokens. -/
def service2 : Instance := { ctx := 1, cfg := { txq := 0, rxFirst := 32, rxCount := 1, liveMax := 4, bulkMax := 4, maxCtx := 8, vocab := 100, sessMax := 4, bulkWait := 9, idleLimit := 1 } }
def deush : State := serving.setInst 2 (some service2)
theorem wit_request : base.serviceRuns .servingLoop = false ∧ (∀ k, serving.inst k = none) ∧ deush.serviceRuns .servingLoop = true ∧ deush.serve.reqs = [] ∧ (deush.inst (Fin.ofNat 16 ask.service.toNat)).map (fun x => deush.live x.ctx && !badRequest x.cfg ask && badRequest x.cfg { ask with rclass := 4 }) = some true ∧
  ask.service.toNat < 16 ∧ ask.tokens.length < ask.prompt.toNat ∧ deush.req? 7 5 1 = none := by decide +kernel
/-- The request waits: its second prompt token is still to come, or it has ended with a message not acknowledged. -/
def asked (x : ReqState) : Req := { client := 7, session := 5, req := 1, svc := 2, info := ask, state := x, got := [(0, 3)] }
def tardy (n : Nat) : Req := { asked .ended with unacked := [{ seq := 4, typ := 6, payload := [], resends := n }] }
def waited (r : Req) (now : Nat) : State := { deush with serve := { deush.serve with reqs := [r] }, tick := { deush.tick with now } }
theorem wit_waits : WaitsAlone (waited (asked .incomplete) 0) (asked .incomplete) ∧ WaitsAlone (waited (tardy 0) 0) (tardy 0) ∧ WaitsAlone (waited (tardy 8) 0) (tardy 8) :=
  ⟨⟨rfl, service2, by decide, by decide⟩, ⟨rfl, service2, by decide, by decide⟩, ⟨rfl, service2, by decide, by decide⟩⟩
theorem wit_more : (asked .incomplete).state = .incomplete ∧ (1 : W32).toNat + [(4 : W32)].length ≤ ask.prompt.toNat ∧ (4 : W32).toNat < 100 ∧ ask.prompt.toNat < (2 : W32).toNat + [(4 : W32)].length ∧
  ((waited (asked .incomplete) 0).inst (asked .incomplete).svc).map (·.cfg.vocab) = some 100 ∧ (waited (asked .incomplete) 0).nowUs < ask.at_ + 100000 ∧ ask.at_ + 100000 ≤ (waited (asked .incomplete) 2000).nowUs ∧
  (asked .ended).state = .ended ∧ (tardy 0).state = .ended ∧ (tardy 0).unacked ≠ [] ∧ (tardy 8).unacked ≠ [] := by decide +kernel
/-- Of a prompt of three tokens the last two are missing; one more comes. -/
def askedLong : Req := { asked .incomplete with info := { ask with prompt := 3 } }
theorem wit_more_missing : (1 : W32).toNat + [(4 : W32)].length ≤ askedLong.info.prompt.toNat ∧ ∃ n, n < askedLong.info.prompt.toNat ∧ (∀ g ∈ askedLong.got, g.1 ≠ n) ∧ (n < (1 : W32).toNat ∨ (1 : W32).toNat + [(4 : W32)].length ≤ n) :=
  ⟨by decide, 2, by decide⟩
/-- A session of client 7, busy or idle since the start. -/
def session (b : Bool) : Session := { client := 7, session := 5, svc := 2, lastReq := 1, busy := b }
def sessioned (b : Bool) (now : Nat) : State := { deush with serve := { deush.serve with sessions := [session b] }, tick := { deush.tick with now } }
theorem wit_session : (sessioned false 0).serve.reqs = [] ∧ (sessioned false 0).serve.sessions = [session false] ∧ (session false).kvLen = 0 ∧ deush.session? 7 5 = none ∧ ((sessioned false 20000).inst (session false).svc).map (fun x => decide
    ((session false).idleSince + 1000000 * x.cfg.idleLimit ≤ (sessioned false 20000).nowUs) && decide ((sessioned false 0).nowUs < (session false).idleSince + 1000000 * x.cfg.idleLimit)) = some true ∧ (session true).busy = true := by decide
/-- A row of bulk is ready since the start. -/
def rowed (now : Nat) : State := waited { asked .accepted with filled := 2 } now
theorem wit_bulk : deush.inst 0 = none ∧ (rowed 9).batch 2 false 0 = [{ asked .accepted with filled := 2 }] ∧ ((rowed 9).inst 2).map ((rowed 9).overdueSlot 2) = some (some 0) ∧
  ((rowed 8).inst 2).map ((rowed 8).overdueSlot 2) = some none ∧ ((rowed 9).inst 2).map (fun x => decide (0 + x.cfg.bulkWait ≤ (rowed 9).tick.now)) = some true ∧
  ((rowed 8).inst 2).map (fun x => decide ((rowed 8).tick.now < 0 + x.cfg.bulkWait)) = some true := by decide
theorem wit_placing : 0 < 2 ∧ (0 : Nat) % 2 + 1 < 2 ∧ (1 : Nat) % 2 + 1 = 2 := by decide
/-- The front of the queue, and a sound state with commands waiting. -/
def queued : State := { submitted with pending := [.bypass, .frameScrub] }
theorem wit_front : queued.pending = .bypass :: [.frameScrub] ∧ base.pending = [] := by decide
theorem wit_sound : queued.Sound ∧ ∃ t, step queued = .next t := ⟨⟨by decide, by unfold gensOk; decide⟩, _, rfl⟩
/-! ### Form, packets and words -/
/-- Each check of form refuses an ill-formed command. -/
theorem test_ill_formed : Instr.wf (.fabWrite pk (List.replicate 4097 0)) = false ∧ Instr.wf (.fabReadReq pk 4097) = false ∧ Instr.wf (.fabReadResp pk (List.replicate 4097 0)) = false ∧
  Instr.wf (.fabChunk pk [1] 0 []) = false ∧ Instr.wf (.fabService pk (.joining 7 [])) = false ∧ Instr.wf (.fabService pk (.incident [])) = false ∧ Instr.wf (.fabService pk (.installed 2 [7] [])) = false ∧
  Instr.wf (.startPhaseEnd { almanac := [[1]] }) = false ∧ Instr.wf (.otpProgram none [] []) = false ∧ Instr.wf (.macsecKey none 0 [] []) = false ∧ Instr.wf (.pubkeySlot none 0 0 []) = false ∧
  Instr.wf (.cmdSubmit none []) = false ∧ Instr.wf (.fabWrite pk [1]) = true := by decide
theorem test_ill_formed_nodes : Instr.wf (.collNode pk 5 0 0 0 0 (List.replicate 1025 0)) = false ∧ Instr.wf (.collData pk 5 0 0 (List.replicate 1025 0)) = false := by decide
/-- The table gives no row a bit pattern. -/
theorem test_no_word (n w : Nat) : decodeTableWord n w = none ∧ ∀ s : State, s.withFetchWord n w = s := ⟨rfl, fun _ => rfl⟩
/-- MEM_MAP (0x0300) of context 1 in class 2, NOTIFY and CHAIN, SEQ 0x01020304: VA 0x400000, LENGTH 0x200000, ATTR 2 MiB, R, W, HINT 1 (R203, R272, R279). -/
theorem test_packet_mem_map : packetOf 3 ([0x00, 0x03, 0x81, 0x06, 0x04, 0x03, 0x02, 0x01, 0, 0, 0, 0, 0, 0, 0, 0] ++ [0, 0, 0x40, 0, 0, 0, 0, 0, 0, 0, 0x20, 0, 0, 0, 0, 0, 0x1D, 0, 0, 0] ++ List.replicate 28 0) =
    ({ ring := 3, prio := 2, ctx := 1, notify := true, chain := true, seq := 0x01020304 }, .memMap 0x400000 0x200000 0x1D) := by decide
/-- MEM_QUOTA (0x0303) of context 5: T2 1, T3 2, T4 3, SHADOW 4, and a reserved bit set (R203, R282). -/
theorem test_packet_mem_quota : packetOf 3 ([0x03, 0x03] ++ List.replicate 14 0 ++ [5, 0, 0, 0, 1, 0, 0, 0, 2, 0, 0, 0, 3, 0, 0, 0, 4, 0, 0, 0] ++ List.replicate 27 0 ++ [1]) =
    ({ ring := 3, rsvParam := true }, .memQuota 5 1 2 3 4) := by decide
/-- DMA_START (0x0600), FIXED, BUDGET 9, DEP 2: table 0x200000, queue 0x21, COUNT 3, CHAN 63, PRI 2, PACE REFILL and QKIND 1, LOW 4, HIGH 8, RATE_CAP 5, HOLD_TICKS 6 (R164, R279). -/
theorem test_packet_dma : packetOf 3 ([0x00, 0x06, 0x01, 0x01, 0, 0, 0, 0, 9, 0, 0, 0, 2, 0, 0, 0] ++ [0, 0, 0x20, 0, 0, 0, 0, 0, 0x21, 0, 0, 0, 0, 0, 0, 0, 3, 0, 0x3F, 0x2A, 4, 0, 0, 0, 8, 0, 0, 0, 5, 6] ++ List.replicate 18 0) =
    ({ ring := 3, ctx := 1, fixed := true, budget := 9, dep := 2 }, .dmaStart 0x200000 0x21 3 63 0x2A 4 8 5 6) := by decide
/-- MATMUL (0x0510) names its kernel block (R283); opcode 0x0523 is reserved. -/
theorem test_packet_kernel : (packetOf 3 ([0x10, 0x05] ++ List.replicate 14 0 ++ [0x40, 0, 0x20, 0, 0, 0, 0, 0, 0x80, 0, 0, 0] ++ List.replicate 36 0)).2 = .matmul 0x200040 0x80 ∧
    (packetOf 3 ([0x23, 0x05] ++ List.replicate 62 0)).2 = .reserved 0x0523 := by decide
/-! ### The manual's worked examples, and a hash of FIPS 180-4 -/
/-- 0.3 in F32, G16, A16, E8 and E8W (02_number_formats.md, worked example). -/
theorem test_formats : ([0, 1, 2, 3, 4].map fun f => (toScalar f .nearest (.fin (3 / 10))).1) = [0x3E99999A, 0x3D33, 0x3A66, 0x2A, 0x35] := by decide +kernel
/-- One Q4 block with amax 13.7 (02_number_formats.md, worked example). -/
theorem test_q4 : toBlock fQ4 (fun _ => .nearest) [.fin (137 / 10), .fin (51 / 10), .fin (-3 / 10)] = (0x81, [5, 3, 0]) := by decide +kernel
/-- The exponents of an activation tensor before and after 130.0 entered its history; 130.0 in E8 with exponent 0 (02_number_formats.md, worked example). -/
theorem test_exponents : nextExp { seen := true, hcount := 1, hist := [0x42500000] } { format := 3, headroom := 1, histLen := 16, initExp := 0, skipStep := false } = -2 ∧
  nextExp { seen := true, hcount := 1, hist := [0x43020000] } { format := 3, headroom := 1, histLen := 16, initExp := 0, skipStep := false } = 0 ∧
  toScalar 3 .nearest (.fin 130) = (0x70, false) ∧ (toScalar 3 .nearest (.fin 520)).2 = true := by decide +kernel
/-- Nine segments split over eight units, three units and one (03_reference_order.md, worked example). -/
theorem test_nodes : nodesOf 0 0 9 = [(0, 0)] ∧ nodesOf 7 8 9 = [(0, 7), (3, 1)] ∧ nodesOf 0 2 9 = [(1, 0), (0, 2)] ∧ nodesOf 3 5 9 = [(0, 3), (1, 2)] ∧ nodesOf 6 8 9 = [(1, 3), (3, 1)] ∧ nodesOf 0 8 9 = [(4, 0)] := by decide
/-- SHA-384 of the bytes "abc" (FIPS 180-4). -/
theorem test_sha : (sha384 [0x61, 0x62, 0x63]).take 8 = [0xCB, 0x00, 0x75, 0x3F, 0x45, 0xA3, 0x5E, 0x8B] ∧ (sha384 [0x61, 0x62, 0x63]).length = 48 := by decide +kernel

end Sys2Proof.Tests
end

section
/-! Writes of registers and the configuration errors they record (R6, R7, R528, R540), and the mode word (R21-R23). -/
namespace Sys2Proof.Machine

variable {s : State} {p : Path}

/-! ### Writes of registers, and configuration errors -/

/-- A write through a path that reaches the register is that register's own write (R7, R528). -/
theorem writeNamed_of_canReach {r : Reg} (h : s.canReach p r = true) (w : W32) : s.writeNamed p r w = s.writeReg p r w := by
  unfold State.canReach at h
  unfold State.writeNamed State.writeAt
  split at h
  next q d hq =>
    obtain ⟨rfl, hr⟩ : q = r ∧ s.reaches p r.off d = true := by simpa using h
    simp [hq, hr]
  next => simp at h

/-- A configuration error leaves every part but ERR_CFG and the counts of the banks. -/
theorem same_regError (s : State) (kind : CfgKind) (p : Path) (r : Reg) {x : Part} (hx : x ∉ [Part.cfgErr, .banks]) :
    Same s (s.regError kind p r) x := by
  unfold State.regError State.cfgError
  cases x with
  | cfgErr => simp at hx
  | banks => simp at hx
  | _ => dsimp only; split <;> rfl

/-- A configuration error is recorded as R540 says. -/
theorem cfgRecorded_regError (s : State) (kind : CfgKind) (p : Path) (r : Reg) : CfgRecorded s (s.regError kind p r) kind p r := by
  unfold State.regError State.cfgError CfgRecorded
  cases hv : s.cfgErr.valid <;> simp [hv]

@[simp] theorem regError_mode (s : State) (kind : CfgKind) (p : Path) (r : Reg) : (s.regError kind p r).mode = s.mode :=
  cfgError_mode s kind (pathCfg p) r.off

/-! ### MODE_STAT (R22) -/

@[simp] theorem regValue_modeStat (s : State) (p : Path) : s.regValue p .modeStat = s.mode.stat := rfl
@[simp] theorem regValue_modeCtl (s : State) (p : Path) : s.regValue p .modeCtl = s.mode.ctl := rfl

theorem bitAt_eq_toNat_mul (b : Bool) (k : Nat) : bitAt b k = b.toNat * 2 ^ k := by cases b <;> simp [bitAt]

/-- PENDING: some field requested is not the one in effect. -/
theorem Mode.pending_iff (m : Mode) :
    m.pending = true ↔ m.role ≠ m.roleNow ∨ m.guardF ≠ m.guardNow ∨ m.check ≠ m.checkNow ∨ m.power ≠ m.powerNow := by
  simp [Mode.pending, or_assoc]

/-- MODE_STAT as a number in its fields: PENDING, CAPPED, ROLE, GUARD, CHECK and POWER. -/
theorem Mode.stat_eq (m : Mode) : m.stat = m.pending.toNat * 1073741824 + m.capped.toNat * 536870912 + m.roleNow.val * 4096 +
    m.guardNow.val * 256 + m.checkNow.val * 16 + m.powerNow.val := by
  simp [Mode.stat, bitAt_eq_toNat_mul]

/-- The two flags of MODE_STAT, and its unused top bit. -/
theorem Mode.stat_flags (m : Mode) :
    m.stat.testBit 31 = false ∧ m.stat.testBit 30 = m.pending ∧ m.stat.testBit 29 = m.capped ∧ m.stat < 2 ^ 31 := by
  have hp := m.pending.toNat_le
  have hc := m.capped.toNat_le
  have flag (b : Bool) (n : Nat) (h : n % 2 = b.toNat) : decide (n % 2 = 1) = b := by cases b <;> simp [h]
  simp only [Nat.testBit_eq_decide_div_mod_eq, m.stat_eq]
  exact ⟨flag false _ (by rw [Bool.toNat_false]; omega), flag _ _ (by omega), flag _ _ (by omega), by omega⟩

/-- The four fields of MODE_STAT, and the reserved bits between them. -/
theorem Mode.stat_fields (m : Mode) :
    m.stat / 2 ^ 14 % 2 ^ 15 = 0 ∧ m.stat / 2 ^ 12 % 4 = m.roleNow.val ∧ m.stat / 2 ^ 10 % 4 = 0 ∧ m.stat / 2 ^ 8 % 4 = m.guardNow.val ∧
      m.stat / 2 ^ 6 % 4 = 0 ∧ m.stat / 2 ^ 4 % 4 = m.checkNow.val ∧ m.stat / 2 ^ 2 % 4 = 0 ∧ m.stat % 4 = m.powerNow.val := by
  have hr := m.roleNow.isLt
  have hg := m.guardNow.isLt
  have hk := m.checkNow.isLt
  have hw := m.powerNow.isLt
  rw [m.stat_eq]
  omega

/-! ### MODE_CTL (R23) -/

/-- A two-bit field of a word is 3 as a number just when it is 3 as bits. -/
theorem bitsOf_toNat_eq_three_iff (v : W32) (k : Nat) : bitsOf v.toNat (k + 1) k = 3 ↔ v.extractLsb' k 2 = 3 := by
  have hlen : k + 1 + 1 - k = 2 := by omega
  simp [← BitVec.toNat_inj, bitsOf, hlen, Nat.shiftRight_eq_div_pow]

/-- The reserved encodings: GUARD, CHECK or POWER of 3. -/
theorem modeReserved_iff (v : W32) :
    modeReserved v.toNat = true ↔ v.extractLsb' 8 2 = 3 ∨ v.extractLsb' 4 2 = 3 ∨ v.extractLsb' 0 2 = 3 := by
  simp [modeReserved, bitsOf_toNat_eq_three_iff v 8, bitsOf_toNat_eq_three_iff v 4, bitsOf_toNat_eq_three_iff v 0, or_assoc]

theorem bitOf_toNat (v : W32) (k : Nat) : bitOf v.toNat k = v.getLsbD k := by
  rw [BitVec.getLsbD, Nat.testBit_eq_decide_div_mod_eq, bitOf, beq_eq_decide]

/-- Whether a path reaches a register does not rest on the mode word. -/
@[simp] theorem canReach_setMode (s : State) (n : Nat) (p : Path) (r : Reg) : (s.setMode n).canReach p r = s.canReach p r := rfl

/-- The mode word after MODE_CTL has taken a value: what was requested before is gone, and only CHECK is in effect at once. -/
theorem setMode_mode (s : State) (n : Nat) :
    (s.setMode n).mode = { s.mode with lock := s.mode.lock || bitOf n 31, role := Fin.ofNat 4 (bitsOf n 13 12), guardF := Fin.ofNat 4 (bitsOf n 9 8),
                                       check := Fin.ofNat 4 (bitsOf n 5 4), checkNow := Fin.ofNat 4 (bitsOf n 5 4), power := Fin.ofNat 4 (bitsOf n 1 0) } := rfl

/-- The row MODE_CTL_WRITE is the register's write. -/
theorem exec_modeCtlWrite (h : s.canReach p .modeCtl = true) (v : W32) : exec (.modeCtlWrite p v) s = .next (s.writeModeCtl p v.toNat) :=
  congrArg Host.Outcome.next (writeNamed_of_canReach h v)

/-- An unlocked MODE_CTL ignores a value with a reserved encoding, and records it. -/
theorem exec_modeCtlWrite_reserved (h : s.canReach p .modeCtl = true) (hl : s.mode.lock = false) {v : W32}
    (hv : modeReserved v.toNat = true) : exec (.modeCtlWrite p v) s = .next (s.regError .encoding p .modeCtl) := by
  rw [exec_modeCtlWrite h]
  simp [State.writeModeCtl, State.ifOpen, hl, hv]

/-- An unlocked MODE_CTL takes every other value. -/
theorem exec_modeCtlWrite_legal (h : s.canReach p .modeCtl = true) (hl : s.mode.lock = false) {v : W32}
    (hv : ¬ modeReserved v.toNat = true) : exec (.modeCtlWrite p v) s = .next (s.setMode v.toNat) := by
  rw [exec_modeCtlWrite h]
  simp [State.writeModeCtl, State.ifOpen, hl, hv]

/-- The fields requested are those of the last value taken. -/
theorem setMode_fields (s : State) (n : Nat) :
    (s.setMode n).mode.role.val = n / 2 ^ 12 % 4 ∧ (s.setMode n).mode.guardF.val = n / 2 ^ 8 % 4 ∧
      (s.setMode n).mode.check.val = n / 2 ^ 4 % 4 ∧ (s.setMode n).mode.power.val = n % 4 := by
  simp [setMode_mode, bitsOf]

/-- The fields of MODE_CTL but CHECK take effect later. -/
theorem setMode_inEffect (s : State) (n : Nat) :
    (s.setMode n).mode.roleNow = s.mode.roleNow ∧ (s.setMode n).mode.guardNow = s.mode.guardNow ∧ (s.setMode n).mode.powerNow = s.mode.powerNow :=
  ⟨rfl, rfl, rfl⟩

end Sys2Proof.Machine

open Sys2Proof Sys2Proof.Machine

/-- Settles O5. MODE_STAT is read off its fields as a number; a write of MODE_CTL either records the error or takes the value, and
taking a legal value without LOCK leaves the register open and in reach for the second write. -/
theorem modeRegisters : Obligations.ModeRegisters := by
  intro s
  refine ⟨fun p => ?_, fun _ => rfl, fun p v hp hl hv => ?_, fun p q v w hp hq hl hv31 hv8 hv4 hv0 hw8 hw4 hw0 => ?_⟩
  · rw [regValue_modeStat]
    obtain ⟨h31, h30, h29, hlt⟩ := s.mode.stat_flags
    obtain ⟨hrsv14, hrole, hrsv10, hguard, hrsv6, hcheck, hrsv2, hpower⟩ := s.mode.stat_fields
    exact ⟨h31, h30 ▸ s.mode.pending_iff, h29, hrsv14, hrole, hrsv10, hguard, hrsv6, hcheck, hrsv2, hpower, hlt⟩
  · exact ⟨_, exec_modeCtlWrite_reserved hp hl ((modeReserved_iff v).2 hv), fun _ hx => same_regError s .encoding p .modeCtl hx,
      cfgRecorded_regError s .encoding p .modeCtl, by simp⟩
  · have hv : ¬ modeReserved v.toNat = true := by rw [modeReserved_iff]; tauto
    have hw : ¬ modeReserved w.toNat = true := by rw [modeReserved_iff]; tauto
    have hopen : (s.setMode v.toNat).mode.lock = false := by rw [setMode_mode, hl, bitOf_toNat, hv31]; rfl
    obtain ⟨hrole, hguard, hcheck, hpower⟩ := setMode_fields (s.setMode v.toNat) w.toNat
    exact ⟨_, exec_modeCtlWrite_legal hp hl hv, _, exec_modeCtlWrite_legal (by simpa using hq) hopen hw,
      hrole, hguard, hcheck, hpower, setMode_inEffect s v.toNat⟩

end

section
/-! The DETAIL words of error replies: their fields, read off the number a word is built from (R151, R159, R180, R238). -/
namespace Sys2Proof.Machine

/-! ### Fields of a word -/

/-- A field of a 64-bit word built from a number holds the digits there. -/
theorem toNat_field {n lo len v : Nat} (h : lo + len ≤ 64) (hv : n / 2 ^ lo % 2 ^ len = v) :
    ((BitVec.ofNat 64 n).extractLsb' lo len).toNat = v := by
  have hs : 2 ^ 64 = 2 ^ lo * 2 ^ (64 - lo) := by rw [← pow_add]; congr 1; omega
  rw [← hv, BitVec.extractLsb'_toNat, BitVec.toNat_ofNat, Nat.shiftRight_eq_div_pow, hs, Nat.mod_mul_right_div_self,
    Nat.mod_mod_of_dvd _ (pow_dvd_pow 2 (by omega))]

/-- The same field as a word of its width. -/
theorem field_ofNat {n lo len v : Nat} (h : lo + len ≤ 64) (hv : n / 2 ^ lo % 2 ^ len = v) :
    (BitVec.ofNat 64 n).extractLsb' lo len = BitVec.ofNat len v :=
  BitVec.eq_of_toNat_eq (by rw [toNat_field h rfl, BitVec.toNat_ofNat, ← hv, Nat.mod_mod])

/-- A flag of a 64-bit word built from a number. -/
theorem flag_ofNat {n k : Nat} {b : Bool} (h : k < 64) (hb : n / 2 ^ k % 2 = b.toNat) : (BitVec.ofNat 64 n).getLsbD k = b := by
  rw [BitVec.getLsbD_ofNat, Nat.testBit_eq_decide_div_mod_eq, hb]
  cases b <;> simp [h]

/-! ### The words -/

/-- The number of a stream fault's DETAIL (R159), for values that fit their fields. -/
theorem faultDetail_ste (s : State) {f : PFault} {cause : Nat} (hs : f.src = .ste) (hu : f.unit < 64) (hp : f.prog < 16)
    (hc : cause < 16) (hv : f.va < 2 ^ 52) :
    s.faultDetail f cause = BitVec.ofNat 64 (f.unit * 2 ^ 58 + f.prog * 2 ^ 54 + f.write.toNat * 2 ^ 53 + cause * 2 ^ 49 + f.va / 2 ^ 16) := by
  unfold State.faultDetail
  rw [hs]
  dsimp only
  rw [bitAt_eq_toNat_mul, Nat.mod_eq_of_lt hu, Nat.mod_eq_of_lt hp, Nat.mod_eq_of_lt hc, Nat.mod_eq_of_lt (by omega : f.va / 2 ^ 16 < 2 ^ 36)]

/-- The number of a DMA error's DETAIL at a burst (R180), for values that fit their fields. -/
theorem dmaDetail_burst (k : ChanId) (ch : Chan) {cause : Nat} (side : Bool) {b : Burst} (hc : cause < 16) (hd : b.desc < 2 ^ 16)
    (ho : b.off < 2 ^ 40) :
    dmaDetail k ch cause side (some b) = BitVec.ofNat 64 (b.desc * 2 ^ 48 + cause * 2 ^ 44 + side.toNat * 2 ^ 43 + k.val % 8 * 2 ^ 40 + b.off) := by
  unfold dmaDetail
  dsimp only
  rw [bitAt_eq_toNat_mul, Nat.mod_eq_of_lt hd, Nat.mod_eq_of_lt hc, Nat.mod_eq_of_lt ho]

/-- The number of a signature error's DETAIL (R238), for a chunk that fits its field. -/
theorem sigDetail_eq (stage : Nat) {chunk : Nat} (hc : chunk < 2 ^ 32) : sigDetail stage chunk = BitVec.ofNat 64 (stage * 2 ^ 60 + chunk) := by
  rw [sigDetail, Nat.mod_eq_of_lt hc]

end Sys2Proof.Machine

open Sys2Proof Sys2Proof.Machine

/-- Settles O9. Each word is the sum of its fields at their places, so each field is read off by division. -/
theorem errorDetails : Obligations.ErrorDetails := by
  refine ⟨fun s f cause hs hu hp hc hv => ?_, ⟨rfl, rfl, rfl, rfl⟩, fun k ch cause side b hc hd ho => ?_, ⟨rfl, rfl, rfl, rfl⟩,
    fun stage chunk hs hc => ?_⟩
  · have hw := f.write.toNat_le
    rw [faultDetail_ste s hs hu hp hc hv]
    exact ⟨toNat_field (by decide) (by omega), toNat_field (by decide) (by omega), flag_ofNat (by decide) (by omega),
      toNat_field (by decide) (by omega), field_ofNat (v := 0) (by decide) (by omega), toNat_field (by decide) (by omega)⟩
  · have hw := side.toNat_le
    rw [dmaDetail_burst k ch side hc hd ho]
    exact ⟨toNat_field (by decide) (by omega), toNat_field (by decide) (by omega), flag_ofNat (by decide) (by omega),
      toNat_field (by decide) (by omega), toNat_field (by decide) (by omega)⟩
  · rw [sigDetail_eq stage hc]
    exact ⟨toNat_field (by decide) (by omega), field_ofNat (v := 0) (by decide) (by omega), toNat_field (by decide) (by omega)⟩

end

section
/-! The end of a command that stands alone, whatever its phase and status: what goes with it sends no reply and brings no command
back, so the newest reply of its ring is its own (R275, R301). -/
namespace Sys2Proof.Machine

/-! ### What says nothing to a ring -/

/-- The second state has the rings and the graph runs of the first, and no command that the first has not. -/
structure Quiet (s t : State) : Prop where
  rings : t.rings = s.rings
  runs : t.sched.runs = s.sched.runs
  cids : ∀ d ∈ t.sched.cmds, ∃ c ∈ s.sched.cmds, c.cid = d.cid

theorem Quiet.of_eq {s t : State} (hr : t.rings = s.rings) (hs : t.sched = s.sched) : Quiet s t :=
  ⟨hr, by rw [hs], by rw [hs]; exact fun d hd => ⟨d, hd, rfl⟩⟩

theorem Quiet.refl (s : State) : Quiet s s := .of_eq rfl rfl

theorem Quiet.trans {s t u : State} (h : Quiet s t) (k : Quiet t u) : Quiet s u :=
  ⟨k.rings.trans h.rings, k.runs.trans h.runs, fun d hd => by
    obtain ⟨c, hc, e⟩ := k.cids d hd
    obtain ⟨b, hb, e'⟩ := h.cids c hc
    exact ⟨b, hb, e'.trans e⟩⟩

theorem Quiet.ite {s t u : State} {p : Prop} [Decidable p] (h : Quiet s t) (k : Quiet s u) : Quiet s (if p then t else u) := by
  split <;> assumption

theorem Tells.quiet {s t : State} (h : Tells s t) : Quiet s t := .of_eq h.rings h.sched
theorem Sends.quiet {s t : State} (h : Sends s t) : Quiet s t := .of_eq h.rings h.sched

/-! ### The parts of an end -/

theorem quiet_countCancels (s : State) (cid : Nat) : Quiet s (s.countCancels cid) := by
  unfold State.countCancels
  refine Tells.quiet (Tells.foldl (Tells.rfl' s) fun a e ha => ?_)
  dsimp only
  split
  · split
    · exact ha
    · exact tells_count ha _ _ _
  · split
    · exact tells_count ha _ _ _
    · exact tells_count (tells_count ha _ _ _) _ _ _

theorem quiet_clockOf (s : State) (c : Cmd) (used : Option Nat) : Quiet s (s.clockOf c used).2 := by
  unfold State.clockOf
  repeat' split
  all_goals exact .of_eq rfl rfl

theorem quiet_modQ (s : State) (n : Nat) (f : FeQueue → FeQueue) : Quiet s (s.modQ n f) := .of_eq rfl rfl
theorem quiet_modChan (s : State) (k : ChanId) (f : Chan → Chan) : Quiet s (s.modChan k f) := .of_eq rfl rfl
theorem quiet_modCtx (s : State) (x : CtxId) (f : Ctx → Ctx) : Quiet s (s.modCtx x f) := .of_eq rfl rfl
theorem quiet_freePrograms (s : State) (cid : Nat) : Quiet s (s.freePrograms cid) := .of_eq rfl rfl
theorem quiet_freeBanks (s : State) (cid : Nat) (shadow : Bool) : Quiet s (s.freeBanks cid shadow) := .of_eq rfl rfl

theorem quiet_advanceQueue (s : State) (n k : Nat) : Quiet s (s.advanceQueue n k) := by
  induction k generalizing s with
  | zero => exact .refl s
  | succ k ih =>
    unfold State.advanceQueue
    split
    · refine .trans ?_ (ih _)
      split <;> exact .of_eq rfl rfl
    · exact .refl s

theorem quiet_dropSlots (s : State) (cid : Nat) : Quiet s (s.dropSlots cid) := by
  unfold State.dropSlots
  refine List.foldlRecOn _ _ (Quiet.refl s) fun a ha n _ => ?_
  split
  · exact ha.trans ((quiet_modQ a n _).trans (quiet_advanceQueue _ n _))
  · exact ha

theorem quiet_releaseCmd (s : State) (c : Cmd) : Quiet s (s.releaseCmd c) := by
  unfold State.releaseCmd
  cases c.chan with
  | none => exact ⟨rfl, rfl, fun d hd => ⟨d, hd, rfl⟩⟩
  | some k =>
    dsimp only
    have hchan := ((quiet_freePrograms s c.cid).trans (quiet_modChan _ k Chan.idle)).trans (quiet_dropSlots _ c.cid)
    generalize State.dropSlots _ c.cid = u at hchan ⊢
    exact hchan.trans ⟨rfl, rfl, fun d hd => ⟨d, hd, rfl⟩⟩

theorem quiet_cancelAttempt (s : State) (n : Nat) : Quiet s (s.cancelAttempt n) := by
  have hback (l : List Held) (t : State) : Sends t (l.foldl (fun s h => s.giveBack h.from? h.vc h.slots) t) :=
    Sends.foldl (Sends.rfl' t) fun a _ ha => sends_giveBack ha _ _ _
  have hearly (t : State) (q : EarlyPkt → Bool) : Quiet t (t.dropEarly q) :=
    (Sends.foldl (Sends.rfl' t) fun a _ ha => sends_giveBack ha _ _ _).quiet.trans (.of_eq rfl rfl)
  have hdrop : Quiet s (s.dropAttempt s.fab.ident (BitVec.ofNat 32 n)) :=
    (hback _ s).quiet.trans ((hearly _ _).trans (.of_eq rfl rfl))
  unfold State.cancelAttempt
  split
  · exact .refl s
  · exact hdrop.trans (Sends.foldl (Sends.rfl' _) fun a _ ha => sends_sendOn ha ..).quiet

/-- An update of every command that keeps its id. -/
theorem cids_map {l : List Cmd} {f : Cmd → Cmd} (hf : ∀ d, (f d).cid = d.cid) : ∀ d ∈ l.map f, ∃ c ∈ l, c.cid = d.cid := by
  intro d hd
  obtain ⟨c, hc, rfl⟩ := List.mem_map.1 hd
  exact ⟨c, hc, (hf c).symm⟩

theorem quiet_unload (s : State) (c : Cmd) : Quiet s (s.unload c) := by
  unfold State.unload
  split
  · dsimp only
    split
    · exact ⟨rfl, rfl, cids_map fun d => by split <;> rfl⟩
    · exact .refl s
  · exact .refl s

theorem quiet_sendAborts (s : State) (c : Cmd) (status : W16) : Quiet s (s.sendAborts c status) := by
  unfold State.sendAborts
  split
  · exact .refl s
  · exact (Sends.foldl (Sends.rfl' s) fun a _ ha => SendsP.fst (sends_trySend ha ..)).quiet

theorem quiet_chargeDebt (s : State) (c : Cmd) (clock : Nat) : Quiet s (s.chargeDebt c clock) := by
  unfold State.chargeDebt
  dsimp only
  repeat' split
  all_goals exact .of_eq rfl rfl

theorem quiet_dropGraphs (s : State) (c : CtxId) (q : Graph → Bool) : Quiet s (s.dropGraphs c q) :=
  ⟨rfl, rfl, fun d hd => ⟨d, hd, rfl⟩⟩

theorem afterEnd_cid (d c : Cmd) (phase : Phase) (status : W16) : (d.afterEnd c phase status).cid = d.cid := by
  unfold Cmd.afterEnd
  dsimp only
  repeat' split
  all_goals rfl

/-- The state without the commands of an id. -/
def State.less (s : State) (cid : Nat) : State := s.modSched fun g => { g with cmds := g.cmds.filter fun x => x.cid != cid }

/-- A command leaves, and those that wait for it are marked. -/
theorem Quiet.marked {s t : State} (h : Quiet s t) (c : Cmd) (phase : Phase) (status : W16) :
    Quiet (s.less c.cid) (t.modSched fun g => { g with cmds := (g.cmds.filter fun x => x.cid != c.cid).map fun d => d.afterEnd c phase status }) :=
  ⟨h.rings, h.runs, fun d hd => by
    obtain ⟨b, hb, e⟩ := cids_map (fun d => afterEnd_cid d c phase status) d hd
    obtain ⟨hb, hne⟩ := List.mem_filter.1 hb
    obtain ⟨a, ha, e'⟩ := h.cids b hb
    exact ⟨a, List.mem_filter.2 ⟨ha, by rw [e']; exact hne⟩, e'.trans e⟩⟩

/-! ### The end of one command -/

theorem withDone_same (s : State) (c : Cmd) : (s.withDone c).cid = c.cid ∧ (s.withDone c).run = c.run ∧ (s.withDone c).ring = c.ring ∧
    (s.withDone c).seq = c.seq := by
  unfold State.withDone
  repeat' split
  all_goals exact ⟨rfl, rfl, rfl, rfl⟩

/-- What an end records for the step of its command (R327). -/
def State.noteEnd (s : State) (c : Cmd) (phase : Phase) (status : W16) : State :=
  match c.step? with
  | some t => if opIsOpt c.op then s else s.modCtx c.ctx fun x => x.noteStep t (c.run.getD c.cid * 2 ^ 17 + c.node) c.seq phase status
  | none => s

theorem quiet_noteEnd (s : State) (c : Cmd) (phase : Phase) (status : W16) : Quiet s (s.noteEnd c phase status) := by
  unfold State.noteEnd
  split
  · exact (Quiet.refl s).ite (quiet_modCtx s _ _)
  · exact .refl s

/-- What ends with a step fence, and with a command about a resident graph (R295, R327). -/
def State.opEnd (s : State) (c : Cmd) (phase : Phase) (status : W16) : State :=
  match c.op with
  | .stepFence t => s.modCtx c.ctx fun x => { x with fenceEnds := (t, c.seq, decide (phase = Phase.committed), status) :: x.fenceEnds }
  | .submitGraph g .. => if phase = Phase.committed then s else s.dropGraphs c.ctx fun x => x.slot.val == g.toNat && !x.ready
  | .graphRelease g =>
    if phase = Phase.committed then s.dropGraphs c.ctx fun x => x.slot.val == g.toNat
    else s.modSched fun h =>
      { h with graphs := h.graphs.map fun (x : Graph) => if x.ctx = c.ctx ∧ x.slot.val = g.toNat then { x with releasing := false } else x }
  | _ => s

theorem quiet_opEnd (s : State) (c : Cmd) (phase : Phase) (status : W16) : Quiet s (s.opEnd c phase status) := by
  unfold State.opEnd
  split
  · exact quiet_modCtx s _ _
  · exact (Quiet.refl s).ite (quiet_dropGraphs s _ _)
  · exact (quiet_dropGraphs s _ _).ite ⟨rfl, rfl, fun d hd => ⟨d, hd, rfl⟩⟩
  · exact .refl s

/-- What the end of a command does before its reply. -/
def State.leave (s : State) (c : Cmd) (phase : Phase) (status : W16) (clock : Nat) : State :=
  let s := if phase = .committed then s else s.countCancels c.cid
  let s := s.releaseCmd c
  let s := if phase = .committed ∨ c.fixed then s else (s.cancelAttempt c.attempt).unload c
  let s := (s.sendAborts c status).freeBanks c.cid (phase != .committed)
  let s := s.modSched fun g => { g with cmds := (g.cmds.filter fun x => x.cid != c.cid).map fun d => d.afterEnd c phase status }
  ((s.chargeDebt c clock).noteEnd c phase status).opEnd c phase status

/-- All of it is quiet, but that the command leaves. -/
theorem quiet_leave {s w : State} (h : Quiet s w) (c : Cmd) (phase : Phase) (status : W16) (clock : Nat) :
    Quiet (s.less c.cid) (w.leave c phase status clock) := by
  have hcount := h.ite (p := phase = .committed) (h.trans (quiet_countCancels w c.cid))
  have hrel := hcount.trans (quiet_releaseCmd _ c)
  have hback := hrel.ite (p := phase = .committed ∨ c.fixed) ((hrel.trans (quiet_cancelAttempt _ c.attempt)).trans (quiet_unload _ c))
  have hbanks := (hback.trans (quiet_sendAborts _ c status)).trans (quiet_freeBanks _ c.cid (phase != .committed))
  have hdebt := (hbanks.marked c phase status).trans (quiet_chargeDebt _ c clock)
  exact (hdebt.trans (quiet_noteEnd _ c phase status)).trans (quiet_opEnd _ c phase status)

/-- The end of a command in three steps: its clock is read, all is given back, and its outcome goes to its run or its ring. -/
theorem endOne_eq (s : State) (c : Cmd) (phase : Phase) (status : W16) (detail : W64) (used : Option Nat) :
    s.endOne c phase status detail used =
      let x := s.withDone c
      let clock := (s.clockOf x used).1
      let u := (s.clockOf x used).2.leave x phase status clock
      match x.run with
      | some r => u.noteNode r x.node (.ended phase status)
      | none => u.reply x.ring x.notify (match x.chan with
          | some k => 64 + k.val
          | none => x.ring.val)
        { seq := x.seq, status, phase, detail, progress := progressOf x phase, opcode := opCode x.op, ctx := x.ctx, gen := x.gen, used := clock }
        x.units (if decide (phase = Phase.killed) && !opIsRun x.op then [] else x.done) x.after := rfl

/-- A command of no run that ends writes its reply once all that is done. -/
theorem endOne_replies (s : State) {c : Cmd} (phase : Phase) (status : W16) (detail : W64) (used : Option Nat) (hrun : c.run = none) :
    ∃ (u : State) (nt : Bool) (vec : Nat) (r : ReplyRec) (units : Nat) (done : List Nat) (after : List (CtxId × W32)), Quiet (s.less c.cid) u ∧
      (r.seq = c.seq ∧ r.phase = phase ∧ r.status = status ∧ r.detail = detail) ∧
      s.endOne c phase status detail used = u.reply c.ring nt vec r units done after := by
  obtain ⟨hcid, hxrun, hring, hseq⟩ := withDone_same s c
  have hleave := quiet_leave (quiet_clockOf s (s.withDone c) used) (s.withDone c) phase status (s.clockOf (s.withDone c) used).1
  rw [hcid] at hleave
  rw [endOne_eq]
  dsimp only
  rw [hxrun, hrun, hring, hseq]
  exact ⟨_, _, _, _, _, _, _, hleave, ⟨rfl, rfl, rfl, rfl⟩, rfl⟩

/-! ### A command that stands alone -/

theorem endPartners_none (s : State) {c : Cmd} (phase : Phase) (status : W16) (n : Nat) (hacq : c.acquire = none) (hhold : c.hold = none) :
    s.endPartners c phase status n = s := by
  cases n with
  | zero => rfl
  | succ n => simp [State.endPartners, hacq, hhold]

theorem endDoomed_nil {s : State} (h : s.sched.cmds = []) (n : Nat) : s.endDoomed n = s := by
  cases n with
  | zero => rfl
  | succ n => simp [State.endDoomed, h]

theorem endRuns_nil {s : State} (h : s.sched.runs = []) : s.endRuns = s := by simp [State.endRuns, h]

theorem readyAll_nil {s : State} (h : s.sched.cmds = []) : s.readyAll = s := by
  unfold State.readyAll State.modSched
  rw [h]
  show { s with sched := { s.sched with cmds := [] } } = s
  rw [← h]

theorem placeAll_nil {s : State} (h : s.sched.cmds = []) : s.placeAll = s := by
  have hready (k : PrioClass) : s.readyOf k = [] := by unfold State.readyOf; rw [h]; rfl
  unfold State.placeAll
  refine List.foldlRecOn (motive := fun t => t = s) _ _ rfl fun t ht k _ => ?_
  rw [ht, hready]
  rfl

/-- The end of a command that stands alone: its reply is the newest of its ring, and nothing follows. -/
theorem endCmd_standsAlone {s : State} {c : Cmd} (h : StandsAlone s c) (phase : Phase) (status : W16) (detail : W64) (used : Option Nat) :
    EndedAlone s (s.endCmd c phase status detail used) c phase status ∧ DetailOf (s.endCmd c phase status detail used) c.ring detail := by
  obtain ⟨hcmds, hruns, -, hrun, hacq, hhold, herr⟩ := h
  obtain ⟨u, nt, vec, r, units, done, after, hu, ⟨hseq, hphase, hstatus, hdetail⟩, hreply⟩ := endOne_replies s phase status detail used hrun
  have hw := writes_reply u c.ring nt vec r units done after
  have hnone : (u.reply c.ring nt vec r units done after).sched.cmds = [] := by
    rw [hw.sched]
    refine List.eq_nil_iff_forall_not_mem.2 fun d hd => ?_
    obtain ⟨b, hb, -⟩ := hu.cids d hd
    simp [State.less, State.modSched, hcmds] at hb
  have hnoRun : (u.reply c.ring nt vec r units done after).sched.runs = [] := by
    rw [hw.sched, hu.runs]
    exact hruns
  have hend : s.endCmd c phase status detail used = u.reply c.ring nt vec r units done after := by
    unfold State.endCmd State.endBoth
    dsimp only
    rw [hreply, endPartners_none _ _ _ _ hacq hhold, endDoomed_nil hnone, endRuns_nil hnoRun, endDoomed_nil hnone, readyAll_nil hnone]
  have hring : u.ring c.ring = s.ring c.ring := congrArg (·[c.ring]) hu.rings
  obtain ⟨-, hnew, htail⟩ := reply_ring u c.ring nt vec r units done after
  rw [hring] at hnew htail
  rw [hend]
  exact ⟨⟨hnone, htail.resolve_left fun e => herr e.1, _, hnew, hseq, hphase, hstatus⟩, _, r, _, _, hnew, rfl, hdetail⟩

/-! ### Failures -/

theorem cmd?_standsAlone {s : State} {c : Cmd} (h : StandsAlone s c) : s.cmd? c.cid = some c := by
  obtain ⟨hcmds, -⟩ := h
  simp [State.cmd?, hcmds]

/-- A command stands alone as well in a state with the same GSC, rings and requests. -/
theorem StandsAlone.congr {s t : State} {c : Cmd} (h : StandsAlone s c) (hs : t.sched = s.sched) (hr : t.rings = s.rings) (hq : t.serve = s.serve) :
    StandsAlone t c := by
  unfold StandsAlone State.ring at *
  rwa [hs, hr, hq]

/-- An end is that of an earlier state with the same rings. -/
theorem EndedAlone.of_rings {s v t : State} {c : Cmd} {phase : Phase} {status : W16} (h : EndedAlone v t c phase status) (hr : v.rings = s.rings) :
    EndedAlone s t c phase status := by
  unfold EndedAlone State.ring at *
  rwa [hr] at h

/-- A killable command that fails ends KILLED. -/
theorem failCid_killable {s : State} {c : Cmd} (hc : s.cmd? c.cid = some c) (hf : c.fixed = false) (status : W16) (detail : W64) :
    s.failCid c.cid status detail = s.endCmd c .killed status detail := by
  simp [State.failCid, State.failCmd, hc, hf]

/-- Of a killable command no part lands as it fails (R158). -/
theorem landRest_killable (s : State) {c : Cmd} (hf : c.fixed = false) : s.landRest c = s := by
  simp [State.landRest, hf]

theorem failPart_killable {s : State} {c : Cmd} (hc : s.cmd? c.cid = some c) (hf : c.fixed = false) (status : W16) (detail : W64) :
    s.failPart c.cid status detail = s.endCmd c .killed status detail := by
  simp [State.failPart, hc, landRest_killable s hf, failCid_killable hc hf]

/-- With nothing left to place or to serve, the row of an end changes nothing more. -/
theorem endCmd_settled {s : State} {c : Cmd} (h : StandsAlone s c) (phase : Phase) (status : W16) (detail : W64) (used : Option Nat) :
    (s.endCmd c phase status detail used).placeAll.served = s.endCmd c phase status detail used := by
  obtain ⟨hnone, -⟩ := (endCmd_standsAlone h phase status detail used).1
  obtain ⟨-, -, hreqs, -⟩ := h
  rw [placeAll_nil hnone, served_nil (by rw [endCmd_reqs, hreqs])]

end Sys2Proof.Machine
end

section
/-! Deadlines of stream programs that pass (R150, R151, R235). -/
namespace Sys2Proof.Machine

/-- A deadline has passed: the miss is counted, and the buffer's deadline is armed no more (R150). -/
def State.missed (s : State) (e : EngineId) (p : Fin 16) (buf : Fin 4) : State :=
  (s.count offMiss e.val 1).modProg e p fun y => { y with bufs := vmod y.bufs buf fun b => { b with armed := none } }

theorem standsAlone_missed {s : State} {c : Cmd} (h : StandsAlone s c) (e : EngineId) (p : Fin 16) (buf : Fin 4) : StandsAlone (s.missed e p buf) c :=
  h.congr rfl rfl rfl

/-- An ABORT deadline that has passed ends its command: with ST_WEIGHT_UNAVAILABLE when it is held on a lost weight page (R235), else
with ST_DEADLINE_MISS. -/
theorem exec_deadlineExpiry_abort {s : State} {e : EngineId} {p : Fin 16} {buf : Fin 4} {d : Nat} {c : Cmd} (late : W32)
    (hc : s.cmd? (s.prog e p).cid = some c) (ha : ((s.prog e p).bufs[buf]).armed = some (d, .abort)) (hd : d ≤ s.tickNs (s.tick.now + 1)) :
    exec (.deadlineExpiry e p buf late) s = .next ((match s.weightFault c.cid with
      | some f => (s.missed e p buf).failPart c.cid stWeightUnavailable ((s.missed e p buf).heldDetail f)
      | none => (s.missed e p buf).failCid c.cid stDeadlineMiss (missDetail e p buf late)).placeAll.served) := by
  show Host.Outcome.next (s.deadlinePassed e p buf late) = _
  unfold State.deadlinePassed
  simp only [hc, ha, Nat.not_lt.2 hd, if_false]
  rfl

/-- The fields of the DETAIL of a deadline miss (R151). -/
theorem missDetail_fields (e : EngineId) (p : Fin 16) (buf : Fin 4) (late : W32) :
    (missDetail e p buf late).extractLsb' 58 6 = BitVec.ofNat 6 e.val ∧ (missDetail e p buf late).extractLsb' 54 4 = BitVec.ofNat 4 p.val ∧
      (missDetail e p buf late).extractLsb' 52 2 = BitVec.ofNat 2 buf.val ∧ (missDetail e p buf late).extractLsb' 32 20 = 0 ∧
      (missDetail e p buf late).extractLsb' 0 32 = late := by
  have he := e.isLt
  have hp := p.isLt
  have hb := buf.isLt
  have hl := late.isLt
  exact ⟨field_ofNat (by decide) (by omega), field_ofNat (by decide) (by omega), field_ofNat (by decide) (by omega),
    field_ofNat (v := 0) (by decide) (by omega), (field_ofNat (v := late.toNat) (by decide) (by omega)).trans (BitVec.ofNat_toNat ..)⟩

end Sys2Proof.Machine

open Sys2Proof Sys2Proof.Machine

/-- Settles O27. The miss leaves the command alone as it was, so its end is that of a command that stands alone, and the reply carries
the DETAIL it ends with. -/
theorem deadlineAbortKills : Obligations.DeadlineAbortKills := by
  intro s e p buf late d c halone hcid hfixed harmed hd
  have hmiss := standsAlone_missed halone e p buf
  have hc := cmd?_standsAlone hmiss
  have hexec := exec_deadlineExpiry_abort late (hcid ▸ cmd?_standsAlone halone) harmed hd
  refine ⟨fun hw => ?_, fun f hw => ?_⟩
  · simp only [hw, failCid_killable hc hfixed, endCmd_settled hmiss] at hexec
    obtain ⟨hend, hdetail⟩ := endCmd_standsAlone hmiss .killed stDeadlineMiss (missDetail e p buf late) none
    exact ⟨_, hexec, hend.of_rings rfl, _, hdetail, missDetail_fields e p buf late⟩
  · simp only [hw, failPart_killable hc hfixed, endCmd_settled hmiss] at hexec
    obtain ⟨hend, -⟩ := endCmd_standsAlone hmiss .killed stWeightUnavailable ((s.missed e p buf).heldDetail f) none
    exact ⟨_, hexec, hend.of_rings rfl⟩

end

section
/-! Grants of DMA bursts: the token buckets, the channel a mover chooses, and what the grant of a burst changes (R173, R175). -/
namespace Sys2Proof.Machine

/-! ### Token buckets (R173) -/

/-- Filling the buckets changes a channel's tokens alone. -/
@[simp] theorem chan_fillTokens (s : State) (elapsed : Nat) (k : ChanId) :
    (s.fillTokens elapsed).chan k = { s.chan k with tokens :=
      if (s.chan k).rateCap = 0 then (s.chan k).tokens else min 65536 ((s.chan k).tokens + (s.chan k).rateCap * 4 * elapsed) } := by
  have hmap : (s.fillTokens elapsed).chan k = if (s.chan k).rateCap = 0 then s.chan k else
      { s.chan k with tokens := min 65536 ((s.chan k).tokens + (s.chan k).rateCap * 4 * elapsed) } :=
    Vector.getElem_map ..
  rw [hmap]
  split <;> rfl

@[simp] theorem fillTokens_grants (s : State) (elapsed : Nat) : (s.fillTokens elapsed).dma.grants = s.dma.grants := rfl
@[simp] theorem fillTokens_lastAt (s : State) (elapsed : Nat) : (s.fillTokens elapsed).dma.lastAt = s.dma.lastAt := rfl

@[simp] theorem chanDescs_fillTokens (s : State) (elapsed : Nat) (k : ChanId) : (s.fillTokens elapsed).chanDescs k = s.chanDescs k := by
  unfold State.chanDescs
  rw [chan_fillTokens]
  rfl

theorem same_fillTokens (s : State) (elapsed : Nat) {x : Part} (hx : x ≠ .dma) : Same s (s.fillTokens elapsed) x := by
  cases x with
  | dma => exact absurd rfl hx
  | banks => exact ⟨rfl, rfl, rfl⟩
  | _ => rfl

/-! ### Bursts and eligible channels (R162, R175 step 1) -/

/-- A burst has between 1 and 4,096 bytes. -/
theorem nextBurst_len {s : State} {c : Chan} {ds : List DmaDesc} {b : Burst} (h : s.nextBurst c ds = some b) : b.len ≠ 0 ∧ b.len ≤ 4096 := by
  unfold State.nextBurst at h
  split at h
  next => cases h
  next d _ =>
    dsimp only at h
    split at h
    next => cases h
    next hlen =>
      obtain rfl := Option.some.inj h
      exact ⟨hlen, by dsimp only; omega⟩

theorem eligible_iff {s : State} {credits : BitVec 32} {k : ChanId} :
    s.eligible credits k = true ↔ (s.chan k).state = .active ∧ s.stopping (s.chan k).cid = false ∧ (s.chan k).flight.length < 16 ∧
      credits.getLsbD k.val = true ∧ ∃ b d, s.nextBurst (s.chan k) (s.chanDescs k) = some b ∧ (s.chanDescs k)[(s.chan k).desc]? = some d ∧
        s.burstRoom (s.chan k) d b.len = true ∧ ((s.chan k).rateCap = 0 ∨ b.len ≤ (s.chan k).tokens) := by
  unfold State.eligible
  dsimp only
  cases s.nextBurst (s.chan k) (s.chanDescs k) <;> cases (s.chanDescs k)[(s.chan k).desc]? <;> simp [and_assoc]

/-! ### The channel that has waited longest (R175 step 2) -/

/-- Of two channels the one granted longer ago; the first when both were granted at the same time. -/
def State.longerWaiting (s : State) (b k : ChanId) : ChanId := if (s.chan k).lastGrant < (s.chan b).lastGrant then k else b

/-- A channel comes before another at the turn of the longest wait: granted longer ago, ties to the lower number. -/
def State.WaitsFirst (s : State) (j i : ChanId) : Prop :=
  (s.chan j).lastGrant ≤ (s.chan i).lastGrant ∧ ((s.chan j).lastGrant = (s.chan i).lastGrant → j ≤ i)

theorem longerWaiting_cases (s : State) {b k : ChanId} (h : b < k) :
    (s.longerWaiting b k = k ∧ s.WaitsFirst k b) ∨ (s.longerWaiting b k = b ∧ s.WaitsFirst b k) := by
  unfold State.longerWaiting State.WaitsFirst
  split
  next hlt => exact .inl ⟨rfl, hlt.le, fun he => absurd he hlt.ne⟩
  next hge => exact .inr ⟨rfl, not_lt.1 hge, fun _ => h.le⟩

theorem State.WaitsFirst.trans {s : State} {a b c : ChanId} (h : s.WaitsFirst a b) (k : s.WaitsFirst b c) : s.WaitsFirst a c := by
  obtain ⟨hab, hab'⟩ := h
  obtain ⟨hbc, hbc'⟩ := k
  exact ⟨hab.trans hbc, fun he => (hab' (by omega)).trans (hbc' (by omega))⟩

/-- Over channels in the order of their numbers, the one left comes before all of them. -/
theorem foldl_longerWaiting (s : State) (ks : List ChanId) (b : ChanId) (hs : (b :: ks).Pairwise (· < ·)) :
    ks.foldl s.longerWaiting b ∈ b :: ks ∧ ∀ i ∈ b :: ks, s.WaitsFirst (ks.foldl s.longerWaiting b) i := by
  induction ks generalizing b with
  | nil => simp [State.WaitsFirst]
  | cons k ks ih =>
    obtain ⟨hb, hk⟩ := List.pairwise_cons.1 hs
    rw [List.foldl_cons]
    rcases longerWaiting_cases s (hb k (by simp)) with ⟨e, hfirst⟩ | ⟨e, hfirst⟩ <;> rw [e]
    · obtain ⟨hmem, hall⟩ := ih k hk
      exact ⟨.tail _ hmem, List.forall_mem_cons.2 ⟨(hall k (by simp)).trans hfirst, hall⟩⟩
    · obtain ⟨hmem, hall⟩ := ih b (hs.sublist ((List.sublist_cons_self k ks).cons_cons b))
      obtain ⟨hfb, hrest⟩ := List.forall_mem_cons.1 hall
      exact ⟨((List.sublist_cons_self k ks).cons_cons b).subset hmem,
        List.forall_mem_cons.2 ⟨hfb, List.forall_mem_cons.2 ⟨hfb.trans hfirst, hrest⟩⟩⟩

/-! ### Round robin (R175 step 4) -/

/-- A channel comes before another in the round that starts after `last`. -/
def RoundFirst (last : Nat) (j i : ChanId) : Prop := (last < i.val → last < j.val ∧ j ≤ i) ∧ (j.val ≤ last → j ≤ i)

/-- A list in channel-number order begins with its lowest channel. -/
theorem head_le_of_mem {ks l : List ChanId} {j i : ChanId} (hs : ks.Pairwise (· < ·)) (he : ks = j :: l) (hi : i ∈ ks) : j ≤ i := by
  subst he
  rcases List.mem_cons.1 hi with rfl | h
  · exact le_rfl
  · exact (List.rel_of_pairwise_cons hs h).le

/-- Of a list in channel-number order the first of the round is chosen. -/
theorem nextCyclic_spec (last : Nat) {ks : List ChanId} (hs : ks.Pairwise (· < ·)) (hne : ks ≠ []) :
    ∃ j, nextCyclic last ks = some j ∧ j ∈ ks ∧ ∀ i ∈ ks, RoundFirst last j i := by
  unfold nextCyclic
  split
  next j l hl =>
    obtain ⟨hj, hlast⟩ : j ∈ ks ∧ last < j.val := by
      simpa using List.mem_filter.1 (hl.symm ▸ List.mem_cons_self : j ∈ ks.filter fun k => decide (last < k.val))
    refine ⟨j, rfl, hj, fun i hi => ⟨fun hlt => ⟨hlast, ?_⟩, fun hle => absurd hlast (by omega)⟩⟩
    exact head_le_of_mem (hs.filter _) hl (List.mem_filter.2 ⟨hi, by simpa using hlt⟩)
  next hnil =>
    obtain ⟨j, l, rfl⟩ := List.exists_cons_of_ne_nil hne
    refine ⟨j, rfl, List.mem_cons_self, fun i hi => ⟨fun hlt => ?_, fun _ => head_le_of_mem hs rfl hi⟩⟩
    exact absurd hlt (by simpa using List.filter_eq_nil_iff.1 hnil i hi)

/-! ### The choice of a mover (R175) -/

/-- The eligible channels, in the order of their numbers. -/
def State.eligibles (s : State) (credits : BitVec 32) : List ChanId := (List.finRange 32).filter (s.eligible credits)

@[simp] theorem mem_eligibles {s : State} {credits : BitVec 32} {k : ChanId} : k ∈ s.eligibles credits ↔ s.eligible credits k = true := by
  simp [State.eligibles]

theorem pairwise_eligibles (s : State) (credits : BitVec 32) : (s.eligibles credits).Pairwise (· < ·) :=
  (List.pairwise_lt_finRange 32).filter _

theorem chooseChan_none {s : State} {mover : Fin 4} {credits : BitVec 32} (h : ∀ k, s.eligible credits k = false) :
    s.chooseChan mover credits = none := by
  have hnil : (List.finRange 32).filter (s.eligible credits) = [] := by simp [h]
  have hfind : ((List.finRange 8).find? fun p => ([] : List ChanId).any fun k => (s.chan k).pri == p) = none := by simp
  unfold State.chooseChan
  dsimp only
  rw [hnil, hfind]
  exact ite_self none

/-- What R175 asks of the channel that gets a mover's slot. -/
structure Chosen (s : State) (mover : Fin 4) (credits : BitVec 32) (j : ChanId) : Prop where
  eligible : s.eligible credits j = true
  longest : s.dma.grants[mover] % 16 = 15 → ∀ i, s.eligible credits i = true → s.WaitsFirst j i
  lowest : s.dma.grants[mover] % 16 ≠ 15 → ∀ i, s.eligible credits i = true → (s.chan j).pri ≤ (s.chan i).pri
  round : s.dma.grants[mover] % 16 ≠ 15 → ∀ i, s.eligible credits i = true → (s.chan j).pri = (s.chan i).pri →
    RoundFirst s.dma.lastAt[(s.chan j).pri] j i

/-- At every sixteenth grant of a mover the longest wait counts. -/
theorem chooseChan_turn {s : State} {mover : Fin 4} {credits : BitVec 32} {b : ChanId} {ks : List ChanId} (ht : s.dma.grants[mover] % 16 = 15)
    (hks : s.eligibles credits = b :: ks) : s.chooseChan mover credits = some (ks.foldl s.longerWaiting b) := by
  unfold State.eligibles at hks
  unfold State.chooseChan
  dsimp only
  rw [hks, if_pos ht, List.foldl_cons]
  refine List.foldl_hom some fun b k => ?_
  unfold State.longerWaiting
  exact (apply_ite some ..).symm

/-- The lowest PRI value among some channels. -/
theorem find?_lowest_pri {s : State} {ks : List ChanId} {k : ChanId} (hk : k ∈ ks) :
    ∃ p, ((List.finRange 8).find? fun p => ks.any fun k => (s.chan k).pri == p) = some p ∧ (∃ j ∈ ks, (s.chan j).pri = p) ∧
      ∀ i ∈ ks, p ≤ (s.chan i).pri := by
  have hsome : ((List.finRange 8).find? fun p => ks.any fun k => (s.chan k).pri == p).isSome := by
    simp only [List.find?_isSome, List.any_eq_true, beq_iff_eq]
    exact ⟨_, List.mem_finRange _, k, hk, rfl⟩
  obtain ⟨p, hp⟩ := Option.isSome_iff_exists.1 hsome
  obtain ⟨hany, n, hn, hpn, hbefore⟩ := List.find?_eq_some_iff_getElem.1 hp
  refine ⟨p, hp, by simpa using hany, fun i hi => not_lt.1 fun hlt => ?_⟩
  obtain rfl : ⟨n, by simpa using hn⟩ = p := by simpa using hpn
  have hnone := hbefore (s.chan i).pri.val hlt
  simp only [List.getElem_finRange, Bool.not_eq_true', List.any_eq_false, beq_iff_eq] at hnone
  exact hnone i hi rfl

/-- At every other grant PRI counts, then the round. -/
theorem chooseChan_pri {s : State} {mover : Fin 4} {credits : BitVec 32} {p : Fin 8} (ht : s.dma.grants[mover] % 16 ≠ 15)
    (hp : ((List.finRange 8).find? fun p => (s.eligibles credits).any fun k => (s.chan k).pri == p) = some p) :
    s.chooseChan mover credits = nextCyclic s.dma.lastAt[p] ((s.eligibles credits).filter fun k => (s.chan k).pri == p) := by
  unfold State.eligibles at *
  unfold State.chooseChan
  dsimp only
  rw [if_neg ht, hp]

/-- A mover with an eligible channel chooses one, as R175 says. -/
theorem chosen_chooseChan {s : State} (mover : Fin 4) {credits : BitVec 32} {k : ChanId} (hk : s.eligible credits k = true) :
    ∃ j, s.chooseChan mover credits = some j ∧ Chosen s mover credits j := by
  by_cases ht : s.dma.grants[mover] % 16 = 15
  · obtain ⟨b, ks, hks⟩ := List.exists_cons_of_ne_nil (List.ne_nil_of_mem (mem_eligibles.2 hk))
    obtain ⟨hmem, hfirst⟩ := foldl_longerWaiting s ks b (hks ▸ pairwise_eligibles s credits)
    rw [← hks] at hmem hfirst
    exact ⟨_, chooseChan_turn ht hks, mem_eligibles.1 hmem, fun _ i hi => hfirst i (mem_eligibles.2 hi), absurd ht, absurd ht⟩
  · obtain ⟨p, hp, ⟨k', hk', hkp⟩, hlow⟩ := find?_lowest_pri (s := s) (mem_eligibles.2 hk)
    obtain ⟨j, hj, hmem, hround⟩ := nextCyclic_spec s.dma.lastAt[p] ((pairwise_eligibles s credits).filter fun k => (s.chan k).pri == p)
      (List.ne_nil_of_mem (List.mem_filter.2 ⟨hk', beq_iff_eq.2 hkp⟩))
    obtain ⟨hje, rfl⟩ : s.eligible credits j = true ∧ (s.chan j).pri = p := by
      simpa only [List.mem_filter, mem_eligibles, beq_iff_eq] using hmem
    refine ⟨j, (chooseChan_pri ht hp).trans hj, hje, fun h => absurd h ht, fun _ i hi => hlow i (mem_eligibles.2 hi), fun _ i hi he => ?_⟩
    exact hround i (List.mem_filter.2 ⟨mem_eligibles.2 hi, by simp [he]⟩)

/-! ### Parts that are the same -/

theorem Same.trans {s t u : State} {x : Part} (h : Same s t x) (k : Same t u x) : Same s u x := by
  cases x with
  | banks =>
    obtain ⟨hhost, hmgt, hfw⟩ := h
    obtain ⟨khost, kmgt, kfw⟩ := k
    exact ⟨khost.trans hhost, kmgt.trans hmgt, kfw.trans hfw⟩
  | _ => exact Eq.trans k h

/-! ### The grant (R173, R175) -/

/-- What a grant may change. -/
def granting : List Part := [.dma, .sched, .serve, .banks]

/-- A mover has granted a burst to a channel: it is in flight, its bytes are taken from a rate-capped channel's bucket, the mover has
counted it, and no other channel has changed. -/
structure Granted (s t : State) (mover : Fin 4) (k : ChanId) (b : Burst) : Prop where
  same : ∀ x, x ∉ granting → Same s t x
  grants : t.dma.grants = vmod s.dma.grants mover (· + 1)
  flight : (t.chan k).flight = (s.chan k).flight ++ [{ b with mover }]
  tokens : (t.chan k).tokens = if (s.chan k).rateCap = 0 then (s.chan k).tokens else (s.chan k).tokens - b.len
  others : ∀ i, i ≠ k → t.chan i = s.chan i

/-- At a fill level a channel changes its state, its level and the start of its stay. -/
theorem chan_chanReact_self (s : State) (k : ChanId) (ds : List DmaDesc) :
    ∃ level state holdFrom, (s.chanReact k ds).chan k = { s.chan k with level, state, holdFrom } := by
  unfold State.chanReact
  dsimp only
  split <;> exact ⟨_, _, _, chan_modChan_self ..⟩

theorem chan_chanReact_ne (s : State) {k i : ChanId} (ds : List DmaDesc) (h : i ≠ k) : (s.chanReact k ds).chan i = s.chan i := by
  unfold State.chanReact
  dsimp only
  split <;> exact chan_modChan_ne _ _ h.symm

@[simp] theorem chanReact_grants (s : State) (k : ChanId) (ds : List DmaDesc) : (s.chanReact k ds).dma.grants = s.dma.grants := by
  unfold State.chanReact
  dsimp only
  split <;> rfl

/-- Beside the channel only GLB_DMA_HOLDS counts. -/
theorem same_chanReact (s : State) (k : ChanId) (ds : List DmaDesc) {x : Part} (hx : x ∉ [Part.dma, .banks]) :
    Same s (s.chanReact k ds) x := by
  unfold State.chanReact
  cases x with
  | dma => simp at hx
  | banks => simp at hx
  | _ => dsimp only; split <;> rfl

/-- A channel that goes to the state its counters ask for undoes nothing of a grant. -/
theorem Granted.chanReact {s t : State} {mover : Fin 4} {k : ChanId} {b : Burst} (h : Granted s t mover k b) (ds : List DmaDesc) :
    Granted s (t.chanReact k ds) mover k b := by
  obtain ⟨level, state, holdFrom, hk⟩ := chan_chanReact_self t k ds
  exact {
    same := fun x hx => (h.same x hx).trans (same_chanReact t k ds fun hm => hx ((by decide : [Part.dma, .banks] ⊆ granting) hm))
    grants := (chanReact_grants t k ds).trans h.grants
    flight := hk ▸ h.flight
    tokens := hk ▸ h.tokens
    others := fun i hi => (chan_chanReact_ne t ds hi).trans (h.others i hi) }

/-- What steps through queues alone changes nothing but the front end. -/
theorem foldl_serve {α : Type} {f : State → α → State} (hf : ∀ t a, ∃ serve, f t a = { t with serve }) (l : List α) (s : State) :
    ∃ serve, l.foldl f s = { s with serve } := by
  induction l generalizing s with
  | nil => exact ⟨_, rfl⟩
  | cons a l ih =>
    obtain ⟨serve, hserve⟩ := hf s a
    rw [List.foldl_cons, hserve]
    exact ih { s with serve }

/-- A mover that chooses no channel grants nothing: the buckets have filled (R173). -/
theorem grantBurst_none {s : State} {mover : Fin 4} {credits : BitVec 32} {elapsed : Nat}
    (h : (s.fillTokens elapsed).chooseChan mover credits = none) : s.grantBurst mover credits elapsed = s.fillTokens elapsed := by
  simp [State.grantBurst, h]

/-- The grant of the next burst of the channel that the mover chooses. -/
theorem granted_grantBurst {s : State} {mover : Fin 4} {credits : BitVec 32} {elapsed : Nat} {k : ChanId} {b : Burst} {d : DmaDesc}
    (hk : (s.fillTokens elapsed).chooseChan mover credits = some k)
    (hb : (s.fillTokens elapsed).nextBurst ((s.fillTokens elapsed).chan k) ((s.fillTokens elapsed).chanDescs k) = some b)
    (hd : ((s.fillTokens elapsed).chanDescs k)[((s.fillTokens elapsed).chan k).desc]? = some d) :
    Granted (s.fillTokens elapsed) (s.grantBurst mover credits elapsed) mover k b := by
  unfold State.grantBurst
  generalize s.fillTokens elapsed = s at *
  dsimp only
  simp only [hk, hb, hd]
  refine .chanReact ?_ _
  generalize hu : List.foldl _ _ _ = u
  obtain ⟨serve, rfl⟩ := hu ▸ foldl_serve (fun t q => by cases q <;> exact ⟨_, rfl⟩) _ _
  exact {
    same := fun x hx => by
      cases x with
      | dma | sched | serve | banks => simp [granting] at hx
      | _ => rfl
    grants := rfl
    flight := congrArg Chan.flight (chan_modChan_self s k _)
    tokens := congrArg Chan.tokens (chan_modChan_self s k _)
    others := fun i hi => chan_modChan_ne s _ hi.symm }

end Sys2Proof.Machine

open Sys2Proof Sys2Proof.Machine

/-- Settles O43. The clauses about buckets and eligible channels are read off their lemmas. A mover with an eligible channel chooses one
as R175 says, and its next burst, which eligibility gives, is granted; filling the buckets first has changed nothing but tokens. -/
theorem dmaArbitration : Obligations.DmaArbitration := by
  intro s mover credits elapsed
  refine ⟨fun k => by rw [chan_fillTokens], fun k => by rw [chan_fillTokens], fun k hk => ?_, fun hnone => ?_, fun k hk => ?_⟩
  · obtain ⟨hactive, -, hflight, hcredits, b, d, hb, -, -, htokens⟩ := eligible_iff.1 hk
    exact ⟨hactive, hflight, hcredits, b, hb, htokens⟩
  · exact ⟨_, rfl, grantBurst_none (chooseChan_none hnone)⟩
  · obtain ⟨j, hj, hchosen⟩ := chosen_chooseChan mover hk
    obtain ⟨-, -, -, -, b, d, hb, hd, -, -⟩ := eligible_iff.1 hchosen.eligible
    obtain ⟨hnonzero, hmax⟩ := nextBurst_len hb
    obtain ⟨hsame, hgrants, hflight, htokens, hothers⟩ := granted_grantBurst hj hb hd
    obtain ⟨heligible, hlongest, hlowest, hround⟩ := hchosen
    simp only [State.WaitsFirst, RoundFirst, chan_fillTokens, fillTokens_grants, fillTokens_lastAt] at hlongest hlowest hround hflight hgrants
    have hfill (x : Part) (hx : x ∉ granting) : Same s (s.fillTokens elapsed) x := same_fillTokens s elapsed fun he => hx (he ▸ by decide)
    refine ⟨_, rfl, fun x hx => (hfill x hx).trans (hsame x hx), j, b, heligible, by simpa using hb, hflight, hmax, hnonzero, hlongest, ?_, ?_, ?_, ?_, ?_⟩
    · exact fun ht i hi => ⟨hlowest ht i hi, fun he => (hround ht i hi he).1, fun he => (hround ht i hi he).2⟩
    · intro hr
      rw [htokens, if_neg (by simpa using hr)]
    · rw [hgrants, vmod_get_self]
    · intro m hm
      rw [hgrants, vmod_get_ne _ _ hm.symm]
    · intro i hi
      rw [hothers i hi, chan_fillTokens]
      exact ⟨rfl, rfl⟩

end

section
/-! The SEQ of packets: the refusal of a packet, the SEQ that a ring expects, and the ring's enable (R267, R268, R273, R281). -/
namespace Sys2Proof.Machine

/-! ### Packets that fail admission (R281) -/

/-- The reply of a packet that fails admission. -/
def State.refusal (s : State) (h : Hdr) (op : Op) (st : W16) : ReplyRec :=
  { seq := h.seq, status := st, phase := .killed, refusal := true, opcode := opCode op, ctx := h.ctx, gen := (s.ctx h.ctx).gen }

/-- What CMD leaves of a packet that fails admission, but for the event of a cramped graph: it is read, and its reply is written. -/
def State.refused (s : State) (h : Hdr) (op : Op) (st : W16) : State :=
  (s.notePacket h 0).reply h.ring h.notify h.ring.val (s.refusal h op st) 0 [] []

/-- With no command under way, a packet that fails admission only gets its reply. -/
theorem submit_refused {s : State} {h : Hdr} {op : Op} {st : W16} (hcmds : s.sched.cmds = []) (hadm : s.admission h op = .error st)
    (hst : st ≠ stQuota) : s.submit h op = s.refused h op st := by
  have hlast (n : Nat) : (s.refused h op st).cmd? n = none := by
    simp [State.cmd?, State.refused, (writes_reply ..).sched, State.notePacket, hcmds]
  unfold State.submit
  rw [hadm]
  simp only [hst, decide_false, Bool.false_and, Bool.false_eq_true, if_false]
  change (s.refused h op st).bindLast _ h op none st = _
  simp [State.bindLast, hlast]

/-- The row of a packet that is read and fails admission with nothing under way. -/
theorem row_refused {i : Instr} {s : State} {h : Hdr} {op : Op} {st : W16} (hrow : packetRow i = some (h, op)) (halone : s.alone = true)
    (hread : s.mayRead h.ring = true) (hadm : s.admission h op = .error st) (hst : st ≠ stQuota) : exec i s = .next (s.refused h op st) := by
  obtain ⟨hcmds, -, hreqs⟩ := alone_spec halone
  have hserve : (s.refused h op st).serve.reqs = [] := by
    rw [State.refused, (writes_reply ..).serve]
    exact hreqs
  rw [row_packet hrow, State.packet, if_pos hread, submit_refused hcmds hadm hst, served_nil hserve]

/-- Reading a packet moves its ring on, and changes nothing of where the next reply goes. -/
theorem notePacket_ring (s : State) (h : Hdr) (cid : Nat) :
    (s.notePacket h cid).ring h.ring = { s.ring h.ring with
      head := (s.ring h.ring).head + 1, tail := if (s.ring h.ring).tail = (s.ring h.ring).head then (s.ring h.ring).head + 1 else (s.ring h.ring).tail,
      read := (s.ring h.ring).read + 1, nextSeq := some (h.seq + 1), lastCid := cid } := ring_modRing_self ..

theorem notePacket_replyKey? (s : State) (h : Hdr) (cid : Nat) : (s.notePacket h cid).replyKey? h.ring = s.replyKey? h.ring := by
  have hring := notePacket_ring s h cid
  exact replyKey?_eq (by rw [hring]) (by rw [hring]) (by rw [hring]) (by rw [hring]) (by rw [hring]) rfl

/-- A refused packet has its reply as the newest of its ring, and the ring expects its SEQ + 1. -/
theorem replied_refused (s : State) (h : Hdr) (op : Op) (st : W16) : Replied h (opCode op) s (s.refused h op st) .killed true st 0 := by
  obtain ⟨⟨hhead, hseq⟩, hnew, htail⟩ := reply_ring (s.notePacket h 0) h.ring h.notify h.ring.val (s.refusal h op st) 0 [] []
  have hmem := reply_mem (s.notePacket h 0) h.ring h.notify h.ring.val (s.refusal h op st) 0 [] []
  rw [notePacket_ring] at hhead hseq hnew htail hmem
  refine ⟨hhead, hseq, ⟨_, s.refusal h op st, hnew, rfl, rfl, rfl, rfl, rfl, rfl, rfl, rfl, rfl, rfl, rfl, rfl, rfl, fun hwf k hk => ?_⟩, htail⟩
  rw [notePacket_replyKey?, hk] at hmem
  have hback := memReadList_memWriteList hwf k ((s.refusal h op st).bytes (s.ring h.ring).toggle s.tick.now)
  rw [replyBytes_length] at hback
  exact (congrArg (memReadList · k 32) hmem).trans hback

/-! ### SEQ at admission (R273) -/

/-- Outside vigil a SEQ other than the one expected fails admission (R281 step 2). -/
theorem admission_seq_ne {s : State} {h : Hdr} {q : W32} (op : Op) (hvigil : s.inVigil = false) (hnext : (s.ring h.ring).nextSeq = some q)
    (hne : h.seq ≠ q) : s.admission h op = .error stBounds := by
  have hrun : (s.boot.run == RunState.vigil) = false := hvigil
  simp [State.admission, firstFail, hrun, hnext, hne.symm]

/-- A packet without DEP and CHAIN depends on no packet (R274). -/
theorem depSeqs_eq_nil {h : Hdr} (hdep : h.dep = 0) (hchain : h.chain = false) : depSeqs h = [] := by
  simp [depSeqs, hdep, hchain]

/-- On a ring that expects no SEQ yet, admission of a NOP that depends on no packet does not rest on its SEQ. -/
theorem admission_nop_seq {s t : State} {h : Hdr} {c : Cmd} (hnext : (s.ring h.ring).nextSeq = none) (hdep : h.dep = 0) (hchain : h.chain = false)
    (hadm : s.admission h .nop = .ok (t, c)) (q : W32) :
    s.admission { h with seq := q } .nop = .ok (s, s.newCmd { h with seq := q } .nop) := by
  have hnone (r : W32) : depSeqs { h with seq := r } = [] := depSeqs_eq_nil hdep hchain
  have hdepOk : s.depOk { h with seq := q } = s.depOk h := by simp only [State.depOk, hnone q, hnone h.seq]
  have hlink (g : Hdr) (hg : depSeqs g = []) : s.linkDeps g .nop (s.newCmd g .nop) = s.newCmd g .nop := by simp [State.linkDeps, hg]
  unfold State.admission at hadm ⊢
  dsimp only at hadm ⊢
  rw [hnext, hlink h (hnone h.seq)] at hadm
  rw [hnext, hdepOk, hlink _ (hnone q)]
  split at hadm
  next => cases hadm
  next hearly =>
    split at hadm
    next => cases hadm
    next hhead =>
      split at hadm
      next => cases hadm
      next hparam =>
        have hhead' : s.headFail (s.newCmd { h with seq := q } .nop) (h.rsvFlags != 0) (s.depOk h) = none := hhead
        rw [hearly]
        dsimp only
        rw [hhead']
        dsimp only
        rw [if_neg hparam]
        rfl

/-- A command without descriptors finds its memory ready in every state. -/
theorem memReady_of_ranges_nil (s : State) {c : Cmd} (h : c.ranges = []) : s.memReady c = true := by
  have hload : s.readsLoading c = false := List.any_eq_false.2 fun w _ => by simp [h]
  simp [State.memReady, State.atHand, h, hload]

/-- With no other command under way, no writer comes before a command. -/
theorem writeOrderOk_held {s : State} (h : Hdr) (c : Cmd) (hcmds : s.sched.cmds = []) : (s.held h c).writeOrderOk c = true := by
  simp [State.writeOrderOk, State.cmdsOf, State.held, State.notePacket, hcmds]

/-- An admitted command once it is READY (R303). -/
def State.readied (s : State) (c : Cmd) : Cmd := { c with state := .ready, readyNo := s.sched.nextReady }

theorem admitted?_nop {s : State} {h : Hdr} (hadm : s.admission h .nop = .ok (s, s.newCmd h .nop)) :
    s.admitted? h .nop = if s.calm && s.mayRead h.ring && s.unguarded h.ring then some (s, s.readied (s.newCmd h .nop)) else none := by
  unfold State.admitted?
  split
  next hg =>
    simp only [Bool.and_eq_true] at hg
    rw [hadm]
    simp [hg, State.newCmd, State.readied]
  next => rfl

/-- When an admitted NOP starts: none of it rests on its SEQ. -/
theorem starts?_nop {s : State} {h : Hdr} (hcmds : s.sched.cmds = []) (hadm : s.admission h .nop = .ok (s, s.newCmd h .nop)) :
    (s.starts? h .nop).isSome = (s.calm && s.mayRead h.ring && s.unguarded h.ring && s.poolFits (s.newCmd h .nop)) := by
  unfold State.starts?
  rw [admitted?_nop hadm]
  split
  next hnone =>
    simp only [ite_eq_right_iff, reduceCtorEq, imp_false, Bool.not_eq_true] at hnone
    rw [hnone, Bool.false_and, Option.isSome_none]
  next t c hsome =>
    obtain ⟨hg, e⟩ := Option.ite_none_right_eq_some.1 hsome
    cases e
    have horder := writeOrderOk_held h (s.readied (s.newCmd h .nop)) hcmds
    have hmem := memReady_of_ranges_nil (s.held h (s.readied (s.newCmd h .nop))) (c := s.readied (s.newCmd h .nop)) rfl
    have hrecheck : (s.held h (s.readied (s.newCmd h .nop))).recheck (s.readied (s.newCmd h .nop)) = none := rfl
    have hneed : (s.readied (s.newCmd h .nop)).shNeed = 0 := rfl
    have hpool : s.poolFits (s.readied (s.newCmd h .nop)) = s.poolFits (s.newCmd h .nop) := rfl
    rw [hg, horder, hmem, hrecheck, hneed, hpool, Bool.eq_iff_iff]
    simp [planY, kindOf, opCode, vaultWrite]

/-- On a ring that expects no SEQ yet, whether a NOP that depends on no packet runs does not rest on its SEQ (R273). -/
theorem runs_nop_seq {s : State} {h : Hdr} (hnext : (s.ring h.ring).nextSeq = none) (hdep : h.dep = 0) (hchain : h.chain = false)
    (hrun : s.runs h .nop = true) (q : W32) : s.runs { h with seq := q } .nop = true := by
  obtain ⟨halone, u, c, hstart⟩ := runs_spec hrun
  obtain ⟨d, hadm?, -⟩ := packet_starts hstart
  obtain ⟨-, -, -, -, -, -, d, hadm, -⟩ := admitted?_spec hadm?
  obtain ⟨hcmds, -⟩ := alone_spec halone
  have hall := admission_nop_seq hnext hdep hchain hadm
  have hsame := (starts?_nop hcmds (hall q)).trans (starts?_nop (h := h) hcmds (hall h.seq)).symm
  rw [State.runs, halone, Bool.true_and, hsame, hstart]
  rfl

/-- A NOP that runs commits and leaves every part of the state as it was (R280). -/
theorem commits_nop {s : State} {h : Hdr} (hrun : s.runs h .nop = true) : Commits (.nop h) h 0x0100 0 s [] fun _ => True := by
  obtain ⟨halone, u, c, hstart⟩ := runs_spec hrun
  have b := begun hstart
  have hdone : u.startOp c = doneOk u := by rw [State.startOp, b.op]
  refine commits_row rfl halone hstart hdone rfl rfl rfl rfl rfl rfl rfl id (fun x _ => ?_) fun _ _ => trivial
  cases x with
  | mem => exact ⟨rfl, b.replyKey⟩
  | banks => exact ⟨rfl, rfl, rfl⟩
  | _ => rfl

/-! ### The enable of a ring (R267, R268, R273) -/

theorem withEnable_true (v : W32) : (withEnable v true).toNat = v.toNat % 2 ^ 31 + 2 ^ 31 := by
  rw [withEnable, BitVec.toNat_ofNat, bitAt, if_pos rfl]
  omega

/-- An enable sets ENABLE and leaves the size field of the value written. -/
theorem withEnable_fields (v : W32) : bitOf (withEnable v true).toNat 31 = true ∧ bitsOf (withEnable v true).toNat 4 0 = v.toNat % 32 := by
  rw [withEnable_true, bitOf, bitsOf, beq_iff_eq]
  omega

/-- A ring that starts runs, and its first packet may carry any SEQ. -/
theorem ring_enableRing (s : State) (r : RingId) :
    ((s.enableRing r).ring r).state = .running ∧ ((s.enableRing r).ring r).nextSeq = none := by
  unfold State.enableRing
  dsimp only
  rw [ring_modRing_self]
  exact ⟨rfl, rfl⟩

/-- A write of ENABLE with a legal size, by another path than the host's, starts a ring that is not enabled and not closing. -/
theorem writeRingCfg_enable {s : State} {p : Path} {v : Nat} (hp : p ≠ .host) (hoff : (s.ring (s.selRing p)).enabled = false)
    (hclosing : (s.ring (s.selRing p)).state ≠ .closing) (henable : bitOf v 31 = true) (hsize : 4 ≤ bitsOf v 4 0 ∧ bitsOf v 4 0 ≤ 16) :
    ∃ t, s.writeRingCfg p v = State.enableRing t (s.selRing p) := by
  have hwriter : ringWriter p (s.ring (s.selRing p)) = true := by simp [ringWriter, hp]
  unfold State.writeRingCfg
  simp only [hwriter, Bool.not_true, Bool.false_or, Bool.and_eq_true, beq_iff_eq, hp, false_and, ↓reduceIte, henable, hclosing, hoff,
    Bool.false_eq_true, hsize, and_self, decide_true]
  exact ⟨_, rfl⟩

theorem exec_ringEnable {s : State} {p : Path} {v : W32} (hreach : s.canReach p .cmdqCfg = true) (hp : p ≠ .host)
    (hoff : (s.ring (s.selRing p)).enabled = false) (hclosing : (s.ring (s.selRing p)).state ≠ .closing) (hlow : 4 ≤ v.toNat % 32)
    (hhigh : v.toNat % 32 ≤ 16) : ∃ t, exec (.ringEnable p v) s = .next (State.enableRing t (s.selRing p)) := by
  obtain ⟨henable, hsize⟩ := withEnable_fields v
  obtain ⟨t, ht⟩ := writeRingCfg_enable hp hoff hclosing henable (by rw [hsize]; exact ⟨hlow, hhigh⟩)
  exact ⟨t, congrArg Host.Outcome.next ((writeNamed_of_canReach hreach _).trans ht)⟩

end Sys2Proof.Machine

open Sys2Proof Sys2Proof.Machine

/-- Settles O7. A packet with another SEQ than the one expected is refused, and every packet that is read sets the SEQ expected next; on
a ring that expects none a NOP runs whatever its SEQ, and an enable leaves the ring in that case. -/
theorem sequenceNumbers : Obligations.SequenceNumbers := by
  intro s h halone
  refine ⟨fun i op q hrow hread hvigil hnext hne => ?_, fun hrun => ?_, fun hnext hdep hchain hrun q => ?_,
    fun p v hreach hp hoff hclosing hlow hhigh => ?_⟩
  · have hreply := replied_refused s h op stBounds
    exact ⟨_, row_refused hrow halone hread (admission_seq_ne op hvigil hnext hne) (by decide), hreply, hreply.seq⟩
  · obtain ⟨t, ht, hreply, -⟩ := commits_nop hrun
    exact ⟨t, ht, hreply.seq⟩
  · obtain ⟨t, ht, hreply, -⟩ := commits_nop (runs_nop_seq hnext hdep hchain hrun q)
    exact ⟨t, ht, hreply, hreply.seq⟩
  · obtain ⟨t, ht⟩ := exec_ringEnable hreach hp hoff hclosing hlow hhigh
    exact ⟨_, ht, ring_enableRing t _⟩

end

section
/-! The PCI Express function: loss of the link, function-level reset, and errors that are counted and told (R500, R502, R503). -/
namespace Sys2Proof.Machine

/-! ### Operations that change rings alone -/

/-- Only rings differ, and which of them wait for the end of a function-level reset. -/
def RingsOnly (s t : State) : Prop := ∃ rings flr, t = { s with rings, pcie := { s.pcie with flr } }

theorem RingsOnly.refl (s : State) : RingsOnly s s := ⟨_, _, rfl⟩

theorem RingsOnly.trans {s t u : State} (h : RingsOnly s t) (k : RingsOnly t u) : RingsOnly s u := by
  obtain ⟨_, _, rfl⟩ := h
  obtain ⟨_, _, rfl⟩ := k
  exact ⟨_, _, rfl⟩

theorem RingsOnly.foldl {f : State → RingId → State} (hf : ∀ t r, RingsOnly t (f t r)) (l : List RingId) (s : State) :
    RingsOnly s (l.foldl f s) :=
  List.foldlRecOn l f (.refl s) fun t ht r _ => ht.trans (hf t r)

/-- Steps through distinct rings, each of which changes its own ring as f says while a condition on that ring holds: the rings of the list
have changed so, and no other. -/
theorem ring_foldl {g : State → RingId → State} {f : Ring → Ring} {P : State → RingId → Prop}
    (hself : ∀ t r, P t r → (g t r).ring r = f (t.ring r)) (hother : ∀ t r q, r ≠ q → (g t r).ring q = t.ring q)
    (hkeep : ∀ t r q, r ≠ q → P t q → P (g t r) q) {l : List RingId} (hl : l.Nodup) (s : State) (hs : ∀ r ∈ l, P s r) (q : RingId) :
    (l.foldl g s).ring q = if q ∈ l then f (s.ring q) else s.ring q := by
  induction l generalizing s with
  | nil => rfl
  | cons r l ih =>
    obtain ⟨hr, hl⟩ := List.nodup_cons.1 hl
    have hne (x : RingId) (hx : x ∈ l) : r ≠ x := fun e => hr (e ▸ hx)
    rw [List.foldl_cons, ih hl _ fun x hx => hkeep s r x (hne x hx) (hs x (.tail _ hx))]
    by_cases hq : r = q
    · subst hq
      rw [if_neg hr, if_pos List.mem_cons_self, hself s r (hs r List.mem_cons_self)]
    · rw [hother s r q hq]
      simp [Ne.symm hq]

theorem mem_hostRings {s : State} {r : RingId} : r ∈ s.hostRings ↔ r ≠ mgtRing ∧ (s.ring r).core = false := by
  simp [State.hostRings]

theorem nodup_hostRings (s : State) : s.hostRings.Nodup := (List.nodup_finRange _).filter _

/-! ### Loss of the link (R502) -/

/-- What the loss of the link leaves of a host ring: ERROR with FETCH_ERROR where it ran. -/
def Ring.lost (x : Ring) : Ring := if x.state = .running then { x with state := .error, err := 2 } else x

def State.loseRing (s : State) (r : RingId) : State :=
  if (s.ring r).state = .running then s.modRing r fun x => { x with state := .error, err := 2 } else s

/-- The link is down, and its rate and width read 0. -/
def State.hostDown (s : State) : State := { s with pcie := { s.pcie with up := false, gen := 0, width := 0, flit := false } }

theorem hostLoss_eq (s : State) : s.hostLoss = (s.hostRings.foldl State.loseRing s.hostDown).endHostTransfers := rfl

theorem Ring.lost_core (x : Ring) : x.lost.core = x.core := by
  unfold Ring.lost
  split <;> rfl

theorem loseRing_ringsOnly (s : State) (r : RingId) : RingsOnly s (s.loseRing r) := by
  unfold State.loseRing
  split
  · exact ⟨_, _, rfl⟩
  · exact .refl s

theorem ring_loseRing_self (s : State) (r : RingId) : (s.loseRing r).ring r = (s.ring r).lost := by
  unfold State.loseRing Ring.lost
  split
  · exact ring_modRing_self ..
  · rfl

theorem ring_loseRing_ne (s : State) {r q : RingId} (h : r ≠ q) : (s.loseRing r).ring q = s.ring q := by
  unfold State.loseRing
  split
  · exact ring_modRing_ne _ _ h
  · rfl

/-- No channel moves data from or to the host. -/
def State.NoHostTransfer (s : State) : Prop := ∀ k, (s.chan k).state = .idle ∨ s.hostChan k = false

theorem endHostTransfers_none {s : State} (h : s.NoHostTransfer) : s.endHostTransfers = s := by
  refine List.foldlRecOn (motive := fun t => t = s) _ _ rfl fun t ht k _ => ?_
  subst ht
  exact if_neg (by rcases h k with hk | hk <;> simp [hk])

theorem loseRings_ringsOnly (s : State) : RingsOnly s.hostDown (s.hostRings.foldl State.loseRing s.hostDown) := .foldl loseRing_ringsOnly _ _

/-- Without host transfers the loss of the link is a pass over the host rings. -/
theorem hostLoss_of_noHostTransfer {s : State} (h : s.NoHostTransfer) : s.hostLoss = s.hostRings.foldl State.loseRing s.hostDown := by
  rw [hostLoss_eq, endHostTransfers_none]
  obtain ⟨rings, flr, e⟩ := loseRings_ringsOnly s
  rw [e]
  exact h

theorem hostLoss_ringsOnly {s : State} (h : s.NoHostTransfer) : RingsOnly s.hostDown s.hostLoss := by
  rw [hostLoss_of_noHostTransfer h]
  exact loseRings_ringsOnly s

theorem ring_hostLoss {s : State} (h : s.NoHostTransfer) (r : RingId) :
    s.hostLoss.ring r = if r ∈ s.hostRings then (s.ring r).lost else s.ring r := by
  rw [hostLoss_of_noHostTransfer h]
  exact ring_foldl (P := fun _ _ => True) (fun t r _ => ring_loseRing_self t r) (fun t _ _ => ring_loseRing_ne t) (fun _ _ _ _ _ => trivial)
    (nodup_hostRings s) _ (fun _ _ => trivial) r

/-! ### Function-level reset (R502) -/

theorem ringClosed_ringsOnly (s : State) (r : RingId) : RingsOnly s (s.ringClosed r) := by
  unfold State.ringClosed
  split
  · exact .refl s
  · split
    · exact ⟨_, _, rfl⟩
    · exact .refl s

theorem ring_ringClosed_ne (s : State) {r q : RingId} (h : r ≠ q) : (s.ringClosed r).ring q = s.ring q := by
  unfold State.ringClosed
  split
  · rfl
  · split
    · exact ring_modRing_ne s _ h
    · rfl

/-- A function-level reset ends a ring, and no command is under way for which the ring would wait. -/
def State.EndsRing (s : State) (r : RingId) : Prop := s.sched.cmds = [] ∧ r ∈ s.pcie.flr

theorem ringClosed_of_endsRing {s : State} {r : RingId} (h : s.EndsRing r) :
    s.ringClosed r = { s.modRing r fun x => { x with state := .disabled } with pcie := { s.pcie with flr := s.pcie.flr.filter (· != r) } } := by
  obtain ⟨hcmds, hflr⟩ := h
  simp [State.ringClosed, State.outstanding, hcmds, hflr]

theorem ring_ringClosed_self {s : State} {r : RingId} (h : s.EndsRing r) : (s.ringClosed r).ring r = { s.ring r with state := .disabled } := by
  rw [ringClosed_of_endsRing h]
  exact ring_modRing_self ..

theorem endsRing_ringClosed {s : State} {r q : RingId} (hne : r ≠ q) (h : s.EndsRing q) : (s.ringClosed r).EndsRing q := by
  obtain ⟨hcmds, hflr⟩ := h
  unfold State.EndsRing State.ringClosed
  split
  · exact ⟨hcmds, hflr⟩
  · split
    · exact ⟨hcmds, List.mem_filter.2 ⟨hflr, by simpa using hne.symm⟩⟩
    · exact ⟨hcmds, hflr⟩

/-- Host rings that a function-level reset ends. -/
def State.resetRings (s : State) : List RingId := s.hostRings.filter fun r => decide ((s.ring r).state ≠ .disabled)

/-- The raised vectors are gone (R502). -/
def State.dropVectors (s : State) : State := { s with pcie := { s.pcie with msix := [] } }

/-- Host rings wait for their ends. -/
def State.awaitEnds (s : State) (l : List RingId) : State := { s with pcie := { s.pcie with flr := l } }

theorem RingsOnly.dropVectors {s t : State} (h : RingsOnly s t) : RingsOnly s.dropVectors t.dropVectors := by
  obtain ⟨_, _, rfl⟩ := h
  exact ⟨_, _, rfl⟩

/-- The end of a function-level reset: no vectors, and each enabled host ring is DISABLED once its commands have ended. -/
def State.endFunction (s : State) : State := s.resetRings.foldl State.ringClosed (s.dropVectors.awaitEnds s.resetRings)

theorem functionReset_eq (s : State) : s.functionReset = s.hostLoss.endFunction := by
  unfold State.functionReset
  generalize s.hostLoss = u
  rfl

theorem endFunction_ringsOnly (s : State) : RingsOnly s.dropVectors s.endFunction := .trans ⟨_, _, rfl⟩ (.foldl ringClosed_ringsOnly _ _)

theorem ring_endFunction {s : State} (hcmds : s.sched.cmds = []) (r : RingId) :
    s.endFunction.ring r = if r ∈ s.resetRings then { s.ring r with state := .disabled } else s.ring r :=
  ring_foldl (P := State.EndsRing) (f := fun x => { x with state := .disabled }) (fun _ _ => ring_ringClosed_self) (fun t _ _ => ring_ringClosed_ne t)
    (fun _ _ _ => endsRing_ringClosed) ((nodup_hostRings s).filter _) (s.dropVectors.awaitEnds s.resetRings) (fun _ hr => ⟨hcmds, hr⟩) r

/-- Without host transfers a function-level reset changes the link, the raised vectors and rings alone. -/
theorem functionReset_ringsOnly {s : State} (h : s.NoHostTransfer) : RingsOnly s.hostDown.dropVectors s.functionReset := by
  rw [functionReset_eq]
  exact (hostLoss_ringsOnly h).dropVectors.trans (endFunction_ringsOnly _)

theorem ring_functionReset {s : State} (h : s.NoHostTransfer) (hcmds : s.sched.cmds = []) (r : RingId) : s.functionReset.ring r =
    if r ∈ s.hostLoss.resetRings then { s.hostLoss.ring r with state := .disabled } else s.hostLoss.ring r := by
  rw [functionReset_eq]
  refine ring_endFunction ?_ r
  obtain ⟨rings, flr, e⟩ := hostLoss_ringsOnly h
  rw [e]
  exact hcmds

theorem ring_core_hostLoss {s : State} (h : s.NoHostTransfer) (r : RingId) : (s.hostLoss.ring r).core = (s.ring r).core := by
  rw [ring_hostLoss h]
  split
  · exact Ring.lost_core _
  · rfl

/-- Every host ring is DISABLED after a function-level reset with no command under way. -/
theorem functionReset_hostRing {s : State} (h : s.NoHostTransfer) (hcmds : s.sched.cmds = []) {r : RingId} (hr : r ∈ s.hostRings) :
    (s.functionReset.ring r).state = .disabled := by
  have hhost : r ∈ s.hostLoss.hostRings := by
    rw [mem_hostRings, ring_core_hostLoss h]
    exact mem_hostRings.1 hr
  rw [ring_functionReset h hcmds]
  split
  · rfl
  next hoff => simpa [State.resetRings, hhost] using hoff

/-- A function-level reset leaves core rings and the management ring as they were. -/
theorem functionReset_otherRing {s : State} (h : s.NoHostTransfer) (hcmds : s.sched.cmds = []) {r : RingId} (hr : r ∉ s.hostRings) :
    s.functionReset.ring r = s.ring r := by
  have hother : r ∉ s.hostLoss.resetRings := fun hm => hr (by
    have hhost := mem_hostRings.1 (List.mem_of_mem_filter hm)
    rwa [ring_core_hostLoss h, ← mem_hostRings] at hhost)
  rw [ring_functionReset h hcmds, if_neg hother, ring_hostLoss h, if_neg hr]

/-! ### Counts and records (R445, R456, R530) -/

theorem assocD_assocSet_self {α β : Type} [DecidableEq α] (l : List (α × β)) (k : α) (v d : β) : assocD (assocSet l k v) k d = v := by
  simp [assocSet, assocD]

theorem assocD_assocSet_ne {α β : Type} [DecidableEq α] (l : List (α × β)) {k j : α} (v d : β) (h : j ≠ k) :
    assocD (assocSet l j v) k d = assocD l k d := by
  rw [assocSet, assocD, if_neg h]
  induction l with
  | nil => rfl
  | cons p l ih =>
    by_cases hp : p.1 = j
    · rw [List.filter_cons_of_neg (by simpa using hp), ih, assocD, if_neg (hp ▸ h)]
    · rw [List.filter_cons_of_pos (by simpa using hp), assocD, assocD, ih]

/-- A count rises and saturates; those at other offsets stay. -/
theorem count_hostBank_self (s : State) (off k n : Nat) :
    (s.count off k n).hostBank.count off k = min (rcUnit off * 2 ^ 32 - 1) (s.hostBank.count off k + n) := assocD_assocSet_self ..

theorem count_hostBank_ne (s : State) {off off' : Nat} (k n k' : Nat) (h : off ≠ off') :
    (s.count off k n).hostBank.count off' k' = s.hostBank.count off' k' := assocD_assocSet_ne _ _ _ (by simp [h])

/-- A record on its way out leaves the trace buffer, and every count but ERR_SUPP. -/
structure Delivers (s t : State) : Prop where
  trace : t.ras.trace = s.ras.trace
  counts : ∀ off k, offSupp ≠ off → t.hostBank.count off k = s.hostBank.count off k

theorem Delivers.after {s t u : State} (k : Delivers t u) (h : Delivers s t) : Delivers s u :=
  ⟨k.trace.trans h.trace, fun off n hne => (k.counts off n hne).trans (h.counts off n hne)⟩

theorem delivers_suppressed (s : State) (k : Nat) : Delivers s (s.count offSupp k 1) :=
  ⟨rfl, fun _ _ hne => count_hostBank_ne s k 1 _ hne⟩

theorem delivers_msix (s : State) (v : Nat) : Delivers s (s.msix v) := by
  unfold State.msix
  split <;> exact ⟨rfl, fun _ _ _ => rfl⟩

theorem delivers_hostWrite (s : State) (r : EvRec) : Delivers s (s.hostWrite r) := by
  unfold State.hostWrite
  extract_lets a addr stored noted
  have hnoted : Delivers s noted := by
    dsimp only [noted, stored]
    split <;> exact ⟨rfl, fun _ _ _ => rfl⟩
  split
  · exact hnoted
  · exact (delivers_msix noted 160).after hnoted

theorem delivers_hostRecord (s : State) (r : EvRec) : Delivers s (s.hostRecord r) := by
  unfold State.hostRecord
  dsimp only
  split
  · exact ⟨rfl, fun _ _ _ => rfl⟩
  · split
    · exact (delivers_hostWrite _ r).after ⟨rfl, fun _ _ _ => rfl⟩
    · exact (delivers_suppressed _ _).after ⟨rfl, fun _ _ _ => rfl⟩

theorem delivers_mgtRecord (s : State) (r : EvRec) : Delivers s (s.mgtRecord r) := by
  unfold State.mgtRecord
  split
  · split <;> exact ⟨rfl, fun _ _ _ => rfl⟩
  · exact ⟨rfl, fun _ _ _ => rfl⟩
  · dsimp only
    split
    · exact ⟨rfl, fun _ _ _ => rfl⟩
    · exact (delivers_suppressed _ _).after ⟨rfl, fun _ _ _ => rfl⟩

/-- An event without a code in R457 is the newest record of the trace buffer, and counts nothing but in ERR_SUPP. -/
theorem raiseOpen_trace (s : State) (cls : EvClass) (unit : W16) (data : List W32) :
    ∃ r, (s.raiseOpen cls unit data).ras.trace.head? = some r ∧ r.tick = s.tick.now := by
  unfold State.raiseOpen
  dsimp only
  rw [((delivers_mgtRecord _ _).after (delivers_hostRecord _ _)).trace]
  exact ⟨_, rfl, rfl⟩

theorem raiseOpen_counts (s : State) (cls : EvClass) (unit : W16) (data : List W32) {off : Nat} (k : Nat) (hne : offSupp ≠ off) :
    (s.raiseOpen cls unit data).hostBank.count off k = s.hostBank.count off k := by
  unfold State.raiseOpen
  dsimp only
  exact ((delivers_mgtRecord _ _).after (delivers_hostRecord _ _)).counts off k hne

/-! ### Parts of the state that stay -/

/-- What tells of an event leaves every other part. -/
theorem Tells.same {s t : State} (h : Tells s t) {x : Part} (hx : x ∉ telling) : Same s t x := by
  cases x with
  | mode => exact h.mode
  | memUnit => exact h.memUnit
  | ctxs => exact h.ctxs
  | vault => exact h.vault
  | rings => exact h.rings
  | sched => exact h.sched
  | slices => exact h.slices
  | dma => exact h.dma
  | tick => exact h.tick
  | fab => exact h.fab
  | cle => exact h.cle
  | jobs => exact h.jobs
  | jobChanges => exact h.jobChanges
  | pvs => exact h.pvs
  | mir => exact h.mir
  | boot => exact h.boot
  | power => exact h.power
  | serve => exact h.serve
  | pending => exact h.pending
  | mem | ras | pcie | mgt | cfgErr | banks => simp [telling] at hx

/-- A state in which rings and the PCI Express function differ has every other part the same. -/
theorem same_rings_pcie (s : State) (rings : Vector Ring 65) (pcie : Pcie) {x : Part} (hpcie : x ≠ .pcie) (hrings : x = .rings → rings = s.rings) :
    Same s { s with rings, pcie } x := by
  cases x with
  | pcie => exact absurd rfl hpcie
  | rings => exact hrings rfl
  | banks => exact ⟨rfl, rfl, rfl⟩
  | _ => rfl

/-! ### Errors (R503) -/

/-- A PCI Express error counted and passed to RAS, with a class and a unit that R503 leaves open (log entry 26). -/
def State.tellPcieError (s : State) : State :=
  { s.count offPcieErr 0 1 with free := s.free + 1 }.raiseOpen (classOf (Fin.ofNat 4 (Config.freeNat s.free))) ((Config.freeWord s.free).setWidth 16)

theorem tells_tellPcieError (s : State) : Tells s s.tellPcieError := tells_raiseOpen (tells_count (.rfl' s) ..).put ..

theorem ring_tellPcieError (s : State) (r : RingId) : s.tellPcieError.ring r = s.ring r := congrArg (·[r]) (tells_tellPcieError s).rings

theorem tellPcieError_count (s : State) :
    s.tellPcieError.hostBank.count offPcieErr 0 = min (2 ^ 32 - 1) (s.hostBank.count offPcieErr 0 + 1) :=
  (raiseOpen_counts _ _ _ _ 0 (by decide)).trans (count_hostBank_self s offPcieErr 0 1)

theorem tellPcieError_trace (s : State) : ∃ r, s.tellPcieError.ras.trace.head? = some r ∧ r.tick = s.tick.now := raiseOpen_trace ..

/-- A correctable error is counted and told. -/
theorem pcieError_correctable (s : State) (r : Option (Fin 64)) (y : Bool) : s.pcieError false r y = s.tellPcieError := by
  cases r <;> rfl

/-- An uncorrectable error on a host ring that runs puts that ring in ERROR besides. -/
theorem pcieError_uncorrectable {s : State} {r : Fin 64} (y : Bool) (hrun : (s.ring r.castSucc).state = .running)
    (hhost : (s.ring r.castSucc).core = false) :
    s.pcieError true (some r) y = s.tellPcieError.ringError r.castSucc (if y then 4 else 2) := by
  have hhit : ((s.tellPcieError.ring r.castSucc).state == .running && !(s.tellPcieError.ring r.castSucc).core) = true := by
    rw [ring_tellPcieError, hrun, hhost]
    rfl
  exact if_pos hhit

/-- A host ring that enters ERROR raises its vector with the host, and nothing else changes. -/
theorem ringError_host {s : State} {r : RingId} (err : Nat) (hhost : (s.ring r).core = false) :
    ∃ pcie, s.ringError r err = { s.modRing r fun x => { x with state := .error, err } with pcie } := by
  have hevent : s.ringError r err = (s.modRing r fun x => { x with state := .error, err }).msix r.val := by
    unfold State.ringError State.ringEvent
    rw [ring_modRing_self]
    exact if_neg (by simp [hhost])
  rw [hevent, State.msix]
  split <;> exact ⟨_, rfl⟩

/-! ### The rows -/

section
variable {s : State} {i : Instr}

theorem exec_unpowered (h : s.pciePowered = false) (hi : i ∈ [Instr.perstN, .pcieLinkLoss, .functionLevelReset]) : exec i s = .next s := by
  have hrow {t : State} : (if s.pciePowered then t else s) = s := if_neg (by simp [h])
  simp only [List.mem_cons, List.not_mem_nil, or_false] at hi
  obtain rfl | rfl | rfl := hi <;> exact congrArg Host.Outcome.next hrow

theorem exec_hostLoss (h : s.pciePowered = true) (hi : i ∈ [Instr.perstN, .pcieLinkLoss]) : exec i s = .next s.hostLoss := by
  simp only [List.mem_cons, List.not_mem_nil, or_false] at hi
  obtain rfl | rfl := hi <;> exact congrArg Host.Outcome.next (if_pos h)

theorem exec_functionLevelReset (h : s.pciePowered = true) : exec .functionLevelReset s = .next s.functionReset :=
  congrArg Host.Outcome.next (if_pos h)

/-- The row of an error. -/
theorem exec_pcieAerError (u : Bool) (r : Option (Fin 64)) (y : Bool) :
    exec (.pcieAerError u r y) s = .next (if s.pciePowered then s.pcieError u r y else s) := rfl

/-- The row of a link that comes up (R500). -/
theorem exec_pcieLinkUp (gen : Fin 8) (width : Fin 32) (flit : Bool) : exec (.pcieLinkUp gen width flit) s =
    .next (if s.pciePowered && linkLegal gen width flit then { s with pcie := { s.pcie with up := true, gen, width, flit } } else s) := rfl

/-- The row of an uncorrectable error on a host ring that runs: told, and that ring in ERROR. -/
theorem exec_pcieAerError_hostRing {r : Fin 64} (y : Bool) (h : s.pciePowered = true) (hrun : (s.ring r.castSucc).state = .running)
    (hhost : (s.ring r.castSucc).core = false) : ∃ pcie, exec (.pcieAerError true (some r) y) s =
      .next { s.tellPcieError.modRing r.castSucc fun x => { x with state := .error, err := if y then 4 else 2 } with pcie } := by
  obtain ⟨pcie, herror⟩ := ringError_host (s := s.tellPcieError) (if y then 4 else 2) (by rwa [ring_tellPcieError])
  exact ⟨pcie, by rw [exec_pcieAerError, if_pos h, pcieError_uncorrectable y hrun hhost, herror]⟩

/-- What the loss of the link changes, without host transfers (R502). -/
theorem changes_hostLoss (h : s.pciePowered = true) (hi : i ∈ [Instr.perstN, .pcieLinkLoss]) (hidle : s.NoHostTransfer) :
    Changes i s [.pcie, .rings] fun t => t.pcie.up = false ∧ t.pcie.msix = s.pcie.msix ∧
      ∀ r, t.ring r = if r ∈ s.hostRings then (s.ring r).lost else s.ring r := by
  obtain ⟨rings, flr, hloss⟩ := hostLoss_ringsOnly hidle
  refine ⟨_, exec_hostLoss h hi, fun x hx => ?_, ?_, ?_, ring_hostLoss hidle⟩
  · rw [hloss]
    exact same_rings_pcie s rings _ (by rintro rfl; simp at hx) (by rintro rfl; simp at hx)
  · rw [hloss]; rfl
  · rw [hloss]; rfl

end

/-- The host rings that ran, as the statement writes them. -/
theorem hostRing_lost (s : State) (r : RingId) : (if r ∈ s.hostRings then (s.ring r).lost else s.ring r) =
    if r ≠ mgtRing ∧ (s.ring r).core = false ∧ (s.ring r).state = .running then { s.ring r with state := .error, err := 2 } else s.ring r := by
  by_cases hr : r ∈ s.hostRings
  · obtain ⟨hmgt, hcore⟩ := mem_hostRings.1 hr
    simp [Ring.lost, hr, hmgt, hcore]
  · rw [if_neg hr, if_neg fun ⟨hmgt, hcore, _⟩ => hr (mem_hostRings.2 ⟨hmgt, hcore⟩)]

end Sys2Proof.Machine

open Sys2Proof Sys2Proof.Machine

/-- Settles O50. The loss of the link is a pass over the host rings, a function-level reset a second one that ends them; an error is told
before its ring enters ERROR, and what tells of it leaves the rings. -/
theorem pcieFunction : Obligations.PcieFunction := by
  intro s
  refine ⟨fun i hi hoff => ⟨s, exec_unpowered hoff hi, rfl⟩, fun u r y hoff => ⟨s, by rw [exec_pcieAerError, hoff]; rfl, rfl⟩,
    fun i hi hon hidle => ?_, fun hon hcmds hidle => ?_, fun hon r y => ?_, fun r y hon hrun hhost => ?_,
    fun gen width flit => ⟨fun hon hlegal => ?_, fun h => ?_⟩⟩
  · simpa only [hostRing_lost] using changes_hostLoss hon hi hidle
  · obtain ⟨rings, flr, hreset⟩ := functionReset_ringsOnly hidle
    refine ⟨_, exec_functionLevelReset hon, ?_, ?_, ?_, ?_, ?_, fun r hm hc => functionReset_hostRing hidle hcmds (mem_hostRings.2 ⟨hm, hc⟩),
      fun r hc hm => functionReset_otherRing hidle hcmds fun hr => ?_⟩
    · rw [hreset]; rfl
    · rw [hreset]; rfl
    · rw [hreset]; exact hcmds
    · rw [hreset]; rfl
    · rw [hreset]; rfl
    · simp [mem_hostRings, hc] at hr
  · have htold := tells_tellPcieError s
    exact ⟨s.tellPcieError, by rw [exec_pcieAerError, if_pos hon, pcieError_correctable], fun _ => htold.same, htold.rings, tellPcieError_count s,
      tellPcieError_trace s⟩
  · have htold := tells_tellPcieError s
    obtain ⟨pcie, hrow⟩ := exec_pcieAerError_hostRing y hon hrun hhost
    refine ⟨_, hrow, fun x hx => ?_, ?_, ?_, htold.boot, tellPcieError_count s, tellPcieError_trace s, fun q hq => ?_⟩
    · obtain ⟨hr, ht⟩ := not_or.1 (List.mem_cons.not.1 hx)
      exact (htold.same ht).trans (same_rings_pcie _ _ _ (fun e => ht (e ▸ by decide)) fun e => absurd e hr)
    · exact congrArg Ring.state (ring_modRing_self ..)
    · exact congrArg Ring.err (ring_modRing_self ..)
    · exact (ring_modRing_ne _ _ hq.symm).trans (ring_tellPcieError s q)
  · exact ⟨_, by rw [exec_pcieLinkUp, hon, hlegal]; rfl, fun x hx => same_rings_pcie s s.rings _ (by simpa using hx) fun _ => rfl, rfl⟩
  · exact ⟨s, by rw [exec_pcieLinkUp, if_neg (by rcases h with h | h <;> simp [h])], rfl⟩

end
